-- ==== Sys2Proof/Word.lean ====
section
/-! DEFINITION. The bit-vector widths the manual treats as words: R1 (bit numbering, little-endian storage), R59, R63, R84. -/

namespace Sys2Proof

/-- A 32-bit register lane, scalar register or instruction word (R59, R63, R157). -/
abbrev Word := BitVec 32

/-- A 64-bit register pair or address (R60, R63, R102). -/
abbrev DWord := BitVec 64

/-- One byte of memory. -/
abbrev Byte := BitVec 8

/-- A bound16 code (R81). -/
abbrev Bnd := BitVec 16

/-- A 32-bit lane mask, in which bit i stands for lane i (R38). -/
abbrev Mask := BitVec 32

/-- The bound code that means exact (R81). -/
def bndExact : Bnd := 0x0000#16

/-- The bound code the hardware writes for unbounded (R81). -/
def bndInf : Bnd := 0xFF00#16

/-- One lane of a vector register: 32 bits and their bound (R59). -/
structure LV where
  val : Word
  bnd : Bnd
deriving DecidableEq, Repr

/-- A lane that holds zero, exact: what a register holds at warp start (R59). -/
def LV.zero : LV := ⟨0, bndExact⟩

end Sys2Proof
end

