-- ==== Sys2Proof/Syntax.lean ====
section
/-! DEFINITION. The instructions of the Selevin set and the other steps of the package, as syntax: R157 to R181, and
the operations and events of the table (95_what_each_step_holds.md). -/

namespace Sys2Proof

/-- A scalar register s0 to s63 (R63). -/
abbrev SReg := BitVec 6

/-- A vector register v0 to v127 (R59). -/
abbrev VReg := BitVec 7

/-- A lane-mask register k0 to k11 (R38); 12 to 15 are not well formed. -/
abbrev KReg := BitVec 4

/-- A source operand (R166). -/
inductive Src where
  | v (r : VReg)
  | s (r : SReg)
  /-- An integer constant 0 to 31 (codes 0xC0 to 0xDF). -/
  | int (n : BitVec 5)
  /-- An f32 constant (codes 0xE0 to 0xE7). -/
  | fk (c : BitVec 3)
  | l0 | l1 | l2
  | laneid
  | exm
  | sc
deriving DecidableEq, Repr

/-- Rounding modes (R76). -/
inductive Rnd where
  | rne | rz | rd | ru
deriving DecidableEq, Repr

/-- Element formats and their type codes, in the order of the codes (R74). -/
inductive Fmt where
  | f32 | f16 | bf16 | e4m3 | e5m2 | e2m1 | e8m0 | s8 | s16 | s32 | n8 | n16 | n32 | s64 | n64 | bnd
deriving DecidableEq, Repr

/-- Scopes (R125). -/
inductive Scope where
  | wp | core | grp | dev | pool | sys
deriving DecidableEq, Repr

/-- Orders of a memory instruction (R128). -/
inductive Order where
  | plain | acq | rel | ar
deriving DecidableEq, Repr

/-- GMEM access widths (R174). -/
inductive Width where
  | b8 | b16 | b32 | b64 | b128 | s8 | s16
deriving DecidableEq, Repr

/-- Atomic operations (R174). -/
inductive Aop where
  | iadd | iminS | iminN | imaxS | imaxN | and | or | xor | xchg | faddF32 | fminF32 | fmaxF32 | faddBf16x2
deriving DecidableEq, Repr

/-- Compare conditions; the c-forms are the certain ones (R172, R207). -/
inductive Cond where
  | eq | ne | lt | le | gt | ge | ord | uno | ceq | cne | clt | cle | cgt | cge
deriving DecidableEq, Repr

/-- Operations of redux and scan (R218). -/
inductive RedOp where
  | iadd | iminS | iminN | imaxS | imaxN | and | or | xor | fadd | fmin | fmax
deriving DecidableEq, Repr

/-- Shuffle segment widths (R217). -/
inductive Seg where
  | w32 | w2 | w4 | w8 | w16
deriving DecidableEq, Repr

/-- Reduction operations of copies and collectives (R181). -/
inductive Rop where
  | add | min | max
deriving DecidableEq, Repr

/-- Logical B shapes (R179, R258). -/
inductive BShape where
  | k64 | k128 | k256
deriving DecidableEq, Repr

/-- A predicate field: 0 for none, 1 to 11 for a mask register, and its complement bit (R164). -/
structure Pred where
  k : KReg
  neg : Bool
deriving DecidableEq, Repr

/-- The modifiers and destination of a VWIDE instruction (R164, R195, R196). -/
structure Wide where
  d : VReg
  nw : Bool
  /-- 0 none, 1 to 3 for l0 to l2 (R196). -/
  cap : BitVec 2
  pred : Pred
  xl : BitVec 4
  neg : BitVec 3
  abs : Bool
  rnd : Rnd
  /-- 0 governed, 1 at most P1, 2 P0 only (R91). -/
  prec : BitVec 2
deriving DecidableEq, Repr

/-- The fields of a GMEM instruction (R164, R174, R224). -/
structure Gmem where
  vdata : VReg
  pair : BitVec 5
  voff : VReg
  dc : BitVec 3
  imm : BitVec 12
  width : Width
  scope : Scope
  order : Order
  aop : Aop
  rp : Bool
  chk : Bool
  novoff : Bool
  hint : BitVec 4
deriving DecidableEq, Repr

/-- A matrix operand specifier, inline or in a scalar register (R179, R180). -/
inductive MatSpec where
  | inline (bits : Word)
  | reg (s : SReg)
deriving DecidableEq, Repr

/-- How a copy signals its completion: a counter (7 for none) and a transaction barrier (R181). -/
structure Done where
  dc : BitVec 3
  txb : Option SReg
deriving DecidableEq, Repr

/-- The causes of Illegal Instruction that a word alone decides (R397); the number is the cause code. -/
inductive IllCause where
  /-- 0x01: format code 0xD. -/
  | fmtReserved
  /-- 0x02: format code 0xE, the software extension space. -/
  | fmtExtension
  /-- 0x03: format code 0xF in an instruction position. -/
  | fmtHeader
  /-- 0x04: an opcode or sub-opcode that is not allocated. -/
  | opcode
  /-- 0x05: a non-zero reserved field. -/
  | reserved
  /-- 0x06: an excluded field value or combination. -/
  | value
  /-- 0x07: a misaligned pair or quad. -/
  | align
  /-- 0x08: a format the class does not admit, or a terminator that is not last. -/
  | cls
  /-- 0x09: a clause reached in sequence whose first word is not a header. -/
  | notHeader
  /-- 0x0D: k0 as a destination. -/
  | k0
deriving DecidableEq, Repr

/-- Energy measured in one sample, in nJ (R378): what the rails and the byte counts give the metering unit. -/
structure EnergyIn where
  /-- Cores with their energy and their share of their die's. -/
  cores : List (Nat × Nat)
  /-- Shared units with their energy: 0 to 15 the HBM4 controllers, two to a domain, 16 to 19 a pool port, 20 the host port, 21 Yunel
  Link, 22 the Causeway's bridges, 23 the hub. -/
  shared : List (Nat × Nat)
  /-- Idle energy, but for viral domains. -/
  idle : Nat
  /-- Viral domains with their energy (R461). -/
  viral : List (Nat × Nat) := []
deriving DecidableEq, Repr

/-- One firmware image of boot flash: its bytes, its signature and its security version (R381). -/
structure BootImage where
  bytes : List Byte
  sig : List Byte
  version : Nat
deriving DecidableEq, Repr

/-- One setting that a configuration record carries: a hub register offset and its value (R381, R348). -/
structure ConfigSetting where
  off : Nat
  val : DWord
deriving DecidableEq, Repr

/-- One configuration record of boot flash (R381). -/
structure ConfigRecord where
  bytes : List Byte
  sig : List Byte
  version : Nat
  settings : List ConfigSetting
  /-- The chip that it names as the pod's time master (R384). -/
  master : Option Nat := none
deriving DecidableEq, Repr

/-- What the security processor finds in boot flash at power-up (R381), and which units answer. -/
structure BootFlash where
  primary : BootImage
  alternate : BootImage
  minVersion : Nat
  records : List ConfigRecord
  /-- The dies that come out of reset, as a die mask (R7, R383). -/
  dies : BitVec 8
deriving DecidableEq, Repr

/-- A Yunel Link flit as received (R346). `good` says that its CRC agrees. -/
structure Flit where
  dest : BitVec 12
  src : BitVec 12
  vc : BitVec 8
  ack : BitVec 16
  seq : Word
  payload : List Byte
  good : Bool
deriving DecidableEq, Repr

/-- The width a port trained at (R453). -/
inductive LinkWidth where
  | two | four | eight
deriving DecidableEq, Repr

/-- What an incoming aperture access does (R350). -/
inductive ApertureKind where
  | read (len : Nat)
  | write (data : List Byte)
  | atomic (op : Aop) (wide : Bool) (operand : DWord)
  | cas (wide : Bool) (cmp swp : DWord)
deriving DecidableEq, Repr

/-- An incoming access from the host port's BAR2 of a function, or from Yunel Link (R350, R351). -/
structure ApertureAcc where
  fromHost : Bool
  vf : Nat
  index : Nat
  offset : Nat
  kind : ApertureKind
  /-- The chip that an access from Yunel Link comes from. -/
  src : Nat := 0
deriving DecidableEq, Repr

/-- What an HDM decoder of a pool port names (R353): its number, and the host physical addresses from `lo` to before `hi`. -/
structure HdmRange where
  dec : Nat
  lo : Nat
  hi : Nat
deriving DecidableEq, Repr

/-- The body of a REQUEST, REPLICATE, NOTICE or UNKNOWN (R359). -/
structure ColMsg where
  id : BitVec 16
  call : Word
  milepost : Word
  kind : BitVec 4
  ty : BitVec 4
  rop : BitVec 3
  root : BitVec 16
  count : Word
deriving DecidableEq, Repr

/-- Where an uncorrectable error strikes a sector (R431, R462). -/
inductive EccSite where
  | hbm (domain pa : Nat)
  | l2 (domain asid va : Nat)
  | poolCache (asid va : Nat)
  | l1 (core asid va : Nat)
  | scratchpad (core block offset : Nat)
deriving DecidableEq, Repr

/-- The instructions and the steps of the machine: one constructor for each row of the opcode table:
first the words with operands, then the words without, then the steps that no word stands for. -/
inductive Instr where
  /-- CLAUSE_HEADER (R160). Once every counter named in its wait mask is zero and all its words are fetched, a PC group enters a clause header and the clause begins to issue. -/
  | clauseHeader (n : BitVec 4) (cls : BitVec 3) (wait : BitVec 6) (yieldHint : Bool)
  /-- S_IADD_B32 (R197). Scalar 32-bit add. -/
  | sIaddB32 (d : SReg) (a b : Src)
  /-- S_ISUB_B32 (R197). Scalar 32-bit subtract. -/
  | sIsubB32 (d : SReg) (a b : Src)
  /-- S_IMUL_B32 (R197). Scalar 32-bit multiply, low word. -/
  | sImulB32 (d : SReg) (a b : Src)
  /-- IMULHI_S32 (R197). Scalar signed multiply, high word. -/
  | imulhiS32 (d : SReg) (a b : Src)
  /-- IMULHI_N32 (R197). Scalar unsigned multiply, high word. -/
  | imulhiN32 (d : SReg) (a b : Src)
  /-- S_AND (R197). Scalar bitwise and. -/
  | sAnd (d : SReg) (a b : Src)
  /-- S_OR (R197). Scalar bitwise or. -/
  | sOr (d : SReg) (a b : Src)
  /-- S_XOR (R197). Scalar bitwise exclusive or. -/
  | sXor (d : SReg) (a b : Src)
  /-- ANDN (R197). Scalar a and not b. -/
  | andn (d : SReg) (a b : Src)
  /-- S_SHL (R197). Scalar shift left. -/
  | sShl (d : SReg) (a b : Src)
  /-- S_SHR_N32 (R197). Scalar logical shift right. -/
  | sShrN32 (d : SReg) (a b : Src)
  /-- S_SHR_S32 (R197). Scalar arithmetic shift right. -/
  | sShrS32 (d : SReg) (a b : Src)
  /-- S_IMIN_S32 (R197). Scalar signed minimum. -/
  | sIminS32 (d : SReg) (a b : Src)
  /-- S_IMIN_N32 (R197). Scalar unsigned minimum. -/
  | sIminN32 (d : SReg) (a b : Src)
  /-- S_IMAX_S32 (R197). Scalar signed maximum. -/
  | sImaxS32 (d : SReg) (a b : Src)
  /-- S_IMAX_N32 (R197). Scalar unsigned maximum. -/
  | sImaxN32 (d : SReg) (a b : Src)
  /-- S_IADD_B64 (R197). Scalar 64-bit add of pairs. -/
  | sIaddB64 (d : SReg) (a b : Src)
  /-- ISUB_B64 (R197). Scalar 64-bit subtract of pairs. -/
  | isubB64 (d : SReg) (a b : Src)
  /-- SHL_B64 (R197). Scalar 64-bit shift left. -/
  | shlB64 (d : SReg) (a b : Src)
  /-- SHR_N64 (R197). Scalar 64-bit logical shift right. -/
  | shrN64 (d : SReg) (a b : Src)
  /-- SHR_S64 (R197). Scalar 64-bit arithmetic shift right. -/
  | shrS64 (d : SReg) (a b : Src)
  /-- S_BFE_N32 (R198). Scalar unsigned bit-field extract. -/
  | sBfeN32 (d : SReg) (a b : Src)
  /-- S_BFE_S32 (R198). Scalar signed bit-field extract. -/
  | sBfeS32 (d : SReg) (a b : Src)
  /-- S_BFI_B32 (R198). Scalar bit-field insert into sdst. -/
  | sBfiB32 (d : SReg) (a b : Src)
  /-- SEL_B32 (R197). Scalar select on sc. -/
  | selB32 (d : SReg) (a b : Src)
  /-- CMP_EQ_B32 (R199). Scalar compare equal, into sc. -/
  | cmpEqB32 (a b : Src)
  /-- CMP_NE_B32 (R199). Scalar compare not equal, into sc. -/
  | cmpNeB32 (a b : Src)
  /-- CMP_LT_S32 (R199). Scalar signed less-than, into sc. -/
  | cmpLtS32 (a b : Src)
  /-- CMP_LE_S32 (R199). Scalar signed less-or-equal, into sc. -/
  | cmpLeS32 (a b : Src)
  /-- CMP_LT_N32 (R199). Scalar unsigned less-than, into sc. -/
  | cmpLtN32 (a b : Src)
  /-- CMP_LE_N32 (R199). Scalar unsigned less-or-equal, into sc. -/
  | cmpLeN32 (a b : Src)
  /-- CMP_EQ_B64 (R199). Scalar 64-bit compare equal, into sc. -/
  | cmpEqB64 (a b : Src)
  /-- CMP_NE_B64 (R199). Scalar 64-bit compare not equal, into sc. -/
  | cmpNeB64 (a b : Src)
  /-- S_POPC (R197). Scalar population count. -/
  | sPopc (d : SReg) (a : Src)
  /-- S_CLZ (R197). Scalar count of leading zeros. -/
  | sClz (d : SReg) (a : Src)
  /-- CTZ (R197). Scalar count of trailing zeros. -/
  | ctz (d : SReg) (a : Src)
  /-- MOVK (R200). Loads a sign-extended 16-bit immediate into a scalar register. -/
  | movk (d : SReg) (imm : BitVec 16)
  /-- MOVHI (R200). Replaces the high half of a scalar register with an immediate. -/
  | movhi (d : SReg) (imm : BitVec 16)
  /-- IADDK (R200). Adds a sign-extended immediate to a scalar register. -/
  | iaddk (d : SReg) (imm : BitVec 16)
  /-- CMPK_EQ (R200). Compares a scalar register with an immediate for equality, into sc. -/
  | cmpkEq (d : SReg) (imm : BitVec 16)
  /-- CMPK_LT_S32 (R200). Signed less-than against an immediate, into sc. -/
  | cmpkLtS32 (d : SReg) (imm : BitVec 16)
  /-- CMPK_LT_N32 (R200). Unsigned less-than against an immediate, into sc. -/
  | cmpkLtN32 (d : SReg) (imm : BitVec 16)
  /-- MULK (R200). Multiplies a scalar register by a sign-extended immediate. -/
  | mulk (d : SReg) (imm : BitVec 16)
  /-- V_IADD_B32 (R197). Vector 32-bit add. -/
  | vIaddB32 (d : VReg) (a b : Src)
  /-- V_ISUB_B32 (R197). Vector 32-bit subtract. -/
  | vIsubB32 (d : VReg) (a b : Src)
  /-- V_IMUL_B32 (R197). Vector 32-bit multiply. -/
  | vImulB32 (d : VReg) (a b : Src)
  /-- V_AND (R197). Vector bitwise and. -/
  | vAnd (d : VReg) (a b : Src)
  /-- V_OR (R197). Vector bitwise or. -/
  | vOr (d : VReg) (a b : Src)
  /-- V_XOR (R197). Vector bitwise exclusive or. -/
  | vXor (d : VReg) (a b : Src)
  /-- V_SHL (R197). Vector shift left. -/
  | vShl (d : VReg) (a b : Src)
  /-- V_SHR_N32 (R197). Vector logical shift right. -/
  | vShrN32 (d : VReg) (a b : Src)
  /-- V_SHR_S32 (R197). Vector arithmetic shift right. -/
  | vShrS32 (d : VReg) (a b : Src)
  /-- V_IMIN_S32 (R197). Vector signed minimum. -/
  | vIminS32 (d : VReg) (a b : Src)
  /-- V_IMIN_N32 (R197). Vector unsigned minimum. -/
  | vIminN32 (d : VReg) (a b : Src)
  /-- V_IMAX_S32 (R197). Vector signed maximum. -/
  | vImaxS32 (d : VReg) (a b : Src)
  /-- V_IMAX_N32 (R197). Vector unsigned maximum. -/
  | vImaxN32 (d : VReg) (a b : Src)
  /-- V_FADD_F32 (R201). Governed FP32 add, rounded RNE. -/
  | vFaddF32 (d : VReg) (a b : Src)
  /-- V_FSUB_F32 (R201). Governed FP32 subtract, rounded RNE. -/
  | vFsubF32 (d : VReg) (a b : Src)
  /-- V_FMUL_F32 (R201). Governed FP32 multiply, rounded RNE. -/
  | vFmulF32 (d : VReg) (a b : Src)
  /-- V_FMIN_F32 (R202). FP32 minimum. -/
  | vFminF32 (d : VReg) (a b : Src)
  /-- V_FMAX_F32 (R202). FP32 maximum. -/
  | vFmaxF32 (d : VReg) (a b : Src)
  /-- V_MOV_B32 (R197). Vector move with its bound. -/
  | vMovB32 (d : VReg) (a : Src)
  /-- V_FADD_F16X2 (R203). Packed f16 add. -/
  | vFaddF16x2 (d : VReg) (a b : Src)
  /-- V_FMUL_F16X2 (R203). Packed f16 multiply. -/
  | vFmulF16x2 (d : VReg) (a b : Src)
  /-- V_FADD_BF16X2 (R203). Packed bf16 add. -/
  | vFaddBf16x2 (d : VReg) (a b : Src)
  /-- V_FMUL_BF16X2 (R203). Packed bf16 multiply. -/
  | vFmulBf16x2 (d : VReg) (a b : Src)
  /-- W_IADD_B32 (R197). VWIDE 32-bit add. -/
  | wIaddB32 (m : Wide) (a b : Src)
  /-- W_ISUB_B32 (R197). VWIDE 32-bit subtract. -/
  | wIsubB32 (m : Wide) (a b : Src)
  /-- W_IMUL_B32 (R197). VWIDE 32-bit multiply. -/
  | wImulB32 (m : Wide) (a b : Src)
  /-- W_AND (R197). VWIDE bitwise and. -/
  | wAnd (m : Wide) (a b : Src)
  /-- W_OR (R197). VWIDE bitwise or. -/
  | wOr (m : Wide) (a b : Src)
  /-- W_XOR (R197). VWIDE bitwise exclusive or. -/
  | wXor (m : Wide) (a b : Src)
  /-- W_SHL (R197). VWIDE shift left. -/
  | wShl (m : Wide) (a b : Src)
  /-- W_SHR_N32 (R197). VWIDE logical shift right. -/
  | wShrN32 (m : Wide) (a b : Src)
  /-- W_SHR_S32 (R197). VWIDE arithmetic shift right. -/
  | wShrS32 (m : Wide) (a b : Src)
  /-- W_IMIN_S32 (R197). VWIDE signed minimum. -/
  | wIminS32 (m : Wide) (a b : Src)
  /-- W_IMIN_N32 (R197). VWIDE unsigned minimum. -/
  | wIminN32 (m : Wide) (a b : Src)
  /-- W_IMAX_S32 (R197). VWIDE signed maximum. -/
  | wImaxS32 (m : Wide) (a b : Src)
  /-- W_IMAX_N32 (R197). VWIDE unsigned maximum. -/
  | wImaxN32 (m : Wide) (a b : Src)
  /-- W_FADD_F32 (R201). Governed FP32 add with modifiers. -/
  | wFaddF32 (m : Wide) (a b : Src)
  /-- W_FSUB_F32 (R201). Governed FP32 subtract with modifiers. -/
  | wFsubF32 (m : Wide) (a b : Src)
  /-- W_FMUL_F32 (R201). Governed FP32 multiply with modifiers. -/
  | wFmulF32 (m : Wide) (a b : Src)
  /-- W_FMIN_F32 (R202). FP32 minimum with modifiers. -/
  | wFminF32 (m : Wide) (a b : Src)
  /-- W_FMAX_F32 (R202). FP32 maximum with modifiers. -/
  | wFmaxF32 (m : Wide) (a b : Src)
  /-- W_MOV_B32 (R197). Vector move with modifiers. -/
  | wMovB32 (m : Wide) (a : Src)
  /-- W_FADD_F16X2 (R203). Packed f16 add with modifiers. -/
  | wFaddF16x2 (m : Wide) (a b : Src)
  /-- W_FMUL_F16X2 (R203). Packed f16 multiply with modifiers. -/
  | wFmulF16x2 (m : Wide) (a b : Src)
  /-- W_FADD_BF16X2 (R203). Packed bf16 add with modifiers. -/
  | wFaddBf16x2 (m : Wide) (a b : Src)
  /-- W_FMUL_BF16X2 (R203). Packed bf16 multiply with modifiers. -/
  | wFmulBf16x2 (m : Wide) (a b : Src)
  /-- FFMA_F32 (R201). Governed FP32 fused multiply-add. -/
  | ffmaF32 (m : Wide) (a b c : Src)
  /-- FFMA_F16X2 (R203). Packed f16 fused multiply-add. -/
  | ffmaF16x2 (m : Wide) (a b c : Src)
  /-- FFMA_BF16X2 (R203). Packed bf16 fused multiply-add. -/
  | ffmaBf16x2 (m : Wide) (a b c : Src)
  /-- IMAD (R197). Integer multiply-add, low word. -/
  | imad (m : Wide) (a b c : Src)
  /-- IMADHI_S32 (R197). Signed multiply high word plus c. -/
  | imadhiS32 (m : Wide) (a b c : Src)
  /-- IMADHI_N32 (R197). Unsigned multiply high word plus c. -/
  | imadhiN32 (m : Wide) (a b c : Src)
  /-- IMADW_N32 (R197). Unsigned widening multiply-add into a pair. -/
  | imadwN32 (m : Wide) (a b c : Src)
  /-- IMADW_S32 (R197). Signed widening multiply-add into a pair. -/
  | imadwS32 (m : Wide) (a b c : Src)
  /-- W_BFE_N32 (R198). Vector unsigned bit-field extract. -/
  | wBfeN32 (m : Wide) (a b : Src)
  /-- W_BFE_S32 (R198). Vector signed bit-field extract. -/
  | wBfeS32 (m : Wide) (a b : Src)
  /-- W_BFI_B32 (R198). Vector bit-field insert. -/
  | wBfiB32 (m : Wide) (a b c : Src)
  /-- LEA_B64 (R197). 64-bit address computation into a pair. -/
  | leaB64 (m : Wide) (a b c : Src)
  /-- W_IADD_B64 (R197). Vector 64-bit add into a pair. -/
  | wIaddB64 (m : Wide) (a b : Src)
  /-- DOT4_S8 (R197). Four-way s8 dot product plus c. -/
  | dot4S8 (m : Wide) (a b c : Src)
  /-- DOT2_F16 (R204). Two-way f16 dot product plus FP32 c, rounded once. -/
  | dot2F16 (m : Wide) (a b c : Src)
  /-- DOT2_BF16 (R204). Two-way bf16 dot product plus FP32 c, rounded once. -/
  | dot2Bf16 (m : Wide) (a b c : Src)
  /-- FCLAMP_F32 (R202). FP32 clamp of x between lo and hi. -/
  | fclampF32 (m : Wide) (a b c : Src)
  /-- W_POPC (R197). Vector population count. -/
  | wPopc (m : Wide) (a : Src)
  /-- W_CLZ (R197). Vector count of leading zeros. -/
  | wClz (m : Wide) (a : Src)
  /-- BREV (R197). Vector bit reverse. -/
  | brev (m : Wide) (a : Src)
  /-- CMP_F32 (R207). FP32 compare into a mask, plain or certain, setting %unc for uncertain lanes. -/
  | cmpF32 (d : KReg) (cond : Cond) (a b : Src)
  /-- CMP_F16 (R207). f16 compare into a mask. -/
  | cmpF16 (d : KReg) (cond : Cond) (a b : Src)
  /-- CMP_BF16 (R207). bf16 compare into a mask. -/
  | cmpBf16 (d : KReg) (cond : Cond) (a b : Src)
  /-- CMP_S32 (R207). Signed integer compare into a mask. -/
  | cmpS32 (d : KReg) (cond : Cond) (a b : Src)
  /-- CMP_N32 (R207). Unsigned integer compare into a mask. -/
  | cmpN32 (d : KReg) (cond : Cond) (a b : Src)
  /-- CMP_B64 (R207). 64-bit bit equality compare into a mask. -/
  | cmpB64 (d : KReg) (cond : Cond) (a b : Src)
  /-- KAND (R209). Mask and. -/
  | kand (d a b : KReg)
  /-- KOR (R209). Mask or. -/
  | kor (d a b : KReg)
  /-- KXOR (R209). Mask exclusive or. -/
  | kxor (d a b : KReg)
  /-- KANDN (R209). Mask and-not. -/
  | kandn (d a b : KReg)
  /-- KNOT (R209). Mask complement. -/
  | knot (d a : KReg)
  /-- KMOV_K (R209). Mask to mask move. -/
  | kmovK (d a : KReg)
  /-- KMOV_FROM_S (R209). Scalar operand into a mask. -/
  | kmovFromS (d : KReg) (a : Src)
  /-- KMOV_TO_S (R209). Mask into a scalar register. -/
  | kmovToS (d : SReg) (a : KReg)
  /-- VOTE_BALLOT (R210). Mask of the effective lanes with non-zero source. -/
  | voteBallot (d : KReg) (a : Src)
  /-- VOTE_ANY (R210). All ones when some effective lane is non-zero. -/
  | voteAny (d : KReg) (a : Src)
  /-- VOTE_ALL (R210). All ones when every effective lane is non-zero. -/
  | voteAll (d : KReg) (a : Src)
  /-- CVT (R212). Converts one element between formats. -/
  | cvt (p : Pred) (d : VReg) (a : Src) (dt st : Fmt) (rnd : Rnd) (sat : Bool) (el : BitVec 3)
  /-- CVTPK (R213). Converts two FP32 values and packs them. -/
  | cvtpk (p : Pred) (d : VReg) (a b c : Src) (dt : Fmt) (rnd : Rnd) (sat : Bool) (pos : BitVec 2)
  /-- FRCP (R214). Correctly rounded reciprocal. -/
  | frcp (p : Pred) (d : VReg) (a : Src) (rnd : Rnd)
  /-- FRSQ (R214). Approximate reciprocal square root. -/
  | frsq (p : Pred) (d : VReg) (a : Src)
  /-- FSQRT (R214). Correctly rounded square root. -/
  | fsqrt (p : Pred) (d : VReg) (a : Src) (rnd : Rnd)
  /-- FDIV (R214). Correctly rounded division. -/
  | fdiv (p : Pred) (d : VReg) (a b : Src) (rnd : Rnd)
  /-- FEXP2 (R214). Approximate base-2 exponential. -/
  | fexp2 (p : Pred) (d : VReg) (a : Src)
  /-- FLOG2 (R214). Approximate base-2 logarithm. -/
  | flog2 (p : Pred) (d : VReg) (a : Src)
  /-- FSIN (R214). Approximate sine. -/
  | fsin (p : Pred) (d : VReg) (a : Src)
  /-- FCOS (R214). Approximate cosine. -/
  | fcos (p : Pred) (d : VReg) (a : Src)
  /-- FTANH (R214). Approximate hyperbolic tangent. -/
  | ftanh (p : Pred) (d : VReg) (a : Src)
  /-- FRND (R215). Rounds to an integral FP32 value. -/
  | frnd (p : Pred) (d : VReg) (a : Src) (rnd : Rnd)
  /-- FCLASS (R216). Classifies an FP32 value into one set bit. -/
  | fclass (p : Pred) (d : VReg) (a : Src)
  /-- FSCALE (R215). Multiplies by 2^n and rounds. -/
  | fscale (p : Pred) (d : VReg) (a b : Src) (rnd : Rnd)
  /-- SHFL_IDX (R217). Indexed shuffle within a segment. -/
  | shflIdx (p : Pred) (d : VReg) (a b : Src) (seg : Seg) (own : Bool)
  /-- SHFL_UP (R217). Shuffle from a lower lane. -/
  | shflUp (p : Pred) (d : VReg) (a b : Src) (seg : Seg) (own : Bool)
  /-- SHFL_DOWN (R217). Shuffle from a higher lane. -/
  | shflDown (p : Pred) (d : VReg) (a b : Src) (seg : Seg) (own : Bool)
  /-- SHFL_XOR (R217). Butterfly shuffle. -/
  | shflXor (p : Pred) (d : VReg) (a b : Src) (seg : Seg) (own : Bool)
  /-- BCAST (R217). Broadcasts one lane's value to all effective lanes. -/
  | bcast (p : Pred) (d : VReg) (a b : Src)
  /-- REDUX (R218). Tree reduction over the effective lanes. -/
  | redux (p : Pred) (d : VReg) (a : Src) (op : RedOp)
  /-- SCAN (R218). Inclusive or exclusive prefix scan. -/
  | scan (p : Pred) (d : VReg) (a : Src) (op : RedOp) (excl : Bool)
  /-- MSEL (R219). Selects per lane by a mask register. -/
  | msel (p : Pred) (d : VReg) (a b : Src) (k : KReg)
  /-- BRD (R220). Reads a bound lane as a code or as FP32. -/
  | brd (p : Pred) (d : VReg) (a : Src) (asF32 : Bool)
  /-- BWR (R220). Writes a new bound, optionally its maximum with the old one. -/
  | bwr (p : Pred) (d : VReg) (a b : Src) (fromF32 raise : Bool)
  /-- BCLR (R220). Copies a value with bound 0x0000. -/
  | bclr (p : Pred) (d : VReg) (a : Src)
  /-- BCHK (R221). Applies the budget check and traps precisely on failing lanes. -/
  | bchk (p : Pred) (a : Src) (st : Fmt)
  /-- LD (R227). Global load, optionally acquire and remote-promoting. -/
  | ld (g : Gmem)
  /-- ST (R228). Global store, optionally release and checked. -/
  | st (g : Gmem)
  /-- ATOM (R229). Global atomic read-modify-write returning the old value. -/
  | atom (g : Gmem)
  /-- RED (R229). Global atomic without return. -/
  | red (g : Gmem)
  /-- CAS (R229). Global compare-and-swap. -/
  | cas (g : Gmem)
  /-- PF (R231). Prefetches lines into L1 without fault. -/
  | pf (g : Gmem)
  /-- SLD (R230). Scalar load from one global address. -/
  | sld (g : Gmem)
  /-- GLD (R227). Group-space load. -/
  | gld (g : Gmem)
  /-- GST (R228). Group-space store. -/
  | gst (g : Gmem)
  /-- GATOM (R229). Group-space atomic. -/
  | gatom (g : Gmem)
  /-- GCAS (R229). Group-space compare-and-swap. -/
  | gcas (g : Gmem)
  /-- LDS_B32 (R236). Scratchpad 32-bit load. -/
  | ldsB32 (d a : VReg) (imm : BitVec 9)
  /-- LDS_B64 (R236). Scratchpad 64-bit load. -/
  | ldsB64 (d a : VReg) (imm : BitVec 9)
  /-- LDS_B128 (R236). Scratchpad 128-bit load. -/
  | ldsB128 (d a : VReg) (imm : BitVec 9)
  /-- STS_B32 (R236). Scratchpad 32-bit store. -/
  | stsB32 (d a : VReg) (imm : BitVec 9)
  /-- STS_B64 (R236). Scratchpad 64-bit store. -/
  | stsB64 (d a : VReg) (imm : BitVec 9)
  /-- STS_B128 (R236). Scratchpad 128-bit store. -/
  | stsB128 (d a : VReg) (imm : BitVec 9)
  /-- LDS_N8 (R236). Scratchpad byte load, zero-extended. -/
  | ldsN8 (d a : VReg) (imm : BitVec 9)
  /-- LDS_S8 (R236). Scratchpad byte load, sign-extended. -/
  | ldsS8 (d a : VReg) (imm : BitVec 9)
  /-- LDS_N16 (R236). Scratchpad halfword load, zero-extended. -/
  | ldsN16 (d a : VReg) (imm : BitVec 9)
  /-- LDS_S16 (R236). Scratchpad halfword load, sign-extended. -/
  | ldsS16 (d a : VReg) (imm : BitVec 9)
  /-- STS_B8 (R236). Scratchpad byte store. -/
  | stsB8 (d a : VReg) (imm : BitVec 9)
  /-- STS_B16 (R236). Scratchpad halfword store. -/
  | stsB16 (d a : VReg) (imm : BitVec 9)
  /-- SATOM_IADD (R236). Scratchpad atomic add. -/
  | satomIadd (d a : VReg) (imm : BitVec 9)
  /-- SATOM_IMIN_S (R236). Scratchpad atomic signed minimum. -/
  | satomIminS (d a : VReg) (imm : BitVec 9)
  /-- SATOM_IMAX_S (R236). Scratchpad atomic signed maximum. -/
  | satomImaxS (d a : VReg) (imm : BitVec 9)
  /-- SATOM_CAS (R236). Scratchpad compare-and-swap. -/
  | satomCas (d a : VReg) (imm : BitVec 9)
  /-- SATOM_XCHG (R236). Scratchpad atomic exchange. -/
  | satomXchg (d a : VReg) (imm : BitVec 9)
  /-- SATOM_FADD_F32 (R236). Scratchpad atomic FP32 add. -/
  | satomFaddF32 (d a : VReg) (imm : BitVec 9)
  /-- SATOM_IMIN_N (R236). Scratchpad atomic unsigned minimum. -/
  | satomIminN (d a : VReg) (imm : BitVec 9)
  /-- SATOM_IMAX_N (R236). Scratchpad atomic unsigned maximum. -/
  | satomImaxN (d a : VReg) (imm : BitVec 9)
  /-- SATOM_OR (R236). Scratchpad atomic or. -/
  | satomOr (d a : VReg) (imm : BitVec 9)
  /-- SATOM_AND (R236). Scratchpad atomic and. -/
  | satomAnd (d a : VReg) (imm : BitVec 9)
  /-- BRA (R252). Moves all threads of the issue mask to the target. -/
  | bra (off : BitVec 19)
  /-- BRC (R252). Moves the threads whose mask bit is set to the target. -/
  | brc (k : KReg) (off : BitVec 19)
  /-- BRC_NOT (R252). Moves the threads whose mask bit is clear to the target. -/
  | brcNot (k : KReg) (off : BitVec 19)
  /-- BRS (R252). Branches all threads when sc is 1. -/
  | brs (off : BitVec 19)
  /-- BRS_NOT (R252). Branches all threads when sc is 0. -/
  | brsNot (off : BitVec 19)
  /-- CALL (R252). Branches and writes the return address to s62:63. -/
  | call (off : BitVec 19)
  /-- JMP (R252). Jumps to the address held in a scalar pair. -/
  | jmp (p : BitVec 5)
  /-- CALLI (R252). Indirect call through a scalar pair. -/
  | calli (p : BitVec 5)
  /-- MEET (R255). Sets MR to the label for the threads of the issue mask. -/
  | meet (off : BitVec 19)
  /-- BAR_ARV (R241). Arrives at a block barrier. -/
  | barArv (p : Pred) (id : BitVec 4)
  /-- BAR_WT (R242). Waits on a block barrier's phase. -/
  | barWt (p : Pred) (id : BitVec 4)
  /-- BAR_SYNC (R242). Arrives at a block barrier and waits on it. -/
  | barSync (p : Pred) (id : BitVec 4)
  /-- CBAR_ARV (R244). Arrives at a cluster barrier. -/
  | cbarArv (p : Pred) (id : BitVec 4)
  /-- CBAR_WT (R244). Waits on a cluster barrier. -/
  | cbarWt (p : Pred) (id : BitVec 4)
  /-- TXB_INIT (R246). Initialises a transaction barrier's counts and EXPT. -/
  | txbInit (p : Pred) (sa sb : SReg)
  /-- TXB_EXP (R246). Adds expected bytes to TGTB. -/
  | txbExp (p : Pred) (sa sb : SReg)
  /-- TXB_ARV (R246). Adds thread arrivals to ARRT. -/
  | txbArv (p : Pred) (sa : SReg)
  /-- TXB_WT (R246). Waits until GEN differs from the given generation. -/
  | txbWt (p : Pred) (sa sb : SReg)
  /-- KJOIN (R39). Adds the participating threads to a mask register. -/
  | kjoin (p : Pred) (k : KReg)
  /-- KLEAVE (R39). Removes the participating threads from a mask register and its arrival set. -/
  | kleave (p : Pred) (k : KReg)
  /-- KWAIT (R40). Holds each participating thread that is in the mask. -/
  | kwait (p : Pred) (k : KReg)
  /-- FENCE (R238). Acquire, release or acquire-release fence at a scope. -/
  | fence (order : Order) (scope : Scope)
  /-- WAITD (R239). Holds issue mid-clause until the named counters are zero. -/
  | waitd (mask : BitVec 6)
  /-- ICINV (R250). Invalidates instruction-cache lines of a range. -/
  | icinv (dev : Bool) (p : BitVec 5) (len : SReg)
  /-- TAIL (R305). Ends the threads of the issue mask and the predicate, after any pending deferred fault is delivered. -/
  | tail (p : Pred)
  /-- TRAP (R306). Takes a software trap with a 16-bit code. -/
  | trap (code : BitVec 16)
  /-- SYSR (R308). Reads a special register. -/
  | sysr (dst : Src) (idx : BitVec 8)
  /-- SYSW (R309). Writes a special register. -/
  | sysw (idx : BitVec 8) (src : Src)
  /-- TIME (R310). Reads %time into a scalar pair. -/
  | time (d : SReg)
  /-- SLEEP (R311). Puts the threads into the waiting state for a time in ns. -/
  | sleep (a : Src)
  /-- BKPT (R306). Takes a breakpoint trap with a code. -/
  | bkpt (code : BitVec 16)
  /-- BUDGET (R309). Writes %budget. -/
  | budget (a : Src)
  /-- LAUNCH (R312). Submits a launch header to the issuing launch's queue. -/
  | launch (p : BitVec 5) (dc : BitVec 3)
  /-- XACQ (R313). Acquires extended register blocks. -/
  | xacq (n : BitVec 2)
  /-- MAT_ALLOC (R265). Reserves accumulator windows for the block's warps on the core. -/
  | matAlloc (n : BitVec 8)
  /-- MAT_EDGE (R275). Sets %medge. -/
  | matEdge (k : BitVec 9) (n : BitVec 10)
  /-- MAT_LDB (R276). Loads a B tile into a bank. -/
  | matLdb (sa : SReg) (sh : BShape) (bank : Bool) (spec : MatSpec) (dc : BitVec 3)
  /-- MAT_MMA (R277). Accumulates A from scratchpad times B into rows. -/
  | matMma (sa : SReg) (roff : BitVec 2) (spec : MatSpec) (dc : BitVec 3)
  /-- MAT_MMAR (R277). Accumulates A from registers times B into rows. -/
  | matMmar (va : VReg) (roff : BitVec 2) (spec : MatSpec) (dc : BitVec 3)
  /-- MAT_ZERO (R279). Clears rows, their bounds and their poison. -/
  | matZero (roff : BitVec 2)
  /-- MAT_RD (R279). Reads four columns of a row into a register quad. -/
  | matRd (d : VReg) (roff : BitVec 2) (col : BitVec 9)
  /-- MAT_WR (R279). Writes four columns of a row from a register quad. -/
  | matWr (a : VReg) (roff : BitVec 2) (col : BitVec 9)
  /-- MAT_ST (R280). Stores rows to memory, converted, with optional computed scales. -/
  | matSt (sa : SReg) (roff : BitVec 2) (spec : MatSpec) (dc : BitVec 3)
  /-- MAT_RBND (R279). Reads a row bound's code. -/
  | matRbnd (d : VReg) (roff : BitVec 2)
  /-- MAT_BANK (R275). Selects the B bank in %mbank. -/
  | matBank (bank : Bool)
  /-- CPY_T_IN (R292). Tensor window copy from global memory to scratchpad. -/
  | cpyTIn (c : Done) (sa sb sc : SReg)
  /-- CPY_T_OUT (R292). Tensor window copy from scratchpad to global memory. -/
  | cpyTOut (c : Done) (sa sb sc : SReg)
  /-- CPY_B_IN (R293). Bulk copy from global memory to scratchpad. -/
  | cpyBIn (c : Done) (sa sb sc : SReg)
  /-- CPY_B_OUT (R293). Bulk copy from scratchpad to global memory. -/
  | cpyBOut (c : Done) (sa sb sc : SReg)
  /-- CPY_P (R294). Copy into a peer scratchpad slice of the cluster. -/
  | cpyP (c : Done) (sa sb sc sd : SReg)
  /-- CPY_RED (R296). Reduces scratchpad elements into global memory. -/
  | cpyRed (c : Done) (sa sb sc : SReg) (ty : Fmt) (rop : Rop)
  /-- CPY_PF (R297). Prefetches lines into their home slices or the pool cache. -/
  | cpyPf (sa sc : SReg)
  /-- CPY_G (R298). Gathers indexed rows into scratchpad. -/
  | cpyG (c : Done) (sa sb sc : SReg) (vi : VReg)
  /-- COL_AR (R300). All-reduce collective. -/
  | colAr (dc : BitVec 3) (sa sb sc sd : SReg) (ty : Fmt) (rop : Rop)
  /-- COL_AG (R300). All-gather collective. -/
  | colAg (dc : BitVec 3) (sa sb sc sd : SReg) (ty : Fmt)
  /-- COL_RS (R300). Reduce-scatter collective. -/
  | colRs (dc : BitVec 3) (sa sb sc sd : SReg) (ty : Fmt) (rop : Rop)
  /-- COL_A2A (R300). All-to-all collective. -/
  | colA2a (dc : BitVec 3) (sa sb sc sd : SReg) (ty : Fmt)
  /-- COL_BC (R300). Broadcast collective from a root rank. -/
  | colBc (dc : BitVec 3) (sa sb sc sd root : SReg) (ty : Fmt)
  /-- NO_INSTRUCTION_WORD (R182). A word that is no instruction (format 0xD, 0xE, 0xF, an unallocated opcode or an excluded field) reaches issue and raises Illegal Instruction, after the earlier instructions of its clause have taken full effect. -/
  | noInstructionWord
  /-- RET (R252). Returns to the address in s62:63. -/
  | ret
  /-- ISYNC (R251). Discards the warp's prefetched words beyond the current clause. -/
  | isync
  /-- NOP (R304). No effect. -/
  | nop
  /-- RTE (R391). Restores state from the frame and resumes the trapped group at NPC. -/
  | rte
  /-- YIELD (R304). Ends the warp's turn at the end of the clause. -/
  | yield
  /-- XREL (R314). Releases all extended register blocks. -/
  | xrel
  /-- MAT_FREE (R266). Releases the block's accumulator rows on the core. -/
  | matFree
  /-- GROUP_TURN_LIMIT (R33). A PC group that has issued 16 consecutive clauses while another group of its warp was ready has its age set to the current time, and the warp selects a group again. -/
  | groupTurnLimit
  /-- WARP_SWAP_OUT (R337). An active warp at a clause header that has not been ready for 32 cycles, because of a counter wait or waiting threads, is replaced by the earliest-stamped ready pending warp. -/
  | warpSwapOut (out inn : Nat)
  /-- WARP_SWAP_IN (R337). A pending warp that has been ready for 256 cycles displaces an active warp standing at a clause header. -/
  | warpSwapIn (inn out : Nat)
  /-- SLEEP_WAKE (R311). A sleeping thread leaves the waiting state between t0 + n and t0 + n + 1,000 ns. -/
  | sleepWake (slot lane : Nat)
  /-- LOAD_RETURN (R232). A load or returning atomic writes the destination and bound of each effective lane, and then decrements its counter. -/
  | loadReturn (op : Nat)
  /-- STORE_ACKNOWLEDGE (R232). The executing unit acknowledges a store, red or write-through, and the operation's counter decrements once every lane is acknowledged. -/
  | storeAcknowledge (op : Nat)
  /-- RELEASE_DRAIN_COMPLETE (R130). The drain set of a held release at grp scope or wider is acknowledged, so the release's own write is sent and the warp's later stores proceed. -/
  | releaseDrainComplete (op : Nat)
  /-- HOME_REQUEST (R110). A fill, store, atomic or invalidation reaches a line's home, which serialises it, translates again on a miss or on a write-permission change, and applies it. -/
  | homeRequest (op part : Nat)
  /-- PAGE_TABLE_WALK (R118). The home HTU, or the hub translation unit for POOL lines, completes a two-stage walk and either yields a translation or finds a translation fault. -/
  | pageTableWalk (op part : Nat)
  /-- PROMOTE_REQUEST (R147). A promote request reaches the marking core, which acknowledges it, drains the matching log entries and replies done. -/
  | promoteRequest (pid : Nat)
  /-- PROMOTE_DONE (R147). The home receives the promotion reply, clears the line's mark and performs the waiting .rp acquire or narrow release. -/
  | promoteDone (pid : Nat)
  /-- PRSP_SUCCESS (R424). A PRSP write with STATUS 0 answers a page-request group, and every fault of the group is retried with a new translation. -/
  | prspSuccess (vf stage group : Nat)
  /-- PRSP_FAILURE (R425). A PRSP write with STATUS 1 answers a group as a failure: parked threads trap, held stores become deferred faults, and engine operations take engine faults. -/
  | prspFailure (vf stage group : Nat)
  /-- TRAP_HANDLER_ENTRY (R388). Once every frame store is acknowledged, the trapped threads enter trap mode with %exm all ones and PC := %tvec. -/
  | trapHandlerEntry (slot : Nat)
  /-- ENGINE_START (R152). An engine operation begins to access memory once the issuing warp's drain set is acknowledged and its earlier loads have returned. -/
  | engineStart (op : Nat)
  /-- TENSOR_DESCRIPTOR_READ (R291). The engine receives a cpy.t descriptor snapshot, validates it, and registers the window ranges. -/
  | tensorDescriptorRead (op : Nat)
  /-- ENGINE_OPERATION_COMPLETE (R154). An engine operation, once its writes are acknowledged, invalidates the observer's L1 lines and then decrements its counter or credits its transaction barrier. -/
  | engineOperationComplete (op : Nat)
  /-- MAT_LDB_BANK_WRITE (R276). A mat.ldb writes its bank's cells, shape, scales, bound, poison and owner once earlier readers of the bank are done, and then completes. -/
  | matLdbBankWrite (op : Nat)
  /-- MAT_MMA_COMPLETE (R277). A mat.mma or mat.mmar writes every effective row, its bound and its poison, and decrements its counter. -/
  | matMmaComplete (op : Nat) (residueBad : Mask)
  /-- MAT_ST_COMPLETE (R280). A mat.st decrements its counter when every one of its writes is acknowledged. -/
  | matStComplete (op : Nat)
  /-- ICINV_COMPLETE (R250). The invalidation of an icinv finishes in every cache it names, and the warp resumes issue. -/
  | icinvComplete (slot : Nat)
  /-- XACQ_SERVED (R313). A waiting xacq request, oldest first, is served whole with zeroed extended blocks. -/
  | xacqServed (quadrant : Nat)
  /-- LAUNCH_ENTRY_APPEND (R312). The command processor accepts a device launch header into its queue, or rejects it, and decrements the issuing counter. -/
  | launchEntryAppend (op : Nat)
  /-- COLLECTIVE_PART_COMPLETE (R363). A chip's part of a collective completes: it writes the status, decrements the counter and sends REPORT. -/
  | collectivePartComplete (milepost : Nat)
  /-- QRSV (R322). A read of QRSV returns the next free slot index and advances it, or returns 0xFFFF_FFFF when the ring is full. -/
  | qrsv (vf cp q : Nat)
  /-- QDB (R322). A write to QDB wakes the command processor for that queue. -/
  | qdb (vf cp q : Nat)
  /-- QCTL_WRITE (R322). A QCTL write enables or configures a queue and clears ERR; writes that break the LOG2 or EN limits are ignored. -/
  | qctlWrite (vf cp q : Nat) (val : Word)
  /-- LAUNCH_SLOT (R323). The command processor acquires a TYPE 0x0001 slot at HEAD, takes it, clears TYPE and advances HEAD. -/
  | launchSlot (cp q : Nat)
  /-- RANGE_INVALIDATION_ENTRY (R122). A TYPE 0x0002 entry starts the range invalidation steps: drop walk results, write back and invalidate homes, invalidate L1s. -/
  | rangeInvalidationEntry (cp q : Nat)
  /-- RANGE_INVALIDATION_DONE (R122). Once every access translated before step 1 has completed, DONE is written with 1 as a dev-scope release. -/
  | rangeInvalidationDone (cp q : Nat)
  /-- LAUNCH_HEADER_READ (R325). The command processor receives the 128-byte header snapshot and runs the launch checks. -/
  | launchHeaderRead (launch : Nat)
  /-- WAIT_EVENT_CHECK (R329). After each signal write, and at least every 10 µs, the command processor checks wait events and makes met launches ready. -/
  | waitEventCheck (launch : Nat)
  /-- GANG_START (R343). When the global time base reaches TICK, a placed gang grid begins to issue; a late start is logged. -/
  | gangStart (launch : Nat)
  /-- PREEMPT_SAVE (R341). Once a pre-empted block's operations have completed and its stores have drained, its context is written to the save pool and its resources are released. -/
  | preemptSave (cluster : Nat)
  /-- TIME_SLICE_EXPIRY (R376). At the end of a function's SLICE, its PRE launches are pre-empted and the next function's launches are placed. -/
  | timeSliceExpiry (part : Nat)
  /-- LAUNCH_ABORT (R451). Writing GO to the launch abort register stops the named queue's running launch, cancels its mileposts and completes it with code 0x000A. -/
  | launchAbort (vf : Nat) (val : Word)
  /-- CLOCK_STEP_DOWN (R19). Every 10 µs while power exceeds 2,800 W, the arithmetic clock is lowered by 25 MHz, down to 1.00 GHz, and the change is logged. -/
  | clockStepDown (watts : Nat)
  /-- CLOCK_STEP_UP (R19). Once power has stayed below 2,700 W for 100 µs, the clock is raised by 25 MHz. -/
  | clockStepUp (watts : Nat)
  /-- THERMAL_LIMIT (R21). After 1 ms at 1.00 GHz with power still above 2,800 W, the THERM event is raised to the host. -/
  | thermalLimit (watts : Nat)
  /-- ENERGY_SAMPLE (R378). Every 1 µs the metering unit samples energy and charges it to partitions, carrying the remainders forward. -/
  | energySample (sample : EnergyIn)
  /-- ENERGY_REQUEST (R379). A write to the energy request register queues a reading of a partition, to be written at DEST. -/
  | energyRequest (vf : Nat) (val : DWord)
  /-- ENERGY_READING_WRITE (R379). The metering unit writes a signed energy reading record as a sys-scope release, clears BUSY and raises ENRG. -/
  | energyReadingWrite
  /-- ENERGY_CHECKPOINT (R380). Once per second the counters, SEQ and BOOT are checkpointed to boot flash. -/
  | energyCheckpoint
  /-- PACKAGE_RESET (R380). A package reset with always-on power kept raises BOOT and returns the package to its reset state. -/
  | packageReset
  /-- ALWAYS_ON_POWER_LOSS (R380). After a loss of always-on power, the counters resume from their checkpoint and SEQ resumes at its checkpoint + 2^32. -/
  | alwaysOnPowerLoss
  /-- POWER_UP_BOOT (R381). At power-up the security processor verifies the firmware and configuration records, or keeps the dies in reset. -/
  | powerUpBoot (flash : BootFlash)
  /-- ATTESTATION_REQUEST (R382). An attestation request with a nonce produces a signed reply record of the boot's measurements. -/
  | attestationRequest (nonce : List Byte) (dest : Nat)
  /-- TIME_EXCHANGE (R384). A two-way time exchange on VC 4 disciplines the chip's time base to the master's and sets TIME once the chip is within ±4 ns. -/
  | timeExchange (ahead : Bool) (offsetNs : Nat)
  /-- EVST_CLEAR (R385). Writing 1 clears an event bit, which sets again at once, with a new MSI-X message, if its condition still holds. -/
  | evstClear (vf : Nat) (val : Word)
  /-- EVMASK_WRITE (R385). Writing EVMASK changes event masking; clearing a mask bit while its event is set sends one MSI-X message. -/
  | evmaskWrite (vf : Nat) (val : Word)
  /-- FLIT_RECEIVE (R347). A received Yunel Link flit is checked by CRC and sequence number, then accepted, or discarded with a resend request. -/
  | flitReceive (port : Nat) (flit : Flit)
  /-- RESEND_REQUEST (R347). A sender asked for a resend resends every flit from the requested SEQ onward, in order and byte for byte. -/
  | resendRequest (port seq : Nat)
  /-- LINK_RETRAIN (R453). After 16 resend requests for one SEQ, the port retrains at 8, 4 or 2 lanes and resends its retry buffer. -/
  | linkRetrain (port : Nat) (trained : LinkWidth)
  /-- LINK_DOWN (R454). When no width trains within 10 ms, the port goes down, its LINK bit clears and its retry buffer is discarded. -/
  | linkDown (port : Nat)
  /-- PEER_REQUEST_TIMEOUT (R454). A peer-range request unanswered for 1 ms completes as an error answer, and the lane takes a permission fault. -/
  | peerRequestTimeout (op part : Nat)
  /-- APERTURE_ACCESS (R350). An incoming host or peer access to an aperture is performed at sys scope at the target home, or answered with an error. -/
  | apertureAccess (acc : ApertureAcc)
  /-- BISNPINV (R354). A BISnpInv snoop makes the hub write back the line if dirty, invalidate it in the pool cache and in the L1s the snoop filter names, and answer with BIRsp. -/
  | bisnpinv (pa : Nat)
  /-- BISNPDATA (R354). A BISnpData snoop makes the hub write back a dirty line, keep it shared and answer. -/
  | bisnpdata (pa : Nat)
  /-- POOL_RANGE_LOST (R440). On link loss, a fatal device error or a request unanswered for 10 ms, the decoder range is marked LOST, dirty lines are poisoned, and waiting accesses fault with cause 0x0A. -/
  | poolRangeLost (port dec : Nat)
  /-- POOL_LOST_CLEAR (R439). Writing 1 to a LOST bit whose UP bit is set clears it and lets accesses to the range proceed. -/
  | poolLostClear (port : Nat) (val : DWord)
  /-- REQUEST (R360). The primary sequencer handles a REQUEST: it grants a new milepost and replicates it, discards a key already granted, or answers UNKNOWN. -/
  | request (src : Nat) (msg : ColMsg)
  /-- REPLICATE (R360). The standby records a replicated grant and acknowledges it. -/
  | replicate (src : Nat) (msg : ColMsg)
  /-- REPLICATE_ACK (R360). On the standby's acknowledgement, the primary sends the NOTICE to every member in MLIST order. -/
  | replicateAck (src milepost : Nat)
  /-- NOTICE (R361). A member's milepost agent records a NOTICE for a key. -/
  | notice (src : Nat) (msg : ColMsg)
  /-- UNKNOWN (R357). An UNKNOWN answer completes the requesting col with status 2 and consumes its call index. -/
  | unknown (src : Nat) (msg : ColMsg)
  /-- REPORT (R360). The primary records a member's REPORT and drops the key and advances L once every member has reported. -/
  | report (src milepost status : Nat)
  /-- HEARTBEAT_SEND (R455). Every 10 µs the primary sends HEARTBEAT carrying L to the standby. -/
  | heartbeatSend
  /-- HEARTBEAT (R455). The standby receives a HEARTBEAT and discards the replicated keys that precede L. -/
  | heartbeat (src oldest : Nat)
  /-- SEQUENCER_TAKEOVER (R456). After 100 µs without a HEARTBEAT, the standby takes over, skips 65,536 null mileposts, and sends TAKEOVER and its kept NOTICEs. -/
  | sequencerTakeover
  /-- TAKEOVER (R456). A chip receiving TAKEOVER replaces SEQP, requests its un-noticed cols again and resends REPORTs. -/
  | takeover (src newPrimary first : Nat)
  /-- CANCEL (R458). The primary takes the first CANCEL for a milepost as its status, discards later ones, and sends CANCELLED to every member. -/
  | cancel (src milepost status : Nat)
  /-- CANCELLED (R459). A member completes the milepost, or its not-yet-issued col, with the status carried, or ignores the message if the milepost is already done. -/
  | cancelled (src milepost status : Nat)
  /-- COLLECTIVE_TIMEOUT (R458). A started part that has waited COLTO µs for another member sends CANCEL with status 3. -/
  | collectiveTimeout (milepost : Nat)
  /-- DIE_FATAL_ERROR (R446). A die with a fatal error, or one the hub declares failed, enters the viral state, leaves the available die mask, and its affected launches roll back or end. -/
  | dieFatalError (domain cause : Nat)
  /-- PROMOTE_ACK_TIMEOUT (R438). A promote request unacknowledged for 1 ms makes the hub declare the marking core's die failed. -/
  | promoteAckTimeout (pid : Nat)
  /-- STATE_DUMP_COMPLETE (R452). Firmware finishes the signed state dump of a viral domain and writes record 0x0403. -/
  | stateDumpComplete (domain len : Nat)
  /-- UNCORRECTABLE_ERROR (R431). An uncorrectable ECC error marks its sector poisoned and is logged once. -/
  | uncorrectableError (site : EccSite)
  /-- UNCORRECTABLE_STATE_ERROR (R433). An uncorrectable error in state that cannot carry poison stops the owning launch, which then rolls back or is aborted. -/
  | uncorrectableStateError (launch kind slot : Nat)
  /-- PARTITION_ENTRY_WRITE (R374). A partition entry write takes effect unless it breaks the DMASK limits or a function of the partition has an enabled queue, in which case it is ignored and logged. -/
  | partitionEntryWrite (idx : Nat) (val : BitVec 128)
  /-- FUNCTION_ENTRY_WRITE (R375). A function entry write takes effect unless the function has an enabled queue. -/
  | functionEntryWrite (f : Nat) (val : BitVec 256)
  /-- COMMUNICATOR_ENTRY_WRITE (R358). A communicator entry write resets CIDX to 0, and on a sequencer chip discards the unreported granted keys of that communicator. -/
  | communicatorEntryWrite (idx : Nat) (val : BitVec 256)
  /-- PCTL_WRITE (R420). A PCTL write enables or configures a page-request queue; writes that break the LOG2 or EN limits are ignored. -/
  | pctlWrite (vf stage : Nat) (val : Word)
  /-- LCTL_WRITE (R444). An LCTL write enables or configures the event log; writes that break the LOG2 or EN limits are ignored. -/
  | lctlWrite (val : Word)
  /-- REGISTER_WRITE (R4). A write to a hub register that has no row of its own updates its fields under their access codes. -/
  | registerWrite (vf off bytes : Nat) (val : DWord)
  /-- HUB_FUNCTION_USABLE (R383). A hub function, such as a trained Yunel Link, pool or host port, a command processor or the collective engine, becomes usable, sets its readiness bit, and releases the requests held for it. -/
  | hubFunctionUsable (bit : Nat)
  /-- READINESS_BIT_CLEARS (R460). A CP, COL, HOST, POOL or ENERGY readiness bit clears after it was set, which holds doorbells or completes every collective with status 4, and raises DIEC. -/
  | readinessBitClears (bit : Nat)
  /-- POOL_RANGE_REACHABLE (R439). A pool port's link retrains and the UP bit of a decoder range sets, after which LOST may be cleared. -/
  | poolRangeReachable (port : Nat) (range : HdmRange)
  /-- STOP_GO_SIGNAL (R347). The stop/go signal of one virtual channel of a Yunel Link port changes, halting or resuming the sending of flits on that channel. -/
  | stopGoSignal (port vc : Nat) (go : Bool)
  /-- CORRECTED_ERROR_RECORD (R462). At most once per second for each structure and domain with a non-zero count, the hub writes a record of kind 0x0703 giving the number of errors corrected since the last such record. -/
  | correctedErrorRecord (kind domain count : Nat)
deriving DecidableEq, Repr

end Sys2Proof
end

