-- ==== Sys2Proof/Machine/Float.lean ====
section
/-! DEFINITION. Exact numbers, the element formats, rounding and conversions: R74 to R80, and bound16: R81, R82. -/

namespace Sys2Proof.Machine

/-- An exact number: `m` times 2 to the power `e`. -/
structure Dy where
  m : Int
  e : Int
deriving DecidableEq, Repr

/-- An integer as an exact number. -/
def dyInt (n : Int) : Dy := ⟨n, 0⟩

/-- 2 to the power `k`. -/
def dyPow (k : Int) : Dy := ⟨1, k⟩

/-- The mantissa of `a` at exponent `e`, for `e` not above its own. -/
def Dy.at (a : Dy) (e : Int) : Int := a.m * ((2 ^ (a.e - e).toNat : Nat) : Int)

/-- Sum. -/
def Dy.add (a b : Dy) : Dy :=
  let e := min a.e b.e
  ⟨a.at e + b.at e, e⟩

/-- Product. -/
def Dy.mul (a b : Dy) : Dy := ⟨a.m * b.m, a.e + b.e⟩

/-- Negation. -/
def Dy.neg (a : Dy) : Dy := ⟨-a.m, a.e⟩

/-- Magnitude. -/
def Dy.abs (a : Dy) : Dy := ⟨(a.m.natAbs : Int), a.e⟩

/-- Difference. -/
def Dy.sub (a b : Dy) : Dy := a.add b.neg

/-- `a ≤ b`. -/
def Dy.le (a b : Dy) : Bool :=
  let e := min a.e b.e
  decide (a.at e ≤ b.at e)

/-- `a < b`. -/
def Dy.lt (a b : Dy) : Bool := !b.le a

/-- Equal as numbers. -/
def Dy.same (a b : Dy) : Bool := a.le b && b.le a

/-- The larger. -/
def Dy.max (a b : Dy) : Dy := if a.le b then b else a

/-- The smaller. -/
def Dy.min (a b : Dy) : Dy := if a.le b then a else b

/-- Times 2 to the power `k`. -/
def Dy.scale (a : Dy) (k : Int) : Dy := ⟨a.m, a.e + k⟩

/-- The floor of log2 of the magnitude, for a number that is not zero. -/
def Dy.ilog2 (a : Dy) : Int := (Nat.log2 a.m.natAbs : Int) + a.e

/-- The first `n` significant bits, the rest discarded toward zero (R89). -/
def Dy.truncSig (a : Dy) (n : Nat) : Dy :=
  let k := Nat.log2 a.m.natAbs
  if k < n then a
  else
    let s := k + 1 - n
    let q := a.m.natAbs / 2 ^ s
    ⟨if a.m < 0 then -(q : Int) else (q : Int), a.e + s⟩

/-- A floating-point value: NaN with its sign and 23-bit fraction, an infinity, or a finite number with its sign (which
zero keeps). -/
inductive FV where
  | nan (neg : Bool) (frac : Nat)
  | inf (neg : Bool)
  | fin (neg : Bool) (m : Nat) (e : Int)
deriving DecidableEq, Repr

/-- The exact number of a finite value, 0 for the others. -/
def FV.dy : FV → Dy
  | .fin n m e => ⟨if n then -(m : Int) else (m : Int), e⟩
  | .nan _ _ => dyInt 0
  | .inf _ => dyInt 0

/-- A finite value. -/
def FV.isFin : FV → Bool
  | .fin _ _ _ => true
  | .nan _ _ => false
  | .inf _ => false

/-- A NaN. -/
def FV.isNan : FV → Bool
  | .nan _ _ => true
  | .fin _ _ _ => false
  | .inf _ => false

/-- The sign. -/
def FV.sign : FV → Bool
  | .nan n _ => n
  | .inf n => n
  | .fin n _ _ => n

/-- A zero of either sign. -/
def FV.isZero : FV → Bool
  | .fin _ m _ => m == 0
  | .nan _ _ => false
  | .inf _ => false

/-- The value with its sign changed; a NaN keeps its payload (R195). -/
def FV.neg : FV → FV
  | .nan n f => .nan (!n) f
  | .inf n => .inf (!n)
  | .fin n m e => .fin (!n) m e

/-- The value with its sign cleared. -/
def FV.abs : FV → FV
  | .nan _ f => .nan false f
  | .inf _ => .inf false
  | .fin _ m e => .fin false m e

/-- The default NaN (R77). -/
def dnan : FV := .nan false 0x400000

/-- A finite value from an exact number; `nz` is the sign of a zero. -/
def FV.ofDy (nz : Bool) (a : Dy) : FV := .fin (if a.m = 0 then nz else decide (a.m < 0)) a.m.natAbs a.e

/-- What a format's top exponent holds (R74). -/
inductive TopKind where
  /-- Infinities and NaNs. -/
  | ieee
  /-- A NaN with all fraction bits set, and no infinity (E4M3). -/
  | nanOnly
  /-- Finite values only (E2M1). -/
  | none
deriving DecidableEq, Repr

/-- A floating-point format: widths, bias and top exponent (R74). -/
structure FpSpec where
  ew : Nat
  fw : Nat
  bias : Nat
  top : TopKind
deriving DecidableEq, Repr

/-- FP32. -/
def spF32 : FpSpec := ⟨8, 23, 127, .ieee⟩

/-- FP16. -/
def spF16 : FpSpec := ⟨5, 10, 15, .ieee⟩

/-- BF16. -/
def spBf16 : FpSpec := ⟨8, 7, 127, .ieee⟩

/-- The floating-point formats of R74 but E8M0. -/
def fpSpec : Fmt → Option FpSpec
  | .f32 => some spF32
  | .f16 => some spF16
  | .bf16 => some spBf16
  | .e4m3 => some ⟨4, 3, 7, .nanOnly⟩
  | .e5m2 => some ⟨5, 2, 15, .ieee⟩
  | .e2m1 => some ⟨2, 1, 1, .none⟩
  | .e8m0 | .s8 | .s16 | .s32 | .n8 | .n16 | .n32 | .s64 | .n64 | .bnd => none

/-- The width of a format in bits (R74). -/
def fmtBits : Fmt → Nat
  | .f32 => 32 | .f16 => 16 | .bf16 => 16 | .e4m3 => 8 | .e5m2 => 8 | .e2m1 => 4 | .e8m0 => 8
  | .s8 => 8 | .s16 => 16 | .s32 => 32 | .n8 => 8 | .n16 => 16 | .n32 => 32 | .s64 => 64 | .n64 => 64 | .bnd => 16

/-- A signed integer format. -/
def fmtSigned : Fmt → Bool
  | .s8 => true | .s16 => true | .s32 => true | .s64 => true
  | _ => false

/-- An integer format. -/
def fmtInt : Fmt → Bool
  | .s8 => true | .s16 => true | .s32 => true | .s64 => true
  | .n8 => true | .n16 => true | .n32 => true | .n64 => true
  | _ => false

/-- The value of a code in a floating-point format (R74). -/
def decodeFp (sp : FpSpec) (bits : Nat) : FV :=
  let neg := bits / 2 ^ (sp.ew + sp.fw) % 2 == 1
  let e := bits / 2 ^ sp.fw % 2 ^ sp.ew
  let f := bits % 2 ^ sp.fw
  let top := e == 2 ^ sp.ew - 1
  if top && sp.top == .ieee then
    (if f = 0 then .inf neg else .nan neg (f * 2 ^ (23 - sp.fw)))
  else if top && sp.top == .nanOnly && f == 2 ^ sp.fw - 1 then .nan neg (f * 2 ^ (23 - sp.fw))
  else if e = 0 then .fin neg f (1 - sp.bias - sp.fw)
  else .fin neg (2 ^ sp.fw + f) ((e : Int) - sp.bias - sp.fw)

/-- The FP32 value of a word. -/
def f32 (w : Word) : FV := decodeFp spF32 w.toNat

/-- A two's complement or unsigned integer of `n` bits. -/
def decodeInt (signed : Bool) (n bits : Nat) : Int :=
  let b := bits % 2 ^ n
  if signed && decide (2 ^ (n - 1) ≤ b) then (b : Int) - ((2 ^ n : Nat) : Int) else (b : Int)

/-- The value of a code in any format (R74, R81, R212): the 0xFF of E8M0 is the default NaN, and an unbounded bound16 an
infinity. -/
def decodeFmt (f : Fmt) (bits : Nat) : FV :=
  match fpSpec f with
  | some sp => decodeFp sp bits
  | none =>
    if f = .e8m0 then (if bits % 256 = 255 then dnan else .fin false 1 ((bits % 256 : Nat) - 127))
    else if f = .bnd then
      (let e := bits / 256 % 256
       let m := bits % 256
       if e = 255 then .inf false else if e = 0 then .fin false m (-134) else .fin false (256 + m) ((e : Int) - 135))
    else .ofDy false (dyInt (decodeInt (fmtSigned f) (fmtBits f) bits))

/-- A magnitude `m * 2^e` rounded to an integer in the mode `rnd` of a value of sign `neg`: RZ truncates, RD and RU move
away from zero on their own side, RNE takes the nearest and the even one of two (R76). -/
def roundInt (rnd : Rnd) (neg : Bool) (m : Nat) (e : Int) : Nat :=
  if 0 ≤ e then m * 2 ^ e.toNat
  else
    let s := (-e).toNat
    let q := m / 2 ^ s
    let r := m % 2 ^ s
    let up := match rnd with
      | .rne => decide (2 ^ s < 2 * r) || (2 * r == 2 ^ s && q % 2 == 1)
      | .rz => false
      | .rd => neg && r != 0
      | .ru => !neg && r != 0
    if up then q + 1 else q

/-- The largest finite code of a format, without its sign (R74). -/
def maxCode (sp : FpSpec) : Nat :=
  match sp.top with
  | .ieee => (2 ^ sp.ew - 1) * 2 ^ sp.fw - 1
  | .nanOnly => 2 ^ (sp.ew + sp.fw) - 2
  | .none => 2 ^ (sp.ew + sp.fw) - 1

/-- The code of a magnitude rounded as though the exponent were unlimited (R78): codes above `maxCode` overflow. -/
def magCode (sp : FpSpec) (rnd : Rnd) (neg : Bool) (m : Nat) (e : Int) : Nat :=
  if m = 0 then 0
  else
    let qmin : Int := 1 - (sp.bias : Int) - sp.fw
    let q := max ((Nat.log2 m : Int) + e - sp.fw) qmin
    (q - qmin).toNat * 2 ^ sp.fw + roundInt rnd neg m (e - q)

/-- A rounded result: its code, and whether an overflow was replaced by the largest finite value (R78, R83). -/
structure Rounded where
  bits : Nat
  clamped : Bool
deriving DecidableEq, Repr

/-- The sign bit of a format. -/
def signBit (sp : FpSpec) (neg : Bool) : Nat := if neg then 2 ^ (sp.ew + sp.fw) else 0

/-- The code of an infinity of an IEEE-like format. -/
def infCode (sp : FpSpec) : Nat := (2 ^ sp.ew - 1) * 2 ^ sp.fw

/-- The overflowing result (R78, R79): saturating forms and E2M1 take the largest finite value, E4M3 its NaN, and the
others ±∞ or the largest finite value by the mode. -/
def overflow (sp : FpSpec) (rnd : Rnd) (sat neg : Bool) : Rounded :=
  let s := signBit sp neg
  match sp.top with
  | .none => ⟨s + maxCode sp, true⟩
  | .nanOnly => if sat then ⟨s + maxCode sp, true⟩ else ⟨s + (2 ^ (sp.ew + sp.fw) - 1), false⟩
  | .ieee =>
    let toInf := match rnd with
      | .rne => true
      | .rz => false
      | .rd => neg
      | .ru => !neg
    if sat || !toInf then ⟨s + maxCode sp, true⟩ else ⟨s + infCode sp, false⟩

/-- The NaN result of a format from a NaN value, quieted (R77, R79). -/
def nanCode (sp : FpSpec) (neg : Bool) (frac : Nat) : Nat :=
  match sp.top with
  | .none => 0
  | .nanOnly => signBit sp neg + (2 ^ (sp.ew + sp.fw) - 1)
  | .ieee => signBit sp neg + infCode sp + (frac / 2 ^ (23 - sp.fw)) % 2 ^ (sp.fw - 1) + 2 ^ (sp.fw - 1)

/-- A value rounded into a floating-point format (R76 to R79). -/
def roundFp (sp : FpSpec) (rnd : Rnd) (sat : Bool) (v : FV) : Rounded :=
  match v with
  | .nan neg frac => ⟨nanCode sp neg frac, false⟩
  | .inf neg =>
    match sp.top with
    | .none => ⟨signBit sp neg + maxCode sp, false⟩
    | .nanOnly => ⟨signBit sp neg + (if sat then maxCode sp else 2 ^ (sp.ew + sp.fw) - 1), false⟩
    | .ieee => ⟨signBit sp neg + (if sat then maxCode sp else infCode sp), false⟩
  | .fin neg m e =>
    let c := magCode sp rnd neg m e
    if c ≤ maxCode sp then ⟨signBit sp neg + c, false⟩ else overflow sp rnd sat neg

/-- Rounded to FP32 as a word. -/
def toF32 (rnd : Rnd) (v : FV) : Word := BitVec.ofNat 32 (roundFp spF32 rnd false v).bits

/-- A conversion to E8M0 (R79): a power of two in [2^-127, 2^127], and 0xFF for zero, negative, infinite and NaN
sources. -/
def toE8m0 (rnd : Rnd) (v : FV) : Nat :=
  match v with
  | .nan _ _ => 255
  | .inf _ => 255
  | .fin neg m e =>
    if neg || m == 0 then 255
    else
      let k := Nat.log2 m
      let up := match rnd with
        | .ru => m != 2 ^ k
        | .rne => decide (3 * 2 ^ k ≤ 2 * m)
        | .rz => false
        | .rd => false
      let x : Int := (k : Int) + e + (if up then 1 else 0)
      (max (-127) (min 127 x) + 127).toNat

/-- A number rounded to an integer and saturated to a format's range; the flag says that it saturated (R80). -/
def toInt (f : Fmt) (rnd : Rnd) (v : FV) : Int × Bool :=
  let n := fmtBits f
  let lo : Int := if fmtSigned f then -((2 ^ (n - 1) : Nat) : Int) else 0
  let hi : Int := if fmtSigned f then ((2 ^ (n - 1) : Nat) : Int) - 1 else ((2 ^ n : Nat) : Int) - 1
  match v with
  | .nan _ _ => (0, true)
  | .inf neg => (if neg then lo else hi, true)
  | .fin neg m e =>
    let a := roundInt rnd neg m e
    let x : Int := if neg then -(a : Int) else (a : Int)
    if x < lo then (lo, true) else if hi < x then (hi, true) else (x, false)

/-- The code of an integer in `n` bits. -/
def intCode (n : Nat) (x : Int) : Nat := (x % ((2 ^ n : Nat) : Int)).toNat

/-- The value of a bound16; none is unbounded (R81). -/
def bndVal (b : Bnd) : Option Dy :=
  let e := b.toNat / 256
  let m := b.toNat % 256
  if e = 255 then none
  else if e = 0 then some ⟨m, -134⟩ else some ⟨(256 + m : Nat), (e : Int) - 135⟩

/-- A bound as the hardware writes it: unbounded is 0xFF00 only (R81). -/
def bndNorm (b : Bnd) : Bnd := if b.toNat / 256 = 255 then bndInf else b

/-- The search of `leastBnd`: the least code in [lo, hi] at which `ge` holds, given that it holds at hi. -/
def bndSearch (ge : Dy → Bool) : Nat → Nat → Nat → Nat
  | 0, _, hi => hi
  | n + 1, lo, hi =>
    if hi ≤ lo then hi
    else
      let mid := (lo + hi) / 2
      let ok := match bndVal (BitVec.ofNat 16 mid) with
        | some v => ge v
        | none => true
      if ok then bndSearch ge n lo mid else bndSearch ge n (mid + 1) hi

/-- The least bound16 whose value is not below a real number, which `ge v` compares: v is at least the number (R82). -/
def leastBnd (ge : Dy → Bool) : Bnd :=
  if ge (dyInt 0) then bndExact else BitVec.ofNat 16 (bndSearch ge 17 0 0xFF00)

/-- The least bound16 not below an exact number (R82). -/
def bndUp (x : Dy) : Bnd := leastBnd fun v => x.le v

/-- The larger of two bounds. -/
def bndMax (a b : Bnd) : Bnd :=
  let a := bndNorm a
  let b := bndNorm b
  if a.toNat < b.toNat then b else a

/-- The bound of an integer or bitwise result: 0 when every source is exact, unbounded otherwise (R86). -/
def bndInt (bs : List Bnd) : Bnd := if bs.all (· == bndExact) then bndExact else bndInf

end Sys2Proof.Machine
end

