-- ==== Sys2Proof/Machine/Bounds.lean ====
section
/-! DEFINITION. Floating-point operations with their error bounds: R77, R78, R83 to R91, R100, R101, R202 to R204, R214
and R215 as far as they are correctly rounded. -/

namespace Sys2Proof.Machine

/-- A source value with its bound. -/
structure Opnd where
  v : FV
  b : Bnd
deriving DecidableEq, Repr

/-- An FP32 source. -/
def opF32 (x : LV) : Opnd := ⟨f32 x.val, x.bnd⟩

/-- The bound of a source in a propagated term; none is unbounded, as it is for an infinite value (R83). -/
def Opnd.bound (x : Opnd) : Option Dy := if x.v.isFin then bndVal x.b else none

/-- The first NaN of the sources in order, quieted (R77). -/
def firstNan : List FV → Option FV
  | [] => none
  | .nan n f :: _ => some (.nan n (if f / 0x400000 % 2 = 1 then f else f + 0x400000))
  | .inf _ :: t => firstNan t
  | .fin _ _ _ :: t => firstNan t

/-- An exact product with the special values of R77, for operands that are not NaN. -/
def mulFV (a b : FV) : FV :=
  let s := a.sign != b.sign
  match a, b with
  | .fin _ m e, .fin _ n f => .fin s (m * n) (e + f)
  | .nan _ _, _ => dnan
  | _, .nan _ _ => dnan
  | .inf _, y => if y.isZero then dnan else .inf s
  | x, .inf _ => if x.isZero then dnan else .inf s

/-- An exact sum with the special values of R77 and the zero signs of R78, for operands that are not NaN. -/
def addFV (rnd : Rnd) (a b : FV) : FV :=
  match a, b with
  | .nan _ _, _ => dnan
  | _, .nan _ _ => dnan
  | .inf s, .inf t => if s = t then .inf s else dnan
  | .inf s, .fin _ _ _ => .inf s
  | .fin _ _ _, .inf t => .inf t
  | .fin s m e, .fin t n f =>
    let z := if s = t then s else rnd == .rd
    .ofDy z ((FV.fin s m e).dy.add (FV.fin t n f).dy)

/-- The product term of R84. -/
def propMul (x y : Dy) (bx bz : Dy) : Dy := ((x.abs.mul bz).add (y.abs.mul bx)).add (bx.mul bz)

/-- The term of R84 for a product plus an addend. -/
def propFma (a b c : Opnd) : Option Dy :=
  match a.bound, b.bound, c.bound with
  | some p, some q, some r => some ((propMul a.v.dy b.v.dy p q).add r)
  | _, _, _ => none

/-- The term of R84 for a sum. -/
def propAdd (a b : Opnd) : Option Dy :=
  match a.bound, b.bound with
  | some p, some q => some (p.add q)
  | _, _ => none

/-- The term of R84 for a product. -/
def propProd (a b : Opnd) : Option Dy :=
  match a.bound, b.bound with
  | some p, some q => some (propMul a.v.dy b.v.dy p q)
  | _, _ => none

/-- The bound of a result: unbounded for NaN, infinite and clamped results, else the propagated term and the exact error
rounded up once (R83). -/
def resultBnd (v : FV) (clamped : Bool) (prop : Option Dy) (exact : Dy) : Bnd :=
  if !v.isFin || clamped then bndInf
  else match prop with
    | none => bndInf
    | some p => bndUp (p.add (v.dy.sub exact).abs)

/-- An exact value rounded into a format, with its bound. -/
def finish (sp : FpSpec) (rnd : Rnd) (ex : FV) (prop : Option Dy) : Nat × Bnd :=
  let r := roundFp sp rnd false ex
  (r.bits, resultBnd (decodeFp sp r.bits) r.clamped prop ex.dy)

/-- A computed FP32 lane. -/
def lane32 (p : Nat × Bnd) : LV := ⟨BitVec.ofNat 32 p.1, p.2⟩

/-- A NaN result (R77): the code of the value, unbounded. -/
def nanLane (v : FV) : LV := ⟨toF32 .rne v, bndInf⟩

/-! The governor (R89 to R91). -/

/-- Computation levels (R89). -/
inductive Level where
  | p0 | p1 | p2
deriving DecidableEq, Repr

/-- A lane of a governed operation: its own sources, for NaN precedence, and the mapping a, b, c of R89. -/
structure Governed where
  srcs : List FV
  a : Opnd
  b : Opnd
  c : Opnd
deriving DecidableEq, Repr

/-- The exact fused result. -/
def Governed.exact (g : Governed) (rnd : Rnd) : FV := addFV rnd (mulFV g.a.v g.b.v) g.c.v

/-- A lane whose operands and P0 result are finite: the set S of R90. -/
def Governed.inS (g : Governed) (rnd : Rnd) : Bool :=
  g.a.v.isFin && g.b.v.isFin && g.c.v.isFin &&
    (decodeFp spF32 (roundFp spF32 rnd false (g.exact rnd)).bits).isFin

/-- |a·b| + |c| (R90). -/
def Governed.ref (g : Governed) : Dy := ((g.a.v.dy.mul g.b.v.dy).abs).add g.c.v.dy.abs

/-- The rounding share u of the allowances (R90). -/
def Governed.u (g : Governed) : Dy := (g.ref.scale (-24)).max (dyPow (-150))

/-- The allowance of a level (R90). -/
def Governed.allow (g : Governed) (l : Level) : Dy :=
  match l with
  | .p0 => g.u
  | .p1 => (((g.a.v.dy.mul g.b.v.dy).abs).scale (-15)).add g.u
  | .p2 => (g.ref.scale (-6)).add (dyPow (-149))

/-- The lane allows a level: outside S always, else by the test of R90. -/
def Governed.allows (g : Governed) (rnd : Rnd) (gstep : Nat) (l : Level) : Bool :=
  !g.inS rnd ||
  match propFma g.a g.b g.c with
  | none => false
  | some p => (p.add (g.allow l)).le (g.ref.scale (-(gstep : Int)))

/-- The level that the governor chooses for a warp-instruction (R90, R91). -/
def govern (gstep : Nat) (rnd : Rnd) (prec : BitVec 2) (lanes : List Governed) : Level :=
  if gstep = 0 ∨ rnd ≠ .rne ∨ prec = 2 then .p0
  else if prec = 0 && lanes.all fun g => g.allows rnd gstep .p2 then .p2
  else if lanes.all fun g => g.allows rnd gstep .p1 then .p1
  else .p0

/-- round_to_sig(16, RZ, v) (R89), with the flag of an overflow under RZ. -/
def roundSig16 (v : FV) : FV × Bool :=
  match v with
  | .fin s m e =>
    if m = 0 then (v, false)
    else
      let q := max ((Nat.log2 m : Int) + e) (-126) - 15
      let n := roundInt .rz s m (e - q)
      if decide ((dyPow 128).le ⟨n, q⟩) then (.fin s 0xFFFFFF 104, true) else (.fin s n q, false)
  | .nan _ _ => (v, false)
  | .inf _ => (v, false)

/-- The result of a lane in S at P1 or P2, with the flag of a clamped overflow (R89). -/
def levelResult (l : Level) (a b c : FV) : Rounded :=
  let s := a.sign != b.sign
  match l with
  | .p2 =>
    let p := FV.ofDy s ((a.dy.truncSig 8).mul (b.dy.truncSig 8))
    let r := roundSig16 (addFV .rne p c)
    ⟨(roundFp spF32 .rz false r.1).bits, r.2⟩
  | .p1 => roundFp spF32 .rne false (addFV .rne (FV.ofDy s ((a.dy.mul b.dy).truncSig 16)) c)
  | .p0 => roundFp spF32 .rne false (addFV .rne (mulFV a b) c)

/-- A lane of a governed operation at a level (R83, R89). -/
def governedLane (l : Level) (rnd : Rnd) (g : Governed) : LV :=
  match firstNan g.srcs with
  | some v => nanLane v
  | none =>
    let ex := g.exact rnd
    if l = .p0 || !g.inS rnd then lane32 (finish spF32 rnd ex (propFma g.a g.b g.c))
    else
      let r := levelResult l g.a.v g.b.v g.c.v
      lane32 (r.bits, resultBnd (decodeFp spF32 r.bits) r.clamped (propFma g.a g.b g.c) ex.dy)

/-- 1.0, exact. -/
def one32 : Opnd := ⟨.fin false 1 0, bndExact⟩

/-- `fadd` x, y: a = x, b = 1.0, c = y (R89). -/
def govAdd (x y : Opnd) : Governed := ⟨[x.v, y.v], x, one32, y⟩

/-- `fsub` x, y: a = x, b = 1.0, c = −y (R89); a NaN y keeps its sign as read. -/
def govSub (x y : Opnd) : Governed := ⟨[x.v, y.v], x, one32, ⟨y.v.neg, y.b⟩⟩

/-- `fmul` x, y: a = x, b = y, c = −0 (R89). -/
def govMul (x y : Opnd) : Governed := ⟨[x.v, y.v], x, y, ⟨.fin true 0 0, bndExact⟩⟩

/-- `ffma` x, y, z (R89). -/
def govFma (x y z : Opnd) : Governed := ⟨[x.v, y.v, z.v], x, y, z⟩

/-! Operations that always compute at P0. -/

/-- An FP32 sum, as in reductions and atomics (R218, R229). -/
def addLane (rnd : Rnd) (x y : LV) : LV :=
  governedLane .p0 rnd (govAdd (opF32 x) (opF32 y))

/-- The order of minimum and maximum, with −0 below +0 (R202); neither operand is NaN. -/
def fvLe (a b : FV) : Bool :=
  match a, b with
  | .inf s, .inf t => s || !t
  | .inf s, .fin _ _ _ => s
  | .fin _ _ _, .inf t => !t
  | .fin s m e, .fin t n f =>
    if m = 0 && n = 0 then s || !t else (FV.fin s m e).dy.le (FV.fin t n f).dy
  | .nan _ _, _ => false
  | _, .nan _ _ => false

/-- The lesser of two values. -/
def fvMin (a b : FV) : FV := if fvLe a b then a else b

/-- The greater of two values. -/
def fvMax (a b : FV) : FV := if fvLe a b then b else a

/-- The bound of an exact selection: the largest source bound, an infinite source counting as unbounded (R83, R84; log 76, DEDUCED). -/
def selBnd (xs : List Opnd) (r : FV) : Bnd :=
  if !r.isFin || xs.any (fun x => !x.v.isFin) then bndInf else xs.foldl (fun b x => bndMax b x.b) bndExact

/-- A selection among FP32 sources (R202). -/
def selectLane (xs : List Opnd) (pick : FV) : LV :=
  match firstNan (xs.map Opnd.v) with
  | some v => nanLane v
  | none => ⟨toF32 .rne pick, selBnd xs pick⟩

/-- `fmin` (R202). -/
def fminLane (x y : Opnd) : LV := selectLane [x, y] (fvMin x.v y.v)

/-- `fmax` (R202). -/
def fmaxLane (x y : Opnd) : LV := selectLane [x, y] (fvMax x.v y.v)

/-- `fclamp`: fmin(fmax(x, lo), hi) as one instruction (R202). -/
def fclampLane (x lo hi : Opnd) : LV := selectLane [x, lo, hi] (fvMin (fvMax x.v lo.v) hi.v)

/-- An element of a packed source (R74, R203). -/
def elem (sp : FpSpec) (x : LV) (i : Nat) : Opnd := ⟨decodeFp sp (x.val.toNat / 2 ^ (16 * i) % 65536), x.bnd⟩

/-- Two 16-bit elements and their bounds as one lane, with the larger bound (R84). -/
def packLane (p q : Nat × Bnd) : LV := ⟨BitVec.ofNat 32 (p.1 + q.1 * 65536), bndMax p.2 q.2⟩

/-- A packed element's result, NaN first (R77, R203). -/
def elemResult (sp : FpSpec) (rnd : Rnd) (srcs : List FV) (ex : FV) (prop : Option Dy) : Nat × Bnd :=
  match firstNan srcs with
  | some v => ((roundFp sp rnd false v).bits, bndInf)
  | none => finish sp rnd ex prop

/-- A packed sum of one element. -/
def addElem (sp : FpSpec) (rnd : Rnd) (x y : Opnd) : Nat × Bnd :=
  elemResult sp rnd [x.v, y.v] (addFV rnd x.v y.v) (propAdd x y)

/-- A packed product of one element. -/
def mulElem (sp : FpSpec) (rnd : Rnd) (x y : Opnd) : Nat × Bnd :=
  elemResult sp rnd [x.v, y.v] (mulFV x.v y.v) (propProd x y)

/-- A packed fused multiply-add of one element. -/
def fmaElem (sp : FpSpec) (rnd : Rnd) (x y z : Opnd) : Nat × Bnd :=
  elemResult sp rnd [x.v, y.v, z.v] (addFV rnd (mulFV x.v y.v) z.v) (propFma x y z)

/-- `dot2` of element pairs and an FP32 addend, rounded once (R204). Of several NaN elements the first in the order a.e0, a.e1, b.e0, b.e1,
c is returned (log 39, DESIGN CHOICE). -/
def dot2Lane (rnd : Rnd) (a0 a1 b0 b1 c : Opnd) : LV :=
  match firstNan [a0.v, a1.v, b0.v, b1.v, c.v] with
  | some v => nanLane v
  | none =>
    let ex := addFV rnd (addFV rnd (mulFV a0.v b0.v) (mulFV a1.v b1.v)) c.v
    let prop := match propProd a0 b0, propFma a1 b1 c with
      | some p, some q => some (p.add q)
      | _, _ => none
    lane32 (finish spF32 rnd ex prop)

/-- `fdiv` (R84, R85, R214); `frcp` is the quotient of an exact 1. -/
def divLane (rnd : Rnd) (x y : Opnd) : LV :=
  match firstNan [x.v, y.v] with
  | some v => nanLane v
  | none =>
    let s := x.v.sign != y.v.sign
    match x.v, y.v with
    | .inf _, .inf _ => nanLane dnan
    | .inf _, _ => ⟨toF32 rnd (.inf s), bndInf⟩
    | _, .inf _ => ⟨toF32 rnd (.fin s 0 0), bndInf⟩
    | .fin _ m e, .fin _ n f =>
      if n = 0 then (if m = 0 then nanLane dnan else ⟨toF32 rnd (.inf s), bndInf⟩)
      else
        let k := 64 + Nat.log2 n
        let q := m * 2 ^ k / n
        let stick := if m * 2 ^ k % n = 0 then 0 else 1
        let r := roundFp spF32 rnd false (.fin s (2 * q + stick) (e - f - k - 1))
        let d := decodeFp spF32 r.bits
        let bnd := match x.bound, y.bound with
          | some bx, some bd =>
            let X : Dy := ⟨m, e⟩
            let Y : Dy := ⟨n, f⟩
            if Y.le bd then bndInf
            else
              let den := Y.mul (Y.sub bd)
              let err := ((d.dy.abs.mul Y).sub X).abs.mul (Y.sub bd)
              let num := (err.add (X.mul bd)).add (Y.mul bx)
              leastBnd fun c => num.le (c.mul den)
          | _, _ => bndInf
        ⟨BitVec.ofNat 32 r.bits, if !d.isFin || r.clamped then bndInf else bnd⟩
    | .nan _ _, _ => nanLane dnan
    | _, .nan _ _ => nanLane dnan

/-- The steps of `isqrt`: Newton's method from above, at most `fuel` of them. -/
def isqrtLoop (n : Nat) : Nat → Nat → Nat
  | 0, x => x
  | k + 1, x =>
    let y := (x + n / x) / 2
    if y < x then isqrtLoop n k y else x

/-- The integer square root, rounded down. -/
def isqrt (n : Nat) : Nat := if n = 0 then 0 else isqrtLoop n (Nat.log2 n + 2) (2 ^ (Nat.log2 n / 2 + 1))

/-- `p + q·√x` is not negative, decided exactly by squaring. -/
def geRoot (p q x : Dy) : Bool :=
  let z := dyInt 0
  let pn := p.lt z
  let qn := q.lt z
  if !pn && !qn then true
  else if pn && qn then false
  else
    let p2 := p.mul p
    let q2 := (q.mul q).mul x
    if pn then p2.le q2 else q2.le p2

/-- `fsqrt` (R84, R85, R214). The bound compares c with prop + err exactly, where err is |r − √x|. -/
def sqrtLane (rnd : Rnd) (x : Opnd) : LV :=
  match x.v with
  | .nan n f => nanLane ((firstNan [.nan n f]).getD dnan)
  | .inf s => if s then nanLane dnan else ⟨toF32 rnd (.inf false), bndInf⟩
  | .fin s m e =>
    if m = 0 then
      ⟨toF32 rnd (.fin s 0 0), match bndVal x.b with
        | none => bndInf
        | some b => leastBnd fun c => b.le (c.mul c)⟩
    else if s then nanLane dnan
    else
      let k := 128 + (e % 2).toNat
      let n := m * 2 ^ k
      let r := isqrt n
      let stick := if r * r = n then 0 else 1
      let res := roundFp spF32 rnd false (.fin false (2 * r + stick) ((e - k) / 2 - 1))
      let d := (decodeFp spF32 res.bits).dy
      let X : Dy := ⟨m, e⟩
      let below := (d.mul d).le X
      let bnd := match bndVal x.b with
        | none => bndInf
        | some b => leastBnd fun c =>
          -- err is √x − d when d does not exceed √x, and d − √x otherwise
          let t := if below then c.add d else c.sub d
          if X.le b then
            -- prop = √b: is t − ±√x at least √b?
            (let sgn : Dy := if below then dyInt (-1) else dyInt 1
             geRoot t sgn X &&
               geRoot (((t.mul t).add X).sub b) (((sgn.mul t)).scale 1) X)
          else
            -- prop = b/√x = (b/x)·√x: t·x − (b ± x)·√x is not negative
            geRoot (t.mul X) ((if below then b.add X else b.sub X).neg) X
      ⟨BitVec.ofNat 32 res.bits, bnd⟩

/-- `frnd`: an integral FP32 value, exact (R215). -/
def frndLane (rnd : Rnd) (x : Opnd) : LV :=
  match x.v with
  | .nan n f => nanLane ((firstNan [.nan n f]).getD dnan)
  | .inf s => ⟨toF32 rnd (.inf s), bndInf⟩
  | .fin s m e => ⟨toF32 .rne (.fin s (roundInt rnd s m e) 0), bndNorm x.b⟩

/-- `fscale`: x times 2^n, rounded (R215). A count beyond ±1,000 rounds as ±1,000 does: every FP32 value and every bound
has left the range by then. -/
def fscaleLane (rnd : Rnd) (x : Opnd) (n : Int) : LV :=
  let k := max (-1000) (min 1000 n)
  match x.v with
  | .nan a f => nanLane ((firstNan [.nan a f]).getD dnan)
  | .inf s => ⟨toF32 rnd (.inf s), bndInf⟩
  | .fin s m e => lane32 (finish spF32 rnd (.fin s m (e + k)) (x.bound.map fun b => b.scale k))

/-- The class bit of a value (R216). -/
def fclassBit (w : Word) : Nat :=
  let neg := w.getLsbD 31
  let e := w.toNat / 2 ^ 23 % 256
  let f := w.toNat % 2 ^ 23
  if e = 255 then
    (if f = 0 then (if neg then 0 else 7) else if f / 2 ^ 22 = 1 then 9 else 8)
  else if e = 0 then
    (if f = 0 then (if neg then 3 else 4) else if neg then 2 else 5)
  else if neg then 1 else 6

/-! Conversions. -/

/-- A bound rounded up to integer units, as bound16 (R86). -/
def bndCeil (b : Bnd) : Bnd :=
  match bndVal b with
  | none => bndInf
  | some d => bndUp (dyInt (roundInt .ru false d.m.natAbs d.e : Nat))

/-- A conversion of one element of format `st` and bound `b` to format `dt`: its code and bound (R79, R80, R86). -/
def convert (dt st : Fmt) (rnd : Rnd) (sat : Bool) (bits : Nat) (b : Bnd) : Nat × Bnd :=
  let v := decodeFmt st bits
  let bx := if v.isFin then bndVal b else none
  match fpSpec dt with
  | some sp =>
    match v with
    | .nan n f => (nanCode sp n f, bndInf)
    | .inf s => ((roundFp sp rnd sat (.inf s)).bits, bndInf)
    | .fin s m e =>
      let r := roundFp sp rnd sat (.fin s m e)
      (r.bits, resultBnd (decodeFp sp r.bits) false bx v.dy)
  | none =>
    if dt = .e8m0 then
      (let c := toE8m0 rnd v
       (c, resultBnd (decodeFmt .e8m0 c) false bx v.dy))
    else
      let r := toInt dt rnd v
      let bnd :=
        if fmtInt st then resultBnd (.ofDy false (dyInt r.1)) false bx v.dy
        else if r.2 then bndInf else bndCeil b
      (intCode (fmtBits dt) r.1, bnd)

/-! Compares (R87, R88). -/

/-- The interval of a value, open to infinity where an end is none (R87). -/
def interval (x : Opnd) : Option (Dy × Dy) :=
  match x.bound with
  | none => none
  | some b => some (x.v.dy.sub b, x.v.dy.add b)

/-- A compare of the computed values with IEEE semantics and −0 equal to +0 (R88, R207). -/
def plainHolds (c : Cond) (x y : FV) : Bool :=
  let nan := x.isNan || y.isNan
  let z (v : FV) : FV := if v.isZero then .fin false 0 0 else v
  let le := !nan && fvLe (z x) (z y)
  let ge := !nan && fvLe (z y) (z x)
  match c with
  | .eq | .ceq => le && ge
  | .ne | .cne => !(le && ge)
  | .lt | .clt => le && !ge
  | .le | .cle => le
  | .gt | .cgt => ge && !le
  | .ge | .cge => ge
  | .ord => !nan
  | .uno => nan

/-- The condition holds for every pair of the intervals (R87). -/
def everyPair (c : Cond) (x y : Option (Dy × Dy)) : Bool :=
  match x, y with
  | some (lx, hx), some (ly, hy) =>
    match c with
    | .eq | .ceq => lx.same hx && ly.same hy && lx.same ly
    | .ne | .cne => hx.lt ly || hy.lt lx
    | .lt | .clt => hx.lt ly
    | .le | .cle => hx.le ly
    | .gt | .cgt => hy.lt lx
    | .ge | .cge => hy.le lx
    | .ord | .uno => true
  | _, _ => false

/-- The condition holds for some pair of the intervals (R88). -/
def somePair (c : Cond) (x y : Option (Dy × Dy)) : Bool :=
  match x, y with
  | some (lx, hx), some (ly, hy) =>
    match c with
    | .eq | .ceq => lx.le hy && ly.le hx
    | .ne | .cne => !(lx.same hx && ly.same hy && lx.same ly)
    | .lt | .clt => lx.lt hy
    | .le | .cle => lx.le hy
    | .gt | .cgt => ly.lt hx
    | .ge | .cge => ly.le hx
    | .ord | .uno => true
  | _, _ => true

/-- A certain condition (R172). -/
def condCertain : Cond → Bool
  | .ceq => true | .cne => true | .clt => true | .cle => true | .cgt => true | .cge => true
  | _ => false

/-- The outcome of a compare and whether it is uncertain (R87, R88). -/
def compareFV (c : Cond) (x y : Opnd) : Bool × Bool :=
  let nan := x.v.isNan || y.v.isNan
  if c == .ord || c == .uno then (plainHolds c x.v y.v, false)
  else if condCertain c then (!nan && everyPair c (interval x) (interval y), false)
  else (plainHolds c x.v y.v, nan || (somePair c (interval x) (interval y) && !everyPair c (interval x) (interval y)))

/-! The budget check (R101). -/

/-- A value passes the check of `%budget`. -/
def budgetPass (budget : Word) (x : Opnd) : Bool :=
  match bndVal (budget.extractLsb' 16 16) with
  | none => true
  | some cabs =>
    let crel := (budget.extractLsb' 6 6).toNat
    match x.bound with
    | none => false
    | some b => b.le (if crel = 0 then cabs else cabs.add (x.v.dy.abs.scale (-(crel : Int))))

end Sys2Proof.Machine
end

