-- ==== Sys2Proof/WellFormed.lean ====
section
/-! DEFINITION. Which instructions are well formed: the limits of R164 to R181, R194, R195, R211, R224, R268, R271,
R274 and R299 that the words alone decide. One check for each cause of R397 that remains once the opcode and its
reserved fields are read. -/

namespace Sys2Proof

/-- A source that a scalar field accepts: codes 0x80 to 0xE7, 0xEC and 0xED (R167). -/
def Src.scalar : Src → Bool
  | .s _ => true | .int _ => true | .fk _ => true | .exm => true | .sc => true
  | .v _ => false | .l0 => false | .l1 => false | .l2 => false | .laneid => false

/-- A source that may stand as a 64-bit operand: no f32 constant and no latch (R166). -/
def Src.wide : Src → Bool
  | .fk _ => false | .l0 => false | .l1 => false | .l2 => false
  | .v _ => true | .s _ => true | .int _ => true | .laneid => true | .exm => true | .sc => true

/-- A register source of a 64-bit operand is even (R166). -/
def Src.even : Src → Bool
  | .v r => r.extractLsb' 0 1 == 0
  | .s r => r.extractLsb' 0 1 == 0
  | _ => true

/-- A vector register operand. -/
def Src.isV : Src → Bool
  | .v _ => true
  | _ => false

/-- A predicate field names none or k1 to k11 (R164). -/
def Pred.ok (p : Pred) : Bool := p.k.toNat < 12

/-- Without a predicate mask the inversion bit goes unread, so it is reserved (R165; log 14). -/
def Pred.clean (p : Pred) : Bool := p.k != 0 || !p.neg

/-- A mask field names k0 to k11 (R38, R164). -/
def kOk (k : KReg) : Bool := k.toNat < 12

/-- A register that starts an even-aligned pair (R60, R165). -/
def even2 {n : Nat} (r : BitVec n) : Bool := r.toNat % 2 == 0

/-- A register that starts a quad (R60). -/
def quad4 {n : Nat} (r : BitVec n) : Bool := r.toNat % 4 == 0

/-- The operation classes of R195, which say what VWIDE modifier fields an operation reads. -/
inductive WideKind where
  | governed | plainFp | packed | dot | int32 | res64
deriving DecidableEq, Repr

/-- The modifier fields that a class does not read are zero, and with `nw` the destination is (R171, R195, R196). -/
def Wide.clean (m : Wide) (k : WideKind) (nsrc : Nat) : Bool :=
  (!m.nw || m.d == 0) && m.pred.clean &&
  match k with
  | .governed => m.neg >>> nsrc == 0
  | .plainFp => m.neg >>> nsrc == 0 && m.rnd == .rne && m.prec == 0
  | .packed => m.neg >>> nsrc == 0 && m.prec == 0
  | .dot => m.neg >>> nsrc == 0 && m.prec == 0
  | .int32 => m.neg == 0 && !m.abs && m.rnd == .rne && m.prec == 0
  | .res64 => m.neg == 0 && !m.abs && m.rnd == .rne && m.prec == 0 && m.cap == 0 && !m.nw && m.xl == 0

/-- Field values of a VWIDE instruction (R91, R164, R195): a cross-lane pattern needs a vector register in src0; without one, cause
0x06 (log 14, DEDUCED). -/
def Wide.valueOk (m : Wide) (a : Src) : Bool := m.pred.ok && m.prec != 3 && (m.xl == 0 || a.isV)

/-- The integer conditions, and those of the 64-bit compare (R172). -/
def Cond.isInt : Cond → Bool
  | .ord => false | .uno => false
  | _ => true

/-- The conditions of `cmp.b64` (R172). -/
def Cond.isB64 (c : Cond) : Bool := c == .eq || c == .ne

/-- The number of elements of a `cvt` source lane (R211, R212). -/
def Fmt.elements : Fmt → Nat
  | .f32 => 1 | .s32 => 1 | .n32 => 1 | .s64 => 1 | .n64 => 1 | .bnd => 1
  | .f16 => 2 | .bf16 => 2 | .s16 => 2 | .n16 => 2
  | .e4m3 => 4 | .e5m2 => 4 | .e8m0 => 4 | .s8 => 4 | .n8 => 4
  | .e2m1 => 8

/-- A format whose value fills a register pair (R211). -/
def Fmt.is64 (f : Fmt) : Bool := f == .s64 || f == .n64

/-- Formats to which `.sat` applies: type codes 1 to 6 (R211). -/
def Fmt.satOk (f : Fmt) : Bool :=
  f == .f16 || f == .bf16 || f == .e4m3 || f == .e5m2 || f == .e2m1 || f == .e8m0

/-- The formats to which `cvtpk` converts, and the positions each takes (R211). -/
def Fmt.packPos : Fmt → Nat
  | .f16 => 1 | .bf16 => 1 | .e4m3 => 2 | .e5m2 => 2 | .e2m1 => 4
  | _ => 0

/-- The two formats whose `cvtpk` form does not read src2 (R213). -/
def Fmt.packWhole (f : Fmt) : Bool := f == .f16 || f == .bf16

/-- Formats that `bchk` reads (R211). -/
def Fmt.checkable (f : Fmt) : Bool := f == .f32 || f == .f16 || f == .bf16 || f == .s32 || f == .n32

/-- Lane numbers of `bcast`: codes 0x80 to 0xDF (R211). -/
def Src.uniform : Src → Bool
  | .s _ => true | .int _ => true
  | _ => false

/-- Element types that a copy or collective reduces (R296, R299). -/
def Fmt.reducible (f : Fmt) : Bool :=
  f == .f32 || f == .f16 || f == .bf16 || f == .s32 || f == .n32 || f == .s64 || f == .n64

/-- Element types that a moving collective takes (R299): every type code but E2M1 and `bnd`. -/
def Fmt.movable (f : Fmt) : Bool := !(f == .e2m1) && !(f == .bnd)

/-- The special registers of 64 bits (R67). -/
def wideSpecial (idx : BitVec 8) : Bool :=
  idx == 0x02 || idx == 0x0F || idx == 0x10 || idx == 0x11 || idx == 0x12

/-- The GMEM operations, as far as their field limits differ (R224). -/
inductive GmemOp where
  | ld | st | atom | red | cas | pf | sld | gld | gst | gatom | gcas
deriving DecidableEq, Repr

/-- The group-space forms (R174). -/
def GmemOp.group : GmemOp → Bool
  | .gld => true | .gst => true | .gatom => true | .gcas => true
  | _ => false

/-- Unused fields are zero: a group-space form has no base pair, and `novoff` leaves the offset register unread
(R174, R224); a prefetch has no data register (R231); an absent hint names no domain (R174). -/
def Gmem.clean (g : Gmem) (op : GmemOp) : Bool :=
  (op != .pf || g.vdata == 0) && (!op.group || g.pair == 0) && (!g.novoff || g.voff == 0) && (g.hint.getLsbD 3 || g.hint == 0)

/-- An atomic operation on floating-point values (R174). -/
def Aop.isFp : Aop → Bool
  | .faddF32 => true | .fminF32 => true | .fmaxF32 => true | .faddBf16x2 => true
  | _ => false

/-- Scopes at which `.rp` is accepted (R128). -/
def Scope.far : Scope → Bool
  | .dev => true | .pool => true | .sys => true
  | _ => false

/-- The field values of R224; a destination of `sld` past the scalar registers is among them, cause 0x06 (R174; log 14, DEDUCED). -/
def Gmem.valueOk (g : Gmem) (op : GmemOp) : Bool :=
  g.dc != 6 &&
  match op with
  | .ld => (g.order == .plain || g.order == .acq) && g.aop == .iadd && (!g.rp || g.order == .acq && g.scope.far) && !g.chk
  | .gld => (g.order == .plain || g.order == .acq) && g.aop == .iadd && !g.rp && !g.chk && g.hint == 0
  | .st | .gst => g.width != .s8 && g.width != .s16 && (g.order == .plain || g.order == .rel) && g.aop == .iadd && !g.rp && g.hint == 0
  | .atom => (g.width == .b32 || g.width == .b64 && !g.aop.isFp) &&
      (!g.rp || (g.order == .acq || g.order == .ar) && g.scope.far) && !g.chk && g.hint == 0
  | .gatom => (g.width == .b32 || g.width == .b64 && !g.aop.isFp) && !g.rp && !g.chk && g.hint == 0
  | .red => (g.width == .b32 || g.width == .b64 && !g.aop.isFp) && (g.order == .plain || g.order == .rel) &&
      g.aop != .xchg && !g.rp && !g.chk && g.hint == 0
  | .cas => (g.width == .b32 || g.width == .b64) && g.aop == .iadd &&
      (!g.rp || (g.order == .acq || g.order == .ar) && g.scope.far) && !g.chk && g.hint == 0
  | .gcas => (g.width == .b32 || g.width == .b64) && g.aop == .iadd && !g.rp && !g.chk && g.hint == 0
  | .pf => g.width == .b8 && g.order == .plain && g.aop == .iadd && !g.rp && !g.chk && g.dc == 7
  | .sld => g.width != .b128 && (g.order == .plain || g.order == .acq) && g.aop == .iadd && !g.rp && !g.chk &&
      !g.vdata.getLsbD 6 && g.novoff

/-- The alignment of the data register (R224). -/
def Gmem.alignOk (g : Gmem) (op : GmemOp) : Bool :=
  match op with
  | .ld | .st | .gld | .gst => (g.width != .b64 || even2 g.vdata) && (g.width != .b128 || quad4 g.vdata)
  | .atom | .red | .gatom | .sld => g.width != .b64 || even2 g.vdata
  | .cas | .gcas => (g.width != .b32 || even2 g.vdata) && (g.width != .b64 || quad4 g.vdata)
  | .pf => true

/-- The fields of a matrix operand specifier (R180). -/
structure Spec where
  enc : BitVec 4
  layout : BitVec 2
  sblk : BitVec 2
  senc : BitVec 4
  ssrc : BitVec 2
  tscale : BitVec 2
  dcap : BitVec 3
  stride : BitVec 13
deriving DecidableEq, Repr

/-- The specifier that a word holds (R180). -/
def Spec.ofWord (w : Word) : Spec :=
  ⟨w.extractLsb' 0 4, w.extractLsb' 4 2, w.extractLsb' 6 2, w.extractLsb' 8 4, w.extractLsb' 12 2, w.extractLsb' 14 2,
    w.extractLsb' 16 3, w.extractLsb' 19 13⟩

/-- The instructions that take a specifier (R268). -/
inductive MatUse where
  | ldb | mma | mmar | st
deriving DecidableEq, Repr

/-- Element type codes of A and B (R268): F16, BF16, E4M3, E5M2, E2M1, s8 and n8. -/
def matInCode (c : BitVec 4) : Bool := c == 1 || c == 2 || c == 3 || c == 4 || c == 5 || c == 7 || c == 10

/-- The accepted fields of R268, with `ssrc` non-zero only beside a scale block. -/
def Spec.fieldsOk (p : Spec) (u : MatUse) : Bool :=
  (p.ssrc == 0 || p.sblk != 0) && p.dcap.toNat ≤ 4 && p.tscale.toNat ≤ 1 &&
  match u with
  | .ldb => matInCode p.enc && (p.ssrc != 1 || p.layout == 1) &&
      (if p.ssrc == 0 then p.senc == 0 else p.senc == 3 || p.senc == 4 || p.senc == 6) && p.dcap == 0
  | .mma => matInCode p.enc && (p.ssrc != 1 || p.layout == 0) &&
      (if p.ssrc == 0 then p.senc == 0 else p.senc == 3 || p.senc == 4 || p.senc == 6)
  | .mmar => matInCode p.enc && p.layout == 0 && p.ssrc == 0 && p.senc == 0 && p.tscale == 0 && p.stride == 0
  | .st => (p.enc == 0 || p.enc == 1 || p.enc == 2 || p.enc == 3 || p.enc == 4 || p.enc == 5 || p.enc == 7) &&
      (p.sblk == 0 || p.enc == 3 || p.enc == 4 || p.enc == 5 || p.enc == 7) && p.ssrc != 3 &&
      (if p.ssrc == 0 then p.senc == 0 else p.senc == 6) && p.tscale == 0 && p.dcap == 0

/-- The highest scalar register that the operands need, counted from sa (R271). -/
def Spec.top (p : Spec) (u : MatUse) : Nat :=
  match u with
  | .mma => if p.tscale == 1 then 2 else if p.ssrc == 2 || p.ssrc == 3 then 1 else 0
  | .mmar => 0
  | .ldb => if p.tscale == 1 then 4 else if p.ssrc == 2 then 3 else if p.ssrc == 3 then 2 else 1
  | .st => if p.ssrc == 2 then 3 else 1

/-- A specifier is accepted for a use with its scalar registers from `sa` on (R268, R271). -/
def Spec.ok (p : Spec) (u : MatUse) (sa : Nat) : Bool := p.fieldsOk u && sa + p.top u ≤ 63

/-- An inline specifier must be accepted by the word alone; one in a scalar register is checked at issue (R180). -/
def MatSpec.inlineOk (m : MatSpec) (u : MatUse) (sa : SReg) : Bool :=
  match m with
  | .inline w => (Spec.ofWord w).ok u sa.toNat
  | .reg _ => true

/-- A copy names a counter, a transaction barrier, or both (R181). -/
def Done.ok (c : Done) : Bool := c.dc != 6 && (c.dc != 7 || c.txb.isSome)

/-- A dependency-counter field that must name a counter (R164). -/
def dcNamed (dc : BitVec 3) : Bool := dc.toNat < 6

/-- The op4 and condition pair is allocated (R172); every other opcode is a constructor. -/
def allocOk (i : Instr) : Bool :=
  match i with
  | .cmpS32 _ c _ _ => c.isInt
  | .cmpN32 _ c _ _ => c.isInt
  | .cmpB64 _ c _ _ => c.isB64
  | _ => true

/-- No field that the operation leaves unread holds a value (R165, R194, R195, R213). -/
def reservedOk (i : Instr) : Bool :=
  match i with
  | .wIaddB32 m _ _ => m.clean .int32 2
  | .wIsubB32 m _ _ => m.clean .int32 2
  | .wImulB32 m _ _ => m.clean .int32 2
  | .wAnd m _ _ => m.clean .int32 2
  | .wOr m _ _ => m.clean .int32 2
  | .wXor m _ _ => m.clean .int32 2
  | .wShl m _ _ => m.clean .int32 2
  | .wShrN32 m _ _ => m.clean .int32 2
  | .wShrS32 m _ _ => m.clean .int32 2
  | .wIminS32 m _ _ => m.clean .int32 2
  | .wIminN32 m _ _ => m.clean .int32 2
  | .wImaxS32 m _ _ => m.clean .int32 2
  | .wImaxN32 m _ _ => m.clean .int32 2
  | .wFaddF32 m _ _ => m.clean .governed 2
  | .wFsubF32 m _ _ => m.clean .governed 2
  | .wFmulF32 m _ _ => m.clean .governed 2
  | .wFminF32 m _ _ => m.clean .plainFp 2
  | .wFmaxF32 m _ _ => m.clean .plainFp 2
  | .wMovB32 m _ => m.clean .int32 1
  | .wFaddF16x2 m _ _ => m.clean .packed 2
  | .wFmulF16x2 m _ _ => m.clean .packed 2
  | .wFaddBf16x2 m _ _ => m.clean .packed 2
  | .wFmulBf16x2 m _ _ => m.clean .packed 2
  | .ffmaF32 m _ _ _ => m.clean .governed 3
  | .ffmaF16x2 m _ _ _ => m.clean .packed 3
  | .ffmaBf16x2 m _ _ _ => m.clean .packed 3
  | .imad m _ _ _ => m.clean .int32 3
  | .imadhiS32 m _ _ _ => m.clean .int32 3
  | .imadhiN32 m _ _ _ => m.clean .int32 3
  | .imadwN32 m _ _ _ => m.clean .res64 3
  | .imadwS32 m _ _ _ => m.clean .res64 3
  | .wBfeN32 m _ _ => m.clean .int32 2
  | .wBfeS32 m _ _ => m.clean .int32 2
  | .wBfiB32 m _ _ _ => m.clean .int32 3
  | .leaB64 m _ _ _ => m.clean .res64 3
  | .wIaddB64 m _ _ => m.clean .res64 2
  | .dot4S8 m _ _ _ => m.clean .int32 3
  | .dot2F16 m _ _ _ => m.clean .dot 3
  | .dot2Bf16 m _ _ _ => m.clean .dot 3
  | .fclampF32 m _ _ _ => m.clean .plainFp 3
  | .wPopc m _ => m.clean .int32 1
  | .wClz m _ => m.clean .int32 1
  | .brev m _ => m.clean .int32 1
  | .cvtpk p _ _ _ c dt _ _ _ => (!dt.packWhole || c == .v 0) && p.clean
  | .ld g => g.clean .ld
  | .st g => g.clean .st
  | .atom g => g.clean .atom
  | .red g => g.clean .red
  | .cas g => g.clean .cas
  | .pf g => g.clean .pf
  | .sld g => g.clean .sld
  | .gld g => g.clean .gld
  | .gst g => g.clean .gst
  | .gatom g => g.clean .gatom
  | .gcas g => g.clean .gcas
  | .cvt p _ _ _ _ _ _ _ => p.clean
  | .frcp p _ _ _ => p.clean
  | .frsq p _ _ => p.clean
  | .fsqrt p _ _ _ => p.clean
  | .fdiv p _ _ _ _ => p.clean
  | .fexp2 p _ _ => p.clean
  | .flog2 p _ _ => p.clean
  | .fsin p _ _ => p.clean
  | .fcos p _ _ => p.clean
  | .ftanh p _ _ => p.clean
  | .frnd p _ _ _ => p.clean
  | .fclass p _ _ => p.clean
  | .fscale p _ _ _ _ => p.clean
  | .shflIdx p _ _ _ _ _ => p.clean
  | .shflUp p _ _ _ _ _ => p.clean
  | .shflDown p _ _ _ _ _ => p.clean
  | .shflXor p _ _ _ _ _ => p.clean
  | .bcast p _ _ _ => p.clean
  | .redux p _ _ _ => p.clean
  | .scan p _ _ _ _ => p.clean
  | .msel p _ _ _ _ => p.clean
  | .brd p _ _ _ => p.clean
  | .bwr p _ _ _ _ _ => p.clean
  | .bclr p _ _ => p.clean
  | .bchk p _ _ => p.clean
  | .barArv p _ => p.clean
  | .barWt p _ => p.clean
  | .barSync p _ => p.clean
  | .cbarArv p _ => p.clean
  | .cbarWt p _ => p.clean
  | .txbInit p _ _ => p.clean
  | .txbExp p _ _ => p.clean
  | .txbArv p _ => p.clean
  | .txbWt p _ _ => p.clean
  | .kjoin p _ => p.clean
  | .kleave p _ => p.clean
  | .kwait p _ => p.clean
  | .tail p => p.clean
  | _ => true

/-- No field holds an excluded value or combination (cause 0x06 of R397). -/
def valueOk (i : Instr) : Bool :=
  match i with
  | .wIaddB32 m a _ => m.valueOk a
  | .wIsubB32 m a _ => m.valueOk a
  | .wImulB32 m a _ => m.valueOk a
  | .wAnd m a _ => m.valueOk a
  | .wOr m a _ => m.valueOk a
  | .wXor m a _ => m.valueOk a
  | .wShl m a _ => m.valueOk a
  | .wShrN32 m a _ => m.valueOk a
  | .wShrS32 m a _ => m.valueOk a
  | .wIminS32 m a _ => m.valueOk a
  | .wIminN32 m a _ => m.valueOk a
  | .wImaxS32 m a _ => m.valueOk a
  | .wImaxN32 m a _ => m.valueOk a
  | .wFaddF32 m a _ => m.valueOk a
  | .wFsubF32 m a _ => m.valueOk a
  | .wFmulF32 m a _ => m.valueOk a
  | .wFminF32 m a _ => m.valueOk a
  | .wFmaxF32 m a _ => m.valueOk a
  | .wMovB32 m a => m.valueOk a
  | .wFaddF16x2 m a _ => m.valueOk a
  | .wFmulF16x2 m a _ => m.valueOk a
  | .wFaddBf16x2 m a _ => m.valueOk a
  | .wFmulBf16x2 m a _ => m.valueOk a
  | .ffmaF32 m a _ _ => m.valueOk a
  | .ffmaF16x2 m a _ _ => m.valueOk a
  | .ffmaBf16x2 m a _ _ => m.valueOk a
  | .imad m a _ _ => m.valueOk a
  | .imadhiS32 m a _ _ => m.valueOk a
  | .imadhiN32 m a _ _ => m.valueOk a
  | .imadwN32 m a _ c => m.valueOk a && c.wide
  | .imadwS32 m a _ c => m.valueOk a && c.wide
  | .wBfeN32 m a _ => m.valueOk a
  | .wBfeS32 m a _ => m.valueOk a
  | .wBfiB32 m a _ _ => m.valueOk a
  | .leaB64 m a _ _ => m.valueOk a && a.wide
  | .wIaddB64 m a b => m.valueOk a && a.wide && b.wide
  | .dot4S8 m a _ _ => m.valueOk a
  | .dot2F16 m a _ _ => m.valueOk a
  | .dot2Bf16 m a _ _ => m.valueOk a
  | .fclampF32 m a _ _ => m.valueOk a
  | .wPopc m a => m.valueOk a
  | .wClz m a => m.valueOk a
  | .brev m a => m.valueOk a
  | .sIaddB32 _ a b => a.scalar && b.scalar
  | .sIsubB32 _ a b => a.scalar && b.scalar
  | .sImulB32 _ a b => a.scalar && b.scalar
  | .imulhiS32 _ a b => a.scalar && b.scalar
  | .imulhiN32 _ a b => a.scalar && b.scalar
  | .sAnd _ a b => a.scalar && b.scalar
  | .sOr _ a b => a.scalar && b.scalar
  | .sXor _ a b => a.scalar && b.scalar
  | .andn _ a b => a.scalar && b.scalar
  | .sShl _ a b => a.scalar && b.scalar
  | .sShrN32 _ a b => a.scalar && b.scalar
  | .sShrS32 _ a b => a.scalar && b.scalar
  | .sIminS32 _ a b => a.scalar && b.scalar
  | .sIminN32 _ a b => a.scalar && b.scalar
  | .sImaxS32 _ a b => a.scalar && b.scalar
  | .sImaxN32 _ a b => a.scalar && b.scalar
  | .sIaddB64 _ a b => a.scalar && b.scalar && a.wide && b.wide
  | .isubB64 _ a b => a.scalar && b.scalar && a.wide && b.wide
  | .shlB64 _ a b => a.scalar && b.scalar && a.wide
  | .shrN64 _ a b => a.scalar && b.scalar && a.wide
  | .shrS64 _ a b => a.scalar && b.scalar && a.wide
  | .sBfeN32 _ a b => a.scalar && b.scalar
  | .sBfeS32 _ a b => a.scalar && b.scalar
  | .sBfiB32 _ a b => a.scalar && b.scalar
  | .selB32 _ a b => a.scalar && b.scalar
  | .cmpEqB32 a b => a.scalar && b.scalar
  | .cmpNeB32 a b => a.scalar && b.scalar
  | .cmpLtS32 a b => a.scalar && b.scalar
  | .cmpLeS32 a b => a.scalar && b.scalar
  | .cmpLtN32 a b => a.scalar && b.scalar
  | .cmpLeN32 a b => a.scalar && b.scalar
  | .cmpEqB64 a b => a.scalar && b.scalar && a.wide && b.wide
  | .cmpNeB64 a b => a.scalar && b.scalar && a.wide && b.wide
  | .sPopc _ a => a.scalar
  | .sClz _ a => a.scalar
  | .ctz _ a => a.scalar
  | .cmpF32 d _ _ _ => kOk d
  | .cmpF16 d _ _ _ => kOk d
  | .cmpBf16 d _ _ _ => kOk d
  | .cmpS32 d _ _ _ => kOk d
  | .cmpN32 d _ _ _ => kOk d
  | .cmpB64 d _ a b => kOk d && a.wide && b.wide
  | .kand d a b => kOk d && kOk a && kOk b
  | .kor d a b => kOk d && kOk a && kOk b
  | .kxor d a b => kOk d && kOk a && kOk b
  | .kandn d a b => kOk d && kOk a && kOk b
  | .knot d a => kOk d && kOk a
  | .kmovK d a => kOk d && kOk a
  | .kmovFromS d a => kOk d && a.scalar
  | .kmovToS _ a => kOk a
  | .voteBallot d _ => kOk d
  | .voteAny d _ => kOk d
  | .voteAll d _ => kOk d
  | .cvt p _ a dt st _ sat el => p.ok && dt != .bnd && st != .bnd && dt != st && (!sat || dt.satOk) && el.toNat < st.elements && (!st.is64 || a.wide)
  | .cvtpk p _ _ _ _ dt _ _ pos => p.ok && pos.toNat < dt.packPos
  | .frcp p _ _ _ => p.ok
  | .frsq p _ _ => p.ok
  | .fsqrt p _ _ _ => p.ok
  | .fdiv p _ _ _ _ => p.ok
  | .fexp2 p _ _ => p.ok
  | .flog2 p _ _ => p.ok
  | .fsin p _ _ => p.ok
  | .fcos p _ _ => p.ok
  | .ftanh p _ _ => p.ok
  | .frnd p _ _ _ => p.ok
  | .fclass p _ _ => p.ok
  | .fscale p _ _ _ _ => p.ok
  | .shflIdx p _ _ _ _ _ => p.ok
  | .shflUp p _ _ _ _ _ => p.ok
  | .shflDown p _ _ _ _ _ => p.ok
  | .shflXor p _ _ _ _ _ => p.ok
  | .redux p _ _ _ => p.ok
  | .scan p _ _ _ _ => p.ok
  | .brd p _ _ _ => p.ok
  | .bwr p _ _ _ _ _ => p.ok
  | .bclr p _ _ => p.ok
  | .bcast p _ _ b => p.ok && b.uniform
  | .msel p _ _ _ k => p.ok && kOk k
  | .bchk p _ st => p.ok && st.checkable
  | .ld g => g.valueOk .ld
  | .st g => g.valueOk .st
  | .atom g => g.valueOk .atom
  | .red g => g.valueOk .red
  | .cas g => g.valueOk .cas
  | .pf g => g.valueOk .pf
  | .sld g => g.valueOk .sld
  | .gld g => g.valueOk .gld
  | .gst g => g.valueOk .gst
  | .gatom g => g.valueOk .gatom
  | .gcas g => g.valueOk .gcas
  | .brc k _ => kOk k
  | .brcNot k _ => kOk k
  | .barArv p _ => p.ok
  | .barWt p _ => p.ok
  | .barSync p _ => p.ok
  | .cbarArv p _ => p.ok
  | .cbarWt p _ => p.ok
  | .txbArv p _ => p.ok
  | .txbInit p _ _ => p.ok
  | .txbExp p _ _ => p.ok
  | .txbWt p _ _ => p.ok
  | .kjoin p k => p.ok && kOk k
  | .kleave p k => p.ok && kOk k
  | .kwait p k => p.ok && kOk k
  | .fence o _ => o != .plain
  | .waitd m => m != 0
  | .tail p => p.ok
  | .sysr d _ => match d with | .v _ => true | .s _ => true | _ => false
  | .sysw i a => a.scalar && (!wideSpecial i || a.wide)
  | .sleep a => a.scalar
  | .budget a => a.scalar
  | .launch _ dc => dcNamed dc
  | .xacq n => n != 0
  | .matAlloc n => 1 ≤ n.toNat && n.toNat ≤ 128
  | .matLdb sa _ _ sp dc => dcNamed dc && sp.inlineOk .ldb sa
  | .matMma sa _ sp dc => dcNamed dc && sp.inlineOk .mma sa
  | .matMmar _ _ sp dc => dcNamed dc && sp.inlineOk .mmar 0
  | .matSt sa _ sp dc => dcNamed dc && sp.inlineOk .st sa
  | .matRd _ _ c => quad4 c
  | .matWr _ _ c => quad4 c
  | .cpyTIn c _ _ _ => c.ok
  | .cpyTOut c _ _ _ => c.ok
  | .cpyBIn c _ _ _ => c.ok
  | .cpyBOut c _ _ _ => c.ok
  | .cpyP c _ _ _ _ => c.ok
  | .cpyRed c _ _ _ ty _ => c.ok && ty.reducible
  | .cpyG c _ _ _ _ => c.ok
  | .colAr dc _ _ _ _ ty _ => dcNamed dc && ty.reducible
  | .colRs dc _ _ _ _ ty _ => dcNamed dc && ty.reducible
  | .colAg dc _ _ _ _ ty => dcNamed dc && ty.movable
  | .colA2a dc _ _ _ _ ty => dcNamed dc && ty.movable
  | .colBc dc _ _ _ _ _ ty => dcNamed dc && ty.movable
  | .clauseHeader n cls _ _ => n != 0 && cls.toNat ≤ 5
  | _ => true

/-- Pairs and quads are aligned (cause 0x07 of R397). -/
def alignOk (i : Instr) : Bool :=
  match i with
  | .imadwN32 m _ _ c => even2 m.d && c.even
  | .imadwS32 m _ _ c => even2 m.d && c.even
  | .leaB64 m a _ _ => even2 m.d && a.even
  | .wIaddB64 m a b => even2 m.d && a.even && b.even
  | .sIaddB64 d a b => even2 d && a.even && b.even
  | .isubB64 d a b => even2 d && a.even && b.even
  | .shlB64 d a _ => even2 d && a.even
  | .shrN64 d a _ => even2 d && a.even
  | .shrS64 d a _ => even2 d && a.even
  | .cmpEqB64 a b => a.even && b.even
  | .cmpNeB64 a b => a.even && b.even
  | .cmpB64 _ _ a b => a.even && b.even
  | .cvt _ d a dt st _ _ _ => (!dt.is64 || even2 d) && (!st.is64 || a.even)
  | .ld g => g.alignOk .ld
  | .st g => g.alignOk .st
  | .atom g => g.alignOk .atom
  | .red g => g.alignOk .red
  | .cas g => g.alignOk .cas
  | .pf g => g.alignOk .pf
  | .sld g => g.alignOk .sld
  | .gld g => g.alignOk .gld
  | .gst g => g.alignOk .gst
  | .gatom g => g.alignOk .gatom
  | .gcas g => g.alignOk .gcas
  | .ldsB64 d _ _ => even2 d
  | .stsB64 d _ _ => even2 d
  | .satomCas d _ _ => even2 d
  | .ldsB128 d _ _ => quad4 d
  | .stsB128 d _ _ => quad4 d
  | .sysr d i => !wideSpecial i || d.even
  | .sysw i a => !wideSpecial i || a.even
  | .time d => even2 d
  | .matLdb sa _ _ _ _ => even2 sa
  | .matSt sa _ _ _ => even2 sa
  | .matRd d _ _ => quad4 d
  | .matWr d _ _ => quad4 d
  | .cpyTIn _ sa _ _ => even2 sa
  | .cpyTOut _ sa _ _ => even2 sa
  | .cpyBIn _ sa _ _ => even2 sa
  | .cpyBOut _ sa _ _ => even2 sa
  | .cpyRed _ sa _ _ _ _ => even2 sa
  | .cpyPf sa _ => even2 sa
  | .cpyG _ sa _ _ _ => even2 sa
  | .colAr _ _ sb sc _ _ _ => even2 sb && even2 sc
  | .colRs _ _ sb sc _ _ _ => even2 sb && even2 sc
  | .colAg _ _ sb sc _ _ => even2 sb && even2 sc
  | .colA2a _ _ sb sc _ _ => even2 sb && even2 sc
  | .colBc _ _ sb sc _ _ _ => even2 sb && even2 sc
  | _ => true

/-- k0 is no destination (cause 0x0D of R397). -/
def k0Ok (i : Instr) : Bool :=
  match i with
  | .cmpF32 d _ _ _ => d != 0
  | .cmpF16 d _ _ _ => d != 0
  | .cmpBf16 d _ _ _ => d != 0
  | .cmpS32 d _ _ _ => d != 0
  | .cmpN32 d _ _ _ => d != 0
  | .cmpB64 d _ _ _ => d != 0
  | .kand d _ _ => d != 0
  | .kor d _ _ => d != 0
  | .kxor d _ _ => d != 0
  | .kandn d _ _ => d != 0
  | .knot d _ => d != 0
  | .kmovK d _ => d != 0
  | .kmovFromS d _ => d != 0
  | .voteBallot d _ => d != 0
  | .voteAny d _ => d != 0
  | .voteAll d _ => d != 0
  | .kjoin _ k => k != 0
  | .kleave _ k => k != 0
  | _ => true

/-- A step of the machine that is no instruction word: it has no encoding. -/
def isWord (i : Instr) : Bool :=
  match i with
  | .sIaddB32 _ _ _ => true
  | .sIsubB32 _ _ _ => true
  | .sImulB32 _ _ _ => true
  | .imulhiS32 _ _ _ => true
  | .imulhiN32 _ _ _ => true
  | .sAnd _ _ _ => true
  | .sOr _ _ _ => true
  | .sXor _ _ _ => true
  | .andn _ _ _ => true
  | .sShl _ _ _ => true
  | .sShrN32 _ _ _ => true
  | .sShrS32 _ _ _ => true
  | .sIminS32 _ _ _ => true
  | .sIminN32 _ _ _ => true
  | .sImaxS32 _ _ _ => true
  | .sImaxN32 _ _ _ => true
  | .sIaddB64 _ _ _ => true
  | .isubB64 _ _ _ => true
  | .shlB64 _ _ _ => true
  | .shrN64 _ _ _ => true
  | .shrS64 _ _ _ => true
  | .sBfeN32 _ _ _ => true
  | .sBfeS32 _ _ _ => true
  | .sBfiB32 _ _ _ => true
  | .selB32 _ _ _ => true
  | .cmpEqB32 _ _ => true
  | .cmpNeB32 _ _ => true
  | .cmpLtS32 _ _ => true
  | .cmpLeS32 _ _ => true
  | .cmpLtN32 _ _ => true
  | .cmpLeN32 _ _ => true
  | .cmpEqB64 _ _ => true
  | .cmpNeB64 _ _ => true
  | .sPopc _ _ => true
  | .sClz _ _ => true
  | .ctz _ _ => true
  | .movk _ _ => true
  | .movhi _ _ => true
  | .iaddk _ _ => true
  | .cmpkEq _ _ => true
  | .cmpkLtS32 _ _ => true
  | .cmpkLtN32 _ _ => true
  | .mulk _ _ => true
  | .vIaddB32 _ _ _ => true
  | .vIsubB32 _ _ _ => true
  | .vImulB32 _ _ _ => true
  | .vAnd _ _ _ => true
  | .vOr _ _ _ => true
  | .vXor _ _ _ => true
  | .vShl _ _ _ => true
  | .vShrN32 _ _ _ => true
  | .vShrS32 _ _ _ => true
  | .vIminS32 _ _ _ => true
  | .vIminN32 _ _ _ => true
  | .vImaxS32 _ _ _ => true
  | .vImaxN32 _ _ _ => true
  | .vFaddF32 _ _ _ => true
  | .vFsubF32 _ _ _ => true
  | .vFmulF32 _ _ _ => true
  | .vFminF32 _ _ _ => true
  | .vFmaxF32 _ _ _ => true
  | .vMovB32 _ _ => true
  | .vFaddF16x2 _ _ _ => true
  | .vFmulF16x2 _ _ _ => true
  | .vFaddBf16x2 _ _ _ => true
  | .vFmulBf16x2 _ _ _ => true
  | .wIaddB32 _ _ _ => true
  | .wIsubB32 _ _ _ => true
  | .wImulB32 _ _ _ => true
  | .wAnd _ _ _ => true
  | .wOr _ _ _ => true
  | .wXor _ _ _ => true
  | .wShl _ _ _ => true
  | .wShrN32 _ _ _ => true
  | .wShrS32 _ _ _ => true
  | .wIminS32 _ _ _ => true
  | .wIminN32 _ _ _ => true
  | .wImaxS32 _ _ _ => true
  | .wImaxN32 _ _ _ => true
  | .wFaddF32 _ _ _ => true
  | .wFsubF32 _ _ _ => true
  | .wFmulF32 _ _ _ => true
  | .wFminF32 _ _ _ => true
  | .wFmaxF32 _ _ _ => true
  | .wMovB32 _ _ => true
  | .wFaddF16x2 _ _ _ => true
  | .wFmulF16x2 _ _ _ => true
  | .wFaddBf16x2 _ _ _ => true
  | .wFmulBf16x2 _ _ _ => true
  | .ffmaF32 _ _ _ _ => true
  | .ffmaF16x2 _ _ _ _ => true
  | .ffmaBf16x2 _ _ _ _ => true
  | .imad _ _ _ _ => true
  | .imadhiS32 _ _ _ _ => true
  | .imadhiN32 _ _ _ _ => true
  | .imadwN32 _ _ _ _ => true
  | .imadwS32 _ _ _ _ => true
  | .wBfeN32 _ _ _ => true
  | .wBfeS32 _ _ _ => true
  | .wBfiB32 _ _ _ _ => true
  | .leaB64 _ _ _ _ => true
  | .wIaddB64 _ _ _ => true
  | .dot4S8 _ _ _ _ => true
  | .dot2F16 _ _ _ _ => true
  | .dot2Bf16 _ _ _ _ => true
  | .fclampF32 _ _ _ _ => true
  | .wPopc _ _ => true
  | .wClz _ _ => true
  | .brev _ _ => true
  | .cmpF32 _ _ _ _ => true
  | .cmpF16 _ _ _ _ => true
  | .cmpBf16 _ _ _ _ => true
  | .cmpS32 _ _ _ _ => true
  | .cmpN32 _ _ _ _ => true
  | .cmpB64 _ _ _ _ => true
  | .kand _ _ _ => true
  | .kor _ _ _ => true
  | .kxor _ _ _ => true
  | .kandn _ _ _ => true
  | .knot _ _ => true
  | .kmovK _ _ => true
  | .kmovFromS _ _ => true
  | .kmovToS _ _ => true
  | .voteBallot _ _ => true
  | .voteAny _ _ => true
  | .voteAll _ _ => true
  | .cvt _ _ _ _ _ _ _ _ => true
  | .cvtpk _ _ _ _ _ _ _ _ _ => true
  | .frcp _ _ _ _ => true
  | .frsq _ _ _ => true
  | .fsqrt _ _ _ _ => true
  | .fdiv _ _ _ _ _ => true
  | .fexp2 _ _ _ => true
  | .flog2 _ _ _ => true
  | .fsin _ _ _ => true
  | .fcos _ _ _ => true
  | .ftanh _ _ _ => true
  | .frnd _ _ _ _ => true
  | .fclass _ _ _ => true
  | .fscale _ _ _ _ _ => true
  | .shflIdx _ _ _ _ _ _ => true
  | .shflUp _ _ _ _ _ _ => true
  | .shflDown _ _ _ _ _ _ => true
  | .shflXor _ _ _ _ _ _ => true
  | .bcast _ _ _ _ => true
  | .redux _ _ _ _ => true
  | .scan _ _ _ _ _ => true
  | .msel _ _ _ _ _ => true
  | .brd _ _ _ _ => true
  | .bwr _ _ _ _ _ _ => true
  | .bclr _ _ _ => true
  | .bchk _ _ _ => true
  | .ld _ => true
  | .st _ => true
  | .atom _ => true
  | .red _ => true
  | .cas _ => true
  | .pf _ => true
  | .sld _ => true
  | .gld _ => true
  | .gst _ => true
  | .gatom _ => true
  | .gcas _ => true
  | .ldsB32 _ _ _ => true
  | .ldsB64 _ _ _ => true
  | .ldsB128 _ _ _ => true
  | .stsB32 _ _ _ => true
  | .stsB64 _ _ _ => true
  | .stsB128 _ _ _ => true
  | .ldsN8 _ _ _ => true
  | .ldsS8 _ _ _ => true
  | .ldsN16 _ _ _ => true
  | .ldsS16 _ _ _ => true
  | .stsB8 _ _ _ => true
  | .stsB16 _ _ _ => true
  | .satomIadd _ _ _ => true
  | .satomIminS _ _ _ => true
  | .satomImaxS _ _ _ => true
  | .satomCas _ _ _ => true
  | .satomXchg _ _ _ => true
  | .satomFaddF32 _ _ _ => true
  | .satomIminN _ _ _ => true
  | .satomImaxN _ _ _ => true
  | .satomOr _ _ _ => true
  | .satomAnd _ _ _ => true
  | .bra _ => true
  | .brc _ _ => true
  | .brcNot _ _ => true
  | .brs _ => true
  | .brsNot _ => true
  | .call _ => true
  | .jmp _ => true
  | .calli _ => true
  | .ret => true
  | .meet _ => true
  | .barArv _ _ => true
  | .barWt _ _ => true
  | .barSync _ _ => true
  | .cbarArv _ _ => true
  | .cbarWt _ _ => true
  | .txbInit _ _ _ => true
  | .txbExp _ _ _ => true
  | .txbArv _ _ => true
  | .txbWt _ _ _ => true
  | .kjoin _ _ => true
  | .kleave _ _ => true
  | .kwait _ _ => true
  | .fence _ _ => true
  | .waitd _ => true
  | .icinv _ _ _ => true
  | .isync => true
  | .nop => true
  | .tail _ => true
  | .trap _ => true
  | .rte => true
  | .sysr _ _ => true
  | .sysw _ _ => true
  | .time _ => true
  | .sleep _ => true
  | .yield => true
  | .bkpt _ => true
  | .budget _ => true
  | .launch _ _ => true
  | .xacq _ => true
  | .xrel => true
  | .matAlloc _ => true
  | .matFree => true
  | .matEdge _ _ => true
  | .matLdb _ _ _ _ _ => true
  | .matMma _ _ _ _ => true
  | .matMmar _ _ _ _ => true
  | .matZero _ => true
  | .matRd _ _ _ => true
  | .matWr _ _ _ => true
  | .matSt _ _ _ _ => true
  | .matRbnd _ _ => true
  | .matBank _ => true
  | .cpyTIn _ _ _ _ => true
  | .cpyTOut _ _ _ _ => true
  | .cpyBIn _ _ _ _ => true
  | .cpyBOut _ _ _ _ => true
  | .cpyP _ _ _ _ _ => true
  | .cpyRed _ _ _ _ _ _ => true
  | .cpyPf _ _ => true
  | .cpyG _ _ _ _ _ => true
  | .colAr _ _ _ _ _ _ _ => true
  | .colAg _ _ _ _ _ _ => true
  | .colRs _ _ _ _ _ _ _ => true
  | .colA2a _ _ _ _ _ _ => true
  | .colBc _ _ _ _ _ _ _ => true
  | .clauseHeader _ _ _ _ => true
  | _ => false

/-- The well-formed instructions: those that the words of R157 to R181 can spell and that R182 does not exclude. -/
def wf (i : Instr) : Bool := isWord i && allocOk i && reservedOk i && valueOk i && alignOk i && k0Ok i

end Sys2Proof
end

