-- ==== Sys2Proof/Decode.lean ====
section
/-! DEFINITION. The decoder, total on any words and rejecting by cause (R157 to R182, R397), and the encoder, from the
same tables: R163 to R181. -/

namespace Sys2Proof

/-- The operand that an 8-bit source code names (R166); codes 0xEE to 0xFF name none. -/
def Src.ofCode (c : BitVec 8) : Option Src :=
  if c.toNat < 0x80 then some (.v (c.extractLsb' 0 7))
  else if c.toNat < 0xC0 then some (.s (c.extractLsb' 0 6))
  else if c.toNat < 0xE0 then some (.int (c.extractLsb' 0 5))
  else if c.toNat < 0xE8 then some (.fk (c.extractLsb' 0 3))
  else match c.toNat with
    | 0xE8 => some .l0 | 0xE9 => some .l1 | 0xEA => some .l2
    | 0xEB => some .laneid | 0xEC => some .exm | 0xED => some .sc
    | _ => none

/-- The code of an operand (R166). -/
def Src.code : Src → BitVec 8
  | .v r => 0#1 ++ r
  | .s r => 2#2 ++ r
  | .int n => 6#3 ++ n
  | .fk c => 0x1C#5 ++ c
  | .l0 => 0xE8 | .l1 => 0xE9 | .l2 => 0xEA | .laneid => 0xEB | .exm => 0xEC | .sc => 0xED

/-- Rounding-mode codes, in the order of R187. -/
def Rnd.code : Rnd → BitVec 2
  | .rne => 0 | .rz => 1 | .rd => 2 | .ru => 3

/-- The rounding mode of a code (R76, R187). -/
def Rnd.ofCode (c : BitVec 2) : Rnd :=
  match c.toNat with
  | 0 => .rne | 1 => .rz | 2 => .rd | _ => .ru

/-- Type codes (R74). -/
def Fmt.code : Fmt → BitVec 4
  | .f32 => 0 | .f16 => 1 | .bf16 => 2 | .e4m3 => 3 | .e5m2 => 4 | .e2m1 => 5 | .e8m0 => 6 | .s8 => 7
  | .s16 => 8 | .s32 => 9 | .n8 => 10 | .n16 => 11 | .n32 => 12 | .s64 => 13 | .n64 => 14 | .bnd => 15

/-- The format of a type code (R74). -/
def Fmt.ofCode (c : BitVec 4) : Fmt :=
  match c.toNat with
  | 0 => .f32 | 1 => .f16 | 2 => .bf16 | 3 => .e4m3 | 4 => .e5m2 | 5 => .e2m1 | 6 => .e8m0 | 7 => .s8
  | 8 => .s16 | 9 => .s32 | 10 => .n8 | 11 => .n16 | 12 => .n32 | 13 => .s64 | 14 => .n64 | _ => .bnd

/-- Scope codes (R125, R187). -/
def Scope.code : Scope → BitVec 3
  | .wp => 0 | .core => 1 | .grp => 2 | .dev => 3 | .pool => 4 | .sys => 5

/-- The scope of a code; 6 and 7 name none. -/
def Scope.ofCode (c : BitVec 3) : Option Scope :=
  match c.toNat with
  | 0 => some .wp | 1 => some .core | 2 => some .grp | 3 => some .dev | 4 => some .pool | 5 => some .sys
  | _ => none

/-- Order codes (R128). -/
def Order.code : Order → BitVec 2
  | .plain => 0 | .acq => 1 | .rel => 2 | .ar => 3

/-- The order of a code (R128). -/
def Order.ofCode (c : BitVec 2) : Order :=
  match c.toNat with
  | 0 => .plain | 1 => .acq | 2 => .rel | _ => .ar

/-- Width codes (R174). -/
def Width.code : Width → BitVec 4
  | .b8 => 0 | .b16 => 1 | .b32 => 2 | .b64 => 3 | .b128 => 4 | .s8 => 5 | .s16 => 6

/-- The width of a code; 7 to 15 name none (R174). -/
def Width.ofCode (c : BitVec 4) : Option Width :=
  match c.toNat with
  | 0 => some .b8 | 1 => some .b16 | 2 => some .b32 | 3 => some .b64 | 4 => some .b128 | 5 => some .s8 | 6 => some .s16
  | _ => none

/-- Atomic-operation codes (R174). -/
def Aop.code : Aop → BitVec 4
  | .iadd => 0 | .iminS => 1 | .iminN => 2 | .imaxS => 3 | .imaxN => 4 | .and => 5 | .or => 6 | .xor => 7
  | .xchg => 8 | .faddF32 => 9 | .fminF32 => 10 | .fmaxF32 => 11 | .faddBf16x2 => 12

/-- The atomic operation of a code; 13 to 15 name none (R174). -/
def Aop.ofCode (c : BitVec 4) : Option Aop :=
  match c.toNat with
  | 0 => some .iadd | 1 => some .iminS | 2 => some .iminN | 3 => some .imaxS | 4 => some .imaxN | 5 => some .and
  | 6 => some .or | 7 => some .xor | 8 => some .xchg | 9 => some .faddF32 | 10 => some .fminF32
  | 11 => some .fmaxF32 | 12 => some .faddBf16x2
  | _ => none

/-- Condition codes (R172). -/
def Cond.code : Cond → BitVec 4
  | .eq => 0 | .ne => 1 | .lt => 2 | .le => 3 | .gt => 4 | .ge => 5 | .ord => 6 | .uno => 7
  | .ceq => 8 | .cne => 9 | .clt => 10 | .cle => 11 | .cgt => 12 | .cge => 13

/-- The condition of a code; 14 and 15 name none (R172). -/
def Cond.ofCode (c : BitVec 4) : Option Cond :=
  match c.toNat with
  | 0 => some .eq | 1 => some .ne | 2 => some .lt | 3 => some .le | 4 => some .gt | 5 => some .ge | 6 => some .ord
  | 7 => some .uno | 8 => some .ceq | 9 => some .cne | 10 => some .clt | 11 => some .cle | 12 => some .cgt
  | 13 => some .cge
  | _ => none

/-- Operation codes of `redux` and `scan` (R218). -/
def RedOp.code : RedOp → BitVec 4
  | .iadd => 0 | .iminS => 1 | .iminN => 2 | .imaxS => 3 | .imaxN => 4 | .and => 5 | .or => 6 | .xor => 7
  | .fadd => 8 | .fmin => 9 | .fmax => 10

/-- The operation of a code; 11 to 15 name none (R211, R218). -/
def RedOp.ofCode (c : BitVec 4) : Option RedOp :=
  match c.toNat with
  | 0 => some .iadd | 1 => some .iminS | 2 => some .iminN | 3 => some .imaxS | 4 => some .imaxN | 5 => some .and
  | 6 => some .or | 7 => some .xor | 8 => some .fadd | 9 => some .fmin | 10 => some .fmax
  | _ => none

/-- Segment codes (R217). -/
def Seg.code : Seg → BitVec 3
  | .w32 => 0 | .w2 => 1 | .w4 => 2 | .w8 => 3 | .w16 => 4

/-- The segment of a code; 5 to 7 name none (R217). -/
def Seg.ofCode (c : BitVec 3) : Option Seg :=
  match c.toNat with
  | 0 => some .w32 | 1 => some .w2 | 2 => some .w4 | 3 => some .w8 | 4 => some .w16
  | _ => none

/-- Reduction-operation codes (R181). -/
def Rop.code : Rop → BitVec 3
  | .add => 0 | .min => 1 | .max => 2

/-- The reduction of a code; 3 to 7 name none (R181). -/
def Rop.ofCode (c : BitVec 3) : Option Rop :=
  match c.toNat with
  | 0 => some .add | 1 => some .min | 2 => some .max
  | _ => none

/-- B-shape codes (R179). -/
def BShape.code : BShape → BitVec 2
  | .k64 => 0 | .k128 => 1 | .k256 => 2

/-- The shape of a code; 3 names none (R179). -/
def BShape.ofCode (c : BitVec 2) : Option BShape :=
  match c.toNat with
  | 0 => some .k64 | 1 => some .k128 | 2 => some .k256
  | _ => none

/-- The sp bit of a MAT instruction (R179). -/
def MatSpec.isReg : MatSpec → Bool
  | .inline _ => false
  | .reg _ => true

/-- Word 1 of a MAT instruction that takes a specifier (R179). -/
def MatSpec.word : MatSpec → Word
  | .inline w => w
  | .reg s => 0#26 ++ s

/-- The tx bit of a copy (R181). -/
def Done.hasTxb (c : Done) : Bool := c.txb.isSome

/-- The st field of a copy (R181). -/
def Done.st (c : Done) : SReg :=
  match c.txb with
  | some s => s
  | none => 0

/-- The value at hand, or the excluded-value cause (R397). -/
def orValue {α : Type} (o : Option α) (f : α → Except IllCause Instr) : Except IllCause Instr :=
  match o with
  | some a => f a
  | none => .error .value

/-- One source operand. -/
def src1 (ca : BitVec 8) (f : Src → Instr) : Except IllCause Instr :=
  orValue (Src.ofCode ca) fun a => .ok (f a)

/-- Two source operands. -/
def src2 (ca cb : BitVec 8) (f : Src → Src → Instr) : Except IllCause Instr :=
  orValue (Src.ofCode ca) fun a => orValue (Src.ofCode cb) fun b => .ok (f a b)

/-- Three source operands. -/
def src3 (ca cb cc : BitVec 8) (f : Src → Src → Src → Instr) : Except IllCause Instr :=
  orValue (Src.ofCode ca) fun a => orValue (Src.ofCode cb) fun b => orValue (Src.ofCode cc) fun c => .ok (f a b c)

/-- A condition field. -/
def condOf (cd : BitVec 4) (f : Cond → Except IllCause Instr) : Except IllCause Instr := orValue (Cond.ofCode cd) f

/-- A segment field. -/
def segOf (c : BitVec 3) (f : Seg → Except IllCause Instr) : Except IllCause Instr := orValue (Seg.ofCode c) f

/-- An operation field of `redux` or `scan`. -/
def redOf (c : BitVec 4) (f : RedOp → Except IllCause Instr) : Except IllCause Instr := orValue (RedOp.ofCode c) f

/-- A scope field. -/
def scopeOf (c : BitVec 3) (f : Scope → Except IllCause Instr) : Except IllCause Instr := orValue (Scope.ofCode c) f

/-- An instruction whose unused fields are zero, or the reserved-field cause. -/
def unlessReserved (clean : Bool) (r : Except IllCause Instr) : Except IllCause Instr :=
  if clean then r else .error .reserved

/-- The modifier fields and destination of a VWIDE instruction (R164). -/
def wideOf (w0 w1 : Word) : Wide where
  d := w0.extractLsb' 12 7
  nw := w0.getLsbD 11
  cap := w0.extractLsb' 9 2
  pred := ⟨w0.extractLsb' 5 4, w0.getLsbD 4⟩
  xl := w0.extractLsb' 0 4
  neg := w1.extractLsb' 5 3
  abs := w1.getLsbD 4
  rnd := Rnd.ofCode (w1.extractLsb' 2 2)
  prec := w1.extractLsb' 0 2

/-- A VWIDE operation with one source. -/
def wide1 (k : WideKind) (m : Wide) (ca : BitVec 8) (clean : Bool) (f : Src → Instr) : Except IllCause Instr :=
  unlessReserved (m.clean k 1 && clean) (src1 ca f)

/-- A VWIDE operation with two sources. -/
def wide2 (k : WideKind) (m : Wide) (ca cb : BitVec 8) (clean : Bool) (f : Src → Src → Instr) : Except IllCause Instr :=
  unlessReserved (m.clean k 2 && clean) (src2 ca cb f)

/-- A VWIDE operation with three sources. -/
def wide3 (k : WideKind) (m : Wide) (ca cb cc : BitVec 8) (f : Src → Src → Src → Instr) : Except IllCause Instr :=
  unlessReserved (m.clean k 3) (src3 ca cb cc f)

/-- The fields of a VX instruction (R164). -/
structure VxFields where
  p : Pred
  d : VReg
  ca : BitVec 8
  cb : BitVec 8
  cc : BitVec 8
  cdt : BitVec 4
  cst : BitVec 4
  ctl : BitVec 8

/-- The fields of a VX instruction, from its words (R164). -/
def vxOf (w0 w1 : Word) : VxFields where
  p := ⟨w0.extractLsb' 9 4, w0.getLsbD 8⟩
  d := w0.extractLsb' 13 7
  ca := w0.extractLsb' 0 8
  cb := w1.extractLsb' 24 8
  cc := w1.extractLsb' 16 8
  cdt := w1.extractLsb' 12 4
  cst := w1.extractLsb' 8 4
  ctl := w1.extractLsb' 0 8

/-- The destination format. -/
def VxFields.dt (x : VxFields) : Fmt := Fmt.ofCode x.cdt

/-- The source format. -/
def VxFields.st (x : VxFields) : Fmt := Fmt.ofCode x.cst

/-- The rounding field of ctl (R211). -/
def VxFields.rnd (x : VxFields) : Rnd := Rnd.ofCode (x.ctl.extractLsb' 0 2)

/-- The saturation bit of ctl (R211). -/
def VxFields.sat (x : VxFields) : Bool := x.ctl.getLsbD 2

/-- No reserved field holds a value. -/
def VxFields.go (x : VxFields) (clean : Bool) (r : Except IllCause Instr) : Except IllCause Instr :=
  unlessReserved (x.p.clean && clean) r

/-- Both type fields reserved. -/
def VxFields.noTypes (x : VxFields) : Bool := x.cdt == 0 && x.cst == 0

/-- `cvtpk` reads src2 unless its format is f16 or bf16 (R213). -/
def VxFields.merges (x : VxFields) : Bool := !x.dt.packWhole

/-- The type pair that an operation accepts (R211); any other is an excluded value. -/
def VxFields.types (x : VxFields) (dt st : Fmt) (r : Except IllCause Instr) : Except IllCause Instr :=
  if x.cdt = dt.code ∧ x.cst = st.code then r else .error .value

/-- The source type that an operation accepts. -/
def VxFields.stIs (x : VxFields) (st : Fmt) (r : Except IllCause Instr) : Except IllCause Instr :=
  if x.cst = st.code then r else .error .value

/-- Both types f32. -/
def VxFields.f32f32 (x : VxFields) (r : Except IllCause Instr) : Except IllCause Instr := x.types .f32 .f32 r

/-- A GMEM instruction (R164, R174): reserved fields before excluded codes (R397). -/
def gmemOf (op : GmemOp) (w0 w1 : Word) (f : Gmem → Instr) : Except IllCause Instr :=
  let novoff := w1.getLsbD 4
  let hint := w1.extractLsb' 0 4
  unlessReserved ((op != .pf || w0.extractLsb' 15 7 == 0) && (!op.group || w0.extractLsb' 10 5 == 0) && (!novoff || w0.extractLsb' 3 7 == 0) &&
      (hint.getLsbD 3 || hint == 0)) <|
    orValue (Width.ofCode (w1.extractLsb' 16 4)) fun width =>
    orValue (Scope.ofCode (w1.extractLsb' 13 3)) fun scope =>
    orValue (Aop.ofCode (w1.extractLsb' 7 4)) fun aop =>
      .ok (f ⟨w0.extractLsb' 15 7, w0.extractLsb' 10 5, w0.extractLsb' 3 7, w0.extractLsb' 0 3, w1.extractLsb' 20 12,
        width, scope, Order.ofCode (w1.extractLsb' 11 2), aop, w1.getLsbD 6, w1.getLsbD 5, novoff, hint⟩)

/-- The fields of a MAT instruction (R179). -/
structure MatFields where
  v : VReg
  sa : SReg
  roff : BitVec 2
  sh : BitVec 2
  bk : Bool
  sp : Bool
  dc : BitVec 3
  w1 : Word

/-- The fields of a MAT instruction, from its words (R179). -/
def matOf (w0 w1 : Word) : MatFields where
  v := w0.extractLsb' 15 7
  sa := w0.extractLsb' 9 6
  roff := w0.extractLsb' 7 2
  sh := w0.extractLsb' 5 2
  bk := w0.getLsbD 4
  sp := w0.getLsbD 3
  dc := w0.extractLsb' 0 3
  w1 := w1

/-- The operand specifier (R179). -/
def MatFields.spec (m : MatFields) : MatSpec := if m.sp then .reg (m.w1.extractLsb' 0 6) else .inline m.w1

/-- With sp set, word 1 above the register number is reserved (R179). -/
def MatFields.specClean (m : MatFields) : Bool := !m.sp || m.w1.extractLsb' 6 26 == 0

/-- No reserved field holds a value, and dc is 7 where the row of R179 calls for it (R274). -/
def MatFields.go (m : MatFields) (clean needs7 : Bool) (r : Except IllCause Instr) : Except IllCause Instr :=
  unlessReserved clean (if needs7 && m.dc != 7 then .error .value else r)

/-- The B shape (R179). -/
def MatFields.shape (m : MatFields) (f : BShape → Except IllCause Instr) : Except IllCause Instr :=
  orValue (BShape.ofCode m.sh) f

/-- The fields of a CPY instruction (R181). -/
structure CpyFields where
  dc : BitVec 3
  tx : Bool
  sa : SReg
  sb : SReg
  z : BitVec 4
  sc : SReg
  sd : SReg
  st : SReg
  vi : VReg
  ty : BitVec 4
  rop : BitVec 3

/-- The fields of a CPY instruction, from its words (R181). -/
def cpyOf (w0 w1 : Word) : CpyFields where
  dc := w0.extractLsb' 17 3
  tx := w0.getLsbD 16
  sa := w0.extractLsb' 10 6
  sb := w0.extractLsb' 4 6
  z := w0.extractLsb' 0 4
  sc := w1.extractLsb' 26 6
  sd := w1.extractLsb' 20 6
  st := w1.extractLsb' 14 6
  vi := w1.extractLsb' 7 7
  ty := w1.extractLsb' 3 4
  rop := w1.extractLsb' 0 3

/-- Counter and transaction barrier (R181). -/
def CpyFields.done (c : CpyFields) : Done := ⟨c.dc, if c.tx then some c.st else none⟩

/-- st is unread without tx (R181). -/
def CpyFields.stFree (c : CpyFields) : Bool := c.tx || c.st == 0

/-- No reserved field holds a value. -/
def CpyFields.go (c : CpyFields) (clean : Bool) (r : Except IllCause Instr) : Except IllCause Instr :=
  unlessReserved (c.z == 0 && clean) r

/-- A collective: tx and vi are zero (R299); tx set is cause 0x06, a vi cause 0x05 (log 14, DEDUCED). -/
def CpyFields.col (c : CpyFields) (clean : Bool) (r : Except IllCause Instr) : Except IllCause Instr :=
  unlessReserved (c.z == 0 && c.vi == 0 && clean) (if c.tx then .error .value else r)

/-- The reduction field (R181). -/
def CpyFields.ropOf (c : CpyFields) (f : Rop → Except IllCause Instr) : Except IllCause Instr :=
  orValue (Rop.ofCode c.rop) f

/-- A SYN or SYS instruction with a predicate field (R177, R178). -/
def pneg (p : Pred) (clean : Bool) (r : Except IllCause Instr) : Except IllCause Instr := unlessReserved (p.clean && clean) r

/-- SBIN word (R164). -/
def sbinWord (op d : BitVec 6) (a b : BitVec 8) : Word := 0x0#4 ++ op ++ d ++ a ++ b

/-- SIMM word (R164). -/
def simmWord (op d : BitVec 6) (imm : BitVec 16) : Word := 0x1#4 ++ op ++ d ++ imm

/-- VBIN word (R164). -/
def vbinWord (op : BitVec 5) (d : BitVec 7) (a b : BitVec 8) : Word := 0x2#4 ++ op ++ d ++ a ++ b

/-- VWIDE words (R164). -/
def vwideWords (op : BitVec 9) (m : Wide) (a b c : BitVec 8) : List Word :=
  [0x3#4 ++ op ++ m.d ++ BitVec.ofBool m.nw ++ m.cap ++ m.pred.k ++ BitVec.ofBool m.pred.neg ++ m.xl,
   a ++ b ++ c ++ m.neg ++ BitVec.ofBool m.abs ++ m.rnd.code ++ m.prec]

/-- VCMP word (R164). -/
def vcmpWord (op d c : BitVec 4) (a b : BitVec 8) : Word := 0x4#4 ++ op ++ d ++ c ++ a ++ b

/-- VX words (R164). -/
def vxWords (op : BitVec 8) (p : Pred) (d : BitVec 7) (a b c : BitVec 8) (dt st : BitVec 4) (ctl : BitVec 8) : List Word :=
  [0x5#4 ++ op ++ d ++ p.k ++ BitVec.ofBool p.neg ++ a, b ++ c ++ dt ++ st ++ ctl]

/-- GMEM words (R164). -/
def gmemWords (op : BitVec 6) (g : Gmem) : List Word :=
  [0x6#4 ++ op ++ g.vdata ++ g.pair ++ g.voff ++ g.dc,
   g.imm ++ g.width.code ++ g.scope.code ++ g.order.code ++ g.aop.code ++ BitVec.ofBool g.rp ++ BitVec.ofBool g.chk ++
     BitVec.ofBool g.novoff ++ g.hint]

/-- SPAD word (R164). -/
def spadWord (op : BitVec 5) (d a : BitVec 7) (imm : BitVec 9) : Word := 0x7#4 ++ op ++ d ++ a ++ imm

/-- MAT word 0 (R179). -/
def matWord (op : BitVec 6) (v : BitVec 7) (sa : BitVec 6) (roff sh : BitVec 2) (bk sp : Bool) (dc : BitVec 3) : Word :=
  0x8#4 ++ op ++ v ++ sa ++ roff ++ sh ++ BitVec.ofBool bk ++ BitVec.ofBool sp ++ dc

/-- CPY word 0 (R181). -/
def cpyWord0 (op sub : BitVec 4) (dc : BitVec 3) (tx : Bool) (sa sb : BitVec 6) : Word :=
  0x9#4 ++ op ++ sub ++ dc ++ BitVec.ofBool tx ++ sa ++ sb ++ 0#4

/-- CPY word 1 (R181). -/
def cpyWord1 (sc sd st : BitVec 6) (vi : BitVec 7) (ty : BitVec 4) (rop : BitVec 3) : Word :=
  sc ++ sd ++ st ++ vi ++ ty ++ rop

/-- CTL word (R164). -/
def ctlWord (op k : BitVec 4) (neg : Bool) (off : BitVec 19) : Word := 0xA#4 ++ op ++ k ++ BitVec.ofBool neg ++ off

/-- SYN word (R164). -/
def synWord (op : BitVec 5) (p : Pred) (x : BitVec 18) : Word := 0xB#4 ++ op ++ p.k ++ BitVec.ofBool p.neg ++ x

/-- SYS word (R164). -/
def sysWord (op : BitVec 6) (x : BitVec 22) : Word := 0xC#4 ++ op ++ x

/-- SBIN (R164, R169). -/
def decodeSbin (w : Word) : Except IllCause Instr :=
  let d := w.extractLsb' 16 6
  let ca := w.extractLsb' 8 8
  let cb := w.extractLsb' 0 8
  match (w.extractLsb' 22 6).toNat with
  | 0x00 => src2 ca cb fun a b => .sIaddB32 d a b
  | 0x01 => src2 ca cb fun a b => .sIsubB32 d a b
  | 0x02 => src2 ca cb fun a b => .sImulB32 d a b
  | 0x03 => src2 ca cb fun a b => .imulhiS32 d a b
  | 0x04 => src2 ca cb fun a b => .imulhiN32 d a b
  | 0x05 => src2 ca cb fun a b => .sAnd d a b
  | 0x06 => src2 ca cb fun a b => .sOr d a b
  | 0x07 => src2 ca cb fun a b => .sXor d a b
  | 0x08 => src2 ca cb fun a b => .andn d a b
  | 0x09 => src2 ca cb fun a b => .sShl d a b
  | 0x0A => src2 ca cb fun a b => .sShrN32 d a b
  | 0x0B => src2 ca cb fun a b => .sShrS32 d a b
  | 0x0C => src2 ca cb fun a b => .sIminS32 d a b
  | 0x0D => src2 ca cb fun a b => .sIminN32 d a b
  | 0x0E => src2 ca cb fun a b => .sImaxS32 d a b
  | 0x0F => src2 ca cb fun a b => .sImaxN32 d a b
  | 0x10 => src2 ca cb fun a b => .sIaddB64 d a b
  | 0x11 => src2 ca cb fun a b => .isubB64 d a b
  | 0x12 => src2 ca cb fun a b => .shlB64 d a b
  | 0x13 => src2 ca cb fun a b => .shrN64 d a b
  | 0x14 => src2 ca cb fun a b => .shrS64 d a b
  | 0x15 => src2 ca cb fun a b => .sBfeN32 d a b
  | 0x16 => src2 ca cb fun a b => .sBfeS32 d a b
  | 0x17 => src2 ca cb fun a b => .sBfiB32 d a b
  | 0x18 => src2 ca cb fun a b => .selB32 d a b
  | 0x1A => if d ≠ 0 then .error .reserved else src2 ca cb fun a b => .cmpEqB32 a b
  | 0x1B => if d ≠ 0 then .error .reserved else src2 ca cb fun a b => .cmpNeB32 a b
  | 0x1C => if d ≠ 0 then .error .reserved else src2 ca cb fun a b => .cmpLtS32 a b
  | 0x1D => if d ≠ 0 then .error .reserved else src2 ca cb fun a b => .cmpLeS32 a b
  | 0x1E => if d ≠ 0 then .error .reserved else src2 ca cb fun a b => .cmpLtN32 a b
  | 0x1F => if d ≠ 0 then .error .reserved else src2 ca cb fun a b => .cmpLeN32 a b
  | 0x20 => if d ≠ 0 then .error .reserved else src2 ca cb fun a b => .cmpEqB64 a b
  | 0x21 => if d ≠ 0 then .error .reserved else src2 ca cb fun a b => .cmpNeB64 a b
  | 0x22 => if cb ≠ 0 then .error .reserved else src1 ca fun a => .sPopc d a
  | 0x23 => if cb ≠ 0 then .error .reserved else src1 ca fun a => .sClz d a
  | 0x24 => if cb ≠ 0 then .error .reserved else src1 ca fun a => .ctz d a
  | _ => .error .opcode

/-- SIMM (R164, R170). -/
def decodeSimm (w : Word) : Except IllCause Instr :=
  let d := w.extractLsb' 16 6
  let imm := w.extractLsb' 0 16
  match (w.extractLsb' 22 6).toNat with
  | 0 => .ok (.movk d imm)
  | 1 => .ok (.movhi d imm)
  | 2 => .ok (.iaddk d imm)
  | 3 => .ok (.cmpkEq d imm)
  | 4 => .ok (.cmpkLtS32 d imm)
  | 5 => .ok (.cmpkLtN32 d imm)
  | 6 => .ok (.mulk d imm)
  | _ => .error .opcode

/-- VBIN (R164, R171). The unread src1 of `mov.b32` must hold 0xC0 (R194). -/
def decodeVbin (w : Word) : Except IllCause Instr :=
  let d := w.extractLsb' 16 7
  let ca := w.extractLsb' 8 8
  let cb := w.extractLsb' 0 8
  match (w.extractLsb' 23 5).toNat with
  | 0 => src2 ca cb fun a b => .vIaddB32 d a b
  | 1 => src2 ca cb fun a b => .vIsubB32 d a b
  | 2 => src2 ca cb fun a b => .vImulB32 d a b
  | 3 => src2 ca cb fun a b => .vAnd d a b
  | 4 => src2 ca cb fun a b => .vOr d a b
  | 5 => src2 ca cb fun a b => .vXor d a b
  | 6 => src2 ca cb fun a b => .vShl d a b
  | 7 => src2 ca cb fun a b => .vShrN32 d a b
  | 8 => src2 ca cb fun a b => .vShrS32 d a b
  | 9 => src2 ca cb fun a b => .vIminS32 d a b
  | 10 => src2 ca cb fun a b => .vIminN32 d a b
  | 11 => src2 ca cb fun a b => .vImaxS32 d a b
  | 12 => src2 ca cb fun a b => .vImaxN32 d a b
  | 13 => src2 ca cb fun a b => .vFaddF32 d a b
  | 14 => src2 ca cb fun a b => .vFsubF32 d a b
  | 15 => src2 ca cb fun a b => .vFmulF32 d a b
  | 16 => src2 ca cb fun a b => .vFminF32 d a b
  | 17 => src2 ca cb fun a b => .vFmaxF32 d a b
  | 18 => if cb ≠ 0xC0 then .error .reserved else src1 ca fun a => .vMovB32 d a
  | 19 => src2 ca cb fun a b => .vFaddF16x2 d a b
  | 20 => src2 ca cb fun a b => .vFmulF16x2 d a b
  | 21 => src2 ca cb fun a b => .vFaddBf16x2 d a b
  | 22 => src2 ca cb fun a b => .vFmulBf16x2 d a b
  | _ => .error .opcode

/-- VWIDE (R164, R171, R195). Each operation states which modifier fields it reads; the others are reserved. -/
def decodeVwide (w0 w1 : Word) : Except IllCause Instr :=
  let m := wideOf w0 w1
  let ca := w1.extractLsb' 24 8
  let cb := w1.extractLsb' 16 8
  let cc := w1.extractLsb' 8 8
  match (w0.extractLsb' 19 9).toNat with
  | 0 => wide2 .int32 m ca cb (cc == 0) fun a b => .wIaddB32 m a b
  | 1 => wide2 .int32 m ca cb (cc == 0) fun a b => .wIsubB32 m a b
  | 2 => wide2 .int32 m ca cb (cc == 0) fun a b => .wImulB32 m a b
  | 3 => wide2 .int32 m ca cb (cc == 0) fun a b => .wAnd m a b
  | 4 => wide2 .int32 m ca cb (cc == 0) fun a b => .wOr m a b
  | 5 => wide2 .int32 m ca cb (cc == 0) fun a b => .wXor m a b
  | 6 => wide2 .int32 m ca cb (cc == 0) fun a b => .wShl m a b
  | 7 => wide2 .int32 m ca cb (cc == 0) fun a b => .wShrN32 m a b
  | 8 => wide2 .int32 m ca cb (cc == 0) fun a b => .wShrS32 m a b
  | 9 => wide2 .int32 m ca cb (cc == 0) fun a b => .wIminS32 m a b
  | 10 => wide2 .int32 m ca cb (cc == 0) fun a b => .wIminN32 m a b
  | 11 => wide2 .int32 m ca cb (cc == 0) fun a b => .wImaxS32 m a b
  | 12 => wide2 .int32 m ca cb (cc == 0) fun a b => .wImaxN32 m a b
  | 13 => wide2 .governed m ca cb (cc == 0) fun a b => .wFaddF32 m a b
  | 14 => wide2 .governed m ca cb (cc == 0) fun a b => .wFsubF32 m a b
  | 15 => wide2 .governed m ca cb (cc == 0) fun a b => .wFmulF32 m a b
  | 16 => wide2 .plainFp m ca cb (cc == 0) fun a b => .wFminF32 m a b
  | 17 => wide2 .plainFp m ca cb (cc == 0) fun a b => .wFmaxF32 m a b
  | 18 => wide1 .int32 m ca (cb == 0xC0 && cc == 0) fun a => .wMovB32 m a
  | 19 => wide2 .packed m ca cb (cc == 0) fun a b => .wFaddF16x2 m a b
  | 20 => wide2 .packed m ca cb (cc == 0) fun a b => .wFmulF16x2 m a b
  | 21 => wide2 .packed m ca cb (cc == 0) fun a b => .wFaddBf16x2 m a b
  | 22 => wide2 .packed m ca cb (cc == 0) fun a b => .wFmulBf16x2 m a b
  | 32 => wide3 .governed m ca cb cc fun a b c => .ffmaF32 m a b c
  | 33 => wide3 .packed m ca cb cc fun a b c => .ffmaF16x2 m a b c
  | 34 => wide3 .packed m ca cb cc fun a b c => .ffmaBf16x2 m a b c
  | 35 => wide3 .int32 m ca cb cc fun a b c => .imad m a b c
  | 36 => wide3 .int32 m ca cb cc fun a b c => .imadhiS32 m a b c
  | 37 => wide3 .int32 m ca cb cc fun a b c => .imadhiN32 m a b c
  | 38 => wide3 .res64 m ca cb cc fun a b c => .imadwN32 m a b c
  | 39 => wide3 .res64 m ca cb cc fun a b c => .imadwS32 m a b c
  | 40 => wide2 .int32 m ca cb (cc == 0) fun a b => .wBfeN32 m a b
  | 41 => wide2 .int32 m ca cb (cc == 0) fun a b => .wBfeS32 m a b
  | 42 => wide3 .int32 m ca cb cc fun a b c => .wBfiB32 m a b c
  | 43 => wide3 .res64 m ca cb cc fun a b c => .leaB64 m a b c
  | 44 => wide2 .res64 m ca cb (cc == 0) fun a b => .wIaddB64 m a b
  | 47 => wide3 .int32 m ca cb cc fun a b c => .dot4S8 m a b c
  | 48 => wide3 .dot m ca cb cc fun a b c => .dot2F16 m a b c
  | 49 => wide3 .dot m ca cb cc fun a b c => .dot2Bf16 m a b c
  | 50 => wide3 .plainFp m ca cb cc fun a b c => .fclampF32 m a b c
  | 51 => wide1 .int32 m ca (cb == 0 && cc == 0) fun a => .wPopc m a
  | 52 => wide1 .int32 m ca (cb == 0 && cc == 0) fun a => .wClz m a
  | 53 => wide1 .int32 m ca (cb == 0 && cc == 0) fun a => .brev m a
  | _ => .error .opcode

/-- VCMP (R164, R172, R207, R209, R210). -/
def decodeVcmp (w : Word) : Except IllCause Instr :=
  let d := w.extractLsb' 20 4
  let cd := w.extractLsb' 16 4
  let ca := w.extractLsb' 8 8
  let cb := w.extractLsb' 0 8
  let ka := w.extractLsb' 8 4
  let kb := w.extractLsb' 0 4
  match (w.extractLsb' 24 4).toNat, cd.toNat with
  | 0, _ => if cd.toNat < 14 then condOf cd fun c => src2 ca cb fun a b => .cmpF32 d c a b else .error .opcode
  | 1, _ => if cd.toNat < 14 then condOf cd fun c => src2 ca cb fun a b => .cmpF16 d c a b else .error .opcode
  | 2, _ => if cd.toNat < 14 then condOf cd fun c => src2 ca cb fun a b => .cmpBf16 d c a b else .error .opcode
  | 3, _ => if cd.toNat < 6 ∨ 8 ≤ cd.toNat ∧ cd.toNat < 14 then condOf cd fun c => src2 ca cb fun a b => .cmpS32 d c a b else .error .opcode
  | 4, _ => if cd.toNat < 6 ∨ 8 ≤ cd.toNat ∧ cd.toNat < 14 then condOf cd fun c => src2 ca cb fun a b => .cmpN32 d c a b else .error .opcode
  | 5, _ => if cd.toNat < 2 then condOf cd fun c => src2 ca cb fun a b => .cmpB64 d c a b else .error .opcode
  | 8, 0 => if ca.extractLsb' 4 4 ≠ 0 ∨ cb.extractLsb' 4 4 ≠ 0 then .error .reserved else .ok (.kand d ka kb)
  | 8, 1 => if ca.extractLsb' 4 4 ≠ 0 ∨ cb.extractLsb' 4 4 ≠ 0 then .error .reserved else .ok (.kor d ka kb)
  | 8, 2 => if ca.extractLsb' 4 4 ≠ 0 ∨ cb.extractLsb' 4 4 ≠ 0 then .error .reserved else .ok (.kxor d ka kb)
  | 8, 3 => if ca.extractLsb' 4 4 ≠ 0 ∨ cb.extractLsb' 4 4 ≠ 0 then .error .reserved else .ok (.kandn d ka kb)
  | 8, 4 => if ca.extractLsb' 4 4 ≠ 0 ∨ cb ≠ 0 then .error .reserved else .ok (.knot d ka)
  | 8, 5 => if ca.extractLsb' 4 4 ≠ 0 ∨ cb ≠ 0 then .error .reserved else .ok (.kmovK d ka)
  | 9, 0 => if cb ≠ 0 then .error .reserved else src1 ca fun a => .kmovFromS d a
  | 10, 0 => if d ≠ 0 ∨ ca.extractLsb' 4 4 ≠ 0 then .error .reserved else if cb.extractLsb' 6 2 ≠ 2 then .error .value else .ok (.kmovToS (cb.extractLsb' 0 6) ka)
  | 11, 0 => if cb ≠ 0 then .error .reserved else src1 ca fun a => .voteBallot d a
  | 11, 1 => if cb ≠ 0 then .error .reserved else src1 ca fun a => .voteAny d a
  | 11, 2 => if cb ≠ 0 then .error .reserved else src1 ca fun a => .voteAll d a
  | _, _ => .error .opcode

/-- VX (R164, R173, R211). `vx` holds the fields; each row states which of them it reads, and the rest is reserved. -/
def decodeVx (w0 w1 : Word) : Except IllCause Instr :=
  let x := vxOf w0 w1
  match (w0.extractLsb' 20 8).toNat with
  | 0x00 => x.go (x.cb == 0 && x.cc == 0 && x.ctl.extractLsb' 3 1 == 0 && x.ctl.extractLsb' 7 1 == 0) (src1 x.ca fun a => .cvt x.p x.d a x.dt x.st x.rnd x.sat (x.ctl.extractLsb' 4 3))
  | 0x01 => x.go (x.ctl.extractLsb' 3 1 == 0 && x.ctl.extractLsb' 6 2 == 0 && (x.merges || x.cc == 0)) (x.stIs .f32 (src3 x.ca x.cb x.cc fun a b c => .cvtpk x.p x.d a b c x.dt x.rnd x.sat (x.ctl.extractLsb' 4 2)))
  | 2 => x.go (x.cb == 0 && x.cc == 0 && x.ctl.extractLsb' 2 6 == 0) (x.f32f32 (src1 x.ca fun a => .frcp x.p x.d a x.rnd))
  | 4 => x.go (x.cb == 0 && x.cc == 0 && x.ctl.extractLsb' 2 6 == 0) (x.f32f32 (src1 x.ca fun a => .fsqrt x.p x.d a x.rnd))
  | 11 => x.go (x.cb == 0 && x.cc == 0 && x.ctl.extractLsb' 2 6 == 0) (x.f32f32 (src1 x.ca fun a => .frnd x.p x.d a x.rnd))
  | 3 => x.go (x.cb == 0 && x.cc == 0 && x.ctl == 0) (x.f32f32 (src1 x.ca fun a => .frsq x.p x.d a))
  | 6 => x.go (x.cb == 0 && x.cc == 0 && x.ctl == 0) (x.f32f32 (src1 x.ca fun a => .fexp2 x.p x.d a))
  | 7 => x.go (x.cb == 0 && x.cc == 0 && x.ctl == 0) (x.f32f32 (src1 x.ca fun a => .flog2 x.p x.d a))
  | 8 => x.go (x.cb == 0 && x.cc == 0 && x.ctl == 0) (x.f32f32 (src1 x.ca fun a => .fsin x.p x.d a))
  | 9 => x.go (x.cb == 0 && x.cc == 0 && x.ctl == 0) (x.f32f32 (src1 x.ca fun a => .fcos x.p x.d a))
  | 10 => x.go (x.cb == 0 && x.cc == 0 && x.ctl == 0) (x.f32f32 (src1 x.ca fun a => .ftanh x.p x.d a))
  | 5 => x.go (x.cc == 0 && x.ctl.extractLsb' 2 6 == 0) (x.f32f32 (src2 x.ca x.cb fun a b => .fdiv x.p x.d a b x.rnd))
  | 13 => x.go (x.cc == 0 && x.ctl.extractLsb' 2 6 == 0) (x.f32f32 (src2 x.ca x.cb fun a b => .fscale x.p x.d a b x.rnd))
  | 0x0C => x.go (x.cb == 0 && x.cc == 0 && x.ctl == 0) (x.types .n32 .f32 (src1 x.ca fun a => .fclass x.p x.d a))
  | 16 => x.go (x.cc == 0 && x.noTypes && x.ctl.extractLsb' 4 4 == 0) (segOf (x.ctl.extractLsb' 0 3) fun g => src2 x.ca x.cb fun a b => .shflIdx x.p x.d a b g (x.ctl.getLsbD 3))
  | 17 => x.go (x.cc == 0 && x.noTypes && x.ctl.extractLsb' 4 4 == 0) (segOf (x.ctl.extractLsb' 0 3) fun g => src2 x.ca x.cb fun a b => .shflUp x.p x.d a b g (x.ctl.getLsbD 3))
  | 18 => x.go (x.cc == 0 && x.noTypes && x.ctl.extractLsb' 4 4 == 0) (segOf (x.ctl.extractLsb' 0 3) fun g => src2 x.ca x.cb fun a b => .shflDown x.p x.d a b g (x.ctl.getLsbD 3))
  | 19 => x.go (x.cc == 0 && x.noTypes && x.ctl.extractLsb' 4 4 == 0) (segOf (x.ctl.extractLsb' 0 3) fun g => src2 x.ca x.cb fun a b => .shflXor x.p x.d a b g (x.ctl.getLsbD 3))
  | 0x14 => x.go (x.cc == 0 && x.noTypes && x.ctl == 0) (src2 x.ca x.cb fun a b => .bcast x.p x.d a b)
  | 0x15 => x.go (x.cb == 0 && x.cc == 0 && x.noTypes && x.ctl.extractLsb' 4 4 == 0) (redOf (x.ctl.extractLsb' 0 4) fun r => src1 x.ca fun a => .redux x.p x.d a r)
  | 0x16 => x.go (x.cb == 0 && x.cc == 0 && x.noTypes && x.ctl.extractLsb' 5 3 == 0) (redOf (x.ctl.extractLsb' 0 4) fun r => src1 x.ca fun a => .scan x.p x.d a r (x.ctl.getLsbD 4))
  | 0x18 => x.go (x.cc == 0 && x.noTypes && x.ctl.extractLsb' 4 4 == 0) (src2 x.ca x.cb fun a b => .msel x.p x.d a b (x.ctl.extractLsb' 0 4))
  | 0x20 => x.go (x.cb == 0 && x.cc == 0 && x.cst == 0 && x.ctl == 0) (if x.cdt = 0 ∨ x.cdt = 12 then src1 x.ca fun a => .brd x.p x.d a (x.cdt == 0) else .error .value)
  | 0x21 => x.go (x.cc == 0 && x.cdt == 0 && x.ctl.extractLsb' 1 7 == 0) (if x.cst = 0 ∨ x.cst = 15 then src2 x.ca x.cb fun a b => .bwr x.p x.d a b (x.cst == 0) (x.ctl.getLsbD 0) else .error .value)
  | 0x22 => x.go (x.cb == 0 && x.cc == 0 && x.noTypes && x.ctl == 0) (src1 x.ca fun a => .bclr x.p x.d a)
  | 0x24 => x.go (x.d == 0 && x.cb == 0 && x.cc == 0 && x.cdt == 0 && x.ctl == 0) (src1 x.ca fun a => .bchk x.p a x.st)
  | _ => .error .opcode

/-- GMEM (R164, R174, R224). -/
def decodeGmem (w0 w1 : Word) : Except IllCause Instr :=
  match (w0.extractLsb' 22 6).toNat with
  | 0 => gmemOf .ld w0 w1 .ld
  | 1 => gmemOf .st w0 w1 .st
  | 2 => gmemOf .atom w0 w1 .atom
  | 3 => gmemOf .red w0 w1 .red
  | 4 => gmemOf .cas w0 w1 .cas
  | 5 => gmemOf .pf w0 w1 .pf
  | 6 => gmemOf .sld w0 w1 .sld
  | 8 => gmemOf .gld w0 w1 .gld
  | 9 => gmemOf .gst w0 w1 .gst
  | 10 => gmemOf .gatom w0 w1 .gatom
  | 11 => gmemOf .gcas w0 w1 .gcas
  | _ => .error .opcode

/-- SPAD (R164, R175). -/
def decodeSpad (w : Word) : Except IllCause Instr :=
  let d := w.extractLsb' 16 7
  let a := w.extractLsb' 9 7
  let imm := w.extractLsb' 0 9
  match (w.extractLsb' 23 5).toNat with
  | 0 => .ok (.ldsB32 d a imm)
  | 1 => .ok (.ldsB64 d a imm)
  | 2 => .ok (.ldsB128 d a imm)
  | 3 => .ok (.stsB32 d a imm)
  | 4 => .ok (.stsB64 d a imm)
  | 5 => .ok (.stsB128 d a imm)
  | 6 => .ok (.ldsN8 d a imm)
  | 7 => .ok (.ldsS8 d a imm)
  | 8 => .ok (.ldsN16 d a imm)
  | 9 => .ok (.ldsS16 d a imm)
  | 10 => .ok (.stsB8 d a imm)
  | 11 => .ok (.stsB16 d a imm)
  | 12 => .ok (.satomIadd d a imm)
  | 13 => .ok (.satomIminS d a imm)
  | 14 => .ok (.satomImaxS d a imm)
  | 15 => .ok (.satomCas d a imm)
  | 16 => .ok (.satomXchg d a imm)
  | 17 => .ok (.satomFaddF32 d a imm)
  | 18 => .ok (.satomIminN d a imm)
  | 19 => .ok (.satomImaxN d a imm)
  | 20 => .ok (.satomOr d a imm)
  | 21 => .ok (.satomAnd d a imm)
  | _ => .error .opcode

/-- CTL (R164, R176). -/
def decodeCtl (w : Word) : Except IllCause Instr :=
  let k := w.extractLsb' 20 4
  let neg := w.getLsbD 19
  let off := w.extractLsb' 0 19
  match (w.extractLsb' 24 4).toNat with
  | 0 => if k ≠ 0 ∨ neg then .error .reserved else .ok (.bra off)
  | 1 => if neg then .ok (.brcNot k off) else .ok (.brc k off)
  | 2 => if k ≠ 0 then .error .reserved else if neg then .ok (.brsNot off) else .ok (.brs off)
  | 3 => if k ≠ 0 ∨ neg then .error .reserved else .ok (.call off)
  | 4 => if k ≠ 0 ∨ neg ∨ w.extractLsb' 5 14 ≠ 0 then .error .reserved else .ok (.jmp (w.extractLsb' 0 5))
  | 5 => if k ≠ 0 ∨ neg ∨ w.extractLsb' 5 14 ≠ 0 then .error .reserved else .ok (.calli (w.extractLsb' 0 5))
  | 6 => if k ≠ 0 ∨ neg ∨ off ≠ 0 then .error .reserved else .ok .ret
  | 7 => if k ≠ 0 ∨ neg then .error .reserved else .ok (.meet off)
  | _ => .error .opcode

/-- SYN (R164, R177). -/
def decodeSyn (w : Word) : Except IllCause Instr :=
  let p : Pred := ⟨w.extractLsb' 19 4, w.getLsbD 18⟩
  let id := w.extractLsb' 14 4
  let sa := w.extractLsb' 12 6
  let sb := w.extractLsb' 6 6
  let noPred := w.extractLsb' 18 5 == 0
  match (w.extractLsb' 23 5).toNat with
  | 0 => pneg p (w.extractLsb' 0 14 == 0) (.ok (.barArv p id))
  | 1 => pneg p (w.extractLsb' 0 14 == 0) (.ok (.barWt p id))
  | 2 => pneg p (w.extractLsb' 0 14 == 0) (.ok (.barSync p id))
  | 3 => pneg p (w.extractLsb' 0 14 == 0) (.ok (.cbarArv p id))
  | 4 => pneg p (w.extractLsb' 0 14 == 0) (.ok (.cbarWt p id))
  | 5 => pneg p (w.extractLsb' 0 6 == 0) (.ok (.txbInit p sa sb))
  | 6 => pneg p (w.extractLsb' 0 6 == 0) (.ok (.txbExp p sa sb))
  | 8 => pneg p (w.extractLsb' 0 6 == 0) (.ok (.txbWt p sa sb))
  | 7 => pneg p (w.extractLsb' 0 12 == 0) (.ok (.txbArv p sa))
  | 9 => pneg p (w.extractLsb' 0 14 == 0) (.ok (.kjoin p id))
  | 10 => pneg p (w.extractLsb' 0 14 == 0) (.ok (.kleave p id))
  | 11 => pneg p (w.extractLsb' 0 14 == 0) (.ok (.kwait p id))
  | 12 => if !noPred || w.extractLsb' 0 13 ≠ 0 then .error .reserved else
      scopeOf (w.extractLsb' 15 3) fun sc => .ok (.fence (Order.ofCode (w.extractLsb' 13 2)) sc)
  | 13 => if !noPred || w.extractLsb' 0 12 ≠ 0 then .error .reserved else .ok (.waitd sa)
  | 14 => if !noPred || w.extractLsb' 0 4 ≠ 0 then .error .reserved else
      if w.extractLsb' 15 3 = 1 then .ok (.icinv false (w.extractLsb' 10 5) (w.extractLsb' 4 6))
      else if w.extractLsb' 15 3 = 3 then .ok (.icinv true (w.extractLsb' 10 5) (w.extractLsb' 4 6)) else .error .value
  | 15 => if w.extractLsb' 0 23 ≠ 0 then .error .reserved else .ok .isync
  | _ => .error .opcode

/-- SYS (R164, R178). -/
def decodeSys (w : Word) : Except IllCause Instr :=
  let z := w.extractLsb' 0 22
  let cs := w.extractLsb' 14 8
  match (w.extractLsb' 22 6).toNat with
  | 0 => if z ≠ 0 then .error .reserved else .ok .nop
  | 1 => pneg ⟨w.extractLsb' 18 4, w.getLsbD 17⟩ (w.extractLsb' 0 17 == 0) (.ok (.tail ⟨w.extractLsb' 18 4, w.getLsbD 17⟩))
  | 2 => if w.extractLsb' 16 6 ≠ 0 then .error .reserved else .ok (.trap (w.extractLsb' 0 16))
  | 3 => if z ≠ 0 then .error .reserved else .ok .rte
  | 4 => if w.extractLsb' 0 6 ≠ 0 then .error .reserved else src1 cs fun d => .sysr d (w.extractLsb' 6 8)
  | 5 => if w.extractLsb' 0 6 ≠ 0 then .error .reserved else src1 cs fun a => .sysw (w.extractLsb' 6 8) a
  | 6 => if w.extractLsb' 0 16 ≠ 0 then .error .reserved else .ok (.time (w.extractLsb' 16 6))
  | 7 => if w.extractLsb' 0 14 ≠ 0 then .error .reserved else src1 cs fun a => .sleep a
  | 8 => if z ≠ 0 then .error .reserved else .ok .yield
  | 9 => if w.extractLsb' 16 6 ≠ 0 then .error .reserved else .ok (.bkpt (w.extractLsb' 0 16))
  | 10 => if w.extractLsb' 0 14 ≠ 0 then .error .reserved else src1 cs fun a => .budget a
  | 11 => if w.extractLsb' 0 14 ≠ 0 then .error .reserved else .ok (.launch (w.extractLsb' 17 5) (w.extractLsb' 14 3))
  | 14 => if w.extractLsb' 0 20 ≠ 0 then .error .reserved else .ok (.xacq (w.extractLsb' 20 2))
  | 15 => if z ≠ 0 then .error .reserved else .ok .xrel
  | _ => .error .opcode

/-- MAT (R179, R180). -/
def decodeMat (w0 w1 : Word) : Except IllCause Instr :=
  let m := matOf w0 w1
  match (w0.extractLsb' 22 6).toNat with
  | 0x00 => m.go (m.v == 0 && m.sa == 0 && m.roff == 0 && m.sh == 0 && !m.bk && !m.sp && w1.extractLsb' 8 24 == 0) true (.ok (.matAlloc (w1.extractLsb' 0 8)))
  | 0x01 => m.go (m.v == 0 && m.sa == 0 && m.roff == 0 && m.sh == 0 && !m.bk && !m.sp && w1 == 0) true (.ok .matFree)
  | 0x02 => m.go (m.v == 0 && m.sa == 0 && m.roff == 0 && m.sh == 0 && !m.bk && !m.sp && w1.extractLsb' 9 7 == 0 && w1.extractLsb' 26 6 == 0) true (.ok (.matEdge (w1.extractLsb' 0 9) (w1.extractLsb' 16 10)))
  | 0x03 => m.go (m.v == 0 && m.roff == 0 && m.specClean) false (m.shape fun sh => .ok (.matLdb m.sa sh m.bk m.spec m.dc))
  | 0x04 => m.go (m.v == 0 && m.sh == 0 && !m.bk && m.specClean) false (.ok (.matMma m.sa m.roff m.spec m.dc))
  | 0x05 => m.go (m.sa == 0 && m.sh == 0 && !m.bk && m.specClean) false (.ok (.matMmar m.v m.roff m.spec m.dc))
  | 0x06 => m.go (m.v == 0 && m.sa == 0 && m.sh == 0 && !m.bk && !m.sp && w1 == 0) true (.ok (.matZero m.roff))
  | 0x07 => m.go (m.sa == 0 && m.sh == 0 && !m.bk && !m.sp && w1.extractLsb' 9 23 == 0) true (.ok (.matRd m.v m.roff (w1.extractLsb' 0 9)))
  | 0x08 => m.go (m.sa == 0 && m.sh == 0 && !m.bk && !m.sp && w1.extractLsb' 9 23 == 0) true (.ok (.matWr m.v m.roff (w1.extractLsb' 0 9)))
  | 0x09 => m.go (m.v == 0 && m.sh == 0 && !m.bk && m.specClean) false (.ok (.matSt m.sa m.roff m.spec m.dc))
  | 0x0A => m.go (m.sa == 0 && m.sh == 0 && !m.bk && !m.sp && w1 == 0) true (.ok (.matRbnd m.v m.roff))
  | 0x0B => m.go (m.v == 0 && m.sa == 0 && m.roff == 0 && m.sh == 0 && !m.sp && w1 == 0) true (.ok (.matBank m.bk))
  | _ => .error .opcode

/-- CPY and col (R181, R299). A rop other than 0 on a `col` without one is cause 0x06 (log 14, DEDUCED). -/
def decodeCpy (w0 w1 : Word) : Except IllCause Instr :=
  let c := cpyOf w0 w1
  match (w0.extractLsb' 24 4).toNat, (w0.extractLsb' 20 4).toNat with
  | 0, 0 => c.go (c.sd == 0 && c.stFree && c.vi == 0 && c.ty == 0 && c.rop == 0) (.ok (.cpyTIn c.done c.sa c.sb c.sc))
  | 0, 1 => c.go (c.sd == 0 && c.stFree && c.vi == 0 && c.ty == 0 && c.rop == 0) (.ok (.cpyTOut c.done c.sa c.sb c.sc))
  | 1, 0 => c.go (c.sd == 0 && c.stFree && c.vi == 0 && c.ty == 0 && c.rop == 0) (.ok (.cpyBIn c.done c.sa c.sb c.sc))
  | 1, 1 => c.go (c.sd == 0 && c.stFree && c.vi == 0 && c.ty == 0 && c.rop == 0) (.ok (.cpyBOut c.done c.sa c.sb c.sc))
  | 2, 0 => c.go (c.stFree && c.vi == 0 && c.ty == 0 && c.rop == 0) (.ok (.cpyP c.done c.sa c.sb c.sc c.sd))
  | 3, 0 => c.go (c.sd == 0 && c.stFree && c.vi == 0) (c.ropOf fun r => .ok (.cpyRed c.done c.sa c.sb c.sc (Fmt.ofCode c.ty) r))
  | 4, 0 => c.go (c.sb == 0 && c.sd == 0 && c.st == 0 && c.vi == 0 && c.ty == 0 && c.rop == 0) (if c.tx || c.dc ≠ 7 then .error .value else .ok (.cpyPf c.sa c.sc))
  | 5, 0 => c.go (c.sd == 0 && c.stFree && c.ty == 0 && c.rop == 0) (.ok (.cpyG c.done c.sa c.sb c.sc c.vi))
  | 8, 0 => c.col (c.st == 0) (c.ropOf fun r => .ok (.colAr c.dc c.sa c.sb c.sc c.sd (Fmt.ofCode c.ty) r))
  | 8, 1 => c.col (c.st == 0) (if c.rop ≠ 0 then .error .value else .ok (.colAg c.dc c.sa c.sb c.sc c.sd (Fmt.ofCode c.ty)))
  | 8, 2 => c.col (c.st == 0) (c.ropOf fun r => .ok (.colRs c.dc c.sa c.sb c.sc c.sd (Fmt.ofCode c.ty) r))
  | 8, 3 => c.col (c.st == 0) (if c.rop ≠ 0 then .error .value else .ok (.colA2a c.dc c.sa c.sb c.sc c.sd (Fmt.ofCode c.ty)))
  | 8, 4 => c.col true (if c.rop ≠ 0 then .error .value else .ok (.colBc c.dc c.sa c.sb c.sc c.sd c.st (Fmt.ofCode c.ty)))
  | _, _ => .error .opcode


/-- The words of an instruction (R157 to R181); a clause header is one word, and the other steps of the machine have none. -/
def encode (i : Instr) : List Word :=
  match i with
  | .clauseHeader n cls wait y => [0xF#4 ++ n ++ cls ++ wait ++ BitVec.ofBool y ++ 0#14]
  | .noInstructionWord => []
  | .groupTurnLimit => []
  | .warpSwapOut _ _ => []
  | .warpSwapIn _ _ => []
  | .sleepWake _ _ => []
  | .loadReturn _ => []
  | .storeAcknowledge _ => []
  | .releaseDrainComplete _ => []
  | .homeRequest _ _ => []
  | .pageTableWalk _ _ => []
  | .promoteRequest _ => []
  | .promoteDone _ => []
  | .prspSuccess _ _ _ => []
  | .prspFailure _ _ _ => []
  | .trapHandlerEntry _ => []
  | .engineStart _ => []
  | .tensorDescriptorRead _ => []
  | .engineOperationComplete _ => []
  | .matLdbBankWrite _ => []
  | .matMmaComplete _ _ => []
  | .matStComplete _ => []
  | .icinvComplete _ => []
  | .xacqServed _ => []
  | .launchEntryAppend _ => []
  | .collectivePartComplete _ => []
  | .qrsv _ _ _ => []
  | .qdb _ _ _ => []
  | .qctlWrite _ _ _ _ => []
  | .launchSlot _ _ => []
  | .rangeInvalidationEntry _ _ => []
  | .rangeInvalidationDone _ _ => []
  | .launchHeaderRead _ => []
  | .waitEventCheck _ => []
  | .gangStart _ => []
  | .preemptSave _ => []
  | .timeSliceExpiry _ => []
  | .launchAbort _ _ => []
  | .clockStepDown _ => []
  | .clockStepUp _ => []
  | .thermalLimit _ => []
  | .energySample _ => []
  | .energyRequest _ _ => []
  | .energyReadingWrite => []
  | .energyCheckpoint => []
  | .packageReset => []
  | .alwaysOnPowerLoss => []
  | .powerUpBoot _ => []
  | .attestationRequest _ _ => []
  | .timeExchange _ _ => []
  | .evstClear _ _ => []
  | .evmaskWrite _ _ => []
  | .flitReceive _ _ => []
  | .resendRequest _ _ => []
  | .linkRetrain _ _ => []
  | .linkDown _ => []
  | .peerRequestTimeout _ _ => []
  | .apertureAccess _ => []
  | .bisnpinv _ => []
  | .bisnpdata _ => []
  | .poolRangeLost _ _ => []
  | .poolLostClear _ _ => []
  | .request _ _ => []
  | .replicate _ _ => []
  | .replicateAck _ _ => []
  | .notice _ _ => []
  | .unknown _ _ => []
  | .report _ _ _ => []
  | .heartbeatSend => []
  | .heartbeat _ _ => []
  | .sequencerTakeover => []
  | .takeover _ _ _ => []
  | .cancel _ _ _ => []
  | .cancelled _ _ _ => []
  | .collectiveTimeout _ => []
  | .dieFatalError _ _ => []
  | .promoteAckTimeout _ => []
  | .stateDumpComplete _ _ => []
  | .uncorrectableError _ => []
  | .uncorrectableStateError _ _ _ => []
  | .partitionEntryWrite _ _ => []
  | .functionEntryWrite _ _ => []
  | .communicatorEntryWrite _ _ => []
  | .pctlWrite _ _ _ => []
  | .lctlWrite _ => []
  | .registerWrite _ _ _ _ => []
  | .sIaddB32 d a b => [sbinWord 0x00 d a.code b.code]
  | .sIsubB32 d a b => [sbinWord 0x01 d a.code b.code]
  | .sImulB32 d a b => [sbinWord 0x02 d a.code b.code]
  | .imulhiS32 d a b => [sbinWord 0x03 d a.code b.code]
  | .imulhiN32 d a b => [sbinWord 0x04 d a.code b.code]
  | .sAnd d a b => [sbinWord 0x05 d a.code b.code]
  | .sOr d a b => [sbinWord 0x06 d a.code b.code]
  | .sXor d a b => [sbinWord 0x07 d a.code b.code]
  | .andn d a b => [sbinWord 0x08 d a.code b.code]
  | .sShl d a b => [sbinWord 0x09 d a.code b.code]
  | .sShrN32 d a b => [sbinWord 0x0A d a.code b.code]
  | .sShrS32 d a b => [sbinWord 0x0B d a.code b.code]
  | .sIminS32 d a b => [sbinWord 0x0C d a.code b.code]
  | .sIminN32 d a b => [sbinWord 0x0D d a.code b.code]
  | .sImaxS32 d a b => [sbinWord 0x0E d a.code b.code]
  | .sImaxN32 d a b => [sbinWord 0x0F d a.code b.code]
  | .sIaddB64 d a b => [sbinWord 0x10 d a.code b.code]
  | .isubB64 d a b => [sbinWord 0x11 d a.code b.code]
  | .shlB64 d a b => [sbinWord 0x12 d a.code b.code]
  | .shrN64 d a b => [sbinWord 0x13 d a.code b.code]
  | .shrS64 d a b => [sbinWord 0x14 d a.code b.code]
  | .sBfeN32 d a b => [sbinWord 0x15 d a.code b.code]
  | .sBfeS32 d a b => [sbinWord 0x16 d a.code b.code]
  | .sBfiB32 d a b => [sbinWord 0x17 d a.code b.code]
  | .selB32 d a b => [sbinWord 0x18 d a.code b.code]
  | .cmpEqB32 a b => [sbinWord 0x1A 0 a.code b.code]
  | .cmpNeB32 a b => [sbinWord 0x1B 0 a.code b.code]
  | .cmpLtS32 a b => [sbinWord 0x1C 0 a.code b.code]
  | .cmpLeS32 a b => [sbinWord 0x1D 0 a.code b.code]
  | .cmpLtN32 a b => [sbinWord 0x1E 0 a.code b.code]
  | .cmpLeN32 a b => [sbinWord 0x1F 0 a.code b.code]
  | .cmpEqB64 a b => [sbinWord 0x20 0 a.code b.code]
  | .cmpNeB64 a b => [sbinWord 0x21 0 a.code b.code]
  | .sPopc d a => [sbinWord 0x22 d a.code 0]
  | .sClz d a => [sbinWord 0x23 d a.code 0]
  | .ctz d a => [sbinWord 0x24 d a.code 0]
  | .movk d imm => [simmWord 0 d imm]
  | .movhi d imm => [simmWord 1 d imm]
  | .iaddk d imm => [simmWord 2 d imm]
  | .cmpkEq d imm => [simmWord 3 d imm]
  | .cmpkLtS32 d imm => [simmWord 4 d imm]
  | .cmpkLtN32 d imm => [simmWord 5 d imm]
  | .mulk d imm => [simmWord 6 d imm]
  | .vIaddB32 d a b => [vbinWord 0 d a.code b.code]
  | .vIsubB32 d a b => [vbinWord 1 d a.code b.code]
  | .vImulB32 d a b => [vbinWord 2 d a.code b.code]
  | .vAnd d a b => [vbinWord 3 d a.code b.code]
  | .vOr d a b => [vbinWord 4 d a.code b.code]
  | .vXor d a b => [vbinWord 5 d a.code b.code]
  | .vShl d a b => [vbinWord 6 d a.code b.code]
  | .vShrN32 d a b => [vbinWord 7 d a.code b.code]
  | .vShrS32 d a b => [vbinWord 8 d a.code b.code]
  | .vIminS32 d a b => [vbinWord 9 d a.code b.code]
  | .vIminN32 d a b => [vbinWord 10 d a.code b.code]
  | .vImaxS32 d a b => [vbinWord 11 d a.code b.code]
  | .vImaxN32 d a b => [vbinWord 12 d a.code b.code]
  | .vFaddF32 d a b => [vbinWord 13 d a.code b.code]
  | .vFsubF32 d a b => [vbinWord 14 d a.code b.code]
  | .vFmulF32 d a b => [vbinWord 15 d a.code b.code]
  | .vFminF32 d a b => [vbinWord 16 d a.code b.code]
  | .vFmaxF32 d a b => [vbinWord 17 d a.code b.code]
  | .vMovB32 d a => [vbinWord 18 d a.code 0xC0]
  | .vFaddF16x2 d a b => [vbinWord 19 d a.code b.code]
  | .vFmulF16x2 d a b => [vbinWord 20 d a.code b.code]
  | .vFaddBf16x2 d a b => [vbinWord 21 d a.code b.code]
  | .vFmulBf16x2 d a b => [vbinWord 22 d a.code b.code]
  | .wIaddB32 m a b => vwideWords 0 m a.code b.code 0
  | .wIsubB32 m a b => vwideWords 1 m a.code b.code 0
  | .wImulB32 m a b => vwideWords 2 m a.code b.code 0
  | .wAnd m a b => vwideWords 3 m a.code b.code 0
  | .wOr m a b => vwideWords 4 m a.code b.code 0
  | .wXor m a b => vwideWords 5 m a.code b.code 0
  | .wShl m a b => vwideWords 6 m a.code b.code 0
  | .wShrN32 m a b => vwideWords 7 m a.code b.code 0
  | .wShrS32 m a b => vwideWords 8 m a.code b.code 0
  | .wIminS32 m a b => vwideWords 9 m a.code b.code 0
  | .wIminN32 m a b => vwideWords 10 m a.code b.code 0
  | .wImaxS32 m a b => vwideWords 11 m a.code b.code 0
  | .wImaxN32 m a b => vwideWords 12 m a.code b.code 0
  | .wFaddF32 m a b => vwideWords 13 m a.code b.code 0
  | .wFsubF32 m a b => vwideWords 14 m a.code b.code 0
  | .wFmulF32 m a b => vwideWords 15 m a.code b.code 0
  | .wFminF32 m a b => vwideWords 16 m a.code b.code 0
  | .wFmaxF32 m a b => vwideWords 17 m a.code b.code 0
  | .wMovB32 m a => vwideWords 18 m a.code 0xC0 0
  | .wFaddF16x2 m a b => vwideWords 19 m a.code b.code 0
  | .wFmulF16x2 m a b => vwideWords 20 m a.code b.code 0
  | .wFaddBf16x2 m a b => vwideWords 21 m a.code b.code 0
  | .wFmulBf16x2 m a b => vwideWords 22 m a.code b.code 0
  | .ffmaF32 m a b c => vwideWords 32 m a.code b.code c.code
  | .ffmaF16x2 m a b c => vwideWords 33 m a.code b.code c.code
  | .ffmaBf16x2 m a b c => vwideWords 34 m a.code b.code c.code
  | .imad m a b c => vwideWords 35 m a.code b.code c.code
  | .imadhiS32 m a b c => vwideWords 36 m a.code b.code c.code
  | .imadhiN32 m a b c => vwideWords 37 m a.code b.code c.code
  | .imadwN32 m a b c => vwideWords 38 m a.code b.code c.code
  | .imadwS32 m a b c => vwideWords 39 m a.code b.code c.code
  | .wBfeN32 m a b => vwideWords 40 m a.code b.code 0
  | .wBfeS32 m a b => vwideWords 41 m a.code b.code 0
  | .wBfiB32 m a b c => vwideWords 42 m a.code b.code c.code
  | .leaB64 m a b c => vwideWords 43 m a.code b.code c.code
  | .wIaddB64 m a b => vwideWords 44 m a.code b.code 0
  | .dot4S8 m a b c => vwideWords 47 m a.code b.code c.code
  | .dot2F16 m a b c => vwideWords 48 m a.code b.code c.code
  | .dot2Bf16 m a b c => vwideWords 49 m a.code b.code c.code
  | .fclampF32 m a b c => vwideWords 50 m a.code b.code c.code
  | .wPopc m a => vwideWords 51 m a.code 0 0
  | .wClz m a => vwideWords 52 m a.code 0 0
  | .brev m a => vwideWords 53 m a.code 0 0
  | .cmpF32 d c a b => [vcmpWord 0 d c.code a.code b.code]
  | .cmpF16 d c a b => [vcmpWord 1 d c.code a.code b.code]
  | .cmpBf16 d c a b => [vcmpWord 2 d c.code a.code b.code]
  | .cmpS32 d c a b => [vcmpWord 3 d c.code a.code b.code]
  | .cmpN32 d c a b => [vcmpWord 4 d c.code a.code b.code]
  | .cmpB64 d c a b => [vcmpWord 5 d c.code a.code b.code]
  | .kand d a b => [vcmpWord 8 d 0 (0#4 ++ a) (0#4 ++ b)]
  | .kor d a b => [vcmpWord 8 d 1 (0#4 ++ a) (0#4 ++ b)]
  | .kxor d a b => [vcmpWord 8 d 2 (0#4 ++ a) (0#4 ++ b)]
  | .kandn d a b => [vcmpWord 8 d 3 (0#4 ++ a) (0#4 ++ b)]
  | .knot d a => [vcmpWord 8 d 4 (0#4 ++ a) 0]
  | .kmovK d a => [vcmpWord 8 d 5 (0#4 ++ a) 0]
  | .kmovFromS d a => [vcmpWord 9 d 0 a.code 0]
  | .kmovToS d a => [vcmpWord 10 0 0 (0#4 ++ a) (2#2 ++ d)]
  | .voteBallot d a => [vcmpWord 11 d 0 a.code 0]
  | .voteAny d a => [vcmpWord 11 d 1 a.code 0]
  | .voteAll d a => [vcmpWord 11 d 2 a.code 0]
  | .cvt p d a dt st rnd sat el => vxWords 0x00 p d a.code 0 0 dt.code st.code (0#1 ++ el ++ 0#1 ++ BitVec.ofBool sat ++ rnd.code)
  | .cvtpk p d a b c dt rnd sat pos => vxWords 0x01 p d a.code b.code c.code dt.code 0 (0#2 ++ pos ++ 0#1 ++ BitVec.ofBool sat ++ rnd.code)
  | .frcp p d a rnd => vxWords 2 p d a.code 0 0 0 0 (0#6 ++ rnd.code)
  | .frsq p d a => vxWords 3 p d a.code 0 0 0 0 0
  | .fsqrt p d a rnd => vxWords 4 p d a.code 0 0 0 0 (0#6 ++ rnd.code)
  | .fdiv p d a b rnd => vxWords 5 p d a.code b.code 0 0 0 (0#6 ++ rnd.code)
  | .fexp2 p d a => vxWords 6 p d a.code 0 0 0 0 0
  | .flog2 p d a => vxWords 7 p d a.code 0 0 0 0 0
  | .fsin p d a => vxWords 8 p d a.code 0 0 0 0 0
  | .fcos p d a => vxWords 9 p d a.code 0 0 0 0 0
  | .ftanh p d a => vxWords 10 p d a.code 0 0 0 0 0
  | .frnd p d a rnd => vxWords 11 p d a.code 0 0 0 0 (0#6 ++ rnd.code)
  | .fclass p d a => vxWords 0x0C p d a.code 0 0 12 0 0
  | .fscale p d a b rnd => vxWords 13 p d a.code b.code 0 0 0 (0#6 ++ rnd.code)
  | .shflIdx p d a b seg own => vxWords 16 p d a.code b.code 0 0 0 (0#4 ++ BitVec.ofBool own ++ seg.code)
  | .shflUp p d a b seg own => vxWords 17 p d a.code b.code 0 0 0 (0#4 ++ BitVec.ofBool own ++ seg.code)
  | .shflDown p d a b seg own => vxWords 18 p d a.code b.code 0 0 0 (0#4 ++ BitVec.ofBool own ++ seg.code)
  | .shflXor p d a b seg own => vxWords 19 p d a.code b.code 0 0 0 (0#4 ++ BitVec.ofBool own ++ seg.code)
  | .bcast p d a b => vxWords 0x14 p d a.code b.code 0 0 0 0
  | .redux p d a op => vxWords 0x15 p d a.code 0 0 0 0 (0#4 ++ op.code)
  | .scan p d a op excl => vxWords 0x16 p d a.code 0 0 0 0 (0#3 ++ BitVec.ofBool excl ++ op.code)
  | .msel p d a b k => vxWords 0x18 p d a.code b.code 0 0 0 (0#4 ++ k)
  | .brd p d a asF32 => vxWords 0x20 p d a.code 0 0 (if asF32 then 0 else 12) 0 0
  | .bwr p d a b fromF32 raise => vxWords 0x21 p d a.code b.code 0 0 (if fromF32 then 0 else 15) (0#7 ++ BitVec.ofBool raise)
  | .bclr p d a => vxWords 0x22 p d a.code 0 0 0 0 0
  | .bchk p a st => vxWords 0x24 p 0 a.code 0 0 0 st.code 0
  | .ld g => gmemWords 0 g
  | .st g => gmemWords 1 g
  | .atom g => gmemWords 2 g
  | .red g => gmemWords 3 g
  | .cas g => gmemWords 4 g
  | .pf g => gmemWords 5 g
  | .sld g => gmemWords 6 g
  | .gld g => gmemWords 8 g
  | .gst g => gmemWords 9 g
  | .gatom g => gmemWords 10 g
  | .gcas g => gmemWords 11 g
  | .ldsB32 d a imm => [spadWord 0 d a imm]
  | .ldsB64 d a imm => [spadWord 1 d a imm]
  | .ldsB128 d a imm => [spadWord 2 d a imm]
  | .stsB32 d a imm => [spadWord 3 d a imm]
  | .stsB64 d a imm => [spadWord 4 d a imm]
  | .stsB128 d a imm => [spadWord 5 d a imm]
  | .ldsN8 d a imm => [spadWord 6 d a imm]
  | .ldsS8 d a imm => [spadWord 7 d a imm]
  | .ldsN16 d a imm => [spadWord 8 d a imm]
  | .ldsS16 d a imm => [spadWord 9 d a imm]
  | .stsB8 d a imm => [spadWord 10 d a imm]
  | .stsB16 d a imm => [spadWord 11 d a imm]
  | .satomIadd d a imm => [spadWord 12 d a imm]
  | .satomIminS d a imm => [spadWord 13 d a imm]
  | .satomImaxS d a imm => [spadWord 14 d a imm]
  | .satomCas d a imm => [spadWord 15 d a imm]
  | .satomXchg d a imm => [spadWord 16 d a imm]
  | .satomFaddF32 d a imm => [spadWord 17 d a imm]
  | .satomIminN d a imm => [spadWord 18 d a imm]
  | .satomImaxN d a imm => [spadWord 19 d a imm]
  | .satomOr d a imm => [spadWord 20 d a imm]
  | .satomAnd d a imm => [spadWord 21 d a imm]
  | .bra off => [ctlWord 0 0 false off]
  | .brc k off => [ctlWord 1 k false off]
  | .brcNot k off => [ctlWord 1 k true off]
  | .brs off => [ctlWord 2 0 false off]
  | .brsNot off => [ctlWord 2 0 true off]
  | .call off => [ctlWord 3 0 false off]
  | .jmp p => [ctlWord 4 0 false (0#14 ++ p)]
  | .calli p => [ctlWord 5 0 false (0#14 ++ p)]
  | .ret => [ctlWord 6 0 false 0]
  | .meet off => [ctlWord 7 0 false off]
  | .barArv p id => [synWord 0 p (id ++ 0#14)]
  | .barWt p id => [synWord 1 p (id ++ 0#14)]
  | .barSync p id => [synWord 2 p (id ++ 0#14)]
  | .cbarArv p id => [synWord 3 p (id ++ 0#14)]
  | .cbarWt p id => [synWord 4 p (id ++ 0#14)]
  | .txbInit p sa sb => [synWord 5 p (sa ++ sb ++ 0#6)]
  | .txbExp p sa sb => [synWord 6 p (sa ++ sb ++ 0#6)]
  | .txbArv p sa => [synWord 7 p (sa ++ 0#12)]
  | .txbWt p sa sb => [synWord 8 p (sa ++ sb ++ 0#6)]
  | .kjoin p k => [synWord 9 p (k ++ 0#14)]
  | .kleave p k => [synWord 10 p (k ++ 0#14)]
  | .kwait p k => [synWord 11 p (k ++ 0#14)]
  | .fence od sc => [synWord 12 ⟨0, false⟩ (sc.code ++ od.code ++ 0#13)]
  | .waitd mask => [synWord 13 ⟨0, false⟩ (mask ++ 0#12)]
  | .icinv dev p len => [synWord 14 ⟨0, false⟩ ((if dev then 3#3 else 1#3) ++ p ++ len ++ 0#4)]
  | .isync => [synWord 15 ⟨0, false⟩ 0]
  | .nop => [sysWord 0 0]
  | .tail p => [sysWord 1 (p.k ++ BitVec.ofBool p.neg ++ 0#17)]
  | .trap code => [sysWord 2 (0#6 ++ code)]
  | .rte => [sysWord 3 0]
  | .sysr dst idx => [sysWord 4 (dst.code ++ idx ++ 0#6)]
  | .sysw idx src => [sysWord 5 (src.code ++ idx ++ 0#6)]
  | .time d => [sysWord 6 (d ++ 0#16)]
  | .sleep a => [sysWord 7 (a.code ++ 0#14)]
  | .yield => [sysWord 8 0]
  | .bkpt code => [sysWord 9 (0#6 ++ code)]
  | .budget a => [sysWord 10 (a.code ++ 0#14)]
  | .launch p dc => [sysWord 11 (p ++ dc ++ 0#14)]
  | .xacq n => [sysWord 14 (n ++ 0#20)]
  | .xrel => [sysWord 15 0]
  | .matAlloc n => [matWord 0x00 0 0 0 0 false false 7, 0#24 ++ n]
  | .matFree => [matWord 0x01 0 0 0 0 false false 7, 0]
  | .matEdge k n => [matWord 0x02 0 0 0 0 false false 7, 0#6 ++ n ++ 0#7 ++ k]
  | .matLdb sa sh bank spec dc => [matWord 0x03 0 sa 0 sh.code bank spec.isReg dc, spec.word]
  | .matMma sa roff spec dc => [matWord 0x04 0 sa roff 0 false spec.isReg dc, spec.word]
  | .matMmar va roff spec dc => [matWord 0x05 va 0 roff 0 false spec.isReg dc, spec.word]
  | .matZero roff => [matWord 0x06 0 0 roff 0 false false 7, 0]
  | .matRd d roff col => [matWord 0x07 d 0 roff 0 false false 7, 0#23 ++ col]
  | .matWr a roff col => [matWord 0x08 a 0 roff 0 false false 7, 0#23 ++ col]
  | .matSt sa roff spec dc => [matWord 0x09 0 sa roff 0 false spec.isReg dc, spec.word]
  | .matRbnd d roff => [matWord 0x0A d 0 roff 0 false false 7, 0]
  | .matBank bank => [matWord 0x0B 0 0 0 0 bank false 7, 0]
  | .cpyTIn c sa sb sc => [cpyWord0 0 0 c.dc c.hasTxb sa sb, cpyWord1 sc 0 c.st 0 0 0]
  | .cpyTOut c sa sb sc => [cpyWord0 0 1 c.dc c.hasTxb sa sb, cpyWord1 sc 0 c.st 0 0 0]
  | .cpyBIn c sa sb sc => [cpyWord0 1 0 c.dc c.hasTxb sa sb, cpyWord1 sc 0 c.st 0 0 0]
  | .cpyBOut c sa sb sc => [cpyWord0 1 1 c.dc c.hasTxb sa sb, cpyWord1 sc 0 c.st 0 0 0]
  | .cpyP c sa sb sc sd => [cpyWord0 2 0 c.dc c.hasTxb sa sb, cpyWord1 sc sd c.st 0 0 0]
  | .cpyRed c sa sb sc ty rop => [cpyWord0 3 0 c.dc c.hasTxb sa sb, cpyWord1 sc 0 c.st 0 ty.code rop.code]
  | .cpyPf sa sc => [cpyWord0 4 0 7 false sa 0, cpyWord1 sc 0 0 0 0 0]
  | .cpyG c sa sb sc vi => [cpyWord0 5 0 c.dc c.hasTxb sa sb, cpyWord1 sc 0 c.st vi 0 0]
  | .colAr dc sa sb sc sd ty rop => [cpyWord0 8 0 dc false sa sb, cpyWord1 sc sd 0 0 ty.code rop.code]
  | .colAg dc sa sb sc sd ty => [cpyWord0 8 1 dc false sa sb, cpyWord1 sc sd 0 0 ty.code 0]
  | .colRs dc sa sb sc sd ty rop => [cpyWord0 8 2 dc false sa sb, cpyWord1 sc sd 0 0 ty.code rop.code]
  | .colA2a dc sa sb sc sd ty => [cpyWord0 8 3 dc false sa sb, cpyWord1 sc sd 0 0 ty.code 0]
  | .colBc dc sa sb sc sd root ty => [cpyWord0 8 4 dc false sa sb, cpyWord1 sc sd root 0 ty.code 0]
  | .hubFunctionUsable _ => []
  | .readinessBitClears _ => []
  | .poolRangeReachable _ _ => []
  | .stopGoSignal _ _ _ => []
  | .correctedErrorRecord _ _ _ => []

/-- The checks of R397 on an instruction whose opcode and fields are read, in the order of its table. -/
def check (i : Instr) : Except IllCause Instr :=
  if !allocOk i then .error .opcode
  else if !reservedOk i then .error .reserved
  else if !valueOk i then .error .value
  else if !alignOk i then .error .align
  else if !k0Ok i then .error .k0
  else .ok i

/-- A clause header has the form of R158. -/
def isHeader (w : Word) : Bool :=
  w.extractLsb' 28 4 == 0xF && w.extractLsb' 24 4 != 0 && (w.extractLsb' 21 3).toNat < 6 && w.extractLsb' 0 14 == 0

/-- The header in a word of the form of R158. -/
def headerOf (w : Word) : Instr :=
  .clauseHeader (w.extractLsb' 24 4) (w.extractLsb' 21 3) (w.extractLsb' 15 6) (w.getLsbD 14)

/-- An instruction takes two words in formats 3, 5, 6, 8 and 9, and otherwise one (R163). -/
def isTwo (w0 : Word) : Bool :=
  let f := w0.extractLsb' 28 4
  f == 3 || f == 5 || f == 6 || f == 8 || f == 9

/-- The opcode and fields of a word in an instruction position, by format (R163). -/
def decodeFormat (w0 w1 : Word) : Except IllCause Instr :=
  match (w0.extractLsb' 28 4).toNat with
  | 0 => decodeSbin w0
  | 1 => decodeSimm w0
  | 2 => decodeVbin w0
  | 3 => decodeVwide w0 w1
  | 4 => decodeVcmp w0
  | 5 => decodeVx w0 w1
  | 6 => decodeGmem w0 w1
  | 7 => decodeSpad w0
  | 8 => decodeMat w0 w1
  | 9 => decodeCpy w0 w1
  | 10 => decodeCtl w0
  | 11 => decodeSyn w0
  | 12 => decodeSys w0
  | 13 => .error .fmtReserved
  | 14 => .error .fmtExtension
  | _ => .error .fmtHeader

/-- The instruction in an instruction position, or the first cause of R397 that the words alone give. -/
def decodeWord (w0 w1 : Word) : Except IllCause Instr :=
  match decodeFormat w0 w1 with
  | .ok i => check i
  | .error c => .error c

/-- A terminator, told from its format and opcode (R159). -/
def isTerminator (w : Word) : Bool :=
  let f := w.extractLsb' 28 4
  (f == 0xA && (w.extractLsb' 24 4).toNat < 7) ||
  (f == 0xC && (w.extractLsb' 22 6 == 1 || w.extractLsb' 22 6 == 2 || w.extractLsb' 22 6 == 3 || w.extractLsb' 22 6 == 9))

/-- The class admits the word's format, or its operation where it admits only some of a format (R159). -/
def admitted (cls : BitVec 3) (w : Word) : Bool :=
  let f := (w.extractLsb' 28 4).toNat
  let syn := f == 11 && w.extractLsb' 23 5 == 13
  let fence := f == 11 && w.extractLsb' 23 5 == 12
  let meet := f == 10 && w.extractLsb' 24 4 == 7
  let sys := f == 12 && (w.extractLsb' 22 6 == 0 || w.extractLsb' 22 6 == 4 || w.extractLsb' 22 6 == 5 || w.extractLsb' 22 6 == 6)
  match cls.toNat with
  | 0 => f ≤ 5 || f == 7 || sys || syn || meet
  | 1 => f == 2 || f == 3 || f == 4 || f == 5
  | 2 => f == 6 || f == 7 || f ≤ 3 || syn || fence
  | 3 => f == 8 || f ≤ 1 || syn
  | 4 => f == 9 || f ≤ 1 || syn
  | 5 => f ≤ 1 || f == 11 || f == 12 || meet
  | _ => false

/-- The instruction at a place of a clause: the class check stands between the format codes and the opcode (R159,
R397). `last` says that the place is the clause's last. -/
def decodeAt (cls : BitVec 3) (last : Bool) (w0 w1 : Word) : Except IllCause Instr :=
  let f := (w0.extractLsb' 28 4).toNat
  if f == 15 then .error .fmtHeader
  else if f == 13 then .error .fmtReserved
  else if f == 14 then .error .fmtExtension
  else if isTerminator w0 then (if last then decodeWord w0 w1 else .error .cls)
  else if !admitted cls w0 then .error .cls
  else decodeWord w0 w1

/-- The step that the machine takes for a word pair in an instruction position: the instruction, or the step for a word
that is none (R182). -/
def instrAt (cls : BitVec 3) (last : Bool) (w0 w1 : Word) : Instr :=
  match decodeAt cls last w0 w1 with
  | .ok i => i
  | .error _ => .noInstructionWord

/-- A word numbered as the opcode table numbers it: the first word is its low 32 bits, the second the next 32. -/
def tableWords (w : Nat) : Word × Word := (BitVec.ofNat 32 w, BitVec.ofNat 32 (w >>> 32))

/-- The instruction that the decoder reads from an instruction whose bits are `w`. -/
def decodeTableWord (_nbits w : Nat) : Option Instr :=
  let p := tableWords w
  if isHeader p.1 then some (headerOf p.1)
  else match decodeWord p.1 p.2 with
    | .ok i => some i
    | .error _ => none

end Sys2Proof
end

