-- ==== Sys2Proof/Config.lean ====
section
/-! DEFINITION. What one implementation fixes and the manual leaves open: constants without a body, so that nothing in
Lean can evaluate them. -/

namespace Sys2Proof

/-- The word that this implementation's unit delivers for an approximating function (R85): 0 `frsq`, 1 `fexp2`, 2 `flog2`,
3 `fsin`, 4 `fcos`, 5 `ftanh`. It counts only where it lies within the allowance. -/
opaque Config.approx : Nat → Word → Word

/-- Bytes of the context save pool, less one, that a saved block takes for each of its cores, from its warps and the bytes of its
slice (R341): the manual gives what the context holds and not its layout, and 1.3 MiB for a full core, which 21 bits hold (log 77). -/
opaque Config.contextBytes : Nat → Nat → BitVec 21

/-- A byte of the context of a saved block (R341), by the number of the block and its offset in the context. -/
opaque Config.contextByte : Nat → Nat → BitVec 8

/-- The 40 bytes of a time message on VC 4 (R384), by the time at which it is sent: the manual does not lay it out. -/
opaque Config.timeMessage : Nat → List (BitVec 8)

/-- Whether the host link trained as CXL 3.1 and not as PCIe only (R351, R352). -/
opaque Config.hostCxl : Bool

/-- The SHA3-256 digest of a list of bytes, 32 bytes (R381, R382): the manual names the function and does not define it. -/
opaque Config.digest : List (BitVec 8) → List (BitVec 8)

/-- The ML-DSA-44 signature over a list of bytes by the device identity key, 2,420 bytes (R379, R382, R452): the key never
leaves the security processor. -/
opaque Config.signature : List (BitVec 8) → List (BitVec 8)

/-- Whether an image or record of boot flash, by its bytes and its signature, verifies under the key chain (R381). -/
opaque Config.verifies : List (BitVec 8) → List (BitVec 8) → Bool

/-- Byte of a state dump's error registers, by domain and offset (R452): the manual does not list them. -/
opaque Config.dumpByte : Nat → Nat → BitVec 8

/-- The first block whose residue differed in a row of a failing accumulation, by operation and lane (R409): the failing
engine's. -/
opaque Config.residueBlock : Nat → Nat → Nat

end Sys2Proof
end

