-- ==== Sys2Proof/Machine/Map.lean ====
section
/-! DEFINITION. Sparse tables as plain data: a list of key and value pairs in one canonical form.
Every register file, memory and table of the machine is one of these. Keys rise strictly and no entry holds the
default value, so equal tables are equal lists. -/

namespace Sys2Proof.Machine

/-- A table from Nat keys to values, as a list with strictly rising keys. -/
abbrev Map (α : Type) := List (Nat × α)

namespace Map

/-- The value at key `k`; `d` is what an unlisted key reads as. -/
def get {α : Type} (m : Map α) (d : α) (k : Nat) : α :=
  match m with
  | [] => d
  | (j, a) :: t => if j = k then a else get t d k

/-- The table with `v` at key `k`; an entry equal to the default `d` is not listed. -/
def set {α : Type} [DecidableEq α] (m : Map α) (d : α) (k : Nat) (v : α) : Map α :=
  match m with
  | [] => if v = d then [] else [(k, v)]
  | (j, a) :: t =>
    if k = j then (if v = d then set t d k v else (k, v) :: t)
    else if k < j ∧ v ≠ d then (k, v) :: (j, a) :: t
    else (j, a) :: set t d k v

/-- The table with the value at key `k` changed by `f`. -/
def upd {α : Type} [DecidableEq α] (m : Map α) (d : α) (k : Nat) (f : α → α) : Map α :=
  set m d k (f (get m d k))

/-- The keys that are listed. -/
def keys {α : Type} (m : Map α) : List Nat := m.map Prod.fst

/-- Every listed key from `lo` up to but not including `hi` is dropped. -/
def dropRange {α : Type} (m : Map α) (lo hi : Nat) : Map α :=
  m.filter fun p => p.1 < lo || hi ≤ p.1

/-- The entry at key `k`, if one is listed. -/
def find? {α : Type} (m : Map α) (k : Nat) : Option α :=
  match m with
  | [] => none
  | (j, a) :: t => if j = k then some a else find? t k

/-- The table with `v` listed at key `k`, in place of what was there; keys keep their order. -/
def put {α : Type} (m : Map α) (k : Nat) (v : α) : Map α :=
  match m with
  | [] => [(k, v)]
  | (j, a) :: t => if k < j then (k, v) :: (j, a) :: t else if k = j then (k, v) :: t else (j, a) :: put t k v

/-- The table with nothing listed at key `k`. -/
def erase {α : Type} (m : Map α) (k : Nat) : Map α := m.filter fun p => p.1 != k

/-- The canonical form: keys rise strictly and no entry equals the default. -/
def wf {α : Type} [DecidableEq α] (m : Map α) (d : α) : Bool :=
  match m with
  | [] => true
  | [(_, a)] => a != d
  | (j, a) :: (k, b) :: t => a != d && j < k && wf ((k, b) :: t) d

end Map

end Sys2Proof.Machine
end

