-- ==== Sys2Proof/Machine/State.lean ====
section
/-! DEFINITION. The state of the machine as plain data: everything the manual gives the package, and the few fields of
the model's own that `INVENTORY.md` marks so. Tables are `Map`s; addresses that a table is keyed by are Nat. -/

namespace Sys2Proof.Machine

/-! ## Threads and warps (02, 03, 17, 19) -/

/-- One lane of an operand latch: its value, its bound and whether the current clause captured it (R65). -/
structure Latch where
  val : Word
  bnd : Bnd
  cap : Bool
deriving DecidableEq, Repr

/-- A latch lane that nothing captured. -/
def Latch.none : Latch := ⟨0, 0, false⟩

/-- The clause that holds a thread's PC: the header's address, class and the words after the header (R157 to R162). -/
structure Clause where
  hdr : DWord
  cls : BitVec 3
  yieldHint : Bool
  words : List Word
  /-- How many instructions the header names. -/
  n : Nat
deriving DecidableEq, Repr

/-- What a parked thread keeps of its access (R419). -/
structure Parked where
  /-- The lane's full address, as formed at issue. -/
  addr : DWord
  /-- Operand words of an atomic, low first, and the largest bound among them. -/
  data : List Word
  bnd : Bnd
  /-- Memory cause (R386). -/
  cause : BitVec 8
  /-- Page-request group: function, stage and index. -/
  group : Option (Nat × Nat × Nat)
  /-- Lanes of the instruction whose destination was written (ELEM of the frame). -/
  elem : Mask
  /-- The operation of the instruction's first issue, which its replays share (R424). -/
  inst : Nat
  /-- The bounds of the operand words, one each. -/
  bnds : List Bnd := []
deriving DecidableEq, Repr

/-- Thread states (R30). -/
inductive TState where
  | running
  /-- Held at its meeting point (R36). -/
  | heldMr
  /-- Held in `kwait` (R40). -/
  | heldK (k : KReg)
  /-- Waiting on a block or cluster barrier (R242, R244). -/
  | waitBar (cluster : Bool) (id : BitVec 4)
  /-- Waiting on a transaction barrier for its generation to leave `gen` (R246). -/
  | waitTxb (off : Word) (gen : Word)
  /-- Asleep until a point in the window that opens at `wake` ns (R311). -/
  | sleeping (wake : Nat)
  /-- Waiting for extended blocks (R313). -/
  | waitX (n : BitVec 2)
  /-- Waiting at a header or a `meet` for a page-request group, for the instruction word at `va` (R255, R424). -/
  | waitPage (vf stage group va : Nat)
  /-- The same while its fault waits at its HTU for a group (R420). -/
  | waitHtu (va : Nat)
  | parked (p : Parked)
  /-- Trapped: runs the handler (R388). -/
  | trapped
  /-- In a group whose trap waits or whose trap entry has begun (R387, R388). -/
  | trapWait
  | exited
deriving DecidableEq, Repr

/-- One thread position of a warp. -/
structure Thread where
  st : TState
  pc : DWord
  mr : Option DWord
  /-- The age of the PC group it is in (R32). -/
  age : Nat
  cl : Option Clause
  l0 : Latch
  l1 : Latch
  l2 : Latch
  /-- Armed bits of the block barriers and the phases of the arrivals (R240). -/
  armB : BitVec 16
  phB : BitVec 16
  /-- The same for the cluster barriers. -/
  armC : BitVec 16
  phC : BitVec 16
  /-- Issues its instruction again at its recorded address (R424). -/
  replay : Option Parked
  /-- Its handler has returned it to the load by whose fault it had trapped, with a destination in extended blocks, and it stands there
  still (R314). -/
  owes : Bool := false
deriving DecidableEq, Repr

/-- A thread that was never started (R23). -/
def Thread.idle : Thread :=
  ⟨.exited, 0, none, 0, none, Latch.none, Latch.none, Latch.none, 0, 0, 0, 0, none, false⟩

/-- A lane record of a trap frame (R390). -/
structure LaneRec where
  addr : DWord
  data : List Word
  bnd : Bnd
  cause : BitVec 8
  width : BitVec 8
deriving DecidableEq, Repr

/-- A trap as its frame describes it (R389, R398), but for the fields that entry itself reads from the warp. -/
structure TrapInfo where
  code : BitVec 16
  deferF : Bool
  engineF : Bool
  fetchF : Bool
  two : Bool
  imm : BitVec 16
  pc : DWord
  npc : DWord
  iw0 : Word
  iw1 : Word
  lanes : Mask
  group : Mask
  addr : DWord
  elem : Mask
  info : Word
  orig : DWord
  recs : List (Nat × LaneRec)
  /-- Bytes 0x000 to 0x07F of the frame, once they are stored (R388). -/
  head : List Byte := []
deriving DecidableEq, Repr

/-- How far the trap of a warp has come (R388, R391). -/
inductive TrapPhase where
  /-- Frame stores outstanding: the numbers of their operations. -/
  | entering (ops : List Nat)
  /-- The handler runs. -/
  | handling
  /-- `rte`, or the end of the last trapped thread, reads the frame by an operation; `resume` says that it was `rte`. -/
  | leaving (op : Nat) (resume : Bool)
deriving DecidableEq, Repr

/-- A deferred or engine fault not yet delivered (R394, R429). -/
structure Deferred where
  info : TrapInfo
  /-- Threads whose lanes were effective in the instruction. -/
  owners : Mask
  /-- Its dependency counter, 7 for none. -/
  dc : BitVec 3
deriving DecidableEq, Repr

/-- Why a warp does not issue although a group of it runs: an operation in progress that holds the warp. -/
inductive Hold where
  | none
  /-- A fence that waits: the drain set of its release part (R132). -/
  | fence (drain : List Nat)
  /-- `icinv` in progress (R250). -/
  | icinv (dev : Bool) (va : DWord) (len : Word)
  /-- A load-class operation of whose lanes some are neither served nor parked. -/
  | access (op : Nat)
deriving DecidableEq, Repr

/-- The part a warp plays in a launch (R338). -/
inductive Role where
  | solo
  | leading (partner : Nat)
  | trailing (partner : Nat)
deriving DecidableEq, Repr

/-- An effect that reaches outside a pair of warps (R339): its effective lanes, by lane its addresses, data and bounds, and what
it has in common for them. Its kind is that of the instruction. -/
structure Effect where
  lanes : Mask
  parts : List (Nat × List Nat)
  common : List Nat
deriving DecidableEq, Repr

/-- What a pair of warps keeps of an instruction of the current clause that acted outside it or received values: its place in
the store compare buffer and in the load value queue (R338, R339, R406). -/
structure Acted where
  pc : DWord
  /-- Its effect, of one that has one. -/
  effect : Option Effect
  /-- Register values received, by key. -/
  vec : List (Nat × LV)
  sca : List (Nat × Word)
  /-- Operations that have still to return to it. -/
  ops : List Nat
deriving DecidableEq, Repr

/-- What the leading warp of a pair did ahead of its trailing warp (R338, R339). -/
inductive LagWhat where
  /-- It entered a clause. -/
  | enter (c : Clause)
  /-- An instruction whose results each warp computes for itself. -/
  | own
  /-- An instruction that received values: an entry of the load value queue, with the operations that bring it. -/
  | takes (ops : List Nat) (vec : List (Nat × LV)) (sca : List (Nat × Word))
  /-- Operations brought values back later. -/
  | value (ops : List Nat) (vec : List (Nat × LV)) (sca : List (Nat × Word))
  /-- An effect that reaches outside the pair: an entry of the store compare buffer, which has not acted. -/
  | effect (e : Effect)
deriving DecidableEq, Repr

/-- A step of the leading warp that the trailing one has still to make. -/
structure LagStep where
  /-- The run of a clause that it belongs to, by its record's number; 0 for none. -/
  no : Nat
  /-- Leading lanes that stood at the same place and did not issue. -/
  out : Mask
  /-- Where the issuing lanes stood: the PC, and the header of their clause. -/
  pc : DWord
  cl : Option DWord
  what : LagWhat
deriving DecidableEq, Repr

/-- The clause undo record of a warp: what the registers that an instruction of the clause wrote held at its header (R406). -/
structure Undo where
  vec : List (Nat × LV) := []
  sca : List (Nat × Word) := []
  kmask : List (Nat × Mask) := []
  arrive : List (Nat × Mask) := []
  sc : Option Bool := none
  exm : Option Mask := none
  unc : Option Mask := none
  budget : Option Word := none
  /-- The group's threads as they entered the clause. -/
  threads : Map Thread := []
deriving DecidableEq, Repr

/-- What a pair keeps of a clause that it issues (R338, R339, R405 to R407). -/
structure PairRec where
  /-- Its number among the records of the warp. -/
  no : Nat := 0
  /-- Lanes of the PC group that the leading warp has not led out of the clause, and those that not both warps have. -/
  mask : Mask
  lanes : Mask := 0
  hdr : DWord
  /-- Where a retry begins: the clause's first instruction. -/
  start : DWord
  lead : Undo := {}
  trail : Undo := {}
  /-- Its effects and the values received, in issue order. -/
  acted : List Acted := []
  /-- On a retry: the lanes that mismatched before. -/
  redo : Option Mask := none
  /-- The lane that the spare lane takes at the clause boundary, and whether the leading warp's failed. -/
  spare : Option (Nat × Bool) := none
deriving DecidableEq, Repr

/-- A warp slot and the warp in it (03). -/
structure Warp where
  /-- A warp stands in the slot. -/
  live : Bool
  /-- The number of this warp, never used again. -/
  uid : Nat
  launch : Nat
  block : Nat
  /-- Warp in block (R24). -/
  index : Nat
  threads : Map Thread
  vregs : Map LV
  sregs : Map Word
  sc : Bool
  kregs : Map Mask
  arrive : Map Mask
  ctr : Map Nat
  xblocks : Nat
  exm : Mask
  unc : Mask
  budget : Word
  awb : Nat
  awl : Nat
  medge : Word
  mbank : Bool
  tvec : DWord
  tframe : DWord
  /-- The issue mask of the PC group that issues; 0 when the warp selects anew (R31, R33). -/
  issue : Mask
  /-- Clauses that the group in turn has issued in a row, and its mask (R33). -/
  turn : Nat
  turnMask : Mask
  hold : Hold
  /-- Trap mode (R388). -/
  trap : Option (TrapInfo × TrapPhase)
  trapQueue : List TrapInfo
  deferred : List Deferred
  /-- Store sequence number (R145). -/
  seq : Nat
  /-- Operations numbered below this belong to the drain set through the warp's latest narrow acquire (R130). -/
  acqMark : Nat
  /-- Words fetched ahead, by the number of the fetch line (R251). -/
  fetched : Map (List Byte)
  active : Bool
  stamp : Nat
  /-- Whether it was ready when time last passed, and the cycle, in thousandths, since which it has been so in its set (R337). -/
  ready : Bool
  since : Nat
  role : Role
  /-- Of a leading warp: what its pair keeps of the clauses in progress, the latest first. -/
  recs : List PairRec
  /-- Of a leading warp: what it has done ahead of the trailing one, oldest first (R338, R339). -/
  lag : List LagStep := []
  /-- Of a leading warp: an error has struck its pair, and the next clause that it issues is handled as one that mismatched (R433). -/
  struck : Bool := false
deriving DecidableEq, Repr

/-- An empty slot: every register at the value of R58 to R70, where that gives one, and zero otherwise. -/
def Warp.empty : Warp :=
  { live := false, uid := 0, launch := 0, block := 0, index := 0, threads := [], vregs := [], sregs := [], sc := false,
    kregs := [], arrive := [], ctr := [], xblocks := 0, exm := 0, unc := 0, budget := 0, awb := 0, awl := 0,
    medge := 0x02000100, mbank := false, tvec := 0, tframe := 0, issue := 0, turn := 0, turnMask := 0, hold := .none,
    trap := none, trapQueue := [], deferred := [], seq := 0, acqMark := 0, fetched := [], active := false, stamp := 0, ready := false, since := 0,
    role := .solo, recs := [] }

/-! ## Memory operations in flight (06, 09, 19) -/

/-- How far one lane of a memory operation has come. -/
inductive LaneSt where
  /-- Sent towards its home or the cluster unit. -/
  | sent
  /-- Missed a translation at its home: a page-table walk is due (R117). -/
  | walking
  /-- At its home again after a page answer or a promotion (R147, R424). -/
  | arrived
  /-- At its home again, where it missed a translation once more (R424). -/
  | rewalking
  /-- Held while its fault waits at its HTU for a group (R420). -/
  | atHtu
  /-- Held for a page-request group (R428). -/
  | paged (vf stage group : Nat)
  /-- Waits at the home for a promotion (R146, R147). -/
  | promoting (pid : Nat)
  /-- In group space: one half of a 128-bit access is performed, the other is due (R137). -/
  | half
  /-- Performed at its unit. -/
  | done
  /-- Ended in a fault of this cause. -/
  | fault (cause : BitVec 8)
  /-- Left the operation: its thread parked (R419) or its launch rolled back. -/
  | gone
deriving DecidableEq, Repr

/-- One lane's access. -/
structure Lane where
  st : LaneSt
  addr : DWord
  /-- Operand words, low first: store data, or the operand, or compare then swap value. -/
  data : List Word
  bnd : Bnd
  /-- The words read, and their bound; of a store lane that a page answer failed, the group index (R425). -/
  res : List Word
  rbnd : Bnd
  /-- For a write of `mat.st`: the bits of each byte that it writes, so that a nibble is written alone (R280). -/
  mask : List Byte
  /-- The bounds of the operand words, one each (R419). -/
  bnds : List Bnd := []
  /-- Halves of a 128-bit access performed: bit 0 the lower, bit 1 the upper (R137). -/
  halves : BitVec 2 := 0
  /-- It was held for a page request, and has not been applied since its answer (R428). -/
  waited : Bool := false
  /-- Of a write-through: the operand words of its atomic and their bound, for a record (R390). -/
  src : Option (List Word × Bnd) := none
deriving DecidableEq, Repr

/-- A lane that takes no part. -/
def Lane.none : Lane := ⟨.gone, 0, [], 0, [], 0, [], [], 0, false, Option.none⟩

/-- Kinds of memory operation. -/
inductive MemKind where
  | ld | st | atom | red | cas | sld | pf
  /-- A write of `mat.st` (R280). -/
  | matSt
  /-- A store or a load of a trap frame (R388, R391). -/
  | frameSt | frameLd
  /-- A read of an instruction fetch line (R162). -/
  | fetch
  /-- The read of a branch or `meet` target word (R254, R255). -/
  | target
  /-- The write-through of an atomic that the L1 unit performed (R134). -/
  | through
deriving DecidableEq, Repr

/-- A memory operation. -/
structure MemOp where
  kind : MemKind
  /-- Warp slot and warp number of the issuer. -/
  slot : Nat
  uid : Nat
  core : Nat
  launch : Nat
  block : Nat
  vf : Nat
  asid : Nat
  /-- The instruction: address, header of its clause, words. -/
  pc : DWord
  iw0 : Word
  iw1 : Word
  two : Bool
  width : Width
  scope : Scope
  order : Order
  aop : Aop
  rp : Bool
  hint : BitVec 4
  /-- First destination register; a vector register, or a scalar register for `sld`. -/
  dst : Nat
  dc : BitVec 3
  /-- Store sequence number (R145). -/
  seq : Nat
  /-- Operations that must be acknowledged before this one is sent: a release held by R130. -/
  held : Option (List Nat)
  lanes : Map Lane
  /-- Lanes whose destination is written, for ELEM. -/
  written : Mask
  /-- The operation of the instruction's first issue, which its replays share (R424). -/
  inst : Nat := 0
  /-- Issued in trap mode: a fault is a double trap (R393). -/
  inTrap : Bool
  /-- Its place among the requests of its core, an operation and a lane, where that is not its own number: of a write-through its atomic's
  (R133, R134), of a release that was held the place at which it was sent (R130). -/
  place : Nat × Nat := (0, 0)
  /-- Time at which it was sent (R454). -/
  sentAt : Nat := 0
deriving DecidableEq, Repr

/-- A line of L1 or of an instruction cache: permissions, data, and per sector its bound and poison (R107). -/
structure CLine where
  read : Bool
  write : Bool
  exec : Bool
  data : List Byte
  bnds : List Bnd
  poison : BitVec 4
  bounded : Bool
deriving DecidableEq, Repr

/-- The pool cache's states of a line towards the device (R354). -/
inductive PoolSt where
  | shared | owned
deriving DecidableEq, Repr

/-- A line at its home: an L2 slice or the pool cache (R110, R111, R146, R354). -/
structure HLine where
  line : CLine
  /-- Physical address of the line. -/
  pa : Nat
  /-- Physical address of its four shadow halfwords, when bounded (R97, R116). -/
  shadowPa : Nat
  dirty : BitVec 4
  /-- Promotion mark: the marking core (R146). -/
  mark : Option Nat
  pool : PoolSt
  /-- Cores that the snoop filter names (R354). -/
  sharers : List Nat
  launches : List Nat
deriving DecidableEq, Repr

/-- An entry of a promotion log (R145): line, ASID, function, warp number, store sequence number, and the drain set of
the warp at that store. -/
structure PromEntry where
  line : Nat
  vf : Nat
  asid : Nat
  uid : Nat
  seq : Nat
  drain : List Nat
deriving DecidableEq, Repr

/-- A promotion under way for a line (R147, R151). -/
structure Promotion where
  home : Nat
  vf : Nat
  asid : Nat
  line : Nat
  core : Nat
  /-- The core has received it. -/
  acked : Bool
  sentAt : Nat
  /-- Lanes that wait for it, by operation and lane, in the order of their arrival (R151). -/
  waiters : List (Nat × Nat) := []
deriving DecidableEq, Repr

/-- A range of a range-lock entry: global by ASID, or a scratchpad slice of a block (R153). -/
structure LockRange where
  op : Nat
  global : Bool
  vf : Nat
  asid : Nat
  block : Nat
  lo : Nat
  hi : Nat
  /-- A destination range. -/
  dst : Bool
deriving DecidableEq, Repr

/-- A translation fault of a load-class lane, or of a read of instruction words, that waits at its HTU for a page-request group
(R420): whose it is, the failing address, ACCESS, and stage, LEVEL, CAUSE and guest physical address of the fault. -/
structure HtuWait where
  uid : Nat
  /-- Threads that are parked or wait for it. -/
  threads : Mask
  vf : Nat
  asid : Nat
  va : Nat
  access : Nat
  stage : Nat
  level : Nat
  cause : Nat
  gpa : Nat
deriving DecidableEq, Repr

/-- A cached walk result of a translation unit (R117, R122): the unit (a domain, or 8 for the hub), the 4 KiB page of the
VA, its guest physical and physical page, permissions and BND. -/
structure TlbEntry where
  unit : Nat
  vf : Nat
  asid : Nat
  vaPage : Nat
  gpaPage : Nat
  paPage : Nat
  read : Bool
  write : Bool
  exec : Bool
  bounded : Bool
deriving DecidableEq, Repr

/-- An outstanding page-request group (R422). -/
structure PageGroup where
  vf : Nat
  stage : Nat
  index : Nat
  asid : Nat
  page : Nat
  /-- Its record is written (R420). -/
  posted : Bool
  /-- The record's bytes. -/
  record : List Byte
deriving DecidableEq, Repr

/-- Registers of a page-request queue (R420). -/
structure PageQueue where
  base : DWord
  ctl : Word
  prod : BitVec 16
  cons : BitVec 16
  next : BitVec 16
deriving DecidableEq, Repr

/-- A page-request queue after reset. -/
def PageQueue.reset : PageQueue := ⟨0, 0, 0, 0, 0⟩

/-! ## Engines (06, 10, 11) -/

/-- A run of bytes that a transfer moves: source address, destination address, length; nibbles when `half`. -/
structure Piece where
  src : Nat
  dst : Nat
  len : Nat
  /-- For an E2M1 element: which nibble of the source and of the destination. -/
  nib : Option (Bool × Bool)
  /-- The source lies outside the tensor: zeros (R292). -/
  zero : Bool
deriving DecidableEq, Repr

/-- One transfer of an engine operation: all pieces of one destination sector (R98, R99). -/
structure Xfer where
  pieces : List Piece
  done : Bool
  paged : Option (Nat × Nat × Nat)
  /-- It was held at the home of its line for a page request, and has not been made since (R428). -/
  held : Bool := false
deriving DecidableEq, Repr

/-- Kinds of engine operation. -/
inductive EngKind where
  | cpyTIn | cpyTOut | cpyBIn | cpyBOut | cpyP | cpyRed (ty : Fmt) (rop : Rop) | cpyPf | cpyG
  | ldb (sh : BShape) (bank : Bool) (spec : Word)
  | col (kind : BitVec 4) (ty : Fmt) (rop : Rop)
  | launch
deriving DecidableEq, Repr

/-- How far an engine operation has come. -/
inductive EngSt where
  /-- Waits for the issuing warp's drain set and earlier loads (R152). -/
  | waiting
  /-- Reads its tensor descriptor (R291). -/
  | descriptor
  | active
  /-- Every write made; completion due (R154). -/
  | drained
  /-- Reached the hub's collective engine or the queue. -/
  | atHub
deriving DecidableEq, Repr

/-- An engine operation. -/
structure EngOp where
  kind : EngKind
  st : EngSt
  slot : Nat
  uid : Nat
  core : Nat
  launch : Nat
  block : Nat
  vf : Nat
  asid : Nat
  pc : DWord
  iw0 : Word
  iw1 : Word
  /-- Threads effective or issuing, for a deferred fault (R394). -/
  owners : Mask
  dc : BitVec 3
  /-- Transaction barrier: block, core-in-block slice and offset. -/
  txb : Option (Nat × Nat × Nat)
  /-- Bytes credited. -/
  credit : Nat
  /-- Operations awaited before it starts (R152). -/
  drain : List Nat
  /-- Operand registers as read at issue: sa, sb, sc, sd values or pair values. -/
  a : DWord
  b : DWord
  c : DWord
  d : Word
  /-- Register that receives a status (R302). -/
  sd : Nat
  /-- Coordinates of a tensor copy, or row indices by lane. -/
  coords : List Word
  /-- Destination slice of a peer copy: block and slice. -/
  peer : Nat × Nat
  xfers : List Xfer
  /-- Bytes, bounds and poison that `mat.ldb` has read, by transfer. -/
  buf : Map (List Byte)
  bufBnd : Bnd
  bufPoison : List Nat
  /-- `mat.ldb`: position in the matrix order of the core (R260). -/
  order : Nat
  fault : Option (BitVec 16 × DWord)
  /-- Scalar operands of a `mat.ldb`: scale registers (R271). -/
  extra : List Word
  /-- Time at which it started (R454). -/
  sentAt : Nat := 0
deriving DecidableEq, Repr

/-- A matrix operation that waits for its turn or for its writes: `mat.mma`, `mat.mmar`, `mat.st` (R260, R277, R280). -/
structure MatOp where
  kind : MatUse
  slot : Nat
  uid : Nat
  core : Nat
  launch : Nat
  block : Nat
  pc : DWord
  iw0 : Word
  iw1 : Word
  dc : BitVec 3
  spec : Word
  /-- Effective lanes and their rows. -/
  mask : Mask
  row0 : Nat
  bank : Bool
  kLen : Nat
  nLen : Nat
  /-- K of the bank as fixed at issue (R261). -/
  kB : Nat
  gstep : Nat
  base : DWord
  extra : List Word
  /-- Registers of a `mat.mmar` per lane, as read at issue. -/
  regs : Map (List LV)
  order : Nat
  drain : List Nat
deriving DecidableEq, Repr

/-- A B bank (R257). -/
structure Bank where
  owner : Option Nat
  shape : BShape
  enc : BitVec 4
  /-- Cell codes by k times N plus n. -/
  cells : Map Nat
  sblk : BitVec 2
  senc : BitVec 4
  hasScale : Bool
  /-- Scale codes by column times blocks plus block. -/
  scales : Map Nat
  /-- Tensor scale, a BF16 code; 0x3F80 is 1. -/
  tB : BitVec 16
  bB : Bnd
  poison : List Nat
deriving DecidableEq, Repr

/-- A bank that no `mat.ldb` has written: owner none (R257); the rest is not stated. -/
def Bank.reset : Bank := ⟨none, .k64, 0, [], 0, 0, false, [], 0x3F80, 0, []⟩

/-- A row's bound and poison (R259). -/
structure RowMeta where
  bnd : Bnd
  poison : Bool
deriving DecidableEq, Repr

/-- A core's own units (R11). -/
structure Core where
  /-- Scratchpad step in 64 KiB units (R106). -/
  split : Nat
  banks : Map Bank
  /-- Accumulator words by row times 512 plus column. -/
  acc : Map Word
  rows : Map RowMeta
  /-- Windows held: block, first row, rows (R265). -/
  windows : List (Nat × Nat × Nat)
  log : List PromEntry
  locks : List LockRange
  /-- Retirement tracker: numbers of ended warps with operations outstanding, and their blocks (R51). -/
  tracker : List (Nat × Nat)
  /-- Matrix operations are numbered in issue order (R260). -/
  matSeq : Nat
  /-- By quadrant, 1 more than the lane whose place the spare lane has taken; 0 for none (R407). -/
  spare : Map Nat
deriving DecidableEq, Repr

/-- A core with nothing in it. -/
def Core.reset : Core := ⟨0, [], [], [], [], [], [], [], 0, []⟩

/-! ## Blocks, clusters and launches (02, 13) -/

/-- A block or cluster barrier (R240). -/
structure Barrier where
  phase : Bool
  count : Nat
deriving DecidableEq, Repr

/-- A barrier at block start. -/
def Barrier.start : Barrier := ⟨false, 0⟩

/-- A resident block (R22 to R26). -/
structure Block where
  live : Bool
  launch : Nat
  cluster : Nat
  /-- Block in cluster. -/
  index : Nat
  cores : List Nat
  slice : Nat
  warps : Nat
  /-- Warps that have ended. -/
  ended : Nat
  bars : Map Barrier
  /-- Domains of which it has held a core, as a mask (R448). -/
  doms : Nat
deriving DecidableEq, Repr

/-- No block. -/
def Block.none : Block := ⟨false, 0, 0, 0, [], 0, 0, 0, [], 0⟩

/-- A resident or saved cluster (R26). -/
structure Cluster where
  live : Bool
  launch : Nat
  /-- Cluster number in its grid (R29). -/
  number : Nat
  group : Nat
  blocks : List Nat
  gspace : Nat
  bars : Map Barrier
  saved : Bool
  /-- Pre-emption has been asked for (R340). -/
  preempt : Bool
deriving DecidableEq, Repr

/-- No cluster. -/
def Cluster.none : Cluster := ⟨false, 0, 0, 0, [], 0, [], false, false⟩

/-- States of a launch between its slot and its completion (13). -/
inductive LaunchSt where
  /-- At the head of its queue: header being read and checked. -/
  | header
  /-- Waits for its events (R329). -/
  | events
  /-- Waits for launches of its ASID that use another table (R112). -/
  | table
  /-- Ready or running: the dispatcher places its clusters (R331). -/
  | running
  | finished
deriving DecidableEq, Repr

/-- A launch. -/
structure Launch where
  st : LaunchSt
  queue : Nat
  slotIdx : BitVec 16
  vf : Nat
  asid : Nat
  hdrVa : DWord
  /-- The 128 header bytes, as read (R325). -/
  hdr : List Byte
  /-- Submitted by a `launch` instruction of this launch (R312). -/
  parent : Option Nat
  code : BitVec 16
  replay : Nat
  /-- Next cluster number to place. -/
  nextCl : Nat
  doneCl : Nat
  readyAt : Nat
  /-- Time at which its last cluster was placed (R343). -/
  placedAt : Nat
  started : Bool
  /-- Write set of its waypoint: address and length (R434). -/
  wset : List (Nat × Nat)
  waypoint : Bool
  /-- Executed `launch`; a `col` of it has reached the engine (R437). -/
  launched : Bool
  colled : Bool
  aborted : Bool
  /-- A fault was reported against it after a warp ended (R52). -/
  lateFault : Bool
  /-- It is being rolled back, for this cause of R462: its blocks stop at their next clause end (R436). -/
  rolling : Option Nat
  /-- A context of it did not fit the save pool, so that its function's slice goes on until it completes (R376). -/
  stays : Bool := false
deriving DecidableEq, Repr

/-- Registers of a launch queue (R322). -/
structure Queue where
  base : DWord
  ctl : Word
  rsv : BitVec 16
  head : BitVec 16
  /-- Doorbell rung and not yet served. -/
  rung : Bool
  /-- The entry being processed. -/
  busy : Option Nat
  /-- Indices filled by `launch` instructions: index, launch number (R323). -/
  inner : List (Nat × Nat)
  /-- Halted on a bad slot, until EN is cleared (R324). -/
  halted : Bool
  /-- Indices reserved and not yet consumed (R322). -/
  used : Nat
deriving DecidableEq, Repr

/-- A launch queue after reset. -/
def Queue.reset : Queue := ⟨0, 0, 0, 0, false, none, [], false, 0⟩

/-- The saved context of a pre-empted block (R341): its warps by index (a trailing warp by 128 plus its index), and by
core of the block its rows, window and banks. Scratchpad, group space and barriers are kept under the block's own number. -/
structure SavedBlock where
  cluster : Nat
  warps : List (Nat × Warp)
  rows : List (Nat × Map Word × Map RowMeta)
  windows : List (Nat × Nat × Nat)
  banks : List (Nat × Nat × Bank)
  bytes : Nat
deriving DecidableEq, Repr

/-- A granule copied for a waypoint (R435): launch, physical page, its bytes, its shadow, and the poison codes of its sectors
(R431). -/
structure Granule where
  launch : Nat
  page : Nat
  bytes : List Byte
  shadow : List (Nat × Byte)
  poison : List Bool := []
deriving DecidableEq, Repr

/-- A range invalidation under way (R121, R122). -/
structure RangeInv where
  cp : Nat
  queue : Nat
  vf : Nat
  asid : Nat
  stages : BitVec 8
  start : DWord
  len : DWord
  doneVa : DWord
  /-- The entry breaks a limit of R121. -/
  bad : Bool
  /-- Operations that had translated before step 1: memory and engine operation numbers. -/
  pending : List Nat
deriving DecidableEq, Repr

/-! ## Hub, fabric and platform (14, 16, 19, 20) -/

/-- A Yunel Link port (R346, R347, R453, R454). -/
structure Port where
  /-- WIDTH of the link status register: 0 down, 1 two, 2 four, 3 eight lanes. -/
  width : BitVec 2
  crc : Word
  rtrn : BitVec 16
  /-- SEQ of the next flit sent, and the first SEQ not accepted. -/
  txSeq : Word
  rxSeq : Word
  /-- Flits sent and not covered by an ACK, oldest first; at most 512. -/
  retry : List Flit
  /-- Virtual channels in the stop state. -/
  stop : BitVec 8
  /-- Flits that wait to be sent, with the port on which each arrived, 31 for this chip's own. -/
  wait : List (Nat × Flit)
  /-- Resends asked for `rxSeq`. -/
  asked : Nat
  /-- A resend has been asked: flits of other SEQ are not accepted. -/
  gap : Bool
  /-- The time at which the port began to retrain (R453). -/
  retrain : Option Nat
deriving DecidableEq, Repr

/-- A port after reset: down, nothing sent or received. -/
def Port.reset : Port := ⟨0, 0, 0, 0, 0, [], 0, [], 0, false, none⟩

/-- A granted key of a sequencer, or one replicated to the standby (R360, R455, R456). -/
structure Grant where
  msg : ColMsg
  members : List Nat
  reported : List Nat
  /-- The standby has acknowledged it, so the NOTICE is sent. -/
  sent : Bool
  /-- Status decided by the first CANCEL (R458). -/
  status : Option Nat
deriving DecidableEq, Repr

/-- The sequencer of a chip, primary or standby (R360 to R362, R455 to R457). -/
structure Sequencer where
  next : Word
  grants : List Grant
  /-- REQUESTs that wait: for the standby's acknowledgement, for L or for a full agent. -/
  waiting : List (Nat × ColMsg)
  /-- Keys replicated to this chip as the standby. -/
  copies : List ColMsg
  /-- h: the highest milepost replicated. -/
  high : Word
  /-- L as last received by the standby. -/
  oldest : Word
  /-- Time of the last HEARTBEAT received. -/
  beat : Nat
  /-- Took over: grants without replication until a new SEQS is written (R457). -/
  alone : Bool
  /-- Grants whose keys were discarded (R358): a CANCEL still ends them. -/
  lost : List Grant
deriving DecidableEq, Repr

/-- A sequencer after reset. -/
def Sequencer.reset : Sequencer := ⟨0, [], [], [], 0, 0, 0, false, []⟩

/-- A NOTICE held by the milepost agent (R361), and what became of its milepost. -/
structure Notice where
  msg : ColMsg
  /-- Status that a CANCELLED carried before the `col` was issued (R459). -/
  cancelled : Option Nat
deriving DecidableEq, Repr

/-- A `col` that has reached the collective engine (R302, R363). -/
structure Issued where
  op : Nat
  id : Nat
  call : Nat
  entry : Nat
  milepost : Option Word
  /-- The size and the rank of the member, and the chips in rank order. -/
  rank : Nat
  chips : List Nat
  /-- A mismatch, an engine fault or an abort has asked for cancellation. -/
  asked : Bool
  /-- Time since which its part waits for another member (R458). -/
  waits : Option Nat := none
  /-- Its writes of the receive buffer are done, and the other members have been told (R364). -/
  wrote : Bool := false
  /-- The arguments of its REQUEST, which a new primary may ask for again (R456). -/
  args : ColMsg
deriving DecidableEq, Repr

/-- A milepost completed here, with its key and the status reported. -/
structure Reported where
  milepost : Word
  id : Nat
  call : Nat
  status : Nat
deriving DecidableEq, Repr

/-- The fabric side of the hub: identity, routes, links, sequencer, milepost agent and collective engine. -/
structure Fabric where
  fid : Word
  fseq : Word
  frt : Map (BitVec 8)
  ports : Map Port
  comms : Map (BitVec 256)
  colto : Word
  seq : Sequencer
  notices : List Notice
  issued : List Issued
  /-- Mileposts completed here, kept for a takeover (R456). -/
  reports : List Reported
  /-- Messages for this chip not yet handled: source, virtual channel, bytes. -/
  inbox : List (Nat × Nat × List Byte)
deriving DecidableEq, Repr

/-- The fabric after reset (R348, R357, R458). -/
def Fabric.reset : Fabric :=
  ⟨0, 0, [], [], [], 1000000, Sequencer.reset, [], [], [], []⟩

/-- The registers of the hub that are not the fabric's (16, 19, 20). -/
structure Hub where
  /-- The readiness register; its DIE field is the available die mask (R383). -/
  ready : DWord
  parts : Map (BitVec 128)
  funcs : Map (BitVec 256)
  apertures : Map DWord
  pools : Map DWord
  lbase : DWord
  lctl : Word
  lprod : Word
  lcons : Word
  ldrop : Word
  /-- LSEQ of the next record. -/
  lseq : DWord
  dumpBase : DWord
  /-- The launch that the abort register is ending: BUSY (R451). -/
  abort : Option Nat
  evst : Map Word
  evmask : Map Word
  /-- MSI-X table words by function times 32 plus word, a control word with its mask bit inverted; pending bits by function
  (R385). -/
  msix : Map Word
  pba : Map Word
  /-- Energy readings requested and not yet written: function, partition, destination (R379). -/
  energy : List (Nat × Nat × Nat)
  /-- When an energy register is busy: the functions whose request is in progress. -/
  busy : List Nat
  /-- Domains in the viral state, and the time of entry (R446). -/
  viral : Map (Option Nat)
  /-- Viral domains whose state dump is complete (R452). -/
  dumped : List Nat
  /-- Time at which a corrected-error record was last written, by structure times 16 plus domain (R462). -/
  corrected : Map (Option Nat)
  /-- Aperture accesses that wait for HOST (R383), or behind a held write of their line (R428). -/
  held : List ApertureAcc
  /-- Launches whose signal event waits for a port that is not usable yet, with their codes (R328, R383). -/
  late : List (Nat × Nat)
  /-- Host physical addresses of an HDM-DB range with back-invalidation, from the first to before the second, by 4 times the pool
  port plus the decoder (R353). -/
  hdm : Map (Nat × Nat)
deriving DecidableEq, Repr

/-- The hub after reset (R374 to R385, R444). -/
def Hub.reset : Hub :=
  { ready := 0, parts := [], funcs := [], apertures := [], pools := [], lbase := 0, lctl := 0, lprod := 0, lcons := 0,
    ldrop := 0, lseq := 0, dumpBase := 0, abort := none, evst := [], evmask := [], msix := [], pba := [], energy := [],
    busy := [], viral := [], dumped := [], corrected := [], held := [], late := [], hdm := [] }

/-- Clock, energy and security (01, 16). -/
structure Power where
  /-- Arithmetic clock in MHz (R16, R19). -/
  mhz : Nat
  /-- Times since which power has been under 2,700 W, and since which the clock has stood at 1.00 GHz (R19, R21). -/
  cool : Option Nat
  low : Option Nat
  lastStep : Nat
  /-- Energy counters in nJ by partition, and the sequence numbers of readings (R378, R380). -/
  nJ : Map Nat
  seq : Map Nat
  /-- nJ that the shares of a term left over, by term: 0 idle, 1 on the shared units (R378). -/
  rest : Map Nat
  boot : Nat
  /-- The checkpoint in boot flash: counters, SEQ and BOOT (R380). -/
  ckpt : Map Nat × Map Nat × Nat
  /-- Last sample's and last checkpoint's time. -/
  sampled : Nat
  checkpointed : Nat
  /-- Digests of the images and records loaded in this boot, in load order (R382). -/
  loaded : List (List Byte)
  /-- Highest security version recorded in the replay-protected area (R381). -/
  minVersion : Nat
  /-- What the time base has still to lose (true) or to gain against the master's, in ns, and the ns that count towards the
  next step of the slew (R384). -/
  ahead : Bool
  offset : Nat
  slew : Nat
  /-- The chip that the pod's configuration record names as the time master; whether an exchange with it was made (R384). -/
  master : Option Nat
  synced : Bool
  /-- Attestation requests that wait for SEC: nonce and destination (R382, R383). -/
  asks : List (List Byte × Nat)
  /-- The partition that owned a core at the last sample, plus 1 (R378). -/
  owners : Map Nat
deriving DecidableEq, Repr

/-- Power after reset: full clock, nothing counted. -/
def Power.reset : Power :=
  { mhz := 1750, cool := none, low := none, lastStep := 0, nJ := [], seq := [], rest := [], boot := 0, ckpt := ([], [], 0),
    sampled := 0, checkpointed := 0, loaded := [], minVersion := 0, ahead := false, offset := 0, slew := 0,
    master := none, synced := false, asks := [], owners := [] }

/-- What the package has sent out (the model's own record). -/
inductive Msg where
  /-- A flit on a port (R346). -/
  | flit (port : Nat) (f : Flit)
  /-- A request to resend from a SEQ (R347). -/
  | resend (port : Nat) (seq : Word)
  /-- An MSI-X message (R385). -/
  | msix (vf vector : Nat)
  /-- An answer to an aperture access (R350). -/
  | answer (ok : Bool) (data : List Byte)
  /-- A value returned by a read of a hub register (R4). -/
  | hubRead (vf off : Nat) (val : DWord)
  /-- A back-invalidation response (R354). -/
  | birsp (pa : Nat)
  /-- Boot flash written (R380). -/
  | checkpoint
  /-- A time exchange answered (R384). -/
  | timeReply
deriving DecidableEq, Repr

/-- Which agent moves next, and with what: the model's own schedule. -/
inductive Turn where
  /-- A row of the table that no word stands for: a message, an error, an event of a unit. -/
  | event (i : Instr)
  /-- The warp of this slot issues. -/
  | issue (slot : Nat)
  /-- The same, and of a 128-bit access whose two halves have no order one goes before the other: 1 the lower, 2 the upper (R137). -/
  | issueTorn (slot half : Nat)
  /-- A peer answers a lane of an operation, or a transfer, with an error (R350). -/
  | peerError (op part : Nat)
  /-- Time passes, in ns. -/
  | tick (ns : Nat)
  /-- An L1, instruction-cache or home line leaves its cache; a walk result is dropped (R107, R111, R122). -/
  | evictL1 (key : Nat)
  | evictI (key : Nat)
  | evictHome (key : Nat)
  | dropWalk (index : Nat)
  /-- The front end of a warp fetches a fetch line ahead (R251). -/
  | prefetch (slot : Nat) (va : Nat)
  /-- An agent outside writes memory: physical address and bytes. -/
  | outside (pa : Nat) (bytes : List Byte)
  /-- A soft error inverts bits of a register lane of a warp (R405). -/
  | upset (slot key : Nat) (bits : Word)
  /-- A hub register is read through the window of a function (R377). -/
  | read (vf off : Nat)
deriving DecidableEq, Repr

/-! ## The machine -/

/-- The state of the package. -/
structure State where
  warps : Map Warp
  blocks : Map Block
  clusters : Map Cluster
  launches : List (Nat × Launch)
  queues : Map Queue
  cores : Map Core
  /-- xacq requests that wait, by quadrant: slot, lanes, count (R313). -/
  xq : Map (List (Nat × Mask × Nat))
  /-- Scratchpad bytes and the side array; group-space bytes (R99, R102). -/
  scratch : Map Byte
  side : Map (Bnd × Bool)
  gspace : Map Byte
  /-- Physical memory, and the poison codes of its sectors (R119, R431). -/
  mem : List Host.Cell
  poison : Map Bool
  l1 : Map (Option CLine)
  icache : Map (Option CLine)
  home : Map (Option HLine)
  tlb : List TlbEntry
  /-- Promotion marks of lines in hub host ranges, which their slice does not hold (R146, R345). -/
  portMarks : Map (Option Nat)
  /-- Faults that wait for a page-request group (R420). -/
  htu : List HtuWait
  /-- Placement tables loaded, by function and ASID: the table's VA, then 512 doublewords (R112). -/
  plts : Map (List DWord)
  ops : List (Nat × MemOp)
  engs : List (Nat × EngOp)
  mats : List (Nat × MatOp)
  promos : List (Nat × Promotion)
  groups : List PageGroup
  pqs : Map PageQueue
  granules : List Granule
  saved : List (Nat × SavedBlock)
  invs : List RangeInv
  hub : Hub
  fab : Fabric
  power : Power
  /-- `%time` and every timestamp, in ns (R72, R384). -/
  time : Nat
  /-- Bytes moved since the last energy sample, by 32 times a partition plus a unit: 0 to 15 the HBM4 controllers, 16 to 19 a pool
  port, 20 the host port, 21 Yunel Link, 22 the bridges of the Causeway, 23 the hub (R378). -/
  traffic : Map Nat
  /-- Last served function of a partition and the start of its slice (R376). -/
  slices : Map (Nat × Nat)
  outbox : List Msg
  turns : List Turn
  /-- The slot of the warp that issues. -/
  cur : Nat
  /-- The half of a 128-bit access that goes before the other, of the instruction that issues: 0 none (R137). -/
  torn : Nat
  /-- Numbers operations, warps, blocks, clusters and launches. -/
  nextId : Nat
  /-- Numbers ages and stamps (R32, R336). -/
  stamp : Nat
  /-- Cycles of the arithmetic clock, in thousandths (R19, R337). -/
  cycle : Nat
  /-- The cycle of a quadrant's last swap, plus 1 (R337). -/
  swaps : Map Nat
deriving DecidableEq, Repr

/-- The package right after reset: the values the manual states, and for the rest those that logs 2 and 3 name. -/
def State.reset : State :=
  { warps := [], blocks := [], clusters := [], launches := [], queues := [], cores := [], xq := [], scratch := [], side := [],
    gspace := [], mem := [], poison := [], l1 := [], icache := [], home := [], tlb := [], portMarks := [], htu := [], plts := [], ops := [], engs := [],
    mats := [], promos := [], groups := [], pqs := [], granules := [], saved := [], invs := [], hub := Hub.reset,
    fab := Fabric.reset, power := Power.reset, time := 0, traffic := [], slices := [], outbox := [], turns := [], cur := 0, torn := 0, nextId := 1,
    stamp := 0, cycle := 0, swaps := [] }

/-- The canonical form of memory: addresses strictly rising, and no byte listed that reads as 0. -/
def Memory.wf (m : List Host.Cell) : Bool := Map.wf m 0

/-- Why the machine stops: it never does. Every condition the manual names is a trap, a status or a code, which are
next states; no meaning raises a fault. -/
inductive Fault where
deriving DecidableEq, Repr

/-- Why a meaning is missing. -/
inductive Refusal where
  /-- Raised by `exec` for a row that has no meaning yet; safe. -/
  | notModelled (mnemonic : String)
deriving DecidableEq, Repr

end Sys2Proof.Machine
end

