-- ==== Sys2Proof/Machine/Basic.lean ====
section
/-! DEFINITION. Bytes, lane masks, and the accessors of the state: every read and write of a register, of a thread and
of physical memory goes through here. -/

namespace Sys2Proof.Machine

/-- What every meaning answers. -/
abbrev Out := Host.Outcome State Fault Refusal

/-- The state of an answer, and the state before where there is none. -/
def Out.or (o : Out) (s : State) : State := match o with
  | .next t => t
  | _ => s

/-! ## Bytes and lanes -/

/-- The `n` low bytes of `v`, low byte first (R1). -/
def bytesOf : Nat → Nat → List Byte
  | 0, _ => []
  | n + 1, v => BitVec.ofNat 8 v :: bytesOf n (v / 256)

/-- The number whose bytes are listed, low byte first (R1). -/
def natOf : List Byte → Nat
  | [] => 0
  | b :: t => b.toNat + 256 * natOf t

/-- The words of a list of bytes, low word first. -/
def wordsOf (n : Nat) (bs : List Byte) : List Word := (List.range n).map fun i => BitVec.ofNat 32 (natOf ((bs.drop (4 * i)).take 4))

/-- The bytes of a list of words, low byte first. -/
def wordBytes (ws : List Word) : List Byte := ws.flatMap fun w => bytesOf 4 w.toNat

/-- A list with the elements from position `i` on replaced by `xs`. -/
def splice {α : Type} (l : List α) (i : Nat) (xs : List α) : List α := l.take i ++ xs ++ l.drop (i + xs.length)

/-- The mask of the lanes for which `p` holds. -/
def maskOf (p : Nat → Bool) : Mask := BitVec.ofNat 32 ((List.range 32).foldr (fun l n => if p l then n + 2 ^ l else n) 0)

/-- The lanes of a mask, in ascending order. -/
def lanesOf (m : Mask) : List Nat := (List.range 32).filter fun l => m.getLsbD l

/-- How many lanes a mask holds. -/
def countOf (m : Mask) : Nat := (lanesOf m).length

/-- The lowest lane of a mask, or 0. -/
def lowest (m : Mask) : Nat := (lanesOf m).headD 0

/-- Bit `i` as a number. -/
def b2n (b : Bool) : Nat := if b then 1 else 0

/-- Bits [hi:lo] of a number. -/
def bitsOf (v hi lo : Nat) : Nat := v / 2 ^ lo % 2 ^ (hi + 1 - lo)

/-! ## Warps and threads -/

/-- The warp in a slot. -/
def State.warp (s : State) (k : Nat) : Warp := Map.get s.warps Warp.empty k

/-- The state with slot `k` holding `w`. -/
def State.setWarp (s : State) (k : Nat) (w : Warp) : State := { s with warps := Map.set s.warps Warp.empty k w }

/-- The state with the warp of slot `k` changed by `f`. -/
def State.updWarp (s : State) (k : Nat) (f : Warp → Warp) : State := s.setWarp k (f (s.warp k))

/-- The warp that issues. -/
def State.cw (s : State) : Warp := s.warp s.cur

/-- The state with the issuing warp changed by `f`. -/
def State.updCw (s : State) (f : Warp → Warp) : State := s.updWarp s.cur f

/-- Core number of a slot key (R8): 64 slots a core. -/
def coreOf (slot : Nat) : Nat := slot / 64

/-- Domain of a core (R8). -/
def domainOf (core : Nat) : Nat := core / 48

/-- Package quadrant number of a slot key. -/
def quadOf (slot : Nat) : Nat := slot / 16

def State.core (s : State) (c : Nat) : Core := Map.get s.cores Core.reset c
def State.updCore (s : State) (c : Nat) (f : Core → Core) : State := { s with cores := Map.upd s.cores Core.reset c f }
def State.block (s : State) (b : Nat) : Block := Map.get s.blocks Block.none b
def State.updBlock (s : State) (b : Nat) (f : Block → Block) : State := { s with blocks := Map.upd s.blocks Block.none b f }
def State.cluster (s : State) (c : Nat) : Cluster := Map.get s.clusters Cluster.none c
def State.updCluster (s : State) (c : Nat) (f : Cluster → Cluster) : State :=
  { s with clusters := Map.upd s.clusters Cluster.none c f }
def State.launch? (s : State) (l : Nat) : Option Launch := Map.find? s.launches l
def State.setLaunch (s : State) (l : Nat) (x : Launch) : State := { s with launches := Map.put s.launches l x }
def State.updLaunch (s : State) (l : Nat) (f : Launch → Launch) : State :=
  match s.launch? l with
  | some x => s.setLaunch l (f x)
  | none => s
def State.op? (s : State) (o : Nat) : Option MemOp := Map.find? s.ops o
def State.setOp (s : State) (o : Nat) (x : MemOp) : State := { s with ops := Map.put s.ops o x }
def State.dropOp (s : State) (o : Nat) : State := { s with ops := Map.erase s.ops o }
def State.eng? (s : State) (o : Nat) : Option EngOp := Map.find? s.engs o
def State.setEng (s : State) (o : Nat) (x : EngOp) : State := { s with engs := Map.put s.engs o x }
def State.dropEng (s : State) (o : Nat) : State := { s with engs := Map.erase s.engs o }
def State.mat? (s : State) (o : Nat) : Option MatOp := Map.find? s.mats o
def State.dropMat (s : State) (o : Nat) : State := { s with mats := Map.erase s.mats o }

/-- Thread of a lane. -/
def Warp.thr (w : Warp) (l : Nat) : Thread := Map.get w.threads Thread.idle l

/-- The warp with the thread of lane `l` replaced. -/
def Warp.setThr (w : Warp) (l : Nat) (t : Thread) : Warp := { w with threads := Map.set w.threads Thread.idle l t }

/-- The warp with the threads of the lanes of `m` changed by `f`. -/
def Warp.updThrs (w : Warp) (m : Mask) (f : Nat → Thread → Thread) : Warp :=
  (lanesOf m).foldl (fun w l => w.setThr l (f l (w.thr l))) w

/-- Lanes whose thread satisfies `p`. -/
def Warp.lanes (w : Warp) (p : Thread → Bool) : Mask := maskOf fun l => p (w.thr l)

/-- Threads that have not exited: the live threads (R240). -/
def Warp.alive (w : Warp) : Mask := w.lanes fun t => t.st != .exited

/-- In trap mode only the trapped threads may issue; otherwise the running ones (R30, R34). While a trap is entered or
left, none may. -/
def Warp.mayIssue (w : Warp) (t : Thread) : Bool :=
  match w.trap with
  | none => t.st == .running
  | some (_, .handling) => t.st == .trapped
  | some _ => false

/-- Whether the warp is in trap mode (R388). -/
def Warp.inTrap (w : Warp) : Bool :=
  match w.trap with
  | some (_, .handling) => true
  | some (_, .leaving _ _) => true
  | _ => false

/-- Two threads stand in one PC group: equal PCs (R31). Threads that replay an instruction stand apart, those of one answer
together (R424). -/
def sameGroup (a b : Thread) : Bool :=
  a.pc == b.pc && a.cl == b.cl && a.replay.isSome == b.replay.isSome && (a.replay.isNone || a.age == b.age)

/-- The PC group of lane `l`. -/
def Warp.groupOf (w : Warp) (l : Nat) : Mask :=
  maskOf fun j => w.mayIssue (w.thr j) && sameGroup (w.thr j) (w.thr l)

/-- The lanes that may issue. -/
def Warp.issuers (w : Warp) : Mask := w.lanes w.mayIssue

/-- The lane of lowest age among those listed, the lower lane on a tie. -/
def Warp.eldest (w : Warp) : List Nat → Option Nat
  | [] => none
  | l :: t =>
    match w.eldest t with
    | none => some l
    | some j => if (w.thr l).age ≤ (w.thr j).age then some l else some j

/-- The group in turn stands whole and may go on (R33). A group that another one has joined at a header is a new one: its turn and its
count begin again (log 74, DESIGN CHOICE). -/
def Warp.turnStands (w : Warp) : Bool :=
  w.turnMask != 0 && w.groupOf (lowest w.turnMask) == w.turnMask

/-- Another group of the warp is ready beside the group in turn: some thread outside it runs, whatever wait its clause may name (log 74,
DESIGN CHOICE). -/
def Warp.othersReady (w : Warp) : Bool := (w.issuers &&& ~~~w.turnMask) != 0

/-- The PC group that the warp selects at a clause boundary (R33): the group in turn, or the oldest. -/
def Warp.select (w : Warp) : Mask :=
  if w.turnStands then w.turnMask
  else match w.eldest (lanesOf w.issuers) with
    | none => 0
    | some l => w.groupOf l

/-- The turn of the group has reached its limit of 16 clauses (R33). -/
def Warp.atLimit (w : Warp) : Bool := w.turnStands && 16 ≤ w.turn && w.othersReady

/-- The lane that stands for the issuing group. -/
def Warp.lead (w : Warp) : Nat := lowest w.issue

/-- PC and clause of the issuing group. -/
def Warp.pc (w : Warp) : DWord := (w.thr w.lead).pc
def Warp.clause (w : Warp) : Option Clause := (w.thr w.lead).cl

/-- Position of an address among the words of a clause: none outside them. -/
def Clause.index (c : Clause) (pc : DWord) : Option Nat :=
  let d := (pc - c.hdr).toNat
  if 4 ≤ d ∧ d % 4 = 0 ∧ d / 4 - 1 < c.words.length then some (d / 4 - 1) else none

/-- The address after the clause: the next header in address order (R157). -/
def Clause.stop (c : Clause) : DWord := c.hdr + BitVec.ofNat 64 (4 * (c.words.length + 1))

/-- The word at an address of the clause, 0 outside it. -/
def Clause.word (c : Clause) (pc : DWord) : Word := match c.index pc with | some i => c.words.getD i 0 | none => 0

/-! ## Registers of the issuing warp -/

/-- Key of a vector register lane. -/
def vkey (r l : Nat) : Nat := r * 32 + l

def Warp.v (w : Warp) (r l : Nat) : LV := Map.get w.vregs LV.zero (vkey r l)
def Warp.setV (w : Warp) (r l : Nat) (x : LV) : Warp := { w with vregs := Map.set w.vregs LV.zero (vkey r l) x }
def Warp.s (w : Warp) (r : Nat) : Word := Map.get w.sregs 0 r
def Warp.setS (w : Warp) (r : Nat) (x : Word) : Warp := { w with sregs := Map.set w.sregs 0 r x }

/-- The scalar pair at an even register (R63). -/
def Warp.s64 (w : Warp) (r : Nat) : DWord := w.s (r + 1) ++ w.s r
def Warp.setS64 (w : Warp) (r : Nat) (x : DWord) : Warp := (w.setS r (x.setWidth 32)).setS (r + 1) (BitVec.ofNat 32 (x.toNat / 2 ^ 32))

/-- A mask register; k0 reads as the issue mask (R38). -/
def Warp.k (w : Warp) (r : Nat) : Mask := if r = 0 then w.issue else Map.get w.kregs 0 r
def Warp.setK (w : Warp) (r : Nat) (m : Mask) : Warp := { w with kregs := Map.set w.kregs 0 r m }

/-- A dependency counter (R66). -/
def Warp.d (w : Warp) (i : Nat) : Nat := Map.get w.ctr 0 i

/-- Counter `dc` one higher; 7 names none (R66). -/
def Warp.inc (w : Warp) (dc : BitVec 3) : Warp :=
  if dc.toNat < 6 then { w with ctr := Map.upd w.ctr 0 dc.toNat (· + 1) } else w

/-- Counter `dc` one lower, never below zero (R66). -/
def Warp.dec (w : Warp) (dc : BitVec 3) : Warp :=
  if dc.toNat < 6 then { w with ctr := Map.upd w.ctr 0 dc.toNat (· - 1) } else w

/-- The participating threads of an instruction with a predicate: issue mask and predicate (R43, R164). -/
def Warp.predMask (w : Warp) (p : Pred) : Mask :=
  if p.k = 0 then w.issue else w.issue &&& (if p.neg then ~~~w.k p.k.toNat else w.k p.k.toNat)

/-- The effective lanes of an instruction without and with a predicate (R42). -/
def Warp.eff (w : Warp) : Mask := w.issue &&& w.exm
def Warp.effP (w : Warp) (p : Pred) : Mask := w.predMask p &&& w.exm

/-! ## Physical memory (R119, R345) -/

/-- The byte at a physical address. -/
def State.peek (s : State) (pa : Nat) : Byte := Map.get s.mem 0 pa

/-- The state with one byte of physical memory written. -/
def State.poke (s : State) (pa : Nat) (b : Byte) : State := { s with mem := Map.set s.mem 0 pa b }

/-- `n` bytes from a physical address on. -/
def State.peeks (s : State) (pa n : Nat) : List Byte := (List.range n).map fun i => s.peek (pa + i)

/-- Bytes written to consecutive physical addresses. -/
def State.pokes (s : State) (pa : Nat) : List Byte → State
  | [] => s
  | b :: t => (s.poke pa b).pokes (pa + 1) t

/-- The kinds of a physical address: bytes of a domain's HBM4, a range of the hub, or absent (R119, R345). -/
inductive PaKind where
  | hbm (domain : Nat)
  | host | pool | peer
  | absent
deriving DecidableEq, Repr

/-- What a physical address names (R119, R345). -/
def paKind (pa : Nat) : PaKind :=
  if 2 ^ 52 ≤ pa then .absent
  else if bitsOf pa 51 51 = 0 then
    if bitsOf pa 50 40 = 0 ∧ bitsOf pa 36 0 < 96 * 2 ^ 30 then .hbm (bitsOf pa 39 37) else .absent
  else if bitsOf pa 48 48 = 1 then .absent
  else match bitsOf pa 50 49 with
    | 0 => .host
    | 1 => .pool
    | 2 => .peer
    | _ => .absent

/-- Pool port of a pool-range address (R345). -/
def poolPort (pa : Nat) : Nat := bitsOf pa 47 46

/-- The HDM decoder whose range holds a pool-range address (R353, R439); 4 when none does. -/
def State.poolDecoder (s : State) (pa : Nat) : Nat :=
  ((List.range 4).find? fun d =>
    let r := Map.get s.hub.hdm (0, 0) (4 * poolPort pa + d)
    r.1 ≤ bitsOf pa 45 0 && bitsOf pa 45 0 < r.2).getD 4

/-- Whether a physical address is absent (R119, R345): a pool-range address is, outside every range that the port uses (R353). -/
def State.absent (s : State) (pa : Nat) : Bool :=
  paKind pa == .absent || paKind pa == .pool && s.poolDecoder pa == 4

/-- A home is in the viral state (R446). -/
def State.viral (s : State) (unit : Nat) : Bool := (Map.get s.hub.viral none unit).isSome

/-- Whether an address lies in the HBM4 of a viral domain (R446). -/
def State.viralPa (s : State) (pa : Nat) : Bool := match paKind pa with
  | .hbm d => s.viral d
  | _ => false

/-- Whether a pool-range address lies in a lost decoder range (R439, R440). -/
def State.poolLost (s : State) (pa : Nat) : Bool :=
  paKind pa == .pool && s.poolDecoder pa != 4 && ((Map.get s.hub.pools 0 (poolPort pa)).toNat).testBit (8 + s.poolDecoder pa)

/-- Memory that answers no access of the hub: absent, in the HBM4 of a viral domain, or in a lost pool range (R119, R440, R446). -/
def State.dead (s : State) (pa : Nat) : Bool := s.absent pa || s.viralPa pa || s.poolLost pa

/-- Bytes written by the hub at a physical address; memory that does not answer takes none. -/
def State.hubPokes (s : State) (pa : Nat) (bs : List Byte) : State := if s.dead pa then s else s.pokes pa bs

/-! ## Partitions and the bytes that they move (R374, R375, R378) -/

/-- The function entry of a function, its partition, and a partition's entry. -/
def State.func (s : State) (vf : Nat) : Nat := (Map.get s.hub.funcs 0 vf).toNat
def State.partOf (s : State) (vf : Nat) : Nat := bitsOf (s.func vf) 29 27
def State.part (s : State) (i : Nat) : Nat := (Map.get s.hub.parts 0 i).toNat

/-- The unit that an access to a physical address goes through: an HBM4 controller, two to a domain, of which the second holds the upper
48 GiB (R9; log 82, DESIGN CHOICE), a pool port (16 to 19), the host port (20) or Yunel Link (21). Unit 22 stands for the bridges of the
Causeway, 23 for the hub. -/
def unitOf (pa : Nat) : Nat := match paKind pa with
  | .hbm d => 2 * d + b2n (48 * 2 ^ 30 ≤ bitsOf pa 36 0)
  | .pool => 16 + poolPort pa
  | .host => 20
  | .peer => 21
  | .absent => 31

/-- The route to a chip leads to a port that is up (R348, R454). -/
def State.linked (s : State) (chip : Nat) : Bool :=
  let p := (Map.get s.fab.frt 0x1F chip).toNat
  p < 18 && (Map.get s.fab.ports Port.reset p).width != 0

/-- A peer-range address of a chip that no link reaches: a request to it is not answered (R345, R454). -/
def State.peerLost (s : State) (pa : Nat) : Bool := paKind pa == .peer && !s.linked (bitsOf pa 47 36)

/-- An address behind a pool port or the host port while its bit of the readiness register is clear: a request to it is held (R383). -/
def State.portClosed (s : State) (pa : Nat) : Bool := match paKind pa with
  | .pool => !s.hub.ready.getLsbD (36 + poolPort pa)
  | .host => !s.hub.ready.getLsbD 3
  | _ => false

/-- A request to an address is not answered for now. -/
def State.away (s : State) (pa : Nat) : Bool := s.peerLost pa || s.portClosed pa

/-- A function has moved `n` bytes through a unit, and through the hub where that is a port of the hub (R378). -/
def State.moved (s : State) (vf unit n : Nat) : State :=
  let k := 32 * s.partOf vf
  let t := Map.upd s.traffic 0 (k + unit) (· + n)
  { s with traffic := if 16 ≤ unit && unit ≤ 21 then Map.upd t 0 (k + 23) (· + n) else t }

/-- A function's access from domain `dom` to a home, 8 the hub, goes over the bridges of the Causeway where that is elsewhere (R13,
R378). -/
def State.bridged (s : State) (vf dom home n : Nat) : State := if home = dom then s else s.moved vf 22 n

/-- `n` bytes of a line at home `unit`: on their way from domain `dom`, and through the hub where the pool cache holds it (R13, R378). -/
def State.served (s : State) (vf dom unit n : Nat) : State :=
  let s := s.bridged vf dom unit n
  if unit = 8 then s.moved vf 23 n else s

/-- The domain whose HBM4 a physical address names, or the hub, 8. -/
def domOfPa (pa : Nat) : Nat := match paKind pa with
  | .hbm d => d
  | _ => 8

/-! ## Numbers of operations, ages and time -/

/-- A fresh number. -/
def State.fresh (s : State) : Nat × State := (s.nextId, { s with nextId := s.nextId + 1 })

/-- The next age or stamp. -/
def State.bump (s : State) : State := { s with stamp := s.stamp + 1 }

/-- A message leaves the package. -/
def State.send (s : State) (m : Msg) : State := { s with outbox := s.outbox ++ [m] }

/-! ## The special values of a slot -/

/-- Key of a scratchpad byte, of the side array's sector and of a group-space byte: block or cluster number, then core of
the block, then offset (R25, R102). -/
def spKey (block j off : Nat) : Nat := (block * 4 + j) * 2 ^ 19 + off
def sideKey (block j off : Nat) : Nat := (block * 4 + j) * 2 ^ 14 + off / 32
def gsKey (cluster off : Nat) : Nat := cluster * 2 ^ 16 + off

/-- Which core of its block a warp stands on (R24). -/
def State.coreInBlock (s : State) (w : Warp) : Nat := w.index % 128 % (s.block w.block).cores.length

end Sys2Proof.Machine
end

