-- ==== Sys2Proof/Machine/Log.lean ====
section
/-! DEFINITION. The hub's event log (R444, R445, R462) and the host event registers with their MSI-X messages (R385). -/

namespace Sys2Proof.Machine

/-! ## Host events (R385) -/

/-- The host event register of a function, and its mask. -/
def State.evst (s : State) (vf : Nat) : Word := Map.get s.hub.evst 0 vf
def State.evmask (s : State) (vf : Nat) : Word := Map.get s.hub.evmask 0x7F vf
def State.updHub (s : State) (f : Hub → Hub) : State := { s with hub := f s.hub }

/-- What a word of an MSI-X table holds at reset: a vector control word its mask bit, which PCIe resets to 1. -/
def msixReset (i : Nat) : Word := if i % 4 = 3 then 1 else 0

/-- A word of a function's MSI-X table, four for each vector. -/
def State.msixWord (s : State) (vf i : Nat) : Word := Map.get s.hub.msix 0 (vf * 32 + i) ^^^ msixReset i
def State.setMsixWord (s : State) (vf i : Nat) (w : Word) : State :=
  s.updHub fun h => { h with msix := Map.set h.msix 0 (vf * 32 + i) (w ^^^ msixReset i) }

/-- Vector control word of an MSI-X vector; bit 0 masks it. -/
def State.msixCtl (s : State) (vf vec : Nat) : Word := s.msixWord vf (4 * vec + 3)

/-- One MSI-X message on a vector, or its pending bit where the vector is masked (R385). -/
def State.msix (s : State) (vf vec : Nat) : State :=
  if (s.msixCtl vf vec).getLsbD 0 then s.updHub fun h => { h with pba := Map.upd h.pba 0 vf (· ||| (1#32 <<< vec)) }
  else s.send (.msix vf vec)

/-- An event bit sets: a change from 0 to 1 with its mask bit clear sends one message (R385). -/
def State.raiseEvent (s : State) (vf bit : Nat) : State :=
  if (s.evst vf).getLsbD bit then s
  else
    let s := s.updHub fun h => { h with evst := Map.set h.evst 0 vf (s.evst vf ||| (1#32 <<< bit)) }
    if (s.evmask vf).getLsbD bit then s else s.msix vf bit

/-- The page-request queue of a function and stage, 1 or 2 (R420). -/
def State.pq (s : State) (vf stage : Nat) : PageQueue := Map.get s.pqs PageQueue.reset (vf * 2 + stage - 1)
def State.setPq (s : State) (vf stage : Nat) (q : PageQueue) : State :=
  { s with pqs := Map.set s.pqs PageQueue.reset (vf * 2 + stage - 1) q }

/-- Whether the condition of a ring event holds: PRQ1 (2), PRQ2 (3), ELOG (4) (R385). -/
def State.eventHolds (s : State) (vf bit : Nat) : Bool :=
  if bit = 2 then (s.pq vf 1).prod != (s.pq vf 1).cons
  else if bit = 3 then vf = 0 && (List.range 64).any fun f => (s.pq f 2).prod != (s.pq f 2).cons
  else if bit = 4 then vf = 0 && s.hub.lprod != s.hub.lcons
  else false

/-! ## The event log -/

/-- The 40 DATA bytes of a record from byte offsets 24 to 63 and their values: offset, length, value. -/
def recData (fs : List (Nat × Nat × Nat)) : List Byte :=
  fs.foldl (fun d f => splice d (f.1 - 24) (bytesOf f.2.1 f.2.2)) (List.replicate 40 0)

/-- The 64 bytes of a record (R445). -/
def recordBytes (s : State) (type src time : Nat) (data : List Byte) : List Byte :=
  bytesOf 2 type ++ bytesOf 2 src ++ bytesOf 4 s.power.boot ++ bytesOf 8 time ++ bytesOf 8 s.hub.lseq.toNat ++ data

/-- Slots of the log, and whether `n` more records fit (R444). -/
def State.logRoom (s : State) (n : Nat) : Bool :=
  s.hub.lctl.getLsbD 15 && (s.hub.lprod - s.hub.lcons).toNat + n ≤ 2 ^ (s.hub.lctl.toNat % 32)

/-- One record, written or dropped as `keep` says; it takes the next LSEQ either way (R444, R445). -/
def State.logOne (s : State) (keep : Bool) (type src time : Nat) (data : List Byte) : State :=
  if keep then
    let at_ := bitsOf s.hub.lbase.toNat 51 12 * 4096 + 64 * (s.hub.lprod.toNat % 2 ^ (s.hub.lctl.toNat % 32))
    let s := s.hubPokes at_ (recordBytes s type src time data)
    s.updHub fun h => { h with lprod := h.lprod + 1, lseq := h.lseq + 1 }
  else s.updHub fun h => { h with ldrop := h.ldrop ||| (1#32 <<< (type / 256)), lseq := h.lseq + 1 }

/-- A group of records with consecutive LSEQ: all written or all dropped (R462). ELOG rises with them (R385). -/
def State.logGroup (s : State) (time : Nat) (rs : List (Nat × Nat × List Byte)) : State :=
  let keep := s.logRoom rs.length
  let s := rs.foldl (fun s r => s.logOne keep r.1 r.2.1 time r.2.2) s
  if keep then s.raiseEvent 0 4 else s

/-- One record of the table of R462, at the present time. -/
def State.log (s : State) (type src : Nat) (fs : List (Nat × Nat × Nat)) : State :=
  s.logGroup s.time [(type, src, recData fs)]

/-- SRC of a core, of a domain and of the hub (R445): the unit index of a core is its number in its domain. -/
def srcCore (core : Nat) : Nat := domainOf core + 16 * (core % 48)
def srcHub : Nat := 8

/-- A launch tag (R462): ASID, command processor, queue, slot index. -/
def launchTag (l : Launch) : List (Nat × Nat × Nat) :=
  [(24, 2, l.asid), (26, 1, l.queue / 64), (27, 1, l.queue % 64), (28, 2, l.slotIdx.toNat)]

end Sys2Proof.Machine
end

