-- ==== Sys2Proof/Machine/Place.lean ====
section
/-! DEFINITION. Where a global line lives and how it is reached: the placement table (R112 to R116), the two-stage walk
(R117 to R119, R375), lines at their homes (R110, R111, R354) and in L1 and the instruction caches (R107 to R109), with
their sector bounds and poison (R97 to R99, R431, R432). -/

namespace Sys2Proof.Machine

/-! ## The placement table -/

/-- Placement modes (R113). -/
inductive Mode where
  | interleave | pinned | replica | pool
deriving DecidableEq, Repr

/-- A valid entry of a placement table (R113). -/
structure Region where
  base : Nat
  sizeLog : Nat
  mode : Mode
  granLog : Nat
  hdie : Nat
  dset : Nat
  shv : Bool
  shoff : Nat
deriving DecidableEq, Repr

/-- The fields of an entry from its two doublewords; none when VALID is clear (R113). -/
def regionOf (lo hi : DWord) : Option Region :=
  let l := lo.toNat; let h := hi.toNat
  if bitsOf l 63 63 = 0 then none
  else some
    { base := bitsOf l 25 0 * 2 ^ 26, sizeLog := bitsOf l 47 42,
      mode := match bitsOf l 62 61 with | 0 => .interleave | 1 => .pinned | 2 => .replica | _ => .pool,
      granLog := match bitsOf l 60 59 with | 0 => 12 | 1 => 16 | _ => 21,
      hdie := bitsOf l 58 56, dset := bitsOf l 55 48, shv := bitsOf h 63 63 = 1, shoff := bitsOf h 51 0 }

/-- The regions of a table given as its doublewords. -/
def regionsOf : List DWord → List Region
  | lo :: hi :: t => match regionOf lo hi with
    | some r => r :: regionsOf t
    | none => regionsOf t
  | _ => []

/-- Key of an address space: function and ASID. -/
def spaceKey (vf asid : Nat) : Nat := vf * 65536 + asid

/-- The placement table loaded for an address space, without the VA it was loaded from (R112). -/
def State.plt (s : State) (vf asid : Nat) : List DWord := (Map.get s.plts [] (spaceKey vf asid)).drop 1

/-- The region that holds an address (R114). -/
def State.region (s : State) (vf asid va : Nat) : Option Region :=
  (regionsOf (s.plt vf asid)).find? fun r => r.base ≤ va && va < r.base + 2 ^ r.sizeLog

/-- The domains of a die set, ascending. -/
def domainsOf (m : Nat) : List Nat := (List.range 8).filter fun i => m.testBit i

/-- The available die mask (R7, R383). -/
def State.dies (s : State) : Nat := bitsOf s.hub.ready.toNat 31 24

/-- Whether an entry breaks R113: checked on the raw doublewords. An entry with VALID clear is not checked (log 72, DESIGN CHOICE). -/
def entryBad (dies : Nat) (lo hi : DWord) : Bool :=
  let l := lo.toNat; let h := hi.toNat
  if bitsOf l 63 63 = 0 then false
  else
    let mode := bitsOf l 62 61; let size := bitsOf l 47 42; let dset := bitsOf l 55 48; let hdie := bitsOf l 58 56
    bitsOf l 41 26 != 0 || bitsOf h 62 52 != 0 || size < 26 || 52 < size || bitsOf l 25 0 % 2 ^ (size - 26) != 0
      || ((mode == 0 || mode == 2) && (dset == 0 || (dset &&& dies) != dset || hdie != 0))
      || (mode == 1 && (dset != 0 || !dies.testBit hdie))
      || bitsOf l 60 59 == 3
      || (mode == 3 && (dset != 0 || bitsOf l 60 59 != 0 || hdie != 0))
      || (bitsOf h 63 63 == 1 && bitsOf h 11 0 != 0)

/-- Two regions overlap. -/
def Region.overlaps (a b : Region) : Bool := a.base < b.base + 2 ^ b.sizeLog && b.base < a.base + 2 ^ a.sizeLog

/-- Whether some pair of a list of regions overlaps (R113). -/
def overlapping : List Region → Bool
  | [] => false
  | r :: t => t.any r.overlaps || overlapping t

/-- Whether some entry of a table is bad. -/
def entriesBad (dies : Nat) : List DWord → Bool
  | lo :: hi :: t => entryBad dies lo hi || entriesBad dies t
  | _ => false

/-- Whether the load of a table is rejected (R113). -/
def tableBad (dies : Nat) (t : List DWord) : Bool := entriesBad dies t || overlapping (regionsOf t)

/-- Home of an address in its region: a domain 0 to 7, or 8 for the hub pool cache (R110, R114). `dom` is the issuing
core's domain and `hint` the home-die hint field, valid with bit 3 set. -/
def Region.home (r : Region) (va dom : Nat) (hint : BitVec 4) : Nat :=
  match r.mode with
  | .interleave =>
    let ds := domainsOf r.dset
    ds.getD ((va - r.base) / 2 ^ r.granLog % ds.length) 0
  | .pinned => r.hdie
  | .replica =>
    if hint.getLsbD 3 && r.dset.testBit (hint.toNat % 8) then hint.toNat % 8
    else (((List.range 8).map fun i => (dom + i) % 8).find? fun d => r.dset.testBit d).getD 0
  | .pool => 8

/-- The slice of an address within its home domain (R114). -/
def sliceNo (va : Nat) : Nat := Nat.xor (bitsOf va 11 7) (bitsOf va 16 12)

/-- The package slice number of a home (R114); 256 is the hub pool cache. -/
def packageSlice (unit va : Nat) : Nat := if unit = 8 then 256 else 32 * unit + sliceNo va

/-- VA of the bound-shadow halfword of an address (R97); past the end of the address range it wraps (log 72, DESIGN CHOICE). -/
def Region.shadow (r : Region) (va : Nat) : Nat := (r.shoff + (va - r.base) / 32 * 2) % 2 ^ 52

/-- Key of a line: home or core, function, ASID and VA of the line. -/
def lineKey (unit vf asid va : Nat) : Nat := ((unit * 64 + vf) * 65536 + asid) * 2 ^ 45 + va / 128

/-- The home of a line key, its function, ASID and line VA. -/
def keyUnit (k : Nat) : Nat := k / 2 ^ 45 / 65536 / 64
def keyVf (k : Nat) : Nat := k / 2 ^ 45 / 65536 % 64
def keyAsid (k : Nat) : Nat := k / 2 ^ 45 % 65536
def keyVa (k : Nat) : Nat := k % 2 ^ 45 * 128

/-- The package slice of a home line's key (R114). -/
def keySlice (k : Nat) : Nat := packageSlice (keyUnit k) (keyVa k)

/-! ## Translation (R117 to R119, R375) -/

/-- Why a walk failed: stage, LEVEL and CAUSE of R421, the failing guest physical address, and whether it was met on a
table read of a stage-1 walk. CAUSE 8 and 9 are the model's: a table in the HBM4 of a viral domain (R446), or in a lost pool range
(R440). -/
structure WalkFault where
  stage : Nat
  level : Nat
  cause : Nat
  gpa : Nat
  table : Bool
deriving DecidableEq, Repr

/-- A leaf that a walk reached. -/
structure Leaf where
  addr : Nat
  level : Nat
  read : Bool
  write : Bool
  exec : Bool
  bounded : Bool
deriving DecidableEq, Repr

/-- Levels of a walk from L0 down: level and its lowest index bit; L0 has 13 index bits, the rest 9 (R118). -/
def walkLevels : List (Nat × Nat) := [(0, 39), (1, 30), (2, 21), (3, 12)]

/-- Size of an index in bits (R118). -/
def indexBits (level : Nat) : Nat := if level = 0 then 13 else 9

/-- The CAUSE for which an entry fails at a level, if it does: 1 to 4 of R421, in that order. -/
def entryCause (stage2 : Bool) (level : Nat) (e : Nat) : Option Nat :=
  if bitsOf e 0 0 = 0 then some 1
  else if bitsOf e 63 52 ≠ 0 ∨ bitsOf e 11 7 ≠ 0 ∨ (stage2 ∧ bitsOf e 5 5 = 1)
      ∨ (bitsOf e 6 6 = 1 ∧ ¬(level = 3 ∧ bitsOf e 1 1 = 1)) then some 2
  else if (level = 0 ∧ bitsOf e 1 1 = 1) ∨ (level = 3 ∧ bitsOf e 1 1 = 0) then some 3
  else if bitsOf e 1 1 = 1 ∧ ((level = 1 ∧ bitsOf e 29 12 ≠ 0) ∨ (level = 2 ∧ bitsOf e 20 12 ≠ 0)
      ∨ (level = 3 ∧ bitsOf e 6 6 = 1 ∧ bitsOf e 15 12 ≠ 0)) then some 4
  else none

/-- The fields in which the entries of a CONT run must agree (R118). -/
def runField (e : Nat) : Nat := bitsOf e 51 12 * 2 ^ 12 + bitsOf e 6 0

/-- A walk of one stage from a table at `table`. `rd` reads an entry, or fails; `gone` tells an absent address. -/
def walkStage (stage2 : Bool) (rd : Nat → Except WalkFault Nat) (gone : Nat → Bool) (va gpa : Nat) :
    List (Nat × Nat) → Nat → Except WalkFault Leaf
  | [], _ => .error ⟨if stage2 then 2 else 1, 3, 1, gpa, false⟩
  | (level, shift) :: rest, table => do
    let stage := if stage2 then 2 else 1
    let idx := va / 2 ^ shift % 2 ^ indexBits level
    let e ← rd (table + 8 * idx)
    match entryCause stage2 level e with
    | some c => .error ⟨stage, level, c, gpa, false⟩
    | none =>
      let addr := bitsOf e 51 12 * 4096
      if bitsOf e 1 1 = 1 then
        if bitsOf e 6 6 = 1 then do
          let run ← (List.range 16).mapM fun i => rd (table + 8 * (idx / 16 * 16 + i))
          if run.any fun r => runField r != runField e then .error ⟨stage, level, 5, gpa, false⟩
          else .ok ⟨addr + va % 2 ^ 16 / 4096 * 4096, level, bitsOf e 2 2 = 1, bitsOf e 3 3 = 1, bitsOf e 4 4 = 1, bitsOf e 5 5 = 1⟩
        else .ok ⟨addr + va % 2 ^ shift / 4096 * 4096, level, bitsOf e 2 2 = 1, bitsOf e 3 3 = 1, bitsOf e 4 4 = 1, bitsOf e 5 5 = 1⟩
      else if gone addr then .error ⟨stage, level, 7, gpa, false⟩
      else walkStage stage2 rd gone va gpa rest addr

/-- A function has two-stage translation (R375). -/
def State.s2en (s : State) (vf : Nat) : Bool := (s.func vf).testBit 30

/-- A table entry read from physical memory; its memory may answer with an error (R440, R446). -/
def State.tableRead (s : State) (stage gpa pa : Nat) : Except WalkFault Nat :=
  if s.viralPa pa then .error ⟨stage, 0, 8, gpa, false⟩
  else if s.poolLost pa then .error ⟨stage, 0, 9, gpa, false⟩
  else .ok (natOf (s.peeks pa 8))

/-- Stage 2 of a function: guest physical to physical (R117, R118). Without S2EN it is the identity with every permission. -/
def State.stage2 (s : State) (vf gpa : Nat) : Except WalkFault Leaf :=
  if !s.s2en vf then .ok ⟨gpa / 4096 * 4096, 3, true, true, true, false⟩
  else do
    let root := bitsOf (s.func vf) 179 128
    if s.absent root then .error ⟨2, 0, 7, gpa, false⟩
    else do
      let l ← walkStage true (s.tableRead 2 gpa) s.absent gpa gpa walkLevels root
      if s.absent l.addr then .error ⟨2, l.level, 7, gpa, false⟩ else .ok l

/-- A read of 8 bytes of a stage-1 table at a guest physical address (R119). -/
def State.readGuest (s : State) (vf gpa : Nat) : Except WalkFault Nat :=
  match s.stage2 vf gpa with
  | .ok l => s.tableRead 1 gpa (l.addr + gpa % 4096)
  | .error f => .error { f with table := true }

/-- The stage-1 root of an ASID (R375). -/
def State.stage1Root (s : State) (vf asid : Nat) : Except WalkFault Nat :=
  let f := s.func vf
  if bitsOf f 63 48 < asid then .error ⟨1, 0, 6, 0, false⟩
  else do
    let gone := !s.s2en vf && s.absent (bitsOf f 115 64 + 8 * asid)
    if gone then .error ⟨1, 0, 7, 0, false⟩
    else do
      let e ← s.readGuest vf (bitsOf f 115 64 + 8 * asid)
      if bitsOf e 0 0 = 0 ∨ bitsOf e 15 1 ≠ 0 ∨ bitsOf e 63 52 ≠ 0 then .error ⟨1, 0, 6, 0, false⟩
      else if !s.s2en vf && s.absent (bitsOf e 51 16 * 65536) then .error ⟨1, 0, 7, 0, false⟩
      else .ok (bitsOf e 51 16 * 65536)

/-- The two-stage walk of a VA (R117 to R119). -/
def State.walk (s : State) (unit vf asid va : Nat) : Except WalkFault TlbEntry := do
  let root ← s.stage1Root vf asid
  let l1 ← walkStage false (s.readGuest vf) (fun a => !s.s2en vf && s.absent a) va 0 walkLevels root
  if !s.s2en vf && s.absent l1.addr then .error ⟨1, l1.level, 7, 0, false⟩
  else do
    let l2 ← s.stage2 vf (l1.addr + va % 4096)
    .ok ⟨unit, vf, asid, va / 4096, l1.addr / 4096, l2.addr / 4096, l1.read && l2.read, l1.write && l2.write,
      l1.exec && l2.exec, l1.bounded⟩

/-! ### The bytes of the tables that a walk reads (R378) -/

/-- Physical addresses of the table doublewords that a walk of one stage reads; `rd` gives the addresses read for an entry, and the entry
where it can be read. -/
def stageReads (stage2 : Bool) (rd : Nat → List Nat × Option Nat) (va : Nat) : List (Nat × Nat) → Nat → List Nat
  | [], _ => []
  | (level, shift) :: rest, table =>
    let idx := va / 2 ^ shift % 2 ^ indexBits level
    let r := rd (table + 8 * idx)
    r.1 ++ match r.2 with
      | none => []
      | some e =>
        if (entryCause stage2 level e).isSome then []
        else if bitsOf e 1 1 = 0 then stageReads stage2 rd va rest (bitsOf e 51 12 * 4096)
        else if bitsOf e 6 6 = 1 then (List.range 16).flatMap fun i => (rd (table + 8 * (idx / 16 * 16 + i))).1
        else []

/-- The reads of stage 2 for a guest physical address. -/
def State.stage2Reads (s : State) (vf gpa : Nat) : List Nat :=
  if s.s2en vf then stageReads true (fun a => ([a], (s.tableRead 2 gpa a).toOption)) gpa walkLevels (bitsOf (s.func vf) 179 128) else []

/-- The reads that a doubleword of a stage-1 table takes, and the doubleword. -/
def State.guestReads (s : State) (vf gpa : Nat) : List Nat × Option Nat := match s.stage2 vf gpa with
  | .ok l => (s.stage2Reads vf gpa ++ [l.addr + gpa % 4096], (s.readGuest vf gpa).toOption)
  | .error _ => (s.stage2Reads vf gpa, none)

/-- The reads of a whole walk. -/
def State.walkReads (s : State) (vf asid va : Nat) : List Nat :=
  let f := s.func vf
  if bitsOf f 63 48 < asid then []
  else (s.guestReads vf (bitsOf f 115 64 + 8 * asid)).1 ++ match s.stage1Root vf asid with
    | .error _ => []
    | .ok root => stageReads false (s.guestReads vf) va walkLevels root
      ++ match walkStage false (s.readGuest vf) (fun a => !s.s2en vf && s.absent a) va 0 walkLevels root with
        | .ok l => s.stage2Reads vf (l.addr + va % 4096)
        | .error _ => []

/-- A walk made by the HTU of a unit counts among the bytes that its function moved. -/
def State.walkedBy (s : State) (unit vf asid va : Nat) : State :=
  (s.walkReads vf asid va).foldl (fun s pa => (s.moved vf (unitOf pa) 8).bridged vf unit (domOfPa pa) 8) s

/-- The cached walk result of a unit for a VA (R122). -/
def State.tlbFind (s : State) (unit vf asid va : Nat) : Option TlbEntry :=
  s.tlb.find? fun e => e.unit = unit && e.vf = vf && e.asid = asid && e.vaPage = va / 4096

/-- A walk result kept, in place of an older one for the same page. -/
def State.tlbPut (s : State) (t : TlbEntry) : State :=
  { s with tlb := t :: s.tlb.filter fun e => !(e.unit = t.unit && e.vf = t.vf && e.asid = t.asid && e.vaPage = t.vaPage) }

/-! ## Lines -/

/-- An L1 or home line as filled: every byte and bound of it read. -/
def CLine.empty : CLine :=
  ⟨false, false, false, List.replicate 128 0, List.replicate 4 0, 0, false⟩

/-- Which sectors of a line carry poison. -/
def CLine.poisoned (c : CLine) (sec : Nat) : Bool := c.poison.getLsbD sec

/-- Whether the writes, given as offset and bytes, cover a whole sector (R98). -/
def covers (ws : List (Nat × List Byte)) (sec : Nat) : Bool :=
  (List.range 32).all fun i => ws.any fun w => w.1 ≤ 32 * sec + i && 32 * sec + i < w.1 + w.2.length

/-- Bound and poison of a sector after a write of bound `b` that covers it or not (R98, R432). -/
def sectorBnd (old b : Bnd) (cover : Bool) : Bnd := if cover then b else bndMax old b

/-- A line after writes that all lie in sector `sec`, with the largest bound among them (R98, R432). -/
def CLine.store (c : CLine) (sec : Nat) (ws : List (Nat × List Byte)) (b : Bnd) : CLine :=
  { c with data := ws.foldl (fun d w => splice d w.1 w.2) c.data,
           bnds := if c.bounded then c.bnds.set sec (sectorBnd (c.bnds.getD sec 0) b (covers ws sec)) else c.bnds,
           poison := if covers ws sec then c.poison &&& ~~~(1#4 <<< sec) else c.poison }

/-- A line with sector `sec` marked poisoned. -/
def CLine.mark (c : CLine) (sec : Nat) : CLine := { c with poison := c.poison ||| (1#4 <<< sec) }

/-- Bytes of a line. -/
def CLine.get (c : CLine) (off n : Nat) : List Byte := (c.data.drop off).take n

/-- The bound of a sector: 0 for an unbounded page (R98). -/
def CLine.bnd (c : CLine) (sec : Nat) : Bnd := if c.bounded then c.bnds.getD sec 0 else 0

/-! ## Homes -/

/-- Who accesses a line: function, ASID, the issuing core's domain and the home-die hint. -/
structure Who where
  vf : Nat
  asid : Nat
  dom : Nat
  hint : BitVec 4
deriving DecidableEq, Repr

/-- What an access needs of a page (R118). -/
inductive Need where
  | read | write | exec
deriving DecidableEq, Repr

def CLine.permits (c : CLine) : Need → Bool
  | .read => c.read
  | .write => c.write
  | .exec => c.exec

def TlbEntry.permits (t : TlbEntry) : Need → Bool
  | .read => t.read
  | .write => t.write
  | .exec => t.exec

/-- Bytes accessed in memory, for a line that no home holds: their physical address, that of their line's four shadow halfwords where
the page is bounded, and whether a cache of a core may take the line. -/
structure PortAt where
  pa : Nat
  spa : Option Nat
  cached : Bool
deriving DecidableEq, Repr

/-- The same, `n` bytes on. -/
def PortAt.on (p : PortAt) (n : Nat) : PortAt := { p with pa := p.pa + n }

/-- What came of an access that reached its home (R110, R111, R116, R447). -/
inductive Touch where
  /-- The line stands at its home with the permission. -/
  | ok (s : State) (key : Nat)
  /-- No home holds the line: a hub host range, whose lines the fabric port accesses (R345), shadow halfwords of a cached line (R116), or
  a slice whose lines all bear marks (log 73). -/
  | port (p : PortAt)
  /-- A translation is missing at this unit for this VA; `shadow` for a bound shadow. -/
  | walk (unit va : Nat) (shadow : Bool)
  /-- A memory cause of the direct path (R386, R418). -/
  | fault (cause : BitVec 8)
  /-- The home lies in a viral domain (R447). -/
  | abort

/-- The line at a home. -/
def State.hline (s : State) (key : Nat) : Option HLine := Map.get s.home none key
def State.setHline (s : State) (key : Nat) (h : Option HLine) : State := { s with home := Map.set s.home none key h }

/-- Physical address of a page as the unit reads it: the HTU of replica domain d puts d for the domain (R115). -/
def placePa (r : Region) (unit pa : Nat) : Nat :=
  match r.mode, paKind pa with
  | .replica, .hbm _ => pa % 2 ^ 37 + unit * 2 ^ 37
  | _, _ => pa

/-- The poison codes of the four sectors of a line in physical memory (R431). -/
def State.paPoisons (s : State) (pa : Nat) : BitVec 4 :=
  BitVec.ofNat 4 ((List.range 4).foldl (fun n i => n + b2n (Map.get s.poison false (pa / 32 + i)) * 2 ^ i) 0)

/-- The line as it stands in physical memory, with the bounds of its shadow as the hardware writes them, and the
poison codes (R81, R97, R116, R431). -/
def State.fillLine (s : State) (t : TlbEntry) (pa : Nat) (shadowPa : Option Nat) : CLine :=
  { read := t.read, write := t.write, exec := t.exec, data := s.peeks pa 128,
    bnds := match shadowPa with
      | some q => (List.range 4).map fun i => bndNorm (BitVec.ofNat 16 (natOf (s.peeks (q + 2 * i) 2)))
      | none => List.replicate 4 0,
    poison := s.paPoisons pa,
    bounded := t.bounded }

/-! ## Leaving a home, and room in the caches (R9 to R11, R111, R146, R354) -/

def State.l1Line (s : State) (core vf asid va : Nat) : Option CLine := Map.get s.l1 none (lineKey core vf asid va)
def State.setL1 (s : State) (core vf asid va : Nat) (c : Option CLine) : State :=
  { s with l1 := Map.set s.l1 none (lineKey core vf asid va) c }

/-- One dirty sector written back: bytes, poison code and shadow halfword (R116, R431); a viral domain takes nothing (R446). -/
def writeSector (s : State) (h : HLine) (sec : Nat) : State :=
  if s.viralPa h.pa || s.poolLost h.pa then s else
  let s := s.pokes (h.pa + 32 * sec) (h.line.get (32 * sec) 32)
  let s := { s with poison := Map.set s.poison false (h.pa / 32 + sec) (h.line.poisoned sec) }
  if h.line.bounded && !s.viralPa h.shadowPa then s.pokes (h.shadowPa + 2 * sec) (bytesOf 2 (h.line.bnd sec).toNat) else s

/-- The dirty sectors of a home line written back, and the line clean (R111); a line of a lost pool range is kept as it is (R440). -/
def State.writeBack (s : State) (key : Nat) : State :=
  match s.hline key with
  | some h =>
    if s.poolLost h.pa then s else
    let s := (List.range 4).foldl (fun s i => if h.dirty.getLsbD i then (writeSector s h i).moved (keyVf key) (unitOf h.pa) 32 else s) s
    s.setHline key (some { h with dirty := 0, pool := .shared })
  | none => s

/-- L1 copies of a line leave every core that the snoop filter names (R354). -/
def State.dropSharers (s : State) (key : Nat) : State :=
  match s.hline key with
  | some h => h.sharers.foldl (fun s c => s.setL1 c (keyVf key) (keyAsid key) (keyVa key) none) s
  | none => s

/-- A home line is a kept poisoned one of a lost pool range: it stays until the loss is cleared (R440, R441). -/
def State.kept (s : State) (key : Nat) : Bool := (s.hline key).any fun h => s.poolLost h.pa

/-- A line leaves its home with every L1 copy that the snoop filter names. -/
def State.poolDrop (s : State) (key : Nat) : State := if s.kept key then s else (s.dropSharers key).setHline key none

/-- A line carries a promotion mark, at the home that holds it or forwards it (R146, R345). -/
def State.lineMark (s : State) (key : Nat) : Option Nat := match s.hline key with
  | some h => if keyUnit key = 8 then none else h.mark
  | none => Map.get s.portMarks none key

/-- A promotion of the core that a line is marked with begins, or the one under way is joined (R147, R151). -/
def State.promote (s : State) (key core : Nat) : Nat × State :=
  match s.promos.find? fun p => p.2.home = keyUnit key && p.2.line = keyVa key && p.2.vf = keyVf key && p.2.asid = keyAsid key with
  | some p => (p.1, s)
  | none =>
    let (id, s) := s.fresh
    (id, { s with promos := Map.put s.promos id ⟨keyUnit key, keyVf key, keyAsid key, keyVa key, core, false, s.time, []⟩ })

/-- A home line leaves its cache (R111): a marked one begins a promotion and stays (R146). -/
def State.evictHome (s : State) (key : Nat) : State := match s.lineMark key with
  | some c => (s.promote key c).2
  | none => (s.writeBack key).poolDrop key

/-- Lines that an L2 home slice of 1.5 MiB and the pool cache of 192 MiB hold (R9, R10). -/
def homeCap (slice : Nat) : Nat := if slice = 256 then 1572864 else 12288

/-- Lines that a core's L1 holds beside its scratchpad (R11, R106), and its instruction cache. -/
def Core.l1Cap (c : Core) : Nat := 3072 - 512 * c.split
def icacheCap : Nat := 1024

/-- Room for a line at its home: with all lines in use the first that bears no promotion mark and need not be kept leaves; there is none
where every line must stay (log 73, DESIGN CHOICE). -/
def State.roomHome (s : State) (key : Nat) : Option State :=
  let ks := s.home.keys.filter fun k => keySlice k = keySlice key && k != key
  if ks.length < homeCap (keySlice key) then some s
  else (ks.find? fun k => (s.lineMark k).isNone && !s.kept k).map s.evictHome

/-- A cache of a core with all its lines in use lets the first other one go (R107; log 73, DESIGN CHOICE). -/
def roomIn (m : Map (Option CLine)) (cap core key : Nat) : Map (Option CLine) :=
  let ks := m.keys.filter fun k => keyUnit k = core && k != key
  if ks.length < cap then m else match ks.head? with
    | some k => Map.erase m k
    | none => m

/-- Other pool-cache lines of a physical address leave: address spaces share a POOL location coherently (R120, R354). -/
def State.dropAlias (s : State) (key pa : Nat) : State :=
  if keyUnit key = 8 then
    (s.home.keys.filter fun k => keyUnit k = 8 && k != key && (s.hline k).any fun h => h.pa = pa).foldl (fun s k => (s.writeBack k).poolDrop k) s
  else s

/-- The lines in which bytes at a physical address are cached leave every cache, written back; the home keeps their marks. -/
def State.flushPa (s : State) (spa : Nat) : State :=
  (s.home.keys.filter fun k => (s.hline k).any fun h => h.pa = spa / 128 * 128).foldl (fun s k =>
    let m := s.lineMark k
    let s := (s.writeBack k).poolDrop k
    let other := fun p : Nat × Option CLine => p.1 % 2 ^ 67 != k % 2 ^ 67
    { s with portMarks := Map.set s.portMarks none k m, l1 := s.l1.filter other, icache := s.icache.filter other }) s

/-- Bytes written by the hub at a physical address as a release at `sys` scope: what caches hold of their lines leaves them. -/
def State.hubWrite (s : State) (pa : Nat) (bs : List Byte) : State :=
  (((s.home.filterMap fun p => p.2.map fun h => h.pa).filter fun a => pa < a + 128 && a < pa + bs.length).foldl State.flushPa s).hubPokes pa bs

/-- A home line covers, by its shadow halfwords, a byte of the line at a physical address (R116). -/
def State.shadowed (s : State) (pa : Nat) : Bool := s.home.any fun p => match p.2 with
  | some h => h.line.bounded && h.shadowPa / 128 = pa / 128
  | none => false

/-- A line put into its home, with the promotion mark that the home holds for it while the line is not there (R146). -/
def State.putHome (s : State) (key : Nat) (h : HLine) : State :=
  { s.moved (keyVf key) (unitOf h.pa) 128 with home := Map.set s.home none key (some { h with mark := Map.get s.portMarks none key }), portMarks := Map.set s.portMarks none key none }

/-- The physical address of the shadow halfwords of a line of a bounded page (R97, R116), or why the access that needs them does not
find it (R356, R440, R446). -/
def State.shadowPa (s : State) (w : Who) (r : Region) (va : Nat) : Except Touch Nat :=
  if !r.shv then .error (.fault 0x05)
  else
    let sva := r.shadow (va / 128 * 128)
    match s.region w.vf w.asid sva with
    | none => .error (.fault 0x05)
    | some q =>
      if r.mode == .pool && q.mode != .pool then .error (.fault 0x05)
      else
        let unit := q.home sva w.dom 0
        if s.viral unit then .error .abort
        else match s.tlbFind unit w.vf w.asid sva with
        | none => .error (.walk unit sva true)
        | some t =>
          let pa := placePa q unit (t.paPage * 4096) + sva % 4096
          if (q.mode == .pool) != (paKind pa == .pool) then .error (.fault 0x05)
          else if s.poolLost pa then .error (.fault 0x0A)
          else if s.viralPa pa then .error .abort
          else .ok pa

/-- A line enters its home with the address of its shadow, or is accessed in memory where its home takes no such line. -/
def State.enterHome (s : State) (key pa va : Nat) (spa : Option Nat) (t : TlbEntry) : Touch :=
  let out : Touch := .port ⟨pa + va % 128, spa, !s.shadowed pa⟩
  if paKind pa == .host || paKind pa == .peer || s.shadowed pa || s.portClosed pa then out
  else
    let s := match spa with
      | some a => s.flushPa a
      | none => s
    match (s.dropAlias key pa).roomHome key with
    | some s => .ok (s.putHome key ⟨s.fillLine t pa spa, pa, spa.getD 0, 0, none, .shared, [], []⟩) key
    | none => out

/-- Bring a missing line to its home from its translation, and check R116, R356 and the permission, for want of which the line is
translated again (R111). A line of shadow halfwords that some cached line covers is not brought in (R116). -/
def State.fill (s : State) (w : Who) (r : Region) (unit va : Nat) (need : Need) (t : TlbEntry) : Touch :=
  let pa := placePa r unit (t.paPage * 4096) + va % 4096 / 128 * 128
  let key := lineKey unit w.vf w.asid va
  if (r.mode == .pool) != (paKind pa == .pool) then .fault 0x05
  else if !t.permits need then .walk unit va false
  else if s.poolLost pa then .fault 0x0A
  else if s.viralPa pa then .abort
  else if !t.bounded then s.enterHome key pa va none t
  else match s.shadowPa w r va with
    | .ok a => s.enterHome key pa va (some a) t
    | .error x => x

/-- An access reaches the home of its line (R110, R111, R114 to R117). A line or walk result without the permission is translated
again, and the walk says whether the access faults. -/
def State.touch (s : State) (w : Who) (va : Nat) (need : Need) : Touch :=
  match s.region w.vf w.asid va with
  | none => .fault 0x05
  | some r =>
    if r.mode == .replica && need == .write then .fault 0x08
    else
      let unit := r.home va w.dom w.hint
      let key := lineKey unit w.vf w.asid va
      if s.viral unit then .abort
      else match s.hline key with
      | some h =>
        if s.poolLost h.pa then .fault 0x0A
        else if h.line.permits need then .ok s key
        else match s.tlbFind unit w.vf w.asid va with
        | none => .walk unit va false
        | some t =>
          if t.permits need then
            .ok (s.setHline key (some { h with line := { h.line with read := t.read, write := t.write, exec := t.exec } })) key
          else .walk unit va false
      | none =>
        match s.tlbFind unit w.vf w.asid va with
        | none => .walk unit va false
        | some t => s.fill w r unit va need t

/-- An access wants the walk that has just been made: its permission is missing in the tables (R111). -/
def Touch.asks (x : Touch) (unit va : Nat) (shadow : Bool) : Bool := match x with
  | .walk u a sh => u = unit && a = va && sh == shadow
  | _ => false

/-- The home of an address, for the order of requests (R15, R133): its package slice, or 256 for the hub pool cache; none in no
region. -/
def State.homeOf (s : State) (w : Who) (va : Nat) : Option Nat :=
  (s.region w.vf w.asid va).map fun r => packageSlice (r.home va w.dom w.hint) va

/-- Bytes at a home line: data, bound and poison. -/
def State.homeRead (s : State) (key va n : Nat) : List Byte × Bnd × Bool :=
  match s.hline key with
  | some h => (h.line.get (va % 128) n, h.line.bnd (va % 128 / 32), h.line.poisoned (va % 128 / 32))
  | none => (List.replicate n 0, 0, false)

/-- The sector of an address in its line. -/
def secOf (va : Nat) : Nat := va % 128 / 32

/-! ## Partitions and their save pools (R374, R341, R435) -/

/-- The dies of a function's partition (R374, R375). -/
def State.dmask (s : State) (vf : Nat) : Nat :=
  let e := s.part (s.partOf vf)
  if e.testBit 31 then e % 256 else 0

/-- Bytes that a copied granule takes. -/
def Granule.size (g : Granule) : Nat := 4096 + g.shadow.length

/-- A launch belongs to a function of a partition. -/
def State.launchIn (s : State) (part lid : Nat) : Bool := match s.launch? lid with
  | some l => s.partOf l.vf = part
  | none => false

/-- Bytes of a partition's save pool in use: saved contexts and copied granules. -/
def State.poolUsed (s : State) (part : Nat) : Nat :=
  ((s.saved.filter fun p => s.launchIn part (s.cluster p.2.cluster).launch).map fun p => p.2.bytes).sum
    + ((s.granules.filter fun g => s.launchIn part g.launch).map Granule.size).sum

/-- The save pool of a function's partition has room for `n` bytes more. -/
def State.poolRoom (s : State) (vf n : Nat) : Bool :=
  s.poolUsed (s.partOf vf) + n ≤ bitsOf (s.part (s.partOf vf)) 63 32 * 2 ^ 20

/-- Dirty lines of a physical page written back, so that the page's copy is whole. -/
def State.cleanPage (s : State) (page : Nat) : State :=
  (s.home.keys.filter fun k => (s.hline k).any fun h => h.pa / 4096 = page).foldl State.writeBack s

/-- Copy of a marked granule before its first write (R435): the 4 KiB page that holds `pa` with its poison codes and, when bounded, its
shadow's 256 bytes; `spa` is the shadow of the line at `pa`. -/
def granuleOf (s : State) (launch pa : Nat) (spa : Option Nat) : Granule :=
  let page := pa / 4096
  { launch, page, bytes := s.peeks (page * 4096) 4096,
    shadow := match spa with
      | some a => (List.range 256).map fun i => (a - pa % 4096 / 128 * 8 + i, s.peek (a - pa % 4096 / 128 * 8 + i))
      | none => [],
    poison := (List.range 128).map fun i => Map.get s.poison false (page * 128 + i) }

/-- A launch loses its waypoint: the loss is logged and its copies are freed (R435). -/
def State.loseWaypoint (s : State) (lid : Nat) : State := match s.launch? lid with
  | none => s
  | some l =>
    let s := s.log 0x0302 srcHub (launchTag l)
    { (s.setLaunch lid { l with waypoint := false }) with granules := s.granules.filter fun g => g.launch != lid }

/-- A write at `va` of an address space, at the physical address `pa`, meets a marked granule of a launch (R435). -/
def State.marked (s : State) (vf asid va pa lid : Nat) (l : Launch) : Bool :=
  l.waypoint && l.vf = vf && l.asid = asid && l.wset.any (fun r => r.1 ≤ va && va < r.1 + r.2)
    && !s.granules.any (fun g => g.launch = lid && g.page = pa / 4096)

/-- Granules that a write at `va` copies: of each launch with a waypoint whose write set holds it (R435). -/
def State.copyGranules (s : State) (vf asid va pa : Nat) (spa : Option Nat) : State :=
  s.launches.foldl (fun s p =>
    if s.marked vf asid va pa p.1 p.2 then
      let s := s.cleanPage (pa / 4096)
      let g := granuleOf s p.1 pa spa
      if s.poolRoom p.2.vf g.size then { s.moved p.2.vf (unitOf pa) g.size with granules := g :: s.granules } else s.loseWaypoint p.1
    else s) s

/-- The granules that a write of a home line copies. -/
def State.copyLine (s : State) (key va : Nat) (h : HLine) : State :=
  s.copyGranules (keyVf key) (keyAsid key) va h.pa (if h.line.bounded then some h.shadowPa else none)

/-- Writes of one sector applied at a home line, with the largest bound among them; a POOL line is taken owned (R354). -/
def State.homeStore (s : State) (key va : Nat) (ws : List (Nat × List Byte)) (b : Bnd) : State :=
  match s.hline key with
  | some h =>
    let s := s.copyLine key va h
    s.setHline key (some { h with line := h.line.store (secOf va) ws b, dirty := h.dirty ||| (1#4 <<< secOf va),
                                  pool := if keyUnit key = 8 then .owned else h.pool })
  | none => s

/-! ## Writes of bits: nibbles of copies and of `mat.st` (R280, R292) -/

/-- Writes of a copy or of `mat.st`: address or offset, value, and the bits written. -/
abbrev BitWrites := List (Nat × Byte × Byte)

/-- A byte after a write of some of its bits. -/
def putBits (old val mask : Byte) : Byte := (old &&& ~~~mask) ||| (val &&& mask)

/-- Bytes from `base` on after writes of bits, in order. -/
def applyBits (base : Nat) (bs : List Byte) (ws : BitWrites) : List Byte :=
  ws.foldl (fun d w => d.set (w.1 - base) (putBits (d.getD (w.1 - base) 0) w.2.1 w.2.2)) bs

/-- Writes of bits cover every bit of the 32 bytes from `base` on (R98). -/
def coversBits (ws : BitWrites) (base : Nat) : Bool :=
  (List.range 32).all fun i => (ws.filter fun w => w.1 = base + i).foldl (fun m w => m ||| w.2.2) 0 == 0xFF#8

/-- A line after writes of bits that all lie in the sector of `va` (R98, R432); `poison` marks the sector (R431). -/
def CLine.putBits (c : CLine) (va : Nat) (ws : BitWrites) (b : Bnd) (cover poison : Bool) : CLine :=
  let sec := va % 128 / 32
  { c with data := applyBits (va / 128 * 128) c.data ws,
           bnds := if c.bounded then c.bnds.set sec (sectorBnd (c.bnds.getD sec 0) b cover) else c.bnds,
           poison := if poison then c.poison ||| (1#4 <<< sec) else if cover then c.poison &&& ~~~(1#4 <<< sec) else c.poison }

/-- Writes of bits of one sector applied at a home line. -/
def State.homeBits (s : State) (key va : Nat) (ws : BitWrites) (b : Bnd) (cover poison : Bool) : State :=
  match s.hline key with
  | some h =>
    let s := s.copyLine key va h
    s.setHline key (some { h with line := h.line.putBits va ws b cover poison, dirty := h.dirty ||| (1#4 <<< secOf va),
                                  pool := if keyUnit key = 8 then .owned else h.pool })
  | none => s

/-- Writes of bits to physical memory. -/
def State.pokeBits (s : State) (ws : BitWrites) : State :=
  ws.foldl (fun s w => s.poke w.1 (putBits (s.peek w.1) w.2.1 w.2.2)) s

/-! ## Lines that no cache below L1 holds (R116, R345) -/

/-- The poison code of the sector at a physical address. -/
def State.paPoison (s : State) (pa : Nat) : Bool := Map.get s.poison false (pa / 32)

/-- Bytes of one line at a physical address, from a home that holds it or from memory. -/
def State.freshest (s : State) (pa n : Nat) : List Byte :=
  match s.home.findSome? fun p => p.2.bind fun h => if h.pa = pa / 128 * 128 then some (h.line.get (pa % 128) n) else none with
  | some bs => bs
  | none => s.peeks pa n

/-- The bound of sector `sec` of a line whose shadow halfwords lie at an address; 0 for an unbounded page (R97, R98). -/
def State.shadowBnd (s : State) (spa : Option Nat) (sec : Nat) : Bnd := match spa with
  | some a => bndNorm (BitVec.ofNat 16 (natOf (s.freshest (a + 2 * sec) 2)))
  | none => 0

/-- Bytes, which lie in one sector, read at the fabric port, with their bound and poison. -/
def State.portRead (s : State) (p : PortAt) (n : Nat) : List Byte × Bnd × Bool :=
  (s.peeks p.pa n, s.shadowBnd p.spa (p.pa % 128 / 32), s.paPoison p.pa)

/-- The bound of a sector, written to its shadow halfword (R98). -/
def State.portBnd (s : State) (p : PortAt) (b : Bnd) (cover : Bool) : State := match p.spa with
  | some a =>
    let sec := p.pa % 128 / 32
    s.hubWrite (a + 2 * sec) (bytesOf 2 (sectorBnd (s.shadowBnd p.spa sec) b cover).toNat)
  | none => s

/-- Writes of bits of one sector at the fabric port, with the largest bound among them: `p` stands for the byte at `va` (R98, R431, R432,
R435). -/
def State.portBits (s : State) (vf asid va : Nat) (p : PortAt) (ws : BitWrites) (b : Bnd) (cover poison : Bool) : State :=
  let s := ((s.moved vf (unitOf p.pa) ws.length).copyGranules vf asid va p.pa p.spa).pokeBits
    (ws.map fun w => (w.1 - va / 32 * 32 + p.pa / 32 * 32, w.2))
  let s := s.portBnd p b cover
  if poison || cover then { s with poison := Map.set s.poison false (p.pa / 32) poison } else s

/-- Whole bytes of one sector written at the fabric port. -/
def State.portStore (s : State) (vf asid va : Nat) (p : PortAt) (bs : List Byte) (b : Bnd) (cover : Bool) : State :=
  s.portBits vf asid va p ((List.range bs.length).map fun i => (va + i, bs.getD i 0, 0xFF)) b cover false

/-- A sector of a home line marked poisoned. -/
def State.homePoison (s : State) (key va : Nat) : State :=
  match s.hline key with
  | some h => s.setHline key (some { h with line := h.line.mark (secOf va), dirty := h.dirty ||| (1#4 <<< secOf va) })
  | none => s

/-! ## L1 and the instruction caches (R107 to R109) -/

/-- Every line of a core's L1 leaves it (R131). -/
def State.dropL1 (s : State) (core : Nat) : State :=
  { s with l1 := Map.dropRange s.l1 (lineKey core 0 0 0) (lineKey (core + 1) 0 0 0) }

/-- The lines of a VA range leave the L1 of a core (R154). -/
def State.dropL1Range (s : State) (core vf asid lo hi : Nat) : State :=
  { s with l1 := Map.dropRange s.l1 (lineKey core vf asid lo) (lineKey core vf asid (hi + 127)) }

/-- The lines of a VA range leave the instruction cache of a core (R250). -/
def State.dropIRange (s : State) (core vf asid lo hi : Nat) : State :=
  { s with icache := Map.dropRange s.icache (lineKey core vf asid lo) (lineKey core vf asid (hi + 127)) }

/-- A write of this core into its L1, when it holds the line (R108). -/
def State.l1Store (s : State) (core vf asid va : Nat) (ws : List (Nat × List Byte)) (b : Bnd) : State :=
  match s.l1Line core vf asid va with
  | some c => s.setL1 core vf asid va (some (c.store (secOf va) ws b))
  | none => s

/-- The same for writes of bits. -/
def State.l1Bits (s : State) (core vf asid va : Nat) (ws : BitWrites) (b : Bnd) (cover : Bool) : State :=
  match s.l1Line core vf asid va with
  | some c => s.setL1 core vf asid va (some (c.putBits va ws b cover false))
  | none => s

/-- The snoop filter of a POOL line records a core (R354). -/
def State.addSharer (s : State) (key core : Nat) : State :=
  if keyUnit key = 8 then
    match s.hline key with
    | some h => s.setHline key (some { h with sharers := if h.sharers.contains core then h.sharers else core :: h.sharers })
    | none => s
  else s

/-- A line that no home holds as L1 and the instruction cache take it, with the bounds of its sectors (R99, R107, R345). None for a line
that no cache takes. -/
def State.portLine (s : State) (w : Who) (va : Nat) (p : PortAt) : Option CLine :=
  if !p.cached then none
  else match s.region w.vf w.asid va with
    | none => none
    | some r => (s.tlbFind (r.home va w.dom w.hint) w.vf w.asid va).map fun t =>
      { s.fillLine t (p.pa / 128 * 128) none with bnds := (List.range 4).map (s.shadowBnd p.spa), bounded := p.spa.isSome }

/-! ## Reads and writes of the command processors (R325, R328, R329) -/

/-- An access of a command processor: walks are made in place, and a fault ends it. It counts REPLICA homes from domain 0 (log 72,
DESIGN CHOICE). -/
def State.touchCp (s : State) (vf asid va : Nat) (need : Need) : Nat → Touch
  | 0 => .fault 0x06
  | n + 1 =>
    match s.touch ⟨vf, asid, 0, 0⟩ va need with
    | .walk unit wva _ =>
      match s.walk unit vf asid wva with
      | .ok t => ((s.walkedBy unit vf asid wva).tlbPut t).touchCp vf asid va need n
      | .error _ => .fault 0x06
    | t => t

/-- Bytes of one line read through its home, by a command processor. -/
def State.cpReadLine (s : State) (vf asid va n : Nat) : Option (State × List Byte) :=
  match s.touchCp vf asid va .read 3 with
  | .ok s key =>
    let (bs, _, p) := s.homeRead key va n
    if p then none else some (s.served vf 8 (keyUnit key) n, bs)
  | .port p => if (s.portRead p n).2.2 || s.peerLost p.pa then none else some (s.moved vf (unitOf p.pa) n, (s.portRead p n).1)
  | _ => none

/-- A physical address that a VA names without placement (R325); none where the walk fails, or the memory there does not answer. -/
def State.cpPa (s : State) (vf asid va : Nat) (write : Bool) : Option (State × Nat) :=
  match s.walk 8 vf asid va with
  | .ok t =>
    let pa := t.paPage * 4096 + va % 4096
    if !(if write then t.write else t.read) || s.viralPa pa || s.poolLost pa || s.peerLost pa then none
    else some ((s.walkedBy 8 vf asid va).moved vf (unitOf pa) 8, pa)
  | .error _ => none

/-- Bytes read without placement: VA translated at the hub, bytes from physical memory, none of them
poisoned (R325). -/
def State.cpReadRaw (s : State) (vf asid va : Nat) : Nat → Option (State × List Byte)
  | 0 => some (s, [])
  | n + 1 =>
    match s.cpPa vf asid va false with
    | none => none
    | some (s, pa) => if s.paPoison pa then none else (s.cpReadRaw vf asid (va + 8) n).map fun r => (r.1, s.peeks pa 8 ++ r.2)

/-- A read by a command processor through homes, 8 bytes at a time (R325): `n` doublewords. -/
def State.cpRead (s : State) (vf asid va : Nat) : Nat → Option (State × List Byte)
  | 0 => some (s, [])
  | n + 1 =>
    match s.cpReadLine vf asid va 8 with
    | none => none
    | some (s, bs) =>
      match s.cpRead vf asid (va + 8) n with
      | none => none
      | some (s, r) => some (s, bs ++ r)

/-- A write of 8 bytes by a command processor through the home (R328); none when it faults. -/
def State.cpWrite (s : State) (vf asid va : Nat) (bs : List Byte) : Option State :=
  match s.touchCp vf asid va .write 3 with
  | .ok s key => some ((s.served vf 8 (keyUnit key) bs.length).homeStore key va [(va % 128, bs)] 0)
  | .port p => if s.peerLost p.pa then none else some (s.portStore vf asid va p bs 0 false)
  | _ => none

/-- A write of 8 bytes by a command processor without placement (R328). -/
def State.cpWriteRaw (s : State) (vf asid va : Nat) (bs : List Byte) : Option State :=
  (s.cpPa vf asid va true).map fun r => r.1.pokes r.2 bs

/-- An access without placement has to wait: it leads to a port that is not usable yet (R383). -/
def State.rawClosed (s : State) (vf asid va : Nat) (write : Bool) : Bool := (s.cpPa vf asid va write).any fun r => s.portClosed r.2

/-- The same of an access of a command processor. -/
def State.cpClosed (s : State) (vf asid va : Nat) (need : Need) : Bool :=
  if s.plt vf asid = [] then s.rawClosed vf asid va (need == .write)
  else match s.touchCp vf asid va need 3 with
    | .port p => s.portClosed p.pa
    | _ => false

end Sys2Proof.Machine
end

