-- ==== Sys2Proof/Machine/Life.lean ====
section
/-! DEFINITION. The life of a launch: placing its clusters (R331 to R334, R342), starting its warps (R58 to R71), the end
of its warps, blocks, clusters and grid (R49 to R53), its signal event and its completion (R324, R327, R328), its abort
(R395, R437, R451), and the readiness of threads at barriers when threads exit (R243). -/

namespace Sys2Proof.Machine

/-! ## The header's fields (R326) -/

/-- The number in header bytes `off` to `off + n - 1`. -/
def Launch.f (l : Launch) (off n : Nat) : Nat := natOf ((l.hdr.drop off).take n)
def Launch.entry (l : Launch) : Nat := bitsOf (l.f 0 8) 51 0
def Launch.diesF (l : Launch) : Nat := bitsOf (l.f 0 8) 59 52
def Launch.pltVa (l : Launch) : Nat := bitsOf (l.f 8 8) 51 0
def Launch.vfF (l : Launch) : Nat := bitsOf (l.f 8 8) 57 52
def Launch.tvec (l : Launch) : Nat := bitsOf (l.f 0x10 8) 51 0
/-- Group space in bytes. -/
def Launch.gspace (l : Launch) : Nat := bitsOf (l.f 0x10 8) 58 52 * 1024
def Launch.wsetVa (l : Launch) : Nat := bitsOf (l.f 0x18 8) 51 0
def Launch.tick (l : Launch) : Nat := l.f 0x20 8
def Launch.sigVa (l : Launch) : Nat := l.f 0x28 8
def Launch.waitVa (l : Launch) (i : Nat) : Nat := l.f (0x30 + 8 * i) 8
def Launch.waitVal (l : Launch) (i : Nat) : Nat := l.f (0x58 + 4 * i) 4
def Launch.extent (l : Launch) : Nat → Nat
  | 3 => l.f 0x68 4
  | 4 => l.f 0x6C 2
  | _ => l.f 0x6E 2
/-- Scratchpad bytes per core, rounded up to 1 KiB (R102). -/
def Launch.spad (l : Launch) : Nat := (l.f 0x70 4 + 1023) / 1024 * 1024
def Launch.threadsF (l : Launch) : Nat := l.f 0x74 2
def Launch.asidF (l : Launch) : Nat := l.f 0x76 2
def Launch.blocksF (l : Launch) : Nat := bitsOf (l.f 0x78 1) 3 0
def Launch.coresF (l : Launch) : Nat := bitsOf (l.f 0x78 1) 5 4 + 1
def Launch.regsF (l : Launch) : Nat := bitsOf (l.f 0x78 1) 7 6
def Launch.ctrl (l : Launch) : Nat := l.f 0x79 1
def Launch.prio (l : Launch) : Nat := bitsOf l.ctrl 1 0
def Launch.cor (l : Launch) : Bool := l.ctrl.testBit 2
def Launch.gang (l : Launch) : Bool := l.ctrl.testBit 3
def Launch.pre (l : Launch) : Bool := l.ctrl.testBit 4
def Launch.repl (l : Launch) : Bool := l.ctrl.testBit 5
def Launch.assured (l : Launch) : Bool := l.ctrl.testBit 6
def Launch.uncTrap (l : Launch) : Bool := l.ctrl.testBit 7
def Launch.width (l : Launch) (i : Nat) : Nat := l.f (0x7A + i) 1
/-- Warps in a block, E1 (R23). -/
def Launch.warpsF (l : Launch) : Nat := (l.threadsF + 31) / 32
/-- Clusters in the grid (R29). -/
def Launch.grid (l : Launch) : Nat := l.extent 3 * l.extent 4 * l.extent 5

/-- `%wid` of a lane (R27, R29). -/
def Launch.wid (l : Launch) (cluster block warp lane : Nat) : DWord :=
  let o (n : Nat) := ((List.range n).map l.width).sum
  BitVec.ofNat 64 (lane + warp * 2 ^ o 1 + block * 2 ^ o 2 + cluster % l.extent 3 * 2 ^ o 3
    + cluster / l.extent 3 % l.extent 4 * 2 ^ o 4 + cluster / (l.extent 3 * l.extent 4) * 2 ^ o 5)

/-! ## Placement (R332, R333) -/

/-- A slot key from core, quadrant in core and slot. -/
def slotKey (core q i : Nat) : Nat := core * 64 + q * 16 + i

/-- Free slots of a quadrant, ascending. -/
def State.freeSlots (s : State) (core q : Nat) : List Nat :=
  ((List.range 16).map (slotKey core q)).filter fun k => !(s.warp k).live

/-- Extended blocks in use in a package quadrant (R62). -/
def State.xUsed (s : State) (quad : Nat) : Nat :=
  ((s.warps.filter fun p => p.1 / 16 = quad && p.2.live).map fun p => p.2.xblocks).sum

/-- Sum of the slices of the blocks resident on a core (R106). -/
def State.sliceSum (s : State) (core : Nat) : Nat :=
  ((s.blocks.filter fun p => p.2.live && p.2.cores.contains core).map fun p => p.2.slice).sum

/-- Warps of a block that stand on its core `j` in quadrant `q` (R24). -/
def warpsAt (l : Launch) (j q : Nat) : List Nat :=
  (List.range l.warpsF).filter fun w => w % l.coresF = j && w / l.coresF % 4 = q

/-- Slots that a warp of the launch takes: two when assured (R333). -/
def Launch.copies (l : Launch) : Nat := if l.assured then 2 else 1

/-- Whether core `j` of a block of the launch fits on a core (R333). `xb` gives the extended blocks that a warp needs. -/
def State.coreFits (s : State) (l : Launch) (xb : Nat → Nat) (core j : Nat) : Bool :=
  ((List.range 4).all fun q =>
      let ws := warpsAt l j q
      ws.length * l.copies ≤ (s.freeSlots core q).length
        && (ws.map xb).sum * l.copies + s.xUsed (core * 4 + q) ≤ 24)
    && s.sliceSum core + l.spad ≤ 327680

/-- The cores for the cores `j` on of a block, in ascending core number (R333). -/
def State.pickCores (s : State) (l : Launch) (xb : Nat → Nat) (ok : Nat → Nat → Bool) : Nat → List Nat → List Nat
  | _, [] => []
  | j, c :: t =>
    if j < l.coresF then
      if s.coreFits l xb c j && ok c j then c :: s.pickCores l xb ok (j + 1) t else s.pickCores l xb ok j t
    else []

/-- The scratchpad step that holds a sum of slices (R106), in units of 64 KiB. -/
def stepOf (sum : Nat) : Nat := (sum + 65535) / 65536

/-- A core's split raised for its slices; its L1 lines leave when the scratchpad grows (R106). -/
def State.setSplit (s : State) (core : Nat) : State :=
  let n := stepOf (s.sliceSum core)
  if (s.core core).split < n then (s.updCore core fun c => { c with split := n }).dropL1 core else s

/-- Active warps of a package quadrant (R335). -/
def State.activeCount (s : State) (quad : Nat) : Nat := (s.warps.filter fun p => p.1 / 16 = quad && p.2.live && p.2.active).length

/-- The active set of a slot's quadrant has room for `n` warps more (R334, R335). -/
def State.activeRoom (s : State) (slot n : Nat) : Bool := s.activeCount (quadOf slot) + n ≤ 8

/-- A warp put into a slot, in the active set or the pending set. -/
def State.seat (s : State) (slot : Nat) (w : Warp) (act : Bool) : State :=
  { s with warps := Map.set s.warps Warp.empty slot { w with live := true, active := act, stamp := s.stamp, since := s.cycle } }.bump

/-- A warp at its start (R23, R30, R42, R59 to R71). -/
def startWarp (l : Launch) (uid launch block index age : Nat) : Warp :=
  let n := min 32 (l.threadsF - 32 * index)
  let t : Thread := { Thread.idle with st := .running, pc := BitVec.ofNat 64 l.entry, age := age }
  { Warp.empty with
    live := true, uid, launch, block, index,
    threads := (List.range n).map fun i => (i, t),
    xblocks := l.regsF, exm := BitVec.ofNat 32 (2 ^ n - 1), budget := BitVec.ofNat 32 (l.f 0x50 4),
    tvec := BitVec.ofNat 64 l.tvec }

/-- Seat the warps of a block one by one: each in the lowest free slot of its quadrant, a trailing warp in the next, both in one set
(R24, R334, R338). `mk` gives the warp of an index. -/
def State.seatWarps (s : State) (l : Launch) (cores : List Nat) (mk : Nat → Nat → Nat → Warp) : List Nat → State
  | [] => s
  | w :: t =>
    let core := cores.getD (w % l.coresF) 0
    let free := s.freeSlots core (w / l.coresF % 4)
    let a := free.getD 0 0
    let b := free.getD 1 0
    let uid := s.nextId
    let s := { s with nextId := s.nextId + 2 }
    let s := if l.assured then
        let act := s.activeRoom a 2
        (s.seat a { mk uid s.stamp w with role := .leading b } act).seat b { mk (uid + 1) s.stamp (128 + w) with role := .trailing a } act
      else s.seat a (mk uid s.stamp w) (s.activeRoom a 1)
    s.seatWarps l cores mk t

/-- A block placed in a core group, its warps seated (R333, R334); none when it does not fit. What happened before its launch happens
before its accesses, so its cores' L1 lines leave (R330). -/
def State.placeBlock (s : State) (l : Launch) (lid cid bid bidx group : Nat) (xb : Nat → Nat) (ok : Nat → Nat → Bool)
    (bars : Map Barrier) (mk : Nat → Nat → Nat → Warp) : Option State :=
  let cores := s.pickCores l xb ok 0 ((List.range 8).map fun i => group * 8 + i)
  if cores.length < l.coresF then none
  else
    let b : Block := ⟨true, lid, cid, bidx, cores, l.spad, l.warpsF * l.copies, 0, bars, Nat.lor (s.block bid).doms (2 ^ (group / 6))⟩
    let s := { s with blocks := Map.set s.blocks Block.none bid b }
    let s := cores.foldl State.dropL1 (cores.foldl State.setSplit s)
    some (s.seatWarps l cores mk (List.range l.warpsF))

/-- Clusters resident in a core group. -/
def State.groupClusters (s : State) (group : Nat) : List Cluster :=
  (s.clusters.filter fun p => p.2.live && !p.2.saved && p.2.group = group).map Prod.snd

/-- A cluster of more than one block, or of a block on more cores than one, needs the cluster unit (R332). -/
def State.needsUnit (s : State) (c : Cluster) : Bool :=
  match s.launch? c.launch with
  | some l => 1 < l.blocksF || 1 < l.coresF
  | none => false

/-- The group conditions of R332 that do not depend on cores. -/
def State.groupOk (s : State) (l : Launch) (group : Nat) : Bool :=
  let rs := s.groupClusters group
  ((rs.map fun c => c.gspace).sum + l.gspace ≤ 65536)
    && !((1 < l.blocksF || 1 < l.coresF) && rs.any s.needsUnit)
    && (s.dies &&& l.diesF &&& s.dmask l.vf).testBit (group / 6)

/-- Resident warps of a core group. -/
def State.groupWarps (s : State) (group : Nat) : Nat := (s.warps.filter fun p => p.1 / 512 = group && p.2.live).length

/-- Place the blocks of a new cluster in a group, in ascending order (R333). -/
def State.placeNew (s : State) (l : Launch) (lid cid group : Nat) : Nat → Option State
  | 0 => some s
  | n + 1 =>
    match s.placeNew l lid cid group n with
    | none => none
    | some s =>
      let bid := s.nextId
      let s := { s with nextId := s.nextId + 1 }
      match s.placeBlock l lid cid bid n group (fun _ => l.regsF) (fun _ _ => true) []
          (fun uid age w => startWarp l uid lid bid (w % 128) age) with
      | none => none
      | some s => some (s.updCluster cid fun c => { c with blocks := c.blocks ++ [bid] })

/-- Cluster `number` of a launch placed in a group (R26, R332); none when it does not fit. -/
def State.placeCluster (s : State) (l : Launch) (lid number group : Nat) : Option State :=
  if !s.groupOk l group then none
  else
    let cid := s.nextId
    let s := { s with nextId := s.nextId + 1,
                      clusters := Map.set s.clusters Cluster.none s.nextId ⟨true, lid, number, group, [], l.gspace, [], false, false⟩ }
    s.placeNew l lid cid group l.blocksF

/-- A list in the order of `le`, equals in the order they stood. -/
def sortBy {α : Type} (le : α → α → Bool) (l : List α) : List α :=
  l.foldr (fun a r => r.takeWhile (fun b => !le a b) ++ a :: r.dropWhile (fun b => !le a b)) []

/-- Groups in the dispatcher's order of choice: fewest resident warps, then lowest number (R332). -/
def State.groupOrder (s : State) : List Nat :=
  sortBy (fun a b => s.groupWarps a ≤ s.groupWarps b) (List.range 48)

/-- The first group for which `f` succeeds. -/
def firstSome {α : Type} (f : Nat → Option α) : List Nat → Option α
  | [] => none
  | g :: t => match f g with
    | some a => some a
    | none => firstSome f t

/-! ## Placing a saved cluster again (R342, R264) -/

/-- The saved blocks of a cluster, with their numbers. -/
def State.savedOf (s : State) (cid : Nat) : List (Nat × SavedBlock) := s.saved.filter fun p => p.2.cluster = cid

/-- Windows of a core are free of a run of rows. -/
def Core.rowsFree (c : Core) (lo n : Nat) : Bool := c.windows.all fun w => lo + n ≤ w.2.1 || w.2.1 + w.2.2 ≤ lo

/-- A bank may be replaced by a restore: unowned, or owned by a launch with no block resident on the core (R264). -/
def State.bankFree (s : State) (core b : Nat) : Bool :=
  match (Map.get (s.core core).banks Bank.reset b).owner with
  | none => true
  | some l => !s.blocks.any fun p => p.2.live && p.2.launch = l && p.2.cores.contains core

/-- The added condition of R264 for core `j` of a saved block. -/
def State.restoreOk (s : State) (sb : SavedBlock) (core j : Nat) : Bool :=
  (sb.windows.all fun w => w.1 != j || (s.core core).rowsFree w.2.1 w.2.2)
    && (sb.banks.all fun b => b.1 != j || s.bankFree core b.2.1)

/-- Windows, their rows and banks of core `j` of a saved block put back (R264), and the L1 invalidated (R342). -/
def State.restoreCore (s : State) (bid : Nat) (sb : SavedBlock) (core j : Nat) : State :=
  let s := s.updCore core fun c =>
    let c := (sb.windows.filter fun w => w.1 = j).foldl
      (fun c w => { c with windows := (bid, w.2.1, w.2.2) :: c.windows, acc := Map.dropRange c.acc (w.2.1 * 512) ((w.2.1 + w.2.2) * 512),
                           rows := Map.dropRange c.rows w.2.1 (w.2.1 + w.2.2) }) c
    let c := (sb.rows.filter fun r => r.1 = j).foldl
      (fun c r => { c with acc := r.2.1.foldl (fun a p => Map.set a 0 p.1 p.2) c.acc,
                           rows := r.2.2.foldl (fun a p => Map.set a ⟨0, false⟩ p.1 p.2) c.rows }) c
    (sb.banks.filter fun b => b.1 = j).foldl
      (fun c b => { c with banks := Map.set c.banks Bank.reset b.2.1 b.2.2 }) c
  s.dropL1 core

/-- The warp of an index in a saved block. -/
def SavedBlock.warp (sb : SavedBlock) (i : Nat) : Warp := (Map.find? sb.warps i).getD Warp.empty

/-- Threads of a warp that wait for extended blocks, by count. -/
def Warp.xWaits (w : Warp) : List (Mask × Nat) :=
  [1, 2, 3].filterMap fun n =>
    let m := w.lanes fun t => t.st == .waitX (BitVec.ofNat 2 n)
    if m = 0 then none else some (m, n)

/-- A pair counts once, by its leading warp (R338). -/
def Role.counts : Role → Bool
  | .trailing _ => false
  | _ => true

/-- A placed warp's requests for extended blocks join the queue of its quadrant (R313, R341). -/
def State.xRequeue (s : State) (slot : Nat) : State :=
  { s with xq := Map.upd s.xq [] (quadOf slot) fun q => q ++ (s.warp slot).xWaits.map fun x => (slot, x.1, x.2) }

/-- A saved block placed again in a group (R342). -/
def State.resumeBlock (s : State) (l : Launch) (group : Nat) (bid : Nat) (sb : SavedBlock) : Option State :=
  let b := s.block bid
  match s.placeBlock l b.launch b.cluster bid b.index group (fun w => (sb.warp w).xblocks) (s.restoreOk sb) b.bars
      (fun uid _ w => { sb.warp w with uid := if (sb.warp w).live then (sb.warp w).uid else uid }) with
  | none => none
  | some s =>
    let s := s.updBlock bid fun n => { n with warps := b.warps, ended := b.ended }
    let cores := (s.block bid).cores
    let s := (List.range cores.length).foldl (fun s j => s.restoreCore bid sb (cores.getD j 0) j) s
    let slots := (s.warps.filter fun p => p.2.live && p.2.block = bid).map Prod.fst
    let s := (slots.filter fun k => (s.warp k).role.counts).foldl State.xRequeue s
    some { s with saved := Map.erase s.saved bid, warps := s.warps.filter fun p => !(p.2.live && p.2.threads = []) }

/-- The saved blocks of a cluster placed again in a group, one by one. -/
def State.resumeBlocks (s : State) (l : Launch) (group : Nat) : List (Nat × SavedBlock) → Option State
  | [] => some s
  | p :: t => match s.resumeBlock l group p.1 p.2 with
    | none => none
    | some s => s.resumeBlocks l group t

/-- A saved cluster placed again (R342); the domain of the group must be named by DIES and available. -/
def State.resumeCluster (s : State) (l : Launch) (cid group : Nat) : Option State :=
  if !s.groupOk l group then none
  else (s.resumeBlocks l group (s.savedOf cid)).map fun s =>
    s.updCluster cid fun c => { c with group, saved := false, preempt := false }

/-! ## Dispatch (R331, R376) -/

/-- A launch is ready or running. -/
def Launch.active (l : Launch) : Bool := l.st == .running

/-- Functions of a partition with launches ready or running, ascending (R376). -/
def State.readyFuncs (s : State) (part : Nat) : List Nat :=
  (List.range 64).filter fun f => s.partOf f = part && s.launches.any fun p => p.2.active && p.2.vf = f

/-- The function whose turn it is in a partition: the one served last while it has launches, else the next in ascending
order, round robin (R376). -/
def State.turnFunc (s : State) (part : Nat) : Option Nat :=
  let cur := (Map.get s.slices (0, 0) part).1
  let fs := s.readyFuncs part
  if fs.contains cur then some cur
  else match fs.find? (cur < ·) with
    | some f => some f
    | none => fs.head?

/-- Clusters of a launch that are saved, in ascending number. -/
def State.savedClusters (s : State) (lid : Nat) : List Nat :=
  (s.clusters.filter fun p => p.2.live && p.2.saved && p.2.launch = lid).map Prod.fst

/-- Saved clusters of a launch placed while the next one fits (R342); a gang launch that has not started is placed anew (R343). -/
def State.resumeAll (s : State) (lid : Nat) (l : Launch) : List Nat → State × Bool
  | [] => (s, true)
  | c :: t => match firstSome (s.resumeCluster l c) s.groupOrder with
    | some s => (s.updLaunch lid fun x => if x.started then x else { x with placedAt := s.time }).resumeAll lid l t
    | none => (s, false)

/-- Clusters of a launch placed in ascending number while the next one fits, at most `n` (R331). -/
def State.placeAll (s : State) (lid : Nat) (l : Launch) : Nat → State × Bool
  | 0 => (s, true)
  | n + 1 =>
    let next := match s.launch? lid with
      | some x => x.nextCl
      | none => l.grid
    if l.grid ≤ next then (s, true)
    else match firstSome (s.placeCluster l lid next) s.groupOrder with
      | some s => (s.updLaunch lid fun x => { x with nextCl := x.nextCl + 1, started := x.started || !x.gang, placedAt := s.time }).placeAll lid l n
      | none => (s, false)

/-- One launch considered (R331): a coresident one in one step or not at all. The flag says that all of it is placed. -/
def State.dispatchOne (s : State) (lid : Nat) (l : Launch) : State × Bool :=
  match s.resumeAll lid l (s.savedClusters lid) with
  | (s', false) => (if l.cor then s else s', false)
  | (s', true) => match s'.placeAll lid l (l.grid - l.nextCl) with
    | (s'', true) => (s'', true)
    | (s'', false) => (if l.cor then s else s'', false)

/-- Some cluster of a launch is being pre-empted, or the launch is being aborted or rolled back (R340, R436, R451). -/
def State.leaving (s : State) (lid : Nat) : Bool :=
  s.hub.abort = some lid || (s.launch? lid).any (fun l => l.rolling.isSome) || s.clusters.any fun p => p.2.live && p.2.launch = lid && p.2.preempt && !p.2.saved

/-- Launches in the dispatcher's order: higher priority, then earlier readiness (R331). -/
def State.dispatchOrder (s : State) : List (Nat × Launch) :=
  sortBy (fun a b => decide (b.2.prio < a.2.prio) || (a.2.prio == b.2.prio && decide (a.2.readyAt ≤ b.2.readyAt)))
    (s.launches.filter fun p => p.2.active && !s.leaving p.1 && (p.2.nextCl < p.2.grid || s.savedClusters p.1 != []))

/-- The dispatcher may place clusters of a launch: its function has the turn, or it has begun and runs to completion unsliced (R376). -/
def State.mayPlace (s : State) (l : Launch) : Bool := s.turnFunc (s.partOf l.vf) == some l.vf || (!l.pre && l.nextCl != 0)

/-- Launches considered in order; a coresident one that does not fit blocks those of its function, of its priority and below (R331, R376):
`blocked` lists functions and priorities. -/
def State.dispatchList (s : State) : List (Nat × Launch) → List (Nat × Nat) → State
  | [], _ => s
  | p :: t, blocked =>
    if blocked.any (fun b => b.1 = p.2.vf && p.2.prio ≤ b.2) || !s.mayPlace p.2 then s.dispatchList t blocked
    else
      let (s', done) := s.dispatchOne p.1 p.2
      s'.dispatchList t (if !done && p.2.cor then (p.2.vf, p.2.prio) :: blocked else blocked)

/-! ## Choosing what to pre-empt (R340) -/

/-- A block of a cluster has an outstanding `col`. -/
def State.colOut (s : State) (cid : Nat) : Bool :=
  s.engs.any fun p => (s.cluster cid).blocks.contains p.2.block && match p.2.kind with
    | .col _ _ _ => true
    | _ => false

/-- Resident clusters of a launch. -/
def State.clustersOf (s : State) (lid : Nat) : List Nat :=
  (s.clusters.filter fun p => p.2.live && !p.2.saved && p.2.launch = lid).map Prod.fst

/-- Clusters of a launch asked to leave their cores; a coresident launch leaves as a whole, and none with an outstanding
`col` is chosen. -/
def State.askLeave (s : State) (cs : List Nat) : State := cs.foldl (fun s c => s.updCluster c fun c => { c with preempt := true }) s

/-- Launches from which a launch of a priority may take clusters: lower priority, PRE set, the same function. -/
def State.victims (s : State) (l : Launch) : List (Nat × Launch) :=
  sortBy (fun a b => decide (a.2.prio < b.2.prio) || (a.2.prio == b.2.prio && decide (b.2.readyAt ≤ a.2.readyAt)))
    (s.launches.filter fun p => p.2.active && p.2.pre && p.2.vf = l.vf && p.2.prio < l.prio)

/-- One more victim for a launch whose next cluster does not fit: the latest-started cluster of the first launch that has one. -/
def State.pickVictim (s : State) : List (Nat × Launch) → Option State
  | [] => none
  | p :: t =>
    let cs := s.clustersOf p.1
    if cs = [] || (p.2.cor && cs.any s.colOut) then s.pickVictim t
    else if p.2.cor then some (s.askLeave cs)
    else match cs.reverse.find? fun c => !s.colOut c with
      | some c => some (s.askLeave [c])
      | none => s.pickVictim t

/-- A cluster of a function is leaving its cores. -/
def State.funcLeaves (s : State) (vf : Nat) : Bool :=
  s.clusters.any fun p => p.2.live && p.2.preempt && !p.2.saved && (s.launch? p.2.launch).any fun l => l.vf = vf

/-- The first launch of a list that finds a victim takes it; a coresident launch holds those behind it (R331, R340). -/
def State.roomFor (s : State) : List (Nat × Launch) → State
  | [] => s
  | p :: t => match s.pickVictim (s.victims p.2) with
    | some s => s
    | none => if p.2.cor then s else s.roomFor t

/-- Of each function whose turn it is, the first launch with clusters to place that finds one takes a victim, unless a cluster of the
function is leaving (R340, R376). -/
def State.makeRoom (s : State) : State :=
  ((List.range 8).filterMap s.turnFunc).foldl (fun s f =>
    if s.funcLeaves f then s else s.roomFor (s.dispatchOrder.filter fun p => p.2.vf = f)) s

/-- Clusters of a launch that may leave their cores now: all of a coresident one or none, and none with an outstanding `col` (R340). -/
def State.mayLeave (s : State) (p : Nat × Launch) : List Nat :=
  let cs := (s.clustersOf p.1).filter fun c => !(s.cluster c).preempt
  if p.2.cor then (if cs.any s.colOut then [] else cs) else cs.filter fun c => !s.colOut c

/-- Clusters of functions whose slice is over, which had an outstanding `col` then, leave their cores once they may (R340, R376). -/
def State.askLate (s : State) : State :=
  (s.launches.filter fun p => p.2.active && p.2.pre && !p.2.stays && s.turnFunc (s.partOf p.2.vf) != some p.2.vf).foldl
    (fun s p => s.askLeave (s.mayLeave p)) s

/-- The dispatcher considers the ready launches (R331). -/
def State.dispatch (s : State) : State :=
  let s := (List.range 8).foldl (fun s part => match s.turnFunc part with
    | some f => if (Map.get s.slices (0, 0) part).1 = f then s
        else { s with slices := Map.set s.slices (0, 0) part (f, s.time) }
    | none => s) s
  (s.askLate.dispatchList s.dispatchOrder []).makeRoom

/-! ## Completion of a launch (R324, R327, R328) -/

/-- The address space of a launch's signal (R328): the slot's for code 0x0003 and for a `launch` header rejected, the
header's otherwise. None when nothing is written. -/
def State.signalSpace (s : State) (l : Launch) (code : Nat) : Option (Nat × Nat) :=
  if l.sigVa = 0 ∨ 2 ^ 52 ≤ l.sigVa ∨ l.sigVa % 8 ≠ 0 ∨ l.hdr.length < 128 then none
  else if code = 3 then
    if l.parent.isSome || bitsOf (Map.get s.queues Queue.reset l.queue).ctl.toNat 13 8 = l.vf then some (l.vf, l.asid) else none
  else if l.parent.isSome then some (l.vf, l.asid)
  else some (l.vfF, l.asidF)

/-- The signal event written (R328): under the table loaded for the ASID, or without placement when none is loaded. A
write that faults is not made. -/
def State.signal (s : State) (l : Launch) (code : Nat) : State :=
  match s.signalSpace l code with
  | none => s
  | some (vf, asid) =>
    let bs := bytesOf 4 (l.f 0x54 4) ++ bytesOf 4 code
    match (if s.plt vf asid = [] then s.cpWriteRaw vf asid l.sigVa bs else s.cpWrite vf asid l.sigVa bs) with
    | some s => s
    | none => s

/-- A launch's signal has to wait for a port that is not usable yet (R383). -/
def State.signalClosed (s : State) (l : Launch) (code : Nat) : Bool := match s.signalSpace l code with
  | none => false
  | some (vf, asid) => s.cpClosed vf asid l.sigVa .write

/-- The entry of a launch is done (R324). -/
def State.freeEntry (s : State) (lid : Nat) (l : Launch) : State :=
  { s with queues := Map.upd s.queues Queue.reset l.queue fun q => if q.busy = some lid then { q with busy := none } else q }

/-- The signals that waited for a port, in their order: each that still has to wait stays (R383). -/
def State.lateSignals (s : State) : State :=
  s.hub.late.foldl (fun s x => match s.launch? x.1 with
    | none => s
    | some l => if s.signalClosed l x.2 then s.updHub fun h => { h with late := h.late ++ [x] }
      else (s.signal l x.2).freeEntry x.1 l) (s.updHub fun h => { h with late := [] })

/-- A launch completes with a code: signal, queue entry done, granule copies freed (R324, R328, R435). Its entry is not done before its
signal is written, which may have to wait (R383). -/
def State.complete (s : State) (lid code : Nat) : State :=
  match s.launch? lid with
  | none => s
  | some l =>
    let closed := s.signalClosed l code
    let s := if closed then s.updHub fun h => { h with late := h.late ++ [(lid, code)] } else s.signal l code
    let s := { s with granules := s.granules.filter fun g => g.launch != lid }
    let s := s.setLaunch lid { l with st := .finished, code := BitVec.ofNat 16 code, waypoint := false, wset := [] }
    let s := if closed then s else s.freeEntry lid l
    if s.hub.abort = some lid then s.updHub fun h => { h with abort := none } else s

/-! ## The end of warps, blocks and grids (R49 to R53) -/

/-- Whether a warp has an operation outstanding (R50): one in memory, in an engine or in the matrix engine. -/
def State.hasOps (s : State) (uid : Nat) : Bool :=
  s.ops.any (fun p => p.2.uid = uid) || s.engs.any (fun p => p.2.uid = uid) || s.mats.any (fun p => p.2.uid = uid)

/-- The grid has completed when every cluster has (R53). -/
def State.gridCheck (s : State) (lid : Nat) : State :=
  match s.launch? lid with
  | none => s
  | some l =>
    if l.active && l.grid ≤ l.doneCl then
      (s.complete lid (if l.aborted then 0x0A else if l.lateFault then 0x09 else 0)).dispatch
    else s

/-- A block's resources released (R52, R104): its slices, windows, locks and barriers. -/
def State.freeBlock (s : State) (bid : Nat) : State :=
  let b := s.block bid
  let s := b.cores.foldl (fun s c => s.updCore c fun k =>
    { k with windows := k.windows.filter fun w => w.1 != bid, locks := k.locks.filter fun x => x.block != bid,
             tracker := k.tracker.filter fun t => t.2 != bid }) s
  let s := { s with blocks := Map.set s.blocks Block.none bid Block.none,
                    scratch := Map.dropRange s.scratch (spKey bid 0 0) (spKey (bid + 1) 0 0),
                    side := Map.dropRange s.side (sideKey bid 0 0) (sideKey (bid + 1) 0 0),
                    saved := Map.erase s.saved bid }
  b.cores.foldl (fun s c => if s.blocks.any (fun p => p.2.live && p.2.cores.contains c) then s
    else s.updCore c fun k => { k with split := 0 }) s

/-- A cluster whose blocks are all gone completes: its group space is freed (R104). -/
def State.clusterCheck (s : State) (cid : Nat) : State :=
  let c := s.cluster cid
  if c.live && c.blocks.all fun b => !(s.block b).live then
    let s := { s with clusters := Map.set s.clusters Cluster.none cid Cluster.none,
                      gspace := Map.dropRange s.gspace (gsKey cid 0) (gsKey (cid + 1) 0) }
    let s := s.updLaunch c.launch fun l => { l with doneCl := l.doneCl + 1 }
    s.gridCheck c.launch
  else s

/-- Some tracker entry holds a warp of the block (R51). -/
def State.tracked (s : State) (bid : Nat) : Bool := s.cores.any fun p => p.2.tracker.any fun t => t.2 = bid

/-- A block completes when its last warp has ended and its tracker entries are freed (R52). -/
def State.blockCheck (s : State) (bid : Nat) : State :=
  let b := s.block bid
  if b.live && b.warps ≤ b.ended && !s.tracked bid then
    let s := s.freeBlock bid
    let s := s.clusterCheck b.cluster
    s.dispatch
  else s

/-- Tracker entries of warps with nothing outstanding are freed, and their blocks checked (R51, R52). -/
def State.reap (s : State) (uid : Nat) : State :=
  if s.hasOps uid then s
  else match List.find? (fun p => p.2.tracker.any fun t => t.1 = uid) s.cores with
    | none => s
    | some (c, k) =>
      let bid := ((k.tracker.find? fun t => t.1 = uid).map Prod.snd).getD 0
      let s := s.updCore c fun k =>
        { k with tracker := k.tracker.filter fun t => t.1 != uid, log := k.log.filter fun e => e.uid != uid }
      s.blockCheck bid

/-- A warp ends (R50): slot and registers freed, outstanding operations to the tracker, pending faults against the launch; the dispatcher
considers what was freed (R331). -/
def State.endWarp (s : State) (slot : Nat) : State :=
  let w := s.warp slot
  let s := if w.deferred != [] then s.updLaunch w.launch fun l => { l with lateFault := true } else s
  let s := if s.hasOps w.uid then s.updCore (coreOf slot) fun k => { k with tracker := k.tracker ++ [(w.uid, w.block)] }
    else s.updCore (coreOf slot) fun k => { k with log := k.log.filter fun e => e.uid != w.uid }
  let s := s.setWarp slot Warp.empty
  let s := { s with xq := Map.upd s.xq [] (quadOf slot) fun q => q.filter fun r => r.1 != slot }
  let s := s.updBlock w.block fun b => { b with ended := b.ended + 1 }
  (s.blockCheck w.block).dispatch

/-! ## Abort (R395, R437, R448, R451) -/

/-- Slots that hold warps of a launch. -/
def State.slotsOf (s : State) (lid : Nat) : List Nat := (s.warps.filter fun p => p.2.live && p.2.launch = lid).map Prod.fst

/-- Every block of a launch ends: its warps leave, its operations are abandoned, its faults withdrawn from their groups
(R395, R436). -/
def State.endBlocks (s : State) (lid : Nat) : State :=
  let uids := (s.slotsOf lid).map (fun k => (s.warp k).uid) ++ s.cores.flatMap fun c =>
    (c.2.tracker.filter fun t => (s.block t.2).launch = lid).map Prod.fst
  let s : State := { s with cores := s.cores.map fun p => (p.1, { p.2 with log := p.2.log.filter fun e => !uids.contains e.uid }) }
  let s := (s.slotsOf lid).foldl (fun s k => s.setWarp k Warp.empty) s
  let s := (s.ops.filter fun p => p.2.launch = lid).foldl (fun s p =>
    p.2.lanes.foldl (fun s l => s.setL1 p.2.core p.2.vf p.2.asid l.2.addr.toNat none) s) s
  let s := { s with ops := s.ops.filter fun p => p.2.launch != lid, engs := s.engs.filter fun p => p.2.launch != lid,
                    mats := s.mats.filter fun p => p.2.launch != lid,
                    xq := s.xq.map fun p => (p.1, p.2.filter fun r => (s.warp r.1).live) }
  let s := (List.filter (fun p => p.2.launch = lid) s.blocks).foldl (fun s p => s.freeBlock p.1) s
  (List.filter (fun p => p.2.launch = lid) s.clusters).foldl (fun s p =>
    { s with clusters := Map.set s.clusters Cluster.none p.1 Cluster.none,
             gspace := Map.dropRange s.gspace (gsKey p.1 0) (gsKey (p.1 + 1) 0) }) s

/-- A launch is aborted: every block ends and it completes with code 0x000A (R395, R437). -/
def State.abortLaunch (s : State) (lid : Nat) : State := ((s.endBlocks lid).complete lid 0x0A).dispatch

end Sys2Proof.Machine
end

