-- ==== Sys2Proof/Machine/Ops.lean ====
section
/-! DEFINITION. The named operations of a warp: advancing and ending a clause (R31 to R33), meeting points and mask waits
(R36, R40), exits and barriers (R41, R49, R243), taking a trap (R387 to R390), returning from one (R391), delivering a
deferred fault (R394), the unhandled trap (R395), and the checks every instruction meets at issue (R61, R65, R233). -/

namespace Sys2Proof.Machine

/-! ## Readiness, meeting points and mask waits -/

/-- What a thread that stops waiting becomes: running, or one of the trapped threads again where its group handles a trap
(R388). -/
def Warp.awake (w : Warp) (l : Nat) : TState :=
  match w.trap with
  | some (t, .handling) => if t.group.getLsbD l then .trapped else .running
  | _ => .running

/-- The threads of `m` become ready together, with one age (R32). -/
def Warp.wake (w : Warp) (m : Mask) (age : Nat) : Warp := w.updThrs m fun l t => { t with st := w.awake l, age }

/-- One release of R40: the threads held in `kwait` on a register whose every thread has arrived. -/
def Warp.kRelease (w : Warp) (age k : Nat) : Warp :=
  let a := Map.get w.arrive 0 k
  if a != 0 && w.k k &&& ~~~a == 0 then { w.wake a age with arrive := Map.set w.arrive 0 k 0 } else w

/-- Running threads that stand at a header equal to their MR become held (R36). -/
def Warp.mrHold (w : Warp) : Warp :=
  w.updThrs (w.lanes fun t => t.st == .running && t.cl == none && t.mr == some t.pc) fun _ t => { t with st := .heldMr }

/-- Every thread whose MR is `m` is held there or has exited (R36). -/
def Warp.met (w : Warp) (m : DWord) : Bool :=
  (List.range 32).all fun l => (w.thr l).mr != some m || (w.thr l).st == .heldMr || (w.thr l).st == .exited

/-- The release of a meeting point that lane `l` is held at, when it is met: MR none, one PC group (R36). -/
def Warp.mrRelease (w : Warp) (age l : Nat) : Warp :=
  let m := (w.thr l).pc
  if (w.thr l).st == .heldMr && w.met m then
    w.updThrs (w.lanes fun t => t.st == .heldMr && t.pc == m) fun _ t => { t with st := .running, mr := none, age }
  else w

/-- Running threads at clause headers, which form PC groups (R31). -/
def Warp.atHeaders (w : Warp) : Mask := w.lanes fun t => t.st == .running && t.cl == none && t.replay.isNone

/-- The oldest age among the threads of a list that stand at a PC. -/
def Warp.oldestAt (w : Warp) (pc : DWord) : List Nat → Nat → Nat
  | [], age => age
  | l :: t, age => if (w.thr l).pc = pc then w.oldestAt pc t (min age (w.thr l).age) else w.oldestAt pc t age

/-- Running threads whose PCs have become equal at a clause header form one group with the oldest of their ages (R31). -/
def Warp.merge (w : Warp) : Warp :=
  let m := w.atHeaders
  let ls := lanesOf m
  w.updThrs m fun _ t => { t with age := w.oldestAt t.pc ls t.age }

/-- Mask waits and meeting points checked after a change of a thread's state or of a mask (R36, R41). -/
def Warp.released (w : Warp) (age : Nat) : Warp :=
  let w := ((List.range 11).map (· + 1)).foldl (fun w k => w.kRelease age k) w
  (List.range 32).foldl (fun w l => w.mrRelease age l) w.mrHold

/-- The same, and groups that have met merged (R31). -/
def Warp.settle (w : Warp) (age : Nat) : Warp := (w.released age).merge

/-- The same for the warp of a slot. -/
def State.settle (s : State) (slot : Nat) : State := (s.updWarp slot fun w => w.settle s.stamp).bump

/-! ## Advancing through a clause -/

/-- A thread leaves its clause: no latch is captured any more (R65). -/
def Thread.leave (t : Thread) : Thread := { t with cl := none, l0 := Latch.none, l1 := Latch.none, l2 := Latch.none, replay := none, owes := false }

/-- A thread moves on by `n` words; past the clause's last word it stands at the next header (R157, R160). -/
def Thread.advance (t : Thread) (n : Nat) : Thread :=
  let pc := t.pc + BitVec.ofNat 64 (4 * n)
  match t.cl with
  | some c => if c.stop.toNat ≤ pc.toNat then { t.leave with pc } else { t with pc, replay := none, owes := false }
  | none => { t with pc, replay := none, owes := false }

/-- A parked or exited thread does not move on with its group. -/
def Thread.stays (t : Thread) : Bool :=
  match t.st with
  | .parked _ => true
  | .exited => true
  | .waitPage _ _ _ _ => true
  | .waitHtu _ => true
  | _ => false

/-- The group's turn at the end of a clause: it goes on while its threads still stand together, and its clauses are counted
while another group is ready (R33); the clauses of a handler are not (R54). The stamp is the time of the clause's end (R336). -/
def Warp.endTurn (w : Warp) (stamp : Nat) : Warp :=
  let w := { w with issue := 0, stamp }
  if w.trap.isSome then w
  else if w.turnStands && (w.thr (lowest w.turnMask)).cl == none then { w with turn := if w.othersReady then w.turn + 1 else 0 }
  else { w with turn := 0, turnMask := 0 }

/-- After an instruction: the issue mask keeps the threads that still issue; at the clause's end the turn is judged (R33). -/
def Warp.reissue (w : Warp) (m : Mask) (stamp : Nat) : Warp :=
  let left := maskOf fun l => m.getLsbD l && w.mayIssue (w.thr l)
  if left != 0 && (w.thr (lowest left)).cl != none then { w with issue := left } else w.endTurn stamp

/-- Lanes of `m` that were held and released at once as the warp `w` settled to `x`: they are ready anew (R32, R36, R40). -/
def Warp.renewed (w x : Warp) (m : Mask) : Mask := m &&& maskOf fun l => (w.thr l).age < (x.thr l).age

/-- The warp settled after its issuing group has moved. Threads that were held and released at once form a group of their own, which at a
header joins the others that stand there (R31), and the turn of the group that they stood in ends (R33, R40). -/
def Warp.settleTurn (w : Warp) (age : Nat) : Warp :=
  let x := w.released age
  let r := w.renewed x w.issue
  if r = 0 then x.merge else { x.merge with issue := x.issue &&& ~~~r, turn := 0, turnMask := 0 }

/-- The issuing group moves on by `n` words (R157), and what that decides is checked. -/
def State.finish (s : State) (n : Nat) : State :=
  let s := s.updCw fun w => w.updThrs w.issue fun _ t => if t.stays then t else t.advance n
  (s.updCw fun w => let x := w.settleTurn s.stamp; x.reissue x.issue s.stamp).bump

/-- Threads go to targets at the end of a clause: those of `to` to `tgt`, the others to the next header; when they go both
ways the ones that continue are the older group (R32, R252). -/
def State.branch (s : State) (tgt : DWord) (to_ : Mask) : State :=
  let w := s.cw
  let m := w.issue
  let moved := m &&& to_
  let split := moved != 0 && moved != m
  let s := s.updCw fun w =>
    let w := w.updThrs (m &&& ~~~to_) fun _ t => { t.advance 1 with age := if split then s.stamp else t.age }
    let w := w.updThrs moved fun _ t => { t.leave with pc := tgt, age := if split then s.stamp + 1 else t.age }
    w.settleTurn (s.stamp + 2)
  let s := { s with stamp := s.stamp + 3 }
  (s.updCw fun w => w.endTurn s.stamp).bump

/-! ## Barriers (R240 to R244) -/

/-- Slots of the warps of a block. -/
def State.blockSlots (s : State) (bid : Nat) : List Nat :=
  (s.warps.filter fun p => p.2.live && p.2.block = bid).map Prod.fst

/-- Slots of the warps of a cluster's blocks. -/
def State.clusterSlots (s : State) (cid : Nat) : List Nat := (s.cluster cid).blocks.flatMap s.blockSlots

/-- Live threads of a list of warps. -/
def State.liveThreads (s : State) (slots : List Nat) : Nat :=
  ((slots.filter fun k => (s.warp k).role.counts).map fun k => countOf (s.warp k).alive).sum

/-- A barrier number's bit. -/
def bit16 (n : Nat) : BitVec 16 := 1#16 <<< n

/-- The threads of a warp that wait on a barrier. -/
def Warp.waitsOn (w : Warp) (cluster : Bool) (n : Nat) : Mask :=
  w.lanes fun t => t.st == .waitBar cluster (BitVec.ofNat 4 n)

/-- The completion of a wait is an acquire (R144): at `grp` scope it invalidates the L1 (R131). -/
def State.barAcquire (s : State) (slot : Nat) (grp : Bool) : State :=
  if grp then s.dropL1 (coreOf slot) else s.updWarp slot fun w => { w with acqMark := s.nextId }

/-- The waiting threads of a barrier released in one cycle: armed clear, running (R243). -/
def State.barRelease (s : State) (cluster grp : Bool) (n : Nat) (slots : List Nat) : State :=
  let s := slots.foldl (fun s k =>
    let m := (s.warp k).waitsOn cluster n
    if m = 0 then s
    else (s.updWarp k fun w =>
      let w := (w.wake m s.stamp).updThrs m fun _ t =>
        if cluster then { t with armC := t.armC &&& ~~~bit16 n } else { t with armB := t.armB &&& ~~~bit16 n }
      w.settle s.stamp).barAcquire k grp) s
  s.bump

/-- check_completion of R243 on block barrier `n`. -/
def State.barCheck (s : State) (bid n : Nat) : State :=
  let b := s.block bid
  let x := Map.get b.bars Barrier.start n
  let slots := s.blockSlots bid
  if x.count != 0 && x.count == s.liveThreads slots then
    (s.updBlock bid fun b => { b with bars := Map.set b.bars Barrier.start n ⟨!x.phase, 0⟩ }).barRelease false (1 < b.cores.length) n slots
  else s

/-- check_completion on cluster barrier `n` (R244). -/
def State.cbarCheck (s : State) (cid n : Nat) : State :=
  let c := s.cluster cid
  let x := Map.get c.bars Barrier.start n
  let slots := s.clusterSlots cid
  if x.count != 0 && x.count == s.liveThreads slots then
    (s.updCluster cid fun c => { c with bars := Map.set c.bars Barrier.start n ⟨!x.phase, 0⟩ }).barRelease true true n slots
  else s

/-- Arrivals that leave with exiting threads: each one armed for the current phase (R243). -/
def armedHere (w : Warp) (m : Mask) (cluster : Bool) (n : Nat) (phase : Bool) : Nat :=
  countOf (m &&& w.lanes fun t =>
    if cluster then t.armC.getLsbD n && t.phC.getLsbD n == phase else t.armB.getLsbD n && t.phB.getLsbD n == phase)

/-- The counts of a block's barriers drop by the arrivals of exiting threads (R243). -/
def leaveBars (bars : Map Barrier) (w : Warp) (m : Mask) (cluster : Bool) : Map Barrier :=
  (List.range 16).foldl (fun bs n =>
    let x := Map.get bs Barrier.start n
    Map.set bs Barrier.start n { x with count := x.count - armedHere w m cluster n x.phase }) bars

/-- The exit of the threads of `m` completes a phase of a block or cluster barrier (R243): of one at `grp` scope, or of any. -/
def State.exitCompletes (s : State) (slot : Nat) (m : Mask) (wideOnly : Bool) : Bool :=
  let w := s.warp slot
  let b := s.block w.block
  let gone := countOf (m &&& w.alive)
  let done := fun (cluster : Bool) (bars : Map Barrier) (live : Nat) => (List.range 16).any fun n =>
    let x := Map.get bars Barrier.start n
    let c := x.count - armedHere w m cluster n x.phase
    c != 0 && c + gone == live
  w.role.counts && ((!(wideOnly && b.cores.length < 2) && done false b.bars (s.liveThreads (s.blockSlots w.block)))
    || done true (s.cluster b.cluster).bars (s.liveThreads (s.clusterSlots b.cluster)))

/-- Threads exit (R41, R49, R243): state, mask bits, barrier counts; the barriers and waits they decide are checked. -/
def State.exitThreads (s : State) (slot : Nat) (m : Mask) : State :=
  let w := s.warp slot
  let cid := (s.block w.block).cluster
  let s := if w.role.counts then
      let s := s.updBlock w.block fun b => { b with bars := leaveBars b.bars w m false }
      s.updCluster cid fun c => { c with bars := leaveBars c.bars w m true }
    else s
  let s := s.updWarp slot fun w =>
    let w := w.updThrs m fun _ t => { t.leave with st := .exited }
    { w with kregs := (List.range 11).foldl (fun ks i => Map.upd ks 0 (i + 1) (· &&& ~~~m)) w.kregs }
  let s := (List.range 16).foldl (fun s n => (s.barCheck w.block n).cbarCheck cid n) s
  s.settle slot

/-! ## The trap frame (R389, R390, R398) -/

/-- Op field of a word, for INFO [7:0]. -/
def opField (w : Word) : Nat :=
  match w.toNat / 2 ^ 28 with
  | 0x0 => bitsOf w.toNat 27 22
  | 0x1 => bitsOf w.toNat 27 22
  | 0x2 => bitsOf w.toNat 27 23
  | 0x3 => bitsOf w.toNat 27 19
  | 0x4 => bitsOf w.toNat 27 24
  | 0x5 => bitsOf w.toNat 27 20
  | 0x6 => bitsOf w.toNat 27 22
  | 0x7 => bitsOf w.toNat 27 23
  | 0x8 => bitsOf w.toNat 27 22
  | 0x9 => bitsOf w.toNat 27 24
  | 0xA => bitsOf w.toNat 27 24
  | 0xB => bitsOf w.toNat 27 23
  | 0xC => bitsOf w.toNat 27 22
  | _ => 0

/-- Header of the clause that the issuing group stands in; its PC where that is a header. -/
def Warp.hdr (w : Warp) : DWord := match w.clause with
  | some c => c.hdr
  | none => w.pc

/-- The current instruction's words. -/
def Warp.iw0 (w : Warp) : Word := match w.clause with | some c => c.word w.pc | none => 0
def Warp.iw1 (w : Warp) : Word := match w.clause with | some c => c.word (w.pc + 4) | none => 0

/-- Whether the current instruction has two words (R396). -/
def Warp.iTwo (w : Warp) : Bool := match w.clause with | some _ => isTwo w.iw0 | none => false

/-- A trap at the current instruction or header of the issuing group; the fields by class are added by its raiser. -/
def Warp.trapHere (w : Warp) (code : Nat) : TrapInfo :=
  { code := BitVec.ofNat 16 code, deferF := false, engineF := false, fetchF := false, two := w.iTwo, imm := 0, pc := w.pc,
    npc := w.pc, iw0 := w.iw0, iw1 := if w.iTwo then w.iw1 else 0, lanes := 0, group := w.issue, addr := 0, elem := 0, info := 0,
    orig := 0, recs := [] }

/-- Header address for HDR: that of the clause that holds PC (R389). -/
def Warp.frameHdr (w : Warp) (t : TrapInfo) : DWord :=
  match (w.thr (lowest t.group)).cl with
  | some c => if c.hdr = t.pc then 0 else c.hdr
  | none => 0

/-- FLAGS (R389). -/
def TrapInfo.flags (t : TrapInfo) (mid : Bool) : Nat :=
  b2n t.deferF + 2 * b2n t.engineF + 4 * b2n t.fetchF + 8 * b2n t.two + 16 * b2n mid + 32 * b2n (t.recs != [])

/-- LATV: latches captured at PC (R389). -/
def Warp.latv (w : Warp) (t : TrapInfo) : Nat :=
  let th := w.thr (lowest t.group)
  b2n th.l0.cap + 2 * b2n th.l1.cap + 4 * b2n th.l2.cap

/-- Bytes 0x000 to 0x07F of the frame (R389). -/
def Warp.frameHead (w : Warp) (t : TrapInfo) (time : Nat) : List Byte :=
  let hdr := w.frameHdr t
  let mid := hdr != 0
  bytesOf 2 t.code.toNat ++ bytesOf 2 (t.flags mid) ++ bytesOf 2 t.imm.toNat ++ bytesOf 2 0 ++ bytesOf 8 t.pc.toNat
    ++ bytesOf 8 t.npc.toNat ++ bytesOf 8 hdr.toNat ++ bytesOf 4 t.iw0.toNat ++ bytesOf 4 t.iw1.toNat ++ bytesOf 4 t.lanes.toNat
    ++ bytesOf 4 t.group.toNat ++ bytesOf 8 t.addr.toNat ++ bytesOf 4 t.elem.toNat ++ bytesOf 4 t.info.toNat
    ++ bytesOf 8 t.orig.toNat ++ (List.range 6).flatMap (fun i => bytesOf 1 (w.d i)) ++ bytesOf 1 (b2n w.sc)
    ++ bytesOf 1 (if mid then w.latv t else 0) ++ bytesOf 4 w.exm.toNat ++ bytesOf 4 0 ++ bytesOf 8 time
    ++ (List.range 8).flatMap (fun i => bytesOf 4 (w.s (56 + i)).toNat)

/-- The 32 bytes of a lane record (R390). -/
def LaneRec.bytes (r : LaneRec) : List Byte :=
  bytesOf 8 r.addr.toNat ++ (wordBytes r.data ++ List.replicate 16 0).take 16 ++ bytesOf 2 r.bnd.toNat ++ bytesOf 1 r.cause.toNat
    ++ bytesOf 1 r.width.toNat ++ bytesOf 4 0

/-- The lane records, zero for lanes without one (R390). -/
def TrapInfo.recBytes (t : TrapInfo) : List Byte :=
  (List.range 32).flatMap fun l => match Map.find? t.recs l with
    | some r => r.bytes
    | none => List.replicate 32 0

/-- The latch area: values, then bounds (R389). -/
def Warp.latchBytes (w : Warp) (t : TrapInfo) : List Byte :=
  let ls := fun l => if t.group.getLsbD l then [(w.thr l).l0, (w.thr l).l1, (w.thr l).l2] else [Latch.none, Latch.none, Latch.none]
  (List.range 3).flatMap (fun j => (List.range 32).flatMap fun l => bytesOf 4 ((ls l).getD j Latch.none).val.toNat)
    ++ (List.range 3).flatMap (fun j => (List.range 32).flatMap fun l => bytesOf 2 ((ls l).getD j Latch.none).bnd.toNat)

/-- The parts of the frame that a trap writes: byte offset and bytes (R389). -/
def Warp.frameParts (w : Warp) (t : TrapInfo) (time : Nat) : List (Nat × List Byte) :=
  (0, w.frameHead t time)
    :: ((if t.recs != [] then [(0x80, t.recBytes)] else []) ++ (if w.frameHdr t != 0 then [(0x480, w.latchBytes t)] else []))

/-- Stores of a list of parts as lanes of 32 bytes, keyed by sector of the frame. -/
def frameLanes (base : DWord) (parts : List (Nat × List Byte)) : Map Lane :=
  parts.flatMap fun p => (List.range (p.2.length / 32)).map fun i =>
    (p.1 / 32 + i, { Lane.none with st := .sent, addr := base + BitVec.ofNat 64 (p.1 + 32 * i),
                                    data := wordsOf 8 ((p.2.drop (32 * i)).take 32) })

/-- An operation of a warp on its frame. -/
def Warp.frameOp (w : Warp) (slot vf asid : Nat) (kind : MemKind) (lanes : Map Lane) : MemOp :=
  { kind, slot, uid := w.uid, core := coreOf slot, launch := w.launch, block := w.block, vf, asid, pc := w.pc, iw0 := 0, iw1 := 0,
    two := false, width := .b128, scope := .core, order := .plain, aop := .iadd, rp := false, hint := 0, dst := 0, dc := 7,
    seq := w.seq, held := none, lanes, written := 0, inTrap := true }

/-- Function and ASID of a warp: its launch's (R326). -/
def State.space (s : State) (w : Warp) : Nat × Nat :=
  match s.launch? w.launch with
  | some l => (l.vf, l.asid)
  | none => (0, 0)

/-! ## Unhandled traps (R395) -/

/-- Parts of a list of bytes, 32 each. -/
def quarter (bs : List Byte) (p : Nat) : Nat := natOf ((bs.drop (32 * p)).take 32)

/-- An unhandled or double trap: the warp stops, five records are logged, and the launch is aborted (R395, R462). -/
def State.unhandled (s : State) (slot : Nat) (t : TrapInfo) (reason : Nat) : State :=
  let w := s.warp slot
  match s.launch? w.launch with
  | none => s
  | some l =>
    let head := if t.head = [] then w.frameHead t s.time else t.head
    let src := srcCore (coreOf slot)
    let first := recData (launchTag l ++ [(30, 1, reason), (31, 1, quadOf slot % 4), (32, 2, coreOf slot), (34, 1, slot % 16)])
    let parts := (List.range 4).map fun p => (0x0202, src, recData [(24, 32, quarter head p), (56, 1, p)])
    let s := s.logGroup s.time ((0x0201, src, first) :: parts)
    s.abortLaunch w.launch

/-! ## Taking a trap (R387, R388) -/

/-- The frame stores update the core's L1 as they are sent, like every store (R108, R388). -/
def State.frameToL1 (s : State) (core vf asid : Nat) (base : DWord) (parts : List (Nat × List Byte)) : State :=
  parts.foldl (fun s p => (List.range (p.2.length / 32)).foldl (fun s i =>
    let va := base.toNat + p.1 + 32 * i
    s.l1Store core vf asid va [(va % 128, (p.2.drop (32 * i)).take 32)] 0) s) s

/-- Steps 1 and 2 of R388: the registers are checked, the frame stores leave, and the trapped group waits. The turn of another group
goes on after `rte` (R54); a fence that waits is met anew. -/
def State.enterTrap (s : State) (slot : Nat) (t : TrapInfo) : State :=
  let w := s.warp slot
  if w.tvec = 0 || w.tframe = 0 || w.tframe.toNat % 128 ≠ 0 then s.unhandled slot t 1
  else if (w.frameParts t s.time).any fun p => 2 ^ 52 < w.tframe.toNat + p.1 + p.2.length then s.unhandled slot t 2
  else
    let (vf, asid) := s.space w
    let (id, s) := s.fresh
    let parts := w.frameParts t s.time
    let op := w.frameOp slot vf asid .frameSt (frameLanes w.tframe parts)
    let s := (s.setOp id { op with seq := w.seq + 1 }).frameToL1 (coreOf slot) vf asid w.tframe parts
    s.updWarp slot fun w =>
      { w.updThrs t.group (fun _ th => { th with st := .trapWait }) with
        trap := some ({ t with head := w.frameHead t s.time }, .entering [id]), issue := 0, seq := w.seq + 1,
        turn := if t.group &&& w.turnMask = 0 then w.turn else 0, turnMask := if t.group &&& w.turnMask = 0 then w.turnMask else 0,
        hold := match w.hold with | .fence _ => .none | h => h }

/-- An instruction of the warp is under way: a load-class operation whose lanes are not settled, or `icinv`. -/
def Warp.underWay (w : Warp) : Bool := match w.hold with
  | .access _ => true
  | .icinv _ _ _ => true
  | _ => false

/-- Trapped threads: those of the trapped group that have not exited (R388). -/
def Warp.trapped (w : Warp) : Mask :=
  match w.trap with
  | some (t, _) => t.group &&& w.alive
  | none => 0

/-- A trap joins those that wait, its threads with it. -/
def Warp.awaitTrap (w : Warp) (t : TrapInfo) : Warp :=
  { w.updThrs t.group (fun _ th => { th with st := .trapWait }) with trapQueue := w.trapQueue ++ [t] }

/-- The oldest waiting trap is taken, once the warp has left trap mode (R387); any one of threads that handle a trap is a double trap
(R393, R430). -/
def State.nextTrap (s : State) (slot : Nat) : State :=
  let w := s.warp slot
  match w.trapQueue.find? fun t => w.inTrap && t.group &&& w.trapped != 0 with
  | some t => s.unhandled slot t 4
  | none => match w.trapQueue with
    | [] => s
    | t :: rest =>
      if w.trap.isSome || w.underWay then s
      else (s.updWarp slot fun w => { w with trapQueue := rest }).enterTrap slot t

/-- A trap of the issuing group at the current instruction: a double trap in trap mode (R393), else entry (R388), after traps that have
waited longer (R387). This is the one way in which an instruction takes an exception. -/
def State.takeTrap (s : State) (t : TrapInfo) : State :=
  if s.cw.inTrap then s.unhandled s.cur t 4
  else if s.cw.trapQueue = [] then s.enterTrap s.cur t
  else (s.updCw fun w => { w.awaitTrap t with issue := 0 }).nextTrap s.cur

/-- A trap of threads that are not issuing (parked lanes, R425; a deferred answer): it waits while another trap of the warp
lasts or has waited longer (R387), and while an instruction of another group is under way. -/
def State.queueTrap (s : State) (slot : Nat) (t : TrapInfo) : State :=
  if (s.warp slot).trap.isSome || (s.warp slot).underWay || (s.warp slot).trapQueue != [] then s.updWarp slot fun w => w.awaitTrap t
  else s.enterTrap slot t

/-- Illegal Instruction with a cause, LANES the group (R398). -/
def State.illegal (s : State) (cause : Nat) : State :=
  s.takeTrap { s.cw.trapHere (0x0100 + cause) with lanes := s.cw.issue }

/-- Illegal Instruction cause 0x0A with its target (R398). -/
def State.badTarget (s : State) (tgt : DWord) : State :=
  s.takeTrap { s.cw.trapHere 0x010A with lanes := s.cw.issue, addr := tgt }

/-- Step 3 of R388: the trapped threads enter trap mode with `%exm` all ones and PC := `%tvec`. -/
def Warp.startHandler (w : Warp) (t : TrapInfo) (age : Nat) : Warp :=
  { w.updThrs t.group (fun _ th => { th.leave with st := .trapped, pc := w.tvec, age }) with
    trap := some (t, .handling), exm := BitVec.allOnes 32, issue := 0 }

/-! ## Deferred faults (R394, R429) -/

/-- Which deferred faults a delivery point delivers: all, or those of the counters in a mask (R394). -/
def Deferred.due (d : Deferred) (counters : Option (BitVec 6)) : Bool :=
  match counters with
  | none => true
  | some m => d.dc.toNat < 6 && m.getLsbD d.dc.toNat

/-- The oldest pending fault that this point delivers to the issuing group, and the rest. -/
def Warp.pendingFor (w : Warp) (counters : Option (BitVec 6)) : Option (Deferred × List Deferred) :=
  match w.deferred.find? fun d => d.owners &&& w.issue != 0 && d.due counters with
  | none => none
  | some d => some (d, w.deferred.erase d)

/-- A delivery point (R394): a pending fault is delivered as a trap before the point takes effect; otherwise `k`. `iw0` is the word at
the point (R389). -/
def State.deliver (s : State) (counters : Option (BitVec 6)) (k : State → State) (iw0 : Word := s.cw.iw0) : State :=
  if s.cw.inTrap then k s
  else match s.cw.pendingFor counters with
    | none => k s
    | some (d, rest) =>
      let here := { s.cw.trapHere d.info.code.toNat with iw0 }
      let i := d.info
      let t := if i.engineF then
          { here with engineF := true, iw0 := i.iw0, iw1 := i.iw1, two := i.two, lanes := i.lanes, addr := i.addr, info := i.info,
                      orig := i.orig, recs := i.recs }
        else
          { here with deferF := true, lanes := i.lanes, addr := i.addr, info := i.info, orig := i.orig, recs := i.recs }
      (s.updCw fun w => { w with deferred := rest, hold := .none }).enterTrap s.cur t

/-- The limit of four undelivered faults makes an instruction a delivery point (R429). -/
def State.deliverFull (s : State) (k : State → State) : State :=
  if 4 ≤ s.cw.deferred.length then s.deliver none k else k s

/-- A fault of an operation that has issued is recorded for its warp, or against the launch when the warp has ended
(R52, R394). -/
def State.defer (s : State) (slot uid launch : Nat) (d : Deferred) : State :=
  if (s.warp slot).live && (s.warp slot).uid = uid then s.updWarp slot fun w => { w with deferred := w.deferred ++ [d] }
  else s.updLaunch launch fun l => { l with lateFault := true }

/-! ## Leaving trap mode (R388, R391) -/

/-- A word at an offset of the frame bytes read. -/
def frameWord (bs : List Byte) (off : Nat) : Word := BitVec.ofNat 32 (natOf ((bs.drop off).take 4))
def frameDword (bs : List Byte) (off : Nat) : DWord := BitVec.ofNat 64 (natOf ((bs.drop off).take 8))

/-- s56 to s63, `sc` and `%exm` restored from frame bytes (R388, R391). -/
def Warp.restore (w : Warp) (bs : List Byte) : Warp :=
  let w := (List.range 8).foldl (fun w i => w.setS (56 + i) (frameWord bs (0x60 + 4 * i))) w
  { w with sc := (bs.getD 0x4E 0).getLsbD 0, exm := frameWord bs 0x50 }

/-- A latch lane restored from the frame (R391); its bound is one of R81, where 0xFF is unbounded. -/
def latchAt (bs : List Byte) (j l : Nat) : Latch :=
  ⟨frameWord bs (0x480 + 128 * j + 4 * l), bndNorm (BitVec.ofNat 16 (natOf ((bs.drop (0x600 + 64 * j + 2 * l)).take 2))), true⟩

/-- A thread's latches restored where LATV says so (R391). -/
def Thread.relatch (t : Thread) (bs : List Byte) (l : Nat) : Thread :=
  let v := bs.getD 0x4F 0
  { t with l0 := if v.getLsbD 0 then latchAt bs 0 l else Latch.none,
           l1 := if v.getLsbD 1 then latchAt bs 1 l else Latch.none,
           l2 := if v.getLsbD 2 then latchAt bs 2 l else Latch.none }

/-- Destination registers of a load-class instruction that lie in extended blocks, from its first word: of GMEM, or a load or an atomic of
SPAD (R164, R174, R175). -/
def dstExtended (iw0 : Word) (two : Bool) : Bool :=
  if two then 32 ≤ (iw0.extractLsb' 15 7).toNat && iw0.extractLsb' 22 6 != 0x06
  else iw0.extractLsb' 28 4 = 7 && 32 ≤ (iw0.extractLsb' 16 7).toNat

/-- A trap of lanes that were parked at a load-class instruction with its destination in extended blocks (R314). -/
def TrapInfo.extended (t : TrapInfo) : Bool := t.recs != [] && !t.deferF && t.code.toNat / 256 = 2 && dstExtended t.iw0 t.two

/-- The trapped threads resume: inside a clause with its latches, or at a header (R391). -/
def Warp.resume (w : Warp) (bs : List Byte) (npc : DWord) (cl : Option Clause) (age : Nat) : Warp :=
  let m := w.trapped
  let mid := (bs.getD 2 0).getLsbD 4
  let owes := w.trap.any fun t => t.1.extended && t.1.pc = npc
  let w := (w.restore bs).updThrs m fun l t =>
    let t := { t.leave with st := .running, pc := npc, cl, age, owes }
    if mid && cl != none then t.relatch bs l else t
  { w with trap := none, issue := 0 }

/-- The reads that leaving trap mode makes: the frame's head, and the latch area when the frame has one (R391). -/
def rteLanes (base : DWord) (mid : Bool) : Map Lane :=
  let rd := fun i : Nat => (i, { Lane.none with st := .sent, addr := base + BitVec.ofNat 64 (32 * i) })
  (List.range 4).map rd ++ (if mid then (List.range 18).map fun i => rd (36 + i) else [])

/-- A condition at `rte`, or at the end of the last trapped thread: a double trap of the threads still trapped (R391, R393). -/
def Warp.trapAtRte (w : Warp) (code : Nat) : TrapInfo := { w with issue := w.trapped }.trapHere code

/-- Trap mode begins to end: the frame is read by an operation. -/
def State.leaveTrap (s : State) (slot : Nat) (resume : Bool) : State :=
  let w := s.warp slot
  match w.trap with
  | none => s
  | some (t, _) =>
    let (vf, asid) := s.space w
    let (id, s) := s.fresh
    let op := w.frameOp slot vf asid .frameLd (rteLanes w.tframe resume)
    (s.setOp id op).updWarp slot fun w => { w with trap := some (t, .leaving id resume), issue := 0 }

/-! ## Checks at issue -/

/-- What an instruction reads and writes of the warp's registers: vector and scalar registers, and latches read. -/
structure Uses where
  vr : List Nat
  vw : List Nat
  sr : List Nat
  sw : List Nat
  lat : List Nat

/-- Whether an operation still has registers to write: a load-class operation. -/
def MemKind.returns : MemKind → Bool
  | .ld => true
  | .atom => true
  | .cas => true
  | .sld => true
  | _ => false

/-- How many registers an operation writes at its destination. -/
def MemOp.dstCount (o : MemOp) : Nat :=
  match o.width with
  | .b64 => 2
  | .b128 => 4
  | _ => 1

/-- An interlocked operation, dc 7, of the warp has a register of the lists as its destination (R233). -/
def State.interlocked (s : State) (u : Uses) : Bool :=
  s.ops.any fun p =>
    p.2.slot = s.cur && p.2.uid = s.cw.uid && p.2.dc = 7 && p.2.kind.returns
      && (let rs := if p.2.kind == .sld then u.sr ++ u.sw else u.vr ++ u.vw
          rs.any fun r => p.2.dst ≤ r && r < p.2.dst + p.2.dstCount)

/-- A vector register of a block that the warp does not hold (R61). -/
def Warp.unheld (w : Warp) (r : Nat) : Bool := w.xblocks < r / 32

/-- A latch not captured earlier in the clause (R65). -/
def Warp.latchMissing (w : Warp) (i : Nat) : Bool :=
  let t := w.thr w.lead
  match i with
  | 0 => !t.l0.cap
  | 1 => !t.l1.cap
  | _ => !t.l2.cap

/-- Step 4 of R392 for registers and latches, after the interlock (R233): an instruction that must wait does not issue. -/
def State.guard (s : State) (u : Uses) (k : State → State) : State :=
  if s.interlocked u then s
  else if (u.vr ++ u.vw).any s.cw.unheld then s.illegal 0x0B
  else if u.lat.any s.cw.latchMissing then s.illegal 0x0C
  else k s

end Sys2Proof.Machine
end

