-- ==== Sys2Proof/Machine/Operands.lean ====
section
/-! DEFINITION. Reading source operands in every form (R166 to R168), the VWIDE modifiers (R195), the cross-lane patterns
(R205), and writing results with captures (R192, R196). -/

namespace Sys2Proof.Machine

/-! ## Sources -/

/-- How an instruction reads an f32 constant (R168). -/
inductive ReadAs where
  | word | f16 | bf16
deriving DecidableEq, Repr

/-- The FP32 pattern of a constant code 0xE0 + c: 0.5, 1, 2, 4 and their negatives (R166, R168). -/
def fkWord (c : BitVec 3) : Word := 0x3F000000#32 + BitVec.ofNat 32 (c.toNat % 4 * 2 ^ 23 + c.toNat / 4 * 2 ^ 31)

/-- The constant's element form, in both halves, for f16 and bf16 sources (R168). -/
def fkElem (as_ : ReadAs) (c : BitVec 3) : Word :=
  match as_ with
  | .word => fkWord c
  | .f16 => let h := 0x3800 + c.toNat % 4 * 0x400 + c.toNat / 4 * 0x8000; BitVec.ofNat 32 (h * 65537)
  | .bf16 => BitVec.ofNat 32 ((fkWord c).toNat / 65536 * 65537)

/-- A latch as a source. -/
def Latch.lv (l : Latch) : LV := ⟨l.val, l.bnd⟩

/-- A 32-bit source in a lane; scalars, constants and `%` sources are exact (R83, R166, R168). -/
def Warp.rd (w : Warp) (as_ : ReadAs) (x : Src) (l : Nat) : LV :=
  match x with
  | .v r => w.v r.toNat l
  | .s r => ⟨w.s r.toNat, bndExact⟩
  | .int n => ⟨n.setWidth 32, bndExact⟩
  | .fk c => ⟨fkElem as_ c, bndExact⟩
  | .l0 => (w.thr l).l0.lv
  | .l1 => (w.thr l).l1.lv
  | .l2 => (w.thr l).l2.lv
  | .laneid => ⟨BitVec.ofNat 32 l, bndExact⟩
  | .exm => ⟨w.exm, bndExact⟩
  | .sc => ⟨BitVec.ofNat 32 (b2n w.sc), bndExact⟩

/-- A vector pair as one value: the larger of its bounds (R60). -/
def Warp.pair (w : Warp) (r l : Nat) : DWord × Bnd :=
  ((w.v (r + 1) l).val ++ (w.v r l).val, bndMax (w.v r l).bnd (w.v (r + 1) l).bnd)

/-- A 64-bit source in a lane: a pair, or zero-extended (R166). -/
def Warp.rd64 (w : Warp) (x : Src) (l : Nat) : DWord × Bnd :=
  match x with
  | .v r => w.pair r.toNat l
  | .s r => (w.s64 r.toNat, bndExact)
  | _ => ((w.rd .word x l).val.setWidth 64, bndExact)

/-- A scalar source (R167): it does not depend on the lane. -/
def Warp.rdS (w : Warp) (x : Src) : Word := (w.rd .word x 0).val
def Warp.rdS64 (w : Warp) (x : Src) : DWord := (w.rd64 x 0).1

/-! ## What an instruction names -/

/-- Nothing read or written. -/
def Uses.none : Uses := ⟨[], [], [], [], []⟩

/-- The registers `r` to `r + n - 1`. -/
def regRun (r n : Nat) : List Nat := (List.range n).map (r + ·)

/-- A source of `n` registers added. -/
def Uses.src (u : Uses) (n : Nat) (x : Src) : Uses :=
  match x with
  | .v r => { u with vr := regRun r.toNat n ++ u.vr }
  | .s r => { u with sr := regRun r.toNat n ++ u.sr }
  | .l0 => { u with lat := 0 :: u.lat }
  | .l1 => { u with lat := 1 :: u.lat }
  | .l2 => { u with lat := 2 :: u.lat }
  | _ => u

/-- Sources of one register each added. -/
def Uses.srcs (u : Uses) (xs : List Src) : Uses := xs.foldl (fun u x => u.src 1 x) u

/-- A vector or scalar destination of `n` registers added. -/
def Uses.dstV (u : Uses) (r n : Nat) : Uses := { u with vw := regRun r n ++ u.vw }
def Uses.dstS (u : Uses) (r n : Nat) : Uses := { u with sw := regRun r n ++ u.sw }
def Uses.srcV (u : Uses) (r n : Nat) : Uses := { u with vr := regRun r n ++ u.vr }
def Uses.srcS (u : Uses) (r n : Nat) : Uses := { u with sr := regRun r n ++ u.sr }

/-! ## Modifiers (R195) and patterns (R205) -/

/-- neg and abs on an FP32 value. -/
def modF32 (neg abs : Bool) (x : LV) : LV :=
  let v := if abs then x.val &&& 0x7FFFFFFF#32 else x.val
  { x with val := if neg then v ^^^ 0x80000000#32 else v }

/-- neg and abs on both elements of a packed value. -/
def modPacked (neg abs : Bool) (x : LV) : LV :=
  let v := if abs then x.val &&& 0x7FFF7FFF#32 else x.val
  { x with val := if neg then v ^^^ 0x80008000#32 else v }

/-- The lane that lane `l` reads src0 from under a pattern, if it lies in 0 to 31 (R205). -/
def xlLane (xl l : Nat) : Option Nat :=
  match xl with
  | 0 => some l
  | 1 => some (l ^^^ 1)
  | 2 => some (l ^^^ 2)
  | 3 => some (l ^^^ 4)
  | 4 => some (l ^^^ 8)
  | 5 => some (l ^^^ 16)
  | 6 => some (l / 4 * 4)
  | 7 => some (l / 4 * 4 + 1)
  | 8 => some (l / 4 * 4 + 2)
  | 9 => some (l / 4 * 4 + 3)
  | 10 => some ((l + 31) % 32)
  | 11 => some ((l + 1) % 32)
  | 12 => if l = 0 then none else some (l - 1)
  | 13 => if l = 31 then none else some (l + 1)
  | 14 => some (31 - l)
  | _ => some 0

/-- src0 of a VWIDE instruction in lane `l`, from the effective lanes `e` (R205). -/
def Warp.rdX (w : Warp) (as_ : ReadAs) (xl : BitVec 4) (e : Mask) (x : Src) (l : Nat) : LV :=
  if xl = 0 then w.rd as_ x l
  else match xlLane xl.toNat l with
    | some j => if e.getLsbD j then w.rd as_ x j else LV.zero
    | none => LV.zero

/-! ## Results -/

/-- `f` of each lane of `m` written to a vector register, all read from the warp before (R192). -/
def Warp.writeV (w : Warp) (m : Mask) (r : Nat) (f : Nat → LV) : Warp :=
  (lanesOf m).foldl (fun w l => w.setV r l (f l)) w

/-- `f` of each lane written to a pair, with one bound (R60). -/
def Warp.write64 (w : Warp) (m : Mask) (r : Nat) (f : Nat → DWord × Bnd) : Warp :=
  (lanesOf m).foldl (fun w l =>
    let x := f l
    (w.setV r l ⟨x.1.setWidth 32, x.2⟩).setV (r + 1) l ⟨BitVec.ofNat 32 (x.1.toNat / 2 ^ 32), x.2⟩) w

/-- A thread's latch `i`, 1 to 3 for l0 to l2, written. -/
def Thread.setLatch (t : Thread) (i : Nat) (x : Latch) : Thread :=
  match i with
  | 1 => { t with l0 := x }
  | 2 => { t with l1 := x }
  | 3 => { t with l2 := x }
  | _ => t

/-- A capture: the result in effective lanes, zero and exact in the other lanes of the group (R196). -/
def Warp.capture (w : Warp) (cap : BitVec 2) (e : Mask) (f : Nat → LV) : Warp :=
  if cap = 0 then w
  else w.updThrs w.issue fun l t =>
    let x := if e.getLsbD l then f l else LV.zero
    t.setLatch cap.toNat ⟨x.val, x.bnd, true⟩

/-- The registers that a VWIDE instruction names: its sources, and a destination of `n` registers unless `nw`. -/
def wideUses (m : Wide) (n : Nat) (xs : List Src) : Uses :=
  let u := Uses.none.srcs xs
  if m.nw then u else u.dstV m.d.toNat n

/-- A VBIN instruction (R192): `f` of the lane over the warp before. -/
def State.vbin (s : State) (d : VReg) (xs : List Src) (f : Warp → Nat → LV) : State :=
  s.guard ((Uses.none.srcs xs).dstV d.toNat 1) fun s =>
    (s.updCw fun w => w.writeV w.eff d.toNat (f w)).finish 1

/-- A VWIDE instruction with a 32-bit result: `f` of the effective lanes, the warp and the lane (R196). -/
def State.vwide (s : State) (m : Wide) (xs : List Src) (f : Mask → Warp → Nat → LV) : State :=
  s.guard (wideUses m 1 xs) fun s =>
    (s.updCw fun w =>
      let e := w.effP m.pred
      let w' := if m.nw then w else w.writeV e m.d.toNat (f e w)
      w'.capture m.cap e (f e w)).finish 2

/-- A VX instruction with a 32-bit result. -/
def State.vx (s : State) (p : Pred) (d : VReg) (xs : List Src) (f : Mask → Warp → Nat → LV) : State :=
  s.guard ((Uses.none.srcs xs).dstV d.toNat 1) fun s =>
    (s.updCw fun w => let e := w.effP p; w.writeV e d.toNat (f e w)).finish 2

/-- An SBIN or SIMM instruction that writes a scalar register (R192). -/
def State.sbin (s : State) (d : SReg) (u : Uses) (f : Warp → Word) : State :=
  s.guard (u.dstS d.toNat 1) fun s => (s.updCw fun w => w.setS d.toNat (f w)).finish 1

/-- One that writes a scalar pair. -/
def State.sbin64 (s : State) (d : SReg) (u : Uses) (f : Warp → DWord) : State :=
  s.guard (u.dstS d.toNat 2) fun s => (s.updCw fun w => w.setS64 d.toNat (f w)).finish 1

end Sys2Proof.Machine
end

