-- ==== Sys2Proof/Machine/Flags.lean ====
section
/-! DEFINITION. The condition bit `sc` (R64, R199), `%unc` (R71, R88) with the uncertain-comparison trap (R208, R404), and
writes of mask registers by compares (R207, R209). -/

namespace Sys2Proof.Machine

/-- A scalar compare: `sc` set to the outcome (R64, R199, R200). -/
def State.setSc (s : State) (u : Uses) (f : Warp → Bool) : State :=
  s.guard u fun s => (s.updCw fun w => { w with sc := f w }).finish 1

/-- Whether the launch of a warp traps uncertain comparisons: `%assure` bit 1 (R67, R208). -/
def State.uncTraps (s : State) (w : Warp) : Bool :=
  match s.launch? w.launch with
  | some l => l.uncTrap
  | none => false

/-- The bits of the effective lanes of a mask register replaced (R207). -/
def Warp.putK (w : Warp) (k : KReg) (e bits : Mask) : Warp := w.setK k.toNat ((w.k k.toNat &&& ~~~e) ||| (bits &&& e))

/-- A VCMP compare by lane: outcome and uncertainty (R207, R208). In trap mode it never traps (R393, R404). -/
def State.compare (s : State) (d : KReg) (u : Uses) (f : Warp → Nat → Bool × Bool) : State :=
  s.guard u fun s =>
    let w := s.cw
    let e := w.eff
    let hits := maskOf fun l => (f w l).1
    let unsure := e &&& maskOf fun l => (f w l).2
    let s := s.updCw fun w => { w.putK d e hits with unc := w.unc ||| unsure }
    if unsure != 0 && s.uncTraps s.cw && !s.cw.inTrap then
      let t := { s.cw.trapHere 0x0501 with npc := s.cw.pc + 4, lanes := unsure }
      (s.settle s.cur).takeTrap t
    else s.finish 1

/-- A mask register written whole (R209, R210); the release conditions of R40 are checked again. -/
def State.writeK (s : State) (d : KReg) (u : Uses) (f : Warp → Mask) : State :=
  s.guard u fun s => (s.updCw fun w => w.setK d.toNat (f w)).finish 1

end Sys2Proof.Machine
end

