-- ==== Sys2Proof/Machine/Compare.lean ====
section
/-! DEFINITION. Compares, mask logic and votes: VCMP (R172, R207 to R210). -/

namespace Sys2Proof.Machine

/-- A compare of two sources read as `g` reads them (R207). -/
def State.vcmp (s : State) (d : KReg) (cond : Cond) (as_ : ReadAs) (g : LV → Opnd) (a b : Src) : Out :=
  .next (s.compare d (Uses.none.srcs [a, b]) fun w l => compareFV cond (g (w.rd as_ a l)) (g (w.rd as_ b l)))

/-- A 32-bit integer as a value with its bound. -/
def opInt (f : Fmt) (x : LV) : Opnd := ⟨decodeFmt f x.val.toNat, x.bnd⟩

/-- `cmp.cond.f32`. -/
def execCmpF32 (d : KReg) (cond : Cond) (a b : Src) (s : State) : Out := s.vcmp d cond .word opF32 a b

/-- `cmp.cond.f16`: element 0. -/
def execCmpF16 (d : KReg) (cond : Cond) (a b : Src) (s : State) : Out := s.vcmp d cond .f16 (fun x => elem spF16 x 0) a b

/-- `cmp.cond.bf16`: element 0. -/
def execCmpBf16 (d : KReg) (cond : Cond) (a b : Src) (s : State) : Out := s.vcmp d cond .bf16 (fun x => elem spBf16 x 0) a b

/-- `cmp.cond.s32`. -/
def execCmpS32 (d : KReg) (cond : Cond) (a b : Src) (s : State) : Out := s.vcmp d cond .word (opInt .s32) a b

/-- `cmp.cond.n32`. -/
def execCmpN32 (d : KReg) (cond : Cond) (a b : Src) (s : State) : Out := s.vcmp d cond .word (opInt .n32) a b

/-- `cmp.eq.b64` and `cmp.ne.b64`: bits of pairs, without bounds. -/
def execCmpB64 (d : KReg) (cond : Cond) (a b : Src) (s : State) : Out :=
  .next (s.compare d ((Uses.none.src 2 a).src 2 b) fun w l =>
    let same := (w.rd64 a l).1 == (w.rd64 b l).1
    (if cond == .ne then !same else same, false))

/-! ## Whole mask registers (R209) -/

/-- `kand`. -/
def execKand (d a b : KReg) (s : State) : Out := .next (s.writeK d Uses.none fun w => w.k a.toNat &&& w.k b.toNat)

/-- `kor`. -/
def execKor (d a b : KReg) (s : State) : Out := .next (s.writeK d Uses.none fun w => w.k a.toNat ||| w.k b.toNat)

/-- `kxor`. -/
def execKxor (d a b : KReg) (s : State) : Out := .next (s.writeK d Uses.none fun w => w.k a.toNat ^^^ w.k b.toNat)

/-- `kandn`. -/
def execKandn (d a b : KReg) (s : State) : Out := .next (s.writeK d Uses.none fun w => w.k a.toNat &&& ~~~w.k b.toNat)

/-- `knot`. -/
def execKnot (d a : KReg) (s : State) : Out := .next (s.writeK d Uses.none fun w => ~~~w.k a.toNat)

/-- `kmov kD, kA`. -/
def execKmovK (d a : KReg) (s : State) : Out := .next (s.writeK d Uses.none fun w => w.k a.toNat)

/-- `kmov kD, sA`. -/
def execKmovFromS (d : KReg) (a : Src) (s : State) : Out := .next (s.writeK d (Uses.none.srcs [a]) fun w => w.rdS a)

/-- `kmov sD, kA`. -/
def execKmovToS (d : SReg) (a : KReg) (s : State) : Out := .next (s.sbin d Uses.none fun w => w.k a.toNat)

/-! ## Votes (R210) -/

/-- Effective lanes whose source is not zero. -/
def Warp.voters (w : Warp) (a : Src) : Mask := w.eff &&& maskOf fun l => (w.rd .word a l).val != 0

/-- `vote.ballot`. -/
def execVoteBallot (d : KReg) (a : Src) (s : State) : Out := .next (s.writeK d (Uses.none.srcs [a]) fun w => w.voters a)

/-- `vote.any`. -/
def execVoteAny (d : KReg) (a : Src) (s : State) : Out :=
  .next (s.writeK d (Uses.none.srcs [a]) fun w => if w.voters a = 0 then 0 else BitVec.allOnes 32)

/-- `vote.all`: also with no effective lane. -/
def execVoteAll (d : KReg) (a : Src) (s : State) : Out :=
  .next (s.writeK d (Uses.none.srcs [a]) fun w => if w.voters a = w.eff then BitVec.allOnes 32 else 0)

end Sys2Proof.Machine
end

