-- ==== Sys2Proof/Machine/Fetch.lean ====
section
/-! DEFINITION. Fetching the words of a clause (R123, R124, R160 to R162, R251), page requests (R418 to R422), and the test
of a branch target (R161, R254). -/

namespace Sys2Proof.Machine

/-! ## The order of requests, and held writes (R133, R134, R428) -/

/-- A kind that writes memory. -/
def MemKind.writes : MemKind → Bool
  | .st => true | .atom => true | .red => true | .cas => true | .matSt => true | .frameSt => true | .through => true
  | _ => false

/-- The place of a lane among the requests of its core: a write-through stands where its atomic stood, a release that was held where it was
sent (R130, R133, R134). -/
def MemOp.placeOf (o : MemOp) (id part : Nat) : Nat × Nat :=
  if o.place.1 = 0 then (id, part) else if o.kind == .through then o.place else (o.place.1, part)

/-- One place comes before another. -/
def before (a b : Nat × Nat) : Bool := a.1 < b.1 || (a.1 = b.1 && a.2 < b.2)

/-- Kinds of engine operation whose transfers write global memory. -/
def EngKind.outward : EngKind → Bool
  | .cpyTOut => true | .cpyBOut => true | .cpyRed _ _ => true | .col _ _ _ => true
  | _ => false

/-- Held at its home for a page request, or not yet applied since its answer (R428). -/
def LaneSt.held : LaneSt → Bool
  | .paged _ _ _ => true | .atHtu => true | .arrived => true | .rewalking => true | _ => false

/-- A lane that holds its line: also one whose answer has come and that then waits for a promotion. -/
def Lane.held (l : Lane) : Bool := l.st.held || (l.waited && match l.st with
  | .promoting _ => true
  | _ => false)

/-- Its page request has been answered with success. -/
def LaneSt.freed : LaneSt → Bool
  | .arrived => true | .rewalking => true | _ => false

/-- A store-side lane or an engine write is held on a line and comes before an access to it (R428): before any other access, and
of those that were held themselves, in the order of their operations. -/
def State.heldBefore (s : State) (vf asid line : Nat) (me : Option (Nat × Nat)) : Bool :=
  let mine := fun (y : Nat × Nat) => match me with | some x => before y x | none => true
  (s.ops.any fun q => q.2.kind.writes && !q.2.kind.returns && q.2.vf = vf && q.2.asid = asid && q.2.lanes.any fun p =>
      p.2.addr.toNat / 128 = line && p.2.held && mine (q.2.placeOf q.1 p.1))
    || s.engs.any fun q => q.2.kind.outward && q.2.st != .descriptor && q.2.fault == none && q.2.vf = vf && q.2.asid = asid
      && (List.range q.2.xfers.length).any fun i => match q.2.xfers[i]? with
        | some x => x.held && mine (q.1, i) && x.pieces.any fun p => p.dst / 128 = line
        | none => false

/-! ## Reading instruction lines -/

/-- What came of reading a fetch line. -/
inductive Fetched where
  | ok (s : State) (bs : List Byte) (poison : BitVec 4)
  /-- A translation is missing, or the line cannot be read yet: behind a held write (R428), or beyond a port (R383, R454). -/
  | walk
  /-- A fault, by its trap code. -/
  | fault (code : Nat)

/-- Function, ASID and domain of a warp's fetches. -/
def State.fetchWho (s : State) (slot : Nat) : Who :=
  let (vf, asid) := s.space (s.warp slot)
  ⟨vf, asid, domainOf (coreOf slot), 0⟩

/-- A line put into a core's instruction cache (R107). -/
def State.fillI (s : State) (core : Nat) (w : Who) (va : Nat) (c : CLine) : State :=
  let key := lineKey core w.vf w.asid va
  { s with icache := Map.set (roomIn s.icache icacheCap core key) none key (some c) }

/-- A fetch line as a warp reads it: from the words fetched ahead, the instruction cache, or its home, whole (R124, R251). -/
def State.fetchLine (s : State) (slot va : Nat) : Fetched :=
  if 2 ^ 52 ≤ va then .fault 0x0201
  else
    let line := va / 128
    match Map.find? (s.warp slot).fetched line with
    | some bs => .ok s bs 0
    | none =>
      let w := s.fetchWho slot
      match Map.get s.icache none (lineKey (coreOf slot) w.vf w.asid va) with
      | some c => .ok s c.data c.poison
      | none =>
        if s.heldBefore w.vf w.asid line none then .walk
        else match s.touch w va .exec with
        | .ok s key =>
          match s.hline key with
          | some h => .ok (s.fillI (coreOf slot) w va h.line) h.line.data h.line.poison
          | none => .fault 0x0205
        | .port p => if s.away p.pa then .walk else match s.portLine w va p with
          | some c => .ok (s.fillI (coreOf slot) w va c) c.data c.poison
          | none => .ok s (s.peeks (p.pa / 128 * 128) 128) (s.paPoisons (p.pa / 128 * 128))
        | .walk _ _ _ => .walk
        | .fault c => .fault (0x0200 + c.toNat)
        | .abort => .fault 0x0C01

/-- One word of the instruction stream. -/
inductive FetchedWord where
  | ok (s : State) (w : Word)
  | walk (va : Nat)
  | fault (code : Nat) (va : Nat)

def State.fetchWord (s : State) (slot va : Nat) : FetchedWord :=
  match s.fetchLine slot va with
  | .ok s bs p =>
    if p.getLsbD (secOf va) then .fault 0x0209 va
    else .ok s (BitVec.ofNat 32 (natOf ((bs.drop (va % 128)).take 4)))
  | .walk => .walk va
  | .fault c => .fault c va

/-- The words of `n` instructions from an address on (R157, R162): none of them issues before all are fetched. -/
inductive FetchedClause where
  | ok (s : State) (ws : List Word)
  | walk (va : Nat)
  | fault (code : Nat) (va : Nat)

def State.fetchClause (s : State) (slot va : Nat) : Nat → FetchedClause
  | 0 => .ok s []
  | n + 1 =>
    match s.fetchWord slot va with
    | .walk a => .walk a
    | .fault c a => .fault c a
    | .ok s w =>
      if isTwo w then
        match s.fetchWord slot (va + 4) with
        | .walk a => .walk a
        | .fault c a => .fault c a
        | .ok s w1 => match s.fetchClause slot (va + 8) n with
          | .ok s ws => .ok s (w :: w1 :: ws)
          | r => r
      else match s.fetchClause slot (va + 4) n with
        | .ok s ws => .ok s (w :: ws)
        | r => r

/-- A read of instruction words waits for a walk: an operation of one lane holds the warp (R162, R255). -/
def State.fetchWalk (s : State) (kind : MemKind) (va : Nat) : State :=
  let w := s.cw
  let (vf, asid) := s.space w
  let (id, s) := s.fresh
  let op := { w.frameOp s.cur vf asid kind [(0, { Lane.none with st := .walking, addr := BitVec.ofNat 64 va })] with inTrap := w.inTrap, sentAt := s.time }
  (s.setOp id op).updCw fun w => { w with hold := .access id }

/-- A fetch fault at a header: PC = NPC = the header, FETCH set (R162, R392, R398). A `%tvec` that fails so is unhandled. -/
def State.fetchFault (s : State) (code va : Nat) (iw0 : Word) (info : Word) : State :=
  s.takeTrap { s.cw.trapHere code with lanes := s.cw.issue, addr := BitVec.ofNat 64 va, fetchF := true, iw0, info }

/-- IW0 of a fetch fault (R389): the word of the clause's header, when the fault at `va` did not prevent reading it. -/
def State.headerIw0 (s : State) (va : Nat) : Word :=
  if va = s.cw.hdr.toNat then 0 else match s.fetchWord s.cur s.cw.hdr.toNat with
    | .ok _ w => w
    | _ => 0

/-! ## Branch and `meet` targets (R161, R254, R392) -/

/-- What the test of a target finds. -/
inductive Target where
  | header (s : State)
  | notHeader
  | range
  | walk (va : Nat)
  | fault (code : Nat)

/-- The test of R254, in its order: computed low bits, address range, header form. -/
def State.testTarget (s : State) (tgt : DWord) : Target :=
  if tgt.toNat % 4 ≠ 0 then .notHeader
  else if 2 ^ 52 ≤ tgt.toNat then .range
  else match s.fetchWord s.cur tgt.toNat with
    | .ok s w => if isHeader w then .header s else .notHeader
    | .walk a => .walk a
    | .fault c _ => .fault c

/-! ## Page requests (R418 to R422) -/

/-- Outstanding groups of a queue. -/
def State.outGroups (s : State) (vf stage : Nat) : List PageGroup := s.groups.filter fun g => g.vf = vf && g.stage = stage

/-- The page a fault is grouped by: the VA's for stage 1, the guest physical address's for stage 2 (R422). -/
def faultPage (f : WalkFault) (va : Nat) : Nat := (if f.stage = 1 then va else f.gpa) / 4096

/-- The next group index not outstanding (R422). -/
def freeIndex (used : List Nat) (i : Nat) : Nat → Nat
  | 0 => i % 65536
  | n + 1 => if used.contains (i % 65536) then freeIndex used (i + 1) n else i % 65536

/-- ACCESS of a record (R421). -/
def accessByte (read write fetch atomic engine shadow table : Bool) : Nat :=
  b2n read + 2 * b2n write + 4 * b2n fetch + 8 * b2n atomic + 16 * b2n engine + 32 * b2n shadow + 64 * b2n table

/-- The 32 bytes of a record (R421). -/
def pageRecord (f : WalkFault) (access group vf asid va : Nat) : List Byte :=
  bytesOf 2 0x0F01 ++ bytesOf 1 f.stage ++ bytesOf 1 access ++ bytesOf 2 group ++ bytesOf 2 asid ++ bytesOf 8 va
    ++ bytesOf 8 (if f.stage = 2 then f.gpa else 0) ++ bytesOf 1 vf ++ bytesOf 1 f.level ++ bytesOf 1 f.cause ++ bytesOf 5 0

/-- What becomes of a translation fault at the hub (R420, R422). -/
inductive Paged where
  /-- It belongs to this group, new or outstanding. -/
  | group (s : State) (index : Nat)
  /-- No room for a new group: it waits at its HTU. -/
  | full
  /-- The queue is not enabled: a failure at once. -/
  | failed

/-- Ring size of a queue, and whether a record fits (R420). -/
def PageQueue.size (q : PageQueue) : Nat := 2 ^ (q.ctl.toNat % 32)
def PageQueue.room (q : PageQueue) : Bool := (q.prod - q.cons).toNat < q.size

/-- A fault joins a matching group, or opens one and writes its record (R422). -/
def State.pageFault (s : State) (f : WalkFault) (access vf asid va : Nat) : Paged :=
  let q := s.pq vf f.stage
  if !q.ctl.getLsbD 15 then .failed
  else
    let gs := s.outGroups vf f.stage
    match gs.find? fun g => g.page = faultPage f va && (f.stage = 2 || g.asid = asid) with
    | some g => .group s g.index
    | none =>
      if 1024 ≤ gs.length || !q.room then .full
      else
        let i := freeIndex (gs.map (·.index)) q.next.toNat 1024
        let bs := pageRecord f access i vf asid va
        let s := s.hubPokes (bitsOf q.base.toNat 51 12 * 4096 + 32 * (q.prod.toNat % q.size)) bs
        let s := s.setPq vf f.stage { q with prod := q.prod + 1, next := BitVec.ofNat 16 (i + 1) }
        let s := { s with groups := s.groups ++ [(⟨vf, f.stage, i, asid, faultPage f va, true, bs⟩ : PageGroup)] }
        .group (if f.stage = 1 then s.raiseEvent vf 2 else s.raiseEvent 0 3) i

end Sys2Proof.Machine
end

