-- ==== Sys2Proof/Machine/Mem.lean ====
section
/-! DEFINITION. Memory operations of warps: forming and checking addresses (R103, R225), issue (R226 to R235), service at the
home, in L1 and in the cluster unit (R129, R133 to R137, R146, R432), parked lanes (R419), and the return or acknowledgement
of an operation (R130, R131, R232, R394, R427). -/

namespace Sys2Proof

/-! ## Widths, scopes, causes -/

/-- Bytes of a width (R174). -/
def Width.bytes : Width → Nat
  | .b8 => 1 | .s8 => 1 | .b16 => 2 | .s16 => 2 | .b32 => 4 | .b64 => 8 | .b128 => 16

/-- Registers of a width. -/
def Width.regs : Width → Nat
  | .b64 => 2 | .b128 => 4 | _ => 1

/-- Scope `grp` or wider (R125). -/
def Scope.wide : Scope → Bool
  | .wp => false
  | .core => false
  | _ => true

def Order.acquires : Order → Bool
  | .acq => true
  | .ar => true
  | _ => false

def Order.releases : Order → Bool
  | .rel => true
  | .ar => true
  | _ => false

end Sys2Proof

namespace Sys2Proof.Machine

/-! ## Causes and kinds -/

/-- The trap code of a lane's cause: memory causes as they are, 0x43 for the bound breach of `sld`, 0xC1 and 0xC3 for a
peer abort (R386, R447, R438). -/
def causeCode (c : BitVec 8) : Nat :=
  if c = 0x43 then 0x0403 else if c = 0xC1 then 0x0C01 else if c = 0xC3 then 0x0C03 else 0x0200 + c.toNat

/-- A load-class kind: its lanes park at a fault (R418). -/
def MemKind.loads (k : MemKind) : Bool := k.returns

/-- Atomic kinds. -/
def MemKind.atomic : MemKind → Bool
  | .atom => true | .red => true | .cas => true | _ => false

/-! ## Values -/

/-- The low `n` bytes of a list of words. -/
def lowBytes (n : Nat) (ws : List Word) : List Byte := (wordBytes ws).take n

/-- What a load of a width delivers from its bytes (R227). -/
def loadWords (w : Width) (bs : List Byte) : List Word :=
  match w with
  | .s8 => [(BitVec.ofNat 8 (natOf bs)).signExtend 32]
  | .s16 => [(BitVec.ofNat 16 (natOf bs)).signExtend 32]
  | .b64 => wordsOf 2 bs
  | .b128 => wordsOf 4 bs
  | _ => [BitVec.ofNat 32 (natOf bs)]

/-- The larger and the smaller of two numbers read signed or unsigned. -/
def minMax (signed max : Bool) (n a b : Nat) : Nat :=
  let x := decodeInt signed n a; let y := decodeInt signed n b
  if max then (if x ≤ y then b else a) else (if x ≤ y then a else b)

/-- The new value and its bound of an atomic on `n` bits (R100, R229): FP forms on 32 bits at P0. -/
def aopNew (op : Aop) (n old v : Nat) (bo bv : Bnd) : Nat × Bnd :=
  let ob : LV := ⟨BitVec.ofNat 32 old, bo⟩
  let vb : LV := ⟨BitVec.ofNat 32 v, bv⟩
  let int := bndInt [bo, bv]
  match op with
  | .iadd => ((old + v) % 2 ^ n, int)
  | .iminS => (minMax true false n old v, int)
  | .iminN => (minMax false false n old v, int)
  | .imaxS => (minMax true true n old v, int)
  | .imaxN => (minMax false true n old v, int)
  | .and => (Nat.land old v, int)
  | .or => (Nat.lor old v, int)
  | .xor => (Nat.xor old v, int)
  | .xchg => (v, bv)
  | .faddF32 => let r := addLane .rne ob vb; (r.val.toNat, r.bnd)
  | .fminF32 => let r := fminLane (opF32 ob) (opF32 vb); (r.val.toNat, r.bnd)
  | .fmaxF32 => let r := fmaxLane (opF32 ob) (opF32 vb); (r.val.toNat, r.bnd)
  | .faddBf16x2 =>
    let r := packLane (addElem spBf16 .rne (elem spBf16 ob 0) (elem spBf16 vb 0)) (addElem spBf16 .rne (elem spBf16 ob 1) (elem spBf16 vb 1))
    (r.val.toNat, r.bnd)

/-- The number in a list of words, low word first. -/
def natWords (ws : List Word) : Nat := natOf (wordBytes ws)

/-- One read-modify-write on `n` bytes (R229): the bytes written, none when a compare fails to match but the old value
stands with its bound, and the bound of the new value. -/
def rmw (kind : MemKind) (op : Aop) (n : Nat) (old : List Byte) (data : List Word) (bo bv : Bnd) : List Byte × Bnd :=
  let o := natOf old
  match kind with
  | .cas =>
    let k := n / 4
    if o = natWords (data.take k) then (lowBytes n (data.drop k), bv) else (old, bo)
  | _ =>
    let r := aopNew op (8 * n) o (natWords data) bo bv
    (bytesOf n r.1, r.2)

/-! ## Who, where -/

/-- The requester of an operation, towards placement (R114). -/
def MemOp.who (o : MemOp) : Who := ⟨o.vf, o.asid, domainOf o.core, o.hint⟩

/-- An operation's lane. -/
def MemOp.lane (o : MemOp) (p : Nat) : Lane := Map.get o.lanes Lane.none p
def MemOp.setLane (o : MemOp) (p : Nat) (l : Lane) : MemOp := { o with lanes := Map.set o.lanes Lane.none p l }

/-- Bytes that a lane of an operation touches. -/
def MemOp.size (o : MemOp) (p : Nat) : Nat :=
  match o.kind with
  | .frameSt => 32
  | .frameLd => 32
  | .matSt => (o.lane p).mask.length
  | .fetch => 4
  | .target => 4
  | .through => 4 * (o.lane p).data.length
  | _ => o.width.bytes

/-- The bytes that a store lane writes. -/
def MemOp.bytes (o : MemOp) (p : Nat) : List Byte := lowBytes (o.size p) (o.lane p).data

/-- INFO of a memory fault (R389, R398). -/
def memInfo (o : MemOp) (group : Nat) : Word :=
  BitVec.ofNat 32 (opField o.iw0 + o.width.code.toNat * 256 + o.scope.code.toNat * 4096 + b2n o.kind.writes * 32768 + group * 65536)

/-! ## Drain sets and pending orders (R130, R131) -/

/-- Store-class operations not yet acknowledged. -/
def MemOp.open_ (o : MemOp) : Bool := o.kind.writes

/-- The number under which an operation stands in the order of its warp's instructions: a write-through's is its atomic's (R134). -/
def MemOp.issuedAs (o : MemOp) (id : Nat) : Nat := if o.kind == .through && o.place.1 != 0 then o.place.1 else id

/-- The drain set of a warp at this point (R130): numbers of the operations. -/
def State.drainSet (s : State) (slot : Nat) : List Nat :=
  let w := s.warp slot
  (s.ops.filter fun p => p.2.open_ && ((p.2.slot = slot && p.2.uid = w.uid) || (p.2.core = coreOf slot && p.2.issuedAs p.1 < w.acqMark))).map Prod.fst

/-- Every lane of an operation has been applied at its unit, or ended: acknowledged at its home. -/
def MemOp.acked (o : MemOp) : Bool :=
  o.held == none && o.lanes.all fun p => match p.2.st with
    | .done => true
    | .fault _ => true
    | .gone => true
    | _ => false

/-- Every operation of a list is acknowledged: of an atomic that its L1 unit has performed, its write-through too (R134, R155). -/
def State.allAcked (s : State) (ids : List Nat) : Bool :=
  (ids.all fun i => match s.op? i with
    | some o => o.acked
    | none => true)
  && s.ops.all fun q => q.2.acked || !(q.2.kind == .through && ids.contains q.2.place.1)

/-- Earlier loads and atomics of a warp that have not returned. -/
def State.loadsOut (s : State) (slot : Nat) : List Nat :=
  (s.ops.filter fun p => p.2.slot = slot && p.2.uid = (s.warp slot).uid && (p.2.kind.returns || p.2.kind == .frameLd)).map Prod.fst

/-- An acquire of the warp has not completed: no later GMEM, SPAD, CPY or MAT instruction issues (R131, R234). -/
def State.acqPending (s : State) (slot : Nat) : Bool :=
  s.ops.any fun p => p.2.slot = slot && p.2.uid = (s.warp slot).uid && p.2.kind.returns && p.2.order.acquires

/-- A release of the warp holds its later stores (R130). -/
def State.relPending (s : State) (slot : Nat) : Bool :=
  s.ops.any fun p => p.2.slot = slot && p.2.uid = (s.warp slot).uid && p.2.held != none

/-- An instruction that names a counter at 63 does not issue (R66). -/
def Warp.ctrFull (w : Warp) (dc : BitVec 3) : Bool := dc.toNat < 6 && 63 ≤ w.d dc.toNat

/-! ## Range locks (R153, R412) -/

/-- Whether an access of a core to [lo, hi) touches a locked range; a read meets only destinations (R153). -/
def lockHit (locks : List LockRange) (global : Bool) (vf asid block lo hi : Nat) (write : Bool) : Option Bool :=
  match locks.find? fun r => r.global = global && (if global then r.vf = vf && r.asid = asid else r.block = block)
      && r.lo < hi && lo < r.hi && (r.dst || write) with
  | some r => some r.dst
  | none => none

/-- The lanes of an access that touch a locked range, with the cause of the lowest (R386, R412). -/
def State.lockLanes (s : State) (global : Bool) (vf asid block : Nat) (write : Bool) (ls : List (Nat × Nat × Nat)) :
    List (Nat × Nat × Nat) :=
  let locks := (s.core (coreOf s.cur)).locks
  ls.filterMap fun l => match lockHit locks global vf asid block l.2.1 (l.2.1 + l.2.2) write with
    | some d => some (l.1, l.2.1, if d then 1 else 2)
    | none => none

/-- The range-lock trap: LANES touching, ADDR of the lowest, INFO (R398, R412). -/
def State.lockTrap (s : State) (hits : List (Nat × Nat × Nat)) (info : Word) : State :=
  let h := hits.headD (0, 0, 1)
  s.takeTrap { s.cw.trapHere (0x0300 + h.2.2) with
    lanes := maskOf fun l => hits.any fun x => x.1 = l, addr := BitVec.ofNat 64 h.2.1, info }

/-! ## Sectors of a store instruction (R98) -/

/-- Lanes of an operation that write one sector: offset in the line and bytes, in ascending lane order. -/
def MemOp.sectorWrites (o : MemOp) (parts : List Nat) : List (Nat × List Byte) :=
  parts.map fun p => ((o.lane p).addr.toNat % 128, o.bytes p)

/-- The largest bound among lanes (R98). -/
def MemOp.sectorBnd (o : MemOp) (parts : List Nat) : Bnd := parts.foldl (fun b p => bndMax b (o.lane p).bnd) 0

/-- Lanes of an operation in the sector of lane `p` that satisfy `f`, ascending. -/
def MemOp.sameSector (o : MemOp) (p : Nat) (f : Lane → Bool) : List Nat :=
  (o.lanes.filter fun q => f q.2 && q.2.addr.toNat / 32 = (o.lane p).addr.toNat / 32).map Prod.fst

/-- The lanes that stand first in their sector. -/
def MemOp.sectorLeads (o : MemOp) : List Nat :=
  (o.lanes.map Prod.fst).filter fun p => (o.sameSector p fun _ => true).head? = some p

/-- The bits that parts of a `mat.st` write. -/
def MemOp.bitWrites (o : MemOp) (parts : List Nat) : BitWrites :=
  parts.flatMap fun p =>
    let l := o.lane p
    (List.range l.mask.length).map fun i => (l.addr.toNat + i, (wordBytes l.data).getD i 0, l.mask.getD i 0)

/-- The lanes of an operation that satisfy `f` cover the sector of lane `p` between them (R98, R432). -/
def MemOp.coversSector (o : MemOp) (p : Nat) (f : Lane → Bool) : Bool :=
  if o.kind == .matSt then coversBits (o.bitWrites (o.sameSector p f)) ((o.lane p).addr.toNat / 32 * 32)
  else covers (o.sectorWrites (o.sameSector p f)) (secOf (o.lane p).addr.toNat)

/-- A lane that writes its bytes, now or already. -/
def Lane.writes (l : Lane) : Bool := match l.st with
  | .fault _ => false
  | .gone => false
  | _ => true

/-- What the lanes of an operation that satisfy `f` write, laid into its core's L1 sector by sector (R98, R108). -/
def State.l1Lay (s : State) (o : MemOp) (f : Lane → Bool) : State :=
  o.sectorLeads.foldl (fun s p =>
    let ps := o.sameSector p f
    let va := (o.lane p).addr.toNat
    if ps = [] then s
    else if o.kind == .matSt then s.l1Bits o.core o.vf o.asid va (o.bitWrites ps) (o.sectorBnd ps) (o.coversSector p Lane.writes)
    else s.l1Store o.core o.vf o.asid va (o.sectorWrites ps) (o.sectorBnd ps)) s

/-- A store's own update of its core's L1, when it is sent (R108). -/
def State.l1Update (s : State) (o : MemOp) : State := s.l1Lay o fun l => l.st == .sent

/-! ## Halves (R137) -/

/-- The access is a 128-bit one of two 64-bit accesses (R137): on an unbounded page its halves are performed one by one or together. -/
def MemOp.splits (o : MemOp) : Bool := o.width == .b128 && (o.kind == .ld || o.kind == .sld || o.kind == .st)

/-- The bytes that a step performs of a lane, offset and length: 0 asks for what remains, 1 and 2 for the lower and the upper half. -/
def MemOp.span (o : MemOp) (part half : Nat) : Nat × Nat :=
  if !o.splits then (0, o.size part)
  else match half, (o.lane part).halves with
    | 0, 1#2 => (8, 8)
    | 0, 2#2 => (0, 8)
    | 1, _ => (0, 8)
    | 2, _ => (8, 8)
    | _, _ => (0, 16)

/-- The halves that bytes of a lane stand for. -/
def spanHalves (x : Nat × Nat) : BitVec 2 := if x.2 = 8 then (if x.1 = 0 then 1 else 2) else 3

/-- The lane after a step on its bytes: done when none remain. -/
def Lane.took (l : Lane) (splits : Bool) (x : Nat × Nat) : Lane :=
  let h := l.halves ||| spanHalves x
  if !splits || h = 3 then { l with st := .done, halves := 3 } else { l with halves := h }

/-- The words read by a lane after a step that read some of its bytes. -/
def Lane.gain (l : Lane) (w : Width) (splits : Bool) (x : Nat × Nat) (bs : List Byte) : List Word :=
  if splits && x.2 = 8 then splice (if l.res = [] then [0, 0, 0, 0] else l.res) (x.1 / 4) (wordsOf 2 bs) else loadWords w bs

/-! ## Group space (R102, R134) -/

/-- The cluster of an operation's block. -/
def State.opCluster (s : State) (o : MemOp) : Nat := (s.block o.block).cluster

/-- Bytes of group space. -/
def State.gsRead (s : State) (cid off n : Nat) : List Byte := (List.range n).map fun i => Map.get s.gspace 0 (gsKey cid (off + i))
def State.gsWrite (s : State) (cid off : Nat) : List Byte → State
  | [] => s
  | b :: t => State.gsWrite { s with gspace := Map.set s.gspace 0 (gsKey cid off) b } cid (off + 1) t

/-- A lane of group space after a step on its bytes: at the unit for its other half, or done (R137). -/
def Lane.tookGroup (l : Lane) (splits : Bool) (x : Nat × Nat) : Lane :=
  let l := l.took splits x
  if l.st == .done then l else { l with st := .half }

/-- One lane of a group-space access performed in the cluster unit (R136), whole or by the half asked for. Group space holds neither
bounds nor poison (R102; log 81, DESIGN CHOICE for the poison). -/
def State.gsLane (s : State) (cid : Nat) (o : MemOp) (p half : Nat) : State × Lane :=
  let l := o.lane p
  let off := l.addr.toNat
  let sp := o.span p half
  match o.kind with
  | .ld => (s, { l.tookGroup o.splits sp with res := l.gain o.width o.splits sp (s.gsRead cid (off + sp.1) sp.2), rbnd := 0 })
  | .st => (s.gsWrite cid (off + sp.1) (((o.bytes p).drop sp.1).take sp.2), l.tookGroup o.splits sp)
  | k =>
    let old := s.gsRead cid off o.width.bytes
    let r := rmw k o.aop o.width.bytes old l.data 0 l.bnd
    (s.gsWrite cid off r.1, { l with st := .done, res := loadWords o.width old, rbnd := 0 })

/-! ## Parking and resolving a load-class operation (R387, R419) -/

/-- The record of a lane in a frame (R390): data only for stores, `red` and atomics, of a write-through those of its atomic; a memory cause
of R386 or zero. -/
def MemOp.laneRec (o : MemOp) (p : Nat) (cause : BitVec 8) : LaneRec :=
  let l := o.lane p
  let (data, bnd) := l.src.getD (l.data, l.bnd)
  ⟨l.addr, if o.kind == .ld || o.kind == .sld then [] else data, if o.kind == .ld || o.kind == .sld then 0 else bnd,
    if cause.toNat < 0x40 then cause else 0, BitVec.ofNat 8 o.width.code.toNat⟩

/-- What a thread keeps when it parks at lane `p` (R419). -/
def MemOp.parked (o : MemOp) (p : Nat) (cause : BitVec 8) (group : Option (Nat × Nat × Nat)) : Parked :=
  ⟨(o.lane p).addr, (o.lane p).data, (o.lane p).bnd, cause, group, o.written, o.inst, (o.lane p).bnds⟩

/-- The threads that lane `p` stands for: the lane's, or for `sld` the whole group (R230). -/
def MemOp.threadsOf (o : MemOp) (group : Mask) (p : Nat) : Mask := if o.kind == .sld then group else 1#32 <<< p

/-- Causes of the lanes that faulted on the direct path. -/
def MemOp.faults (o : MemOp) : List (Nat × BitVec 8) :=
  o.lanes.filterMap fun p => match p.2.st with
    | .fault c => some (p.1, c)
    | _ => none

/-- A lane still under way to a result. -/
def LaneSt.busy : LaneSt → Bool
  | .sent => true | .walking => true | .arrived => true | .rewalking => true | .atHtu => true | .promoting _ => true | .half => true
  | _ => false

/-- Every lane of a load-class operation is served, parked or faulted. -/
def MemOp.settled (o : MemOp) : Bool := o.held == none && o.lanes.all fun p => !p.2.st.busy

/-- ELEM: lanes whose destination the instruction writes (R389). -/
def MemOp.elem (o : MemOp) : Mask := if o.kind == .sld then 0 else maskOf fun l => (o.lane l).st == .done

/-- The trap of the lanes that faulted on the direct path (R387, R392 step 6, R398). -/
def MemOp.loadTrap (o : MemOp) (w : Warp) (group : Mask) : TrapInfo :=
  let fs := o.faults
  let lanes := fs.foldl (fun m f => m ||| o.threadsOf group f.1) 0
  let first := fs.headD (0, 0)
  let here := w.trapHere (causeCode first.2)
  { here with pc := o.pc, npc := o.pc, iw0 := o.iw0, iw1 := o.iw1, two := o.two, lanes, group := lanes, addr := (o.lane first.1).addr,
              elem := o.written,
              info := if first.2 = 0x43 then 0 else memInfo o 0,
              recs := if first.2 = 0x43 then [] else if o.kind == .sld then (lanesOf lanes).map fun l => (l, o.laneRec 0 first.2)
                else fs.map fun f => (f.1, o.laneRec f.1 f.2) }

/-- The issuing group after a load-class instruction of `n` words whose lanes have all settled (R387): lanes on the direct
path park and trap, lanes of a page request are parked already, the others continue at the next instruction. -/
def State.settleLoad (s : State) (o : MemOp) (n : Nat) : State :=
  if o.faults = [] then s.finish n
  else
    let group := s.cw.issue
    let t := o.loadTrap s.cw group
    let s := s.updCw fun w => o.faults.foldl (fun w f =>
      w.updThrs (o.threadsOf group f.1) fun _ th => { th with st := .parked (o.parked f.1 f.2 none) }) w
    let s := s.finish n
    if s.cw.inTrap then s.unhandled s.cur t 4 else s.queueTrap s.cur t

/-- A lane that faulted has left its operation. -/
def Lane.leave (l : Lane) : Lane := match l.st with
  | .fault _ => { l with st := .gone }
  | _ => l

/-- What is kept of an instruction records the lanes that it has written (ELEM, R389, R424). -/
def Parked.record (p : Parked) (inst : Nat) (m : Mask) : Parked := if p.inst = inst then { p with elem := p.elem ||| m } else p

/-- A thread parked for an instruction, or that replays it, records the lanes that it has written. -/
def Thread.recordElem (t : Thread) (inst : Nat) (m : Mask) : Thread :=
  match t.st with
  | .parked p => { t with st := .parked (p.record inst m), replay := t.replay.map fun q => q.record inst m }
  | _ => { t with replay := t.replay.map fun q => q.record inst m }

/-- A load-class operation whose lanes have all settled lets its group go on. -/
def State.resolve (s : State) (id : Nat) : State :=
  match s.op? id with
  | none => s
  | some o =>
    if !o.kind.returns || !o.settled || (s.warp o.slot).hold != .access id then s
    else
      let s := s.updWarp o.slot fun w => { w.updThrs 0xFFFFFFFF (fun _ t => t.recordElem o.inst o.written) with hold := .none }
      let s := s.setOp id { o with lanes := o.lanes.map fun p => (p.1, p.2.leave) }
      { ({ s with cur := o.slot }).settleLoad o 2 with cur := s.cur }

/-! ## Issue -/

/-- The lanes a memory instruction acts for: a replay acts for its own lanes (R424), else the effective ones (R226). -/
def Warp.memLanes (w : Warp) : Mask :=
  if (w.thr w.lead).replay.isSome then w.issue else w.eff

/-- The address of a lane (R225), or the recorded one of a replay (R419). -/
def Warp.memAddr (w : Warp) (g : Gmem) (group : Bool) (l : Nat) : DWord :=
  match (w.thr l).replay with
  | some p => p.addr
  | none =>
    let off : DWord := if g.novoff then 0 else (w.v g.voff.toNat l).val.setWidth 64
    if group then off + g.imm.signExtend 64 else w.s64 (2 * g.pair.toNat) + off + g.imm.signExtend 64

/-- Operand words of a store-class lane, and the largest bound among those that it stores: for a compare-and-swap, the new
value's registers (R60, R100, R228, R229). -/
def Warp.memData (w : Warp) (cas : Bool) (vdata n l : Nat) : List Word × Bnd :=
  match (w.thr l).replay with
  | some p => (p.data, p.bnd)
  | none =>
    let vs := (List.range n).map fun i => w.v (vdata + i) l
    (vs.map (·.val), (if cas then vs.drop (n / 2) else vs).foldl (fun b v => bndMax b v.bnd) 0)

/-- The bounds of a lane's operand words, which a parked thread keeps (R419). -/
def Warp.memBnds (w : Warp) (vdata n l : Nat) : List Bnd :=
  match (w.thr l).replay with
  | some p => p.bnds
  | none => (List.range n).map fun i => (w.v (vdata + i) l).bnd

/-- Operand registers of a kind at a width. -/
def MemKind.operands (k : MemKind) (w : Width) : Nat :=
  match k with
  | .st => w.regs
  | .atom => w.regs
  | .red => w.regs
  | .cas => 2 * w.regs
  | _ => 0

/-- The state of a lane as the core finds it at issue: range, alignment, group range, placement (R103, R114, R392). -/
def State.coreCheck (s : State) (group : Bool) (cid : Nat) (o : MemOp) (a : DWord) : LaneSt :=
  let n := o.width.bytes
  if group then
    if a.toNat % n ≠ 0 then .fault 0x02
    else if (s.cluster cid).gspace ≤ a.toNat then .fault 0x04
    else .sent
  else if 2 ^ 52 ≤ a.toNat then .fault 0x01
  else if a.toNat % n ≠ 0 then .fault 0x02
  else if (s.region o.vf o.asid a.toNat).isNone then .fault 0x05
  else .sent

/-- A lane on its way to its effect. -/
def LaneSt.pending : LaneSt → Bool
  | .sent => true | .walking => true | .arrived => true | .rewalking => true | .atHtu => true | .paged _ _ _ => true | .promoting _ => true
  | _ => false

/-- An atomic or `red` of the core on the line of `va` that is on its way to the line's home: L1 does not show it, so an access of the
core does not use L1 there (R134, R138). -/
def State.l1Behind (s : State) (o : MemOp) (va : Nat) : Bool :=
  s.ops.any fun q => q.2.core = o.core && q.2.vf = o.vf && q.2.asid = o.asid && q.2.kind.atomic
    && q.2.lanes.any fun p => p.2.addr.toNat / 128 = va / 128 && p.2.st.pending

/-- A release of the warp on the line of a lane is still held (R130): a load of the line waits for it, also one that its core's L1 could
serve (R138). -/
def State.ownHeld (s : State) (o : MemOp) : Bool :=
  s.ops.any fun q => q.2.slot = o.slot && q.2.uid = o.uid && q.2.held != none
    && q.2.lanes.any fun p => o.lanes.any fun l => (l.2.st == .sent || l.2.st == .done) && p.2.addr.toNat / 128 = l.2.addr.toNat / 128

/-- A plain load at `wp` or `core` scope is served from an L1 line that the core holds (R129). The schedule may serve one half of a 128-bit
lane here, on an unbounded page; the other half is then read at the home (R137). -/
def State.l1Hit (s : State) (o : MemOp) (l : Lane) : Lane :=
  if (o.kind == .ld || o.kind == .sld) && o.order == .plain && !o.scope.wide && l.st == .sent && !s.l1Behind o l.addr.toNat then
    match s.l1Line o.core o.vf o.asid l.addr.toNat with
    | some c =>
      if !c.read then l
      else if c.poisoned (secOf l.addr.toNat) then { l with st := .fault 0x09 }
      else if o.kind == .sld && c.bnd (secOf l.addr.toNat) != 0 then { l with st := .fault 0x43 }
      else
        let split := o.splits && !c.bounded
        let sp := if split then ({ o with lanes := [] } : MemOp).span 0 s.torn else (0, o.width.bytes)
        { l.took split sp with res := l.gain o.width split sp (c.get (l.addr.toNat % 128 + sp.1) sp.2), rbnd := c.bnd (secOf l.addr.toNat) }
    | none => l
  else l

/-- The memory operation of a GMEM instruction, before its lanes. -/
def State.gmemOp (s : State) (kind : MemKind) (g : Gmem) : MemOp :=
  let w := s.cw
  let (vf, asid) := s.space w
  { kind, slot := s.cur, uid := w.uid, core := coreOf s.cur, launch := w.launch, block := w.block, vf, asid, pc := w.pc,
    iw0 := w.iw0, iw1 := w.iw1, two := true, width := g.width, scope := g.scope, order := g.order, aop := g.aop, rp := g.rp,
    hint := g.hint, dst := g.vdata.toNat, dc := g.dc, seq := w.seq, held := none, lanes := [], written := 0, inTrap := w.inTrap }

/-- One lane as issued. -/
def State.issueLane (s : State) (group : Bool) (cid : Nat) (o : MemOp) (g : Gmem) (l : Nat) : Lane :=
  let a := s.cw.memAddr g group l
  let (d, b) := s.cw.memData (o.kind == .cas) g.vdata.toNat (o.kind.operands o.width) l
  let l : Lane := { st := s.coreCheck group cid o a, addr := a, data := d, bnd := b, res := [], rbnd := 0, mask := [],
                    bnds := s.cw.memBnds g.vdata.toNat (o.kind.operands o.width) l }
  if group then l else s.l1Hit o l

/-- An operation of the warp in group space has a half still to perform: a later access of the warp to group space waits (R137, R138). -/
def State.groupHalf (s : State) : Bool :=
  s.ops.any fun q => q.2.slot = s.cur && q.2.uid = s.cw.uid && q.2.lanes.any fun p => p.2.st == .half

/-- Lanes of a group-space operation performed in order in the cluster unit. -/
def State.gsServe (s : State) (cid : Nat) (o : MemOp) : List Nat → State × MemOp
  | [] => (s, o)
  | p :: t =>
    if (o.lane p).st == .sent then
      let (s, l) := s.gsLane cid o p s.torn
      s.gsServe cid (o.setLane p l) t
    else s.gsServe cid o t

/-- One lane of an atomic at `wp` or `core` scope performed in the L1 atomic unit on a line that L1 holds with WRITE; its
write-through leaves for the home at the atomic's place in the order of its core (R133, R134). -/
def State.l1Atomic (s : State) (o : MemOp) (p : Nat) (place : Nat × Nat) : State × Lane :=
  let l := o.lane p
  match s.l1Line o.core o.vf o.asid l.addr.toNat with
  | some c =>
    let sec := secOf l.addr.toNat
    if !c.write then (s, l)
    else if c.poisoned sec then (s, { l with st := .fault 0x09 })
    else
      let n := o.width.bytes
      let old := c.get (l.addr.toNat % 128) n
      let r := rmw o.kind o.aop n old l.data (c.bnd sec) l.bnd
      let s := s.l1Store o.core o.vf o.asid l.addr.toNat [(l.addr.toNat % 128, r.1)] r.2
      let (id, s) := s.fresh
      let t := { o with kind := .through, dc := 7, order := if o.order.releases then .rel else .plain, held := none, place,
                        lanes := [(p, { Lane.none with st := .sent, addr := l.addr, data := wordsOf (n / 4) r.1, bnd := r.2, src := some (l.data, l.bnd) })] }
      (s.setOp id t, { l with st := .done, res := loadWords o.width old, rbnd := c.bnd sec })
  | none => (s, l)

/-- Lanes of an atomic performed in the L1 atomic unit as it issues; the others ask the home for their line. -/
def State.l1Atomics (s : State) (o : MemOp) : List Nat → State × MemOp
  | [] => (s, o)
  | p :: t =>
    if (o.lane p).st == .sent && !s.l1Behind o (o.lane p).addr.toNat then
      let (s, l) := s.l1Atomic o p (0, 0)
      s.l1Atomics (o.setLane p l) t
    else s.l1Atomics o t

/-- Lanes of an atomic performed one after another as their line has come. -/
def State.l1Performs (s : State) (o : MemOp) (id : Nat) : List Nat → State × MemOp
  | [] => (s, o)
  | p :: t =>
    let (s, l) := s.l1Atomic o p (id, p)
    s.l1Performs (o.setLane p l) id t

/-- Lines that a narrow release enters in its core's promotion log (R145): L2-homed ones. -/
def State.narrowLines (s : State) (o : MemOp) : List Nat :=
  if o.order.releases && (o.scope == .core || o.scope == .grp) && o.kind.writes then
    ((o.lanes.filter fun p => p.2.st == .sent || p.2.st == .done).map fun p => p.2.addr.toNat / 128).eraseDups.filter
      fun line => match s.region o.vf o.asid (line * 128) with
        | some r => r.mode != .pool
        | none => false
  else []

/-- Whether a log entry is of a line and a warp. -/
def PromEntry.of (e : PromEntry) (line : Nat) (o : MemOp) : Bool := e.line = line && e.vf = o.vf && e.asid = o.asid && e.uid = o.uid

/-- Entries that a release needs anew: lines without an entry of the warp (R145). -/
def newEntries (log : List PromEntry) (lines : List Nat) (o : MemOp) : Nat := (lines.filter fun x => !log.any fun e => e.of x o).length

/-- A line entered in the log, or its entry brought up to date (R145). -/
def enterLog (drain : List Nat) (o : MemOp) (log : List PromEntry) (line : Nat) : List PromEntry :=
  if log.any fun e => e.of line o then log.map fun e => if e.of line o then { e with seq := o.seq, drain } else e
  else log ++ [⟨line, o.vf, o.asid, o.uid, o.seq, drain⟩]

/-- Force-promotion (R149): oldest entries leave while the log has no room and their drain sets are acknowledged. -/
def State.forcePromote (s : State) (need : Nat) : List PromEntry → Nat → List PromEntry
  | log, 0 => log
  | [], _ => []
  | e :: t, n + 1 => if t.length + 1 + need ≤ 64 then e :: t else if s.allAcked e.drain then s.forcePromote need t n else e :: t

/-- Lanes that earlier issues of a replayed instruction have written (R424). -/
def Warp.replayElem (w : Warp) : Mask := match (w.thr w.lead).replay with
  | some p => p.elem
  | none => 0

/-- The operation of the first issue of the instruction: this one's, unless it is a replay (R424). -/
def Warp.replayInst (w : Warp) (id : Nat) : Nat := match (w.thr w.lead).replay with
  | some p => p.inst
  | none => id

/-- The operation leaves the core: counter up, log entries, its own L1 update, and for a load-class kind the warp's hold. -/
def State.launchOp (s : State) (o : MemOp) (lines : List Nat) : State :=
  let (id, s) := s.fresh
  let drain := s.drainSet s.cur
  let held := if o.order.releases && o.scope.wide && !s.allAcked drain then some drain else none
  let s := s.updCore o.core fun c => { c with log := lines.foldl (enterLog drain o) c.log }
  let o := { o with held, sentAt := s.time, written := o.elem ||| s.cw.replayElem, inst := s.cw.replayInst id }
  let s := s.setOp id o
  let s := if o.kind == .st && held == none then s.l1Update o else s
  let s := s.updCw fun w => { w.inc o.dc with seq := if o.kind.writes then w.seq + 1 else w.seq,
                                              hold := if o.kind.returns then .access id else w.hold }
  if o.kind.returns then s.resolve id else s.finish 2

/-- Failing lanes of the check of a `.chk` store (R101, R235). -/
def State.chkLanes (s : State) (g : Gmem) (m : Mask) : Mask :=
  m &&& maskOf fun l => (List.range g.width.regs).any fun i => !budgetPass s.cw.budget (opF32 (s.cw.v (g.vdata.toNat + i) l))

/-- The first condition of R392 that a GMEM instruction other than `pf` and `sld` meets at issue: a delivery point (R394, R429). -/
def State.gmemPoint (s : State) (kind : MemKind) (g : Gmem) (k : State → State) : State :=
  if g.order.releases then s.deliver none k else if kind == .st || kind == .red then s.deliverFull k else k s

/-- A GMEM instruction without an effective lane: it makes no access and orders nothing, but it counts on its counter (R45, R226). -/
def State.issueEmpty (s : State) (kind : MemKind) (g : Gmem) : State :=
  if 6 ≤ g.dc.toNat then s.finish 2 else s.launchOp { s.gmemOp kind g with order := .plain } []

/-- A GMEM instruction other than `pf` and `sld` at issue, its operands readable: checks, then the operation. A release
in group space at `grp` scope or wider waits at issue for its drain set (R130), since its unit performs it at once. -/
def State.issueGmem (s : State) (kind : MemKind) (group : Bool) (g : Gmem) : State :=
  let w := s.cw
  let m := w.memLanes
  if m = 0 then s.issueEmpty kind g
  else
    let cid := (s.block w.block).cluster
    let o := s.gmemOp kind g
    let o := { o with lanes := (lanesOf m).map fun l => (l, s.issueLane group cid o g l) }
    let hits := s.lockLanes true o.vf o.asid 0 kind.writes (o.lanes.filterMap fun p =>
      if group then none else some (p.1, p.2.addr.toNat, o.width.bytes))
    let bad := if g.chk && kind == .st then s.chkLanes g m else 0
    if group && (s.groupHalf || (o.order.releases && o.scope.wide && !s.allAcked (s.drainSet s.cur))) then s
    else if !group && s.ownHeld o then s
    else if hits != [] then s.lockTrap hits (memInfo o 0)
    else if bad != 0 then
      s.takeTrap { s.cw.trapHere 0x0402 with lanes := bad, addr := (o.lane (lowest bad)).addr,
                                             recs := (lanesOf bad).map fun l => (l, o.laneRec l 0) }
    else
      let lines := if group then [] else s.narrowLines o
      let need := newEntries (s.core o.core).log lines o
      let log := s.forcePromote need (s.core o.core).log 64
      let s := s.updCore o.core fun c => { c with log }
      if 64 < log.length + need then s
      else
        let (s, o) := if group then s.gsServe cid o (o.lanes.map Prod.fst)
          else if kind.atomic && !o.scope.wide then s.l1Atomics o (o.lanes.map Prod.fst) else (s, o)
        s.launchOp o lines

/-! ## Service at the home (R110, R129, R134, R146, R147, R432) -/

/-- A lane ahead of another on the ordered channel of its core to a home (R133), or on its line; the reads of `rte` also see what the
warp's own held releases write to the frame (R130, R391). -/
def State.ahead (s : State) (o : MemOp) (id part : Nat) : Bool :=
  let home := s.homeOf o.who (o.lane part).addr.toNat
  let line := (o.lane part).addr.toNat / 128
  o.kind == .frameLd && s.ownHeld o || s.ops.any fun q => q.2.core = o.core && q.2.held == none && q.2.lanes.any fun p =>
    before (q.2.placeOf q.1 p.1) (o.placeOf id part)
      && ((p.2.st == .sent && s.homeOf q.2.who p.2.addr.toNat == home)
        || (p.2.addr.toNat / 128 = line && q.2.vf = o.vf && q.2.asid = o.asid
            && match p.2.st with | .walking => true | .rewalking => true | .promoting _ => true | _ => false))

/-- A lane must wait for a held write of its line (R428). -/
def State.lineHeld (s : State) (o : MemOp) (id part : Nat) : Bool :=
  let l := o.lane part
  s.heldBefore o.vf o.asid (l.addr.toNat / 128) (if l.st.freed then some (o.placeOf id part) else none)

/-- Pending stores of a core laid over a line that fills its L1, so that the core's own later bytes stand (R98, R108, R138). -/
def State.overlay (s : State) (core vf asid va : Nat) : State :=
  let own := s.ops.filter fun q => q.2.core = core && q.2.vf = vf && q.2.asid = asid && q.2.held == none
    && (q.2.kind == .st || q.2.kind == .through || q.2.kind == .frameSt || q.2.kind == .matSt)
  (sortBy (fun a b => !before (b.2.placeOf b.1 0) (a.2.placeOf a.1 0)) own).foldl (fun s q =>
    s.l1Lay q.2 fun l => l.st.pending && l.addr.toNat / 128 = va / 128) s

/-- A line put into a core's L1 (R107). -/
def State.fillL1 (s : State) (o : MemOp) (va : Nat) (c : CLine) : State :=
  { s with l1 := Map.set (roomIn s.l1 (s.core o.core).l1Cap o.core (lineKey o.core o.vf o.asid va)) none (lineKey o.core o.vf o.asid va) (some c) }

/-! ## Where an access is performed -/

/-- A line at its home by its key, or a line that its home does not hold, by the key that it would have and where the access lies in memory:
it is performed there, for a hub host range by the fabric port (R116, R345). -/
inductive Site where
  | line (key : Nat)
  | port (key : Nat) (p : PortAt)

def Site.key : Site → Nat
  | .line k => k
  | .port k _ => k

/-- The page of an access is bounded, as its home holds it. -/
def State.siteBounded (s : State) : Site → Bool
  | .line k => (s.hline k).any fun h => h.line.bounded
  | .port _ p => p.spa.isSome

/-- Bytes of one sector read, `off` bytes into the access at `va`: data, bound and poison. -/
def State.siteRead (s : State) (x : Site) (va off n : Nat) : List Byte × Bnd × Bool :=
  match x with
  | .line k => s.homeRead k (va + off) n
  | .port _ p => s.portRead (p.on off) n

/-- Whole bytes of one sector written. -/
def State.siteStore (s : State) (x : Site) (va off : Nat) (bs : List Byte) (b : Bnd) : State :=
  match x with
  | .line k => s.homeStore k (va + off) [((va + off) % 128, bs)] b
  | .port k p => s.portStore (keyVf k) (keyAsid k) (va + off) (p.on off) bs b false

/-- The sector of an access written whole by its instruction: its poison clears (R432). -/
def State.siteClean (s : State) (x : Site) (va : Nat) : State :=
  match x with
  | .line k => match s.hline k with
    | some h => s.setHline k (some { h with line := { h.line with poison := h.line.poison &&& ~~~(1#4 <<< secOf va) } })
    | none => s
  | .port _ p => { s with poison := Map.set s.poison false (p.pa / 32) false }

/-- The promotion mark of the line of an access (R146). -/
def State.siteMark (s : State) : Site → Option Nat
  | .line k => s.lineMark k
  | .port k _ => Map.get s.portMarks none k

def State.setSiteMark (s : State) (x : Site) (m : Option Nat) : State :=
  match x with
  | .line k => match s.hline k with
    | some h => s.setHline k (some { h with mark := m })
    | none => s
  | .port k _ => { s with portMarks := Map.set s.portMarks none k m }

/-- A line behind a link that is down, whose requests get no answer (R454), or behind a port that is not usable yet (R383). -/
def State.siteLost (s : State) : Site → Bool
  | .line _ => false
  | .port _ p => s.away p.pa

/-- A read at the port counts among the bytes that its function moved (R378). -/
def State.siteMoved (s : State) (x : Site) (n : Nat) : State := match x with
  | .line _ => s
  | .port k p => s.moved (keyVf k) (unitOf p.pa) n

/-- The line of an access as L1 takes it; none for one that no cache takes. -/
def State.siteLine (s : State) (o : MemOp) (x : Site) (va : Nat) : Option CLine :=
  match x with
  | .line k => (s.hline k).map fun h => h.line
  | .port _ p => s.portLine o.who va p

/-- L1 refilled with the line of an access (R107, R129). -/
def State.refill (s : State) (o : MemOp) (x : Site) (va : Nat) : State :=
  match s.siteLine o x va with
  | some c => ((s.fillL1 o va c).addSharer x.key o.core).overlay o.core o.vf o.asid va
  | none => s

/-- L1 follows an atomic that the home has performed, when it holds the line (R108). -/
def State.refresh (s : State) (o : MemOp) (x : Site) (va : Nat) : State :=
  if (s.l1Line o.core o.vf o.asid va).isSome then s.refill o x va else s

/-- The lane's new state written to its operation, and the group let go when all lanes have settled. -/
def State.putLane (s : State) (id part : Nat) (l : Lane) : State :=
  match s.op? id with
  | none => s
  | some o =>
    let o := o.setLane part l
    if o.kind == .pf && o.settled then (s.dropOp id).reap o.uid
    else (s.setOp id { o with written := o.written ||| o.elem }).resolve id

/-- A frame store or read that faults is unhandled, or a double trap (R388, R391). -/
def State.frameFault (s : State) (o : MemOp) (cause : BitVec 8) (addr : DWord) : State :=
  match (s.warp o.slot).trap with
  | some (t, .entering _) => s.unhandled o.slot t 2
  | some _ => s.unhandled o.slot { (s.warp o.slot).trapAtRte (causeCode cause) with addr } 4
  | none => s

/-- The lines of an operation's lanes leave the L1 of its core: what it laid there is not on its way any more (R108). -/
def State.dropOwnL1 (s : State) (o : MemOp) : State :=
  o.lanes.foldl (fun s l => s.setL1 o.core o.vf o.asid l.2.addr.toNat none) s

/-- A lane ends in a fault of the direct path. A faulting store leaves no byte in L1 (R108); a prefetch is dropped (R231). -/
def State.faultLane (s : State) (o : MemOp) (id part : Nat) (cause : BitVec 8) : State :=
  let l := o.lane part
  match o.kind with
  | .pf => s.putLane id part { l with st := .gone }
  | .frameSt => ((s.dropOp id).dropOwnL1 o).frameFault o cause l.addr
  | .frameLd => (s.dropOp id).frameFault o cause l.addr
  | .fetch =>
    let s := (s.dropOp id).updWarp o.slot fun w => { w with hold := .none }
    let x : State := { s with cur := o.slot }
    { (x.fetchFault (causeCode cause) l.addr.toNat (x.headerIw0 l.addr.toNat) 0) with cur := s.cur }
  | .target =>
    let s := (s.dropOp id).updWarp o.slot fun w => { w with hold := .none }
    let s' := { s with cur := o.slot }
    { (s'.takeTrap { s'.cw.trapHere (causeCode cause) with lanes := s'.cw.issue, addr := l.addr }) with cur := s.cur }
  | _ =>
    let s := if o.kind.writes then s.setL1 o.core o.vf o.asid l.addr.toNat none else s
    s.putLane id part { l with st := .fault cause }

/-- Whether the access must first promote the marking core: an `.rp` acquire or a narrow release of another core (R146, R147). -/
def MemOp.promotes (o : MemOp) (mark : Option Nat) (key : Nat) : Option Nat :=
  match mark with
  | none => none
  | some c =>
    if keyUnit key = 8 || c = o.core then none
    else if (o.rp && o.order.acquires) || (o.order.releases && o.kind.writes && (o.scope == .core || o.scope == .grp)) then some c
    else none

/-- The mark that a narrow release leaves (R146). -/
def MemOp.newMark (o : MemOp) (key : Nat) (m : Option Nat) : Option Nat :=
  if keyUnit key ≠ 8 && o.order.releases && o.kind.writes && (o.scope == .core || o.scope == .grp) then some o.core else m

/-- A read lane served where its line is. -/
def State.serveRead (s : State) (o : MemOp) (id part half : Nat) (x : Site) : State :=
  let l := o.lane part
  let va := l.addr.toNat
  let split := o.splits && !s.siteBounded x
  let sp := if split then o.span part half else (0, o.size part)
  let (bs, b, p) := s.siteRead x va sp.1 sp.2
  let s := s.siteMoved x sp.2
  let s := if o.kind == .frameLd then s else s.refill o x va
  if p && o.kind != .pf then s.faultLane o id part 0x09
  else if o.kind == .sld && b != 0 then s.putLane id part { l with st := .fault 0x43 }
  else s.putLane id part { l.took split sp with res := if o.kind == .frameLd then wordsOf 8 bs else l.gain o.width split sp bs, rbnd := b }

/-- Whole bytes, or bits, that parts of an operation write. -/
def MemOp.allWrites (o : MemOp) (parts : List Nat) : BitWrites :=
  if o.kind == .matSt then o.bitWrites parts
  else parts.flatMap fun p => (List.range (o.size p)).map fun i => ((o.lane p).addr.toNat + i, (o.bytes p).getD i 0, 0xFF)

/-- A lane of the sector of a store is on its way and not at the home yet: on a bounded page the sector's bytes are applied together
(R98). -/
def MemOp.sectorDue (o : MemOp) (part : Nat) : Bool :=
  o.sameSector part (fun l => l.st.pending && !(l.st == .sent || l.st == .arrived)) != []

/-- Store lanes served where their line is: on a bounded page every lane of the sector together, in one step (R98). -/
def State.serveStore (s : State) (o : MemOp) (id part half : Nat) (x : Site) : State :=
  let va := (o.lane part).addr.toNat
  let bounded := s.siteBounded x
  let split := o.splits && !bounded
  let sp := if split then o.span part half else (0, o.size part)
  let ps := if bounded then o.sameSector part fun l => l.st == .sent || l.st == .arrived else [part]
  let cover := bounded && o.coversSector part Lane.writes
  let bits := o.kind == .matSt
  if bounded && o.sectorDue part then s
  else
    let s := match x with
      | .line k => if bits then s.homeBits k va (o.bitWrites ps) (o.sectorBnd ps) cover false
          else if bounded then s.homeStore k va (o.sectorWrites ps) (o.sectorBnd ps)
          else s.siteStore x va sp.1 (((o.bytes part).drop sp.1).take sp.2) (o.lane part).bnd
      | .port k p => if bits || bounded then s.portBits (keyVf k) (keyAsid k) va p (o.allWrites ps) (o.sectorBnd ps) cover false
          else s.siteStore x va sp.1 (((o.bytes part).drop sp.1).take sp.2) (o.lane part).bnd
    let o := ps.foldl (fun o p => o.setLane p ((o.lane p).took split sp)) o
    let s := s.setSiteMark x (o.newMark x.key (s.siteMark x))
    let s := if !bounded && o.coversSector part (fun l => l.st == .done) then s.siteClean x va else s
    s.setOp id o

/-- An atomic lane performed where its line is, at `grp` scope or wider (R100, R134, R229, R432). -/
def State.serveAtomic (s : State) (o : MemOp) (id part : Nat) (x : Site) : State :=
  let l := o.lane part
  let va := l.addr.toNat
  let (old, b, p) := s.siteRead x va 0 o.width.bytes
  if p then s.faultLane o id part 0x09
  else
    let r := rmw o.kind o.aop o.width.bytes old l.data b l.bnd
    let s := (s.siteStore x va 0 r.1 r.2).setSiteMark x (o.newMark x.key (s.siteMark x))
    (s.refresh o x va).putLane id part { l with st := .done, res := loadWords o.width old, rbnd := b }

/-- The line that an atomic at `wp` or `core` scope asked for fills L1, and the L1 atomic unit performs the lanes that wait for it, in
ascending order (R134, R136). -/
def State.fillAtomic (s : State) (o : MemOp) (id part : Nat) (x : Site) (c : CLine) : State :=
  let va := (o.lane part).addr.toNat
  let ps := (o.lanes.filter fun p => (p.2.st == .sent || p.2.st == .arrived) && p.2.addr.toNat / 128 = va / 128).map Prod.fst
  let (s, o) := ((s.fillL1 o va c).addSharer x.key o.core).l1Performs o id ps
  ((s.fillL1 o va c).overlay o.core o.vf o.asid va).setOp id { o with written := o.written ||| o.elem } |>.resolve id

/-- Aops that a PCIe-only host link cannot carry (R352). -/
def MemOp.pcieOk (o : MemOp) : Bool := o.kind == .cas || (o.kind == .atom && (o.aop == .iadd || o.aop == .xchg))

/-- A `sys`-scope atomic that the host link cannot carry (R352). -/
def MemOp.hostRefuses (o : MemOp) : Site → Bool
  | .port _ p => o.kind.atomic && o.scope == .sys && paKind p.pa == .host && !o.pcieOk && !Config.hostCxl
  | _ => false

/-- What an operation needs of its page. -/
def MemOp.need (o : MemOp) : Need :=
  match o.kind with
  | .fetch => .exec
  | .target => .exec
  | k => if k.writes then .write else .read

/-- One lane of a memory operation performed where its line is (R110, R129, R134). -/
def State.perform (s : State) (o : MemOp) (id part half : Nat) (x : Site) : State :=
  if o.hostRefuses x then s.faultLane o id part 0x08
  else if o.kind.atomic then
    match (if o.scope.wide then none else s.siteLine o x (o.lane part).addr.toNat) with
    | some c => s.fillAtomic o id part x c
    | none => s.serveAtomic o id part x
  else if o.kind.writes then s.serveStore o id part half x
  else s.serveRead o id part half x

/-- An access that asks the home for a line alone: an atomic of the L1 atomic unit (R134). -/
def MemOp.asksLine (o : MemOp) : Bool := o.kind.atomic && !o.scope.wide

/-- A lane at its line: ordered behind held writes and promotions, then performed; behind a link that is down it waits (R454). -/
def State.atSite (s : State) (o : MemOp) (id part half : Nat) (x : Site) : State :=
  if s.lineHeld o id part || s.siteLost x then s
  else match (if o.asksLine then none else o.promotes (s.siteMark x) x.key) with
    | some c =>
      let (pid, s) := s.promote x.key c
      let s : State := { s with promos := s.promos.map fun q => (q.1, if q.1 = pid then { q.2 with waiters := q.2.waiters ++ [(id, part)] } else q.2) }
      s.setOp id (o.setLane part { o.lane part with st := .promoting pid })
    | none => (match x with
        | .line k => s.served o.vf o.who.dom (keyUnit k) (o.size part)
        | .port _ _ => s.bridged o.vf o.who.dom 8 (o.size part)).perform o id part half x

/-- The other half of a group-space access performed in the cluster unit (R137). -/
def State.groupRest (s : State) (o : MemOp) (id part half : Nat) : State :=
  let due := if (o.lane part).halves = 1 then 2 else 1
  if half = 0 || half = due then
    let (s, l) := s.gsLane (s.opCluster o) o part due
    s.putLane id part l
  else s

/-- One lane of a memory operation reaches its home (R110): translated, checked, ordered and performed, or sent to walk. A request
numbered from 2^20 on asks for the lower half of a 128-bit access, from 2^21 on for the upper half (R137). -/
def State.serveLane (s : State) (id req : Nat) : State :=
  match s.op? id with
  | none => s
  | some o =>
    let part := req % 2 ^ 20
    let half := req / 2 ^ 20
    let l := o.lane part
    if l.st == .half then s.groupRest o id part half
    else if !(l.st == .sent || l.st == .arrived) || o.held != none || s.ahead o id part then s
    else if 2 < half || (half = 1 && l.halves.getLsbD 0) || (half = 2 && l.halves.getLsbD 1) then s
    else match s.touch o.who l.addr.toNat o.need with
    | .walk _ _ _ => s.setOp id (o.setLane part { l with st := if l.st == .sent then .walking else .rewalking })
    | .fault c => s.faultLane o id part c
    | .abort => s.faultLane o id part 0xC1
    | .port p => match s.region o.vf o.asid l.addr.toNat with
      | some r => s.atSite o id part half (.port (lineKey (r.home l.addr.toNat o.who.dom o.hint) o.vf o.asid l.addr.toNat) p)
      | none => s
    | .ok s key => s.atSite o id part half (.line key)

/-! ## Walks of a lane (R117, R418) -/

/-- ACCESS of a lane's page request (R421). -/
def MemOp.access (o : MemOp) (shadow table : Bool) : Nat :=
  accessByte (!o.kind.writes && o.kind != .fetch && o.kind != .target) (o.kind.writes && !o.kind.atomic)
    (o.kind == .fetch || o.kind == .target) o.kind.atomic false shadow table

/-- The memory cause of a translation fault (R386). -/
def stageCause (stage : Nat) : BitVec 8 := if stage = 1 then 0x06 else 0x07

/-- A page request is open for a lane: a load-class thread parks, a store is held, a group waits at its header (R418). -/
def State.pageLane (s : State) (o : MemOp) (id part stage group : Nat) : State :=
  let l := o.lane part
  let waits := fun s : State => ((s.dropOp id).updWarp o.slot fun w =>
      { w.updThrs w.issue (fun _ t => { t with st := .waitPage o.vf stage group l.addr.toNat }) with hold := .none, issue := 0, turn := 0, turnMask := 0 })
  match o.kind with
  | .pf => s.putLane id part { l with st := .gone }
  | .fetch => waits s
  | .target => waits s
  | k =>
    if k.returns then
      let s := s.updWarp o.slot fun w => w.updThrs (o.threadsOf w.issue part) fun _ t =>
        { t with st := .parked (o.parked part (stageCause stage) (some (o.vf, stage, group))) }
      s.putLane id part { l with st := .gone }
    else s.setOp id (o.setLane part { l with st := .paged o.vf stage group })

/-- A translation fault finds no room for its group and waits at its HTU (R420): a load-class thread parks, a store is held, a group
waits at its header, as they do for a page request that is open. -/
def State.htuLane (s : State) (o : MemOp) (id part : Nat) (f : WalkFault) (access va : Nat) : State :=
  let l := o.lane part
  let waits := fun (m : Mask) (s : State) => { s with htu := s.htu ++ [⟨o.uid, m, o.vf, o.asid, va, access, f.stage, f.level, f.cause, f.gpa⟩] }
  let group := (s.warp o.slot).issue
  let stop := fun s : State => waits group ((s.dropOp id).updWarp o.slot fun w =>
      { w.updThrs w.issue (fun _ t => { t with st := .waitHtu l.addr.toNat }) with hold := .none, issue := 0, turn := 0, turnMask := 0 })
  match o.kind with
  | .fetch => stop s
  | .target => stop s
  | k =>
    if k.returns then
      let s := s.updWarp o.slot fun w => w.updThrs (o.threadsOf w.issue part) fun _ t =>
        { t with st := .parked (o.parked part (stageCause f.stage) none) }
      (waits (o.threadsOf group part) s).putLane id part { l with st := .gone }
    else s.setOp id (o.setLane part { l with st := .atHtu })

/-- A lane whose translation is known goes on: an instruction read is made again by its warp, an access is sent again. -/
def State.walked (s : State) (o : MemOp) (id part : Nat) : State :=
  match o.kind with
  | .fetch => (s.dropOp id).updWarp o.slot fun w => { w with hold := .none }
  | .target => (s.dropOp id).updWarp o.slot fun w => { w with hold := .none }
  | _ => s.setOp id (o.setLane part { o.lane part with st := if (o.lane part).st == .walking then .sent else .arrived })

/-- A walk that did not reach a leaf: a table out of reach is a fault of the direct path (R440, R446), any other fault takes the
request path (R418); a prefetch is dropped (R231). -/
def State.walkFails (s : State) (o : MemOp) (id part va : Nat) (shadow : Bool) (f : WalkFault) : State :=
  if o.kind == .pf then s.putLane id part { o.lane part with st := .gone }
  else if f.cause = 8 then s.faultLane o id part 0xC1
  else if f.cause = 9 then s.faultLane o id part 0x0A
  else match s.pageFault f (o.access shadow f.table) o.vf o.asid va with
    | .group s i => s.pageLane o id part f.stage i
    | .full => s.htuLane o id part f (o.access shadow f.table) va
    | .failed => s.faultLane o id part (stageCause f.stage)

/-- A read of instruction words. -/
def MemOp.reads (o : MemOp) : Bool := o.kind == .fetch || o.kind == .target

/-- The walk of a lane completes (R118): a translation is kept and the access goes on, or a fault takes the request path. A permission
that the new translation lacks is a fault (R111). -/
def State.walkLane (s : State) (id part : Nat) : State :=
  match s.op? id with
  | none => s
  | some o =>
    let l := o.lane part
    if l.st != .walking && l.st != .rewalking && l.st != .atHtu then s
    else match s.touch o.who l.addr.toNat o.need with
    | .walk unit va shadow =>
      match s.walk unit o.vf o.asid va with
      | .ok t =>
        let s := (s.walkedBy unit o.vf o.asid va).tlbPut t
        if (s.touch o.who l.addr.toNat o.need).asks unit va shadow then s.faultLane o id part 0x08 else s.walked o id part
      | .error f => (s.walkedBy unit o.vf o.asid va).walkFails o id part va shadow f
    | .fault c => s.faultLane o id part c
    | .abort => s.faultLane o id part 0xC1
    | .port p => if o.reads && (s.away p.pa || s.lineHeld o id part) then s else s.walked o id part
    | .ok _ _ => if o.reads && s.lineHeld o id part then s else s.walked o id part

/-! ## Return and acknowledgement (R232) -/

/-- An earlier operation of the warp on the same counter is outstanding (R232). -/
def State.counterBusy (s : State) (uid : Nat) (dc : BitVec 3) (id : Nat) : Bool :=
  dc.toNat < 6 && (s.ops.any (fun p => p.1 < id && p.2.uid = uid && p.2.dc = dc)
    || s.engs.any (fun p => p.1 < id && p.2.uid = uid && p.2.dc = dc)
    || s.mats.any (fun p => p.1 < id && p.2.uid = uid && p.2.dc = dc))

/-- An earlier returning operation of the warp writes a register lane of this one (R233). -/
def State.registerBusy (s : State) (o : MemOp) (id : Nat) : Bool :=
  s.ops.any fun p => p.1 < id && p.2.uid = o.uid && p.2.kind.returns && (p.2.kind == .sld) == (o.kind == .sld)
    && p.2.dst < o.dst + o.dstCount && o.dst < p.2.dst + p.2.dstCount

/-- The destination registers of a lane written, each with the lane's bound (R227, R60). -/
def Warp.writeLane (w : Warp) (o : MemOp) (l : Nat) : Warp :=
  let x := o.lane l
  (List.range x.res.length).foldl (fun w i => w.setV (o.dst + i) l ⟨x.res.getD i 0, x.rbnd⟩) w

/-- The destination of a load-class operation written: scalars for `sld`, else every lane served. -/
def Warp.writeBack (w : Warp) (o : MemOp) : Warp :=
  if o.kind == .sld then
    let x := o.lane 0
    if x.st == .done then (List.range x.res.length).foldl (fun w i => w.setS (o.dst + i) (x.res.getD i 0)) w else w
  else (o.lanes.filter fun p => p.2.st == .done).foldl (fun w p => w.writeLane o p.1) w

/-- The acquire part of a completed operation (R130, R131). -/
def State.acquire (s : State) (slot core : Nat) (scope : Scope) : State :=
  if scope.wide then s.dropL1 core
  else if scope == .core || scope == .wp then s.updWarp slot fun w => { w with acqMark := s.nextId } else s

/-- The lane of the warp that a part of an operation stands for: the parts of a `mat.st` are numbered 2,048 a lane. -/
def MemOp.laneNo (o : MemOp) (p : Nat) : Nat := if o.kind == .matSt then p / 2048 else p

/-- The one deferred fault of a store-class operation whose lanes have all settled (R394, R427): of several faulting parts
of one lane of a `mat.st`, the first stands for the lane. -/
def MemOp.storeFault (o : MemOp) : Deferred :=
  let fs := o.faults.map fun f => (o.laneNo f.1, f)
  let first := (fs.headD (0, 0, 0)).2
  { owners := maskOf fun l => o.lanes.any fun p => o.laneNo p.1 = l, dc := o.dc,
    info := { code := BitVec.ofNat 16 (causeCode first.2), deferF := true, engineF := false, fetchF := false, two := o.two, imm := 0,
              pc := 0, npc := 0, iw0 := o.iw0, iw1 := o.iw1, lanes := maskOf fun l => fs.any fun f => f.1 = l, group := 0,
              addr := (o.lane first.1).addr, elem := 0, info := memInfo o (natWords (o.lane first.1).res), orig := o.pc,
              recs := fs.foldl (fun m f => if (Map.find? m f.1).isSome then m else Map.put m f.1 (o.laneRec f.2.1 f.2.2)) [] } }

/-- Whether the warp of an operation still stands in its slot (R50). -/
def State.stillThere (s : State) (slot uid : Nat) : Bool := (s.warp slot).live && (s.warp slot).uid = uid

/-- A warp's change for an operation, while the warp stands (R50). -/
def State.forOp (s : State) (slot uid : Nat) (f : Warp → Warp) : State := if s.stillThere slot uid then s.updWarp slot f else s

/-- A store-class operation ends (R232, R427): its counter drops, and its lanes' fault is recorded for the warp. -/
def State.endStore (s : State) (id : Nat) (o : MemOp) : State :=
  let s := (s.dropOp id).forOp o.slot o.uid fun w => w.dec o.dc
  let s := if o.faults = [] then s else s.defer o.slot o.uid o.launch o.storeFault
  s.reap o.uid

end Sys2Proof.Machine
end

