-- ==== Sys2Proof/Machine/Scratch.lean ====
section
/-! DEFINITION. Scratchpad: bytes and side array (R99, R102), the issue of the SPAD instructions (R175, R236, R237), and
transaction-barrier objects (R245 to R247). -/

namespace Sys2Proof.Machine

/-! ## Bytes and side array -/

def State.spByte (s : State) (b j off : Nat) : Byte := Map.get s.scratch 0 (spKey b j off)
def State.spRead (s : State) (b j off n : Nat) : List Byte := (List.range n).map fun i => s.spByte b j (off + i)
def State.spPoke (s : State) (b j off : Nat) : List Byte → State
  | [] => s
  | x :: t => State.spPoke { s with scratch := Map.set s.scratch 0 (spKey b j off) x } b j (off + 1) t
def State.spSide (s : State) (b j off : Nat) : Bnd × Bool := Map.get s.side (bndExact, false) (sideKey b j off)
def State.setSide (s : State) (b j off : Nat) (x : Bnd × Bool) : State :=
  { s with side := Map.set s.side (bndExact, false) (sideKey b j off) x }

/-- Writes of one instruction or operation into scratchpad, each with its bound: bytes in order (R136), then the bound and
poison of each sector, cover judged over all of them (R98, R99, R432). -/
def State.spStore (s : State) (b j : Nat) (ws : List (Nat × List Byte × Bnd)) : State :=
  let s := ws.foldl (fun s w => s.spPoke b j w.1 w.2.1) s
  ((ws.map fun w => w.1 / 32).eraseDups).foldl (fun s sec =>
    let here := ws.filter fun w => w.1 / 32 = sec
    let cover := covers (here.map fun w => (w.1 % 32, w.2.1)) 0
    let old := s.spSide b j (32 * sec)
    let new := here.foldl (fun x w => bndMax x w.2.2) 0
    s.setSide b j (32 * sec) (sectorBnd old.1 new cover, old.2 && !cover)) s

/-- Slice size of a block (R102). -/
def State.sliceOf (s : State) (b : Nat) : Nat := (s.block b).slice

/-! ## SPAD instructions -/

/-- What a SPAD instruction does. -/
structure SpadOp where
  kind : MemKind
  size : Nat
  signed : Bool
  /-- Registers read at `d` for a store or an atomic. -/
  regs : Nat
  aop : Aop

/-- What a load delivers from its bytes. -/
def spadWords (o : SpadOp) (bs : List Byte) : List Word :=
  if o.signed then [if o.size = 1 then (BitVec.ofNat 8 (natOf bs)).signExtend 32 else (BitVec.ofNat 16 (natOf bs)).signExtend 32]
  else wordsOf ((o.size + 3) / 4) bs

/-- Offset of a lane (R175, R236), or the recorded one of a replay (R419). -/
def Warp.spadOff (w : Warp) (a : VReg) (imm : BitVec 9) (l : Nat) : DWord :=
  match (w.thr l).replay with
  | some p => p.addr
  | none => (w.v a.toNat l).val.setWidth 64 + BitVec.ofNat 64 (4 * imm.toNat)

/-- One lane of a SPAD load or atomic, performed at once (R236, R237, R432). -/
def State.spadLane (s : State) (b j : Nat) (x : SpadOp) (l : Lane) : State × Lane :=
  let off := l.addr.toNat
  if off % x.size ≠ 0 then (s, { l with st := .fault 0x02 })
  else if s.sliceOf b < off + x.size then (s, { l with st := .fault 0x03 })
  else if x.kind == .st then (s, { l with st := .done })
  else
    let old := s.spRead b j off x.size
    let sd := s.spSide b j off
    if sd.2 then (s, { l with st := .fault 0x09 })
    else if x.kind == .ld then (s, { l with st := .done, res := spadWords x old, rbnd := sd.1 })
    else
      let r := rmw x.kind x.aop 4 old l.data sd.1 l.bnd
      (s.spStore b j [(off, r.1, r.2)], { l with st := .done, res := wordsOf 1 old, rbnd := sd.1 })

/-- The lanes of a SPAD instruction in ascending order (R136). -/
def State.spadLanes (s : State) (b j : Nat) (x : SpadOp) : Map Lane → State × Map Lane
  | [] => (s, [])
  | (p, l) :: t =>
    let (s, l) := s.spadLane b j x l
    let (s, r) := s.spadLanes b j x t
    (s, (p, l) :: r)

/-- The operation of a SPAD instruction: it completes at once. -/
def State.spadRec (s : State) (x : SpadOp) (d : VReg) : MemOp :=
  let w := s.cw
  { kind := x.kind, slot := s.cur, uid := w.uid, core := coreOf s.cur, launch := w.launch, block := w.block, vf := 0, asid := 0,
    pc := w.pc, iw0 := w.iw0, iw1 := 0, two := false, width := .b32, scope := .core, order := .plain, aop := x.aop, rp := false,
    hint := 0, dst := d.toNat, dc := 7, seq := w.seq, held := none, lanes := [], written := 0, inTrap := w.inTrap }

/-- Operand words of a SPAD store or atomic. -/
def Warp.spadData (w : Warp) (x : SpadOp) (d : VReg) (l : Nat) : List Word × Bnd :=
  if x.kind == .ld then ([], 0) else w.memData (x.kind == .cas) d.toNat x.regs l

/-- The effect of a SPAD instruction whose checks at issue have passed. -/
def State.spadGo (s : State) (x : SpadOp) (o : MemOp) : State :=
  let w := s.cw
  let j := s.coreInBlock w
  let (s, lanes) := s.spadLanes w.block j x o.lanes
  let o := { o with lanes }
  if x.kind == .st then
    let ok := lanes.filter fun p => p.2.st == .done
    let s := s.spStore w.block j (ok.map fun p => (p.2.addr.toNat, lowBytes x.size p.2.data, p.2.bnd))
    let s := if o.faults = [] then s else s.defer s.cur w.uid w.launch o.storeFault
    s.finish 1
  else
    let o := { o with written := o.elem ||| s.cw.replayElem }
    let s := s.updCw fun w => w.writeBack o
    s.settleLoad o 1

/-- Registers that a SPAD instruction names. -/
def spadUses (x : SpadOp) (d a : VReg) : Uses :=
  let u := Uses.none.srcV a.toNat 1
  if x.kind == .ld then u.dstV d.toNat ((x.size + 3) / 4)
  else if x.kind == .st then u.srcV d.toNat x.regs
  else (u.srcV d.toNat x.regs).dstV d.toNat 1

/-- A SPAD instruction at issue: it waits for an acquire in progress (R234), and for a write for a held release (R130); `sts` is a
delivery point at the limit of R429 (log 65, DEDUCED), then locks are checked (R153). -/
def State.spad (s : State) (x : SpadOp) (d a : VReg) (imm : BitVec 9) : Out :=
  .next (if s.interlocked (spadUses x d a) || s.acqPending s.cur || (x.kind.writes && s.relPending s.cur) then s
    else (if x.kind == .st then s.deliverFull else fun k => k s) fun s => s.guard (spadUses x d a) fun s =>
      let w := s.cw
      let o := s.spadRec x d
      let o := { o with lanes := (lanesOf w.memLanes).map fun l =>
        let p := w.spadData x d l
        (l, { Lane.none with st := .sent, addr := w.spadOff a imm l, data := p.1, bnd := p.2, bnds := w.memBnds d.toNat x.regs l }) }
      let hits := s.lockLanes false 0 0 w.block x.kind.writes (o.lanes.map fun p => (p.1, p.2.addr.toNat, x.size))
      if hits != [] then s.lockTrap hits (memInfo o 0) else s.spadGo x o)

def spadLd (size : Nat) (signed : Bool) : SpadOp := ⟨.ld, size, signed, 0, .iadd⟩
def spadSt (size : Nat) : SpadOp := ⟨.st, size, false, (size + 3) / 4, .iadd⟩
def spadAtom (op : Aop) : SpadOp := ⟨.atom, 4, false, 1, op⟩
def spadCas : SpadOp := ⟨.cas, 4, false, 2, .iadd⟩

/-! ## Transaction-barrier objects (R245 to R247) -/

/-- The fields of an object: TGTB, ARRB, GEN, EXPT, ARRT. -/
structure Txb where
  tgtb : Nat
  arrb : Nat
  gen : Nat
  expt : Nat
  arrt : Nat

def State.txbRead (s : State) (b j off : Nat) : Txb :=
  let v := natOf (s.spRead b j off 16)
  ⟨bitsOf v 31 0, bitsOf v 63 32, bitsOf v 95 64, bitsOf v 111 96, bitsOf v 127 112⟩

def Txb.bytes (t : Txb) : List Byte := bytesOf 4 t.tgtb ++ bytesOf 4 t.arrb ++ bytesOf 4 t.gen ++ bytesOf 2 t.expt ++ bytesOf 2 t.arrt

def State.txbWrite (s : State) (b j off : Nat) (t : Txb) : State := s.spStore b j [(off, t.bytes, bndExact)]

/-- Warps of a block that stand on its core `j`. -/
def State.slotsOn (s : State) (b j : Nat) : List Nat := (s.blockSlots b).filter fun k => s.coreInBlock (s.warp k) = j

/-- The waiters of an object released: an acquire at `core` scope for each (R144, R247). -/
def State.txbRelease (s : State) (b j off : Nat) : State :=
  ((s.slotsOn b j).foldl (fun s k =>
    let m := (s.warp k).lanes fun t => match t.st with
      | .waitTxb o _ => o.toNat = off
      | _ => false
    if m = 0 then s
    else s.updWarp k fun w => ({ w.wake m s.stamp with acqMark := s.nextId }).settle s.stamp) s).bump

/-- An object written after an arrival, an expectation or a credit: the generation advances when both counts agree
(R247). -/
def State.txbUpdate (s : State) (b j off : Nat) (t : Txb) : State :=
  if t.arrb = t.tgtb && t.arrt = t.expt then
    (s.txbWrite b j off ⟨0, 0, (t.gen + 1) % 2 ^ 32, t.expt, 0⟩).txbRelease b j off
  else s.txbWrite b j off t

/-- An engine credit: none when it would carry ARRB past its range (R246). -/
def State.txbCredit (s : State) (b j off n : Nat) : Option State :=
  let t := s.txbRead b j off
  if 2 ^ 32 ≤ t.arrb + n then none else some (s.txbUpdate b j off { t with arrb := t.arrb + n })

end Sys2Proof.Machine
end

