-- ==== Sys2Proof/Machine/Engine.lean ====
section
/-! DEFINITION. Engine operations: what every copy, `mat.ldb` and collective shares: faults at issue (R286), range locks
(R153, R288), the start (R152), transfers with their bounds and poison (R99, R287, R431), engine faults (R289, R414) and
completion (R154). -/

namespace Sys2Proof.Machine

/-! ## At issue -/

/-- A memory fault of a register operand, precise at the instruction, without effect (R286). -/
def State.cpyFault (s : State) (cause addr : Nat) : State :=
  s.takeTrap { s.cw.trapHere (0x0200 + cause) with
    addr := BitVec.ofNat 64 addr, info := BitVec.ofNat 32 (opField s.cw.iw0) }

/-- What an engine operation of the issuing warp awaits before it starts: its drain set, and its loads (R152). -/
def State.engDrain (s : State) : List Nat := s.drainSet s.cur ++ s.loadsOut s.cur

/-- An engine operation of the current instruction, before its operands. -/
def State.engOp (s : State) (kind : EngKind) (dc : BitVec 3) : EngOp :=
  let w := s.cw
  let (vf, asid) := s.space w
  { kind, st := .waiting, slot := s.cur, uid := w.uid, core := coreOf s.cur, launch := w.launch, block := w.block, vf, asid,
    pc := w.pc, iw0 := w.iw0, iw1 := w.iw1, owners := w.issue, dc, txb := none, credit := 0, drain := s.engDrain, a := 0, b := 0,
    c := 0, d := 0, sd := 0, coords := [], peer := (w.block, s.coreInBlock w), xfers := [], buf := [], bufBnd := 0,
    bufPoison := [], order := 0, fault := none, extra := [] }

/-- Two ranges share a byte. -/
def LockRange.meets (a b : LockRange) : Bool :=
  a.global = b.global && (if a.global then a.vf = b.vf && a.asid = b.asid else a.block = b.block) && a.lo < b.hi && b.lo < a.hi

/-- A range must wait for a lock of the table (R288). -/
def State.rangeBlocked (s : State) (core : Nat) (r : LockRange) : Bool :=
  (s.core core).locks.any fun x => x.op ≠ r.op && x.meets r && (x.dst || r.dst)

/-- A range in global memory, and one in a scratchpad slice, of an operation that has no number yet. -/
def EngOp.global (e : EngOp) (lo hi : Nat) (dst : Bool) : Nat × LockRange := (e.core, ⟨0, true, e.vf, e.asid, e.block, lo, hi, dst⟩)
def spadRange (core block lo hi : Nat) (dst : Bool) : Nat × LockRange := (core, ⟨0, false, 0, 0, block, lo, hi, dst⟩)

/-- The tables have room for the ranges (R153). -/
def State.lockRoom (s : State) (rs : List (Nat × LockRange)) : Bool :=
  rs.all fun r => (s.core r.1).locks.length + (rs.filter fun q => q.1 = r.1).length ≤ 32

/-- Ranges entered in their tables. -/
def State.lock (s : State) (rs : List (Nat × LockRange)) : State :=
  rs.foldl (fun s r => s.updCore r.1 fun c => { c with locks := c.locks ++ [r.2] }) s

/-- Ranges of an operation leave every table (R154, R412). -/
def State.unlock (s : State) (id : Nat) : State :=
  { s with cores := s.cores.map fun p => (p.1, { p.2 with locks := p.2.locks.filter fun r => r.op != id }) }

/-- An operation issues with its ranges, or the instruction waits (R153, R287, R288). -/
def State.issueEng (s : State) (e : EngOp) (rs : List (Nat × LockRange)) : State :=
  let id := s.nextId
  let rs := rs.map fun r => (r.1, { r.2 with op := id })
  if rs.any (fun r => s.rangeBlocked r.1 r.2) || !s.lockRoom rs then s
  else
    let s := { (s.lock rs) with nextId := id + 1 }
    ((s.setEng id e).updCw fun w => w.inc e.dc).finish 2

/-- A CPY, `col` or `launch` at issue: it waits for an acquire in progress and for its counter, and it is a delivery point
while the warp holds four faults (R66, R234, R429). -/
def State.engGate (s : State) (u : Uses) (dc : BitVec 3) (k : State → State) : State :=
  if s.cw.ctrFull dc || s.acqPending s.cur then s
  else s.deliverFull fun s => s.guard u k

/-! ## Start (R152) -/

/-- What the operation awaits has come. -/
def State.engReady (s : State) (e : EngOp) : Bool :=
  e.drain.all fun i => match s.op? i with
    | none => true
    | some o => !o.kind.returns && o.kind != .frameLd && o.acked

/-! ## Transfers -/

/-- Pieces of a copy of `n` bytes, none of which crosses a sector on either side. -/
def chunks (src dst : Nat) : Nat → Nat → List Piece
  | 0, _ => []
  | _, 0 => []
  | f + 1, n =>
    let k := min n (min (32 - src % 32) (32 - dst % 32))
    ⟨src, dst, k, none, false⟩ :: chunks (src + k) (dst + k) f (n - k)

/-- One transfer for each destination sector (R98, R99). -/
def xfersOf (ps : List Piece) : List Xfer :=
  (ps.foldl (fun m p => Map.put m (p.dst / 32) ((Map.find? m (p.dst / 32)).getD [] ++ [p])) ([] : Map (List Piece))).map
    fun q => ⟨q.2, false, none, false⟩

/-- The core of its block that an operation stands on. -/
def State.engCore (s : State) (e : EngOp) : Nat := (s.block e.block).cores.idxOf e.core

/-- The requester of an engine's accesses. -/
def EngOp.who (e : EngOp) : Who := ⟨e.vf, e.asid, domainOf e.core, 0⟩

/-- What reading or writing some bytes finds. -/
inductive Gather where
  | ok (s : State) (ws : BitWrites) (b : Bnd) (poison : Bool)
  | walk (unit va : Nat) (shadow : Bool)
  | fault (code addr : Nat)

/-- A held write stands on a line (R428). -/
def State.storeHeld (s : State) (vf asid line : Nat) : Bool := s.heldBefore vf asid line none

/-- A global address reached by an engine: its line's key, or a physical address at the fabric port. -/
inductive Reach where
  | line (s : State) (key : Nat)
  | port (p : PortAt)
  | walk (unit va : Nat) (shadow : Bool)
  | fault (code : Nat)

/-- An engine's access reaches the home of a line; an address past the range is an address fault (R103, R289). -/
def State.reach (s : State) (e : EngOp) (va : Nat) (need : Need) : Reach :=
  if 2 ^ 52 ≤ va then .fault 0x0201
  else match s.touch e.who va need with
    | .ok s key => .line s key
    | .port p => .port p
    | .walk u a sh => .walk u a sh
    | .fault c => .fault (0x0200 + c.toNat)
    | .abort => .fault 0x0C01

/-- The bytes of a piece as bits to write at its destination: whole bytes, or one nibble moved to its place (R292). -/
def Piece.writes (p : Piece) (bs : List Byte) : BitWrites :=
  match p.nib with
  | none => (List.range p.len).map fun i => (p.dst + i, bs.getD i 0, 0xFF)
  | some (srcHigh, dstHigh) =>
    let v := (bs.getD 0 0).toNat / (if srcHigh then 16 else 1) % 16
    [(p.dst, BitVec.ofNat 8 (if dstHigh then v * 16 else v), if dstHigh then 0xF0 else 0x0F)]

/-- One piece read from global memory. -/
def State.readGlobal (s : State) (e : EngOp) (p : Piece) : Gather :=
  match s.reach e p.src .read with
  | .line s key =>
    let (bs, b, poison) := s.homeRead key p.src p.len
    .ok (s.served e.vf e.who.dom (keyUnit key) p.len) (p.writes bs) b poison
  | .port x =>
    let (bs, b, poison) := s.portRead x p.len
    .ok ((s.moved e.vf (unitOf x.pa) p.len).bridged e.vf e.who.dom 8 p.len) (p.writes bs) b poison
  | .walk u va sh => .walk u va sh
  | .fault c => .fault c p.src

/-- One piece read from a scratchpad slice. -/
def State.readSpad (s : State) (b j : Nat) (p : Piece) : Gather :=
  let sd := s.spSide b j p.src
  .ok s (p.writes (s.spRead b j p.src p.len)) sd.1 sd.2

/-- Kinds that read global memory. -/
def EngKind.inward : EngKind → Bool
  | .cpyTIn => true | .cpyBIn => true | .cpyG => true | .ldb _ _ _ => true | .cpyPf => true
  | _ => false

/-- A collective. -/
def EngKind.collective : EngKind → Bool
  | .col _ _ _ => true
  | _ => false

/-- The pieces of a transfer read one after another; a collective's results stand in its buffer. -/
def State.gather (s : State) (e : EngOp) : List Piece → Gather
  | [] => .ok s [] 0 false
  | p :: t =>
    let r := if p.zero then .ok s (p.writes (List.replicate p.len 0)) 0 false
      else if e.kind.collective && e.st == .active then
        let bs := (Map.find? e.buf (p.dst / 32)).getD []
        .ok s (p.writes bs) (BitVec.ofNat 16 (natOf (bs.drop p.len))) (e.bufPoison.contains (p.dst / 32))
      else if e.kind.inward || e.st == .descriptor then s.readGlobal e p else s.readSpad e.block (s.engCore e) p
    match r with
    | .ok s ws b q => match s.gather e t with
      | .ok s ws' b' q' => .ok s (ws ++ ws') (bndMax b b') (q || q')
      | r => r
    | r => r

/-- Bits written into a scratchpad sector, with bound and poison (R99, R431). -/
def State.spadBits (s : State) (b j : Nat) (ws : BitWrites) (bnd : Bnd) (poison : Bool) : State :=
  let off := (ws.headD (0, 0, 0)).1 / 32 * 32
  let cover := coversBits ws off
  let old := s.spSide b j off
  let s := ws.foldl (fun s w => { s with scratch := Map.set s.scratch 0 (spKey b j w.1) (putBits (s.spByte b j w.1) w.2.1 w.2.2) }) s
  s.setSide b j off (sectorBnd old.1 bnd cover, poison || (old.2 && !cover))

/-- Bits written into a global sector. -/
def State.globalBits (s : State) (e : EngOp) (ws : BitWrites) (bnd : Bnd) (poison : Bool) : Gather :=
  let va := (ws.headD (0, 0, 0)).1
  match s.reach e va .write with
  | .line s key => .ok ((s.served e.vf e.who.dom (keyUnit key) ws.length).homeBits key va ws bnd (coversBits ws (va / 32 * 32)) poison) [] 0 false
  | .port x => .ok ((s.bridged e.vf e.who.dom 8 ws.length).portBits e.vf e.asid va x ws bnd (coversBits ws (va / 32 * 32)) poison) [] 0 false
  | .walk u a sh => .walk u a sh
  | .fault c => .fault c va

/-! ## Reductions (R296, R301) -/

/-- An exact selection of two elements (R202). -/
def pickElem (sp : FpSpec) (x y : Opnd) (v : FV) : Nat × Bnd :=
  match firstNan [x.v, y.v] with
  | some n => ((roundFp sp .rne false n).bits, bndInf)
  | none => ((roundFp sp .rne false v).bits, selBnd [x, y] v)

/-- One step of a reduction on elements of a type: old and new element with their bounds. -/
def redStep (ty : Fmt) (rop : Rop) (x y : Nat) (bx bz : Bnd) : Nat × Bnd :=
  match fpSpec ty with
  | some sp =>
    let a : Opnd := ⟨decodeFp sp x, bx⟩
    let b : Opnd := ⟨decodeFp sp y, bz⟩
    match rop with
    | .add => addElem sp .rne a b
    | .min => pickElem sp a b (fvMin a.v b.v)
    | .max => pickElem sp a b (fvMax a.v b.v)
  | none =>
    let n := fmtBits ty
    (match rop with
      | .add => (x + y) % 2 ^ n
      | .min => minMax (fmtSigned ty) false n x y
      | .max => minMax (fmtSigned ty) true n x y, bndInt [bx, bz])

/-- Whole bytes at consecutive addresses as writes. -/
def byteWrites (va : Nat) (bs : List Byte) : BitWrites := (List.range bs.length).map fun i => (va + i, bs.getD i 0, 0xFF)

/-- New elements of a run of bytes, and the largest bound among them; `bv` gives the bound of the element at a place of the run. -/
def redRun (ty : Fmt) (rop : Rop) (bo : Bnd) (bv : Nat → Bnd) (size : Nat) : Nat → Nat → List Byte → List Byte → List Byte × Bnd
  | 0, _, _, _ => ([], 0)
  | n + 1, i, old, new =>
    let r := redStep ty rop (natOf (old.take size)) (natOf (new.take size)) bo (bv i)
    let t := redRun ty rop bo bv size n (i + size) (old.drop size) (new.drop size)
    (bytesOf size r.1 ++ t.1, bndMax r.2 t.2)

/-- The bound of the scratchpad sector that a transfer reads for a destination address (R99). -/
def State.srcBnd (s : State) (e : EngOp) (ps : List Piece) (a : Nat) : Bnd :=
  match ps.find? fun p => p.dst ≤ a && a < p.dst + p.len with
  | some p => (s.spSide e.block (s.engCore e) (p.src + (a - p.dst))).1
  | none => 0

/-- Elements combined into one destination sector (R296): read-modify-write in the unit of R134 for `dev` scope. Each element has the
bound of its own source sector. -/
def State.reduceInto (s : State) (e : EngOp) (ty : Fmt) (rop : Rop) (ps : List Piece) (ws : BitWrites) (poison : Bool) : Gather :=
  let va := (ws.headD (0, 0, 0)).1
  let size := fmtBits ty / 8
  let new := ws.map fun w => w.2.1
  let run := fun (old : List Byte) (bo : Bnd) => redRun ty rop bo (fun i => s.srcBnd e ps (va + i)) size (new.length / size) 0 old new
  match s.reach e va .write with
  | .line s key =>
    let (old, bo, q) := s.homeRead key va new.length
    let r := run old bo
    let out := byteWrites va r.1
    .ok ((s.served e.vf e.who.dom (keyUnit key) new.length).homeBits key va out r.2 (coversBits out (va / 32 * 32)) (poison || q)) [] 0 false
  | .port x =>
    let (old, bo, q) := s.portRead x new.length
    let r := run old bo
    let out := byteWrites va r.1
    .ok ((s.bridged e.vf e.who.dom 8 new.length).portBits e.vf e.asid va x out r.2 (coversBits out (va / 32 * 32)) (poison || q)) [] 0 false
  | .walk u a sh => .walk u a sh
  | .fault c => .fault c va

/-! ## Service of a transfer -/

/-- A transfer of an operation by its index. -/
def EngOp.xfer (e : EngOp) (part : Nat) : Xfer := e.xfers.getD part ⟨[], true, none, false⟩

/-- A transfer marked done. -/
def EngOp.doneXfer (e : EngOp) (part : Nat) : EngOp := { e with xfers := e.xfers.set part { e.xfer part with done := true, paged := none, held := false } }

/-- A transfer that may be served now. -/
def EngOp.open_ (e : EngOp) (part : Nat) : Bool :=
  (e.st == .active || e.st == .descriptor) && e.fault == none && part < e.xfers.length && !(e.xfer part).done && (e.xfer part).paged == none

/-- The destination slice of an operation: block and core in the block (R294). -/
def State.engDest (s : State) (e : EngOp) : Nat × Nat := match e.kind with
  | .cpyP => e.peer
  | _ => (e.block, s.engCore e)

/-- What a transfer does once it has read its pieces: it writes its destination sector, or the engine's buffer. -/
def State.deliverXfer (s : State) (e : EngOp) (ps : List Piece) (ws : BitWrites) (b : Bnd) (poison : Bool) : Gather :=
  if e.st == .descriptor then .ok s ws b poison
  else match e.kind with
    | .cpyTOut => s.globalBits e ws b poison
    | .cpyBOut => s.globalBits e ws b poison
    | .col _ _ _ => s.globalBits e ws b poison
    | .cpyRed ty rop => s.reduceInto e ty rop ps ws poison
    | .cpyPf => .ok s [] 0 false
    | .ldb _ _ _ => .ok s ws b poison
    | .cpyP =>
      if (s.block e.peer.1).live then .ok (s.spadBits e.peer.1 e.peer.2 ws b poison) [] 0 false
      else .fault 0x0203 e.b.toNat
    | _ => let d := s.engDest e; .ok (s.spadBits d.1 d.2 ws b poison) [] 0 false

/-- Reading and writing of a transfer in one. -/
def State.tryXfer (s : State) (e : EngOp) (part : Nat) : Gather :=
  match s.gather e (e.xfer part).pieces with
  | .ok s ws b p => s.deliverXfer e (e.xfer part).pieces ws b p
  | r => r

/-- An engine fault is found: the operation stops (R289); a prefetch drops the line (R297). -/
def State.engFault (s : State) (id : Nat) (e : EngOp) (part code addr : Nat) : State :=
  match e.kind with
  | .cpyPf => s.setEng id (e.doneXfer part)
  | _ => s.setEng id { e with fault := some (BitVec.ofNat 16 code, BitVec.ofNat 64 addr) }

/-- A transfer served: what it read goes to the engine's buffer where the kind keeps it. The transfers of a `mat.ldb` that
hold element bytes come first, as many as `credit` says, and only they count for its bound (R276); a collective keeps each
sector's bound behind its bytes. -/
def EngOp.keep (e : EngOp) (part : Nat) (ws : BitWrites) (b : Bnd) (poison : Bool) : EngOp :=
  let e := e.doneXfer part
  if ws = [] then e
  else
    let sec := (ws.headD (0, 0, 0)).1 / 32
    let counts := match e.kind with
      | .ldb _ _ _ => decide (part < e.credit)
      | _ => true
    let bs := ws.map fun w => w.2.1
    { e with buf := Map.put e.buf sec (if e.kind.collective then bs ++ bytesOf 2 b.toNat else bs), bufBnd := if counts then bndMax e.bufBnd b else e.bufBnd,
             bufPoison := if poison then sec :: e.bufPoison else e.bufPoison }

/-- A line that a transfer reads or writes at its home. -/
def EngOp.lines (e : EngOp) (part : Nat) : List Nat :=
  (e.xfer part).pieces.filterMap fun p =>
    if e.kind.outward && e.st != .descriptor then some (p.dst / 128) else if e.kind.inward || e.st == .descriptor then some (p.src / 128) else none

/-- A transfer must wait for a held write of a line (R428). -/
def State.xferHeld (s : State) (e : EngOp) (id part : Nat) : Bool :=
  (e.lines part).any fun line => s.heldBefore e.vf e.asid line (if (e.xfer part).held then some (id, part) else none)

/-- Global addresses that a transfer reads or writes. -/
def EngOp.globals (e : EngOp) (part : Nat) : List Nat :=
  (e.xfer part).pieces.flatMap fun p =>
    (if e.kind.inward || e.kind.collective || e.st == .descriptor then [p.src] else [])
      ++ if e.kind.outward && e.st != .descriptor then [p.dst] else []

/-- The addresses of a transfer that no home holds, with where they lie. -/
def State.portsOf (s : State) (e : EngOp) (part : Nat) : List (Nat × Nat) :=
  (e.globals part).filterMap fun a => match s.reach e a .read with
    | .port p => some (a, p.pa)
    | _ => none

/-- The peer-range address that a transfer reaches, and where it lies (R345). -/
def State.peerOf (s : State) (e : EngOp) (part : Nat) : Option (Nat × Nat) := (s.portsOf e part).find? fun x => paKind x.2 == .peer

/-- A transfer waits for an answer that does not come (R454), or for a port (R383). -/
def State.xferLost (s : State) (e : EngOp) (part : Nat) : Bool := (s.portsOf e part).any fun x => s.away x.2

/-- One transfer of an engine operation reaches its home (R110, R287); a poisoned descriptor or header is an engine fault
(R289). -/
def State.serveXfer (s : State) (id part : Nat) : State :=
  match s.eng? id with
  | none => s
  | some e =>
    if !e.open_ part then s
    else match s.tryXfer e part with
      | .ok s' ws b p =>
        if s.xferHeld e id part || s.xferLost e part then s
        else if p && e.st == .descriptor && !e.kind.collective then s.engFault id e part 0x0209 e.a.toNat
        else s'.setEng id (e.keep part ws b p)
      | .walk _ _ _ => s
      | .fault c a => s.engFault id e part c a

/-- The walk that a transfer misses completes (R118): a translation is kept, or the fault is grouped (R422). A permission that the new
translation lacks is a fault (R111). -/
def State.walkXfer (s : State) (id part : Nat) : State :=
  match s.eng? id with
  | none => s
  | some e =>
    if !e.open_ part then s
    else match s.tryXfer e part with
      | .walk unit va shadow =>
        match s.walk unit e.vf e.asid va with
        | .ok t =>
          let s := (s.walkedBy unit e.vf e.asid va).tlbPut t
          match s.tryXfer e part with
          | .walk u a sh => if u = unit && a = va && sh == shadow then s.engFault id e part 0x0208 va else s
          | _ => s
        | .error f =>
          let s := s.walkedBy unit e.vf e.asid va
          if e.kind == .cpyPf then s.setEng id (e.doneXfer part)
          else if f.cause = 8 then s.engFault id e part 0x0C01 va
          else if f.cause = 9 then s.engFault id e part 0x020A va
          else
            let at_ := fun a : Nat => if shadow then (s.region e.vf e.asid a).any fun r => r.shadow (a / 128 * 128) / 4096 = va / 4096 else a / 4096 = va / 4096
            let out := e.kind.outward && e.st != .descriptor && (e.xfer part).pieces.any fun p => at_ p.dst
            match s.pageFault f (accessByte (!out) out false false true shadow f.table) e.vf e.asid va with
            | .group s i => s.setEng id { e with xfers := e.xfers.set part { e.xfer part with paged := some (e.vf, f.stage, i), held := true } }
            | .full => s.setEng id { e with xfers := e.xfers.set part { e.xfer part with held := true } }
            | .failed => s.engFault id e part (if f.stage = 1 then 0x0206 else 0x0207) va
      | _ => s

/-! ## Completion (R154, R287, R289, R414) -/

/-- The deferred fault of an engine operation (R289, R398); `launch` alone has one word. -/
def EngOp.deferred (e : EngOp) (code : BitVec 16) (addr : DWord) : Deferred :=
  { owners := e.owners, dc := e.dc,
    info := { code, deferF := false, engineF := true, fetchF := false, two := e.kind != .launch, imm := 0, pc := 0, npc := 0, iw0 := e.iw0,
              iw1 := if e.kind == .launch then 0 else e.iw1, lanes := 0, group := 0, addr, elem := 0, info := 0, orig := e.pc, recs := [] } }

/-- The core that observes the completion (R154): the one whose scratchpad holds the barrier, else the issuing core. -/
def State.observer (s : State) (e : EngOp) : Nat :=
  match e.txb with
  | some (b, j, _) => (s.block b).cores.getD j e.core
  | none => e.core

/-- The global destination ranges that an operation has registered (R153). -/
def State.outRanges (s : State) (id : Nat) (e : EngOp) : List (Nat × Nat) :=
  ((s.core e.core).locks.filter fun r => r.op = id && r.global && r.dst).map fun r => (r.lo, r.hi)

/-- The lines of ranges leave an L1 (R154). -/
def State.dropOutput (s : State) (e : EngOp) (rs : List (Nat × Nat)) (core : Nat) : State :=
  rs.foldl (fun s r => s.dropL1Range core e.vf e.asid r.1 r.2) s

/-- The credit of a completed copy; a refused one is a fault (R246, R414). A barrier on another core releases at `grp` scope
(R295). -/
def State.creditEng (s : State) (e : EngOp) : State × Option (BitVec 16 × DWord) :=
  match e.txb with
  | none => (s, none)
  | some (b, j, off) =>
    match s.txbCredit b j off e.credit with
    | none => (s, some (0x0902, BitVec.ofNat 64 off))
    | some s => (if s.observer e ≠ e.core then s.dropL1 (s.observer e) else s, none)

/-- An operation ends: its ranges are released, its counter drops with the credit in one step, and a fault is recorded for its
warp. -/
def State.endEng (s : State) (id : Nat) (e : EngOp) : State :=
  let rs := s.outRanges id e
  let s := (s.dropEng id).unlock id
  let s := s.dropOutput e rs (s.observer e)
  let s := if e.txb.isSome && e.dc.toNat < 6 then s.dropOutput e rs e.core else s
  let (s, fault) := match e.fault with
    | some f => (s, some f)
    | none => s.creditEng e
  let s := s.forOp e.slot e.uid fun w => w.dec e.dc
  let s := match fault with
    | some (code, addr) => s.defer e.slot e.uid e.launch (e.deferred code addr)
    | none => s
  s.reap e.uid

/-- Every transfer is made. -/
def EngOp.allDone (e : EngOp) : Bool := e.st == .active && e.xfers.all fun x => x.done

end Sys2Proof.Machine
end

