-- ==== Sys2Proof/Machine/Control.lean ====
section
/-! DEFINITION. Clauses and control: entering a clause (R157 to R162), the word that is no instruction (R182, R396, R397), the
turn limit (R33), branches, calls and `meet` (R252 to R255). -/

namespace Sys2Proof.Machine

/-! ## Clause headers -/

/-- A group enters a clause: its words stand, its latches are not captured (R65, R160). A handler takes no turn (R54). -/
def Warp.enter (w : Warp) (c : Clause) : Warp :=
  let w := w.updThrs w.issue fun _ t => { t.leave with pc := t.pc + 4, cl := some c }
  if w.trap.isSome then w else { w with turn := if w.turnMask = w.issue then w.turn else 0, turnMask := w.issue }

/-- Every counter of a mask is zero. -/
def Warp.countersZero (w : Warp) (m : BitVec 6) : Bool := (List.range 6).all fun i => !m.getLsbD i || w.d i = 0

/-- The word at a header position, as fetched. -/
def State.headWord (s : State) : Word :=
  match s.fetchWord s.cur s.cw.pc.toNat with
  | .ok _ w => w
  | _ => 0

/-- CLAUSE_HEADER (R160): every word of the clause is fetched, the wait is met, pending faults of the counters named are
delivered (R394), then the clause begins. -/
def execClauseHeader (n : BitVec 4) (cls : BitVec 3) (wait : BitVec 6) (yieldHint : Bool) (s : State) : Out :=
  .next (match s.fetchClause s.cur (s.cw.pc.toNat + 4) n.toNat with
    | .walk va => s.fetchWalk .fetch va
    | .fault c va => s.fetchFault c va s.headWord 0
    | .ok s ws =>
      if !s.cw.countersZero wait then s
      else s.deliver (some wait) (fun s => s.updCw fun w => w.enter ⟨w.pc, cls, yieldHint, ws, n.toNat⟩) s.headWord)

/-- The number of an Illegal Instruction cause (R397). -/
def illCode : IllCause → Nat
  | .fmtReserved => 1 | .fmtExtension => 2 | .fmtHeader => 3 | .opcode => 4 | .reserved => 5 | .value => 6 | .align => 7 | .cls => 8
  | .notHeader => 9 | .k0 => 13

/-- Whether the current instruction is the last of its clause. -/
def Warp.isLast (w : Warp) (c : Clause) : Bool := c.stop = w.pc + (if isTwo (c.word w.pc) then 8 else 4)

/-- The instruction that stands at a place of a clause (R159, R182). -/
def Warp.decoded (w : Warp) (c : Clause) : Except IllCause Instr := decodeAt c.cls (w.isLast c) (c.word w.pc) (c.word (w.pc + 4))

/-- A word reached in sequence that is no header (R397, cause 0x09); at `%tvec` the trap is unhandled (R388, R395). -/
def State.notHeader (s : State) (w0 : Word) : State :=
  let w1 := match s.fetchWord s.cur (s.cw.pc.toNat + 4) with
    | .ok _ w => w
    | _ => 0
  let t := { s.cw.trapHere 0x0109 with lanes := s.cw.issue, iw0 := w0, two := isTwo w0, iw1 := if isTwo w0 then w1 else 0 }
  match s.cw.trap with
  | some (t0, .handling) => if s.cw.pc = s.cw.tvec then s.unhandled s.cur t0 3 else s.takeTrap t
  | _ => s.takeTrap t

/-- NO_INSTRUCTION_WORD (R182): Illegal Instruction with the first cause of R397 that applies. -/
def execNoInstructionWord (s : State) : Out :=
  .next (match s.cw.clause with
    | some c => match s.cw.decoded c with
      | .ok _ => s
      | .error e => s.illegal (illCode e)
    | none => match s.fetchWord s.cur s.cw.pc.toNat with
      | .ok s w => if isHeader w then s else s.notHeader w
      | _ => s)

/-- GROUP_TURN_LIMIT (R33): the group in turn takes the present age and the warp selects again. -/
def execGroupTurnLimit (s : State) : Out :=
  .next (if s.cw.issue = 0 && s.cw.atLimit then
      (s.updCw fun w => { w.updThrs w.turnMask (fun _ t => { t with age := s.stamp }) with turn := 0, turnMask := 0 }).bump
    else s)

/-! ## Targets -/

/-- A walk for an instruction read, made in the same step: the state that keeps its result. -/
def State.walkNow (s : State) (slot va : Nat) : Option State :=
  let w := s.fetchWho slot
  match s.touch w va .exec with
  | .walk unit wva _ => match s.walk unit w.vf w.asid wva with
    | .ok t => some (s.tlbPut t)
    | .error _ => none
  | _ => none

/-- The test of a branch target (R254): walks are made in place, at most `fuel` of them. -/
def State.branchTest (s : State) (tgt : DWord) : Nat → Target
  | 0 => .fault 0
  | n + 1 =>
    match s.testTarget tgt with
    | .walk va => match s.walkNow s.cur va with
      | some s => s.branchTest tgt n
      | none => .fault 0
    | t => t

/-- A branch of the threads of `m` to a target; the check is made only when some thread moves, and a fault in reading the
target is taken there by the threads that moved (R252, R254, R392). `link` writes s62:63. -/
def State.branchTo (s : State) (tgt : DWord) (m : Mask) (link : Bool) : State :=
  let go := fun s : State =>
    let next := s.cw.pc + 4
    let s := if link then s.updCw fun w => w.setS64 62 next else s
    s.branch tgt m
  if s.cw.issue &&& m = 0 then s.branch tgt 0
  else match s.branchTest tgt 3 with
    | .header s => go s
    | .notHeader => s.badTarget tgt
    | .range => s.takeTrap { s.cw.trapHere 0x0201 with lanes := s.cw.issue, addr := tgt }
    | .walk _ => go s
    | .fault _ => go s

/-- The label of a CTL word (R176). -/
def Warp.label (w : Warp) (off : BitVec 19) : DWord := w.pc + (off.signExtend 64 <<< 2)

/-! ## Branches (R252) -/

/-- `bra`. -/
def execBra (off : BitVec 19) (s : State) : Out := .next (s.branchTo (s.cw.label off) (BitVec.allOnes 32) false)

/-- `brc`. -/
def execBrc (k : KReg) (off : BitVec 19) (s : State) : Out := .next (s.branchTo (s.cw.label off) (s.cw.k k.toNat) false)

/-- `brc.not`. -/
def execBrcNot (k : KReg) (off : BitVec 19) (s : State) : Out := .next (s.branchTo (s.cw.label off) (~~~s.cw.k k.toNat) false)

/-- `brs`. -/
def execBrs (off : BitVec 19) (s : State) : Out :=
  .next (s.branchTo (s.cw.label off) (if s.cw.sc then BitVec.allOnes 32 else 0) false)

/-- `brs.not`. -/
def execBrsNot (off : BitVec 19) (s : State) : Out :=
  .next (s.branchTo (s.cw.label off) (if s.cw.sc then 0 else BitVec.allOnes 32) false)

/-- `call`. -/
def execCall (off : BitVec 19) (s : State) : Out :=
  .next (s.guard (Uses.none.dstS 62 2) fun s => s.branchTo (s.cw.label off) (BitVec.allOnes 32) true)

/-- `jmp`. -/
def execJmp (p : BitVec 5) (s : State) : Out :=
  .next (s.guard (Uses.none.srcS (2 * p.toNat) 2) fun s => s.branchTo (s.cw.s64 (2 * p.toNat)) (BitVec.allOnes 32) false)

/-- `calli`: the pair is read before the link is written. -/
def execCalli (p : BitVec 5) (s : State) : Out :=
  .next (s.guard ((Uses.none.srcS (2 * p.toNat) 2).dstS 62 2) fun s => s.branchTo (s.cw.s64 (2 * p.toNat)) (BitVec.allOnes 32) true)

/-- `ret`. -/
def execRet (s : State) : Out :=
  .next (s.guard (Uses.none.srcS 62 2) fun s => s.branchTo (s.cw.s64 62) (BitVec.allOnes 32) false)

/-- `meet` (R35, R255): MR for every thread of the issue mask, after the target's check. -/
def execMeet (off : BitVec 19) (s : State) : Out :=
  let tgt := s.cw.label off
  .next (match s.testTarget tgt with
    | .header s => (s.updCw fun w => w.updThrs w.issue fun _ t => { t with mr := some tgt }).finish 1
    | .notHeader => s.badTarget tgt
    | .range => s.takeTrap { s.cw.trapHere 0x0201 with lanes := s.cw.issue, addr := tgt }
    | .walk va => s.fetchWalk .target va
    | .fault c => s.takeTrap { s.cw.trapHere c with lanes := s.cw.issue, addr := tgt })

end Sys2Proof.Machine
end

