-- ==== Sys2Proof/Machine/System.lean ====
section
/-! DEFINITION. System instructions (R303 to R314), special registers (R67 to R73), trap entry and return (R388, R391), sleep
and extended blocks. -/

namespace Sys2Proof.Machine

/-! ## `nop`, `yield`, `tail`, software traps -/

/-- `nop`. -/
def execNop (s : State) : Out := .next (s.finish 1)

/-- `yield`: it changes timing only (R304). -/
def execYield (s : State) : Out := .next (s.finish 1)

/-- The last threads of a warp have exited: in trap mode with other threads left, the mode ends (R388); with none left the
warp ends (R50). -/
def State.afterExit (s : State) (slot : Nat) : State :=
  let w := s.warp slot
  if w.alive = 0 then s.endWarp slot
  else if w.inTrap && w.trapped = 0 then s.leaveTrap slot false
  else s

/-- A `tail` that would end the warp waits for a tracker entry when operations are outstanding (R51). -/
def State.trackerFull (s : State) (m : Mask) : Bool :=
  s.cw.alive &&& ~~~m = 0 && s.hasOps s.cw.uid && 16 ≤ (s.core (coreOf s.cur)).tracker.length

/-- A `tail` that would complete a barrier's phase waits for what its waiters must see: an acquire in progress, a held release, and at `grp`
scope the drain set (R130, R131, R144). -/
def State.exitHeld (s : State) (m : Mask) : Bool :=
  ((s.relPending s.cur || s.acqPending s.cur) && s.exitCompletes s.cur m false)
    || (s.exitCompletes s.cur m true && !s.allAcked (s.drainSet s.cur))

/-- `tail` (R49 to R52, R305): a delivery point; the threads that the predicate excludes go on at the next header. -/
def execTail (p : Pred) (s : State) : Out :=
  .next (s.deliver none fun s =>
    let m := s.cw.predMask p
    if s.trackerFull m || s.exitHeld m then s
    else
      let cur := s.cur
      ((s.exitThreads cur m).finish 1).afterExit cur)

/-- A software trap with its code, resuming at the next header (R306, R399). -/
def State.softTrap (s : State) (cls : Nat) (code : BitVec 16) : State :=
  s.takeTrap { s.cw.trapHere (cls * 256) with lanes := s.cw.issue, imm := code, npc := s.cw.pc + 4 }

/-- `trap`. -/
def execTrap (code : BitVec 16) (s : State) : Out := .next (s.softTrap 0x10 code)

/-- `bkpt`. -/
def execBkpt (code : BitVec 16) (s : State) : Out := .next (s.softTrap 0x11 code)

/-! ## Trap entry and return -/

/-- TRAP_HANDLER_ENTRY (R388 step 3): every frame store is acknowledged. -/
def execTrapHandlerEntry (slot : Nat) (s : State) : Out :=
  .next (match (s.warp slot).trap with
    | some (t, .entering ops) =>
      if s.allAcked ops then
        let s := ops.foldl (fun s o => s.dropOp o) s
        ((s.updWarp slot fun w => w.startHandler t s.stamp).bump)
      else s
    | _ => s)

/-- `rte` (R307, R391): outside trap mode Illegal Instruction; with a mask other than the trapped threads a double trap. -/
def execRte (s : State) : Out :=
  .next (if !s.cw.inTrap then s.illegal 0x0F
    else if s.cw.issue ≠ s.cw.trapped then s.unhandled s.cur { s.cw.trapHere 0x010F with lanes := s.cw.issue } 4
    else s.leaveTrap s.cur true)

/-- The frame bytes that the reads of leaving trap mode have brought, zero where none was read. -/
def MemOp.frameBytes (o : MemOp) : List Byte :=
  (List.range 56).flatMap fun i => match Map.find? o.lanes i with
    | some l => lowBytes 32 (l.res ++ List.replicate 8 0)
    | none => List.replicate 32 0

/-- What the resume address names (R391). -/
inductive Resume where
  | inside (s : State) (c : Clause)
  | header (s : State)
  | bad

/-- What reading the clause at HDR anew finds. -/
inductive HdrClause where
  | ok (s : State) (c : Clause)
  | notHeader
  | walk (va : Nat)
  | fault (code va : Nat)

/-- The clause at HDR, read anew. -/
def State.clauseRead (s : State) (hdr : DWord) : HdrClause :=
  match s.fetchWord s.cur hdr.toNat with
  | .walk va => .walk va
  | .fault c va => .fault c va
  | .ok s h =>
    if !isHeader h then .notHeader
    else match s.fetchClause s.cur (hdr.toNat + 4) (h.extractLsb' 24 4).toNat with
      | .ok s ws => .ok s ⟨hdr, h.extractLsb' 21 3, h.getLsbD 14, ws, (h.extractLsb' 24 4).toNat⟩
      | .walk va => .walk va
      | .fault c va => .fault c va

/-- The same with walks made in place, at most `fuel` of them. -/
def State.clauseAt (s : State) (hdr : DWord) : Nat → HdrClause
  | 0 => .fault 0 0
  | n + 1 => match s.clauseRead hdr with
    | .walk va => match s.walkNow s.cur va with
      | some s => s.clauseAt hdr n
      | none => .fault 0 va
    | r => r

/-- A clause that stands at a header and is still to be read: it names no instruction (R391; log 75, DEDUCED). -/
def Clause.unread (hdr : DWord) : Clause := ⟨hdr, 0, false, [], 0⟩

/-- A clause at `hdr`, of at most 15 instructions, may hold an instruction word at an address (R157, R158). -/
def mayHold (hdr npc : DWord) : Bool := npc.toNat % 4 = 0 && hdr.toNat < npc.toNat && npc.toNat ≤ hdr.toNat + 120 && npc.toNat < 2 ^ 52

/-- The resume address of a frame (R391): inside the clause at HDR, at a header, or neither. A fault in reading its word is
taken there by the threads that resume, as at a branch (R392); so is one in reading the clause at HDR, where that may hold the address. -/
def State.resumeAt (s : State) (hdr npc : DWord) : Resume :=
  let outside : Resume := match s.branchTest npc 3 with
    | .header s => .header s
    | .walk _ => .header s
    | .fault _ => .header s
    | _ => .bad
  if hdr = 0 || !mayHold hdr npc then outside
  else match s.clauseAt hdr 4 with
    | .ok s' c => if (c.index npc).isSome then .inside s' c else outside
    | .notHeader => outside
    | _ => .inside s (Clause.unread hdr)

/-- A group that resumes in a clause still to be read reads it: it goes on inside the clause, or at a header (R391). -/
def State.readClause (s : State) (hdr : DWord) : State :=
  let go := fun (s : State) (c : Option Clause) => s.updCw fun w => w.updThrs w.issue fun _ t => if c = none then { t.leave with pc := t.pc } else { t with cl := c }
  match s.clauseRead hdr with
  | .ok s c => go s (if (c.index s.cw.pc).isSome then some c else none)
  | .notHeader => go s none
  | .walk va => s.fetchWalk .fetch va
  | .fault c va => s.fetchFault c va (s.headerIw0 va) 0

/-- A frame read has come back whole: trap mode ends, and the threads resume (R388, R391). -/
def State.frameBack (s : State) (o : MemOp) (id : Nat) : State :=
  match (s.warp o.slot).trap with
  | some (_, .leaving op resume) =>
    if op ≠ id then s
    else
      let bs := o.frameBytes
      let s := s.dropOp id
      let cur := s.cur
      let s := { s with cur := o.slot }
      let s :=
        if !resume then s.updCw fun w => { w.restore bs with trap := none }
        else
          let npc := frameDword bs 0x10
          match s.resumeAt (frameDword bs 0x18) npc with
          | .inside s c => s.updCw fun w => w.resume bs npc (some c) s.stamp
          | .header s => s.updCw fun w => w.resume bs npc none s.stamp
          | .bad => s.unhandled s.cur { s.cw.trapAtRte 0x010A with lanes := s.cw.trapped, addr := npc } 4
      let s := s.settle o.slot
      let s := s.nextTrap o.slot
      { s with cur }
  | _ => s

/-! ## Special registers (R67, R308, R309) -/

/-- A register of R67, by the width and kind that decide its destinations. -/
inductive SprKind where
  | word | lane | dword | laneDword | absent
deriving DecidableEq, Repr

def sprKind (i : Nat) : SprKind :=
  match i with
  | 0x00 => .lane | 0x01 => .lane | 0x02 => .laneDword | 0x07 => .lane
  | 0x03 => .word | 0x04 => .word | 0x05 => .word | 0x06 => .word | 0x08 => .word | 0x09 => .word | 0x0A => .word | 0x0B => .word
  | 0x0C => .word | 0x0D => .word | 0x0E => .word | 0x13 => .word
  | 0x0F => .dword | 0x10 => .dword | 0x11 => .dword | 0x12 => .dword
  | _ => .absent

/-- `%wid` of a lane of the issuing warp (R29). -/
def State.wid (s : State) (l : Nat) : DWord :=
  let w := s.cw
  let b := s.block w.block
  match s.launch? w.launch with
  | some x => x.wid (s.cluster b.cluster).number b.index (w.index % 128) l
  | none => 0

/-- The value of a register in a lane. -/
def State.spr (s : State) (i l : Nat) : DWord :=
  let w := s.cw
  match i with
  | 0x00 => (s.wid l).extractLsb' 0 32 |>.setWidth 64
  | 0x01 => (s.wid l).extractLsb' 32 32 |>.setWidth 64
  | 0x02 => s.wid l
  | 0x03 => BitVec.ofNat 64 (domainOf (coreOf s.cur))
  | 0x04 => BitVec.ofNat 64 (coreOf s.cur)
  | 0x05 => BitVec.ofNat 64 (quadOf s.cur % 4)
  | 0x06 => BitVec.ofNat 64 (s.cur % 16)
  | 0x07 => BitVec.ofNat 64 l
  | 0x08 => w.exm.setWidth 64
  | 0x09 => w.unc.setWidth 64
  | 0x0A => w.budget.setWidth 64
  | 0x0B => BitVec.ofNat 64 w.awb
  | 0x0C => BitVec.ofNat 64 w.awl
  | 0x0D => w.medge.setWidth 64
  | 0x0E => BitVec.ofNat 64 (b2n w.mbank)
  | 0x0F => w.tvec
  | 0x10 => w.tframe
  | 0x11 => BitVec.ofNat 64 s.time
  | 0x12 => match s.launch? w.launch with
    | some x => x.hdrVa
    | none => 0
  | 0x13 => match s.launch? w.launch with
    | some x => BitVec.ofNat 64 (b2n x.assured + 2 * b2n x.uncTrap)
    | none => 0
  | _ => 0

/-- A register read into vector lanes of the issue mask, with bound 0 (R308). -/
def State.sprToV (s : State) (i r : Nat) (wide : Bool) : State :=
  s.guard (Uses.none.dstV r (if wide then 2 else 1)) fun s =>
    (s.updCw fun w =>
      if wide then w.write64 w.issue r fun l => (s.spr i l, bndExact)
      else w.writeV w.issue r fun l => ⟨(s.spr i l).setWidth 32, bndExact⟩).finish 1

/-- A register read into a scalar or a scalar pair. -/
def State.sprToS (s : State) (i r : Nat) (wide : Bool) : State :=
  s.guard (Uses.none.dstS r (if wide then 2 else 1)) fun s =>
    (s.updCw fun w => if wide then w.setS64 r (s.spr i 0) else w.setS r ((s.spr i 0).setWidth 32)).finish 1

/-- Registers of a destination. -/
def sprDst (d : Src) (wide : Bool) : Uses := match d with
  | .v r => Uses.none.dstV r.toNat (if wide then 2 else 1)
  | .s r => Uses.none.dstS r.toNat (if wide then 2 else 1)
  | _ => Uses.none

/-- `sysr` (R308): a destination of the wrong kind is Illegal Instruction, cause 0x0E, after its registers (R397). -/
def execSysr (dst : Src) (idx : BitVec 8) (s : State) : Out :=
  let i := idx.toNat
  .next (match sprKind i, dst with
    | .word, .s r => s.sprToS i r.toNat false
    | .word, .v r => s.sprToV i r.toNat false
    | .lane, .v r => s.sprToV i r.toNat false
    | .dword, .s r => s.sprToS i r.toNat true
    | .dword, .v r => s.sprToV i r.toNat true
    | .laneDword, .v r => s.sprToV i r.toNat true
    | k, d => s.guard (sprDst d (k == .dword || k == .laneDword)) fun s => s.illegal 0x0E)

/-- `%medge` as stored: lengths clamped, reserved bits zero (R70, R309). -/
def clampEdge (v : Word) : Word :=
  BitVec.ofNat 32 (min (bitsOf v.toNat 8 0) 256 + min (bitsOf v.toNat 25 16) 512 * 65536)

/-- `%budget` as stored: bits [15:12] zero (R68, R309). -/
def clampBudget (v : Word) : Word := v &&& 0xFFFF0FFF#32

/-- An address register as stored: bits [1:0] and [63:52] zero (R309). -/
def clampAddr (v : DWord) : DWord := v &&& 0x000FFFFFFFFFFFFC#64

/-- A write of a special register; none when it is read-only or absent (R67, R309). -/
def Warp.setSpr (w : Warp) (i : Nat) (v : DWord) : Option Warp :=
  match i with
  | 0x08 => some { w with exm := v.setWidth 32 }
  | 0x09 => some { w with unc := v.setWidth 32 }
  | 0x0A => some { w with budget := clampBudget (v.setWidth 32) }
  | 0x0D => some { w with medge := clampEdge (v.setWidth 32) }
  | 0x0F => some { w with tvec := clampAddr v }
  | 0x10 => some { w with tframe := clampAddr v }
  | _ => none

/-- `sysw` (R309). -/
def execSysw (idx : BitVec 8) (src : Src) (s : State) : Out :=
  let i := idx.toNat
  let wide := sprKind i == .dword
  .next (s.guard (Uses.none.src (if wide then 2 else 1) src) fun s =>
    match s.cw.setSpr i (if wide then s.cw.rdS64 src else (s.cw.rdS src).setWidth 64) with
    | some w => (s.updCw fun _ => w).finish 1
    | none => s.illegal 0x0E)

/-- `budget` is `sysw %budget` (R309). -/
def execBudget (a : Src) (s : State) : Out :=
  .next (s.guard (Uses.none.srcs [a]) fun s => (s.updCw fun w => { w with budget := clampBudget (w.rdS a) }).finish 1)

/-- `time` (R310). -/
def execTime (d : SReg) (s : State) : Out := .next (s.sprToS 0x11 d.toNat true)

/-! ## Sleep (R311) -/

/-- `sleep`: the threads wait from now; with 0 it is a `yield`. -/
def execSleep (a : Src) (s : State) : Out :=
  .next (s.guard (Uses.none.srcs [a]) fun s =>
    let n := (s.cw.rdS a).toNat
    if n = 0 then s.finish 1
    else (s.updCw fun w => w.updThrs w.issue fun _ t => { t with st := .sleeping (s.time + n) }).finish 1)

/-- A sleeping thread leaves the waiting state where its time has come (R311). -/
def State.sleepEnd (s : State) (slot lane : Nat) : State :=
  match ((s.warp slot).thr lane).st with
  | .sleeping wake =>
    if lane < 32 && wake ≤ s.time then (s.updWarp slot fun w => w.wake (1#32 <<< lane) s.stamp).settle slot else s
  | _ => s

/-- SLEEP_WAKE (R311): not before the time. -/
def execSleepWake (slot lane : Nat) (s : State) : Out := .next (s.sleepEnd slot lane)

/-- Sleeping threads of the resident warps: slot, lane and the last time at which one leaves the waiting state (R311). -/
def State.sleepers (s : State) : List (Nat × Nat × Nat) :=
  s.warps.flatMap fun p => (List.range 32).filterMap fun l => match (p.2.thr l).st with
    | .sleeping wake => if p.2.live then some (p.1, l, wake + 1000) else none
    | _ => none

/-- Time does not pass the end of a thread's sleep (R311): the ns that may pass at once. -/
def State.sleepRoom (s : State) (ns : Nat) : Nat := s.sleepers.foldl (fun n x => min n (x.2.2 - s.time)) ns

/-- Threads whose sleep may last no longer wake. -/
def State.sleepOver (s : State) : State :=
  s.sleepers.foldl (fun t x => if x.2.2 ≤ s.time then t.sleepEnd x.1 x.2.1 else t) s

/-! ## Extended blocks (R313, R314) -/

/-- The warp takes blocks up to `n`, each reading zero and exact (R62, R313). -/
def Warp.takeBlocks (w : Warp) (n : Nat) : Warp :=
  { w with xblocks := n, vregs := Map.dropRange w.vregs (vkey (32 * (w.xblocks + 1)) 0) (vkey (32 * (n + 1)) 0) }

/-- Warps that hold as many blocks as the warp of a slot: itself, and the partner of an assured launch (R62). -/
def Role.copies : Role → Nat
  | .solo => 1
  | _ => 2

/-- The pool of a quadrant can supply what a slot and its partner still need (R62, R313). -/
def State.canSupply (s : State) (slot n : Nat) : Bool :=
  s.xUsed (quadOf slot) + (n - (s.warp slot).xblocks) * (s.warp slot).role.copies ≤ 24

/-- `xacq`. -/
def execXacq (n : BitVec 2) (s : State) : Out :=
  .next (
    let k := n.toNat
    let q := quadOf s.cur
    if k ≤ s.cw.xblocks then s.finish 1
    else if Map.get s.xq [] q = [] && s.canSupply s.cur k then (s.updCw fun w => w.takeBlocks k).finish 1
    else
      let m := s.cw.issue
      let slot := s.cur
      let s := (s.updCw fun w => w.updThrs m fun _ t => { t with st := .waitX n }).finish 1
      { s with xq := Map.upd s.xq [] q fun l => l ++ [(slot, m, k)] })

/-- XACQ_SERVED (R313): the oldest request of a quadrant, whole or not at all. -/
def execXacqServed (quadrant : Nat) (s : State) : Out :=
  .next (match Map.get s.xq [] quadrant with
    | [] => s
    | (slot, m, k) :: rest =>
      if s.canSupply slot k then
        let s := { s with xq := Map.set s.xq [] quadrant rest }
        (s.updWarp slot fun w => (if w.xblocks < k then w.takeBlocks k else w).wake (m &&& w.lanes fun t => match t.st with
          | .waitX _ => true
          | _ => false) s.stamp).settle slot
      else s)

/-- A lane is parked, replays its instruction, is trapped from its parked state, or stands at the instruction again after its handler, with
its destination in an extended block (R314, R424). -/
def Warp.parkedExtended (w : Warp) : Bool :=
  ((List.range 32).any fun l => (w.thr l).owes ||
    ((match (w.thr l).st with | .parked _ => true | _ => false) || (w.thr l).replay.isSome) && match (w.thr l).cl with
      | some c => dstExtended (c.word (w.thr l).pc) (isTwo (c.word (w.thr l).pc))
      | none => false)
  || w.trap.any (fun t => t.1.extended) || w.trapQueue.any TrapInfo.extended

/-- `xrel`: not before every operation that will write a register of the blocks has done so (R314). The dispatcher considers the blocks
freed (R331). -/
def execXrel (s : State) : Out :=
  .next (
    let w := s.cw
    let writes := s.ops.any fun p => p.2.uid = w.uid && p.2.kind.returns && p.2.kind != .sld && 32 ≤ p.2.dst + p.2.dstCount - 1
    if writes || w.parkedExtended then s
    else ((s.updCw fun w => { w with xblocks := 0, vregs := Map.dropRange w.vregs (vkey 32 0) (vkey 128 0) }).finish 1).dispatch)

/-! ## The active set (R335 to R337) -/

/-- A warp stands at a clause header with nothing issuing. -/
def Warp.atHeader (w : Warp) : Bool := w.issue = 0 && w.lag = [] && (List.range 32).all fun l => (w.thr l).st != .running || (w.thr l).cl == none

/-- The counters that the header at which a thread stands waits for (R160); none for a thread elsewhere, or while the header's word is not
at hand. -/
def State.waitsOf (s : State) (slot l : Nat) : BitVec 6 :=
  let th := (s.warp slot).thr l
  if th.cl.isSome then 0
  else match s.fetchWord slot th.pc.toNat with
    | .ok _ h => if isHeader h then h.extractLsb' 15 6 else 0
    | _ => 0

/-- The header wait of a thread is met. -/
def State.waitMet (s : State) (slot l : Nat) : Bool := (s.warp slot).countersZero (s.waitsOf slot l)

/-- A thread waits or is parked (R30, R337). -/
def TState.waits : TState → Bool
  | .waitBar _ _ => true
  | .waitTxb _ _ => true
  | .sleeping _ => true
  | .waitX _ => true
  | .waitPage _ _ _ _ => true
  | .waitHtu _ => true
  | .parked _ => true
  | _ => false

/-- What lets an active warp be swapped out: a header wait on a counter whose operations are outstanding, or every thread waiting or
parked (R337). -/
def State.outCause (s : State) (slot : Nat) : Bool :=
  let w := s.warp slot
  ((lanesOf w.issuers).any fun l => !s.waitMet slot l) || (lanesOf w.alive).all fun l => (w.thr l).st.waits

/-- Slots of a warp and of its partner (R338). -/
def Warp.slots (w : Warp) (slot : Nat) : List Nat := match w.role with
  | .leading b => [slot, b]
  | _ => [slot]

/-- A warp has been ready, or not ready, for `n` cycles up to now, as the machine notes each time that cycles pass (R337). -/
def State.readyFor (s : State) (slot : Nat) (ready : Bool) (n : Nat) : Bool :=
  (s.warp slot).ready == ready && decide ((s.warp slot).since + 1000 * n ≤ s.cycle)

/-- A warp enters the active set with its partner, at the present stamp (R336, R338). -/
def State.activate (s : State) (slot : Nat) : State :=
  ((s.warp slot).slots slot).foldl (fun x k => x.updWarp k fun w => { w with active := true, stamp := s.stamp }) s

/-- A warp and its partner leave the active set; the cycles that it is ready as a pending warp count from here (log 10, DEDUCED). -/
def State.retire (s : State) (slot : Nat) : State :=
  ((s.warp slot).slots slot).foldl (fun x k => x.updWarp k fun w => { w with active := false, since := s.cycle }) s

/-- A quadrant has made no swap in the present cycle (R337). -/
def State.swapFree (s : State) (quad : Nat) : Bool := Map.get s.swaps 0 quad ≤ s.cycle / 1000

/-- A swap may be made: both stand in one quadrant, in their sets, and speak for their pair, and the quadrant has made none in this
cycle. -/
def State.maySwap (s : State) (out inn : Nat) : Bool :=
  let a := s.warp out
  let b := s.warp inn
  a.live && b.live && a.active && !b.active && a.role.counts && b.role.counts && quadOf out = quadOf inn && s.swapFree (quadOf inn) && a.atHeader
    && b.ready

/-- The pending warps of a quadrant that are ready stand behind `inn` (R337). -/
def State.earliest (s : State) (inn : Nat) : Bool :=
  s.warps.all fun p => quadOf p.1 ≠ quadOf inn || !p.2.live || p.2.active || !p.2.role.counts || !p.2.ready || (s.warp inn).stamp ≤ p.2.stamp

/-- An active warp at a header is displaced before the others of its quadrant: one that is not ready, else that of the latest stamp
(R337). -/
def State.displaced (s : State) (out : Nat) : Bool :=
  let others := s.warps.filter fun p => quadOf p.1 = quadOf out && p.2.live && p.2.active && p.2.role.counts && p.2.atHeader
  !(s.warp out).ready || others.all fun p => p.2.ready && p.2.stamp ≤ (s.warp out).stamp

/-- An active warp that stands at a header leaves the set for a ready pending warp of its quadrant (R337). For a pair for which one place is
not enough, a second one leaves with it (R335, R338; log 57, DEDUCED). -/
def State.swap (s : State) (out inn : Nat) : State :=
  let n := ((s.warp inn).slots inn).length
  let x : State := { s.retire out with swaps := Map.set s.swaps 0 (quadOf inn) (s.cycle / 1000 + 1) }
  if x.activeRoom inn n then x.activate inn
  else match (x.warps.filter fun p => quadOf p.1 = quadOf inn && p.2.live && p.2.active && p.2.role.counts && p.2.atHeader).find? fun p => x.displaced p.1 with
    | some p => if (x.retire p.1).activeRoom inn n then (x.retire p.1).activate inn else s
    | none => s

/-- WARP_SWAP_OUT: an active warp that has not been ready for 32 cycles gives its place to the ready pending warp of earliest stamp
(R337). -/
def execWarpSwapOut (out inn : Nat) (s : State) : Out :=
  .next (if s.maySwap out inn && s.readyFor out false 32 && s.outCause out && s.earliest inn then s.swap out inn else s)

/-- WARP_SWAP_IN: a pending warp that has been ready for 256 cycles displaces an active warp at a header (R337). -/
def execWarpSwapIn (inn out : Nat) (s : State) : Out :=
  .next (if s.maySwap out inn && s.readyFor inn true 256 && s.displaced out then s.swap out inn else s)

end Sys2Proof.Machine
end

