-- ==== Sys2Proof/Machine/Copy.lean ====
section
/-! DEFINITION. The copy instructions at issue and their transfers (R181, R285 to R298), the tensor descriptor (R290, R291)
and `launch` at issue (R312). -/

namespace Sys2Proof.Machine

/-! ## Checks at issue (R286) -/

/-- One check of an operand: the memory cause it raises and the address or offset concerned. -/
abbrev Check := Bool × Nat × Nat

/-- The first check that fails, in the order address range, misaligned, scratchpad range (R286, R392). -/
def firstFailed (cs : List Check) : Option (Nat × Nat) :=
  ((cs.filter fun c => c.1).map fun c => c.2).foldl (fun m c => match m with
    | some x => if c.1 < x.1 then some c else some x
    | none => some c) none

/-- A global operand of `n` bytes: its range, and its alignment. -/
def checkGlobal (va n align : Nat) : List Check :=
  [(2 ^ 52 ≤ va || (n != 0 && 2 ^ 52 < va + n), 1, va), (va % align != 0, 2, va)]

/-- A scratchpad operand of `n` bytes in a slice. -/
def checkSpad (slice off n align : Nat) : List Check := [(off % align != 0, 2, off), (n != 0 && slice < off + n, 3, off)]

/-- A transaction-barrier offset (R245). -/
def checkTxb (slice : Nat) (off : Option Nat) : List Check :=
  match off with
  | some o => [(o % 16 != 0, 2, o), (slice < o + 16, 3, o)]
  | none => []

/-- The checks, then `k`. -/
def State.checked (s : State) (cs : List Check) (k : State → State) : State :=
  match firstFailed cs with
  | some (cause, addr) => s.cpyFault cause addr
  | none => k s

/-- Scalar registers of a copy: those of its operands and of its barrier. -/
def cpyUses (c : Done) (rs : List Nat) : Uses :=
  { Uses.none with sr := rs ++ (match c.txb with | some t => [t.toNat] | none => []) }

/-- The offset that a copy's barrier register holds. -/
def Warp.txbOff (w : Warp) (c : Done) : Option Nat := c.txb.map fun t => (w.s t.toNat).toNat

/-- An operation with its counter and its barrier in a slice. -/
def EngOp.sign (e : EngOp) (off : Option Nat) (b j : Nat) : EngOp := { e with txb := off.map fun o => (b, j, o) }

/-! ## The forms -/

/-- `cpy.t` in either direction (R292): three entries, of which the window ranges follow the descriptor (R153). -/
def State.cpyT (s : State) (kind : EngKind) (c : Done) (sa sb sc : SReg) : Out :=
  let n := min 7 (63 - sc.toNat) + 1
  .next (s.engGate (cpyUses c ([sa.toNat, sa.toNat + 1, sb.toNat] ++ regRun sc.toNat n)) c.dc fun s =>
    let w := s.cw
    let dva := (w.s64 sa.toNat).toNat
    let off := (w.s sb.toNat).toNat
    let slice := s.sliceOf w.block
    s.checked (checkGlobal dva 128 128 ++ [(off % 16 != 0, 2, off), (slice ≤ off, 3, off)] ++ checkTxb slice (w.txbOff c)) fun s =>
      let e := (s.engOp kind c.dc).sign (w.txbOff c) w.block (s.coreInBlock w)
      let e := { e with a := w.s64 sa.toNat, b := (w.s sb.toNat).setWidth 64, coords := (regRun sc.toNat n).map w.s }
      let out := kind.outward
      s.issueEng e [e.global dva (dva + 128) false, spadRange e.core w.block 0 0 (!out), e.global 0 0 out])

/-- `cpy.t.in`. -/
def execCpyTIn (c : Done) (sa sb sc : SReg) (s : State) : Out := s.cpyT .cpyTIn c sa sb sc

/-- `cpy.t.out`. -/
def execCpyTOut (c : Done) (sa sb sc : SReg) (s : State) : Out := s.cpyT .cpyTOut c sa sb sc

/-- Ranges that name a byte. -/
def nonEmpty (rs : List (Nat × LockRange)) : List (Nat × LockRange) := rs.filter fun r => r.2.lo < r.2.hi

/-- A copy of `n` bytes between a global address and a scratchpad offset. -/
def State.cpyLine (s : State) (kind : EngKind) (c : Done) (sa sb sc : SReg) (align : Nat) : Out :=
  .next (s.engGate (cpyUses c [sa.toNat, sa.toNat + 1, sb.toNat, sc.toNat]) c.dc fun s =>
    let w := s.cw
    let va := (w.s64 sa.toNat).toNat
    let off := (w.s sb.toNat).toNat
    let n := (w.s sc.toNat).toNat
    let slice := s.sliceOf w.block
    s.checked (checkGlobal va n align ++ checkSpad slice off n align ++ [(n % align != 0, 2, n)] ++ checkTxb slice (w.txbOff c)) fun s =>
      let e := (s.engOp kind c.dc).sign (w.txbOff c) w.block (s.coreInBlock w)
      let e := { e with a := w.s64 sa.toNat, b := (w.s sb.toNat).setWidth 64, c := (w.s sc.toNat).setWidth 64, credit := n }
      let out := kind.outward
      s.issueEng e (nonEmpty [e.global va (va + n) out, spadRange e.core w.block off (off + n) (!out)]))

/-- `cpy.b.in` (R293). -/
def execCpyBIn (c : Done) (sa sb sc : SReg) (s : State) : Out := s.cpyLine .cpyBIn c sa sb sc 16

/-- `cpy.b.out` (R293). -/
def execCpyBOut (c : Done) (sa sb sc : SReg) (s : State) : Out := s.cpyLine .cpyBOut c sa sb sc 16

/-- `cpy.red` (R296). -/
def execCpyRed (c : Done) (sa sb sc : SReg) (ty : Fmt) (rop : Rop) (s : State) : Out :=
  s.cpyLine (.cpyRed ty rop) c sa sb sc (if fmtBits ty = 64 then 8 else 4)

/-- `cpy.p` (R294): its ranges lie in two tables (R287). -/
def execCpyP (c : Done) (sa sb sc sd : SReg) (s : State) : Out :=
  .next (s.engGate (cpyUses c [sa.toNat, sb.toNat, sc.toNat, sd.toNat]) c.dc fun s =>
    let w := s.cw
    let src := (w.s sa.toNat).toNat
    let dst := (w.s sb.toNat).toNat
    let n := (w.s sc.toNat).toNat
    let sel := (w.s sd.toNat).toNat
    let b := bitsOf sel 2 0
    let j := bitsOf sel 4 3
    let blocks := (s.cluster (s.block w.block).cluster).blocks
    let cores := (s.block w.block).cores.length
    let slice := s.sliceOf w.block
    s.checked (checkSpad slice src n 16 ++ checkSpad slice dst n 16 ++ [(n % 16 != 0, 2, n), (blocks.length ≤ b || cores ≤ j, 3, dst)]
        ++ checkTxb slice (w.txbOff c)) fun s =>
      let pb := blocks.getD b 0
      let e := (s.engOp .cpyP c.dc).sign (w.txbOff c) pb j
      let e := { e with a := (w.s sa.toNat).setWidth 64, b := (w.s sb.toNat).setWidth 64, c := (w.s sc.toNat).setWidth 64,
                        credit := n, peer := (pb, j) }
      let far := match (s.block pb).cores[j]? with
        | some core => [spadRange core pb dst (dst + n) true]
        | none => []
      s.issueEng e (nonEmpty (spadRange e.core w.block src (src + n) false :: far)))

/-- `cpy.pf` (R297): no range, no fault, no counter. -/
def execCpyPf (sa sc : SReg) (s : State) : Out :=
  .next (s.engGate (Uses.none.srcS sa.toNat 2 |>.srcS sc.toNat 1) 7 fun s =>
    let w := s.cw
    let e := s.engOp .cpyPf 7
    s.issueEng { e with a := w.s64 sa.toNat, c := (w.s sc.toNat).setWidth 64 } [])

/-- Lanes of a gather with the source address of each (R298). -/
def EngOp.gatherRows (e : EngOp) : List (Nat × Nat) :=
  (lanesOf (e.extra.getD 0 0)).map fun l => (l, e.a.toNat + (e.coords.getD l 0).toNat * e.c.toNat)

/-- The global range that a gather reads. -/
def EngOp.gatherRange (e : EngOp) : Nat × Nat :=
  e.gatherRows.foldl (fun r x => if r.1 = r.2 then (x.2, x.2 + e.c.toNat) else (min r.1 x.2, max r.2 (x.2 + e.c.toNat))) (0, 0)

/-- `cpy.g` (R298). -/
def execCpyG (c : Done) (sa sb sc : SReg) (vi : VReg) (s : State) : Out :=
  .next (s.engGate ((cpyUses c [sa.toNat, sa.toNat + 1, sb.toNat, sc.toNat]).srcV vi.toNat 1) c.dc fun s =>
    let w := s.cw
    let va := (w.s64 sa.toNat).toNat
    let off := (w.s sb.toNat).toNat
    let r := (w.s sc.toNat).toNat
    let m := w.eff
    let slice := s.sliceOf w.block
    s.checked (checkGlobal va 0 16 ++ [(r % 16 != 0 || r = 0 || 65536 < r, 2, r)] ++ checkSpad slice off (32 * r) 16
        ++ checkTxb slice (w.txbOff c)) fun s =>
      let e := ({ s.engOp .cpyG c.dc with owners := w.eff } : EngOp).sign (w.txbOff c) w.block (s.coreInBlock w)
      let e := { e with a := w.s64 sa.toNat, b := (w.s sb.toNat).setWidth 64, c := (w.s sc.toNat).setWidth 64,
                        coords := (List.range 32).map fun l => (w.v vi.toNat l).val, extra := [m], credit := r * countOf m }
      let g := e.gatherRange
      s.issueEng e (nonEmpty [e.global g.1 g.2 false, spadRange e.core w.block off (off + 32 * r) true]))

/-! ## Beginning (R152) -/

/-- The transfers of a copy that needs no descriptor. A prefetch skips lines beyond the address range (R103, R297). -/
def EngOp.beginCopy (e : EngOp) : EngOp :=
  let a := e.a.toNat
  let b := e.b.toNat
  let n := e.c.toNat
  let ps := match e.kind with
    | .cpyBIn => chunks a b n n
    | .cpyBOut => chunks b a n n
    | .cpyRed _ _ => chunks b a n n
    | .cpyP => chunks a b n n
    | .cpyG => e.gatherRows.flatMap fun x => chunks x.2 (b + x.1 * n) n n
    | _ => []
  match e.kind with
  | .cpyPf =>
    let top := min (a + n) (2 ^ 52)
    let lines := if top ≤ a then [] else (List.range ((top - 1) / 128 - a / 128 + 1)).map fun i => a / 128 + i
    { e with st := .active, xfers := lines.map fun x => ⟨[⟨x * 128, x * 128, 1, none, false⟩], false, none, false⟩ }
  | _ => { e with st := .active, xfers := xfersOf ps }

/-- A descriptor or a launch header is read whole, as one snapshot (R291, R312). -/
def EngOp.beginRead (e : EngOp) : EngOp :=
  { e with st := .descriptor, xfers := [⟨[⟨e.a.toNat, e.a.toNat, 128, none, false⟩], false, none, false⟩] }

/-- The bytes of a snapshot. -/
def EngOp.snapshot (e : EngOp) : List Byte := (Map.find? e.buf (e.a.toNat / 32)).getD []

/-! ## Tensor windows (R290 to R292) -/

/-- A dimension of a tensor copy, with its origin coordinate. -/
structure Dim where
  len : Nat
  win : Nat
  pitch : Nat
  wrap : Bool
  origin : Int

/-- Field of a descriptor. -/
def descField (d : List Byte) (off n : Nat) : Nat := natOf ((d.drop off).take n)

/-- Element size in half bytes: E2M1 has one. -/
def halves (enc : Nat) : Nat := fmtBits (fmtOfCode enc) / 4
where
  /-- The format of a type code (R74). -/
  fmtOfCode (c : Nat) : Fmt := match c with
    | 0 => .f32 | 1 => .f16 | 2 => .bf16 | 3 => .e4m3 | 4 => .e5m2 | 5 => .e2m1 | 6 => .e8m0 | 7 => .s8 | 8 => .s16 | 9 => .s32
    | 10 => .n8 | 11 => .n16 | 12 => .n32 | 13 => .s64 | _ => .n64

/-- A dimension record within its limits (R290). -/
def dimOk (d : List Byte) (dims i : Nat) : Bool :=
  let r := 16 + 14 * i
  let len := descField d r 4
  let win := descField d (r + 4) 2
  let pitch := descField d (r + 6) 6
  let flag := descField d (r + 12) 2
  if i < dims then
    1 ≤ len && 1 ≤ win && flag / 2 = 0 && (if i = 0 then pitch = 0 else 16 * pitch < 2 ^ 52)
  else len = 0 && win = 0 && pitch = 0 && flag = 0

/-- The dimensions of a descriptor with the origin coordinates read at issue. -/
def dimsOf (d : List Byte) (coords : List Word) : List Dim :=
  (List.range (descField d 8 1)).map fun i =>
    let r := 16 + 14 * i
    ⟨descField d r 4, descField d (r + 4) 2, descField d (r + 6) 6, (descField d (r + 12) 2) % 2 = 1, (coords.getD i 0).toInt⟩

/-- Whether a descriptor is valid for an operation (R291). -/
def descOk (d : List Byte) (coords : List Word) (off : Nat) : Bool :=
  let n := descField d 8 1
  let enc := descField d 9 1
  let ds := dimsOf d coords
  let d0 := ds.headD ⟨1, 1, 0, false, 0⟩
  descField d 0 8 < 2 ^ 52 && descField d 0 8 % 16 = 0 && 1 ≤ n && n ≤ 8 && enc ≤ 14 && descField d 10 1 ≤ 1
    && descField d 11 5 = 0 && (List.range 8).all (fun i => dimOk d n i) && n ≤ coords.length
    && (enc != 5 || (d0.win % 2 = 0 && d0.len % 2 = 0 && d0.origin % 2 = 0))
    && (descField d 10 1 = 0 || (d0.win * halves enc % 256 = 0 && off % 128 = 0))

/-- Window positions: the coordinates' global half-byte distance from BASE when inside, by linear index (R292). -/
def positions (half : Nat) : List Dim → Nat → List (Option Nat)
  | [], _ => [some 0]
  | d :: t, i =>
    let rest := positions half t (i + 1)
    let here := (List.range d.win).map fun (p : Nat) =>
      let c := d.origin + p
      let c := if d.wrap then c % (d.len : Int) else c
      if 0 ≤ c && c < d.len then some (c.toNat * (if i = 0 then half else 32 * d.pitch)) else none
    rest.flatMap fun r => here.map fun h => match r, h with
      | some x, some y => some (x + y)
      | _, _ => none

/-- Half-byte place of a window position in scratchpad (R292). -/
def windowPlace (swz : Bool) (off win0 half q : Nat) : Nat :=
  if !swz then 2 * off + q * half
  else
    let j := q / win0
    let xh := q % win0 * half
    let x := xh / 2
    2 * (off + j * (win0 * half / 2) + (x - x / 16 % 8 * 16) + (Nat.xor (x / 16 % 8) (j % 8)) * 16) + xh % 2

/-- The pieces of a tensor copy: one for each position that moves. -/
def windowPieces (d : List Byte) (coords : List Word) (off : Nat) (out : Bool) : List Piece :=
  let half := halves (descField d 9 1)
  let ds := dimsOf d coords
  let base := 2 * descField d 0 8
  let ps := positions half ds 0
  let win0 := (ds.headD ⟨1, 1, 0, false, 0⟩).win
  (List.range ps.length).filterMap fun q =>
    let sp := windowPlace (descField d 10 1 = 1) off win0 half q
    let mk := fun (src dst : Nat) (zero : Bool) =>
      if half = 1 then ⟨src / 2, dst / 2, 1, some (src % 2 = 1, dst % 2 = 1), zero⟩ else (⟨src / 2, dst / 2, half / 2, none, zero⟩ : Piece)
    match ps.getD q none with
    | some g => some (if out then mk sp (base + g) false else mk (base + g) sp false)
    | none => if out then none else some (mk 0 sp true)

/-- Bytes of a window in scratchpad. -/
def windowBytes (d : List Byte) (coords : List Word) : Nat :=
  ((dimsOf d coords).map (·.win)).prod * halves (descField d 9 1) / 2

/-- The global range that a window reaches inside the tensor. -/
def windowRange (ps : List Piece) (out : Bool) : Nat × Nat :=
  (ps.filter fun p => !p.zero).foldl (fun r p =>
    let a := if out then p.dst else p.src
    if r.1 = r.2 then (a, a + p.len) else (min r.1 a, max r.2 (a + p.len))) (0, 0)

/-- The window ranges of an operation set in place of its two empty entries (R153). -/
def State.setRanges (s : State) (id : Nat) (e : EngOp) (sp gl : Nat × Nat) (out : Bool) : State :=
  let s := s.unlock id
  s.lock [(e.core, ⟨id, true, e.vf, e.asid, e.block, e.a.toNat, e.a.toNat + 128, false⟩),
    (e.core, ⟨id, false, 0, 0, e.block, sp.1, sp.2, !out⟩), (e.core, ⟨id, true, e.vf, e.asid, e.block, gl.1, gl.2, out⟩)]

/-- TENSOR_DESCRIPTOR_READ (R291): the snapshot is checked, then the window ranges are registered once they overlap no lock. -/
def execTensorDescriptorRead (op : Nat) (s : State) : Out :=
  .next (match s.eng? op with
    | none => s
    | some e =>
      if e.st != .descriptor || e.fault.isSome || !(e.xfers.all fun x => x.done) || !(e.kind == .cpyTIn || e.kind == .cpyTOut) then s
      else
        let d := e.snapshot
        let off := e.b.toNat
        let out := e.kind.outward
        if !descOk d e.coords off then s.setEng op { e with fault := some (0x0A03, e.a) }
        else
          let n := windowBytes d e.coords
          if s.sliceOf e.block < off + n then s.setEng op { e with fault := some (0x0203, e.b) }
          else
            let ps := windowPieces d e.coords off out
            let g := windowRange ps out
            let rs : List LockRange := [⟨op, false, 0, 0, e.block, off, off + n, !out⟩, ⟨op, true, e.vf, e.asid, e.block, g.1, g.2, out⟩]
            if rs.any fun r => s.rangeBlocked e.core r then s
            else (s.setRanges op e (off, off + n) g out).setEng op { e with st := .active, credit := n, xfers := xfersOf ps, buf := [] })

/-! ## `launch` (R312) -/

/-- `launch`: the header's address is checked; the header is read later. -/
def execLaunch (p : BitVec 5) (dc : BitVec 3) (s : State) : Out :=
  .next (s.engGate (Uses.none.srcS (2 * p.toNat) 2) dc fun s =>
    let w := s.cw
    let va := (w.s64 (2 * p.toNat)).toNat
    s.checked (checkGlobal va 128 128) fun s =>
      let e := { s.engOp .launch dc with a := w.s64 (2 * p.toNat) }
      let (id, s) := s.fresh
      let s := s.updLaunch w.launch fun l => { l with launched := true }
      ((s.setEng id e).updCw fun w => w.inc dc).finish 1)

end Sys2Proof.Machine
end

