-- ==== Sys2Proof/Machine/Gmem.lean ====
section
/-! DEFINITION. The global and group-space memory instructions at issue (R174, R223 to R235). -/

namespace Sys2Proof.Machine

/-- Registers that a GMEM instruction names; a replay reads none (R419). -/
def Warp.gmemUses (w : Warp) (kind : MemKind) (group : Bool) (g : Gmem) : Uses :=
  let u := if kind == .sld then Uses.none.dstS (g.vdata.toNat % 64) g.width.regs
    else if kind.returns then Uses.none.dstV g.vdata.toNat g.width.regs else Uses.none
  if (w.thr w.lead).replay.isSome then u
  else
    let u := if group then u else u.srcS (2 * g.pair.toNat) 2
    let u := if g.novoff then u else u.srcV g.voff.toNat 1
    u.srcV g.vdata.toNat (kind.operands g.width)

/-- A GMEM instruction that waits: on a register in flight (R233), a full counter (R66), an acquire in progress (R131), or for a write a
held release (R130). -/
def State.gmemWaits (s : State) (kind : MemKind) (group : Bool) (g : Gmem) : Bool :=
  s.interlocked (s.cw.gmemUses kind group g) || s.cw.ctrFull g.dc || s.acqPending s.cur || (kind.writes && s.relPending s.cur)

/-- A GMEM instruction: delivery, then operands readable, then issued (R392). -/
def State.gmem (s : State) (kind : MemKind) (group : Bool) (g : Gmem) : Out :=
  .next (if s.gmemWaits kind group g then s
    else s.gmemPoint kind g fun s => s.guard (s.cw.gmemUses kind group g) fun s => s.issueGmem kind group g)

/-- `ld`. -/
def execLd (g : Gmem) (s : State) : Out := s.gmem .ld false g

/-- `st`. -/
def execSt (g : Gmem) (s : State) : Out := s.gmem .st false g

/-- `atom`. -/
def execAtom (g : Gmem) (s : State) : Out := s.gmem .atom false g

/-- `red`. -/
def execRed (g : Gmem) (s : State) : Out := s.gmem .red false g

/-- `cas`. -/
def execCas (g : Gmem) (s : State) : Out := s.gmem .cas false g

/-- `gld`. -/
def execGld (g : Gmem) (s : State) : Out := s.gmem .ld true g

/-- `gst`. -/
def execGst (g : Gmem) (s : State) : Out := s.gmem .st true g

/-- `gatom`. -/
def execGatom (g : Gmem) (s : State) : Out := s.gmem .atom true g

/-- `gcas`. -/
def execGcas (g : Gmem) (s : State) : Out := s.gmem .cas true g

/-- `sld`: one access for the warp, whatever `%exm` holds (R225, R230). -/
def execSld (g : Gmem) (s : State) : Out :=
  .next (s.guard (s.cw.gmemUses .sld false g) fun s =>
    if s.cw.ctrFull g.dc || s.acqPending s.cur then s
    else
      let o := { s.gmemOp .sld g with dst := g.vdata.toNat % 64 }
      let o := { o with lanes := [(0, s.issueLane false 0 o g s.cw.lead)] }
      let hits := s.lockLanes true o.vf o.asid 0 false [(0, (o.lane 0).addr.toNat, o.width.bytes)]
      if s.ownHeld o then s
      else if hits != [] then
        s.takeTrap { s.cw.trapHere (0x0300 + (hits.headD (0, 0, 1)).2.2) with
          lanes := s.cw.issue, addr := (o.lane 0).addr, info := memInfo o 0 }
      else s.launchOp o [])

/-- `pf`: lines asked for; an address that would fault is dropped (R231). -/
def execPf (g : Gmem) (s : State) : Out :=
  .next (s.guard (s.cw.gmemUses .pf false g) fun s =>
    if s.acqPending s.cur then s
    else
      let o := s.gmemOp .pf g
      let ls := (lanesOf s.cw.eff).map fun l => (l, s.issueLane false 0 o g l)
      let ls := ls.filter fun p => p.2.st == .sent && (s.l1Line o.core o.vf o.asid p.2.addr.toNat).isNone
      let s := if ls = [] then s
        else let (id, s) := s.fresh; s.setOp id { o with lanes := ls }
      s.finish 2)

end Sys2Proof.Machine
end

