-- ==== Sys2Proof/Machine/Integer.lean ====
section
/-! DEFINITION. Integer and bit functions of a word, one for each mnemonic of R197 and R198, whatever the format. -/

namespace Sys2Proof.Machine

/-- Bits [63:32] of the signed and of the unsigned product. -/
def mulhiS (a b : Word) : Word := BitVec.ofInt 32 (a.toInt * b.toInt / 2 ^ 32)
def mulhiN (a b : Word) : Word := BitVec.ofNat 32 (a.toNat * b.toNat / 2 ^ 32)

/-- Shifts by the unsigned value b: a count of the width or more leaves nothing but the sign (R197). -/
def shl32 (a b : Word) : Word := if b.toNat < 32 then a <<< b.toNat else 0
def shr32 (a b : Word) : Word := a >>> b.toNat
def sar32 (a b : Word) : Word := a.sshiftRight b.toNat
def shl64 (a : DWord) (b : Word) : DWord := if b.toNat < 64 then a <<< b.toNat else 0
def shr64 (a : DWord) (b : Word) : DWord := a >>> b.toNat
def sar64 (a : DWord) (b : Word) : DWord := a.sshiftRight b.toNat

def minS (a b : Word) : Word := if a.sle b then a else b
def minN (a b : Word) : Word := if a.ule b then a else b
def maxS (a b : Word) : Word := if a.sle b then b else a
def maxN (a b : Word) : Word := if a.ule b then b else a

/-- How many of the low `n` bits are set. -/
def popcUpTo (a : Word) : Nat → Nat
  | 0 => 0
  | n + 1 => popcUpTo a n + (if a.getLsbD n then 1 else 0)

/-- Leading zeros among the low `n` bits, and trailing zeros among the high `n`. -/
def clzFrom (a : Word) : Nat → Nat
  | 0 => 0
  | n + 1 => if a.getLsbD n then 0 else clzFrom a n + 1

def ctzFrom (a : Word) : Nat → Nat
  | 0 => 0
  | n + 1 => if a.getLsbD (31 - n) then 0 else ctzFrom a n + 1

def popc (a : Word) : Word := BitVec.ofNat 32 (popcUpTo a 32)
def clz (a : Word) : Word := BitVec.ofNat 32 (clzFrom a 32)
def ctz (a : Word) : Word := BitVec.ofNat 32 (ctzFrom a 32)

/-- Bit i moved to bit 31 − i. -/
def bitReverse (a : Word) : Word := a.reverse

/-- Offset and number of bits of a field word (R198). -/
def fieldOff (f : Word) : Nat := f.toNat % 32
def fieldLen (f : Word) : Nat := min (fieldOff f + min (f.toNat / 256 % 64) 32) 32 - fieldOff f

/-- bfe of R198. -/
def bfe (signed : Bool) (x f : Word) : Word :=
  let n := fieldLen f
  if n = 0 then 0
  else
    let v := x.toNat / 2 ^ fieldOff f % 2 ^ n
    if signed && v.testBit (n - 1) then BitVec.ofInt 32 ((v : Int) - 2 ^ n) else BitVec.ofNat 32 v

/-- bfi of R198. -/
def bfi (ins base f : Word) : Word :=
  let m := BitVec.ofNat 32 ((2 ^ fieldLen f - 1) * 2 ^ fieldOff f)
  (base &&& ~~~m) ||| ((ins <<< fieldOff f) &&& m)

/-- Widening multiply-add into 64 bits. -/
def madW (signed : Bool) (a b : Word) (c : DWord) : DWord :=
  if signed then BitVec.ofInt 64 (a.toInt * b.toInt) + c else BitVec.ofNat 64 (a.toNat * b.toNat) + c

/-- `lea.b64`: a plus the sign-extended b shifted by c mod 64. -/
def lea (a : DWord) (b c : Word) : DWord := a + (b.signExtend 64 <<< (c.toNat % 64))

/-- Byte i of a word as a signed number. -/
def byteS (a : Word) (i : Nat) : Int := (a.extractLsb' (8 * i) 8).toInt

/-- `dot4.s8`. -/
def dot4 (a b c : Word) : Word :=
  c + BitVec.ofInt 32 (byteS a 0 * byteS b 0 + byteS a 1 * byteS b 1 + byteS a 2 * byteS b 2 + byteS a 3 * byteS b 3)

end Sys2Proof.Machine
end

