-- ==== Sys2Proof/Machine/MatMath.lean ====
section
/-! DEFINITION. The arithmetic of the matrix engine: alignment blocks and digits (R92, R93), the governor (R94), the sum of a
row and a column (R95), the row bound (R96), and the conversion and computed scales of `mat.st` (R280, R281). -/

namespace Sys2Proof

/-- Bytes between the lines of an operand (R180, R269). -/
def Spec.lineStride (p : Spec) : Nat := 16 * p.stride.toNat

end Sys2Proof

namespace Sys2Proof.Machine

/-- The format of a specifier's type code (R74). -/
def fmtOf (c : BitVec 4) : Fmt :=
  match c.toNat with
  | 0 => .f32 | 1 => .f16 | 2 => .bf16 | 3 => .e4m3 | 4 => .e5m2 | 5 => .e2m1 | 6 => .e8m0 | 7 => .s8 | 8 => .s16 | 9 => .s32
  | 10 => .n8 | 11 => .n16 | 12 => .n32 | 13 => .s64 | 14 => .n64 | _ => .bnd

/-- Scale block of an `sblk` field, 32 where it names none (R92). -/
def blockOf (sblk : BitVec 2) : Nat := match sblk.toNat with | 1 => 8 | 2 => 16 | _ => 32

/-- Shape of a bank: K and N for a B type of 16 bits or fewer (R258). -/
def shapeK : BShape → Nat
  | .k64 => 64 | .k128 => 128 | .k256 => 256
def shapeN (sh : BShape) (wide : Bool) : Nat := 32768 / shapeK sh / (if wide then 2 else 1)

/-- A product and a sum of exact arithmetic with the special values and the NaN order of R77. -/
def mulN (a b : FV) : FV := match firstNan [a, b] with | some n => n | none => mulFV a b
def addN (a b : FV) : FV := match firstNan [a, b] with | some n => n | none => addFV .rne a b

/-- The sum of a list in order; +0 for none. -/
def sumN : List FV → FV
  | [] => .fin false 0 0
  | v :: t => t.foldl addN v

/-- A list cut into runs of `n`, the last one shorter. -/
def cut {α : Type} (n : Nat) : Nat → List α → List (List α)
  | 0, _ => []
  | _, [] => []
  | f + 1, l => l.take n :: cut n f (l.drop n)

/-! ## Alignment blocks (R92, R93) -/

/-- An alignment block fed with some digits: its elements as converted, whether it is inexact, and E. -/
structure Fed where
  vals : List FV
  inexact : Bool
  e : Int

/-- E of a block: the largest floor of log2 among its non-zero elements, 0 when all are zero. -/
def blockE (vs : List FV) : Int :=
  (vs.filterMap fun v => if v.isZero then none else some v.dy.ilog2).foldl (fun (m : Option Int) x => some (match m with
    | some y => max x y
    | none => x)) none |>.getD 0

/-- One block converted with `d` digits; an integer block is exact. -/
def feed (int : Bool) (d : Nat) (vs : List FV) : Fed :=
  if int then ⟨vs, false, 0⟩
  else
    let e := blockE vs
    let q := vs.map fun v => match v with
      | .fin n m x => FV.fin n (roundInt .rz false m (x + (4 * d - 1 : Int) - e)) (e + 1 - 4 * d)
      | v => v
    ⟨q, (vs.zip q).any fun p => !p.1.dy.same p.2.dy, e⟩

/-- Least and most digits of an A type (R93). -/
def digitLimits : Fmt → Nat × Nat
  | .e2m1 => (1, 1)
  | .s8 => (2, 2)
  | .n8 => (2, 2)
  | _ => (2, 4)

/-! ## A row and the columns it meets -/

/-- A row of A as fetched: its elements below the K length, their bound, its scale by block, and its poison (R272, R273). Elements past the
K length are zero (R92). -/
structure ARow where
  a : List FV
  bA : Bnd
  scales : List FV
  poison : Bool

/-- The bank as an instruction reads it: B elements and scales by k and column, the B scale block when the load named scales,
tB, bB and the poisoned columns (R257, R258). -/
structure BView where
  elem : Nat → Nat → FV
  scale : Nat → Nat → FV
  blk : Option Nat
  tB : FV
  bB : Bnd
  poison : List Nat

/-- A column against one alignment block: per element b, sB and the index of its B scale block. -/
abbrev BRun := List (FV × FV × Nat)

/-- Column `j` from position `k0` on for `n` elements. -/
def BView.run (v : BView) (j k0 n : Nat) : BRun :=
  (List.range n).map fun i => (v.elem (k0 + i) j, v.scale (k0 + i) j, match v.blk with | some b => (k0 + i) / b | none => 0)

/-- The parts of a block: consecutive elements of one B scale block (R95). -/
def parts : List (FV × FV × FV × Nat) → List (List (FV × FV × FV × Nat))
  | [] => []
  | x :: t => match parts t with
    | [] => [[x]]
    | p :: r => if (p.headD x).2.2.2 = x.2.2.2 then (x :: p) :: r else [x] :: p :: r

/-- The value v(β) of a block in a column (R95): `a` as read, `f` as fed. -/
def blockSum (a : List FV) (f : Fed) (sA : FV) (run : BRun) : FV :=
  if a.any (fun v => !v.isFin) || sA.isNan || run.any (fun b => b.2.1.isNan) then dnan
  else
    sumN ((parts (f.vals.zip run)).map fun p =>
      mulN (mulN (sumN (p.map fun x => mulN x.1 x.2.1)) sA) (match p with | x :: _ => x.2.2.1 | [] => .fin false 1 0))

/-- Blocks of a row with what each has: elements as read, as fed, scale. -/
structure RowBlock where
  a : List FV
  f : Fed
  sA : FV
  k0 : Nat

/-- The blocks of a row fed with `d` digits, each filled up with zeros past the K length (R92). -/
def rowBlocks (int : Bool) (blk d : Nat) (r : ARow) : List RowBlock :=
  let bs := cut blk r.a.length r.a
  (List.range bs.length).map fun i =>
    let a := (bs.getD i [] ++ List.replicate blk (FV.fin false 0 0)).take blk
    ⟨a, feed int d a, r.scales.getD i (.fin false 1 0), i * blk⟩

/-- Σ over k of |sB(k)|·|b_kj|·w_k, for weights of the elements. -/
def weigh (ws : List Dy) (run : BRun) : Dy :=
  (ws.zip run).foldl (fun t x => t.add ((x.2.2.1.dy.abs.mul x.2.1.dy.abs).mul x.1)) (dyInt 0)

/-- T(d, j) without its factor |tA·tB| (R94). -/
def truncTerm (d : Nat) (v : BView) (j : Nat) (bs : List RowBlock) : Dy :=
  bs.foldl (fun t b => if b.f.inexact then
      t.add ((b.sA.dy.abs.mul (dyPow (b.f.e + 1 - 4 * d))).mul (weigh (b.a.map fun _ => dyInt 1) (v.run j b.k0 b.a.length)))
    else t) (dyInt 0)

/-- S(j) without its factor (R94), from the blocks fed with one digit. -/
def signalTerm (v : BView) (j : Nat) (bs : List RowBlock) : Dy :=
  bs.foldl (fun t b => t.add (b.sA.dy.abs.mul (weigh (b.f.vals.map fun x => x.dy.abs) (v.run j b.k0 b.a.length)))) (dyInt 0)

/-- T and S have finite values: no element, scale or B element that the row's blocks use is NaN or infinite (R94). -/
def termsFinite (blk : Nat) (r : ARow) (tA : FV) (v : BView) (n : Nat) : Bool :=
  r.a.all FV.isFin && r.scales.all FV.isFin && tA.isFin && v.tB.isFin
    && (List.range n).all fun j => (v.run j 0 ((r.a.length + blk - 1) / blk * blk)).all fun b => b.1.isFin && b.2.1.isFin

/-- The least digit count of a list that meets the tolerance in every column (R94). -/
def governDigits (int : Bool) (blk gstep n : Nat) (r : ARow) (tA : FV) (v : BView) (dmax : Nat) : List Nat → Nat
  | [] => dmax
  | d :: t =>
    let one := rowBlocks int blk 1 r
    let bs := rowBlocks int blk d r
    let tt := (tA.dy.mul v.tB.dy).abs
    if (List.range n).all fun j => (tt.mul (truncTerm d v j bs)).le ((tt.mul (signalTerm v j one)).scale (-(gstep : Int))) then d
    else governDigits int blk gstep n r tA v dmax t

/-- The digit count of a row (R93, R94, R277). -/
def digitsOf (f : Fmt) (blk dcap gstep n : Nat) (r : ARow) (tA : FV) (v : BView) : Nat :=
  let (dmin, dmax) := digitLimits f
  if dcap ≠ 0 then min (max dcap dmin) dmax
  else if gstep = 0 || !termsFinite blk r tA v n then dmax
  else governDigits (fmtInt f) blk gstep n r tA v dmax ((List.range (dmax + 1 - dmin)).map (dmin + ·))

/-- P(j) without its factor |tA·tB| (R96). -/
def propTerm (v : BView) (j : Nat) (bA bB : Dy) (bs : List RowBlock) : Dy :=
  bs.foldl (fun t b =>
    let run := v.run j b.k0 b.a.length
    let in_ := (b.a.zip run).foldl (fun t x =>
      t.add (x.2.2.1.dy.abs.mul (((x.1.dy.abs.mul bB).add (x.2.1.dy.abs.mul bA)).add (bA.mul bB)))) (dyInt 0)
    t.add (b.sA.dy.abs.mul in_)) (dyInt 0)

/-- One column of a row: the new accumulator word and, where it is finite, T + P + e (R95, R96); without a block, P is 0. -/
def accumulate (d : Nat) (tA : FV) (v : BView) (bA bB : Option Dy) (bs : List RowBlock) (old : Word) (j : Nat) : Word × Option Dy :=
  let total := mulN (mulN (sumN (bs.map fun b => blockSum b.a b.f b.sA (v.run j b.k0 b.a.length))) tA) v.tB
  let p := f32 (toF32 .rne total)
  let o := f32 old
  let w := toF32 .rne (addN o p)
  let zero : Option Dy := if bs.isEmpty then some (dyInt 0) else none
  let err := match f32 w, bA.or zero, bB.or zero with
    | .fin n m e, some x, some y =>
      let tt := (tA.dy.mul v.tB.dy).abs
      let round := ((p.dy.sub total.dy).abs).add (((FV.fin n m e).dy.sub (o.dy.add p.dy)).abs)
      some (((tt.mul (truncTerm d v j bs)).add (tt.mul (propTerm v j x y bs))).add round)
    | _, _, _ => none
  (w, err)

/-- The largest of the terms, none when one is not finite. -/
def worst (es : List (Option Dy)) : Option Dy :=
  es.foldl (fun m e => match m, e with
    | some x, some y => some (x.max y)
    | _, _ => none) (some (dyInt 0))

/-- The new row bound (R96): no written column, no change. -/
def newRowBnd (old : Bnd) (es : List (Option Dy)) : Bnd :=
  if es = [] then old
  else match bndVal old, worst es with
    | some o, some e => bndUp (o.add e)
    | _, _ => bndInf

/-! ## `mat.st` (R280, R281) -/

/-- emax of an output type (R281). -/
def emaxOf : Fmt → Int
  | .e2m1 => 2 | .e4m3 => 8 | .e5m2 => 15 | _ => 6

/-- The computed E8M0 scale code of the written elements of a block (R281). -/
def scaleCode (f : Fmt) (vs : List FV) : Nat :=
  if vs.any fun v => !v.isFin then 255
  else
    let amax := vs.foldl (fun m v => m.max v.dy.abs) (dyInt 0)
    let e := if amax.m = 0 then -127 else amax.ilog2 - emaxOf f
    (min (max e (-127)) 127 + 127).toNat

/-- An element divided by its block's scale: exact, NaN for the code 0xFF. -/
def descale (code : Option Nat) (v : FV) : FV :=
  match code with
  | none => v
  | some c =>
    if c = 255 then (firstNan [v]).getD dnan
    else match v with
      | .fin n m e => .fin n m (e - ((c : Int) - 127))
      | v => v

/-- The code of an element in the output type, and its bound from the row's (R280, R281). -/
def outElem (f : Fmt) (code : Option Nat) (w : Word) (rowBnd : Bnd) : Nat × Bnd :=
  let v := descale code (f32 w)
  let bits := match f with
    | .f32 => w.toNat
    | .s8 => intCode 8 (toInt .s8 .rne v).1
    | f => match fpSpec f with
      | some sp => (roundFp sp .rne (f == .e4m3 || f == .e5m2 || f == .e2m1) v).bits
      | none => 0
  let c := decodeFmt f bits
  let rb := match bndVal rowBnd, code with
    | some b, some k => if k = 255 then none else some (b.scale (127 - (k : Int)))
    | b, _ => b
  (bits, if !v.isFin || !c.isFin then bndInf else match rb with
    | some b => bndUp (b.add (c.dy.sub v.dy).abs)
    | none => bndInf)

/-! ## Layouts (R269) -/

/-- Address of byte `x` of line `i`. -/
def matAddr (layout : BitVec 2) (base stride i x : Nat) : Nat :=
  match layout.toNat with
  | 2 => base + i * stride + (x - x / 16 % 8 * 16) + (Nat.xor (x / 16 % 8) (i % 8)) * 16
  | 3 => base + i / 32 * stride + (x / 4 * 32 + i % 32) * 4 + x % 4
  | _ => base + i * stride + x

/-- Bytes of the element at position `j` of a line: its first byte and how many. -/
def elemBytes (bits j : Nat) : Nat × Nat := (j * bits / 8, max 1 (bits / 8))

/-- The addresses of an element's bytes. -/
def elemAddrs (layout : BitVec 2) (base stride bits i j : Nat) : List Nat :=
  (List.range (elemBytes bits j).2).map fun b => matAddr layout base stride i ((elemBytes bits j).1 + b)

/-- The code of an element from its bytes: an E2M1 element is a nibble of its byte. -/
def codeOf (bits j : Nat) (bs : List Byte) : Nat :=
  if bits = 4 then natOf bs / (if j % 2 = 0 then 1 else 16) % 16 else natOf bs

/-- A base that the layout does not accept (R269). -/
def matMisaligned (layout : BitVec 2) (base stride : Nat) : Bool :=
  base % (if layout = 2 then 128 else 16) != 0 || (layout = 2 && stride % 128 != 0)

/-- Bytes of a line's elements, before an adjacent scale (R270). -/
def lineBytes (len bits : Nat) : Nat := (len * bits + 7) / 8

end Sys2Proof.Machine
end

