-- ==== Sys2Proof/Machine/Mat.lean ====
section
/-! DEFINITION. The matrix instructions and the completions of the matrix engine (R257 to R284). -/

namespace Sys2Proof.Machine

/-! ## Rows, windows and order -/

/-- Key of an accumulator word, and the columns of a row. -/
def accKey (row col : Nat) : Nat := row * 512 + col
def Core.accWord (c : Core) (row col : Nat) : Word := Map.get c.acc 0 (accKey row col)
def Core.setAcc (c : Core) (row col : Nat) (w : Word) : Core := { c with acc := Map.set c.acc 0 (accKey row col) w }
def Core.rowMeta (c : Core) (row : Nat) : RowMeta := Map.get c.rows ⟨0, false⟩ row
def Core.setRow (c : Core) (row : Nat) (m : RowMeta) : Core := { c with rows := Map.set c.rows ⟨0, false⟩ row m }

/-- Rows cleared: columns +0, bound 0x0000, no poison (R265, R279). -/
def Core.clearRows (c : Core) (lo n : Nat) : Core :=
  { c with acc := Map.dropRange c.acc (accKey lo 0) (accKey (lo + n) 0), rows := Map.dropRange c.rows lo (lo + n) }

/-- The core of the issuing warp. -/
def State.myCore (s : State) : Core := s.core (coreOf s.cur)
def State.updMyCore (s : State) (f : Core → Core) : State := s.updCore (coreOf s.cur) f

/-- Row offset of a roff field (R179). -/
def rowBase (w : Warp) (roff : BitVec 2) : Nat := w.awb + 32 * roff.toNat

/-- An earlier-issued accumulation of the warp writes a row that this mask names (R260, R279). -/
def State.rowsBusy (s : State) (uid : Nat) (row0 : Nat) (m : Mask) : Bool :=
  s.mats.any fun p => p.2.uid = uid && (lanesOf m).any fun l => p.2.row0 ≤ row0 + l && row0 + l < p.2.row0 + 32
    && p.2.mask.getLsbD (row0 + l - p.2.row0)

/-- A row instruction: rows outside the window trap; then `k` of the effective lanes and the row of lane 0 (R262, R267). -/
def State.rowOp (s : State) (roff : BitVec 2) (k : State → Mask → Nat → State) : State :=
  let w := s.cw
  let e := w.eff
  let row0 := rowBase w roff
  let out := e &&& maskOf fun l => w.awl ≤ row0 + l
  if out != 0 then s.takeTrap { w.trapHere 0x0603 with lanes := out, addr := BitVec.ofNat 64 ((row0 + lowest out) % 512) }
  else k s e row0

/-- A row instruction that moves data: it waits for the accumulations of its rows; then `k` (R279). -/
def State.rowMove (s : State) (u : Uses) (roff : BitVec 2) (k : State → Mask → Nat → State) : State :=
  if s.acqPending s.cur then s
  else s.guard u fun s => s.rowOp roff fun s e row0 => if s.rowsBusy s.cw.uid row0 e then s else k s e row0

/-- The poisoned-row trap (R282, R411), else `k`. -/
def State.rowPoison (s : State) (e : Mask) (row0 : Nat) (k : State → State) : State :=
  let bad := e &&& maskOf fun l => (s.myCore.rowMeta (row0 + l)).poison
  if bad != 0 then s.takeTrap { s.cw.trapHere 0x0701 with lanes := bad, addr := BitVec.ofNat 64 (row0 + lowest bad) }
  else k s

/-- `mat.zero` (R279). -/
def execMatZero (roff : BitVec 2) (s : State) : Out :=
  .next (s.rowMove Uses.none roff fun s e row0 =>
    (s.updMyCore fun c => (lanesOf e).foldl (fun c l => c.clearRows (row0 + l) 1) c).finish 2)

/-- `mat.rd` (R279). -/
def execMatRd (d : VReg) (roff : BitVec 2) (col : BitVec 9) (s : State) : Out :=
  .next (s.rowMove (Uses.none.dstV d.toNat 4) roff fun s e row0 => s.rowPoison e row0 fun s =>
    let c := s.myCore
    (s.updCw fun w => (List.range 4).foldl (fun w i =>
      w.writeV e (d.toNat + i) fun l => ⟨c.accWord (row0 + l) (col.toNat + i), (c.rowMeta (row0 + l)).bnd⟩) w).finish 2)

/-- `mat.wr` (R279). -/
def execMatWr (a : VReg) (roff : BitVec 2) (col : BitVec 9) (s : State) : Out :=
  .next (s.rowMove (Uses.none.srcV a.toNat 4) roff fun s e row0 =>
    let w := s.cw
    (s.updMyCore fun c => (lanesOf e).foldl (fun c l =>
      let vs := (List.range 4).map fun i => w.v (a.toNat + i) l
      let m := c.rowMeta (row0 + l)
      let b := if vs.any (fun v => !(f32 v.val).isFin) then bndInf else bndNorm (vs.foldl (fun b v => bndMax b v.bnd) m.bnd)
      ((List.range 4).foldl (fun c i => c.setAcc (row0 + l) (col.toNat + i) (w.v (a.toNat + i) l).val) c).setRow (row0 + l)
        { m with bnd := b }) c).finish 2)

/-- `mat.rbnd` (R279). -/
def execMatRbnd (d : VReg) (roff : BitVec 2) (s : State) : Out :=
  .next (s.rowMove (Uses.none.dstV d.toNat 1) roff fun s e row0 => s.rowPoison e row0 fun s =>
    let c := s.myCore
    (s.updCw fun w => w.writeV e d.toNat fun l => ⟨(c.rowMeta (row0 + l)).bnd.setWidth 32, bndExact⟩).finish 2)

/-! ## Setting up (R265, R266, R275) -/

/-- Slots of the block's warps on the issuing core that have not ended, in ascending warp number, a pair once (R265). -/
def State.windowSlots (s : State) : List Nat :=
  let w := s.cw
  sortBy (fun a b => (s.warp a).index ≤ (s.warp b).index)
    ((s.slotsOn w.block (s.coreInBlock w)).filter fun k => (s.warp k).role.counts)

/-- The window registers of a warp and of its trailing partner (R263). -/
def State.setWindow (s : State) (slot lo hi : Nat) : State :=
  let set := fun (s : State) k => s.updWarp k fun w => { w with awb := lo, awl := hi }
  let s := set s slot
  match (s.warp slot).role with
  | .leading p => set s p
  | _ => s

/-- The lowest run of free rows (R265). -/
def Core.freeRun (c : Core) (n : Nat) : Option Nat := (List.range (129 - n)).find? fun b => c.rowsFree b n

/-- `mat.alloc` (R265, R411): it does not issue while no run is free. -/
def execMatAlloc (n : BitVec 8) (s : State) : Out :=
  .next (if s.acqPending s.cur then s
    else
      let w := s.cw
      let ws := s.windowSlots
      let rows := ws.length * n.toNat
      let trap := fun code => s.takeTrap { w.trapHere code with lanes := w.issue, addr := BitVec.ofNat 64 n.toNat }
      if s.myCore.windows.any fun x => x.1 = w.block then trap 0x0601
      else if 128 < rows then trap 0x0602
      else match s.myCore.freeRun rows with
        | none => s
        | some base =>
          let s := s.updMyCore fun c => { (c.clearRows base rows) with windows := (w.block, base, rows) :: c.windows }
          let s := (List.range ws.length).foldl (fun s j =>
            s.setWindow (ws.getD j 0) (base + j * n.toNat) (base + (j + 1) * n.toNat)) s
          s.finish 2)

/-- A `mat.ldb` on its way. -/
def EngKind.fillsBank : EngKind → Bool
  | .ldb _ _ _ => true
  | _ => false

/-- `mat.free` (R266): after the earlier MAT operations of the block's warps on the core. -/
def execMatFree (s : State) : Out :=
  .next (
    let w := s.cw
    let ws := s.windowSlots
    if s.acqPending s.cur || s.mats.any (fun p => p.2.block = w.block && p.2.core = coreOf s.cur)
        || s.engs.any (fun p => p.2.kind.fillsBank && p.2.block = w.block && p.2.core = coreOf s.cur) then s
    else
      let s := s.updMyCore fun c => { c with windows := c.windows.filter fun x => x.1 != w.block }
      let s := ws.foldl (fun s k => s.setWindow k 0 0) s
      s.finish 2)

/-- `mat.edge` (R275). -/
def execMatEdge (k : BitVec 9) (n : BitVec 10) (s : State) : Out :=
  .next (if s.acqPending s.cur then s
    else (s.updCw fun w => { w with medge := clampEdge (BitVec.ofNat 32 (k.toNat + n.toNat * 65536)) }).finish 2)

/-- `mat.bank` (R275). -/
def execMatBank (bank : Bool) (s : State) : Out :=
  .next (if s.acqPending s.cur then s else (s.updCw fun w => { w with mbank := bank }).finish 2)

/-! ## Specifiers -/

/-- The specifier's word. -/
def Warp.matSpec (w : Warp) (m : MatSpec) : Word := match m with | .inline b => b | .reg r => w.s r.toNat

/-- Scalar registers that an instruction with a specifier reads (R271). -/
def specUses (m : MatSpec) (sa n : Nat) : Uses :=
  let u := Uses.none.srcS sa n
  match m with
  | .reg r => u.srcS r.toNat 1
  | .inline _ => u

/-- A counted MAT instruction at issue: waits, registers, those that the specifier names, `more`, and then the specifier itself (R268, R271,
R397). -/
def State.matGate (s : State) (u : Uses) (more : Spec → Uses) (m : MatSpec) (use : MatUse) (sa : Nat) (dc : BitVec 3)
    (k : State → Word → Spec → State) : State :=
  if s.cw.ctrFull dc || s.acqPending s.cur then s
  else s.guard u fun s =>
    let word := s.cw.matSpec m
    let p := Spec.ofWord word
    s.guard (more p) fun s => if !p.ok use sa then s.illegal 0x10 else k s word p

/-- Scalar registers from `sa` on that a specifier names. -/
def specTop (use : MatUse) (sa : Nat) (p : Spec) : Uses := Uses.none.srcS sa (p.top use + 1)

/-- Number and order of the next MAT operation of a core (R260). -/
def State.nextMat (s : State) : Nat × State :=
  (s.myCore.matSeq, s.updMyCore fun c => { c with matSeq := c.matSeq + 1 })

/-! ## `mat.ldb` (R276) -/

/-- Lines and line length of a B operand, and the position of element (k, n) in them (R269). -/
def bLines (p : Spec) (sh : BShape) : Nat × Nat :=
  let wide := 8 < fmtBits (fmtOf p.enc)
  if p.layout = 1 then (shapeN sh wide, shapeK sh) else (shapeK sh, shapeN sh wide)

/-- Blocks of scales along K (R270). -/
def blocksOf (p : Spec) (k : Nat) : Nat := (k + blockOf p.sblk - 1) / blockOf p.sblk

/-- Bytes of a line that a B operand reads: its elements, and an adjacent scale array. -/
def bLineLen (p : Spec) (sh : BShape) : Nat :=
  lineBytes (bLines p sh).2 (fmtBits (fmtOf p.enc)) + (if p.ssrc = 1 then blocksOf p (shapeK sh) else 0)

/-- Length in bytes of the range that holds every byte of a B operand, from its base (R269). -/
def bExtent (p : Spec) (sh : BShape) : Nat :=
  let (n, _) := bLines p sh
  let len := bLineLen p sh
  match p.layout.toNat with
  | 2 => (n - 1) * p.lineStride + (len + 127) / 128 * 128
  | 3 => (n - 1) / 32 * p.lineStride + ((len + 3) / 4 * 32) * 4
  | _ => (n - 1) * p.lineStride + len

/-- `mat.ldb` at issue: ranges, operands, its place in the engine's order. -/
def execMatLdb (sa : SReg) (sh : BShape) (bank : Bool) (spec : MatSpec) (dc : BitVec 3) (s : State) : Out :=
  .next (s.matGate (specUses spec sa.toNat 2) (specTop .ldb sa.toNat) spec .ldb sa.toNat dc fun s word p =>
      let w := s.cw
      let r := sa.toNat
      let e := s.engOp (.ldb sh bank word) dc
      let base := w.s64 r
      let arr := w.s64 (r + 2)
      let e := { e with a := base, b := arr, order := s.myCore.matSeq, extra := [w.s (r + 2), w.s (r + 4)] }
      let wide := 8 < fmtBits (fmtOf p.enc)
      let rs := e.global base.toNat (base.toNat + bExtent p sh) false
        :: (if p.ssrc = 2 then [e.global arr.toNat (arr.toNat + shapeN sh wide * blocksOf p (shapeK sh)) false] else [])
      let t := s.nextMat.2.issueEng e rs
      if t.nextId = s.nextId then s else t)

/-- Addresses of the element bytes and of the scale bytes of column `j` of a B operand. -/
def colAddrs (e : EngOp) (p : Spec) (sh : BShape) (j : Nat) : List Nat × List Nat :=
  let bits := fmtBits (fmtOf p.enc)
  let k := shapeK sh
  let base := e.a.toNat
  let els := (List.range k).flatMap fun i =>
    if p.layout = 1 then elemAddrs p.layout base p.lineStride bits j i else elemAddrs p.layout base p.lineStride bits i j
  let sc := match p.ssrc.toNat with
    | 1 => (List.range (blocksOf p k)).map fun b => matAddr p.layout base p.lineStride j (lineBytes (bLines p sh).2 bits + b)
    | 2 => (List.range (blocksOf p k)).map fun b => e.b.toNat + j * blocksOf p k + b
    | _ => []
  (els, sc)

/-- Distinct sectors of a list of addresses, ascending. -/
def sectorsOf (as_ : List Nat) : List Nat := (as_.foldl (fun (m : Map Unit) a => Map.put m (a / 32) ()) []).map Prod.fst

/-- A `mat.ldb` begins (R152): one transfer for each sector read, those with element bytes first. -/
def EngOp.beginLdb (e : EngOp) (sh : BShape) (word : Word) : EngOp :=
  let p := Spec.ofWord word
  let wide := 8 < fmtBits (fmtOf p.enc)
  if matMisaligned p.layout e.a.toNat p.lineStride then { e with st := .active, fault := some (0x0202, e.a) }
  else
    let cols := (List.range (shapeN sh wide)).map fun j => colAddrs e p sh j
    let els := sectorsOf (cols.flatMap Prod.fst)
    let scs := (sectorsOf (cols.flatMap Prod.snd)).filter fun x => !els.contains x
    { e with st := .active, credit := els.length,
             xfers := (els ++ scs).map fun x => ⟨[⟨x * 32, x * 32, 32, none, false⟩], false, none, false⟩ }

/-- A byte that the engine has read. -/
def EngOp.byte (e : EngOp) (a : Nat) : Byte := ((Map.find? e.buf (a / 32)).getD []).getD (a % 32) 0

/-- Non-zero entries of a table given by a function of the index. -/
def tabulate (n : Nat) (f : Nat → Nat) : Map Nat := (List.range n).filterMap fun i => if f i = 0 then none else some (i, f i)

/-- The bank that a `mat.ldb` writes (R257, R270, R276). -/
def EngOp.bank (e : EngOp) (sh : BShape) (word : Word) : Bank :=
  let p := Spec.ofWord word
  let bits := fmtBits (fmtOf p.enc)
  let k := shapeK sh
  let n := shapeN sh (8 < bits)
  let nb := blocksOf p k
  let cell := fun i =>
    let (line, pos) := if p.layout = 1 then (i % n, i / n) else (i / n, i % n)
    codeOf bits pos ((elemAddrs p.layout e.a.toNat p.lineStride bits line pos).map e.byte)
  let scale := fun i => match p.ssrc.toNat with
    | 3 => (e.extra.getD 0 0).toNat % 256
    | _ => (e.byte ((colAddrs e p sh (i / nb)).2.getD (i % nb) 0)).toNat
  { owner := some e.launch, shape := sh, enc := p.enc, cells := tabulate (k * n) cell, sblk := p.sblk, senc := p.senc,
    hasScale := p.ssrc != 0, scales := if p.ssrc = 0 then [] else tabulate (n * nb) scale,
    tB := if p.tscale = 1 then (e.extra.getD 1 0).setWidth 16 else 0x3F80,
    bB := e.bufBnd,
    poison := if e.bufPoison = [] then [] else (List.range n).filter fun j =>
      let a := colAddrs e p sh j
      (a.1 ++ a.2).any fun x => e.bufPoison.contains (x / 32) }

/-- Earlier-issued MAT operations of the core stand in the way of a write of a bank: readers of it, and loads to it (R260). -/
def State.bankBusy (s : State) (core order : Nat) (bank : Bool) : Bool :=
  s.mats.any (fun p => p.2.core = core && p.2.order < order && p.2.bank = bank)
    || s.engs.any fun p => p.2.core = core && p.2.order < order && match p.2.kind with
      | .ldb _ b _ => b = bank
      | _ => false

/-- MAT_LDB_BANK_WRITE (R276, R260): the bank is written and the load completes; after an engine fault the bank stands. -/
def execMatLdbBankWrite (op : Nat) (s : State) : Out :=
  .next (match s.eng? op with
    | some e => match e.kind with
      | .ldb sh bank word =>
        if e.fault.isSome then s.endEng op e
        else if e.allDone && !s.bankBusy e.core e.order bank then
          (s.updCore e.core fun c => { c with banks := Map.set c.banks Bank.reset (b2n bank) (e.bank sh word) }).endEng op e
        else s
      | _ => s
    | none => s)

/-! ## `mat.mma` and `mat.mmar` (R277) -/

/-- The K of the bank that an accumulation reads, as it stands after every earlier-issued MAT operation; none for a bank of
another launch (R261). -/
def State.bankK (s : State) (bank : Bool) : Option Nat :=
  let loads := s.engs.filter fun p => p.2.core = coreOf s.cur && match p.2.kind with
    | .ldb _ b _ => b = bank
    | _ => false
  let last := loads.foldl (fun (m : Option EngOp) p => match m with
    | some q => if q.order ≤ p.2.order then some p.2 else some q
    | none => some p.2) none
  match last with
  | some e => match e.kind with
    | .ldb sh _ _ => if e.launch = s.cw.launch then some (shapeK sh) else none
    | _ => none
  | none =>
    let b := Map.get s.myCore.banks Bank.reset (b2n bank)
    if b.owner = some s.cw.launch then some (shapeK b.shape) else none

/-- An accumulation of the issuing warp, before its operands. -/
def State.matOp (s : State) (kind : MatUse) (word : Word) (e : Mask) (row0 kB : Nat) (dc : BitVec 3) : MatOp :=
  let w := s.cw
  { kind, slot := s.cur, uid := w.uid, core := coreOf s.cur, launch := w.launch, block := w.block, pc := w.pc, iw0 := w.iw0,
    iw1 := w.iw1, dc, spec := word, mask := e, row0, bank := w.mbank, kLen := min (bitsOf w.medge.toNat 8 0) kB,
    nLen := bitsOf w.medge.toNat 25 16, kB, gstep := bitsOf w.budget.toNat 5 0, base := 0, extra := [], regs := [],
    order := s.myCore.matSeq, drain := [] }

/-- An accumulation issues (R66, R260). -/
def State.issueMat (s : State) (m : MatOp) : State :=
  let (id, s) := s.nextMat.2.fresh
  ({ s with mats := Map.put s.mats id m }.updCw fun w => w.inc m.dc).finish 2

/-- The highest scratchpad address of what a lane reads of A, plus one; its elements and its scales (R269, R270, R272). -/
def aTop (p : Spec) (base arr kLen kB l : Nat) : Nat :=
  let bits := fmtBits (fmtOf p.enc)
  let nb := (kLen + blockOf p.sblk - 1) / blockOf p.sblk
  if kLen = 0 then 0
  else
    let last := lineBytes kLen bits - 1
    let els := match p.layout.toNat with
      | 1 => base + (kLen - 1) * p.lineStride + (elemBytes bits l).1 + (elemBytes bits l).2
      | 2 => (List.range (last / 16 + 1)).foldl (fun t g => max t (matAddr 2 base p.lineStride l (min (16 * g + 15) last) + 1)) 0
      | 3 => base + (last / 4 * 32 + l) * 4 + last % 4 + 1
      | _ => base + l * p.lineStride + last + 1
    let scs := match p.ssrc.toNat with
      | 1 => base + l * p.lineStride + lineBytes kB bits + nb
      | 2 => arr + l * ((kB + blockOf p.sblk - 1) / blockOf p.sblk) + nb
      | _ => 0
    max els scs

/-- `mat.mma` at issue (R272): alignment and range, after the accumulator window (log 35, DESIGN CHOICE); then the operation, whose reads
come after the warp's earlier accesses. -/
def execMatMma (sa : SReg) (roff : BitVec 2) (spec : MatSpec) (dc : BitVec 3) (s : State) : Out :=
  .next (s.matGate (specUses spec sa.toNat 1) (specTop .mma sa.toNat) spec .mma sa.toNat dc fun s word p =>
    s.rowOp roff fun s e row0 =>
      let w := s.cw
      let r := sa.toNat
      let base := (w.s r).toNat
      let m := s.matOp .mma word e row0 ((s.bankK w.mbank).getD 64) dc
      let m := { m with base := (w.s r).setWidth 64, extra := [w.s (r + 1), w.s (r + 2)], drain := s.engDrain }
      let slice := s.sliceOf w.block
      let far := e &&& maskOf fun l => slice < aTop p base (w.s (r + 1)).toNat m.kLen m.kB l
      let fault := fun cause lanes addr => s.takeTrap { w.trapHere (0x0200 + cause) with
        lanes, addr := BitVec.ofNat 64 addr, info := BitVec.ofNat 32 (opField w.iw0) }
      if e != 0 && matMisaligned p.layout base p.lineStride then fault 2 e base
      else if far != 0 then fault 3 far (aTop p base (w.s (r + 1)).toNat m.kLen m.kB (lowest far) - 1)
      else s.issueMat m)

/-- Registers that hold a row of A (R273). -/
def aRegs (p : Spec) (k : Nat) : Nat := (k * fmtBits (fmtOf p.enc) + 31) / 32

/-- `mat.mmar` at issue (R273): the rows are read from the registers. -/
def execMatMmar (va : VReg) (roff : BitVec 2) (spec : MatSpec) (dc : BitVec 3) (s : State) : Out :=
  .next (
    let k := min (bitsOf s.cw.medge.toNat 8 0) ((s.bankK s.cw.mbank).getD 64)
    s.matGate (specUses spec 0 0) (fun p => Uses.none.srcV va.toNat (aRegs p k)) spec .mmar 0 dc fun s word p => s.rowOp roff fun s e row0 =>
      let w := s.cw
      let m := s.matOp .mmar word e row0 ((s.bankK w.mbank).getD 64) dc
      s.issueMat { m with regs := (lanesOf e).map fun l => (l, (List.range (aRegs p k)).map fun i => w.v (va.toNat + i) l) })

/-- One byte of scratchpad with what its sector carries. -/
def State.spLook (s : State) (b j a : Nat) : Byte × Bnd × Bool := (s.spByte b j a, s.spSide b j a)

/-- A row of A fetched from scratchpad (R269 to R272). -/
def State.fetchA (s : State) (m : MatOp) (l : Nat) : ARow :=
  let p := Spec.ofWord m.spec
  let f := fmtOf p.enc
  let bits := fmtBits f
  let j := (s.block m.block).cores.idxOf m.core
  let base := m.base.toNat
  let nb := (m.kLen + blockOf p.sblk - 1) / blockOf p.sblk
  let els := (List.range m.kLen).map fun k =>
    let (line, pos) := if p.layout = 1 then (k, l) else (l, k)
    (pos, (elemAddrs p.layout base p.lineStride bits line pos).map (s.spLook m.block j))
  let scs := match p.ssrc.toNat with
    | 1 => (List.range nb).map fun b => s.spLook m.block j (matAddr p.layout base p.lineStride l (lineBytes m.kB bits + b))
    | 2 => (List.range nb).map fun b =>
      s.spLook m.block j ((m.extra.getD 0 0).toNat + l * ((m.kB + blockOf p.sblk - 1) / blockOf p.sblk) + b)
    | _ => []
  let senc := fmtOf p.senc
  { a := els.map fun x => decodeFmt f (codeOf bits x.1 (x.2.map (·.1))),
    bA := els.foldl (fun b x => x.2.foldl (fun b y => bndMax b y.2.1) b) 0,
    scales := match p.ssrc.toNat with
      | 3 => List.replicate nb (decodeFmt senc ((m.extra.getD 0 0).toNat % 256))
      | _ => scs.map fun x => decodeFmt senc x.1.toNat,
    poison := (els.any fun x => x.2.any fun y => y.2.2) || scs.any fun x => x.2.2 }

/-- A row of A fetched from the lane's registers (R273). -/
def MatOp.fetchR (m : MatOp) (l : Nat) : ARow :=
  let p := Spec.ofWord m.spec
  let f := fmtOf p.enc
  let bits := fmtBits f
  let rs := (Map.find? m.regs l).getD []
  { a := (List.range m.kLen).map fun k => decodeFmt f ((rs.getD (k * bits / 32) LV.zero).val.toNat / 2 ^ (k * bits % 32) % 2 ^ bits),
    bA := rs.foldl (fun b x => bndMax b x.bnd) 0, scales := [], poison := false }

/-- The bank as an accumulation reads it (R257, R258, R261), and its N. -/
def State.bankView (s : State) (m : MatOp) : BView × Nat :=
  let b := Map.get (s.core m.core).banks Bank.reset (b2n m.bank)
  let zero : FV := .fin false 0 0
  let one : FV := .fin false 1 0
  if b.owner ≠ some m.launch then
    (⟨fun _ _ => zero, fun _ _ => one, none, one, 0, []⟩, shapeN .k64 (8 < fmtBits (fmtOf (Spec.ofWord m.spec).enc)))
  else
    let k := shapeK b.shape
    let n := shapeN b.shape (8 < fmtBits (fmtOf b.enc))
    let blk := blockOf b.sblk
    let nb := (k + blk - 1) / blk
    ({ elem := fun i j => if i < min k m.kLen then decodeFmt (fmtOf b.enc) (Map.get b.cells 0 (i * n + j)) else zero,
       scale := fun i j => if b.hasScale && i < k then decodeFmt (fmtOf b.senc) (Map.get b.scales 0 (j * nb + i / blk)) else one,
       blk := if b.hasScale then some blk else none, tB := decodeFmt .bf16 b.tB.toNat, bB := b.bB, poison := b.poison }, n)

/-- The row of lane `l` accumulated (R277). -/
def State.accumulateRow (s : State) (m : MatOp) (residue : Bool) (l : Nat) : State :=
  let p := Spec.ofWord m.spec
  let f := fmtOf p.enc
  let r := if m.kind == .mma then s.fetchA m l else m.fetchR l
  let (v, nB) := s.bankView m
  let n := min m.nLen nB
  let tA := if p.tscale = 1 then decodeFmt .bf16 ((m.extra.getD 1 0).toNat % 65536) else .fin false 1 0
  let blk := blockOf p.sblk
  let d := digitsOf f blk p.dcap.toNat m.gstep n r tA v
  let bs := rowBlocks (fmtInt f) blk d r
  let row := m.row0 + l
  let c := s.core m.core
  let outs := (List.range n).map fun j => accumulate d tA v (bndVal r.bA) (bndVal v.bB) bs (c.accWord row j) j
  let old := c.rowMeta row
  let bad := r.poison || v.poison.any (fun j => j < n) || residue
  s.updCore m.core fun c =>
    ((List.range n).foldl (fun c j => c.setAcc row j (outs.getD j (0, none)).1) c).setRow row
      ⟨newRowBnd old.bnd (outs.map Prod.snd), old.poison || bad⟩

/-- The record of a residue error that survived its recomputation (R409, R462): which block differs first is the failing
engine's. -/
def State.residueRecord (s : State) (m : MatOp) (op l : Nat) : State :=
  match s.launch? m.launch with
  | some x => s.log 0x0204 (srcCore m.core) (launchTag x ++
      [(30, 2, m.core), (32, 1, m.row0 + l), (34, 2, Config.residueBlock op l), (40, 8, m.pc.toNat)])
  | none => s

/-- What an accumulation waits for: the warp's earlier accesses, loads to its bank, accumulations of its rows (R260, R272). -/
def State.matReady (s : State) (m : MatOp) : Bool :=
  (m.drain.all fun i => match s.op? i with
    | none => true
    | some o => !o.kind.returns && o.kind != .frameLd && o.acked)
  && !(s.engs.any fun p => p.2.core = m.core && p.2.order < m.order && match p.2.kind with
    | .ldb _ b _ => b = m.bank
    | _ => false)
  && !(s.mats.any fun p => p.2.core = m.core && p.2.order < m.order && (lanesOf m.mask).any fun l =>
    p.2.row0 ≤ m.row0 + l && m.row0 + l < p.2.row0 + 32 && p.2.mask.getLsbD (m.row0 + l - p.2.row0))

/-- MAT_MMA_COMPLETE (R277, R283): every effective row, in ascending lane; `residueBad` holds the rows whose residues differed
twice. -/
def execMatMmaComplete (op : Nat) (residueBad : Mask) (s : State) : Out :=
  .next (match s.mat? op with
    | some m =>
      if !s.matReady m then s
      else
        let s := (lanesOf m.mask).foldl (fun s l => s.accumulateRow m (residueBad.getLsbD l) l) s
        let s := (lanesOf (m.mask &&& residueBad)).foldl (fun s l => s.residueRecord m op l) s
        let s := (s.dropMat op).forOp m.slot m.uid fun w => w.dec m.dc
        s.reap m.uid
    | none => s)

/-! ## `mat.st` (R280, R281) -/

/-- A byte that `mat.st` writes: address, value, bits written, bound. -/
structure OutByte where
  addr : Nat
  val : Byte
  mask : Byte
  bnd : Bnd

/-- Whether lane `l` writes position `pos` of its line: columns below N in layouts of one line a lane, lanes otherwise. -/
def stPositions (p : Spec) (n l : Nat) : List (Nat × Nat) :=
  if p.layout = 1 then (List.range n).map fun j => (j, l) else (List.range n).map fun j => (l, j)

/-- The scale code of a block of a line, computed from the elements written (R281): none without computed scales. -/
def State.stScale (s : State) (p : Spec) (e : Mask) (row0 n line beta : Nat) : Option Nat :=
  if p.ssrc = 0 then none
  else
    let c := s.myCore
    let blk := blockOf p.sblk
    let ps := (List.range blk).map fun i => beta * blk + i
    let vs := if p.layout = 1 then (ps.filter fun l => l < 32 && e.getLsbD l).map fun l => f32 (c.accWord (row0 + l) line)
      else (ps.filter (· < n)).map fun j => f32 (c.accWord (row0 + line) j)
    some (scaleCode (fmtOf p.enc) vs)

/-- The bytes that lane `l` writes: its elements, and the scales of the blocks that it stands first in (R270, R280, R281). -/
def State.stBytes (s : State) (p : Spec) (base arr : Nat) (e : Mask) (row0 n l : Nat) : List OutByte :=
  let c := s.myCore
  let f := fmtOf p.enc
  let bits := fmtBits f
  let blk := blockOf p.sblk
  let len := if p.layout = 1 then 32 else n
  let nb := (len + blk - 1) / blk
  (stPositions p n l).flatMap fun x =>
    let (line, pos) := x
    let col := if p.layout = 1 then line else pos
    let code := s.stScale p e row0 n line (pos / blk)
    let o := outElem f code (c.accWord (row0 + l) col) (c.rowMeta (row0 + l)).bnd
    let els := if bits = 4 then
        [⟨matAddr p.layout base p.lineStride line (pos / 2), BitVec.ofNat 8 (o.1 * (if pos % 2 = 0 then 1 else 16)),
          if pos % 2 = 0 then 0x0F else 0xF0, o.2⟩]
      else (List.range (bits / 8)).map fun i =>
        ⟨matAddr p.layout base p.lineStride line (pos * bits / 8 + i), BitVec.ofNat 8 (o.1 / 256 ^ i), 0xFF, o.2⟩
    let first := if p.layout = 1 then
        lowest (e &&& maskOf fun j => j / blk = pos / blk) = pos
      else pos % blk = 0
    match code with
    | some k =>
      if first then
        els ++ [⟨if p.ssrc = 1 then matAddr p.layout base p.lineStride line (lineBytes len bits + pos / blk)
          else arr + line * nb + pos / blk, BitVec.ofNat 8 k, 0xFF, 0⟩]
      else els
    | none => els

/-- Runs of consecutive bytes inside one sector; two nibbles of one byte join. -/
def runsOf : List OutByte → List (Nat × List OutByte)
  | [] => []
  | b :: t => match runsOf t with
    | (a, x :: r) :: q =>
      if b.addr = x.addr && b.mask &&& x.mask = 0 then (a, { x with val := x.val ||| b.val, mask := x.mask ||| b.mask, bnd := bndMax x.bnd b.bnd } :: r) :: q
      else if b.addr + 1 = x.addr && b.addr / 32 = x.addr / 32 then (b.addr, b :: x :: r) :: q
      else (b.addr, [b]) :: (a, x :: r) :: q
    | q => (b.addr, [b]) :: q

/-- The parts of a `mat.st` of lane `l` as lanes of a memory operation, numbered from 2,048 times the lane. -/
def State.stParts (s : State) (o : MemOp) (bad : Bool) (l : Nat) (bs : List OutByte) : Map Lane :=
  let rs := runsOf bs
  (List.range rs.length).map fun i =>
    let (a, xs) := rs.getD i (0, [])
    let st : LaneSt := if 2 ^ 52 ≤ a + xs.length - 1 then .fault 0x01 else if bad then .fault 0x02
      else if (s.region o.vf o.asid a).isNone then .fault 0x05 else .sent
    (l * 2048 + i, { Lane.none with st, addr := BitVec.ofNat 64 a, data := wordsOf ((xs.length + 3) / 4) (xs.map (·.val)),
                                    bnd := xs.foldl (fun b x => bndMax b x.bnd) 0, mask := xs.map (·.mask) })

/-- The memory operation of a `mat.st`, before its parts: plain stores at `core` scope. -/
def State.stOp (s : State) (dc : BitVec 3) : MemOp :=
  let w := s.cw
  let (vf, asid) := s.space w
  { kind := .matSt, slot := s.cur, uid := w.uid, core := coreOf s.cur, launch := w.launch, block := w.block, vf, asid, pc := w.pc,
    iw0 := w.iw0, iw1 := w.iw1, two := true, width := .b8, scope := .core, order := .plain, aop := .iadd, rp := false, hint := 0,
    dst := 0, dc, seq := w.seq, held := none, lanes := [], written := 0, inTrap := w.inTrap }

/-- `mat.st` (R280): after the earlier accumulations of its rows; poison is checked before any lane writes (R282). Of several conditions,
the accumulator window goes before a poisoned row, and that before a locked range (log 35, DESIGN CHOICE). -/
def execMatSt (sa : SReg) (roff : BitVec 2) (spec : MatSpec) (dc : BitVec 3) (s : State) : Out :=
  .next (if s.relPending s.cur then s
    else s.deliverFull fun s => s.matGate (specUses spec sa.toNat 2) (specTop .st sa.toNat) spec .st sa.toNat dc fun s _ p =>
      s.rowOp roff fun s e row0 =>
        if s.rowsBusy s.cw.uid row0 e then s
        else s.rowPoison e row0 fun s =>
          let w := s.cw
          let base := (w.s64 sa.toNat).toNat
          let o := s.stOp dc
          let n := bitsOf w.medge.toNat 25 16
          let bad := matMisaligned p.layout base p.lineStride
          let lanes := (lanesOf e).flatMap fun l =>
            s.stParts o bad l (s.stBytes p base (w.s64 (sa.toNat + 2)).toNat e row0 n l)
          let hits := s.lockLanes true o.vf o.asid 0 true (lanes.map fun q => (o.laneNo q.1, q.2.addr.toNat, q.2.mask.length))
          if hits != [] then s.lockTrap hits (memInfo o 0)
          else
            let (id, s) := s.fresh
            let o := { o with lanes }
            let s := (s.setOp id o).l1Update o
            (s.updCw fun w => { w.inc dc with seq := w.seq + 1 }).finish 2)

/-- MAT_ST_COMPLETE (R280): every write is acknowledged. -/
def execMatStComplete (op : Nat) (s : State) : Out :=
  .next (match s.op? op with
    | some o => if o.kind == .matSt && o.acked then s.endStore op o else s
    | none => s)

end Sys2Proof.Machine
end

