-- ==== Sys2Proof/Machine/Link.lean ====
section
/-! DEFINITION. Yunel Link: ports, flits and their retry, routing, retraining and loss (R346 to R348, R453, R454), and the
messages that this chip sends on it. -/

namespace Sys2Proof.Machine

def State.updFab (s : State) (f : Fabric → Fabric) : State := { s with fab := f s.fab }
def State.port (s : State) (p : Nat) : Port := Map.get s.fab.ports Port.reset p
def State.updPort (s : State) (p : Nat) (f : Port → Port) : State :=
  s.updFab fun x => { x with ports := Map.upd x.ports Port.reset p f }

/-- This chip, the standby and the primary sequencer (R348). -/
def State.chip (s : State) : Nat := bitsOf s.fab.fid.toNat 11 0
def State.seqS (s : State) : Nat := bitsOf s.fab.fid.toNat 27 16
def State.seqP (s : State) : Nat := bitsOf s.fab.fseq.toNat 11 0

/-- The port towards a chip; none without a route (R348). -/
def State.route (s : State) (dest : Nat) : Option Nat :=
  let p := (Map.get s.fab.frt 0x1F dest).toNat
  if p < 18 then some p else none

/-- The record of a dropped flit (R348, R462); 31 stands for this chip itself as the port of arrival. -/
def State.dropFlit (s : State) (arrival : Nat) (f : Flit) : State :=
  s.log 0x0404 srcHub [(24, 1, arrival), (25, 1, f.vc.toNat), (26, 2, f.dest.toNat), (28, 2, f.src.toNat)]

/-- A flit leaves on a port: numbered, kept for a retry, sent (R347). -/
def State.launchFlit (s : State) (p : Nat) (f : Flit) : State :=
  let x := s.port p
  let f := { f with seq := x.txSeq, ack := (x.rxSeq - 1).setWidth 16, good := true }
  (s.updPort p fun x => { x with txSeq := x.txSeq + 1, retry := x.retry ++ [f] }).send (.flit p f)

/-- Flits that wait leave in order while the port is up and does not retrain (R453), their channels may send and the retry buffer has room
(R347). -/
def State.drainPort (s : State) (p : Nat) : Nat → State
  | 0 => s
  | n + 1 =>
    let x := s.port p
    if x.width = 0 || x.retrain.isSome || 512 ≤ x.retry.length then s
    else match x.wait.find? fun f => !x.stop.getLsbD f.2.vc.toNat with
      | none => s
      | some f => ((s.updPort p fun x => { x with wait := x.wait.erase f }).launchFlit p f.2).drainPort p n

/-- A flit is sent towards its destination, or dropped where no port leads there (R348, R454). -/
def State.forward (s : State) (arrival : Nat) (f : Flit) : State :=
  match s.route f.dest.toNat with
  | none => s.dropFlit arrival f
  | some p =>
    if (s.port p).width = 0 then s.dropFlit arrival f
    else (s.updPort p fun x => { x with wait := x.wait ++ [(arrival, f)] }).drainPort p 1

/-- A message of this chip: one for itself joins its own messages, another leaves as a flit. A chip ID that no flit can name has no route
(R348, R357; log 23, DEDUCED). -/
def State.post (s : State) (dest vc : Nat) (payload : List Byte) : State :=
  if 4096 ≤ dest then s.log 0x0404 srcHub [(24, 1, 31), (25, 1, vc), (26, 2, dest), (28, 2, s.chip)]
  else if dest = s.chip then s.updFab fun x => { x with inbox := x.inbox ++ [(s.chip, vc, payload)] }
  else s.forward 31 ⟨BitVec.ofNat 12 dest, BitVec.ofNat 12 s.chip, BitVec.ofNat 8 vc, 0, 0, payload, true⟩

/-- Messages of a payload: on channel 3 one of 32 bytes each (R359), else the payload as one. -/
def messagesOf (vc : Nat) (bs : List Byte) : Nat → List (List Byte)
  | 0 => []
  | n + 1 => if vc = 3 then (if bs = [] then [] else bs.take 32 :: messagesOf vc (bs.drop 32) n) else [bs]

/-- Flits that an ACK covers leave the retry buffer (R347). -/
def Port.acked (x : Port) (ack : BitVec 16) : Port :=
  match x.retry.findIdx? fun f => f.seq.setWidth 16 = ack with
  | some i => { x with retry := x.retry.drop (i + 1) }
  | none => x

/-- A resend is asked for (R347); with the 16th of one SEQ the port retrains (R453). -/
def State.askResend (s : State) (p : Nat) : State :=
  (s.updPort p fun x => { x with gap := true, asked := x.asked + 1, retrain := if 16 ≤ x.asked + 1 then some s.time else x.retrain }).send
    (.resend p (s.port p).rxSeq)

/-- A received flit (R347): a corrupted or out-of-sequence one is discarded and a resend asked for once; the flit of the first
SEQ not accepted is delivered or forwarded. -/
def State.acceptFlit (s : State) (port : Nat) (f : Flit) : State :=
    let x := s.port port
    if x.width = 0 || x.retrain.isSome then s
    else if !f.good || 5 ≤ f.vc.toNat then
      let s := if f.good then s else s.updPort port fun x => { x with crc := if x.crc = BitVec.allOnes 32 then x.crc else x.crc + 1 }
      s.askResend port
    else if f.seq ≠ x.rxSeq then (if x.gap then s else s.askResend port)
    else
      let s := s.updPort port fun x => { (x.acked f.ack) with rxSeq := x.rxSeq + 1, gap := false, asked := 0 }
      let s := s.drainPort port 512
      if f.dest.toNat = s.chip then
        s.updFab fun x => { x with inbox := x.inbox ++ (messagesOf f.vc.toNat f.payload 8).map fun m => (f.src.toNat, f.vc.toNat, m) }
      else s.forward port f

/-- Flits of a retry buffer sent again from a SEQ onward, as first sent (R347). -/
def State.resendFrom (s : State) (p : Nat) (fs : List Flit) : State := fs.foldl (fun s f => s.send (.flit p f)) s

/-- RESEND_REQUEST (R347). -/
def execResendRequest (port seq : Nat) (s : State) : Out :=
  .next (if (s.port port).width = 0 || (s.port port).retrain.isSome then s
    else s.resendFrom port ((s.port port).retry.dropWhile fun f => f.seq.toNat ≠ seq % 2 ^ 32))

/-- WIDTH of a trained port (R454). -/
def widthCode : LinkWidth → BitVec 2
  | .two => 1 | .four => 2 | .eight => 3

/-- The record of a width change (R453, R454, R462). -/
def State.widthRecord (s : State) (p : Nat) : State :=
  let x := s.port p
  s.log 0x0402 srcHub [(24, 1, p), (25, 1, x.width.toNat), (26, 2, x.rtrn.toNat)]

/-- LINK_RETRAIN (R453): a width has trained, after 16 resend requests for one SEQ of this side or, while it does not retrain, of the far
side (log 41, DEDUCED). The retry buffer is sent again, and the channels go on. -/
def execLinkRetrain (port : Nat) (trained : LinkWidth) (s : State) : Out :=
  .next (
    let x := s.port port
    if x.width = 0 then s
    else
      let w := widthCode trained
      let s := s.updPort port fun x =>
        { x with width := w, rtrn := if x.rtrn = BitVec.allOnes 16 then x.rtrn else x.rtrn + 1, asked := 0, gap := false, retrain := none }
      let s := if w ≠ x.width then s.widthRecord port else s
      (s.resendFrom port (s.port port).retry).drainPort port 512)

/-- A readiness bit clears; when it was set, DIEC rises (R385, R460). -/
def State.clearReady (s : State) (bit : Nat) : State :=
  if s.hub.ready.getLsbD bit then (s.updHub fun h => { h with ready := h.ready &&& ~~~(1#64 <<< bit) }).raiseEvent 0 6 else s

/-- LINK_DOWN (R454): no width has trained within 10 ms. Where this side does not retrain, the far side has begun to, and this side joins it
(log 41, DEDUCED). -/
def execLinkDown (port : Nat) (s : State) : Out :=
  .next (
    let x := s.port port
    if x.width = 0 then s
    else match x.retrain with
    | none => s.updPort port fun x => { x with retrain := some s.time }
    | some t =>
      if s.time < t + 10000000 then s
      else
        let s := s.updPort port fun x => { x with width := 0, retry := [], asked := 0, gap := false, retrain := none }
        let s := s.clearReady (40 + port)
        let s := s.updPort port fun x => { x with wait := [] }
        (x.wait.foldl (fun s f => s.dropFlit f.1 f.2) s).widthRecord port)

/-- STOP_GO_SIGNAL (R347). -/
def execStopGoSignal (port vc : Nat) (go : Bool) (s : State) : Out :=
  .next (if 5 ≤ vc || 18 ≤ port then s
    else (s.updPort port fun x => { x with stop := if go then x.stop &&& ~~~(1#8 <<< vc) else x.stop ||| (1#8 <<< vc) }).drainPort port 512)

end Sys2Proof.Machine
end

