-- ==== Sys2Proof/Machine/Collective.lean ====
section
/-! DEFINITION. Collectives: `col` at issue and at the hub (R299 to R302), communicators (R357, R358), mileposts and the
sequencers (R359 to R364, R455 to R457), and cancellation (R458, R459). -/

namespace Sys2Proof

/-- A REQUEST carries no milepost, an UNKNOWN only ID and call index. -/
def ColMsg.asRequest (m : ColMsg) : ColMsg := { m with milepost := 0 }
def ColMsg.asUnknown (m : ColMsg) : ColMsg := ⟨m.id, m.call, 0, 0, 0, 0, 0, 0⟩

/-- Two messages name one key. -/
def ColMsg.sameKey (a b : ColMsg) : Bool := a.id = b.id && a.call = b.call

end Sys2Proof

namespace Sys2Proof.Machine

/-! ## Communicator entries (R357) -/

def State.comm (s : State) (i : Nat) : BitVec 256 := Map.get s.fab.comms 0 i
def commValid (e : BitVec 256) : Bool := e.getLsbD 63
def commId (e : BitVec 256) : Nat := bitsOf e.toNat 47 32
def commVf (e : BitVec 256) : Nat := bitsOf e.toNat 53 48
def commRank (e : BitVec 256) : Nat := bitsOf e.toNat 31 16
def commSize (e : BitVec 256) : Nat := bitsOf e.toNat 12 0
def commCidx (e : BitVec 256) : Nat := bitsOf e.toNat 147 116

/-- The lowest entry that satisfies `f`. -/
def State.commFind (s : State) (f : BitVec 256 → Bool) : Option Nat :=
  (List.find? (fun p => commValid p.2 && f p.2) s.fab.comms).map Prod.fst

/-- The entry of a `col`: lowest valid one with its ID and the launch's function (R357). -/
def State.commOf (s : State) (vf id : Nat) : Option Nat := s.commFind fun e => commId e = id && commVf e = vf

/-- Physical addresses of an entry's member list. -/
def listPas (e : BitVec 256) : List Nat := (List.range (commSize e)).map fun i => bitsOf e.toNat 115 64 + 2 * i

/-- Chip IDs of an entry's members, in rank order; none where the memory of the list answers with an error (R446; log 82, DESIGN CHOICE). -/
def State.members (s : State) (e : BitVec 256) : List Nat :=
  if (listPas e).any s.dead then [] else (listPas e).map fun a => natOf (s.peeks a 2)

/-- The member list of an entry lies behind a port that is not usable yet (R383). -/
def State.listClosed (s : State) (e : BitVec 256) : Bool := (listPas e).any s.portClosed

/-! ## Messages (R359, R455) -/

/-- A REQUEST (1), NOTICE (2), UNKNOWN (3) or REPLICATE (5). -/
def colBytes (code : Nat) (m : ColMsg) : List Byte :=
  bytesOf 2 code ++ bytesOf 2 m.id.toNat ++ bytesOf 4 m.call.toNat ++ bytesOf 4 m.milepost.toNat ++ bytesOf 1 m.kind.toNat
    ++ bytesOf 1 (m.ty.toNat + 16 * m.rop.toNat) ++ bytesOf 2 m.root.toNat ++ bytesOf 4 m.count.toNat ++ bytesOf 12 0

/-- The fields that such a message carries. -/
def colOfBytes (bs : List Byte) : ColMsg :=
  let f := fun off n => natOf ((bs.drop off).take n)
  ⟨BitVec.ofNat 16 (f 2 2), BitVec.ofNat 32 (f 4 4), BitVec.ofNat 32 (f 8 4), BitVec.ofNat 4 (f 12 1), BitVec.ofNat 4 (f 13 1),
    BitVec.ofNat 3 (f 13 1 / 16), BitVec.ofNat 16 (f 14 2), BitVec.ofNat 32 (f 16 4)⟩

/-- A REPORT (4), HEARTBEAT (6), CANCEL (8), CANCELLED (9), or the standby's acknowledgement (16, the model's own). -/
def statBytes (code milepost status : Nat) : List Byte :=
  bytesOf 8 code ++ bytesOf 4 milepost ++ bytesOf 12 0 ++ bytesOf 1 status ++ bytesOf 7 0

/-- A TAKEOVER (7). -/
def takeoverBytes (chip first : Nat) : List Byte := bytesOf 2 7 ++ bytesOf 2 chip ++ bytesOf 4 0 ++ bytesOf 4 first ++ bytesOf 20 0

/-- The oldest message of a chip on the sequencer channel (R348). -/
def State.heard (s : State) (src : Nat) : Option (List Byte) :=
  (s.fab.inbox.find? fun m => m.1 = src && m.2.1 = 3).map fun m => m.2.2

/-- REQUESTs and CANCELs are handled in the order of their arrival from all chips (R360, R458). -/
def inOrder (code : Byte) : Bool := code == 1 || code == 8

/-- No message of a kind that is handled in the order of arrival stands before this one. -/
def State.inTurn (s : State) (src : Nat) (bs : List Byte) : Bool :=
  !inOrder (bs.getD 0 0) || (s.fab.inbox.find? fun m => m.2.1 = 3 && m.2.2.getD 0 0 = bs.getD 0 0) == some (src, 3, bs)

/-- The oldest message of a chip on the sequencer channel is taken, when it is this one; otherwise it has not arrived. -/
def State.hear (s : State) (src : Nat) (bs : List Byte) (k : State → State) : State :=
  if s.heard src = some bs && s.inTurn src bs then k (s.updFab fun f => { f with inbox := f.inbox.erase (src, 3, bs) }) else s

/-- Messages of one content sent to chips, in order. -/
def State.postAll (s : State) (chips : List Nat) (bs : List Byte) : State := chips.foldl (fun s c => s.post c 3 bs) s

/-- Serial order of mileposts (R362). -/
def precedes (a b : Word) : Bool := 1 ≤ (b - a).toNat && (b - a).toNat < 2 ^ 31

/-! ## `col` at issue (R299, R300) -/

/-- Elements of the send and of the receive buffer (R300). -/
def colSend (kind n p : Nat) : Nat := if kind = 2 || kind = 3 then n * p else n
def colRecv (kind n p : Nat) : Nat := if kind = 1 || kind = 3 then n * p else n

/-- Copy-argument fault (R300, R398). -/
def State.copyArg (s : State) (cause : Nat) : State := s.takeTrap (s.cw.trapHere (0x0A00 + cause))

/-- `col` of a kind: its operands are checked and its buffers registered. Where the communicator has no entry, one member counts for the
sizes, and the root is not checked (log 25, DESIGN CHOICE). -/
def State.colIssue (s : State) (kind : BitVec 4) (dc : BitVec 3) (sa sb sc sd : SReg) (root : Option SReg) (ty : Fmt) (rop : Rop) : Out :=
  let regs := [sa.toNat, sb.toNat, sb.toNat + 1, sc.toNat, sc.toNat + 1, sd.toNat] ++ root.toList.map (·.toNat)
  .next (s.engGate { Uses.none with sr := regs } dc fun s =>
    let w := s.cw
    let e := s.engOp (.col kind ty rop) dc
    let id := (w.s sa.toNat).toNat % 65536
    let send := (w.s64 sb.toNat).toNat
    let recv := (w.s64 sc.toNat).toNat
    let n := (w.s sd.toNat).toNat
    let rk := (root.map fun r => (w.s r.toNat).toNat).getD 0
    let entry := s.commOf e.vf id
    let p := (entry.map fun i => commSize (s.comm i)).getD 1
    let reads := root.isNone || (entry.map fun i => commRank (s.comm i)).getD rk = rk
    let size := fmtBits ty / 8
    let sn := colSend kind.toNat n p * size
    let rn := colRecv kind.toNat n p * size
    let same := send = recv && (kind = 0 || kind = 4)
    s.checked (checkGlobal send (if reads then sn else 0) size ++ checkGlobal recv rn size) fun s =>
      if sn ≠ 0 && rn ≠ 0 && send < recv + rn && recv < send + sn && !same then s.copyArg 1
      else if root.isSome && entry.isSome && p ≤ rk then s.copyArg 2
      else
        let e := { e with a := BitVec.ofNat 64 send, b := BitVec.ofNat 64 recv, c := BitVec.ofNat 64 rk, sd := sd.toNat,
                          coords := [BitVec.ofNat 32 id, BitVec.ofNat 32 n] }
        s.issueEng e (nonEmpty [e.global send (if reads then send + sn else send) false, e.global recv (recv + rn) true]))

/-- `col.ar`. -/
def execColAr (dc : BitVec 3) (sa sb sc sd : SReg) (ty : Fmt) (rop : Rop) (s : State) : Out := s.colIssue 0 dc sa sb sc sd none ty rop

/-- `col.ag`. -/
def execColAg (dc : BitVec 3) (sa sb sc sd : SReg) (ty : Fmt) (s : State) : Out := s.colIssue 1 dc sa sb sc sd none ty .add

/-- `col.rs`. -/
def execColRs (dc : BitVec 3) (sa sb sc sd : SReg) (ty : Fmt) (rop : Rop) (s : State) : Out := s.colIssue 2 dc sa sb sc sd none ty rop

/-- `col.a2a`. -/
def execColA2a (dc : BitVec 3) (sa sb sc sd : SReg) (ty : Fmt) (s : State) : Out := s.colIssue 3 dc sa sb sc sd none ty .add

/-- `col.bc`. -/
def execColBc (dc : BitVec 3) (sa sb sc sd root : SReg) (ty : Fmt) (s : State) : Out := s.colIssue 4 dc sa sb sc sd (some root) ty .add

/-! ## The collective engine: fields of a `col` -/

def EngOp.colId (e : EngOp) : Word := e.coords.getD 0 0
def EngOp.colN (e : EngOp) : Nat := (e.coords.getD 1 0).toNat
def EngKind.colKind : EngKind → Nat
  | .col k _ _ => k.toNat
  | _ => 0
def EngKind.colTy : EngKind → Fmt
  | .col _ t _ => t
  | _ => .n32
def EngKind.colRop : EngKind → Rop
  | .col _ _ r => r
  | _ => .add
def EngOp.colSize (e : EngOp) : Nat := fmtBits e.kind.colTy / 8

/-- The arguments of a `col` as its REQUEST carries them (R359); `rop` is 0 where the form has none. -/
def EngOp.colMsg (e : EngOp) (call : Nat) (milepost : Word) : ColMsg :=
  ⟨e.colId.setWidth 16, BitVec.ofNat 32 call, milepost, BitVec.ofNat 4 e.kind.colKind, e.kind.colTy.code, e.kind.colRop.code,
    e.c.setWidth 16, BitVec.ofNat 32 e.colN⟩

/-- An issued `col` has the key of a message. -/
def Issued.keyed (i : Issued) (m : ColMsg) : Bool := i.id = m.id.toNat && i.call = m.call.toNat

/-- The entry of an issued `col` changed. -/
def State.updIssued (s : State) (op : Nat) (f : Issued → Issued) : State :=
  s.updFab fun x => { x with issued := x.issued.map fun i => if i.op = op then f i else i }

/-! ## The end of a part (R302, R363) -/

/-- The operation of a `col` ends with a status in its register, and then its counter drops (R302). -/
def State.colStatus (s : State) (op status : Nat) : State :=
  match s.eng? op with
  | none => s
  | some e => (s.forOp e.slot e.uid fun w => w.setS e.sd (BitVec.ofNat 32 status)).endEng op e

/-- A completed milepost kept with its status, for a takeover (R456); ones of a full window ago are forgotten (R362). -/
def Fabric.reported (f : Fabric) (x : Reported) : Fabric :=
  { f with reports := (f.reports.filter fun r => (x.milepost - r.milepost).toNat < 2 ^ 30 && r.milepost != x.milepost) ++ [x] }

/-- A completed milepost is that of a message: its number and its key, since a number comes again after 2^32 (R362). -/
def Reported.is (r : Reported) (m : ColMsg) : Bool := r.milepost = m.milepost && r.id = m.id.toNat && r.call = m.call.toNat

/-- A part completes: its `col` and its NOTICE leave, the status is written, and a REPORT goes to the primary (R363). -/
def State.colEnd (s : State) (i : Issued) (status : Nat) : State :=
  let s := s.updFab fun f => { f with issued := f.issued.filter (·.op != i.op), notices := f.notices.filter fun n => !i.keyed n.msg }
  let s := s.colStatus i.op status
  match i.milepost with
  | none => s
  | some m => (s.updFab fun f => f.reported ⟨m, i.id, i.call, status⟩).post s.seqP 3 (statBytes 4 m.toNat status)

/-- A chip asks for a milepost to be cancelled (R458). -/
def State.askCancel (s : State) (i : Issued) (status : Nat) : State :=
  match i.milepost with
  | none => s
  | some m => (s.updIssued i.op fun i => { i with asked := true }).post s.seqP 3 (statBytes 8 m.toNat status)

/-! ## Data (R300, R301) -/

/-- An element with its bound and whether it is poisoned. -/
abbrev Elem := Nat × Bnd × Bool

/-- An element of the send buffer as the engine has read it. -/
def EngOp.elemAt (e : EngOp) (k : Nat) : Elem :=
  let a := e.a.toNat + k * e.colSize
  let bs := (Map.find? e.buf (a / 32)).getD []
  (natOf ((bs.drop (a % 32)).take e.colSize), BitVec.ofNat 16 (natOf (bs.drop 32)), e.bufPoison.contains (a / 32))

/-- What rank `r` sends to rank `q` (R300). -/
def EngOp.sendTo (e : EngOp) (r q : Nat) : List Elem :=
  let n := e.colN
  match e.kind.colKind with
  | 2 => (List.range n).map fun k => e.elemAt (q * n + k)
  | 3 => (List.range n).map fun k => e.elemAt (q * n + k)
  | 4 => if e.c.toNat = r then (List.range n).map e.elemAt else []
  | _ => (List.range n).map e.elemAt

/-- Elements that a member of a communicator reads. -/
def EngOp.readCount (e : EngOp) (r p : Nat) : Nat :=
  if e.kind.colKind = 4 && e.c.toNat ≠ r then 0 else colSend e.kind.colKind e.colN p

/-- The results at a rank from what every rank sent to it (R300, R301). -/
def EngOp.results (e : EngOp) (xs : List (List Elem)) : List Elem :=
  match e.kind with
  | .col kind ty rop =>
    if kind = 0 || kind = 2 then
      match xs with
      | [] => []
      | x :: t => t.foldl (fun acc y => List.zipWith (fun a b =>
          let r := redStep ty rop a.1 b.1 a.2.1 b.2.1
          (r.1, r.2, a.2.2 || b.2.2)) acc y) x
    else if kind = 4 then xs.getD e.c.toNat []
    else xs.flatten
  | _ => []

/-- Sectors of a range with the part of the range in each. -/
def colSectors (lo hi : Nat) : List (Nat × Nat × Nat) :=
  if hi ≤ lo then []
  else (List.range ((hi + 31) / 32 - lo / 32)).map fun i =>
    let sec := lo / 32 + i
    (sec, max lo (32 * sec), min hi (32 * sec + 32))

/-- The transfers that read the send buffer, a whole sector each. -/
def EngOp.readXfers (e : EngOp) (r p : Nat) : List Xfer :=
  let lo := e.a.toNat
  (colSectors lo (lo + e.readCount r p * e.colSize)).map fun x => ⟨[⟨32 * x.1, 32 * x.1, 32, none, false⟩], false, none, false⟩

/-- The engine's buffer and transfers for results: each sector's bytes, then its bound. -/
def EngOp.putResults (e : EngOp) (rs : List Elem) : EngOp :=
  let lo := e.b.toNat
  let size := e.colSize
  let secs := (colSectors lo (lo + rs.length * size)).map fun x => (x, (rs.drop ((x.2.1 - lo) / size)).take ((x.2.2 - x.2.1) / size))
  { e with st := .active, bufBnd := 0,
           buf := secs.map fun y => (y.1.1, y.2.flatMap (fun v => bytesOf size v.1) ++ bytesOf 2 (y.2.foldl (fun b v => bndMax b v.2.1) 0).toNat),
           bufPoison := (secs.filter fun y => y.2.any fun v => v.2.2).map fun y => y.1.1,
           xfers := secs.map fun y => ⟨[⟨y.1.2.1, y.1.2.1, y.1.2.2 - y.1.2.1, none, false⟩], false, none, false⟩ }

/-- The head of a message on the data channel (the model's own layout): milepost, number of messages, communicator and call index. -/
def dataHead (m : ColMsg) (n : Nat) : List Byte := bytesOf 4 m.milepost.toNat ++ bytesOf 4 n ++ bytesOf 4 m.id.toNat ++ bytesOf 4 m.call.toNat

/-- Messages of elements on the data channel, 16 elements each, at least one: per element its value, bound and poison. -/
def dataMsgs (m : ColMsg) (xs : List Elem) : List (List Byte) :=
  let n := max 1 ((xs.length + 15) / 16)
  (List.range n).map fun i =>
    dataHead m n ++ ((xs.drop (16 * i)).take 16).flatMap fun v => bytesOf 8 v.1 ++ bytesOf 2 v.2.1.toNat ++ bytesOf 1 (b2n v.2.2)

/-- Elements of such a message. -/
def dataElems (bs : List Byte) : List Elem :=
  (List.range ((bs.length - 16) / 11)).map fun i =>
    let b := bs.drop (16 + 11 * i)
    (natOf (b.take 8), BitVec.ofNat 16 (natOf ((b.drop 8).take 2)), (b.getD 10 0).getLsbD 0)

/-- A message on the data channel is of a milepost and a key. -/
def isData (m : Word) (id call : Nat) (x : Nat × Nat × List Byte) : Bool :=
  x.2.1 = 2 && natOf (x.2.2.take 4) = m.toNat && natOf ((x.2.2.drop 8).take 4) = id && natOf ((x.2.2.drop 12).take 4) = call

/-- The message on the data channel that tells that a member's receive buffer is written (the model's own): a milepost and a key, and no
number of messages (R364; log 23). -/
def wroteMsg (m : ColMsg) : List Byte := dataHead m 0

/-- The other members have told that their receive buffers are written (R364). -/
def State.allWrote (s : State) (m : ColMsg) (i : Issued) : Bool :=
  (List.range i.chips.length).all fun q => q = i.rank || s.fab.inbox.any fun x => x.1 = i.chips.getD q 0 && x.2.1 = 2 && x.2.2 = wroteMsg m

/-- What a chip has sent for a milepost, once all of it has come. -/
def State.dataFrom (s : State) (m : ColMsg) (chip : Nat) : Option (List Elem) :=
  let ms := s.fab.inbox.filter fun x => x.1 = chip && isData m.milepost m.id.toNat m.call.toNat x && x.2.2 != wroteMsg m
  match ms with
  | [] => none
  | x :: _ => if ms.length = natOf ((x.2.2.drop 4).take 4) then some (ms.flatMap fun x => dataElems x.2.2) else none

/-- What every rank has sent to this one. -/
def State.dataAll (s : State) (m : ColMsg) (i : Issued) (e : EngOp) : Option (List (List Elem)) :=
  (List.range i.chips.length).mapM fun q => if q = i.rank then some (e.sendTo q q) else s.dataFrom m (i.chips.getD q 0)

/-! ## Running in milepost order (R363, R364) -/

/-- A message on the data channel to every other member, in rank order; the bytes count for the function of the `col` (R378). -/
def State.tellMembers (s : State) (vf : Nat) (i : Issued) (bs : Nat → List (List Byte)) : State :=
  (List.range i.chips.length).foldl (fun s q =>
    if q = i.rank then s else (bs q).foldl (fun s b => (s.moved vf 21 b.length).post (i.chips.getD q 0) 2 b) s) s

/-- A part waits for another member from now on, or no longer (R458). -/
def State.setWaits (s : State) (op : Nat) (w : Bool) : State := s.updIssued op fun i => { i with waits := if w then some s.time else none }

/-- The part of the oldest NOTICE moves on: it is checked against its `col`, started, exchanged, computed and written. -/
def State.colRun (s : State) (n : Notice) (i : Issued) (e : EngOp) : State :=
  let m := n.msg
  if i.asked then s
  else if e.colMsg i.call m.milepost != m then s.askCancel i 1
  else if e.fault.isSome then s.askCancel i 4
  else match e.st with
    | .atHub =>
      s.setEng i.op { e with st := .descriptor, xfers := e.readXfers i.rank i.chips.length }
    | .descriptor =>
      if e.xfers.all fun x => x.done then
        ((s.setEng i.op { e with st := .drained }).setWaits i.op true).tellMembers e.vf i fun q => dataMsgs m (e.sendTo i.rank q)
      else s
    | .drained =>
      match s.dataAll m i e with
      | none => s
      | some xs => (s.setEng i.op (e.putResults (e.results xs))).setWaits i.op false
    | .active =>
      if e.allDone && !i.wrote then
        ((s.updIssued i.op fun i => { i with wrote := true }).setWaits i.op true).tellMembers e.vf i fun _ => [wroteMsg m]
      else s
    | _ => s

/-- The `col` of a NOTICE, with its operation. -/
def State.issuedFor (s : State) (m : ColMsg) : Option Issued := s.fab.issued.find? fun i => i.keyed m

/-- The oldest NOTICE not executed, passing over cancelled ones (R363, R459). -/
def State.oldest (s : State) : Option Notice := s.fab.notices.find? fun n => n.cancelled.isNone

/-- The collective engine moves on as far as it can: parts whose launch is gone ask for cancellation with status 4, data of
completed mileposts is dropped, and the oldest part runs. -/
def State.colAdvance (s : State) : Nat → State
  | 0 => s
  | k + 1 =>
    let s := s.fab.issued.foldl (fun s i => if (s.eng? i.op).isNone && !i.asked then s.askCancel i 4 else s) s
    let s := s.updFab fun f => { f with inbox := f.inbox.filter fun x => !f.reports.any fun r => isData r.milepost r.id r.call x }
    match s.oldest with
    | none => s
    | some n => match s.issuedFor n.msg with
      | none => s
      | some i => match s.eng? i.op with
        | none => s
        | some e => (s.colRun n i e).colAdvance k

/-- COLLECTIVE_PART_COMPLETE (R363, R364): every member has started, and has written its receive buffer. -/
def execCollectivePartComplete (milepost : Nat) (s : State) : Out :=
  .next (match s.oldest with
    | none => s
    | some n => match s.issuedFor n.msg with
      | none => s
      | some i => match s.eng? i.op with
        | none => s
        | some e => if n.msg.milepost.toNat = milepost && e.allDone && i.wrote && s.allWrote n.msg i && e.fault.isNone && !i.asked then (s.colEnd i 0).colAdvance 4 else s)

/-! ## A `col` reaches the engine (R302, R357, R360) -/

/-- The local checks of R357: the entry, with the chips of its members. -/
def State.localCheck (s : State) (e : EngOp) : Option (Nat × List Nat) :=
  match s.commOf e.vf e.colId.toNat with
  | none => none
  | some i =>
    let c := s.comm i
    let ms := s.members c
    if c.getLsbD 62 && ms[commRank c]? = some s.chip then some (i, ms) else none

/-- CIDX of an entry advanced by one (R302). -/
def nextCidx (e : BitVec 256) : BitVec 256 :=
  let c := (commCidx e + 1) % 2 ^ 32
  BitVec.ofNat 256 (e.toNat % 2 ^ 116 + c * 2 ^ 116)

/-- A `col` reaches the collective engine in its warp's order: a call index, then its NOTICE or a REQUEST. -/
def State.colArrive (s : State) (id : Nat) (e : EngOp) : State :=
  if !s.hub.ready.getLsbD 7 || (s.commOf e.vf e.colId.toNat).any (fun i => s.listClosed (s.comm i)) || s.engs.any fun p => p.1 < id && p.2.uid = e.uid && p.2.kind.collective && p.2.st == .waiting then s
  else match s.localCheck e with
    | none => s.colStatus id 2
    | some (i, ms) =>
      let c := s.comm i
      let call := commCidx c
      let s := s.updFab fun f => { f with comms := Map.set f.comms 0 i (nextCidx c) }
      let s := (s.updLaunch e.launch fun l => { l with colled := true }).setEng id { e with st := .atHub }
      let m := e.colMsg call 0
      let held := s.fab.notices.find? fun n => n.msg.sameKey m
      let x : Issued := { op := id, id := e.colId.toNat, call, entry := i, milepost := held.map fun n => n.msg.milepost, rank := commRank c,
                          chips := ms, asked := false, args := m }
      let s := s.updFab fun f => { f with issued := f.issued ++ [x] }
      match held with
      | none => s.post s.seqP 3 (colBytes 1 m)
      | some n => match n.cancelled with
        | some st => (s.colEnd x st).colAdvance 4
        | none => s.colAdvance 4

/-! ## The primary sequencer (R360 to R362) -/

/-- L: the oldest milepost that some member has not reported (R362). -/
def State.seqL (s : State) : Word := match s.fab.seq.grants with
  | [] => s.fab.seq.next
  | g :: _ => g.msg.milepost

def State.updSeq (s : State) (f : Sequencer → Sequencer) : State := s.updFab fun x => { x with seq := f x.seq }

/-- NOTICEs of a chip that it has not reported fill its agent (R361). -/
def State.agentFull (s : State) (chip : Nat) : Bool :=
  16384 ≤ (s.fab.seq.grants.filter fun g => g.members.contains chip && !g.reported.contains chip).length

/-- REQUESTs wait: for the standby's acknowledgement of a grant (R360), or for L to advance (R362). -/
def State.seqWaits (s : State) : Bool := (s.fab.seq.grants.any fun g => !g.sent) || 2 ^ 30 ≤ (s.fab.seq.next - s.seqL).toNat

/-- A REQUEST may be granted: nothing is awaited, and no member's agent is full. -/
def State.grantable (s : State) (ms : List Nat) : Bool := !s.seqWaits && !ms.any s.agentFull

/-- The NOTICE of a grant to every member (R360). -/
def State.notify (s : State) (g : Grant) : State := s.postAll g.members (colBytes 2 g.msg)

/-- A key is granted the next milepost (R360); a lone primary grants without replication (R457). -/
def State.grant (s : State) (m : ColMsg) (ms : List Nat) : State :=
  let q := s.fab.seq
  let g : Grant := ⟨{ m with milepost := q.next }, ms, [], q.alone, none⟩
  let s := s.updSeq fun q => { q with next := q.next + 1, grants := q.grants ++ [g], waiting := q.waiting.filter fun w => !w.2.sameKey m }
  if q.alone then s.notify g else s.post s.seqS 3 (colBytes 5 g.msg)

/-- Members of the communicator of an ID at the sequencer; none where their list cannot be read (log 82, DESIGN CHOICE). -/
def State.seqMembers (s : State) (id : Nat) : Option (List Nat) := match (s.commFind fun e => commId e = id).map fun i => s.members (s.comm i) with
  | some (c :: t) => some (c :: t)
  | _ => none

/-- A REQUEST is handled, and waits no longer. -/
def State.dropRequest (s : State) (w : Nat × ColMsg) : State := s.updSeq fun q => { q with waiting := q.waiting.erase w }

/-- REQUESTs are handled one at a time in their order (R360), as far as they may be; one that a full agent holds is passed over (R361). -/
def State.pump (s : State) : List (Nat × ColMsg) → State
  | [] => s
  | w :: t =>
    if !s.fab.seq.waiting.contains w then s.pump t
    else if s.seqWaits then s
    else match s.seqMembers w.2.id.toNat with
      | none => ((s.dropRequest w).post w.1 3 (colBytes 3 w.2.asUnknown)).pump t
      | some ms =>
        if s.fab.seq.grants.any fun g => g.msg.sameKey w.2 then (s.dropRequest w).pump t
        else if ms.any s.agentFull then s.pump t
        else (s.grant w.2 ms).pump t

/-- A REQUEST at the primary. -/
def State.onRequest (s : State) (src : Nat) (m : ColMsg) : State :=
  if s.seqP ≠ s.chip then s
  else
    let s := s.updSeq fun q => { q with waiting := q.waiting ++ [(src, m)] }
    s.pump s.fab.seq.waiting

/-- REQUEST (R360, R361, R362). -/
def execRequest (src : Nat) (m : ColMsg) (s : State) : Out :=
  .next (s.hear src (colBytes 1 m.asRequest) fun s => s.onRequest src m.asRequest)

/-- A REPLICATE at the standby: kept and acknowledged. REPLICATEs come in milepost order (R348, R360), so the last is the highest. -/
def State.onReplicate (s : State) (src : Nat) (m : ColMsg) : State :=
  if s.seqS ≠ s.chip || src ≠ s.seqP then s
  else (s.updSeq fun q => { q with copies := q.copies ++ [m], high := m.milepost }).post
    src 3 (statBytes 16 m.milepost.toNat 0)

/-- REPLICATE (R360, R455). -/
def execReplicate (src : Nat) (m : ColMsg) (s : State) : Out := .next (s.hear src (colBytes 5 m) fun s => s.onReplicate src m)

/-- The standby's acknowledgement: the NOTICE leaves, and the next REQUEST is handled. -/
def State.onReplicateAck (s : State) (src milepost : Nat) : State :=
  if s.seqP ≠ s.chip || src ≠ s.seqS then s
  else match s.fab.seq.grants.find? fun g => !g.sent && g.msg.milepost.toNat = milepost with
    | none => s
    | some g =>
      let s := (s.updSeq fun q => { q with grants := q.grants.map fun x => if x = g then { x with sent := true } else x }).notify g
      s.pump s.fab.seq.waiting

/-- REPLICATE_ACK (R360). -/
def execReplicateAck (src milepost : Nat) (s : State) : Out :=
  .next (s.hear src (statBytes 16 (milepost % 2 ^ 32) 0) fun s => s.onReplicateAck src (milepost % 2 ^ 32))

/-- A REPORT at the primary: a key that every member has reported is dropped, and L advances. A discarded key is followed alike (R358). -/
def State.onReport (s : State) (src milepost : Nat) : State :=
  if s.seqP ≠ s.chip then s
  else
    let mark := fun g : Grant =>
      if g.msg.milepost.toNat = milepost && g.members.contains src && !g.reported.contains src then { g with reported := src :: g.reported } else g
    let done := fun g : Grant => g.members.all fun c => g.reported.contains c
    let s := s.updSeq fun q => { q with grants := (q.grants.map mark).filter fun g => !done g, lost := (q.lost.map mark).filter fun g => !done g }
    s.pump s.fab.seq.waiting

/-- REPORT (R360, R362). -/
def execReport (src milepost status : Nat) (s : State) : Out :=
  .next (s.hear src (statBytes 4 (milepost % 2 ^ 32) (status % 256)) fun s => s.onReport src (milepost % 2 ^ 32))

/-! ## The milepost agent (R361, R357, R456) -/

/-- A NOTICE put among those held, in milepost order. -/
def insertNotice (n : Notice) : List Notice → List Notice
  | [] => [n]
  | x :: t => if precedes n.msg.milepost x.msg.milepost then n :: x :: t else x :: insertNotice n t

/-- A NOTICE at a member: known keys are discarded, and a completed milepost is reported again (R456). -/
def State.onNotice (s : State) (src : Nat) (m : ColMsg) : State :=
  if src ≠ s.seqP then s
  else match s.fab.reports.find? fun r => r.is m with
    | some r => s.post s.seqP 3 (statBytes 4 r.milepost.toNat r.status)
    | none =>
      if s.fab.notices.any fun n => n.msg.sameKey m then s
      else
        let s := s.updFab fun f => { f with notices := insertNotice ⟨m, none⟩ f.notices,
                                            issued := f.issued.map fun i => if i.keyed m then { i with milepost := some m.milepost } else i }
        s.colAdvance 4

/-- NOTICE (R361, R363). -/
def execNotice (src : Nat) (m : ColMsg) (s : State) : Out := .next (s.hear src (colBytes 2 m) fun s => s.onNotice src m)

/-- UNKNOWN at a member: its `col` ends with status 2, and the index stays consumed (R357). -/
def State.onUnknown (s : State) (src : Nat) (m : ColMsg) : State :=
  if src ≠ s.seqP then s
  else match s.fab.issued.find? fun i => i.keyed m && i.milepost.isNone with
    | none => s
    | some i => s.colEnd i 2

/-- UNKNOWN (R357). -/
def execUnknown (src : Nat) (m : ColMsg) (s : State) : Out :=
  .next (s.hear src (colBytes 3 m.asUnknown) fun s => s.onUnknown src m)

/-! ## Failover (R455 to R457) -/

/-- HEARTBEAT_SEND (R455). -/
def execHeartbeatSend (s : State) : Out :=
  .next (if s.seqP ≠ s.chip || s.time < s.fab.seq.beat + 10000 then s
    else (s.updSeq fun q => { q with beat := s.time }).post s.seqS 3 (statBytes 6 s.seqL.toNat 0))

/-- A HEARTBEAT at the standby: keys that precede L are dropped. -/
def State.onHeartbeat (s : State) (src : Nat) (oldest : Nat) : State :=
  if s.seqS ≠ s.chip || src ≠ s.seqP then s
  else
    let l := BitVec.ofNat 32 oldest
    s.updSeq fun q => { q with beat := s.time, oldest := l, copies := q.copies.filter fun m => !precedes m.milepost l }

/-- HEARTBEAT (R455). -/
def execHeartbeat (src oldest : Nat) (s : State) : Out :=
  .next (s.hear src (statBytes 6 (oldest % 2 ^ 32) 0) fun s => s.onHeartbeat src (oldest % 2 ^ 32))

/-- Every chip of the communicator entries. -/
def State.podChips (s : State) : List Nat := ((s.fab.comms.filter fun p => commValid p.2).flatMap fun p => s.members p.2).eraseDups

/-- SEQUENCER_TAKEOVER (R456): the gap of null mileposts, TAKEOVER to every chip, then the kept NOTICEs. -/
def execSequencerTakeover (s : State) : Out :=
  .next (
    let q := s.fab.seq
    if s.seqS ≠ s.chip || s.seqP = s.chip || s.time < q.beat + 100000 then s
    else
      let first := q.high + 65537
      let old := s.seqP
      let grants := q.copies.map fun m => (⟨m, (s.seqMembers m.id.toNat).getD [], [], true, none⟩ : Grant)
      let chips := s.podChips
      let s := s.log 0x0501 srcHub [(24, 2, s.chip), (26, 2, old), (28, 4, first.toNat), (32, 4, q.high.toNat)]
      let s := s.updFab fun f => { f with fseq := BitVec.ofNat 32 s.chip,
                                          seq := { f.seq with next := first, alone := true, grants, waiting := [], copies := [] } }
      let s := s.postAll chips (takeoverBytes s.chip first.toNat)
      grants.foldl State.notify s)

/-- A TAKEOVER at a chip (R456). -/
def State.onTakeover (s : State) (newPrimary : Nat) : State :=
  let s := s.updFab fun f => { f with fseq := BitVec.ofNat 32 (newPrimary % 4096) }
  let s := (s.fab.issued.filter fun i => i.milepost.isNone).foldl (fun s i => s.post s.seqP 3 (colBytes 1 i.args)) s
  s.fab.reports.foldl (fun s r => s.post s.seqP 3 (statBytes 4 r.milepost.toNat r.status)) s

/-- TAKEOVER (R456). -/
def execTakeover (src newPrimary first : Nat) (s : State) : Out :=
  .next (s.hear src (takeoverBytes (newPrimary % 65536) (first % 2 ^ 32)) fun s => s.onTakeover newPrimary)

/-! ## Cancellation (R458, R459) -/

/-- A CANCEL at the primary: the first one for a milepost decides. -/
def State.onCancel (s : State) (milepost status : Nat) : State :=
  if s.seqP ≠ s.chip then s
  else match (s.fab.seq.grants ++ s.fab.seq.lost).find? fun g => g.msg.milepost.toNat = milepost && g.status.isNone with
    | none => s
    | some g =>
      let decide := fun x : Grant => if x = g then { x with status := some status } else x
      let s := s.updSeq fun q => { q with grants := q.grants.map decide, lost := q.lost.map decide }
      s.postAll g.members (statBytes 9 milepost status)

/-- CANCEL (R458). -/
def execCancel (src milepost status : Nat) (s : State) : Out :=
  .next (s.hear src (statBytes 8 (milepost % 2 ^ 32) (status % 256)) fun s => s.onCancel (milepost % 2 ^ 32) (status % 256))

/-- A CANCELLED at a member (R459). -/
def State.onCancelled (s : State) (src milepost status : Nat) : State :=
  if src ≠ s.seqP then s
  else match s.fab.issued.find? fun i => i.milepost = some (BitVec.ofNat 32 milepost) with
    | some i => (s.colEnd i status).colAdvance 4
    | none =>
      (s.updFab fun f => { f with notices := f.notices.map fun n =>
        if n.msg.milepost.toNat = milepost && n.cancelled.isNone then { n with cancelled := some status } else n }).colAdvance 4

/-- CANCELLED (R459). -/
def execCancelled (src milepost status : Nat) (s : State) : Out :=
  .next (s.hear src (statBytes 9 (milepost % 2 ^ 32) (status % 256)) fun s => s.onCancelled src (milepost % 2 ^ 32) (status % 256))

/-- COLLECTIVE_TIMEOUT (R458): a part has waited COLTO µs for another member. -/
def execCollectiveTimeout (milepost : Nat) (s : State) : Out :=
  .next (match s.fab.issued.find? fun i => i.milepost = some (BitVec.ofNat 32 milepost) with
    | none => s
    | some i => match i.waits with
      | none => s
      | some t =>
        if s.fab.colto ≠ 0 && t + s.fab.colto.toNat * 1000 ≤ s.time && !i.asked then s.askCancel i 3 else s)

/-! ## The sequencer channel and the data channel -/

/-- One message of the sequencer channel handled by its code; others are dropped. -/
def State.handle (s : State) (src : Nat) (bs : List Byte) : State :=
  let m := colOfBytes bs
  let f := fun off n => natOf ((bs.drop off).take n)
  s.hear src bs fun s => match f 0 1 with
    | 1 => s.onRequest src m
    | 2 => s.onNotice src m
    | 3 => s.onUnknown src m
    | 4 => s.onReport src (f 8 4)
    | 5 => s.onReplicate src m
    | 6 => s.onHeartbeat src (f 8 4)
    | 7 => s.onTakeover (f 2 2)
    | 8 => s.onCancel (f 8 4) (f 24 1)
    | 9 => s.onCancelled src (f 8 4) (f 24 1)
    | 16 => s.onReplicateAck src (f 8 4)
    | _ => s

/-- FLIT_RECEIVE (R347); collective data may let a part go on. -/
def execFlitReceive (port : Nat) (f : Flit) (s : State) : Out := .next ((s.acceptFlit port f).colAdvance 4)

/-- Keys that a sequencer's chip discards (R358): they are granted no longer, and their collectives end by CANCEL. `old` finds the members
of a key that the standby keeps. -/
def Sequencer.discard (q : Sequencer) (keep : ColMsg → Bool) (old : ColMsg → List Nat) : Sequencer :=
  { q with grants := q.grants.filter fun g => keep g.msg, copies := q.copies.filter keep,
           lost := q.lost ++ (q.grants.filter fun g => !keep g.msg) ++ (q.copies.filter fun m => !keep m).map fun m => ⟨m, old m, [], true, none⟩ }

/-- COMMUNICATOR_ENTRY_WRITE (R357, R358): CIDX is zero again when VALID is left set, and a sequencer's chip discards the keys
of the communicator that are not yet reported. What this chip has reported of it stood under call indices that begin again. -/
def execCommunicatorEntryWrite (i : Nat) (val : BitVec 256) (s : State) : Out :=
  .next (if 1024 ≤ i then s
    else
      let old := s.comm i
      let lo := val.toNat % 2 ^ 116 - bitsOf val.toNat 61 54 * 2 ^ 54 - bitsOf val.toNat 15 13 * 2 ^ 13
      let new := BitVec.ofNat 256 (lo + (if val.getLsbD 63 then 0 else commCidx old) * 2 ^ 116)
      let s := s.updFab fun f => { f with comms := Map.set f.comms 0 i new, reports := f.reports.filter fun r => r.id != commId old && r.id != commId new }
      if s.seqP = s.chip || s.seqS = s.chip then
        let keep := fun m : ColMsg => !(commValid old && m.id.toNat = commId old) && m.id.toNat ≠ commId new
        let ms := s.members old
        let s := s.updSeq fun q => q.discard keep fun _ => ms
        s.pump s.fab.seq.waiting
      else s)

end Sys2Proof.Machine
end

