-- ==== Sys2Proof/Machine/Service.lean ====
section
/-! DEFINITION. The steps of operations in flight that no word stands for: arrival at a home (R110), walks (R118), return and
acknowledgement (R232), held releases (R130), promotion (R147), page answers (R423 to R428), and the start and end of engine
operations (R152, R154). -/

namespace Sys2Proof.Machine

/-! ## Homes and walks -/

/-- HOME_REQUEST (R110): a lane of a memory operation, or a transfer of an engine, reaches its home. -/
def execHomeRequest (op part : Nat) (s : State) : Out :=
  .next (match s.op? op with
    | some _ => s.serveLane op part
    | none => match s.eng? op with
      | some e => if e.kind.collective then (s.serveXfer op part).colAdvance 4 else s.serveXfer op part
      | none => s)

/-- PAGE_TABLE_WALK (R118). -/
def execPageTableWalk (op part : Nat) (s : State) : Out :=
  .next (if (s.op? op).isSome then s.walkLane op part else s.walkXfer op part)

/-- A request of a lane, or of a transfer, to a peer range sent at or before `until_` is answered with an error: a permission fault (R350,
R454). -/
def State.peerFails (s : State) (op part until_ : Nat) : State :=
  match s.op? op with
  | some o =>
    let l := o.lane part
    if !(l.st == .sent || l.st == .arrived || (o.reads && l.st == .walking)) || o.held != none || until_ < o.sentAt then s
    else match s.touch o.who l.addr.toNat o.need with
      | .port p => if paKind p.pa == .peer then s.faultLane o op part 0x08 else s
      | _ => s
  | none => match s.eng? op with
    | none => s
    | some e =>
      match s.peerOf e part with
      | some x => if e.open_ part && e.sentAt ≤ until_ then s.engFault op e part 0x0208 x.1 else s
      | none => s

/-- PEER_REQUEST_TIMEOUT (R454): a peer-range request unanswered for 1 ms ends as an error answer. -/
def execPeerRequestTimeout (op part : Nat) (s : State) : Out :=
  .next (if s.time < 1000000 then s else s.peerFails op part (s.time - 1000000))

/-! ## Return and acknowledgement (R232) -/

/-- Every lane of an operation is served or has left it. -/
def MemOp.returned (o : MemOp) : Bool := o.held == none && o.lanes.all fun p => match p.2.st with
  | .done => true
  | .gone => true
  | _ => false

/-- The warp of an operation is still held by it. -/
def State.holds (s : State) (o : MemOp) (id : Nat) : Bool := s.stillThere o.slot o.uid && (s.warp o.slot).hold == .access id

/-- LOAD_RETURN (R232, R131): destinations and bounds are written, the counter drops, an acquire takes effect. -/
def execLoadReturn (op : Nat) (s : State) : Out :=
  .next (match s.op? op with
    | none => s
    | some o =>
      if !o.returned then s
      else if o.kind == .frameLd then s.frameBack o op
      else if !o.kind.returns || s.holds o op || s.counterBusy o.uid o.dc op || s.registerBusy o op then s
      else
        let s := (s.dropOp op).forOp o.slot o.uid fun w => (w.writeBack o).dec o.dc
        let s := if o.order.acquires then s.acquire o.slot o.core o.scope else s
        s.reap o.uid)

/-- Kinds that end by an acknowledgement alone. -/
def MemKind.acks : MemKind → Bool
  | .st => true | .red => true | .through => true
  | _ => false

/-- STORE_ACKNOWLEDGE (R232, R427). -/
def execStoreAcknowledge (op : Nat) (s : State) : Out :=
  .next (match s.op? op with
    | none => s
    | some o => if o.kind.acks && o.acked && !s.counterBusy o.uid o.dc op then s.endStore op o else s)

/-- RELEASE_DRAIN_COMPLETE (R130): the release's own write is sent, and takes its place in its core's order of requests from here
(R15, R133). -/
def execReleaseDrainComplete (op : Nat) (s : State) : Out :=
  .next (match s.op? op with
    | none => s
    | some o => match o.held with
      | none => s
      | some drain =>
        if !s.allAcked drain then s
        else
          let (n, s) := s.fresh
          let o := { o with held := none, sentAt := s.time, place := (n, 0) }
          let s := s.setOp op o
          if o.kind == .st then s.l1Update o else s)

/-! ## Promotion (R147, R151) -/

def State.promo? (s : State) (pid : Nat) : Option Promotion := Map.find? s.promos pid

/-- The key of a promotion's line at its home. -/
def Promotion.key (p : Promotion) : Nat := lineKey p.home p.vf p.asid p.line

/-- A log entry of a promotion's line. -/
def PromEntry.for_ (e : PromEntry) (p : Promotion) : Bool := e.line = p.line / 128 && e.vf = p.vf && e.asid = p.asid

/-- PROMOTE_REQUEST (R147, R438): the marking core acknowledges it. -/
def execPromoteRequest (pid : Nat) (s : State) : Out :=
  .next (match s.promo? pid with
    | none => s
    | some p => if p.acked then s else { s with promos := Map.put s.promos pid { p with acked := true } })

/-- Lanes that wait for a promotion, in the order of their arrival at the home (R151). -/
def State.promoting (s : State) (pid : Nat) : List (Nat × Nat) := match s.promo? pid with
  | some p => p.waiters
  | none => []

/-- A lane's state changed. -/
def State.setLaneSt (s : State) (id part : Nat) (st : LaneSt) : State := match s.op? id with
  | some o => s.setOp id (o.setLane part { o.lane part with st })
  | none => s

/-- PROMOTE_DONE (R147): once the entries' drain sets are acknowledged the core removes them and replies; the home clears the
mark and performs what waits. -/
def execPromoteDone (pid : Nat) (s : State) : Out :=
  .next (match s.promo? pid with
    | none => s
    | some p =>
      let es := (s.core p.core).log.filter fun e => e.for_ p
      if !p.acked || !es.all fun e => s.allAcked e.drain then s
      else
        let ls := p.waiters
        let s := s.updCore p.core fun c => { c with log := c.log.filter fun e => !e.for_ p }
        let s := { s with promos := Map.erase s.promos pid }
        let s := match s.hline p.key with
          | some h => s.setHline p.key (some { h with mark := none })
          | none => { s with portMarks := Map.set s.portMarks none p.key none }
        let s := ls.foldl (fun s l => s.setLaneSt l.1 l.2 .arrived) s
        ls.foldl (fun s l => s.serveLane l.1 l.2) s)

/-! ## Page answers (R423 to R428, R430) -/

/-- Threads of a warp that are parked for a group, or that wait at a header or `meet` for it. -/
def Warp.parkedFor (w : Warp) (vf stage g : Nat) : Mask := w.lanes fun t => match t.st with
  | .parked p => p.group == some (vf, stage, g)
  | _ => false
def Warp.waitsFor (w : Warp) (vf stage g : Nat) : Mask := w.lanes fun t => match t.st with
  | .waitPage v st i _ => v = vf && st = stage && i = g
  | _ => false

/-- What a thread parked with, and the word's address that it waits for. -/
def Thread.kept (t : Thread) : Parked := match t.st with
  | .parked p => p
  | _ => ⟨0, [], 0, 0, none, 0, 0, []⟩
def Thread.pageVa (t : Thread) : Nat := match t.st with
  | .waitPage _ _ _ va => va
  | .waitHtu va => va
  | _ => 0

/-- Success: parked threads issue their instruction again at their recorded addresses; others fetch again (R424). Those that stand at a header
form one group with the threads that run there (R31). -/
def Warp.pageOk (w : Warp) (vf stage g age : Nat) : Warp :=
  let p := w.parkedFor vf stage g
  let m := w.waitsFor vf stage g
  if p ||| m = 0 then w
  else
    let w := w.updThrs p fun l t => { t with st := w.awake l, age, replay := some t.kept }
    (w.updThrs m fun l t => { t with st := w.awake l, age }).settle age

/-- A group outstanding. -/
def State.outstanding (s : State) (vf stage g : Nat) : Bool := (s.outGroups vf stage).any fun x => x.index = g

/-- An answer ignored (R423, R462). -/
def State.badAnswer (s : State) (vf stage g status : Nat) : State :=
  s.log 0x0601 srcHub [(24, 1, stage), (25, 1, vf), (26, 2, g), (28, 1, status)]

/-- A group leaves the outstanding ones. -/
def State.closeGroup (s : State) (vf stage g : Nat) : State :=
  { s with groups := s.groups.filter fun x => !(x.vf = vf && x.stage = stage && x.index = g) }

/-- Held store lanes of a group changed by `f`. -/
def State.mapPaged (s : State) (vf stage g : Nat) (f : Lane → Lane) : State :=
  { s with ops := s.ops.map fun q =>
      (q.1, { q.2 with lanes := q.2.lanes.map fun l => (l.1, if l.2.st == .paged vf stage g then f l.2 else l.2) }) }

/-- Engine transfers that wait for a group. -/
def State.pagedXfers (s : State) (vf stage g : Nat) : List (Nat × Nat) :=
  s.engs.flatMap fun q => ((List.range q.2.xfers.length).filter fun i => (q.2.xfer i).paged == some (vf, stage, g)).map fun i => (q.1, i)

/-- A saved block's warps changed (R430). -/
def SavedBlock.mapWarps (b : SavedBlock) (f : Warp → Warp) : SavedBlock := { b with warps := b.warps.map fun p => (p.1, f p.2) }

/-- A change of every warp, resident or saved. -/
def State.mapWarps (s : State) (f : Warp → Warp) : State :=
  { s with warps := s.warps.map fun p => (p.1, f p.2), saved := s.saved.map fun p => (p.1, p.2.mapWarps f) }

/-- A transfer held for a page request may be made again. -/
def State.freeXfer (s : State) (x : Nat × Nat) : State := match s.eng? x.1 with
  | some e => s.setEng x.1 { e with xfers := e.xfers.set x.2 { e.xfer x.2 with paged := none } }
  | none => s

/-- Every fault of a group is retried (R424). -/
def State.pageOk (s : State) (vf stage group : Nat) : State :=
  let s := (s.closeGroup vf stage group).mapWarps fun w => w.pageOk vf stage group s.stamp
  let s := s.mapPaged vf stage group fun l => { l with st := .arrived, waited := true }
  ((s.pagedXfers vf stage group).foldl State.freeXfer s).bump

/-- PRSP_SUCCESS (R423, R424). -/
def execPrspSuccess (vf stage group : Nat) (s : State) : Out :=
  .next (if s.outstanding vf stage group then s.pageOk vf stage group else s.badAnswer vf stage group 0)

/-- Trap code of a failed answer. -/
def pageCode (stage : Nat) : Nat := if stage = 1 then 0x0206 else 0x0207

/-- The trap of threads parked at one instruction (R425, R398): `m` stands at one PC. -/
def Warp.parkedTrap (w : Warp) (m : Mask) (stage g : Nat) : TrapInfo :=
  let t := w.thr (lowest m)
  let ws := match t.cl with
    | some c => (c.word t.pc, c.word (t.pc + 4))
    | none => (0, 0)
  let op := opField ws.1
  let width := bitsOf ws.2.toNat 19 16
  let writes := op = 2 || op = 4
  { code := BitVec.ofNat 16 (pageCode stage), deferF := false, engineF := false, fetchF := false, two := true, imm := 0, pc := t.pc,
    npc := t.pc, iw0 := ws.1, iw1 := ws.2, lanes := m, group := m, addr := t.kept.addr, elem := t.kept.elem,
    info := BitVec.ofNat 32 (op + width * 256 + bitsOf ws.2.toNat 15 13 * 4096 + b2n writes * 32768 + g * 65536), orig := 0,
    recs := (lanesOf m).map fun l =>
      let p := (w.thr l).kept
      (l, ⟨p.addr, if writes then p.data else [], if writes then p.bnd else 0, BitVec.ofNat 8 (pageCode stage), BitVec.ofNat 8 width⟩) }

/-- The trap of threads at one header, with FETCH, or at one `meet` (R425, R398). -/
def Warp.waitTrap (w : Warp) (m : Mask) (stage : Nat) : TrapInfo :=
  let t := w.thr (lowest m)
  let iw0 := match t.cl with
    | some c => c.word t.pc
    | none => 0
  { code := BitVec.ofNat 16 (pageCode stage), deferF := false, engineF := false, fetchF := t.cl.all fun c => c.n = 0, two := false, imm := 0, pc := t.pc,
    npc := t.pc, iw0, iw1 := 0, lanes := m, group := m, addr := BitVec.ofNat 64 t.pageVa, elem := 0, info := 0, orig := 0, recs := [] }

/-- Threads of a mask by PC: one set for each instruction. -/
def Warp.byPc (w : Warp) (m : Mask) : List Mask :=
  (((lanesOf m).map fun l => (w.thr l).pc).eraseDups).map fun pc => m &&& w.lanes fun t => t.pc == pc

/-- The traps of a warp that a failed group causes. -/
def Warp.pageTraps (w : Warp) (vf stage g : Nat) : List TrapInfo :=
  (w.byPc (w.parkedFor vf stage g)).map (fun m => w.parkedTrap m stage g) ++ (w.byPc (w.waitsFor vf stage g)).map fun m => w.waitTrap m stage

/-- A trap of threads that wait, of a pair by its leading warp (R338): a double trap for trapped ones (R393), else it is taken or queued (R387). -/
def State.trapWaiting (s : State) (slot : Nat) (t : TrapInfo) : State :=
  if !(s.warp slot).live || !(s.warp slot).role.counts then s
  else if (s.warp slot).inTrap && t.group &&& (s.warp slot).trapped != 0 then s.unhandled slot t 4
  else s.queueTrap slot t

/-- The word at a header, for IW0 of a fetch fault, when it can be read (R389). -/
def State.headIw0 (s : State) (slot : Nat) (t : TrapInfo) : Word := match s.fetchWord slot t.pc.toNat with
  | .ok _ w => w
  | _ => 0

/-- What a held write of a lane has left in the L1 of its core leaves it, when the write fails (R108). -/
def State.dropHeld (s : State) (vf stage g : Nat) : State :=
  s.ops.foldl (fun s q => q.2.lanes.foldl (fun s l =>
    if l.2.st == .paged vf stage g then s.setL1 q.2.core q.2.vf q.2.asid l.2.addr.toNat none else s) s) s

/-- A failure of a transfer: at the address whose walk failed. -/
def State.failXfer (stage : Nat) (s : State) (x : Nat × Nat) : State := match s.eng? x.1 with
  | none => s
  | some e =>
    let e := { e with xfers := e.xfers.set x.2 { e.xfer x.2 with paged := none } }
    let va := match s.tryXfer e x.2 with
      | .walk _ va _ => va
      | _ => ((e.xfer x.2).pieces.headD ⟨0, 0, 0, none, false⟩).src
    s.engFault x.1 e x.2 (pageCode stage) va

/-- A lane held for a group. -/
def Lane.heldFor (l : Lane) (vf stage g : Nat) : Bool := l.st == .paged vf stage g

/-- Frame operations with a lane of the group end in a fault at once (R388, R391). -/
def State.failFrames (s : State) (vf stage g : Nat) : State :=
  (s.ops.filter fun q => q.2.kind == .frameSt || q.2.kind == .frameLd).foldl (fun s q =>
    match (q.2.lanes.filter fun l => l.2.heldFor vf stage g) with
    | l :: _ => s.faultLane q.2 q.1 l.1 (stageCause stage)
    | [] => s) s

/-- A saved warp's threads wait for the trap that follows when its block resumes (R430). -/
def Warp.queueTraps (w : Warp) (ts : List TrapInfo) : Warp :=
  ts.foldl (fun w t => { w.updThrs t.group (fun _ th => { th with st := .trapWait }) with trapQueue := w.trapQueue ++ [t] }) w

/-- The traps of every resident warp that a failed group causes. -/
def State.pageTraps (s : State) (vf stage g : Nat) : List (Nat × TrapInfo) :=
  s.warps.flatMap fun p => (p.2.pageTraps vf stage g).map fun t => (p.1, if t.fetchF then { t with iw0 := s.headIw0 p.1 t } else t)

/-- Every fault of a group fails (R425, R428). -/
def State.pageFail (s : State) (vf stage g : Nat) : State :=
  let s := (s.closeGroup vf stage g).failFrames vf stage g
  let s := (s.dropHeld vf stage g).mapPaged vf stage g fun l => { l with st := .fault (BitVec.ofNat 8 (pageCode stage)), res := [BitVec.ofNat 32 g] }
  let s := (s.pagedXfers vf stage g).foldl (State.failXfer stage) s
  let ts := s.pageTraps vf stage g
  let s : State := { s with saved := s.saved.map fun p => (p.1, p.2.mapWarps fun w => w.queueTraps (w.pageTraps vf stage g)) }
  (ts.foldl (fun s x => s.trapWaiting x.1 x.2) s).colAdvance 4

/-! ## Faults that wait for a group (R420) -/

/-- Threads of a warp for which a fault waits at its HTU. -/
def Warp.htuWaits (w : Warp) (x : HtuWait) : Mask :=
  if w.uid = x.uid then x.threads &&& w.lanes fun t => match t.st with
    | .parked p => p.group == none && (p.cause = 6 || p.cause = 7)
    | .waitHtu _ => true
    | _ => false
  else 0

/-- The fault of a warp's threads belongs to a group from now on. -/
def Warp.htuGroup (w : Warp) (x : HtuWait) (g : Nat) : Warp :=
  w.updThrs (w.htuWaits x) fun _ t => { t with st := match t.st with
    | .parked p => .parked { p with group := some (x.vf, x.stage, g) }
    | .waitHtu va => .waitPage x.vf x.stage g va
    | st => st }

/-- The traps of threads whose fault is answered as a failure while it waits, its queue no longer enabled. -/
def Warp.htuTraps (w : Warp) (x : HtuWait) : List TrapInfo :=
  let m := w.htuWaits x
  let parked := m &&& w.lanes fun t => match t.st with
    | .parked _ => true
    | _ => false
  (w.byPc parked).map (fun m => w.parkedTrap m x.stage 0) ++ (w.byPc (m &&& ~~~parked)).map fun m => w.waitTrap m x.stage

/-- A fault that waits at its HTU tries for a group (R420), `rest` being the others; none while it must wait on. One whose warp is gone is
dropped. -/
def State.htuOne (s : State) (x : HtuWait) (rest : List HtuWait) : Option State :=
  let t : State := { s with htu := rest }
  if (s.warps.all fun p => p.2.htuWaits x == 0) && s.saved.all (fun p => p.2.warps.all fun w => w.2.htuWaits x == 0) then some t
  else match t.pageFault ⟨x.stage, x.level, x.cause, x.gpa, x.access.testBit 6⟩ x.access x.vf x.asid x.va with
  | .group t g => some (t.mapWarps fun w => w.htuGroup x g)
  | .full => none
  | .failed =>
    let ts := t.warps.flatMap fun p => (p.2.htuTraps x).map fun i => (p.1, if i.fetchF then { i with iw0 := t.headIw0 p.1 i } else i)
    let t : State := { t with saved := t.saved.map fun p => (p.1, p.2.mapWarps fun w => w.queueTraps (w.htuTraps x)) }
    some (ts.foldl (fun s x => s.trapWaiting x.1 x.2) t)

/-- The faults that wait at their HTU, oldest first; each tries the queue of its own function and stage (R420). -/
def State.htuFrom (s : State) : List HtuWait → List HtuWait → State
  | _, [] => s
  | seen, x :: t => match s.htuOne x (seen ++ t) with
    | some s => s
    | none => s.htuFrom (seen ++ [x]) t

/-- The oldest fault that waits at its HTU and need not wait on goes on (R420). -/
def State.htuTry (s : State) : State := s.htuFrom [] s.htu

/-- PRSP_FAILURE (R423, R425, R428). -/
def execPrspFailure (vf stage group : Nat) (s : State) : Out :=
  .next (if s.outstanding vf stage group then s.pageFail vf stage group else s.badAnswer vf stage group 1)

/-! ## Engine operations (R152, R154) -/

/-- ENGINE_START (R152). -/
def execEngineStart (op : Nat) (s : State) : Out :=
  .next (match s.eng? op with
    | none => s
    | some e =>
      if e.st != .waiting || !s.engReady e then s
      else
        let e := { e with sentAt := s.time }
        match e.kind with
        | .ldb sh _ word => s.setEng op (e.beginLdb sh word)
        | .cpyTIn => s.setEng op e.beginRead
        | .cpyTOut => s.setEng op e.beginRead
        | .launch => s.setEng op e.beginRead
        | .col _ _ _ => s.colArrive op e
        | _ => s.setEng op e.beginCopy)

/-- Kinds that end by ENGINE_OPERATION_COMPLETE: the copies. -/
def EngKind.copies : EngKind → Bool
  | .ldb _ _ _ => false
  | .col _ _ _ => false
  | .launch => false
  | _ => true

/-- ENGINE_OPERATION_COMPLETE (R154, R289). -/
def execEngineOperationComplete (op : Nat) (s : State) : Out :=
  .next (match s.eng? op with
    | none => s
    | some e => if e.kind.copies && (e.fault.isSome || e.allDone) then s.endEng op e else s)

end Sys2Proof.Machine
end

