-- ==== Sys2Proof/Machine/Queue.lean ====
section
/-! DEFINITION. Launch queues and launches: queue registers (R322), slots (R323, R324), headers and their checks (R325 to R327,
R434), wait events (R329), gang starts (R343), device launches (R312), range invalidation (R121, R122), pre-emption (R340,
R341, R376) and aborts by request (R451). -/

namespace Sys2Proof.Machine

/-! ## Queue registers (R322, R377) -/

def qkey (cp q : Nat) : Nat := cp * 64 + q
def State.queue (s : State) (k : Nat) : Queue := Map.get s.queues Queue.reset k
def State.setQueue (s : State) (k : Nat) (q : Queue) : State := { s with queues := Map.set s.queues Queue.reset k q }

def Queue.en (q : Queue) : Bool := q.ctl.getLsbD 15
def Queue.err (q : Queue) : Bool := q.ctl.getLsbD 14
def Queue.owner (q : Queue) : Nat := bitsOf q.ctl.toNat 13 8
def Queue.size (q : Queue) : Nat := 2 ^ (q.ctl.toNat % 32)
def Queue.full (q : Queue) : Bool := q.size ≤ q.used

/-- A function's window reaches a queue's registers: the physical function's, or the owner's (R377). -/
def Queue.reach (q : Queue) (vf : Nat) : Bool := vf = 0 || q.owner = vf

/-- Offset of a register of a queue in the hub register window. -/
def qoff (cp q r : Nat) : Nat := 0x40000 + 0x1000 * cp + 0x40 * q + r

/-- QRSV (R322): a read reserves the next free slot. -/
def execQrsv (vf cp q : Nat) (s : State) : Out :=
  .next (
    let k := qkey cp q
    let x := s.queue k
    let off := qoff cp q 0x10
    if 4 ≤ cp || 64 ≤ q then s
    else if !x.reach vf then s.send (.hubRead vf off 0)
    else if x.full then s.send (.hubRead vf off 0xFFFFFFFF)
    else (s.setQueue k { x with rsv := x.rsv + 1, used := x.used + 1 }).send (.hubRead vf off (x.rsv.setWidth 64)))

/-- QDB (R322): any write wakes the command processor. -/
def execQdb (vf cp q : Nat) (s : State) : Out :=
  .next (
    let k := qkey cp q
    let x := s.queue k
    if 4 ≤ cp || 64 ≤ q || !x.reach vf then s else s.setQueue k { x with rung := true })

/-- The value of QCTL after a write: VF only from the physical function, ERR cleared by 1, LOG2 kept while EN is set. -/
def qctlNext (old val : Word) (phys : Bool) : Word :=
  let o := old.toNat
  let v := val.toNat
  BitVec.ofNat 32 ((if o.testBit 15 then bitsOf o 4 0 else bitsOf v 4 0) + (if phys then bitsOf v 13 8 else bitsOf o 13 8) * 256
    + b2n (o.testBit 14 && !v.testBit 14) * 2 ^ 14 + b2n (v.testBit 15) * 2 ^ 15)

/-- EN is set while LOG2 lies outside its limits. -/
def badLog (v : Word) (lo hi : Nat) : Bool := v.getLsbD 15 && (v.toNat % 32 < lo || hi < v.toNat % 32)

/-- QCTL_WRITE (R322, R324, R377). -/
def execQctlWrite (vf cp q : Nat) (val : Word) (s : State) : Out :=
  .next (
    let k := qkey cp q
    let x := s.queue k
    let new := qctlNext x.ctl val (vf = 0)
    if 4 ≤ cp || 64 ≤ q || !x.reach vf || badLog new 4 16 then s
    else s.setQueue k { x with ctl := new, halted := x.halted && new.getLsbD 15 })

/-! ## Slots (R323, R324) -/

/-- Address of slot HEAD. -/
def Queue.slotPa (q : Queue) : Nat := bitsOf q.base.toNat 51 12 * 4096 + 32 * (q.head.toNat % q.size)

/-- A queue may take its next entry: its command processor and the port to its ring are ready (R383), it is enabled, woken and idle. -/
def State.mayTake (s : State) (cp k : Nat) : Bool :=
  let q := s.queue k
  s.hub.ready.getLsbD (32 + cp) && q.en && !q.err && !q.halted && q.rung && q.busy.isNone && !s.portClosed q.slotPa
    && !s.invs.any fun i => i.queue = k

/-- The bytes of slot HEAD as a read at `sys` scope finds them (R323): what caches hold of them has been written back. -/
def State.slotBytes (s : State) (k : Nat) : List Byte := (s.flushPa (s.queue k).slotPa).peeks (s.queue k).slotPa 32

/-- A read of slot HEAD faults (R327). -/
def State.slotFaults (s : State) (k : Nat) : Bool :=
  let pa := (s.queue k).slotPa
  s.dead pa || s.peerLost pa || (s.flushPa pa).paPoison pa

/-- A field of a slot or header. -/
def field (bs : List Byte) (off n : Nat) : Nat := natOf ((bs.drop off).take n)

/-- The slot is taken: TYPE := 0 and HEAD advances. -/
def State.takeSlot (s : State) (k : Nat) : State :=
  let q := s.queue k
  (((s.flushPa q.slotPa).hubPokes q.slotPa [0, 0]).moved q.owner (unitOf q.slotPa) 32).setQueue k { q with head := q.head + 1, used := q.used - 1 }

/-- A launch slot is well formed. -/
def slotOk (bs : List Byte) : Bool :=
  field bs 0 2 = 1 && field bs 4 1 < 64 && field bs 5 3 = 0 && field bs 16 16 = 0 && field bs 8 8 % 128 = 0 && field bs 8 8 < 2 ^ 52

/-- A queue halts (R324): ERR, and QERR of its owner. Its doorbell stays rung: entries published before start once software has enabled
the queue again (log 78, DESIGN CHOICE). -/
def State.haltQueue (s : State) (k : Nat) : State :=
  let q := s.queue k
  (s.setQueue k { q with ctl := q.ctl ||| 0x4000#32, halted := true }).raiseEvent q.owner 1

/-- A launch before its header is read. -/
def newLaunch (queue : Nat) (slot : BitVec 16) (vf asid : Nat) (hdrVa : DWord) (hdr : List Byte) (parent : Option Nat) : Launch :=
  { st := .header, queue, slotIdx := slot, vf, asid, hdrVa, hdr, parent, code := 0, replay := 0, nextCl := 0, doneCl := 0,
    readyAt := 0, placedAt := 0, started := false, wset := [], waypoint := false, launched := false, colled := false,
    aborted := false, lateFault := false, rolling := none }

/-- LAUNCH_SLOT (R323, R324): an entry of a `launch` instruction, or the slot in memory. A reserved slot that cannot be read is a launch
rejected with code 0x0008, whose signal event nothing names (R327; log 78, DEDUCED). -/
def execLaunchSlot (cp q : Nat) (s : State) : Out :=
  .next (
    let k := qkey cp q
    let x := s.queue k
    if 4 ≤ cp || 64 ≤ q || !s.mayTake cp k then s
    else match x.inner.find? fun e => e.1 = x.head.toNat with
      | some (_, lid) =>
        let s := s.setQueue k { x with head := x.head + 1, used := x.used - 1, busy := some lid, inner := x.inner.filter fun e => e.1 != x.head.toNat }
        s.updLaunch lid fun l => { l with slotIdx := x.head }
      | none =>
        let bs := s.slotBytes k
        let ty := field bs 0 2
        if s.slotFaults k then (if x.used = 0 then s else s.takeSlot k)
        else if ty = 0 || ty = 2 then s
        else if !slotOk bs then (s.takeSlot k).haltQueue k
        else
          let (lid, s) := s.fresh
          let s := s.takeSlot k
          let s := s.setQueue k { s.queue k with busy := some lid }
          s.setLaunch lid (newLaunch k x.head (field bs 4 1) (field bs 2 2) (BitVec.ofNat 64 (field bs 8 8)) [] none))

/-! ## Checks of a header (R327) -/

/-- Every limit of R326, for code 0x0001. -/
def Launch.limits (l : Launch) : Bool :=
  bitsOf (l.f 0 8) 51 0 % 128 = 0 && bitsOf (l.f 0 8) 63 60 = 0 && l.pltVa % 4096 = 0 && bitsOf (l.f 8 8) 63 58 = 0
    && l.tvec % 4 = 0 && l.gspace ≤ 65536 && bitsOf (l.f 0x10 8) 63 59 = 0 && l.f 0x18 8 % 8 = 0 && l.f 0x18 8 < 2 ^ 52
    && (l.tick = 0 || l.gang) && (!l.gang || l.cor) && l.sigVa % 8 = 0 && l.sigVa < 2 ^ 52
    && (List.range 4).all (fun i => l.waitVa i % 8 = 0 && l.waitVa i < 2 ^ 52) && bitsOf (l.f 0x50 4) 15 12 = 0
    && 1 ≤ l.extent 3 && 1 ≤ l.extent 4 && 1 ≤ l.extent 5 && l.f 0x70 4 ≤ 327680 && 1 ≤ l.threadsF && l.threadsF ≤ 4096
    && 1 ≤ l.blocksF && l.blocksF ≤ 8 && (List.range 6).all fun i => l.width i ≤ 63

/-- The work-identifier conditions of R28, for code 0x0002. -/
def Launch.widOk (l : Launch) : Bool :=
  let e := fun n => if n = 1 then l.warpsF else if n = 2 then l.blocksF else l.extent n
  l.width 0 = 5 && ((List.range 6).map l.width).sum ≤ 64 && [1, 2, 3, 4, 5].all (fun n => 1 ≤ e n && e n ≤ 2 ^ l.width n)
    && l.blocksF * l.threadsF ≤ 16384

/-- Slot, header, queue and function agree, for code 0x0003 (R327, R375). -/
def State.spaceOk (s : State) (l : Launch) : Bool :=
  l.asid = l.asidF && l.vf = l.vfF && (l.parent.isSome || (s.queue l.queue).owner = l.vf) && (s.func l.vf).testBit 31
    && (s.part (s.partOf l.vf)).testBit 31

/-- Doublewords of a list of bytes. -/
def dwordsOf : Nat → List Byte → List DWord
  | 0, _ => []
  | n + 1, bs => BitVec.ofNat 64 (natOf (bs.take 8)) :: dwordsOf n (bs.drop 8)

/-- What came of a launch's placement table (R112). -/
inductive Table where
  | ok (s : State)
  | hold
  | bad (code : Nat)

/-- The table of a launch is loaded, kept, or awaited (R112, R113): a launch that waits for its events counts as running (log 72, DESIGN
CHOICE). -/
def State.loadTable (s : State) (lid : Nat) (l : Launch) : Table :=
  let key := spaceKey l.vf l.asid
  let va := BitVec.ofNat 64 l.pltVa
  if (Map.get s.plts [] key).head? = some va then .ok s
  else if s.launches.any fun p => p.1 ≠ lid && p.2.vf = l.vf && p.2.asid = l.asid && (p.2.st == .events || p.2.st == .running) then .hold
  else if s.rawClosed l.vf l.asid l.pltVa false then .hold
  else match s.cpReadRaw l.vf l.asid l.pltVa 512 with
    | none => .bad 8
    | some (s, bs) =>
      let t := dwordsOf 512 bs
      if tableBad s.dies t then .bad 5 else .ok { s with plts := Map.set s.plts [] key (va :: t) }

/-- A range lies in valid entries of the table, none of them POOL. -/
def State.covered (s : State) (vf asid va stop : Nat) : Nat → Bool
  | 0 => false
  | n + 1 =>
    if stop ≤ va then true
    else match s.region vf asid va with
      | some r => r.mode != .pool && s.covered vf asid (r.base + 2 ^ r.sizeLog) stop n
      | none => false

/-- The write-set list from an address on, at most `n` entries (R434): a code, or its ranges; code 0 where its read has to wait (R383). -/
def State.readWset (s : State) (l : Launch) (va : Nat) : Nat → State × (Except Nat (List (Nat × Nat)))
  | 0 => (s, .error 0x0B)
  | n + 1 =>
    if s.cpClosed l.vf l.asid va .read || s.cpClosed l.vf l.asid (va + 8) .read then (s, .error 0)
    else match s.cpRead l.vf l.asid va 2 with
    | none => (s, .error 8)
    | some (s, bs) =>
      let a := field bs 0 8
      let len := field bs 8 8
      if len = 0 then (s, .ok [])
      else if n = 0 || 2 ^ 52 ≤ a || a % 4096 ≠ 0 || len % 4096 ≠ 0 || !s.covered l.vf l.asid a (a + len) 257 then (s, .error 0x0B)
      else match s.readWset l (va + 16) n with
        | (s, .ok r) => (s, .ok ((a, len) :: r))
        | r => r

/-- A launch fits on an idle device (R55, R332), for code 0x0006. -/
def State.fitsIdle (s : State) (lid : Nat) (l : Launch) : Bool :=
  let i := State.setLaunch { s with warps := [], blocks := [], clusters := [], cores := [], saved := [], engs := [] } lid l
  if l.cor then (i.placeAll lid l (l.grid - l.nextCl)).2 else (firstSome (i.placeCluster l lid l.nextCl) i.groupOrder).isSome

/-! ## Ready (R329, R331, R435) -/

/-- A launch is rejected, or completes otherwise, with a code. -/
def State.reject (s : State) (lid code : Nat) : State := (s.complete lid code).dispatch

/-- A line lies in the write set of a launch (R434). -/
def Launch.writes (l : Launch) (key : Nat) : Bool :=
  keyVf key = l.vf && keyAsid key = l.asid && l.wset.any fun r => r.1 ≤ keyVa key && keyVa key < r.1 + r.2

/-- The homes mark the granules of a launch's write set (R435): what was written before stands in memory from then on. -/
def State.markSet (s : State) (lid : Nat) : State := match s.launch? lid with
  | none => s
  | some l => (s.home.keys.filter l.writes).foldl State.writeBack s

/-- A launch becomes ready: its waypoint stands, and the dispatcher considers it. -/
def State.makeReady (s : State) (lid : Nat) : State :=
  ((s.markSet lid).updLaunch lid fun l => { l with st := .running, readyAt := s.stamp, started := false, waypoint := l.wsetVa != 0 }).bump.dispatch

/-- A launch waits for no event. -/
def Launch.noWaits (l : Launch) : Bool := (List.range 4).all fun i => l.waitVa i = 0

/-- The checks after those of the header alone, in their order: table, write set, room, events. -/
def State.checkTable (s : State) (lid : Nat) (l : Launch) : State :=
  match s.loadTable lid l with
  | .hold => s.setLaunch lid { l with st := .table }
  | .bad code => s.reject lid code
  | .ok s =>
    match (if l.wsetVa = 0 then (s, .ok []) else s.readWset l l.wsetVa 257) with
    | (s, .error code) => if code = 0 then s.setLaunch lid { l with st := .table } else s.reject lid code
    | (s, .ok wset) =>
      if !s.fitsIdle lid l then s.reject lid 6
      else
        let s := s.setLaunch lid { l with wset, st := .events }
        if l.noWaits then s.makeReady lid else s

/-- The checks of a header, in the order of R327; a gang launch waits for TIME first (R383). -/
def State.checkHeader (s : State) (lid : Nat) (l : Launch) : State :=
  if !l.limits then s.reject lid 1
  else if !l.widOk then s.reject lid 2
  else if !s.spaceOk l then s.reject lid 3
  else if s.dies &&& l.diesF &&& s.dmask l.vf = 0 then s.reject lid 4
  else if l.gang && !s.hub.ready.getLsbD 6 then s.setLaunch lid l
  else s.checkTable lid l

/-- The header of a host slot is read through its home, or without placement (R325). -/
def State.readHeader (s : State) (l : Launch) : Option (State × List Byte) :=
  if s.plt l.vf l.asid = [] then s.cpReadRaw l.vf l.asid l.hdrVa.toNat 16
  else s.cpRead l.vf l.asid l.hdrVa.toNat 16

/-- A launch stands at the head of its queue. -/
def State.atHead (s : State) (lid : Nat) (l : Launch) : Bool := (s.queue l.queue).busy == some lid

/-- LAUNCH_HEADER_READ (R325, R327). -/
def execLaunchHeaderRead (launch : Nat) (s : State) : Out :=
  .next (match s.launch? launch with
    | none => s
    | some l =>
      if !(l.st == .header || l.st == .table) || !s.atHead launch l then s
      else if l.hdr != [] then s.checkHeader launch l
      else if s.cpClosed l.vf l.asid l.hdrVa.toNat .read then s
      else match s.readHeader l with
        | none => s.reject launch 8
        | some (s, bs) => (s.setLaunch launch { l with hdr := bs }).checkHeader launch { l with hdr := bs })

/-- What one wait event says (R329). -/
inductive Wait where
  | met | unmet
  | bad (code : Nat)

/-- A used event is read and judged. -/
def State.waitEvent (s : State) (l : Launch) (i : Nat) : State × Wait :=
  if l.waitVa i = 0 then (s, .met)
  else if s.cpClosed l.vf l.asid (l.waitVa i) .read then (s, .unmet)
  else match s.cpRead l.vf l.asid (l.waitVa i) 1 with
    | none => (s, .bad 8)
    | some (s, bs) =>
      if (field bs 0 4 + 2 ^ 32 - l.waitVal i) % 2 ^ 32 < 2 ^ 31 then (s, if field bs 4 4 = 0 then .met else .bad 7) else (s, .unmet)

/-- The events of a list: the first that rejects, else whether every one is met. A met event rejects by its status although another is
not met (R329). -/
def State.waitEvents (s : State) (l : Launch) : List Nat → State × Wait
  | [] => (s, .met)
  | i :: t => match s.waitEvent l i with
    | (s, .met) => s.waitEvents l t
    | (s, .unmet) => match s.waitEvents l t with
      | (s, .met) => (s, .unmet)
      | r => r
    | r => r

/-- WAIT_EVENT_CHECK (R329); a check that decides nothing leaves nothing behind (log 82). -/
def execWaitEventCheck (launch : Nat) (s : State) : Out :=
  .next (match s.launch? launch with
    | none => s
    | some l =>
      if l.st != .events then s
      else match s.waitEvents l [0, 1, 2, 3] with
        | (s, .met) => s.makeReady launch
        | (_, .unmet) => s
        | (s, .bad code) => s.reject launch code)

/-- Every cluster of a launch is placed. -/
def State.allPlaced (s : State) (lid : Nat) (l : Launch) : Bool := l.grid ≤ l.nextCl && s.savedClusters lid = []

/-- GANG_START (R343): a late start is logged; without TIME it waits (R460). -/
def execGangStart (launch : Nat) (s : State) : Out :=
  .next (match s.launch? launch with
    | none => s
    | some l =>
      if l.st != .running || !l.gang || l.started || s.time < l.tick || !s.hub.ready.getLsbD 6 || !s.allPlaced launch l then s
      else
        let s := s.setLaunch launch { l with started := true }
        if l.tick < l.placedAt then
          s.log 0x0102 srcHub (launchTag l ++ [(32, 8, l.placedAt - l.tick), (40, 8, l.tick)])
        else s)

/-! ## `launch` (R312) -/

/-- LAUNCH_ENTRY_APPEND (R312, R323): the header's snapshot has come; it is rejected, or appended once the queue has room. -/
def execLaunchEntryAppend (op : Nat) (s : State) : Out :=
  .next (match s.eng? op with
    | none => s
    | some e =>
      if e.kind != .launch then s
      else if e.fault.isSome then s.endEng op e
      else if e.st != .descriptor || !e.xfers.all (fun x => x.done) then s
      else match s.launch? e.launch with
        | none => s
        | some p =>
          let k := p.queue
          let q := s.queue k
          let l := newLaunch k q.rsv p.vf p.asid e.a e.snapshot (some e.launch)
          if l.asidF ≠ p.asid || l.vfF ≠ p.vf then (if s.signalClosed l 3 then s else (s.signal l 3).endEng op e)
          else if q.full then s
          else
            let (lid, s) := s.fresh
            let s := (s.setLaunch lid l).setQueue k { q with rsv := q.rsv + 1, used := q.used + 1, inner := q.inner ++ [(q.rsv.toNat, lid)], rung := true }
            s.endEng op e)

/-! ## Range invalidation (R121, R122) -/

/-- The entry of a slot. -/
def invOf (cp k : Nat) (bs : List Byte) : RangeInv :=
  let start := field bs 8 8
  let len := field bs 16 8
  { cp, queue := k, vf := field bs 4 1, asid := field bs 2 2, stages := BitVec.ofNat 8 (field bs 5 1), start := BitVec.ofNat 64 start,
    len := BitVec.ofNat 64 len, doneVa := BitVec.ofNat 64 (field bs 24 8),
    bad := 64 ≤ field bs 4 1 || 4 ≤ field bs 5 1 || field bs 6 2 ≠ 0 || start % 4096 ≠ 0 || len % 4096 ≠ 0 || len = 0, pending := [] }

/-- Stage 2 alone: START is a guest physical address. -/
def RangeInv.guest (i : RangeInv) : Bool := i.stages = 2

/-- An address lies in the range. -/
def RangeInv.holds (i : RangeInv) (a : Nat) : Bool := i.start.toNat ≤ a && a < i.start.toNat + i.len.toNat

/-- A line's key lies in the range; for a range of guest physical addresses, every line of the function. -/
def RangeInv.line (i : RangeInv) (key : Nat) : Bool := keyVf key = i.vf && (i.guest || (keyAsid key = i.asid && i.holds (keyVa key)))

/-- A cached walk result maps the range in the named stages. -/
def RangeInv.walk (i : RangeInv) (t : TlbEntry) : Bool :=
  t.vf = i.vf && (if i.guest then i.holds (t.gpaPage * 4096) else i.stages != 0 && t.asid = i.asid && i.holds (t.vaPage * 4096))

/-- A line lies in the range, or is a bounded one whose shadow does (R97): its bounds come through the range's translation. -/
def State.invLine (s : State) (i : RangeInv) (key : Nat) (bounded : Bool) : Bool :=
  i.line key || bounded && keyVf key = i.vf && keyAsid key = i.asid &&
    ((s.region (keyVf key) (keyAsid key) (keyVa key)).any fun r => i.holds (r.shadow (keyVa key)))

/-- The same of a cached line. -/
def State.invCLine (s : State) (i : RangeInv) (p : Nat × Option CLine) : Bool := s.invLine i p.1 (p.2.any fun c => c.bounded)

/-- Lines of the range that a home holds, or keeps a mark for. -/
def State.invLines (s : State) (i : RangeInv) : List Nat :=
  ((s.home.filter fun p => s.invLine i p.1 (p.2.any fun h => h.line.bounded)).map Prod.fst) ++ s.portMarks.keys.filter i.line

/-- Step 2 for one line: written back and invalidated; a marked one is promoted first (R146). -/
def State.invHome (s : State) (key : Nat) : State :=
  match s.lineMark key with
  | some c => (s.promote key c).2
  | none => (((s.writeBack key).dropSharers key).setHline key none)

/-- Words of the range that a warp has fetched ahead leave it (R251). -/
def State.invFetched (s : State) (i : RangeInv) (w : Warp) : Warp := match s.launch? w.launch with
  | some l => if l.vf = i.vf && (i.guest || l.asid = i.asid) then { w with fetched := w.fetched.filter fun p => !(i.guest || i.holds (p.1 * 128)) } else w
  | none => w

/-- Steps 2 and 3 (R122). -/
def State.invStep (s : State) (i : RangeInv) : State :=
  let s := (s.invLines i).foldl State.invHome s
  { s with l1 := s.l1.filter fun p => !s.invCLine i p, icache := s.icache.filter fun p => !s.invCLine i p,
           warps := s.warps.map fun p => (p.1, s.invFetched i p.2) }

/-- Accesses of the range that are translated and not yet complete (step 4): reads served that have not returned, and lanes of which one half
has been performed. -/
def State.invPending (s : State) (i : RangeInv) : List Nat :=
  (s.ops.filter fun p => p.2.vf = i.vf && p.2.lanes.any fun l =>
    (((p.2.kind.returns || p.2.kind == .frameLd) && l.2.st == .done) || ((l.2.st == .sent || l.2.st == .arrived) && l.2.halves != 0)) && (i.guest || (p.2.asid = i.asid && i.holds l.2.addr.toNat))).map Prod.fst

/-- RANGE_INVALIDATION_ENTRY (R122): steps 1 to 3. -/
def execRangeInvalidationEntry (cp q : Nat) (s : State) : Out :=
  .next (
    let k := qkey cp q
    let x := s.queue k
    let bs := s.slotBytes k
    if 4 ≤ cp || 64 ≤ q || !s.mayTake cp k || x.inner.any (fun e => e.1 = x.head.toNat) || field bs 0 2 ≠ 2 || s.slotFaults k then s
    else
      let s := s.takeSlot k
      let i := invOf cp k bs
      if i.bad then { s with invs := s.invs ++ [i] }
      else
        let i := { i with pending := s.invPending i }
        let s : State := { s with tlb := s.tlb.filter fun t => !i.walk t, invs := s.invs ++ [i] }
        s.invStep i)

/-- DONE is written (R122); where its address is misaligned, past the range or out of reach, nothing is (log 72, DESIGN CHOICE). Behind a
port that is not usable yet it waits (R383). -/
def State.invDone (s : State) (i : RangeInv) (v : Nat) : State :=
  let past := 2 ^ 52 ≤ i.doneVa.toNat || i.doneVa.toNat % 8 ≠ 0
  let closed := !past && s.cpClosed i.vf i.asid i.doneVa.toNat .write
  let s : State := if closed then s else { s with invs := s.invs.filter fun j => j.queue != i.queue }
  if past || closed then s
  else match (if s.plt i.vf i.asid = [] then s.cpWriteRaw i.vf i.asid i.doneVa.toNat (bytesOf 8 v)
      else s.cpWrite i.vf i.asid i.doneVa.toNat (bytesOf 8 v)) with
    | some s => s
    | none => s

/-- RANGE_INVALIDATION_DONE (R122): steps 2 and 3 for lines that waited for a promotion, then steps 4 and 5. -/
def execRangeInvalidationDone (cp q : Nat) (s : State) : Out :=
  .next (match s.invs.find? fun i => i.queue = qkey cp q with
    | none => s
    | some i =>
      if i.bad then s.invDone i (2 ^ 64 - 1)
      else if (s.invLines i).any fun k => (s.lineMark k).isSome then s.invStep i
      else if i.pending.any fun o => (s.op? o).isSome then s
      else (s.invStep i).invDone i 1)

/-! ## Pre-emption (R340, R341, R376) -/

/-- A warp has come to a clause end, or none of its threads can issue; a trap is neither being entered nor left. -/
def Warp.quiet (w : Warp) : Bool :=
  w.issue = 0 && w.hold == .none && w.lag = [] && (w.lanes fun t => w.mayIssue t && t.cl.isSome) = 0 && match w.trap with
    | none => true
    | some (_, .handling) => true
    | _ => false

/-- A block's operations have completed. -/
def State.blockIdle (s : State) (bid : Nat) : Bool :=
  !(s.ops.any (fun p => p.2.block = bid) || s.engs.any (fun p => p.2.block = bid) || s.mats.any (fun p => p.2.block = bid))
    && (s.blockSlots bid).all fun k => (s.warp k).quiet

/-- The number under which a warp is saved: 128 and more for a trailing one. -/
def Warp.saveIndex (w : Warp) : Nat := match w.role with
  | .trailing _ => 128 + w.index
  | _ => w.index

/-- A warp as it is saved. -/
def Warp.toSave (w : Warp) : Warp := { w with role := .solo, active := false, fetched := [], turn := 0, turnMask := 0, lag := [] }

/-- Rows, windows and banks of core `j` of a block. -/
def inWindows (ws : List (Nat × Nat × Nat)) (row : Nat) : Bool := ws.any fun w => w.2.1 ≤ row && row < w.2.1 + w.2.2

/-- The saved context of a block (R341). -/
def State.contextOf (s : State) (bid : Nat) : SavedBlock :=
  let b := s.block bid
  let ws := (s.blockSlots bid).map fun k => s.warp k
  let per := (List.range b.cores.length).map fun j =>
    let c := s.core (b.cores.getD j 0)
    (j, c, c.windows.filter fun w => w.1 = bid)
  { cluster := b.cluster, warps := ws.map fun w => (w.saveIndex, w.toSave),
    rows := per.map fun p => (p.1, p.2.1.acc.filter (fun a => inWindows p.2.2 (a.1 / 512)), p.2.1.rows.filter fun r => inWindows p.2.2 r.1),
    windows := per.flatMap fun p => p.2.2.map fun w => (p.1, w.2.1, w.2.2),
    banks := per.flatMap fun p => (p.2.1.banks.filter fun k => k.2.owner = some b.launch).map fun k => (p.1, k.1, k.2),
    bytes := b.cores.length * ((Config.contextBytes ws.length b.slice).toNat + 1) }

/-- A block leaves its cores (R341, step 4): slots, windows, promotion-log entries and split. -/
def State.leaveCores (s : State) (bid : Nat) : State :=
  let b := s.block bid
  let slots := s.blockSlots bid
  let uids := slots.map fun k => (s.warp k).uid
  let s := slots.foldl (fun s k => s.setWarp k Warp.empty) s
  let s : State := { s with xq := s.xq.map fun p => (p.1, p.2.filter fun r => !slots.contains r.1) }
  let s := b.cores.foldl (fun s c => s.updCore c fun k =>
    { k with windows := k.windows.filter fun w => w.1 != bid, log := k.log.filter fun e => !uids.contains e.uid }) s
  let s := s.updBlock bid fun b => { b with live := false }
  b.cores.foldl (fun s c => if s.blocks.any (fun p => p.2.live && p.2.cores.contains c) then s
    else s.updCore c fun k => { k with split := 0 }) s

/-- The context of a block written to the save pool of its partition, after what the pool holds (R341, R374): its bytes are the
implementation's (log 77). -/
def State.writeContext (s : State) (vf used bid n : Nat) : State :=
  let pa := bitsOf (s.part (s.partOf vf)) 115 64 + used
  (s.hubPokes pa ((List.range n).map (Config.contextByte bid))).moved vf (unitOf pa) n

/-- The contexts of some blocks written one after the other. -/
def State.writeContexts (s : State) (vf : Nat) : List (Nat × SavedBlock) → Nat → State
  | [], _ => s
  | p :: t, used => (s.writeContext vf used p.1 p.2.bytes).writeContexts vf t (used + p.2.bytes)

/-- A cluster saved (R341, steps 3 and 4). -/
def State.saveCluster (s : State) (vf cid : Nat) : State :=
  let bs := (s.cluster cid).blocks
  let ctx := bs.map fun b => (b, s.contextOf b)
  let s := s.writeContexts vf ctx (s.poolUsed (s.partOf vf))
  let s := bs.foldl State.leaveCores s
  let s : State := { s with saved := ctx.foldl (fun m p => Map.put m p.1 p.2) s.saved }
  (s.updCluster cid fun c => { c with saved := true, preempt := false }).dispatch

/-- Bytes that the contexts of a cluster take. -/
def State.contextSize (s : State) (cid : Nat) : Nat := (((s.cluster cid).blocks.map fun b => (s.contextOf b).bytes)).sum

/-- A launch whose context the save pool cannot hold stays, and its function's slice goes on (R341, R376). -/
def State.extendSlice (s : State) (lid : Nat) (l : Launch) : State :=
  let s := s.updLaunch lid fun l => { l with stays := true }
  { s with slices := Map.set s.slices (0, 0) (s.partOf l.vf) (l.vf, s.time) }

/-- The clusters that leave the cores with a cluster: the whole of a coresident launch (R340). -/
def State.leaveWith (s : State) (lid : Nat) (l : Launch) (cluster : Nat) : List Nat := if l.cor then s.clustersOf lid else [cluster]

/-- The save pool has room for the contexts of some clusters. -/
def State.poolFits (s : State) (vf : Nat) (cs : List Nat) : Bool := s.poolRoom vf (cs.map s.contextSize).sum

/-- PREEMPT_SAVE (R341): a context that the pool cannot hold is not saved; a coresident launch is saved as a whole (R340). -/
def execPreemptSave (cluster : Nat) (s : State) : Out :=
  .next (
    let c := s.cluster cluster
    match s.launch? c.launch with
    | none => s
    | some l =>
      let cs := s.leaveWith c.launch l cluster
      if !c.live || c.saved || !c.preempt || !cs.all (fun k => (s.cluster k).blocks.all s.blockIdle) then s
      else if s.poolFits l.vf cs then cs.foldl (fun s k => s.saveCluster l.vf k) s
      else
        let s := cs.foldl (fun s k => s.updCluster k fun c => { c with preempt := false }) s
        if s.turnFunc (s.partOf l.vf) = some l.vf then s else s.extendSlice c.launch l)

/-- The function after `f` among the ready ones of a partition, round robin (R376). -/
def State.nextFunc (s : State) (part f : Nat) : Nat :=
  let fs := s.readyFuncs part
  match fs.find? (f < ·) with
  | some g => g
  | none => fs.headD f

/-- The PRE launches that a function's slice end takes from the cores, as `askLate` does for those that could not leave then. -/
def State.sliceVictims (s : State) (f : Nat) : List (Nat × Launch) := s.launches.filter fun p => p.2.active && p.2.vf = f && p.2.pre

/-- The save pool can take each context of a launch, or all at once those of a coresident one (R340, R341). -/
def State.contextsFit (s : State) (f : Nat) (p : Nat × Launch) : Bool :=
  if p.2.cor then s.poolFits f (s.mayLeave p) else (s.mayLeave p).all fun c => s.poolFits f [c]

/-- TIME_SLICE_EXPIRY (R376): the slice of a function goes on while a launch of it whose context did not fit runs. -/
def execTimeSliceExpiry (part : Nat) (s : State) : Out :=
  .next (
    let (f, start) := Map.get s.slices (0, 0) part
    let slice := bitsOf (s.func f) 47 32
    if 8 ≤ part then s
    else if (s.readyFuncs part).length < 2 || !(s.readyFuncs part).contains f || slice = 0 || s.time < start + slice * 1000
        || (s.sliceVictims f).any (fun p => p.2.stays) then s.askLate
    else if (s.sliceVictims f).any fun p => !s.contextsFit f p then
      (s.sliceVictims f).foldl (fun s p => if s.contextsFit f p then s else s.extendSlice p.1 p.2) s
    else
      let s := (s.sliceVictims f).foldl (fun s p => s.askLeave (s.mayLeave p)) s
      let s : State := { s with slices := Map.set s.slices (0, 0) part (s.nextFunc part f, s.time) }
      s.dispatch)

/-! ## Ending a launch by request (R451) -/

/-- A lane is on its way. -/
def LaneSt.moving : LaneSt → Bool
  | .sent => true | .walking => true | .arrived => true | .rewalking => true | .promoting _ => true
  | _ => false

/-- An operation of a launch still completes by itself: it is not held by a page request alone. -/
def State.opMoves (s : State) (o : MemOp) : Bool := match o.held with
  | some d => s.allAcked d
  | none => o.lanes.any fun p => p.2.st.moving

/-- The same for an engine operation. -/
def State.engMoves (s : State) (e : EngOp) : Bool :=
  !e.kind.collective && (e.fault.isSome || (if e.st == .waiting then s.engReady e else e.xfers.all (fun x => x.done) || e.xfers.any fun x => !x.done && x.paged.isNone))

/-- A warp has stopped at a clause end, or waits for the answer of a page request (R436, R451). -/
def State.halted (s : State) (slot : Nat) : Bool := (s.warp slot).quiet || match (s.warp slot).hold with
  | .access id => (s.op? id).any fun o => !s.opMoves o
  | _ => false

/-- All threads of a warp are held, waiting, parked or trapped: an abort stops it at once (R451). -/
def Warp.stopped (w : Warp) : Bool := w.lag = [] && (w.lanes fun t => t.st == .running) = 0

/-- The abort in progress goes on (R451): once the warps have stopped and the operations have completed or wait for page
answers, mileposts are cancelled and the launch completes with code 0x000A. -/
def State.abortTry (s : State) : State :=
  match s.hub.abort with
  | none => s
  | some lid =>
    let ops := s.ops.filter fun p => p.2.launch = lid
    let engs := s.engs.filter fun p => p.2.launch = lid
    let held := ops.any (fun p => !s.opMoves p.2) || engs.any fun p => !s.engMoves p.2 && !p.2.kind.collective
    if !(s.slotsOf lid).all (fun k => s.halted k || (s.warp k).stopped) || ops.any (fun p => s.opMoves p.2) || engs.any (fun p => s.engMoves p.2)
        || (s.mats.any (fun p => p.2.launch = lid) && !held) then s
    else
      let ids := engs.map Prod.fst
      let s := s.fab.issued.foldl (fun s i => if ids.contains i.op && !i.asked then s.askCancel i 4 else s) s
      s.abortLaunch lid

/-- LAUNCH_ABORT (R451). -/
def execLaunchAbort (vf : Nat) (val : Word) (s : State) : Out :=
  .next (
    let q := s.queue (qkey (bitsOf val.toNat 9 8) (bitsOf val.toNat 5 0))
    if !val.getLsbD 31 || s.hub.abort.isSome || !q.reach vf then s
    else match q.busy with
      | none => s
      | some lid => match s.launch? lid with
        | none => s
        | some l => if l.st != .running then s else (s.updHub fun h => { h with abort := some lid }).abortTry)

end Sys2Proof.Machine
end

