-- ==== Sys2Proof/Machine/Hub.lean ====
section
/-! DEFINITION. The hub register window: writes under their access codes (R4, R377), partition and function entries (R374,
R375), page-request and event-log control (R420, R444), host events (R385), readiness (R383, R460), apertures (R349, R350) and
the pool ports (R353 to R356, R439, R440). -/

namespace Sys2Proof.Machine

/-! ## Fields -/

/-- A register's value with `bytes` bytes from its byte `n` on replaced. -/
def mergeBytes (old n bytes val : Nat) : Nat :=
  old % 2 ^ (8 * n) + val % 2 ^ (8 * bytes) * 2 ^ (8 * n) + old / 2 ^ (8 * (n + bytes)) * 2 ^ (8 * (n + bytes))

/-- A write to a register at `base` of `width` bytes: none unless it lies within the register (log 79, DESIGN CHOICE). -/
def regMerge (base width off bytes old val : Nat) : Option Nat :=
  if base ≤ off && off + bytes ≤ base + width && 0 < bytes then some (mergeBytes old (off - base) bytes val) else none

/-- A page-aligned physical base in [51:12]. -/
def baseField (v : Nat) : DWord := BitVec.ofNat 64 (bitsOf v 51 12 * 4096)

/-! ## Control registers with rules of their own -/

/-- The value of a ring control register after a write: LOG2 is kept while EN is set (R420, R444). -/
def ringCtl (old val : Word) : Word :=
  let v := val.toNat
  BitVec.ofNat 32 ((if old.getLsbD 15 then bitsOf old.toNat 4 0 else bitsOf v 4 0) + b2n (v.testBit 15) * 2 ^ 15)

/-- A page-request queue that a function's window reaches (R377, R420). -/
def pqReach (vf stage : Nat) : Bool := vf < 64 && (stage = 1 || stage = 2)

/-- PCTL_WRITE (R420). -/
def execPctlWrite (vf stage : Nat) (val : Word) (s : State) : Out :=
  .next (
    let q := s.pq vf stage
    let new := ringCtl q.ctl val
    if !pqReach vf stage || badLog new 4 16 then s else s.setPq vf stage { q with ctl := new })

/-- LCTL_WRITE (R444). -/
def execLctlWrite (val : Word) (s : State) : Out :=
  .next (
    let new := ringCtl s.hub.lctl val
    if badLog new 6 20 then s else s.updHub fun h => { h with lctl := new })

/-- An event bit is set while its condition holds (R385). -/
def State.reraise (s : State) (vf bit : Nat) : State := if s.eventHolds vf bit then s.raiseEvent vf bit else s

/-- A set event bit that a write of 1 clears; it sets again while its condition holds (R385). -/
def State.clearEvent (s : State) (vf bit : Nat) : State :=
  (s.updHub fun h => { h with evst := Map.set h.evst 0 vf (s.evst vf &&& ~~~(1#32 <<< bit)) }).reraise vf bit

/-- EVST_CLEAR (R385). -/
def execEvstClear (vf : Nat) (val : Word) (s : State) : Out :=
  .next (if 64 ≤ vf then s
    else (List.range 7).foldl (fun s i => if val.getLsbD i && (s.evst vf).getLsbD i then s.clearEvent vf i else s) s)

/-- EVMASK_WRITE (R385): clearing a mask bit while its event is set sends a message. -/
def execEvmaskWrite (vf : Nat) (val : Word) (s : State) : Out :=
  .next (if 64 ≤ vf then s
    else
      let old := s.evmask vf
      let new := val &&& 0x7F#32
      let s := s.updHub fun h => { h with evmask := Map.set h.evmask 0x7F vf new }
      (List.range 7).foldl (fun s i => if old.getLsbD i && !new.getLsbD i && (s.evst vf).getLsbD i then s.msix vf i else s) s)

/-! ## Partition and function entries (R374, R375) -/

/-- A function has an enabled queue. -/
def State.queueEnabled (s : State) (f : Nat) : Bool := s.queues.any fun p => p.2.en && p.2.owner = f

/-- Writable bits of a partition entry and of a function entry. -/
def partMask (v : Nat) : Nat := bitsOf v 115 31 * 2 ^ 31 + v % 256
def funcMask (v : Nat) : Nat := bitsOf v 179 128 * 2 ^ 128 + bitsOf v 115 64 * 2 ^ 64 + bitsOf v 63 27 * 2 ^ 27

/-- A partition entry breaks the limits on DMASK (R374). -/
def State.partBad (s : State) (i v : Nat) : Bool :=
  (v % 256 &&& s.dies) != v % 256
    || (v.testBit 31 && (List.range 8).any fun j => j != i && (s.part j).testBit 31 && (s.part j % 256 &&& v % 256) != 0)

/-- PARTITION_ENTRY_WRITE (R374). -/
def execPartitionEntryWrite (i : Nat) (val : BitVec 128) (s : State) : Out :=
  .next (
    let v := partMask val.toNat
    if 8 ≤ i then s
    else if (List.range 64).any fun f => s.partOf f = i && s.queueEnabled f then s
    else if s.partBad i v then s.log 0x0701 srcHub [(24, 1, i), (32, 16, val.toNat)]
    else s.updHub fun h => { h with parts := Map.set h.parts 0 i (BitVec.ofNat 128 v) })

/-- FUNCTION_ENTRY_WRITE (R375). -/
def execFunctionEntryWrite (f : Nat) (val : BitVec 256) (s : State) : Out :=
  .next (if 64 ≤ f || s.queueEnabled f then s
    else s.updHub fun h => { h with funcs := Map.set h.funcs 0 f (BitVec.ofNat 256 (funcMask val.toNat)) })

/-! ## Writes of registers without a row of their own (R4) -/

/-- QBASE: ignored while EN is set (R322). -/
def State.writeQbase (s : State) (vf off bytes val : Nat) : State :=
  let o := off - 0x40000
  let k := qkey (o / 0x1000) (o % 0x1000 / 0x40)
  let q := s.queue k
  match regMerge 0 8 (o % 0x40) bytes q.base.toNat val with
  | some v => if q.reach vf && !q.en then s.setQueue k { q with base := baseField v } else s
  | none => s

/-- Aperture entries: by the physical function alone (R349). -/
def State.writeAperture (s : State) (off bytes val : Nat) : State :=
  let i := (off - 0x50000) / 8
  match regMerge 0 8 (off % 8) bytes (Map.get s.hub.apertures 0 i).toNat val with
  | some v => s.updHub fun h => { h with apertures := Map.set h.apertures 0 i (BitVec.ofNat 64 (bitsOf v 63 38 * 2 ^ 38 + bitsOf v 21 0)) }
  | none => s

/-- A port that a route names: 18 to 30 are stored as 0x1F (R348). -/
def routeField (v : Nat) : BitVec 8 := if v % 32 < 18 then BitVec.ofNat 8 (v % 32) else 0x1F

/-- Fabric registers: FID, FSEQ, routes, COLTO (R348, R458). A new SEQS ends a lone primary's time (R457). -/
def State.writeFabric (s : State) (off bytes val : Nat) : State :=
  if 0x71000 ≤ off && off + bytes ≤ 0x72000 then
    (List.range bytes).foldl (fun s i => s.updFab fun f =>
      { f with frt := Map.set f.frt 0x1F (off - 0x71000 + i) (routeField (val / 2 ^ (8 * i) % 256)) }) s
  else match regMerge 0x70000 4 off bytes s.fab.fid.toNat val with
    | some v => s.updFab fun f =>
        { f with fid := BitVec.ofNat 32 (bitsOf v 27 16 * 65536 + bitsOf v 11 0), seq := { f.seq with alone := false } }
    | none => match regMerge 0x70004 4 off bytes s.fab.fseq.toNat val with
      | some v => s.updFab fun f => { f with fseq := BitVec.ofNat 32 (bitsOf v 11 0) }
      | none => match regMerge 0x68000 4 off bytes s.fab.colto.toNat val with
        | some v => s.updFab fun f => { f with colto := BitVec.ofNat 32 v }
        | none => s

/-- A page-request queue's registers from `base` on: PBASE while EN is clear, PCONS, whose write may make records unread again (R385),
and a PRSP with STATUS 2 or 3, which is ignored and logged (R420, R423). -/
def State.writePq (s : State) (vf stage base off bytes val : Nat) : State :=
  let q := s.pq vf stage
  match regMerge base 8 off bytes q.base.toNat val with
  | some v => if q.ctl.getLsbD 15 then s else s.setPq vf stage { q with base := baseField v }
  | none => match regMerge (base + 0x14) 4 off bytes q.cons.toNat val with
    | some v => (s.setPq vf stage { q with cons := BitVec.ofNat 16 v }).reraise (if stage = 1 then vf else 0) (stage + 1)
    | none => match regMerge (base + 0x18) 8 off bytes 0 val with
      | some v => if 2 ≤ bitsOf v 17 16 then s.badAnswer vf stage (bitsOf v 15 0) (bitsOf v 17 16) else s
      | none => s

/-- The event log's LBASE while EN is clear, LCONS, whose write may make records unread again (R385), LDROP, and DUMPBASE (R444, R452). -/
def State.writeLog (s : State) (off bytes val : Nat) : State :=
  match regMerge 0xC0000 8 off bytes s.hub.lbase.toNat val with
  | some v => if s.hub.lctl.getLsbD 15 then s else s.updHub fun h => { h with lbase := baseField v }
  | none => match regMerge 0xC0014 4 off bytes s.hub.lcons.toNat val with
    | some v => (s.updHub fun h => { h with lcons := BitVec.ofNat 32 v }).reraise 0 4
    | none => match regMerge 0xC0018 4 off bytes 0 val with
      | some v => s.updHub fun h => { h with ldrop := h.ldrop &&& ~~~(BitVec.ofNat 32 v) }
      | none => match regMerge 0xC0100 8 off bytes s.hub.dumpBase.toNat val with
        | some v => s.updHub fun h => { h with dumpBase := BitVec.ofNat 64 (bitsOf v 51 20 * 2 ^ 20) }
        | none => s

/-- A word of the MSI-X table; unmasking a vector with its pending bit set sends the message (R385). -/
def State.writeMsix (s : State) (vf i val : Nat) : State :=
  let s := s.setMsixWord vf i (BitVec.ofNat 32 val)
  let pend := Map.get s.hub.pba 0 vf
  if i % 4 = 3 && !val.testBit 0 && pend.getLsbD (i / 4) then
    (s.updHub fun h => { h with pba := Map.set h.pba 0 vf (pend &&& ~~~(1#32 <<< (i / 4))) }).send (.msix vf (i / 4))
  else s

/-- Words of the MSI-X table that a write covers whole (log 79, DESIGN CHOICE). -/
def State.writeMsixAll (s : State) (vf off bytes val : Nat) : State :=
  if off % 4 = 0 && bytes % 4 = 0 then
    (List.range (bytes / 4)).foldl (fun s i => s.writeMsix vf ((off - 0xD1000) / 4 + i) (val / 2 ^ (32 * i) % 2 ^ 32)) s
  else s

/-- A write to a register (R4, R377): registers whose writes have a row of their own are written by that row, read-only fields
by none. A write of more than 8 bytes, or of two registers, writes none (log 79, DESIGN CHOICE). -/
def State.regWrite (s : State) (vf off bytes v : Nat) : State :=
  let phys := vf = 0
  if 64 ≤ vf || 8 < bytes then s
  else if 0x40000 ≤ off && off < 0x44000 then s.writeQbase vf off bytes v
  else if 0x50000 ≤ off && off < 0x50200 then (if phys then s.writeAperture off bytes v else s)
  else if 0x68000 ≤ off && off < 0x72000 then (if phys then s.writeFabric off bytes v else s)
  else if 0xB0000 ≤ off && off < 0xB1000 then s.writePq vf 1 0xB0000 off bytes v
  else if 0xB1000 ≤ off && off < 0xB2000 then
    (if phys then s.writePq ((off - 0xB1000) / 0x40) 2 (off / 0x40 * 0x40) off bytes v else s)
  else if 0xC0000 ≤ off && off < 0xC1000 then (if phys then s.writeLog off bytes v else s)
  else if 0xD1000 ≤ off && off + bytes ≤ 0xD1080 then s.writeMsixAll vf off bytes v
  else s

/-- REGISTER_WRITE (R4, R377). -/
def execRegisterWrite (vf off bytes : Nat) (val : DWord) (s : State) : Out := .next (s.regWrite vf off bytes val.toNat)

/-! ## Reads of registers (R4, R377) -/

/-- The registers of a queue. -/
def State.readQueue (s : State) (vf o : Nat) : DWord :=
  let q := s.queue (qkey (o / 0x1000) (o % 0x1000 / 0x40))
  if !q.reach vf then 0
  else match o % 0x40 with
    | 0 => q.base
    | 8 => q.ctl.setWidth 64
    | 0x14 => q.head.setWidth 64
    | _ => 0

/-- The registers of a page-request queue. -/
def State.readPq (s : State) (vf stage r : Nat) : DWord :=
  let q := s.pq vf stage
  match r with
  | 0 => q.base
  | 8 => q.ctl.setWidth 64
  | 0x10 => q.prod.setWidth 64
  | 0x14 => q.cons.setWidth 64
  | 0x20 => BitVec.ofNat 64 (s.outGroups vf stage).length
  | _ => 0

/-- Event-log registers. -/
def State.readLog (s : State) (r : Nat) : DWord :=
  match r with
  | 0 => s.hub.lbase
  | 8 => s.hub.lctl.setWidth 64
  | 0x10 => s.hub.lprod.setWidth 64
  | 0x14 => s.hub.lcons.setWidth 64
  | 0x18 => s.hub.ldrop.setWidth 64
  | 0x100 => s.hub.dumpBase
  | _ => 0

/-- The link status register of a port (R454). -/
def Port.status (x : Port) : DWord := BitVec.ofNat 64 (x.width.toNat + x.crc.toNat * 4 + x.rtrn.toNat * 2 ^ 34)

/-- What the physical function's window alone reaches (R377): a doubleword or word at its offset; 0 where no register lies (log 79,
DESIGN CHOICE). -/
def State.readPhys (s : State) (off : Nat) : DWord :=
  if off < 0x60000 then 0
  else if off < 0x68000 then (s.comm ((off - 0x60000) / 32)).extractLsb' (off % 32 / 8 * 64) 64
  else if off = 0x68000 then s.fab.colto.setWidth 64
  else if off = 0x70000 then s.fab.fid.setWidth 64
  else if off = 0x70004 then s.fab.fseq.setWidth 64
  else if 0x70800 ≤ off && off < 0x70890 then (s.port ((off - 0x70800) / 8)).status
  else if 0x71000 ≤ off && off < 0x72000 then (Map.get s.fab.frt 0x1F (off - 0x71000)).setWidth 64
  else if 0x78000 ≤ off && off < 0x78020 then Map.get s.hub.pools 0 ((off - 0x78000) / 8)
  else if 0x80000 ≤ off && off < 0x80080 then (Map.get s.hub.parts 0 ((off - 0x80000) / 16)).extractLsb' (off % 16 / 8 * 64) 64
  else if 0x81000 ≤ off && off < 0x81800 then (Map.get s.hub.funcs 0 ((off - 0x81000) / 32)).extractLsb' (off % 32 / 8 * 64) 64
  else if 0xB1000 ≤ off && off < 0xB2000 then s.readPq ((off - 0xB1000) / 0x40) 2 (off % 0x40)
  else if 0xC0000 ≤ off && off < 0xC1000 then s.readLog (off - 0xC0000)
  else 0

/-- A register as a function's window shows it at its own offset (log 79, DESIGN CHOICE); QRSV, whose read changes it, is left to its
row. -/
def State.regRead (s : State) (vf off : Nat) : DWord :=
  if 0x40000 ≤ off && off < 0x44000 then s.readQueue vf (off - 0x40000)
  else if 0x50000 ≤ off && off < 0x50200 then
    let e := Map.get s.hub.apertures 0 ((off - 0x50000) / 8)
    if vf = 0 || bitsOf e.toNat 43 38 = vf then e else 0
  else if off = 0x90000 then (if s.hub.busy.contains vf then 1#64 <<< 63 else 0)
  else if off = 0xA0000 then s.hub.ready
  else if off = 0xA1000 then (if s.hub.abort.isSome then 1#64 <<< 30 else 0)
  else if 0xB0000 ≤ off && off < 0xB1000 then s.readPq vf 1 (off - 0xB0000)
  else if off = 0xD0000 then (s.evst vf).setWidth 64
  else if off = 0xD0008 then (s.evmask vf).setWidth 64
  else if 0xD1000 ≤ off && off < 0xD1080 then (s.msixWord vf ((off - 0xD1000) / 4)).setWidth 64
  else if off = 0xD1800 then (Map.get s.hub.pba 0 vf).setWidth 64
  else if vf = 0 then s.readPhys off
  else 0

/-! ## Readiness (R383, R460) -/

/-- Bits that a hub function sets: HOST, SEC, ENERGY, COL, CP, POOL, LINK. TIME sets by R384 alone. -/
def readyBit (b : Nat) : Bool := (3 ≤ b && b ≤ 7 && b != 6) || (32 ≤ b && b ≤ 57)

/-- Every collective that has reached the engine ends with status 4 (R460). -/
def State.colAbortAll (s : State) : State :=
  let s := s.fab.issued.foldl (fun s i => s.colEnd i 4) s
  (s.engs.filter fun p => p.2.kind.collective).foldl (fun s p => s.colStatus p.1 4) s

/-- READINESS_BIT_CLEARS (R460): CP, COL, TIME, HOST, POOL or ENERGY. -/
def execReadinessBitClears (bit : Nat) (s : State) : Out :=
  .next (if !(bit = 3 || bit = 5 || bit = 6 || bit = 7 || (32 ≤ bit && bit < 40)) || !s.hub.ready.getLsbD bit then s
    else
      let s := s.clearReady bit
      if bit = 7 then s.colAbortAll else s)

/-! ## Apertures (R349, R350) -/

/-- Fields of an aperture entry. -/
def apVa (e : DWord) : Nat := bitsOf e.toNat 21 0 * 2 ^ 30
def apOwner (e : DWord) : Nat := bitsOf e.toNat 43 38
def apAsid (e : DWord) : Nat := bitsOf e.toNat 59 44

/-- Bytes of an access, and whether it writes. -/
def apSize : ApertureKind → Nat
  | .read n => n
  | .write d => d.length
  | .atomic _ w _ => if w then 8 else 4
  | .cas w _ _ => if w then 8 else 4
def apWrites : ApertureKind → Bool
  | .read _ => false
  | _ => true
def apAtomic : ApertureKind → Bool
  | .atomic _ _ _ => true
  | .cas _ _ _ => true
  | _ => false

/-- The pieces of an access, each in one sector, as address and length. -/
def apPieces (va : Nat) : Nat → Nat → List (Nat × Nat)
  | 0, _ => []
  | _, 0 => []
  | f + 1, n =>
    let k := min n (32 - va % 32)
    (va, k) :: apPieces (va + k) f (n - k)

/-- An atomic that the fabric port performs on every host link (R352). -/
def apOnPcie : ApertureKind → Bool
  | .atomic op _ _ => op == .iadd || op == .xchg
  | _ => true

/-- Bytes read with their poison where an access reaches them; none where it faults (R350, R432): poison faults a read and an atomic, the
fabric port faults an atomic that its link does not carry (R352), and a chip beyond a down link does not answer (R454). -/
def State.apLook (s : State) (vf asid : Nat) (k : ApertureKind) (p : Nat × Nat) : Option (State × List Byte) :=
  let good := fun poison => !poison || (apWrites k && !apAtomic k)
  match s.touchCp vf asid p.1 (if apWrites k then .write else .read) 3 with
  | .ok s key =>
    let (bs, _, poison) := s.homeRead key p.1 p.2
    if good poison then some (s.served vf 8 (keyUnit key) p.2, bs) else none
  | .port x =>
    let (bs, _, poison) := s.portRead x p.2
    if good poison && !s.peerLost x.pa && (apOnPcie k || Config.hostCxl || paKind x.pa != .host) then some (s.moved vf (unitOf x.pa) p.2, bs) else none
  | _ => none

/-- Every line of an access is reached at its home with its permission: the state after and the bytes there, or none. -/
def State.apReach (s : State) (vf asid : Nat) (k : ApertureKind) : List (Nat × Nat) → Option (State × List Byte)
  | [] => some (s, [])
  | p :: t => match s.apLook vf asid k p with
    | none => none
    | some (s, bs) => (s.apReach vf asid k t).map fun r => (r.1, bs ++ r.2)

/-- Bytes of pieces written. -/
def State.apWrite (s : State) (vf asid : Nat) : List (Nat × Nat) → List Byte → State
  | [], _ => s
  | p :: t, bs =>
    let s := match s.touchCp vf asid p.1 .write 3 with
      | .ok s key => s.homeStore key p.1 [(p.1 % 128, bs.take p.2)] 0
      | .port x => s.portStore vf asid p.1 x (bs.take p.2) 0 (p.2 = 32)
      | _ => s
    s.apWrite vf asid t (bs.drop p.2)

/-- An atomic of the fabric port at a naturally aligned address: new bytes and their bound. -/
def apNew (k : ApertureKind) (old : List Byte) (b : Bnd) : List Byte × Bnd :=
  let words := fun (v : DWord) => [v.setWidth 32, BitVec.ofNat 32 (v.toNat / 2 ^ 32)]
  match k with
  | .atomic op w v => rmw .atom op (if w then 8 else 4) old ((words v).take (if w then 2 else 1)) b 0
  | .cas w c v => rmw .cas .xchg (if w then 8 else 4) old ((words c).take (if w then 2 else 1) ++ (words v).take (if w then 2 else 1)) b 0
  | _ => (old, b)

/-- The access performed where it has been reached, with the bytes that were there: the state after, and what it answers. -/
def State.apDo (s : State) (vf asid va : Nat) (k : ApertureKind) (old : List Byte) : State × List Byte :=
  match k with
  | .read _ => (s, old)
  | .write d => (s.apWrite vf asid (apPieces va d.length d.length) d, [])
  | k => match s.touchCp vf asid va .write 3 with
    | .ok s key =>
      let r := apNew k old (s.homeRead key va old.length).2.1
      (s.homeStore key va [(va % 128, r.1)] r.2, old)
    | .port x =>
      let r := apNew k old (s.portRead x old.length).2.1
      (s.portStore vf asid va x r.1 r.2 false, old)
    | _ => (s, [])

/-- The entry admits an access from its side (R350). -/
def apAdmits (e : DWord) (a : ApertureAcc) : Bool :=
  e.getLsbD 63 && (if a.fromHost then e.getLsbD 61 && apOwner e = a.vf else e.getLsbD 60) && (!apWrites a.kind || e.getLsbD 62)
    && a.index < 64 && a.offset + apSize a.kind ≤ 2 ^ 30

/-- A piece of an access leads to a port that is not usable yet (R383). -/
def State.apClosed (s : State) (vf asid : Nat) (k : ApertureKind) (p : Nat × Nat) : Bool :=
  match s.touchCp vf asid p.1 (if apWrites k then .write else .read) 3 with
  | .port x => s.portClosed x.pa
  | _ => false

/-- An aperture access served (R350); none while it waits for a port (R383) or behind a held write of its line (R428). An error
answer leaves everything as it was. -/
def State.apServe (s : State) (a : ApertureAcc) : Option State :=
  let e := Map.get s.hub.apertures 0 a.index
  let va := apVa e + a.offset
  let n := apSize a.kind
  let ps := apPieces va n n
  let vf := apOwner e
  let asid := apAsid e
  if a.fromHost && !s.hub.ready.getLsbD 3 then none
  else if !apAdmits e a || (apAtomic a.kind && va % n ≠ 0) then some (s.send (.answer false []))
  else if ps.any (s.apClosed vf asid a.kind) then none
  else match s.apReach vf asid a.kind ps with
    | none => some (s.send (.answer false []))
    | some (t, old) =>
      if ps.any fun p => s.storeHeld vf asid (p.1 / 128) then none
      else
        let r := t.apDo vf asid va a.kind old
        some (r.1.send (.answer true r.2))

/-- The accesses that wait, served in the order of their arrival; those that must wait on stay. -/
def State.apServeAll (s : State) : State :=
  s.hub.held.foldl (fun s a => (s.apServe a).getD (s.updHub fun h => { h with held := h.held ++ [a] })) (s.updHub fun h => { h with held := [] })

/-- APERTURE_ACCESS (R350): an access of another chip whose route is down is lost (R454). -/
def execApertureAccess (a : ApertureAcc) (s : State) : Out :=
  .next (if !a.fromHost && !s.linked a.src then s
    else (s.apServe a).getD (s.updHub fun h => { h with held := h.held ++ [a] }))

/-! ## The pool tier (R354, R355, R439 to R441) -/

/-- Lines of the pool cache at a physical address. -/
def State.poolLines (s : State) (pa : Nat) : List Nat :=
  (s.home.filter fun p => keyUnit p.1 = 8 && match p.2 with
    | some h => h.pa = pa / 128 * 128
    | none => false).map Prod.fst

/-- BISNPINV (R354). -/
def execBisnpinv (pa : Nat) (s : State) : Out :=
  .next (((s.poolLines pa).foldl (fun s k => (s.writeBack k).poolDrop k) s).send (.birsp pa))

/-- BISNPDATA (R354). -/
def execBisnpdata (pa : Nat) (s : State) : Out := .next (((s.poolLines pa).foldl State.writeBack s).send (.birsp pa))

def State.poolReg (s : State) (p : Nat) : DWord := Map.get s.hub.pools 0 p
def State.setPoolReg (s : State) (p : Nat) (v : DWord) : State := s.updHub fun h => { h with pools := Map.set h.pools 0 p v }

/-- Lines of a decoder range, with whether each is dirty. -/
def State.rangeLines (s : State) (port dec : Nat) : List (Nat × Bool) :=
  s.home.filterMap fun p => match p.2 with
    | some h => if keyUnit p.1 = 8 && paKind h.pa == .pool && poolPort h.pa = port && s.poolDecoder h.pa = dec then some (p.1, h.dirty != 0) else none
    | none => none

/-- Every sector of a line poisoned, so that its write-back poisons the whole line (R441). -/
def State.poisonLine (s : State) (key : Nat) : State := match s.hline key with
  | some h => s.setHline key (some { h with line := { h.line with poison := 0xF }, dirty := 0xF })
  | none => s

/-- A fetch line lies in a POOL region. -/
def State.pooled (s : State) (vf asid va : Nat) : Bool := (s.region vf asid va).any fun r => r.mode == .pool

/-- Words of POOL regions leave the instruction caches and the front ends, so that a fetch reaches their home (R440). -/
def State.dropPoolFetch (s : State) : State :=
  { s with
    icache := s.icache.filter fun p => !s.pooled (keyVf p.1) (keyAsid p.1) (keyVa p.1),
    warps := s.warps.map fun p => (p.1, match s.launch? p.2.launch with
      | some l => { p.2 with fetched := p.2.fetched.filter fun f => !s.pooled l.vf l.asid (f.1 * 128) }
      | none => p.2) }

/-- POOL_RANGE_LOST (R440): dirty lines are poisoned and kept, clean ones leave; no copy of a line of the range stays above its home. -/
def execPoolRangeLost (port dec : Nat) (s : State) : Out :=
  .next (
    let r := s.poolReg port
    if 4 ≤ port || 4 ≤ dec || r.getLsbD (8 + dec) then s
    else
      let ls := s.rangeLines port dec
      let n := min (ls.filter fun l => l.2).length (2 ^ 24 - 1)
      let s := (ls.foldl (fun s l => if l.2 then (s.dropSharers l.1).poisonLine l.1 else s.poolDrop l.1) s).dropPoolFetch
      let v := BitVec.ofNat 64 (bitsOf r.toNat 15 0 + n * 65536)
      let s := s.setPoolReg port ((v ||| (1#64 <<< (8 + dec))) &&& ~~~(1#64 <<< dec))
      s.log 0x0604 srcHub [(24, 1, port), (25, 1, dec), (28, 4, n)])

/-- POOL_LOST_CLEAR (R439). -/
def execPoolLostClear (port : Nat) (val : DWord) (s : State) : Out :=
  .next (if 4 ≤ port then s
    else
      let r := s.poolReg port
      let up := BitVec.ofNat 64 (bitsOf r.toNat 3 0 * 256)
      s.setPoolReg port (r &&& ~~~(val &&& up)))

/-- POOL_RANGE_REACHABLE (R439): the decoder names an HDM-DB range with back-invalidation (R353). -/
def execPoolRangeReachable (port : Nat) (r : HdmRange) (s : State) : Out :=
  .next (if 4 ≤ port || 4 ≤ r.dec then s
    else (s.updHub fun h => { h with hdm := Map.set h.hdm (0, 0) (4 * port + r.dec) (r.lo, r.hi) }).setPoolReg port
      (s.poolReg port ||| (1#64 <<< r.dec)))

end Sys2Proof.Machine
end

