-- ==== Sys2Proof/Machine/Power.lean ====
section
/-! DEFINITION. Clock and power (R19 to R21), energy metering (R378 to R380), resets, boot and attestation (R380 to R382), and the
global time base (R384). -/

namespace Sys2Proof.Machine

def State.updPower (s : State) (f : Power → Power) : State := { s with power := f s.power }

/-! ## The arithmetic clock (R19 to R21) -/

/-- The power manager takes a measurement in W: how long power has stayed below 2,700 W. -/
def State.measure (s : State) (watts : Nat) : State :=
  s.updPower fun p => { p with cool := if watts < 2700 then some (p.cool.getD s.time) else none }

/-- The clock changes, and the change is logged (R20). -/
def State.setClock (s : State) (mhz watts : Nat) : State :=
  let old := s.power.mhz
  (s.updPower fun p => { p with mhz, lastStep := s.time, low := if mhz = 1000 then some s.time else none }).log 0x0101 srcHub
    [(24, 4, mhz), (28, 4, old), (32, 4, watts)]

/-- 10 µs have passed since the last step (R19), or since reset (log 80, DESIGN CHOICE). -/
def State.stepDue (s : State) : Bool := s.power.lastStep + 10000 ≤ s.time

/-- CLOCK_STEP_DOWN (R19). -/
def execClockStepDown (watts : Nat) (s : State) : Out :=
  .next (
    let s := s.measure watts
    if 2800 < watts && 1000 < s.power.mhz && s.stepDue then s.setClock (s.power.mhz - 25) watts else s)

/-- CLOCK_STEP_UP (R19). -/
def execClockStepUp (watts : Nat) (s : State) : Out :=
  .next (
    let s := s.measure watts
    match s.power.cool with
    | none => s
    | some t => if t + 100000 ≤ s.time && s.power.mhz < 1750 && s.stepDue then s.setClock (s.power.mhz + 25) watts else s)

/-- THERMAL_LIMIT (R21). -/
def execThermalLimit (watts : Nat) (s : State) : Out :=
  .next (
    let s := s.measure watts
    match s.power.low with
    | none => s
    | some t => if t + 1000000 ≤ s.time && 2800 < watts then s.raiseEvent 0 0 else s)

/-! ## Energy (R378 to R380) -/

/-- A partition is charged. -/
def State.charge (s : State) (part nJ : Nat) : State := s.updPower fun p => { p with nJ := Map.upd p.nJ 0 part (· + nJ) }

/-- One term shared out in proportion to weights by partition, each share rounded down; what is left is kept for the term
(R378). -/
def State.shareOut (s : State) (term energy : Nat) (ws : List (Nat × Nat)) : State :=
  let e := energy + Map.get s.power.rest 0 term
  let w := (ws.map Prod.snd).sum
  let shares := ws.map fun x => (x.1, e * x.2 / w)
  let s := shares.foldl (fun s x => s.charge x.1 x.2) s
  s.updPower fun p => { p with rest := Map.set p.rest 0 term (e - (shares.map Prod.snd).sum) }

/-- Valid partitions with the number of dies in their DMASK. -/
def State.dieWeights (s : State) : List (Nat × Nat) :=
  ((List.range 8).filter fun i => (s.part i).testBit 31).map fun i => (i, (domainsOf (s.part i % 256)).length)

/-- Partitions with the bytes that their accesses have moved through a unit since the last sample. -/
def State.unitWeights (s : State) (unit : Nat) : List (Nat × Nat) :=
  (List.range 8).map fun i => (i, Map.get s.traffic 0 (32 * i + unit))

/-- The HBM4 controller `u` is one of domain `d` (R9). -/
def ofDomain (u d : Nat) : Bool := u < 16 && u / 2 = d

/-- The partition that owned a core when the sample began, if one did. -/
def State.ownerAt (s : State) (core : Nat) : Option Nat := match Map.get s.power.owners 0 core with
  | 0 => none
  | p + 1 => some p

/-- Cores with the partition of their block's function, plus 1; a core being saved has its block until step 4 (R341). -/
def State.ownersNow (s : State) : Map Nat :=
  s.blocks.foldl (fun m p => match p.2.live, s.launch? p.2.launch with
    | true, some l => p.2.cores.foldl (fun m c => Map.set m 0 c (s.partOf l.vf + 1)) m
    | _, _ => m) []

/-- Energy of a sample that is charged as idle energy of domain `d`, which is viral (R461). -/
def energyLost (e : EnergyIn) (d : Nat) : Nat :=
  ((e.cores.filter fun c => domainOf c.1 = d).map Prod.snd).sum + ((e.shared.filter fun u => ofDomain u.1 d).map Prod.snd).sum
    + ((e.viral.filter fun u => u.1 = d).map Prod.snd).sum

/-- Idle energy of a sample: with that of the cores that no partition owned. -/
def State.idleEnergy (s : State) (e : EnergyIn) : Nat :=
  e.idle + ((e.cores.filter fun c => !s.viral (domainOf c.1) && (s.ownerAt c.1).isNone).map Prod.snd).sum

/-- A core's energy charged to the partition that owned it. -/
def State.chargeCore (s : State) (c : Nat × Nat) : State :=
  if s.viral (domainOf c.1) then s else match s.ownerAt c.1 with
    | some p => s.charge p c.2
    | none => s

/-- A shared unit's energy shared by the bytes moved; the HBM4 of a viral domain is idle. -/
def State.shareUnit (s : State) (u : Nat × Nat) : State :=
  if u.1 < 16 && s.viral (u.1 / 2) then s else s.shareOut (1 + u.1) u.2 (s.unitWeights u.1)

/-- Energy of a viral domain shared among the partitions whose DMASK holds it (R461). -/
def State.shareViral (e : EnergyIn) (s : State) (d : Nat) : State :=
  if s.viral d then s.shareOut (32 + d) (energyLost e d) (s.dieWeights.filter fun w => (s.part w.1).testBit d) else s

/-- ENERGY_SAMPLE (R378, R461), once a µs; the next sample begins. -/
def execEnergySample (sample : EnergyIn) (s : State) : Out :=
  .next (if s.time < s.power.sampled + 1000 then s
    else
      let idle := s.idleEnergy sample
      let s := (sample.shared.foldl State.shareUnit (sample.cores.foldl State.chargeCore s)).shareOut 0 idle s.dieWeights
      let s := (List.range 8).foldl (State.shareViral sample) s
      { s.updPower fun p => { p with sampled := s.time, owners := s.ownersNow } with traffic := [] })

/-- ENERGY_REQUEST (R379): a virtual function's window reads its own partition. -/
def execEnergyRequest (vf : Nat) (val : DWord) (s : State) : Out :=
  .next (if 64 ≤ vf || s.hub.busy.contains vf then s
    else
      let part := if vf = 0 then bitsOf val.toNat 54 52 else s.partOf vf
      s.updHub fun h => { h with busy := h.busy ++ [vf], energy := h.energy ++ [(vf, part, bitsOf val.toNat 51 6 * 64)] })

/-- A list of exactly `n` bytes. -/
def fixLen (n : Nat) (bs : List Byte) : List Byte := (bs ++ List.replicate n 0).take n

/-- An ML-DSA-44 signature over the SHA3-256 digest of bytes, by the device identity key (R379, R382, R452). -/
def signed (bs : List Byte) : List Byte := fixLen 2420 (Config.signature (fixLen 32 (Config.digest bs)))

/-- The 2,560-byte reading record of a partition (R379). -/
def State.energyRecord (s : State) (part : Nat) : List Byte :=
  let head := bytesOf 2 0x0E01 ++ bytesOf 1 part ++ [0] ++ bytesOf 4 s.power.boot ++ bytesOf 8 (Map.get s.power.seq 0 part)
    ++ bytesOf 8 (Map.get s.power.nJ 0 part / 1000) ++ bytesOf 8 s.power.sampled ++ List.replicate 32 0
  fixLen 2560 (head ++ signed head)

/-- ENERGY_READING_WRITE (R379): the oldest request, once the metering unit is ready (R383). -/
def execEnergyReadingWrite (s : State) : Out :=
  .next (match s.hub.energy with
    | [] => s
    | (vf, part, dest) :: t =>
      if !s.hub.ready.getLsbD 5 then s
      else
        let s := s.hubWrite dest (s.energyRecord part)
        let s := s.updPower fun p => { p with seq := Map.upd p.seq 0 part (· + 1) }
        (s.updHub fun h => { h with energy := t, busy := h.busy.erase vf }).raiseEvent vf 5)

/-- ENERGY_CHECKPOINT (R380), once a second. -/
def execEnergyCheckpoint (s : State) : Out :=
  .next (if s.time < s.power.checkpointed + 1000000000 then s
    else (s.updPower fun p => { p with ckpt := (p.nJ, p.seq, p.boot), checkpointed := s.time }).send .checkpoint)

/-! ## Resets (R380) -/

/-- The package at its reset state under a new boot, with what lies outside a reset: the always-on domain, boot flash, the
bytes of memory, the time, and the model's own schedule and record. `f` gives BOOT, the counters and SEQ. -/
def State.afterReset (s : State) (f : Power → Power) : State :=
  { State.reset with
    mem := s.mem, poison := s.poison, time := s.time, outbox := s.outbox, turns := s.turns,
    power := f { Power.reset with
      nJ := s.power.nJ, seq := s.power.seq, rest := s.power.rest, boot := s.power.boot, ckpt := s.power.ckpt,
      sampled := s.power.sampled, checkpointed := s.power.checkpointed, minVersion := s.power.minVersion } }

/-- PACKAGE_RESET (R380): every counter goes on, and BOOT rises by one. The checkpoint takes BOOT, so that no boot after a loss of power
repeats it (log 44, DEDUCED). -/
def execPackageReset (s : State) : Out :=
  .next (s.afterReset fun p => { p with boot := p.boot + 1, ckpt := (p.ckpt.1, p.ckpt.2.1, p.boot + 1) })

/-- The SEQ of every partition after a loss of power (R380). -/
def seqAfter (m : Map Nat) : Map Nat := (List.range 8).foldl (fun t i => Map.set t 0 i (Map.get m 0 i + 2 ^ 32)) []

/-- ALWAYS_ON_POWER_LOSS (R380): counters, SEQ and BOOT resume from the checkpoint, which takes what they resume at, so that a second loss
repeats no SEQ (log 44, DEDUCED). -/
def execAlwaysOnPowerLoss (s : State) : Out :=
  .next (s.afterReset fun p =>
    let seq := seqAfter p.ckpt.2.1
    { p with nJ := p.ckpt.1, rest := [], seq, boot := p.ckpt.2.2 + 1, ckpt := (p.ckpt.1, seq, p.ckpt.2.2 + 1) })

/-! ## Secure boot and attestation (R381, R382) -/

/-- An image or record passes the checks of R381. -/
def verified (bytes sig : List Byte) (version min : Nat) : Bool := Config.verifies bytes sig && decide (min ≤ version)

/-- How wide a register is that a configuration record sets: routes 1 byte; FID, FSEQ, COLTO, a PCONS, LCONS, LDROP and the words of
the MSI-X table 4; the others 8. -/
def settingBytes (off : Nat) : Nat :=
  if 0x71000 ≤ off && off < 0x72000 then 1
  else if off = 0x70000 || off = 0x70004 || off = 0x68000 || off = 0xB0014 || (0xB1000 ≤ off && off < 0xB2000 && off % 0x40 = 0x14)
    || off = 0xC0014 || off = 0xC0018 || (0xD1000 ≤ off && off < 0xD1080) then 4
  else 8

/-- A setting of a configuration record, in the physical function's window (R381): a register whose writes have a row of their own is set
by that row, an entry by its doublewords. -/
def State.setting (s : State) (off val : Nat) : State :=
  let word := BitVec.ofNat 32 val
  let field := fun (base bytes old : Nat) => mergeBytes old ((off - base) % bytes) 8 val
  Out.or (
    if 0x40000 ≤ off && off < 0x44000 && off % 0x40 = 8 then execQctlWrite 0 ((off - 0x40000) / 0x1000) (off % 0x1000 / 0x40) word s
    else if 0x60000 ≤ off && off < 0x68000 then
      execCommunicatorEntryWrite ((off - 0x60000) / 32) (BitVec.ofNat 256 (field 0x60000 32 (s.comm ((off - 0x60000) / 32)).toNat)) s
    else if 0x80000 ≤ off && off < 0x80080 then
      execPartitionEntryWrite ((off - 0x80000) / 16) (BitVec.ofNat 128 (field 0x80000 16 (s.part ((off - 0x80000) / 16)))) s
    else if 0x81000 ≤ off && off < 0x81800 then
      execFunctionEntryWrite ((off - 0x81000) / 32) (BitVec.ofNat 256 (field 0x81000 32 (s.func ((off - 0x81000) / 32)))) s
    else if off = 0xB0008 then execPctlWrite 0 1 word s
    else if 0xB1000 ≤ off && off < 0xB2000 && off % 0x40 = 8 then execPctlWrite ((off - 0xB1000) / 0x40) 2 word s
    else if off = 0xC0008 then execLctlWrite word s
    else if off = 0xD0008 then execEvmaskWrite 0 word s
    else .next (s.regWrite 0 off (settingBytes off) val)) s

/-- TIME sets on the time master, and on another chip once an exchange has found its offset and that is within 4 ns (R383, R384). -/
def State.timeCheck (s : State) : State :=
  if (s.power.master = some s.chip || (s.power.synced && s.power.offset ≤ 4)) && !s.hub.ready.getLsbD 6 then
    s.updHub fun h => { h with ready := h.ready ||| (1#64 <<< 6) }
  else s

/-- One configuration record: its settings take effect, or it is ignored and logged. -/
def State.loadRecord (s : State) (r : ConfigRecord) : State :=
  let d := fixLen 32 (Config.digest r.bytes)
  if verified r.bytes r.sig r.version s.power.minVersion then
    let s := r.settings.foldl (fun s x => s.setting x.off x.val.toNat) s
    s.updPower fun p => { p with loaded := p.loaded ++ [d], master := r.master.or p.master }
  else s.log 0x0702 srcHub [(24, 32, natOf d)]

/-! ### Attestation -/

/-- The reply record: nonce, BOOT, time, measurements, signature (R382); their order is the model's own. -/
def State.attestation (s : State) (nonce : List Byte) : List Byte :=
  let body := fixLen 32 nonce ++ bytesOf 4 s.power.boot ++ bytesOf 8 s.time ++ s.power.loaded.flatten
  body ++ signed body

/-- Attestation requests answered in the order of their arrival, once the security processor is ready (R382, R383). -/
def State.attest (s : State) : State :=
  if s.hub.ready.getLsbD 4 then
    s.power.asks.foldl (fun s q => s.hubWrite q.2 (s.attestation q.1)) (s.updPower fun p => { p with asks := [] })
  else s

/-- ATTESTATION_REQUEST (R382). -/
def execAttestationRequest (nonce : List Byte) (dest : Nat) (s : State) : Out :=
  .next (s.updPower fun p => { p with asks := p.asks ++ [(nonce, dest)] }).attest

/-- HUB_FUNCTION_USABLE (R383): what was held for the function is served. A link comes up at eight lanes where its port was down (R453,
R454). -/
def execHubFunctionUsable (bit : Nat) (s : State) : Out :=
  .next (if bit = 6 then s.timeCheck
    else if !readyBit bit then s
    else
      let s := s.updHub fun h => { h with ready := h.ready ||| (1#64 <<< bit) }
      if 40 ≤ bit && (s.port (bit - 40)).width = 0 then s.updPort (bit - 40) fun x => { x with width := 3 }
      else s.apServeAll.lateSignals.attest)

/-! ### Power-up -/

/-- The firmware image that runs, with FWSTAT: the primary, the alternate, or none. -/
def bootChoice (f : BootFlash) (min : Nat) : Nat × Option BootImage :=
  if verified f.primary.bytes f.primary.sig f.primary.version min then (0, some f.primary)
  else if verified f.alternate.bytes f.alternate.sig f.alternate.version min then (1, some f.alternate)
  else (2, none)

/-- The readiness register after boot: SEC, FWSTAT and the dies out of reset (R383). -/
def bootReady (fwstat : Nat) (dies : BitVec 8) : DWord := BitVec.ofNat 64 (16 + fwstat * 256 + dies.toNat * 2 ^ 24)

/-- POWER_UP_BOOT (R381): once after a reset. -/
def execPowerUpBoot (flash : BootFlash) (s : State) : Out :=
  .next (if s.hub.ready.getLsbD 4 then s
    else
      let min := max s.power.minVersion flash.minVersion
      let s := s.updPower fun p => { p with minVersion := min }
      match bootChoice flash min with
      | (st, none) => (s.updHub fun h => { h with ready := bootReady st 0 }).attest
      | (st, some i) =>
        let s := s.updHub fun h => { h with ready := bootReady st flash.dies }
        let s := s.updPower fun p => { p with loaded := [fixLen 32 (Config.digest i.bytes)] }
        (flash.records.foldl State.loadRecord s).timeCheck.attest)

/-! ## The time base (R384) -/

/-- Time after `ns`: the offset still to be corrected shrinks by at most 1 ns in 10,000 (100 ppm), and time never goes back. -/
def State.slewed (s : State) (ns : Nat) : State :=
  let n := s.power.slew + ns
  let c := min s.power.offset (n / 10000)
  let s := s.updPower fun p => { p with slew := n % 10000, offset := p.offset - c }
  { s with time := if s.power.ahead then s.time + (ns - c) else s.time + ns + c }

/-- Time passes, up to the end of a sleep, which wakes (R311); stamps count the cycles that pass (R336). -/
def State.tick (s : State) (ns : Nat) : State :=
  let n := s.sleepRoom ns
  let t := s.slewed n
  ({ t with stamp := t.stamp + n * t.power.mhz / 1000, cycle := t.cycle + n * t.power.mhz } : State).sleepOver.timeCheck

/-- TIME_EXCHANGE (R384): a message goes to the time master on channel 4, and the exchange finds the offset; within 4 ns TIME sets, outside
it clears. The master's own time base is not disciplined, and a master that no link reaches does not answer. -/
def execTimeExchange (ahead : Bool) (offsetNs : Nat) (s : State) : Out :=
  .next (match s.power.master with
    | none => s
    | some m =>
      if m = s.chip then s.send .timeReply
      else
        let t := s.post m 4 (Config.timeMessage s.time)
        if !s.linked m then t
        else
          let t := t.updPower fun p => { p with ahead, offset := offsetNs, slew := 0, synced := true }
          if offsetNs ≤ 4 then t.timeCheck else t.clearReady 6)

/-- Messages of channel 4 are taken; the time master answers each (R384). -/
def State.answerTime (s : State) : State :=
  let ms := s.fab.inbox.filter fun m => m.2.1 = 4
  let s := s.updFab fun f => { f with inbox := f.inbox.filter fun m => m.2.1 != 4 }
  if s.power.master = some s.chip then ms.foldl (fun s m => s.post m.1 4 (Config.timeMessage s.time)) s else s

end Sys2Proof.Machine
end

