-- ==== Sys2Proof/Machine/Containment.lean ====
section
/-! DEFINITION. Errors and their containment: uncorrectable and corrected errors (R431, R433, R462), rollback to a waypoint
(R436, R437), the loss of a die (R438, R446 to R450) and its state dump (R452). -/

namespace Sys2Proof.Machine

/-! ## Rollback (R436, R437, R450) -/

/-- A launch may be rolled back (R437); one that has already lost blocks ends with code 0x000A (R448). -/
def Launch.mayRoll (l : Launch) : Bool := l.waypoint && !l.colled && !l.launched && l.replay < 3 && !l.aborted

/-- Lines of a launch's write set leave every home, L1 and instruction cache (R436, step 2). -/
def State.dropSet (s : State) (l : Launch) : State :=
  { s with home := s.home.filter fun p => !l.writes p.1, l1 := s.l1.filter fun p => !l.writes p.1,
           icache := s.icache.filter fun p => !l.writes p.1 }

/-- The poison codes of consecutive sectors set. -/
def State.setPoisons (s : State) (sec : Nat) : List Bool → State
  | [] => s
  | p :: t => ({ s with poison := Map.set s.poison false sec p } : State).setPoisons (sec + 1) t

/-- One copied granule written back with its shadow and its poison codes (R431, R436, step 3). -/
def State.restoreGranule (s : State) (g : Granule) : State :=
  if s.viralPa (g.page * 4096) then s
  else (g.shadow.foldl (fun s p => s.hubPokes p.1 [p.2]) (s.pokes (g.page * 4096) g.bytes)).setPoisons (g.page * 128) g.poison

/-- Every granule of a launch written back, and the copies freed. -/
def State.restoreSet (s : State) (lid : Nat) : State :=
  let s := (s.granules.filter fun g => g.launch = lid).foldl State.restoreGranule s
  { s with granules := s.granules.filter fun g => g.launch != lid }

/-- The record of a rollback (R462). -/
def State.rollRecord (s : State) (l : Launch) (cause : Nat) : State :=
  s.log 0x0301 srcHub (launchTag l ++ [(30, 1, l.replay), (31, 1, cause)])

/-- The launch is placed again with a new waypoint, or completes with the code of R450 (R436, step 5). -/
def State.replaceLaunch (s : State) (lid : Nat) (l : Launch) : State :=
  if s.dies &&& l.diesF &&& s.dmask l.vf = 0 then s.reject lid 4
  else if !s.fitsIdle lid l then s.reject lid 6
  else s.makeReady lid

/-- The steps of R436, once every block has stopped. -/
def State.rollBack (s : State) (lid : Nat) (l : Launch) (cause : Nat) : State :=
  let s := ((s.endBlocks lid).dropSet l).restoreSet lid
  let l := { l with replay := l.replay + 1, nextCl := 0, doneCl := 0, started := false, lateFault := false, rolling := none }
  ((s.setLaunch lid l).rollRecord l cause).replaceLaunch lid l

/-- A rollback goes on once every warp of the launch has come to a clause end (R436, step 1). A launch that has meanwhile lost its waypoint,
or done what R437 names, is aborted. -/
def State.rollTry (s : State) (lid : Nat) : State :=
  match s.launch? lid with
  | none => s
  | some l => match l.rolling with
    | none => s
    | some cause =>
      if l.st != .running then s
      else if !l.mayRoll then (s.setLaunch lid { l with rolling := none }).abortLaunch lid
      else if (s.slotsOf lid).all s.halted then s.rollBack lid l cause else s

/-- A rollback begins. -/
def State.startRoll (s : State) (lid cause : Nat) : State :=
  (s.updLaunch lid fun l => { l with rolling := some cause }).rollTry lid

/-- A launch that must be undone is rolled back where R437 allows it, and aborted with code 0x000A otherwise (R408, R433). -/
def State.undoLaunch (s : State) (lid cause : Nat) : State :=
  match s.launch? lid with
  | none => s
  | some l => if l.mayRoll then s.startRoll lid cause else s.abortLaunch lid

/-! ## Uncorrectable and corrected errors (R431, R433, R462) -/

/-- The record of a poisoned sector. -/
def State.poisonRecord (s : State) (structure_ domain asid addr : Nat) : State :=
  s.log 0x0602 (if domain < 8 then domain else srcHub) [(24, 1, structure_), (25, 1, domain), (26, 2, asid), (32, 8, addr)]

/-- Lines of a unit at a VA of an ASID, whatever their function. -/
def linesAt (unit asid va : Nat) (keys : List Nat) : List Nat :=
  keys.filter fun k => keyUnit k = unit && keyAsid k = asid && keyVa k = va / 128 * 128

/-- A home's sector marked poisoned: a line that the home does not hold has no sector there. -/
def State.poisonHome (s : State) (structure_ unit asid va : Nat) : State :=
  match linesAt unit asid va s.home.keys with
  | [] => s
  | k :: _ => (s.homePoison k va).poisonRecord structure_ unit asid (va / 32 * 32)

/-- An L1 sector marked poisoned. -/
def State.poisonL1 (s : State) (core asid va : Nat) : State :=
  match linesAt core asid va s.l1.keys with
  | [] => s
  | k :: _ =>
    let s : State := { s with l1 := Map.upd s.l1 none k fun c => c.map fun c => c.mark (secOf va) }
    s.poisonRecord 4 (domainOf core) asid (va / 32 * 32)

/-- The ASID of a block's launch. -/
def State.blockAsid (s : State) (bid : Nat) : Nat := match s.launch? (s.block bid).launch with
  | some l => l.asid
  | none => 0

/-- UNCORRECTABLE_ERROR (R431). -/
def execUncorrectableError (site : EccSite) (s : State) : Out :=
  .next (match site with
    | .hbm d pa =>
      if paKind pa == .hbm d then
        ({ s with poison := Map.set s.poison false (pa / 32) true } : State).poisonRecord 1 d 0 (pa / 32 * 32)
      else s
    | .l2 d asid va => if d < 8 then s.poisonHome 2 d asid va else s
    | .poolCache asid va => s.poisonHome 3 8 asid va
    | .l1 core asid va => s.poisonL1 core asid va
    | .scratchpad core bid off =>
      let b := s.block bid
      if !b.live || !b.cores.contains core || b.slice ≤ off then s
      else
        let j := b.cores.idxOf core
        let k := sideKey bid j off
        let s : State := { s with side := Map.upd s.side (bndExact, false) k fun x => (x.1, true) }
        s.poisonRecord 5 (domainOf core) (s.blockAsid bid) (off / 32 * 32))

/-- The hub may write a record of corrected errors of a structure and domain: the last is a second old (R462). -/
def State.correctedDue (s : State) (k : Nat) : Bool := match Map.get s.hub.corrected none k with
  | none => true
  | some t => t + 1000000000 ≤ s.time

/-- CORRECTED_ERROR_RECORD (R462). -/
def execCorrectedErrorRecord (kind domain count : Nat) (s : State) : Out :=
  .next (
    let k := kind * 16 + domain
    if kind = 0 || 5 < kind || 8 < domain || count = 0 || !s.correctedDue k then s
    else
      let s := s.updHub fun h => { h with corrected := Map.set h.corrected none k (some s.time) }
      s.log 0x0703 srcHub [(24, 1, kind), (25, 1, domain), (28, 4, count)])

/-! ## The loss of a die (R438, R446 to R450) -/

/-- An L1 or instruction-cache line whose home lies in domain `d`. -/
def State.homedIn (s : State) (d key : Nat) : Bool :=
  match s.region (keyVf key) (keyAsid key) (keyVa key) with
  | none => false
  | some r => r.home (keyVa key) (domainOf (keyUnit key)) 0 = d || (r.mode == .replica && r.dset.testBit d)

/-- What domain `d` held is lost: its home lines, its walks and its HBM4; copies of its lines leave L1 (R446, R447). -/
def State.loseData (s : State) (d : Nat) : State :=
  { s with home := s.home.filter fun p => keyUnit p.1 != d, tlb := s.tlb.filter fun t => t.unit != d,
           portMarks := s.portMarks.filter fun p => keyUnit p.1 != d, l1 := s.l1.filter fun p => !s.homedIn d p.1, icache := s.icache.filter fun p => !s.homedIn d p.1,
           mem := s.mem.filter fun c => !(paKind c.1 == .hbm d), poison := s.poison.filter fun c => !(paKind (c.1 * 32) == .hbm d) }

/-- Promotions that the loss of `d` ends: of its cores, or at its homes. -/
def State.lostPromos (s : State) (d : Nat) : List (Nat × Promotion) := s.promos.filter fun p => domainOf p.2.core = d || p.2.home = d

/-- A lane that waited for a lost promotion: an `.rp` acquire ends in a peer abort, another access goes on (R438). -/
def State.promoLost (s : State) (x : Nat × Nat) : State :=
  match s.op? x.1 with
  | none => s
  | some o =>
    if o.rp && o.order.acquires then s.faultLane o x.1 x.2 0xC3
    else (s.setLaneSt x.1 x.2 .arrived).serveLane x.1 x.2

/-- Marks that name a core of `d` are cleared, and what waited on them is ended (R438). -/
def State.loseMarks (s : State) (d : Nat) : State :=
  let ls := (s.lostPromos d).flatMap fun p => s.promoting p.1
  let s : State := { s with
    promos := s.promos.filter fun p => !(domainOf p.2.core = d || p.2.home = d),
    home := s.home.map fun p => (p.1, p.2.map fun h => if h.mark.any (fun c => domainOf c = d) then { h with mark := none } else h),
    portMarks := s.portMarks.filter fun p => !p.2.any fun c => domainOf c = d }
  ls.foldl State.promoLost s

/-- Blocks of a launch on domain `d`, and saved ones that have held a core of it (R448, R450). -/
def State.blocksOn (s : State) (lid d : Nat) : List Nat :=
  (s.blocks.filter fun p => p.2.launch = lid && ((p.2.live && p.2.cores.any fun c => domainOf c = d)
    || ((Map.find? s.saved p.1).isSome && p.2.doms.testBit d))).map Prod.fst

/-- Collective operations of blocks ask for the cancellation of their mileposts (R458). -/
def State.cancelBlocks (s : State) (bs : List Nat) : State :=
  let ids := (s.engs.filter fun p => bs.contains p.2.block).map Prod.fst
  s.fab.issued.foldl (fun s i => if ids.contains i.op && !i.asked then s.askCancel i 4 else s) s

/-- Blocks end at once, without effect and without completing their operations (R448). -/
def State.dropBlocks (s : State) (bs : List Nat) : State :=
  let s := s.cancelBlocks bs
  let slots := bs.flatMap s.blockSlots
  let s := slots.foldl (fun s k => s.setWarp k Warp.empty) s
  let s : State := { s with
    ops := s.ops.filter fun p => !bs.contains p.2.block, engs := s.engs.filter fun p => !bs.contains p.2.block,
    mats := s.mats.filter fun p => !bs.contains p.2.block,
    xq := s.xq.map fun p => (p.1, p.2.filter fun r => !slots.contains r.1) }
  bs.foldl State.freeBlock s

/-- Threads that wait at a block, cluster or transaction barrier, or in `kwait` (R448). -/
def Warp.peerWaits (w : Warp) : Mask := w.lanes fun t => match t.st with
  | .waitBar _ _ => true
  | .waitTxb _ _ => true
  | .heldK _ => true
  | _ => false

/-- The peer-abort trap of waiting threads at one PC: that of the instruction that follows the wait (R399, R400, R447). -/
def Warp.peerTrap (w : Warp) (m : Mask) : TrapInfo :=
  let t := w.thr (lowest m)
  let ws := match t.cl with
    | some c => (c.word t.pc, c.word (t.pc + 4))
    | none => (0, 0)
  let two := t.cl.isSome && isTwo ws.1
  { code := 0x0C02, deferF := false, engineF := false, fetchF := false, two, imm := 0, pc := t.pc, npc := t.pc, iw0 := ws.1,
    iw1 := if two then ws.2 else 0, lanes := m, group := m, addr := 0, elem := 0, info := BitVec.ofNat 32 (opField ws.1), orig := 0,
    recs := [] }

/-- The waiting threads of a warp, out of the arrival sets, with their traps. -/
def Warp.peerTraps (w : Warp) : List TrapInfo := (w.byPc w.peerWaits).map w.peerTrap
def arriveWithout (m : Mask) (p : Nat × Mask) : Option (Nat × Mask) := if p.2 &&& ~~~m = 0 then none else some (p.1, p.2 &&& ~~~m)
def Warp.leaveArrive (w : Warp) : Warp := { w with arrive := w.arrive.filterMap (arriveWithout w.peerWaits) }

/-- Waiting threads of a launch are released with a peer-abort trap, in resident and in saved warps (R448). -/
def State.releasePeers (s : State) (lid : Nat) : State :=
  let ts := (s.slotsOf lid).flatMap fun k => (s.warp k).peerTraps.map fun t => (k, t)
  let s := (s.slotsOf lid).foldl (fun s k => s.updWarp k Warp.leaveArrive) s
  let s : State := { s with saved := s.saved.map fun p =>
    if (s.block p.1).launch = lid then (p.1, p.2.mapWarps fun w => w.leaveArrive.queueTraps w.peerTraps) else p }
  ts.foldl (fun s x => s.trapWaiting x.1 x.2) s

/-- A launch ends its blocks on `d` and runs on elsewhere; it completes with code 0x000A (R448). -/
def State.loseBlocks (s : State) (lid d : Nat) : State :=
  let bs := s.blocksOn lid d
  let cs := (bs.map fun b => (s.block b).cluster).eraseDups
  let s := (s.updLaunch lid fun l => { l with aborted := true }).dropBlocks bs
  let s := cs.foldl State.clusterCheck s
  (s.releasePeers lid).dispatch

/-- A placement entry of a launch's address space names `d` (R448). -/
def State.namesDie (s : State) (l : Launch) (d : Nat) : Bool :=
  (regionsOf (s.plt l.vf l.asid)).any fun r => match r.mode with
    | .pinned => r.hdie = d
    | .pool => false
    | _ => r.dset.testBit d

/-- An affected launch is rolled back or loses its blocks on `d`; a rollback under way takes the loss in (R448, R450). -/
def State.affect (d : Nat) (s : State) (lid : Nat) : State :=
  match s.launch? lid with
  | none => s
  | some l =>
    if l.repl && l.mayRoll && !s.namesDie l d then (s.dropBlocks (s.blocksOn lid d)).startRoll lid (l.rolling.getD 3)
    else ((s.updLaunch lid fun l => { l with rolling := none }).loseBlocks lid d)

/-- Launches affected by the loss of `d` (R448). -/
def State.affected (s : State) (d : Nat) : List Nat :=
  (s.launches.filter fun p => p.2.active && s.blocksOn p.1 d != []).map Prod.fst

/-- Domain `d` enters the viral state (R446). -/
def State.dieLost (s : State) (d cause : Nat) : State :=
  let s := s.updHub fun h => { h with viral := Map.set h.viral none d (some s.time) }
  let s := (s.clearReady (24 + d)).log 0x0401 d [(24, 1, d), (25, 1, cause)]
  let s := (s.loseData d).loseMarks d
  (s.affected d).foldl (State.affect d) s

/-- A domain can be lost: available, and not lost before. -/
def State.present (s : State) (d : Nat) : Bool := d < 8 && s.hub.ready.getLsbD (24 + d) && !s.viral d

/-- DIE_FATAL_ERROR (R446), with the cause of R462. -/
def execDieFatalError (domain cause : Nat) (s : State) : Out :=
  .next (if s.present domain && 0 < cause && cause ≤ 6 then s.dieLost domain cause else s)

/-- PROMOTE_ACK_TIMEOUT (R438): 1 ms without an acknowledgement. -/
def execPromoteAckTimeout (pid : Nat) (s : State) : Out :=
  .next (match s.promo? pid with
    | none => s
    | some p => if p.acked || s.time < p.sentAt + 1000000 || !s.present (domainOf p.core) then s else s.dieLost (domainOf p.core) 6)

/-- Bytes of a state dump of `len` bytes: its head, the error registers, and the signature (R452). -/
def State.dumpBytes (s : State) (d len : Nat) : List Byte :=
  let head := bytesOf 2 0x0D01 ++ [0, 0] ++ bytesOf 4 s.power.boot ++ bytesOf 8 s.time ++ bytesOf 8 d
  let body := head ++ (List.range (len - 2444)).map fun i => Config.dumpByte d i
  body ++ signed body

/-- STATE_DUMP_COMPLETE (R452). -/
def execStateDumpComplete (domain len : Nat) (s : State) : Out :=
  .next (
    let base := s.hub.dumpBase.toNat
    if 8 ≤ domain || !s.viral domain || s.hub.dumped.contains domain || base = 0 || len < 2444 || 2 ^ 20 < len then s
    else
      let s := s.hubWrite base (s.dumpBytes domain len)
      (s.updHub fun h => { h with dumped := domain :: h.dumped }).log 0x0403 srcHub
        [(24, 1, domain), (28, 4, len), (32, 8, base)])

end Sys2Proof.Machine
end

