-- ==== Sys2Proof/Machine/Retry.lean ====
section
/-! DEFINITION. What a pair of an assured launch keeps of the clauses that it issues (R338, R339), its retry (R406), the case that no vote
decides (R408), and an error in a pair's own state (R433). -/

namespace Sys2Proof.Machine

/-! ## The data of a warp and its control -/

/-- A thread with the latches of another. -/
def Thread.withLatches (t u : Thread) : Thread := { t with l0 := u.l0, l1 := u.l1, l2 := u.l2 }

/-- Threads `a` with the latches of `b`, lane by lane. -/
def latchesOf (a b : Map Thread) : Map Thread := a.map fun p => (p.1, p.2.withLatches (Map.get b Thread.idle p.1))

/-- What a warp computes for itself: registers, masks, `sc`, `%exm`, `%unc`, `%budget`, edges, its bank and latches (R339). -/
def Warp.withData (w t : Warp) : Warp :=
  { w with vregs := t.vregs, sregs := t.sregs, kregs := t.kregs, arrive := t.arrive, sc := t.sc, exm := t.exm, unc := t.unc,
           budget := t.budget, medge := t.medge, mbank := t.mbank, threads := latchesOf w.threads t.threads }

/-- A warp that ran in the leading warp's place, as the trailing warp `t` again. -/
def Warp.asTrailing (x t : Warp) : Warp :=
  { x with uid := t.uid, index := t.index, role := t.role, active := t.active, stamp := t.stamp, recs := [], lag := [], struck := false }

/-! ## Copying what changed -/

/-- Keys at which two tables differ. -/
def diffKeys {α : Type} [DecidableEq α] (d : α) (a b : Map α) : List Nat :=
  ((a.keys ++ b.keys).eraseDups).filter fun k => Map.get a d k != Map.get b d k

/-- Table `m` with what changed from `a` to `b`. -/
def patch {α : Type} [DecidableEq α] (d : α) (m a b : Map α) : Map α :=
  (diffKeys d a b).foldl (fun m k => Map.set m d k (Map.get b d k)) m

/-- A value that changed from `a` to `b`, or else the own one. -/
def follow {α : Type} [DecidableEq α] (own a b : α) : α := if a = b then own else b

/-- The latches of a trailing thread after the leading one changed from `a` to `b`. -/
def Thread.followLatches (t a b : Thread) : Thread :=
  { b with l0 := follow t.l0 a.l0 b.l0, l1 := follow t.l1 a.l1 b.l1, l2 := follow t.l2 a.l2 b.l2 }

/-- Two threads stand at one place, in one state. -/
def Thread.beside (t u : Thread) : Bool := t.st = u.st && t.pc = u.pc && t.cl.map (·.hdr) = u.cl.map (·.hdr)

/-- The threads of a trailing warp after the leading one changed from `a` to `b`: one that stood beside its leading thread goes where that
goes, and one that has come elsewhere by its own values stays. -/
def Warp.threadsAfter (t a b : Warp) : Map Thread :=
  b.threads.map fun p => (p.1, if (t.thr p.1).beside (a.thr p.1) then (t.thr p.1).followLatches (a.thr p.1) p.2 else t.thr p.1)

/-- The trailing warp after the leading one changed from `a` to `b`: its own data, the control of `b`. -/
def Warp.steer (t a b : Warp) : Warp :=
  { ({ b.withData t with threads := t.threadsAfter a b } : Warp).asTrailing t with stamp := Machine.follow t.stamp a.stamp b.stamp }

/-- The same, with what changed of the data copied: the values received. -/
def Warp.follow (t a b : Warp) : Warp :=
  { t.steer a b with
    vregs := patch LV.zero t.vregs a.vregs b.vregs, sregs := patch 0 t.sregs a.sregs b.sregs, kregs := patch 0 t.kregs a.kregs b.kregs,
    arrive := patch 0 t.arrive a.arrive b.arrive, sc := Machine.follow t.sc a.sc b.sc, exm := Machine.follow t.exm a.exm b.exm,
    unc := Machine.follow t.unc a.unc b.unc, budget := Machine.follow t.budget a.budget b.budget,
    medge := Machine.follow t.medge a.medge b.medge, mbank := Machine.follow t.mbank a.mbank b.mbank }

/-- A trailing warp that has nothing to catch up on has the control of its leading one. -/
def State.sync (s : State) (a b : Nat) : State :=
  if (s.warp a).lag = [] then s.updWarp b fun t => t.steer (s.warp a) (s.warp a) else s

/-! ## The clause undo record (R406) -/

/-- A list of old values with those of keys that it does not hold yet. -/
def noteAll {α : Type} [DecidableEq α] (d : α) (l : List (Nat × α)) (a b : Map α) : List (Nat × α) :=
  l ++ ((diffKeys d a b).filter fun k => !l.any fun p => p.1 = k).map fun k => (k, Map.get a d k)

/-- An old value, kept once. -/
def noteOne {α : Type} [DecidableEq α] (o : Option α) (a b : α) : Option α := o.or (if a = b then none else some a)

/-- Registers that a returned value wrote. -/
def Undo.noteRegs (u : Undo) (a b : Warp) : Undo :=
  { u with vec := noteAll LV.zero u.vec a.vregs b.vregs, sca := noteAll 0 u.sca a.sregs b.sregs }

/-- What an instruction of the clause wrote. -/
def Undo.note (u : Undo) (a b : Warp) : Undo :=
  { u.noteRegs a b with kmask := noteAll 0 u.kmask a.kregs b.kregs, arrive := noteAll 0 u.arrive a.arrive b.arrive,
                        sc := noteOne u.sc a.sc b.sc, exm := noteOne u.exm a.exm b.exm, unc := noteOne u.unc a.unc b.unc,
                        budget := noteOne u.budget a.budget b.budget }

/-- What an operation of an earlier clause has brought becomes the value at the header of a register that this clause wrote too. -/
def Undo.shift (u : Undo) (a b : Warp) : Undo :=
  { u with vec := u.vec.map fun p => (p.1, if Map.get a.vregs LV.zero p.1 = Map.get b.vregs LV.zero p.1 then p.2 else Map.get b.vregs LV.zero p.1),
           sca := u.sca.map fun p => (p.1, if Map.get a.sregs 0 p.1 = Map.get b.sregs 0 p.1 then p.2 else Map.get b.sregs 0 p.1) }

/-- A thread before the clause's first instruction again, its latches not captured; the barriers that it armed stay so, and its meeting
point stays. -/
def Thread.undone (t k : Thread) : Thread :=
  { t with st := k.st, pc := k.pc, cl := k.cl, age := k.age, replay := none, l0 := Latch.none, l1 := Latch.none, l2 := Latch.none }

/-- The lanes of `m` before the clause's first instruction again: registers, masks and arrival sets as at the header (R406). -/
def Warp.undone (w : Warp) (u : Undo) (m : Mask) : Warp :=
  ({ w with
     vregs := (u.vec.filter fun p => m.getLsbD (p.1 % 32)).foldl (fun m p => Map.set m LV.zero p.1 p.2) w.vregs,
     sregs := u.sca.foldl (fun m p => Map.set m 0 p.1 p.2) w.sregs, kregs := u.kmask.foldl (fun m p => Map.set m 0 p.1 p.2) w.kregs,
     arrive := u.arrive.foldl (fun m p => Map.set m 0 p.1 p.2) w.arrive, sc := u.sc.getD w.sc, exm := u.exm.getD w.exm,
     unc := u.unc.getD w.unc, budget := u.budget.getD w.budget, issue := m } : Warp).updThrs m fun l t => t.undone (Map.get u.threads t l)

/-! ## The records of a pair -/

/-- Threads of `m` as an undo record keeps them. -/
def Warp.threadsOf (w : Warp) (m : Mask) : Map Thread := (lanesOf m).map fun l => (l, w.thr l)

/-- A record is that of the issuing group. -/
def PairRec.ofGroup (r : PairRec) (w : Warp) : Bool := r.hdr = w.hdr && r.mask &&& w.issue != 0

/-- Two undo records of one clause together. -/
def Undo.join (u v : Undo) : Undo :=
  ⟨u.vec ++ v.vec, u.sca ++ v.sca, u.kmask ++ v.kmask, u.arrive ++ v.arrive, u.sc.or v.sc, u.exm.or v.exm, u.unc.or v.unc,
    u.budget.or v.budget, u.threads ++ v.threads⟩

/-- Two records of one clause whose lanes issue together. -/
def PairRec.join (r q : PairRec) : PairRec :=
  { r with mask := r.mask ||| q.mask, lanes := r.lanes ||| q.lanes, acted := r.acted ++ q.acted, redo := r.redo.or q.redo,
           spare := r.spare.or q.spare, lead := r.lead.join q.lead, trail := r.trail.join q.trail }

/-- The number of a new record. -/
def Warp.freshRun (w : Warp) : Nat := w.recs.foldl (fun n r => max n (r.no + 1)) 1

/-- A record of the issuing group that begins where it stands. -/
def Warp.newRec (w : Warp) : PairRec :=
  let here : Undo := { threads := w.threadsOf w.issue }
  { no := w.freshRun, mask := w.issue, lanes := w.issue, hdr := w.hdr, start := w.pc, lead := here, trail := here }

/-- The record of the issuing group; a group without one, whose clause a handler has entered past its header, begins one where it
stands. -/
def Warp.pairRec (w : Warp) : PairRec := match w.recs.filter fun r => r.ofGroup w with
  | [] => w.newRec
  | r :: t => t.foldl PairRec.join r

/-- The record of the issuing group replaced. -/
def Warp.setRec (w : Warp) (r : PairRec) : Warp := { w with recs := r :: w.recs.filter fun q => !(q.ofGroup w || q.no = r.no) }

/-! ## Values that come back later (R338) -/

/-- Values of the registers that changed. -/
def newVec (a b : Warp) : List (Nat × LV) := (diffKeys LV.zero a.vregs b.vregs).map fun k => (k, Map.get b.vregs LV.zero k)
def newSca (a b : Warp) : List (Nat × Word) := (diffKeys 0 a.sregs b.sregs).map fun k => (k, Map.get b.sregs 0 k)

/-- Registers that an operation writes when it returns, by key: of vector lanes, and scalar ones. -/
def MemOp.vecKeys (o : MemOp) : List Nat :=
  if o.kind == .sld then [] else (o.lanes.filter fun p => p.2.st == .done).flatMap fun p =>
    (List.range o.dstCount).map fun i => vkey (o.dst + i) p.1
def MemOp.scaKeys (o : MemOp) : List Nat := if o.kind == .sld then (List.range o.dstCount).map (o.dst + ·) else []

/-- An operation that was outstanding has left. -/
def gone (s s' : State) (o : Nat) : Bool :=
  ((s.op? o).isSome || (s.eng? o).isSome) && (s'.op? o).isNone && (s'.eng? o).isNone

/-- Operations of a warp that bring values and have left. -/
def State.cameBack (s s' : State) (uid : Nat) : Map MemOp :=
  s.ops.filter fun p => p.2.uid = uid && p.2.kind.returns && (s'.op? p.1).isNone

/-- The values that a warp has received between two states, in which it was `w` and is `x`. -/
def State.gotVec (s s' : State) (w x : Warp) : List (Nat × LV) :=
  newVec w x ++ ((s.cameBack s' w.uid).flatMap fun p => p.2.vecKeys).map fun k => (k, Map.get x.vregs LV.zero k)
def State.gotSca (s s' : State) (w x : Warp) : List (Nat × Word) :=
  newSca w x ++ ((s.cameBack s' w.uid).flatMap fun p => p.2.scaKeys).map fun k => (k, Map.get x.sregs 0 k)

/-- Received values written. -/
def Warp.take (w : Warp) (vec : List (Nat × LV)) (sca : List (Nat × Word)) : Warp :=
  { w with vregs := vec.foldl (fun v x => Map.set v LV.zero x.1 x.2) w.vregs, sregs := sca.foldl (fun v x => Map.set v 0 x.1 x.2) w.sregs }

/-- A record whose operation has come back takes the values it brought. -/
def Acted.receive (e : Acted) (s s' : State) (a b : Warp) : Acted :=
  if e.ops.any (gone s s') then
    { e with ops := e.ops.filter fun o => !gone s s' o, vec := e.vec ++ s.gotVec s' a b, sca := e.sca ++ s.gotSca s' a b }
  else e

/-- An operation that has come back is one of the clause of a record. -/
def PairRec.returned (r : PairRec) (s s' : State) : Bool := r.acted.any fun e => e.ops.any (gone s s')

/-- A record after a step that was no instruction of its pair: the leading warp changed from `w` to `x`. -/
def PairRec.followLead (r : PairRec) (s s' : State) (w x : Warp) : PairRec :=
  if r.returned s s' then { r with acted := r.acted.map fun e => e.receive s s' w x, lead := r.lead.noteRegs w x }
  else { r with lead := r.lead.shift w x }

/-- A record after the trailing warp, changed from `t` to `u`, has received values; they are of the clause of the record, or not. -/
def PairRec.followTrail (r : PairRec) (own : Bool) (t u : Warp) : PairRec :=
  { r with trail := if own then r.trail.noteRegs t u else r.trail.shift t u }

/-! ## What the leading warp may do ahead -/

/-- The step stands for an instruction of a run. -/
def LagWhat.runs : LagWhat → Bool
  | .value _ _ _ => false
  | _ => true

/-- Threads that differ in their ages alone. -/
def Thread.sameButAge (t u : Thread) : Bool := { t with age := 0 } = { u with age := 0 }

/-- A warp has moved its issuing threads, which run, and nothing else of its threads but ages; it takes no trap. -/
def Warp.plainMove (w x : Warp) : Bool :=
  x.live && w.trap = x.trap && w.trapQueue = x.trapQueue && (List.range 32).all fun l =>
    if w.issue.getLsbD l then (w.thr l).st == .running && (x.thr l).st == .running && (w.thr l).mr == (x.thr l).mr && (x.thr l).replay.isNone
    else (w.thr l).sameButAge (x.thr l)

/-- The issuing group of a leading warp is one that runs ahead: outside trap mode, in no retry, with no error to be handled first, and with no
instruction to replay; `clause` says that it stands in one, whose record is its own. -/
def Warp.mayLead (w : Warp) : Bool :=
  w.issue != 0 && w.trap = none && w.trapQueue = [] && !w.struck && (lanesOf w.issue).all (fun l => (w.thr l).replay.isNone) &&
    match w.clause, w.recs.filter fun r => r.ofGroup w with
    | none, [] => true
    | some _, [r] => r.redo.isNone
    | _, _ => false

/-- The run of the last step that the trailing warp has still to make. -/
def Warp.lagRun (w : Warp) : Option Nat := ((w.lag.filter fun k => k.what.runs).getLast?).map (·.no)

/-- Lanes that stand at a place: a PC, in a clause or at a header. -/
def Warp.standing (w : Warp) (pc : DWord) (cl : Option DWord) : Mask :=
  w.lanes fun t => (t.st == .running || t.st == .trapped) && t.pc = pc && t.cl.map (·.hdr) = cl

/-- A step of the issuing group, at the place where it stands. -/
def Warp.stepHere (w : Warp) (no : Nat) (what : LagWhat) : LagStep :=
  { no, what, pc := w.pc, cl := w.clause.map (·.hdr), out := w.standing w.pc (w.clause.map (·.hdr)) &&& ~~~w.issue }

/-- A load that held the leading warp has settled and its group gone on, and no more: the trailing warp follows later. -/
def State.settledAhead (s : State) (w x : Warp) : Bool :=
  w.mayLead && w.clause.isSome && x.hold == .none && w.plainMove x && match w.hold with
    | .access id => (s.op? id).any fun o => o.kind.returns
    | _ => false

/-- Lanes of the group that have left the clause at whose record `r` they stood. -/
def leftLanes (r : PairRec) (w : Warp) : Mask := w.lanes fun t => match t.cl with
  | some c => c.hdr != r.hdr
  | none => true

/-- Steps of a run are still to be made by the trailing warp. -/
def Warp.lags (w : Warp) (no : Nat) : Bool := w.lag.any fun k => k.no = no

/-- Records from which the last lane has gone are dropped. -/
def Warp.dropRecs (w : Warp) : Warp := { w with recs := w.recs.filter fun r => r.mask != 0 || w.lags r.no }

/-- The record of a step that the leading warp has made ahead, and the step. -/
def Warp.noteAhead (x w : Warp) (r : PairRec) (act : List Acted) (k : LagStep) : Warp :=
  { x with
    recs := { r with mask := r.mask &&& ~~~leftLanes r x, lead := r.lead.note w x, acted := r.acted ++ act } :: x.recs.filter (fun q => q.no != r.no),
    lag := x.lag ++ [k] }

/-! ## A step that was no instruction of a pair (R338) -/

/-- The pair of slots `a` and `b` after such a step. The leading warp's values go to the trailing one at once when it has caught up, and else
into the load value queue. -/
def State.mirrorPair (s s' : State) (a b : Nat) : State :=
  let w := s.warp a
  let x := s'.warp a
  if w = x || w.uid ≠ x.uid || !x.live then s'
  else
    let vec := s.gotVec s' w x
    let sca := s.gotSca s' w x
    let ops := (s.cameBack s' w.uid).map Prod.fst
    let own := fun r : PairRec => r.returned s s'
    let x := { x with recs := x.recs.map fun r => r.followLead s s' w x }
    if s.settledAhead w x then
      let r := w.pairRec
      let held := match w.hold with | .access id => [id] | _ => []
      s'.setWarp a (x.noteAhead w ((x.recs.find? fun q => q.no = r.no).getD r) [] (w.stepHere r.no (.takes held vec sca)))
    else if w.lag = [] then
      let t := { s.warp b with active := (s'.warp b).active, stamp := (s'.warp b).stamp }
      let u := (t.follow w x).take vec sca
      (s'.setWarp a { x with recs := x.recs.map fun r => r.followTrail (own ((w.recs.find? fun q => q.no = r.no).getD r)) t u }).setWarp b u
    else if vec = [] && sca = [] then s'.setWarp a x
    else s'.setWarp a { x with lag := x.lag ++ [⟨((w.recs.find? own).map (·.no)).getD 0, 0, 0, none, .value ops vec sca⟩] }

/-- The leading warps with their partners. -/
def State.pairs (s : State) : List (Nat × Nat) :=
  s.warps.filterMap fun p => match p.2.role with
    | .leading b => if p.2.live then some (p.1, b) else none
    | _ => none

/-- Every pair follows a step, but for the pair at `own`, whose instruction it was. -/
def State.mirror (s s' : State) (own : Option Nat) : State :=
  s'.pairs.foldl (fun x p => if own = some p.1 then x else s.mirrorPair x p.1 p.2) s'

/-- A step does more to a leading warp that has run ahead than the trailing one can follow later: it moves or traps threads. -/
def State.disturbed (s s' : State) (a : Nat) : Bool :=
  let w := s.warp a
  let x := s'.warp a
  w.lag != [] && w.uid = x.uid && x.live && !(w.trap = x.trap && w.trapQueue = x.trapQueue
    && ((List.range 32).all fun l => (w.thr l).sameButAge (x.thr l)) || s.settledAhead w x)

/-! ## Outcomes (R406, R408, R462) -/

/-- The record of a mismatch. -/
def State.pairRecord (s : State) (a : Nat) (lanes : Mask) (hdr : DWord) (outcome : Nat) : State :=
  match s.launch? (s.warp a).launch with
  | none => s
  | some l => s.log 0x0203 (srcCore (coreOf a)) (launchTag l ++ [(30, 2, coreOf a), (32, 1, quadOf a % 4), (33, 1, a % 16),
      (34, 4, lanes.toNat), (40, 8, hdr.toNat), (48, 1, outcome)])

/-- Lanes that a retry takes back: those of the clause that run or are held in a `kwait`. -/
def PairRec.back (r : PairRec) (w : Warp) : Mask := r.lanes &&& w.lanes fun t => match t.st with
  | .running => true
  | .trapped => true
  | .heldK _ => true
  | _ => false

/-- The group in issue after a retry has the turn, but for a handler's (R54). -/
def Warp.takeTurn (w : Warp) : Warp := if w.trap.isSome then w else { w with turn := 0, turnMask := w.issue }

/-- A run of which the trailing warp has seen nothing, taken back by the leading one to its header. -/
def Warp.unrun (w : Warp) (r : PairRec) : Warp :=
  let m := r.back w
  (w.undone r.lead m).updThrs m fun _ t => { t.leave with pc := r.hdr }

/-- The trailing threads as they entered the clause of a record; one that has still to enter it does so now. -/
def PairRec.trailThreads (r : PairRec) (t : Warp) : Map Thread :=
  r.trail.threads ++ r.lead.threads.filter fun p => (Map.find? r.trail.threads p.1).isNone && (t.standing r.hdr none).getLsbD p.1

/-- Both warps before the first instruction of the clause of record `r` again. What the leading warp has done ahead is dropped: later runs go
back to their headers, and values that earlier clauses have received reach the trailing warp now. -/
def State.undoPair (s : State) (a b : Nat) (r : PairRec) : State :=
  let w := s.warp a
  let t := s.warp b
  let late := w.recs.filter fun q => r.no < q.no && w.lags q.no
  let w := (sortBy (fun p q => q.no ≤ p.no) late).foldl Warp.unrun w
  let u := w.lag.foldl (fun u k => match k.what with
    | .value _ vec sca => if k.no = r.no then u else u.take vec sca
    | _ => u) t
  let m := r.back w
  let threads := r.trailThreads u
  let x := ((w.undone r.lead m).takeTurn)
  (s.setWarp a { x with lag := [], recs := { r with mask := m, lanes := m } :: x.recs.filter fun q => !(q.no = r.no || late.contains q || q.ofGroup x) }).setWarp b
    ((u.undone { r.trail.shift t u with threads } (m &&& maskOf fun l => (Map.find? threads l).isSome)))

/-- The pair issues its clause again; effects that have acted stay on record (R406). -/
def State.retry (s : State) (a b : Nat) (r : PairRec) (lanes : Mask) : State :=
  (s.undoPair a b { r with redo := some (r.redo.getD 0 ||| lanes) }).sync a b

/-- No vote decides (R408): rollback when the header names a write set, else a trap at the clause header; `cause` is 1 or 2. -/
def State.pairFail (s : State) (a b : Nat) (lanes : Mask) (r : PairRec) (cause : Nat) : State :=
  let s := s.pairRecord a lanes r.hdr (if cause = 1 then 4 else 5)
  let lid := (s.warp a).launch
  if (s.launch? lid).any fun l => l.wsetVa != 0 then s.undoLaunch lid 1
  else
    let s := s.undoPair a b r
    let m := (s.warp a).issue
    let s := s.updWarp b fun t => t.updThrs (m &&& t.standing r.start (some r.hdr)) fun _ t => { t.leave with pc := r.hdr }
    let s := s.updWarp a fun w =>
      { w.updThrs m (fun _ t => { t.leave with pc := r.hdr }) with recs := w.recs.filter fun q => q.no != r.no }
    let w := s.warp a
    let s' := s.takeTrap { w.trapHere (0x0B00 + cause) with lanes, iw0 := s.headWord }
    if (s'.warp a).live then s'.updWarp b fun t => t.follow w (s'.warp a) else s'

/-! ## An error in state without poison (R433) -/

/-- The error strikes one warp's own state: a register file or a counter. -/
def warpState (kind : Nat) : Bool := kind = 1 || kind = 4

/-- The record whose clause a pair has in issue: the first that the trailing warp has not ended, or that of the issuing group. -/
def Warp.firstRec (w : Warp) : Option PairRec := match w.lag.find? fun k => k.what.runs with
  | some k => w.recs.find? fun r => r.no = k.no
  | none => if w.issue != 0 && w.clause.isSome then some w.pairRec else none

/-- An error in a warp of a pair, handled as a mismatch of the clause that it issues, or of the next one (R405 to R408, R433). -/
def State.strike (s : State) (a b : Nat) : State :=
  match (s.warp a).firstRec, (s.warp a).hold with
  | some r, .none => s.retry a b r r.lanes
  | _, _ => s.updWarp a fun w => { w with struck := true }

/-- The leading slot of the pair that a slot's warp belongs to, with its partner. -/
def State.pairOf (s : State) (slot : Nat) : Option (Nat × Nat) := match (s.warp slot).role with
  | .leading b => some (slot, b)
  | .trailing a => some (a, slot)
  | .solo => none

/-- UNCORRECTABLE_STATE_ERROR (R433), of the warp in a slot or of its core: of an assured launch, an error in one warp of a pair is a
mismatch first. -/
def execUncorrectableStateError (launch kind slot : Nat) (s : State) : Out :=
  .next (match s.launch? launch with
    | none => s
    | some l =>
      if l.st != .running || l.rolling.isSome || kind = 0 || 5 < kind then s
      else
        let s := s.log 0x0603 (srcCore (coreOf slot)) (launchTag l ++ [(30, 1, kind), (32, 2, coreOf slot)])
        match s.pairOf slot with
        | some (a, b) => if warpState kind && (s.warp slot).live && (s.warp slot).launch = launch then s.strike a b else s.undoLaunch launch 2
        | none => s.undoLaunch launch 2)

end Sys2Proof.Machine
end

