-- ==== Sys2Proof/Machine/Scalar.lean ====
section
/-! DEFINITION. The scalar instructions, SBIN and SIMM (R169, R170, R197 to R200): once for the warp, whatever `%exm`
holds (R192). -/

namespace Sys2Proof.Machine

/-- A scalar instruction of two 32-bit sources and a 32-bit result. -/
def State.sbin2 (s : State) (d : SReg) (a b : Src) (f : Word → Word → Word) : Out :=
  .next (s.sbin d (Uses.none.srcs [a, b]) fun w => f (w.rdS a) (w.rdS b))

/-- One of two 64-bit sources and a 64-bit result. -/
def State.sbin2w (s : State) (d : SReg) (a b : Src) (f : DWord → DWord → DWord) : Out :=
  .next (s.sbin64 d ((Uses.none.src 2 a).src 2 b) fun w => f (w.rdS64 a) (w.rdS64 b))

/-- One of a 64-bit source and a 32-bit count. -/
def State.sbinShift (s : State) (d : SReg) (a b : Src) (f : DWord → Word → DWord) : Out :=
  .next (s.sbin64 d ((Uses.none.src 2 a).src 1 b) fun w => f (w.rdS64 a) (w.rdS b))

/-- One of one source. -/
def State.sbin1 (s : State) (d : SReg) (a : Src) (f : Word → Word) : Out :=
  .next (s.sbin d (Uses.none.srcs [a]) fun w => f (w.rdS a))

/-- A scalar compare of two sources, into `sc` (R199). -/
def State.scmp (s : State) (a b : Src) (f : Word → Word → Bool) : Out :=
  .next (s.setSc (Uses.none.srcs [a, b]) fun w => f (w.rdS a) (w.rdS b))

/-- A scalar compare of two pairs, into `sc` (R199). -/
def State.scmp64 (s : State) (a b : Src) (f : DWord → DWord → Bool) : Out :=
  .next (s.setSc ((Uses.none.src 2 a).src 2 b) fun w => f (w.rdS64 a) (w.rdS64 b))

/-- A SIMM instruction that reads and writes `d` (R200). -/
def State.simm (s : State) (d : SReg) (f : Word → Word) : Out :=
  .next (s.sbin d (Uses.none.srcS d.toNat 1) fun w => f (w.s d.toNat))

/-- A SIMM compare of `d`, into `sc` (R200). -/
def State.simmCmp (s : State) (d : SReg) (f : Word → Bool) : Out :=
  .next (s.setSc (Uses.none.srcS d.toNat 1) fun w => f (w.s d.toNat))

/-! ## SBIN -/

/-- `iadd.b32` (R197). -/
def execSIaddB32 (d : SReg) (a b : Src) (s : State) : Out := s.sbin2 d a b fun a b => a + b

/-- `isub.b32` (R197). -/
def execSIsubB32 (d : SReg) (a b : Src) (s : State) : Out := s.sbin2 d a b fun a b => a - b

/-- `imul.b32` (R197). -/
def execSImulB32 (d : SReg) (a b : Src) (s : State) : Out := s.sbin2 d a b fun a b => a * b

/-- `imulhi.s32` (R197). -/
def execImulhiS32 (d : SReg) (a b : Src) (s : State) : Out := s.sbin2 d a b fun a b => mulhiS a b

/-- `imulhi.n32` (R197). -/
def execImulhiN32 (d : SReg) (a b : Src) (s : State) : Out := s.sbin2 d a b fun a b => mulhiN a b

/-- `and` (R197). -/
def execSAnd (d : SReg) (a b : Src) (s : State) : Out := s.sbin2 d a b fun a b => a &&& b

/-- `or` (R197). -/
def execSOr (d : SReg) (a b : Src) (s : State) : Out := s.sbin2 d a b fun a b => a ||| b

/-- `xor` (R197). -/
def execSXor (d : SReg) (a b : Src) (s : State) : Out := s.sbin2 d a b fun a b => a ^^^ b

/-- `andn` (R197). -/
def execAndn (d : SReg) (a b : Src) (s : State) : Out := s.sbin2 d a b fun a b => a &&& ~~~b

/-- `shl` (R197). -/
def execSShl (d : SReg) (a b : Src) (s : State) : Out := s.sbin2 d a b fun a b => shl32 a b

/-- `shr.n32` (R197). -/
def execSShrN32 (d : SReg) (a b : Src) (s : State) : Out := s.sbin2 d a b fun a b => shr32 a b

/-- `shr.s32` (R197). -/
def execSShrS32 (d : SReg) (a b : Src) (s : State) : Out := s.sbin2 d a b fun a b => sar32 a b

/-- `imin.s32` (R197). -/
def execSIminS32 (d : SReg) (a b : Src) (s : State) : Out := s.sbin2 d a b fun a b => minS a b

/-- `imin.n32` (R197). -/
def execSIminN32 (d : SReg) (a b : Src) (s : State) : Out := s.sbin2 d a b fun a b => minN a b

/-- `imax.s32` (R197). -/
def execSImaxS32 (d : SReg) (a b : Src) (s : State) : Out := s.sbin2 d a b fun a b => maxS a b

/-- `imax.n32` (R197). -/
def execSImaxN32 (d : SReg) (a b : Src) (s : State) : Out := s.sbin2 d a b fun a b => maxN a b

/-- `bfe.n32`: the field word is src1 (R198). -/
def execSBfeN32 (d : SReg) (a b : Src) (s : State) : Out := s.sbin2 d a b fun a b => bfe false a b

/-- `bfe.s32`: the field word is src1 (R198). -/
def execSBfeS32 (d : SReg) (a b : Src) (s : State) : Out := s.sbin2 d a b fun a b => bfe true a b

/-- `bfi.b32`: the base is the old value of the destination (R198). -/
def execSBfiB32 (d : SReg) (a b : Src) (s : State) : Out :=
  .next (s.sbin d ((Uses.none.srcs [a, b]).srcS d.toNat 1) fun w => bfi (w.rdS a) (w.s d.toNat) (w.rdS b))

/-- `iadd.b64` (R197). -/
def execSIaddB64 (d : SReg) (a b : Src) (s : State) : Out := s.sbin2w d a b fun a b => a + b

/-- `isub.b64` (R197). -/
def execIsubB64 (d : SReg) (a b : Src) (s : State) : Out := s.sbin2w d a b fun a b => a - b

/-- `shl.b64` (R197). -/
def execShlB64 (d : SReg) (a b : Src) (s : State) : Out := s.sbinShift d a b shl64

/-- `shr.n64` (R197). -/
def execShrN64 (d : SReg) (a b : Src) (s : State) : Out := s.sbinShift d a b shr64

/-- `shr.s64` (R197). -/
def execShrS64 (d : SReg) (a b : Src) (s : State) : Out := s.sbinShift d a b sar64

/-- `sel.b32`: a when `sc` is 1 (R197). -/
def execSelB32 (d : SReg) (a b : Src) (s : State) : Out :=
  .next (s.sbin d (Uses.none.srcs [a, b]) fun w => if w.sc then w.rdS a else w.rdS b)

/-- `cmp.eq.b32` (R199). -/
def execCmpEqB32 (a b : Src) (s : State) : Out := s.scmp a b fun a b => a == b

/-- `cmp.ne.b32` (R199). -/
def execCmpNeB32 (a b : Src) (s : State) : Out := s.scmp a b fun a b => a != b

/-- `cmp.lt.s32` (R199). -/
def execCmpLtS32 (a b : Src) (s : State) : Out := s.scmp a b fun a b => a.slt b

/-- `cmp.le.s32` (R199). -/
def execCmpLeS32 (a b : Src) (s : State) : Out := s.scmp a b fun a b => a.sle b

/-- `cmp.lt.n32` (R199). -/
def execCmpLtN32 (a b : Src) (s : State) : Out := s.scmp a b fun a b => a.ult b

/-- `cmp.le.n32` (R199). -/
def execCmpLeN32 (a b : Src) (s : State) : Out := s.scmp a b fun a b => a.ule b

/-- `cmp.eq.b64` (R199). -/
def execCmpEqB64 (a b : Src) (s : State) : Out := s.scmp64 a b fun a b => a == b

/-- `cmp.ne.b64` (R199). -/
def execCmpNeB64 (a b : Src) (s : State) : Out := s.scmp64 a b fun a b => a != b

/-- `popc` (R197). -/
def execSPopc (d : SReg) (a : Src) (s : State) : Out := s.sbin1 d a popc

/-- `clz` (R197). -/
def execSClz (d : SReg) (a : Src) (s : State) : Out := s.sbin1 d a clz

/-- `ctz` (R197). -/
def execCtz (d : SReg) (a : Src) (s : State) : Out := s.sbin1 d a ctz

/-! ## SIMM (R200) -/

/-- `movk`. -/
def execMovk (d : SReg) (imm : BitVec 16) (s : State) : Out := .next (s.sbin d Uses.none fun _ => imm.signExtend 32)

/-- `movhi`. -/
def execMovhi (d : SReg) (imm : BitVec 16) (s : State) : Out := s.simm d fun x => (x &&& 0xFFFF#32) ||| (imm ++ 0#16)

/-- `iaddk`. -/
def execIaddk (d : SReg) (imm : BitVec 16) (s : State) : Out := s.simm d fun x => x + imm.signExtend 32

/-- `mulk`. -/
def execMulk (d : SReg) (imm : BitVec 16) (s : State) : Out := s.simm d fun x => x * imm.signExtend 32

/-- `cmpk.eq`. -/
def execCmpkEq (d : SReg) (imm : BitVec 16) (s : State) : Out := s.simmCmp d fun x => x == imm.signExtend 32

/-- `cmpk.lt.s32`. -/
def execCmpkLtS32 (d : SReg) (imm : BitVec 16) (s : State) : Out := s.simmCmp d fun x => x.slt (imm.signExtend 32)

/-- `cmpk.lt.n32`. -/
def execCmpkLtN32 (d : SReg) (imm : BitVec 16) (s : State) : Out := s.simmCmp d fun x => x.ult (imm.setWidth 32)

end Sys2Proof.Machine
end

