-- ==== Sys2Proof/Machine/Spad.lean ====
section
/-! DEFINITION. The scratchpad instructions (R175, R236, R237). -/

namespace Sys2Proof.Machine

/-- `lds.b32`. -/
def execLdsB32 (d a : VReg) (imm : BitVec 9) (s : State) : Out := s.spad (spadLd 4 false) d a imm

/-- `lds.b64`. -/
def execLdsB64 (d a : VReg) (imm : BitVec 9) (s : State) : Out := s.spad (spadLd 8 false) d a imm

/-- `lds.b128`. -/
def execLdsB128 (d a : VReg) (imm : BitVec 9) (s : State) : Out := s.spad (spadLd 16 false) d a imm

/-- `sts.b32`. -/
def execStsB32 (d a : VReg) (imm : BitVec 9) (s : State) : Out := s.spad (spadSt 4) d a imm

/-- `sts.b64`. -/
def execStsB64 (d a : VReg) (imm : BitVec 9) (s : State) : Out := s.spad (spadSt 8) d a imm

/-- `sts.b128`. -/
def execStsB128 (d a : VReg) (imm : BitVec 9) (s : State) : Out := s.spad (spadSt 16) d a imm

/-- `lds.n8`. -/
def execLdsN8 (d a : VReg) (imm : BitVec 9) (s : State) : Out := s.spad (spadLd 1 false) d a imm

/-- `lds.s8`. -/
def execLdsS8 (d a : VReg) (imm : BitVec 9) (s : State) : Out := s.spad (spadLd 1 true) d a imm

/-- `lds.n16`. -/
def execLdsN16 (d a : VReg) (imm : BitVec 9) (s : State) : Out := s.spad (spadLd 2 false) d a imm

/-- `lds.s16`. -/
def execLdsS16 (d a : VReg) (imm : BitVec 9) (s : State) : Out := s.spad (spadLd 2 true) d a imm

/-- `sts.b8`. -/
def execStsB8 (d a : VReg) (imm : BitVec 9) (s : State) : Out := s.spad (spadSt 1) d a imm

/-- `sts.b16`. -/
def execStsB16 (d a : VReg) (imm : BitVec 9) (s : State) : Out := s.spad (spadSt 2) d a imm

/-- `satom.iadd`. -/
def execSatomIadd (d a : VReg) (imm : BitVec 9) (s : State) : Out := s.spad (spadAtom .iadd) d a imm

/-- `satom.imin.s`. -/
def execSatomIminS (d a : VReg) (imm : BitVec 9) (s : State) : Out := s.spad (spadAtom .iminS) d a imm

/-- `satom.imax.s`. -/
def execSatomImaxS (d a : VReg) (imm : BitVec 9) (s : State) : Out := s.spad (spadAtom .imaxS) d a imm

/-- `satom.cas`. -/
def execSatomCas (d a : VReg) (imm : BitVec 9) (s : State) : Out := s.spad spadCas d a imm

/-- `satom.xchg`. -/
def execSatomXchg (d a : VReg) (imm : BitVec 9) (s : State) : Out := s.spad (spadAtom .xchg) d a imm

/-- `satom.fadd.f32`. -/
def execSatomFaddF32 (d a : VReg) (imm : BitVec 9) (s : State) : Out := s.spad (spadAtom .faddF32) d a imm

/-- `satom.imin.n`. -/
def execSatomIminN (d a : VReg) (imm : BitVec 9) (s : State) : Out := s.spad (spadAtom .iminN) d a imm

/-- `satom.imax.n`. -/
def execSatomImaxN (d a : VReg) (imm : BitVec 9) (s : State) : Out := s.spad (spadAtom .imaxN) d a imm

/-- `satom.or`. -/
def execSatomOr (d a : VReg) (imm : BitVec 9) (s : State) : Out := s.spad (spadAtom .or) d a imm

/-- `satom.and`. -/
def execSatomAnd (d a : VReg) (imm : BitVec 9) (s : State) : Out := s.spad (spadAtom .and) d a imm

end Sys2Proof.Machine
end

