-- ==== Sys2Proof/Machine/Sync.lean ====
section
/-! DEFINITION. Synchronisation: block and cluster barriers (R240 to R244), transaction barriers (R245 to R247), mask
synchronisation (R39 to R41, R249), fences and waits (R132, R238, R239), `icinv` and `isync` (R250, R251). -/

namespace Sys2Proof.Machine

/-! ## Block and cluster barriers -/

/-- The barrier that an instruction of the issuing warp names: block or cluster, and number. -/
def State.barrier (s : State) (cluster : Bool) (n : Nat) : Barrier :=
  let b := s.block s.cw.block
  if cluster then Map.get (s.cluster b.cluster).bars Barrier.start n else Map.get b.bars Barrier.start n

/-- Barriers of clusters and of blocks on more cores than one are at `grp` scope (R144). -/
def State.barWide (s : State) (cluster : Bool) : Bool := cluster || 1 < (s.block s.cw.block).cores.length

/-- A thread's armed bit and phase of arrival. -/
def Thread.armed (t : Thread) (cluster : Bool) (n : Nat) : Bool := if cluster then t.armC.getLsbD n else t.armB.getLsbD n
def Thread.armPhase (t : Thread) (cluster : Bool) (n : Nat) : Bool := if cluster then t.phC.getLsbD n else t.phB.getLsbD n

/-- Bit `n` of a word of 16 set to a value. -/
def putBit (x : BitVec 16) (n : Nat) (b : Bool) : BitVec 16 := if b then x ||| bit16 n else x &&& ~~~bit16 n

/-- A thread with its armed bit and phase written. -/
def Thread.arm (t : Thread) (cluster : Bool) (n : Nat) (armed phase : Bool) : Thread :=
  if cluster then { t with armC := putBit t.armC n armed, phC := putBit t.phC n phase }
  else { t with armB := putBit t.armB n armed, phB := putBit t.phB n phase }

/-- Barrier misuse: nothing changes (R241, R242, R413). -/
def State.misuse (s : State) (cause : Nat) (m : Mask) (at_ : DWord) : State :=
  s.takeTrap { s.cw.trapHere (0x0800 + cause) with lanes := m, addr := at_, info := BitVec.ofNat 32 (opField s.cw.iw0) }

/-- Arrivals of the threads of `m` counted at a barrier; a pair counts once, by its leading warp (R241, R338). -/
def State.arrive (s : State) (cluster : Bool) (n : Nat) (m : Mask) : State :=
  let b := s.cw.block
  let cid := (s.block b).cluster
  let x := s.barrier cluster n
  let y := { x with count := x.count + (if s.cw.role.counts then countOf m else 0) }
  let s := s.updCw fun w => w.updThrs m fun _ t => t.arm cluster n true x.phase
  if cluster then s.updCluster cid fun c => { c with bars := Map.set c.bars Barrier.start n y }
  else s.updBlock b fun k => { k with bars := Map.set k.bars Barrier.start n y }

/-- check_completion of the barrier named (R243). -/
def State.barDone (s : State) (cluster : Bool) (n : Nat) : State :=
  if cluster then s.cbarCheck (s.block s.cw.block).cluster n else s.barCheck s.cw.block n

/-- Participating threads already arrived in the open phase (R241). -/
def State.arrivedTwice (s : State) (cluster : Bool) (n : Nat) (m : Mask) : Bool :=
  (m &&& s.cw.lanes fun t => t.armed cluster n && t.armPhase cluster n == (s.barrier cluster n).phase) != 0

/-- A barrier instruction: a delivery point (R394). It waits for an acquire in progress (R131), an arrival for a held release, whose
writes it must not pass (R130), and at `grp` scope for the drain set (R144). -/
def State.barPoint (s : State) (cluster arrives : Bool) (k : State → State) : State :=
  s.deliver none fun s =>
    if s.acqPending s.cur || (arrives && (s.relPending s.cur || (s.barWide cluster && !s.allAcked (s.drainSet s.cur)))) then s else k s

/-- `bar.arv` and `cbar.arv` (R241, R244). -/
def State.barArrive (s : State) (cluster : Bool) (p : Pred) (id : BitVec 4) : Out :=
  .next (s.barPoint cluster true fun s =>
    let n := id.toNat
    let m := s.cw.predMask p
    if s.arrivedTwice cluster n m then s.misuse 1 m (BitVec.ofNat 64 n)
    else
      let s := s.arrive cluster n m
      (if m = 0 then s else s.barDone cluster n).finish 1)

/-- The waiting part of a barrier instruction: threads whose phase is done go on, the others wait (R242). -/
def State.barWait (s : State) (cluster : Bool) (n : Nat) (m : Mask) : State :=
  let x := s.barrier cluster n
  let done := m &&& s.cw.lanes fun t => t.armPhase cluster n != x.phase
  let s := s.updCw fun w =>
    let w := w.updThrs done fun _ t => t.arm cluster n false (t.armPhase cluster n)
    w.updThrs (m &&& ~~~done) fun _ t => { t with st := .waitBar cluster (BitVec.ofNat 4 n) }
  if done = 0 then s else s.barAcquire s.cur (s.barWide cluster)

/-- `bar.wt` and `cbar.wt` (R242, R244). -/
def State.barWaits (s : State) (cluster : Bool) (p : Pred) (id : BitVec 4) : Out :=
  .next (s.barPoint cluster false fun s =>
    let n := id.toNat
    let m := s.cw.predMask p
    if m &&& ~~~(s.cw.lanes fun t => t.armed cluster n) != 0 then s.misuse 2 m (BitVec.ofNat 64 n)
    else (s.barWait cluster n m).finish 1)

/-- `bar.arv`. -/
def execBarArv (p : Pred) (id : BitVec 4) (s : State) : Out := s.barArrive false p id

/-- `bar.wt`. -/
def execBarWt (p : Pred) (id : BitVec 4) (s : State) : Out := s.barWaits false p id

/-- `bar.sync`: arrival, then the wait; its own arrival arms every participating thread (R242). -/
def execBarSync (p : Pred) (id : BitVec 4) (s : State) : Out :=
  .next (s.barPoint false true fun s =>
    let n := id.toNat
    let m := s.cw.predMask p
    if s.arrivedTwice false n m then s.misuse 1 m (BitVec.ofNat 64 n)
    else
      let s := (s.arrive false n m).updCw fun w => w.updThrs m fun _ t => { t with st := .waitBar false id }
      let b := s.cw.block
      let s := s.finish 1
      if m = 0 then s else s.barCheck b n)

/-- `cbar.arv`. -/
def execCbarArv (p : Pred) (id : BitVec 4) (s : State) : Out := s.barArrive true p id

/-- `cbar.wt`. -/
def execCbarWt (p : Pred) (id : BitVec 4) (s : State) : Out := s.barWaits true p id

/-! ## Transaction barriers -/

/-- The frame of a memory fault at a transaction-barrier instruction: precise, with lane records (R245, R390). -/
def State.txbFault (s : State) (cause : Nat) (m : Mask) (off : DWord) (write : Bool) : State :=
  s.takeTrap { s.cw.trapHere (0x0200 + cause) with
    lanes := m, addr := off, info := BitVec.ofNat 32 (opField s.cw.iw0 + 2 * 256 + 4096 + b2n write * 32768),
    recs := (lanesOf m).map fun l => (l, ⟨off, [], 0, BitVec.ofNat 8 cause, 2⟩) }

/-- A transaction-barrier instruction: it waits for an acquire in progress, and one that releases for a held release (R130, R131);
operands readable, some thread participating, the offset aligned, inside the slice and
not locked (R153, R245, R246); then `k` of the block, its core, the offset and the participating threads. -/
def State.txbOp (s : State) (p : Pred) (sa : SReg) (more : List Nat) (write : Bool) (k : State → Nat → Nat → Nat → Mask → State) : State :=
  if s.acqPending s.cur || (write && s.relPending s.cur) then s
  else s.guard { Uses.none with sr := sa.toNat :: more } fun s =>
    let w := s.cw
    let m := w.predMask p
    let off := (w.s sa.toNat).setWidth 64
    if m = 0 then s.finish 1
    else if off.toNat % 16 ≠ 0 then s.txbFault 2 m off write
    else if s.sliceOf w.block < off.toNat + 16 then s.txbFault 3 m off write
    else
      let hits := s.lockLanes false 0 0 w.block write [(lowest m, off.toNat, 16)]
      if hits != [] then
        s.takeTrap { w.trapHere (0x0300 + (hits.headD (0, 0, 1)).2.2) with
          lanes := m, addr := off, info := BitVec.ofNat 32 (opField w.iw0 + 2 * 256 + 4096 + b2n write * 32768) }
      else k s w.block (s.coreInBlock w) off.toNat m

/-- `txb.init`: no completion check (R246, R247). -/
def execTxbInit (p : Pred) (sa sb : SReg) (s : State) : Out :=
  .next (s.txbOp p sa [sb.toNat] true fun s b j off _ =>
    (s.txbWrite b j off ⟨0, 0, (s.txbRead b j off).gen, (s.cw.s sb.toNat).toNat % 65536, 0⟩).finish 1)

/-- `txb.exp`: an overflow leaves the object unchanged (R246). -/
def execTxbExp (p : Pred) (sa sb : SReg) (s : State) : Out :=
  .next (s.txbOp p sa [sb.toNat] true fun s b j off _ =>
    let t := s.txbRead b j off
    let n := t.tgtb + (s.cw.s sb.toNat).toNat
    if 2 ^ 32 ≤ n then s.takeTrap { s.cw.trapHere 0x0901 with addr := BitVec.ofNat 64 off }
    else (s.txbUpdate b j off { t with tgtb := n }).finish 1)

/-- `txb.arv`: a delivery point (R394). -/
def execTxbArv (p : Pred) (sa : SReg) (s : State) : Out :=
  .next (s.deliver none fun s => s.txbOp p sa [] true fun s b j off m =>
    let t := s.txbRead b j off
    let n := t.arrt + countOf m
    if t.expt < n then s.misuse 3 m (BitVec.ofNat 64 off)
    else (s.txbUpdate b j off { t with arrt := n }).finish 1)

/-- `txb.wt`: a thread goes on when the generation differs, else it waits for it to change (R246). -/
def execTxbWt (p : Pred) (sa sb : SReg) (s : State) : Out :=
  .next (s.deliver none fun s => s.txbOp p sa [sb.toNat] false fun s b j off m =>
    let gen := s.cw.s sb.toNat
    if (s.txbRead b j off).gen ≠ gen.toNat then (s.barAcquire s.cur false).finish 1
    else (s.updCw fun w => w.updThrs m fun _ t => { t with st := .waitTxb (BitVec.ofNat 32 off) gen }).finish 1)

/-! ## Mask synchronisation -/

/-- `kjoin` (R39). -/
def execKjoin (p : Pred) (k : KReg) (s : State) : Out :=
  .next ((s.updCw fun w => w.setK k.toNat (w.k k.toNat ||| w.predMask p)).finish 1)

/-- `kleave` (R39, R41). -/
def execKleave (p : Pred) (k : KReg) (s : State) : Out :=
  .next ((s.updCw fun w =>
    let e := w.predMask p
    { w.setK k.toNat (w.k k.toNat &&& ~~~e) with arrive := Map.upd w.arrive 0 k.toNat (· &&& ~~~e) }).finish 1)

/-- `kwait`: threads whose bit is set are held; k0 holds none (R40). -/
def execKwait (p : Pred) (k : KReg) (s : State) : Out :=
  .next ((s.updCw fun w =>
    if k = 0 then w
    else
      let e := w.predMask p &&& w.k k.toNat
      { w.updThrs e (fun _ t => { t with st := .heldK k }) with arrive := Map.upd w.arrive 0 k.toNat (· ||| e) }).finish 1)

/-! ## Fences and waits -/

/-- `fence` (R132, R238): the release part waits for the drain set at `grp` scope or wider, the acquire part for the earlier
loads and atomics, then it invalidates L1 or marks the drain point. It is a delivery point. -/
def execFence (order : Order) (scope : Scope) (s : State) : Out :=
  .next (s.deliver none fun s =>
    let drain := match s.cw.hold with
      | .fence d => d
      | _ => s.drainSet s.cur
    if s.acqPending s.cur || (order.releases && s.relPending s.cur && !scope.wide) then s
    else if order.releases && scope.wide && !s.allAcked drain then s.updCw fun w => { w with hold := .fence drain }
    else if order.acquires && scope != .wp && s.loadsOut s.cur != [] then s.updCw fun w => { w with hold := .fence drain }
    else
      let s := s.updCw fun w => { w with hold := .none }
      let s := if order.acquires then s.acquire s.cur (coreOf s.cur) scope else s
      s.finish 1)

/-- `waitd` (R239): a delivery point for the counters that it names (R394). -/
def execWaitd (mask : BitVec 6) (s : State) : Out :=
  .next (if !s.cw.countersZero mask then s else s.deliver (some mask) fun s => s.finish 1)

/-! ## Instruction caches -/

/-- `icinv` begins (R250): with no bytes it has no effect, else the warp issues nothing until the invalidation is made. -/
def execIcinv (dev : Bool) (p : BitVec 5) (len : SReg) (s : State) : Out :=
  .next (s.guard { Uses.none with sr := [2 * p.toNat, 2 * p.toNat + 1, len.toNat] } fun s =>
    let w := s.cw
    let n := w.s len.toNat
    if n = 0 then s.finish 1
    else (s.updCw fun w => { w with hold := .icinv dev (w.s64 (2 * p.toNat)) n }).finish 1)

/-- Lines of a range that leave the instruction cache of a core. -/
def State.icDrop (s : State) (core vf asid : Nat) (va : DWord) (len : Word) : State :=
  s.dropIRange core vf asid (min va.toNat (2 ^ 52)) (min (va.toNat + len.toNat) (2 ^ 52))

/-- ICINV_COMPLETE (R250). -/
def execIcinvComplete (slot : Nat) (s : State) : Out :=
  .next (match (s.warp slot).hold with
    | .icinv dev va len =>
      let (vf, asid) := s.space (s.warp slot)
      let s := if dev then (List.range 384).foldl (fun s c => s.icDrop c vf asid va len) s else s.icDrop (coreOf slot) vf asid va len
      s.updWarp slot fun w => { w with hold := .none }
    | _ => s)

/-- `isync` (R251): the words fetched ahead are dropped. -/
def execIsync (s : State) : Out := .next ((s.updCw fun w => { w with fetched := [] }).finish 1)

end Sys2Proof.Machine
end

