-- ==== Sys2Proof/Machine/Vector.lean ====
section
/-! DEFINITION. The vector arithmetic instructions, VBIN and VWIDE (R171, R192 to R198, R201 to R206). -/

namespace Sys2Proof.Machine

/-! ## Shared forms -/

/-- The bound of an integer result: 0 when every source is exact, else unbounded (R86). -/
def intLV (v : Word) (xs : List LV) : LV := ⟨v, bndInt (xs.map (·.bnd))⟩

/-- An integer VBIN instruction. -/
def State.vbinInt (s : State) (d : VReg) (a b : Src) (f : Word → Word → Word) : Out :=
  .next (s.vbin d [a, b] fun w l => let x := w.rd .word a l; let y := w.rd .word b l; intLV (f x.val y.val) [x, y])

/-- An integer VWIDE instruction of two sources. -/
def State.wideInt2 (s : State) (m : Wide) (a b : Src) (f : Word → Word → Word) : Out :=
  .next (s.vwide m [a, b] fun e w l =>
    let x := w.rdX .word m.xl e a l; let y := w.rd .word b l; intLV (f x.val y.val) [x, y])

/-- Of three sources. -/
def State.wideInt3 (s : State) (m : Wide) (a b c : Src) (f : Word → Word → Word → Word) : Out :=
  .next (s.vwide m [a, b, c] fun e w l =>
    let x := w.rdX .word m.xl e a l; let y := w.rd .word b l; let z := w.rd .word c l; intLV (f x.val y.val z.val) [x, y, z])

/-- Of one source. -/
def State.wideInt1 (s : State) (m : Wide) (a : Src) (f : Word → Word) : Out :=
  .next (s.vwide m [a] fun e w l => let x := w.rdX .word m.xl e a l; intLV (f x.val) [x])

/-- A VWIDE instruction with a 64-bit result, which takes no pattern and no capture (R195): sources with their sizes in
registers, and `f` of the warp and lane. -/
def State.wide64 (s : State) (m : Wide) (xs : List (Nat × Src)) (f : Warp → Nat → DWord × Bnd) : Out :=
  let u := xs.foldl (fun u x => u.src x.1 x.2) Uses.none
  .next (s.guard (if m.nw then u else u.dstV m.d.toNat 2) fun s =>
    (s.updCw fun w => if m.nw then w else w.write64 (w.effP m.pred) m.d.toNat (f w)).finish 2)

/-- FP32 sources of a VWIDE instruction with their modifiers (R195). -/
def Warp.f0 (w : Warp) (m : Wide) (e : Mask) (a : Src) (l : Nat) : Opnd := opF32 (modF32 (m.neg.getLsbD 0) m.abs (w.rdX .word m.xl e a l))
def Warp.f1 (w : Warp) (m : Wide) (b : Src) (l : Nat) : Opnd := opF32 (modF32 (m.neg.getLsbD 1) false (w.rd .word b l))
def Warp.f2 (w : Warp) (m : Wide) (c : Src) (l : Nat) : Opnd := opF32 (modF32 (m.neg.getLsbD 2) false (w.rd .word c l))

/-- `gstep` of `%budget` (R68). -/
def Warp.gstep (w : Warp) : Nat := w.budget.toNat % 64

/-- A governed instruction: the level is chosen once for the lanes `e` (R90), then each lane computes at it (R89). -/
def Warp.governed (w : Warp) (e : Mask) (rnd : Rnd) (prec : BitVec 2) (f : Nat → Governed) (l : Nat) : LV :=
  governedLane (govern w.gstep rnd prec ((lanesOf e).map f)) rnd (f l)

/-- A governed VBIN instruction, RNE (R201). -/
def State.vbinGov (s : State) (d : VReg) (a b : Src) (f : Opnd → Opnd → Governed) : Out :=
  .next (s.vbin d [a, b] fun w l =>
    w.governed w.eff .rne 0 (fun l => f (opF32 (w.rd .word a l)) (opF32 (w.rd .word b l))) l)

/-- A governed VWIDE instruction of two sources (R201). -/
def State.wideGov2 (s : State) (m : Wide) (a b : Src) (f : Opnd → Opnd → Governed) : Out :=
  .next (s.vwide m [a, b] fun e w l => w.governed e m.rnd m.prec (fun l => f (w.f0 m e a l) (w.f1 m b l)) l)

/-- A packed source of the element format with its modifiers (R203). -/
def Warp.p0 (w : Warp) (as_ : ReadAs) (m : Wide) (e : Mask) (a : Src) (l : Nat) : LV :=
  modPacked (m.neg.getLsbD 0) m.abs (w.rdX as_ m.xl e a l)
def Warp.p1 (w : Warp) (as_ : ReadAs) (m : Wide) (b : Src) (l : Nat) : LV := modPacked (m.neg.getLsbD 1) false (w.rd as_ b l)
def Warp.p2 (w : Warp) (as_ : ReadAs) (m : Wide) (c : Src) (l : Nat) : LV := modPacked (m.neg.getLsbD 2) false (w.rd as_ c l)

/-- `f` of both elements of two packed sources (R203). -/
def packed2 (sp : FpSpec) (f : Opnd → Opnd → Nat × Bnd) (x y : LV) : LV :=
  packLane (f (elem sp x 0) (elem sp y 0)) (f (elem sp x 1) (elem sp y 1))

/-- A packed VBIN instruction, RNE. -/
def State.vbinPacked (s : State) (d : VReg) (as_ : ReadAs) (sp : FpSpec) (a b : Src) (f : Opnd → Opnd → Nat × Bnd) : Out :=
  .next (s.vbin d [a, b] fun w l => packed2 sp f (w.rd as_ a l) (w.rd as_ b l))

/-- A packed VWIDE instruction of two sources. -/
def State.widePacked2 (s : State) (m : Wide) (as_ : ReadAs) (sp : FpSpec) (a b : Src) (f : Opnd → Opnd → Nat × Bnd) : Out :=
  .next (s.vwide m [a, b] fun e w l => packed2 sp f (w.p0 as_ m e a l) (w.p1 as_ m b l))

/-- A packed fused multiply-add (R203). -/
def State.widePacked3 (s : State) (m : Wide) (as_ : ReadAs) (sp : FpSpec) (a b c : Src) : Out :=
  .next (s.vwide m [a, b, c] fun e w l =>
    let x := w.p0 as_ m e a l; let y := w.p1 as_ m b l; let z := w.p2 as_ m c l
    packLane (fmaElem sp m.rnd (elem sp x 0) (elem sp y 0) (elem sp z 0)) (fmaElem sp m.rnd (elem sp x 1) (elem sp y 1) (elem sp z 1)))

/-- A `dot2` (R204): a and b packed, c FP32. -/
def State.wideDot2 (s : State) (m : Wide) (as_ : ReadAs) (sp : FpSpec) (a b c : Src) : Out :=
  .next (s.vwide m [a, b, c] fun e w l =>
    let x := w.p0 as_ m e a l; let y := w.p1 as_ m b l
    dot2Lane m.rnd (elem sp x 0) (elem sp x 1) (elem sp y 0) (elem sp y 1) (w.f2 m c l))

/-- An FP32 VBIN selection (R202). -/
def State.vbinF (s : State) (d : VReg) (a b : Src) (f : Opnd → Opnd → LV) : Out :=
  .next (s.vbin d [a, b] fun w l => f (opF32 (w.rd .word a l)) (opF32 (w.rd .word b l)))

/-- An FP32 VWIDE selection (R202). -/
def State.wideF (s : State) (m : Wide) (a b : Src) (f : Opnd → Opnd → LV) : Out :=
  .next (s.vwide m [a, b] fun e w l => f (w.f0 m e a l) (w.f1 m b l))

/-! ## VBIN (R197, R201 to R203) -/

/-- `iadd.b32`. -/
def execVIaddB32 (d : VReg) (a b : Src) (s : State) : Out := s.vbinInt d a b fun a b => a + b

/-- `isub.b32`. -/
def execVIsubB32 (d : VReg) (a b : Src) (s : State) : Out := s.vbinInt d a b fun a b => a - b

/-- `imul.b32`. -/
def execVImulB32 (d : VReg) (a b : Src) (s : State) : Out := s.vbinInt d a b fun a b => a * b

/-- `and`. -/
def execVAnd (d : VReg) (a b : Src) (s : State) : Out := s.vbinInt d a b fun a b => a &&& b

/-- `or`. -/
def execVOr (d : VReg) (a b : Src) (s : State) : Out := s.vbinInt d a b fun a b => a ||| b

/-- `xor`. -/
def execVXor (d : VReg) (a b : Src) (s : State) : Out := s.vbinInt d a b fun a b => a ^^^ b

/-- `shl`. -/
def execVShl (d : VReg) (a b : Src) (s : State) : Out := s.vbinInt d a b fun a b => shl32 a b

/-- `shr.n32`. -/
def execVShrN32 (d : VReg) (a b : Src) (s : State) : Out := s.vbinInt d a b fun a b => shr32 a b

/-- `shr.s32`. -/
def execVShrS32 (d : VReg) (a b : Src) (s : State) : Out := s.vbinInt d a b fun a b => sar32 a b

/-- `imin.s32`. -/
def execVIminS32 (d : VReg) (a b : Src) (s : State) : Out := s.vbinInt d a b fun a b => minS a b

/-- `imin.n32`. -/
def execVIminN32 (d : VReg) (a b : Src) (s : State) : Out := s.vbinInt d a b fun a b => minN a b

/-- `imax.s32`. -/
def execVImaxS32 (d : VReg) (a b : Src) (s : State) : Out := s.vbinInt d a b fun a b => maxS a b

/-- `imax.n32`. -/
def execVImaxN32 (d : VReg) (a b : Src) (s : State) : Out := s.vbinInt d a b fun a b => maxN a b

/-- `fadd.f32`. -/
def execVFaddF32 (d : VReg) (a b : Src) (s : State) : Out := s.vbinGov d a b govAdd

/-- `fsub.f32`. -/
def execVFsubF32 (d : VReg) (a b : Src) (s : State) : Out := s.vbinGov d a b govSub

/-- `fmul.f32`. -/
def execVFmulF32 (d : VReg) (a b : Src) (s : State) : Out := s.vbinGov d a b govMul

/-- `fmin.f32`. -/
def execVFminF32 (d : VReg) (a b : Src) (s : State) : Out := s.vbinF d a b fminLane

/-- `fmax.f32`. -/
def execVFmaxF32 (d : VReg) (a b : Src) (s : State) : Out := s.vbinF d a b fmaxLane

/-- `mov.b32`: the value with its bound (R86). -/
def execVMovB32 (d : VReg) (a : Src) (s : State) : Out := .next (s.vbin d [a] fun w l => w.rd .word a l)

/-- `fadd.f16x2`. -/
def execVFaddF16x2 (d : VReg) (a b : Src) (s : State) : Out := s.vbinPacked d .f16 spF16 a b (addElem spF16 .rne)

/-- `fmul.f16x2`. -/
def execVFmulF16x2 (d : VReg) (a b : Src) (s : State) : Out := s.vbinPacked d .f16 spF16 a b (mulElem spF16 .rne)

/-- `fadd.bf16x2`. -/
def execVFaddBf16x2 (d : VReg) (a b : Src) (s : State) : Out := s.vbinPacked d .bf16 spBf16 a b (addElem spBf16 .rne)

/-- `fmul.bf16x2`. -/
def execVFmulBf16x2 (d : VReg) (a b : Src) (s : State) : Out := s.vbinPacked d .bf16 spBf16 a b (mulElem spBf16 .rne)

/-! ## VWIDE forms of the VBIN operations -/

/-- `iadd.b32`. -/
def execWIaddB32 (m : Wide) (a b : Src) (s : State) : Out := s.wideInt2 m a b fun a b => a + b

/-- `isub.b32`. -/
def execWIsubB32 (m : Wide) (a b : Src) (s : State) : Out := s.wideInt2 m a b fun a b => a - b

/-- `imul.b32`. -/
def execWImulB32 (m : Wide) (a b : Src) (s : State) : Out := s.wideInt2 m a b fun a b => a * b

/-- `and`. -/
def execWAnd (m : Wide) (a b : Src) (s : State) : Out := s.wideInt2 m a b fun a b => a &&& b

/-- `or`. -/
def execWOr (m : Wide) (a b : Src) (s : State) : Out := s.wideInt2 m a b fun a b => a ||| b

/-- `xor`. -/
def execWXor (m : Wide) (a b : Src) (s : State) : Out := s.wideInt2 m a b fun a b => a ^^^ b

/-- `shl`. -/
def execWShl (m : Wide) (a b : Src) (s : State) : Out := s.wideInt2 m a b fun a b => shl32 a b

/-- `shr.n32`. -/
def execWShrN32 (m : Wide) (a b : Src) (s : State) : Out := s.wideInt2 m a b fun a b => shr32 a b

/-- `shr.s32`. -/
def execWShrS32 (m : Wide) (a b : Src) (s : State) : Out := s.wideInt2 m a b fun a b => sar32 a b

/-- `imin.s32`. -/
def execWIminS32 (m : Wide) (a b : Src) (s : State) : Out := s.wideInt2 m a b fun a b => minS a b

/-- `imin.n32`. -/
def execWIminN32 (m : Wide) (a b : Src) (s : State) : Out := s.wideInt2 m a b fun a b => minN a b

/-- `imax.s32`. -/
def execWImaxS32 (m : Wide) (a b : Src) (s : State) : Out := s.wideInt2 m a b fun a b => maxS a b

/-- `imax.n32`. -/
def execWImaxN32 (m : Wide) (a b : Src) (s : State) : Out := s.wideInt2 m a b fun a b => maxN a b

/-- `fadd.f32`. -/
def execWFaddF32 (m : Wide) (a b : Src) (s : State) : Out := s.wideGov2 m a b govAdd

/-- `fsub.f32`. -/
def execWFsubF32 (m : Wide) (a b : Src) (s : State) : Out := s.wideGov2 m a b govSub

/-- `fmul.f32`. -/
def execWFmulF32 (m : Wide) (a b : Src) (s : State) : Out := s.wideGov2 m a b govMul

/-- `fmin.f32`. -/
def execWFminF32 (m : Wide) (a b : Src) (s : State) : Out := s.wideF m a b fminLane

/-- `fmax.f32`. -/
def execWFmaxF32 (m : Wide) (a b : Src) (s : State) : Out := s.wideF m a b fmaxLane

/-- `mov.b32`. -/
def execWMovB32 (m : Wide) (a : Src) (s : State) : Out := .next (s.vwide m [a] fun e w l => w.rdX .word m.xl e a l)

/-- `fadd.f16x2`. -/
def execWFaddF16x2 (m : Wide) (a b : Src) (s : State) : Out := s.widePacked2 m .f16 spF16 a b (addElem spF16 m.rnd)

/-- `fmul.f16x2`. -/
def execWFmulF16x2 (m : Wide) (a b : Src) (s : State) : Out := s.widePacked2 m .f16 spF16 a b (mulElem spF16 m.rnd)

/-- `fadd.bf16x2`. -/
def execWFaddBf16x2 (m : Wide) (a b : Src) (s : State) : Out := s.widePacked2 m .bf16 spBf16 a b (addElem spBf16 m.rnd)

/-- `fmul.bf16x2`. -/
def execWFmulBf16x2 (m : Wide) (a b : Src) (s : State) : Out := s.widePacked2 m .bf16 spBf16 a b (mulElem spBf16 m.rnd)

/-! ## Further VWIDE operations -/

/-- `ffma.f32` (R201). -/
def execFfmaF32 (m : Wide) (a b c : Src) (s : State) : Out :=
  .next (s.vwide m [a, b, c] fun e w l =>
    w.governed e m.rnd m.prec (fun l => govFma (w.f0 m e a l) (w.f1 m b l) (w.f2 m c l)) l)

/-- `ffma.f16x2`. -/
def execFfmaF16x2 (m : Wide) (a b c : Src) (s : State) : Out := s.widePacked3 m .f16 spF16 a b c

/-- `ffma.bf16x2`. -/
def execFfmaBf16x2 (m : Wide) (a b c : Src) (s : State) : Out := s.widePacked3 m .bf16 spBf16 a b c

/-- `imad`. -/
def execImad (m : Wide) (a b c : Src) (s : State) : Out := s.wideInt3 m a b c fun a b c => a * b + c

/-- `imadhi.s32`. -/
def execImadhiS32 (m : Wide) (a b c : Src) (s : State) : Out := s.wideInt3 m a b c fun a b c => mulhiS a b + c

/-- `imadhi.n32`. -/
def execImadhiN32 (m : Wide) (a b c : Src) (s : State) : Out := s.wideInt3 m a b c fun a b c => mulhiN a b + c

/-- A widening multiply-add into a pair. -/
def State.wideMadW (s : State) (m : Wide) (signed : Bool) (a b c : Src) : Out :=
  s.wide64 m [(1, a), (1, b), (2, c)] fun w l =>
    let x := w.rd .word a l; let y := w.rd .word b l; let z := w.rd64 c l
    (madW signed x.val y.val z.1, bndInt [x.bnd, y.bnd, z.2])

/-- `imadw.n32`. -/
def execImadwN32 (m : Wide) (a b c : Src) (s : State) : Out := s.wideMadW m false a b c

/-- `imadw.s32`. -/
def execImadwS32 (m : Wide) (a b c : Src) (s : State) : Out := s.wideMadW m true a b c

/-- `bfe.n32` (R198). -/
def execWBfeN32 (m : Wide) (a b : Src) (s : State) : Out := s.wideInt2 m a b fun x f => bfe false x f

/-- `bfe.s32` (R198). -/
def execWBfeS32 (m : Wide) (a b : Src) (s : State) : Out := s.wideInt2 m a b fun x f => bfe true x f

/-- `bfi.b32`: ins, base, field word (R198). -/
def execWBfiB32 (m : Wide) (a b c : Src) (s : State) : Out := s.wideInt3 m a b c fun ins base f => bfi ins base f

/-- `lea.b64`. -/
def execLeaB64 (m : Wide) (a b c : Src) (s : State) : Out :=
  s.wide64 m [(2, a), (1, b), (1, c)] fun w l =>
    let x := w.rd64 a l; let y := w.rd .word b l; let z := w.rd .word c l
    (lea x.1 y.val z.val, bndInt [x.2, y.bnd, z.bnd])

/-- `iadd.b64`. -/
def execWIaddB64 (m : Wide) (a b : Src) (s : State) : Out :=
  s.wide64 m [(2, a), (2, b)] fun w l =>
    let x := w.rd64 a l; let y := w.rd64 b l
    (x.1 + y.1, bndInt [x.2, y.2])

/-- `dot4.s8`. -/
def execDot4S8 (m : Wide) (a b c : Src) (s : State) : Out := s.wideInt3 m a b c dot4

/-- `dot2.f16` (R204). -/
def execDot2F16 (m : Wide) (a b c : Src) (s : State) : Out := s.wideDot2 m .f16 spF16 a b c

/-- `dot2.bf16` (R204). -/
def execDot2Bf16 (m : Wide) (a b c : Src) (s : State) : Out := s.wideDot2 m .bf16 spBf16 a b c

/-- `fclamp.f32` (R202). -/
def execFclampF32 (m : Wide) (a b c : Src) (s : State) : Out :=
  .next (s.vwide m [a, b, c] fun e w l => fclampLane (w.f0 m e a l) (w.f1 m b l) (w.f2 m c l))

/-- `popc`. -/
def execWPopc (m : Wide) (a : Src) (s : State) : Out := s.wideInt1 m a popc

/-- `clz`. -/
def execWClz (m : Wide) (a : Src) (s : State) : Out := s.wideInt1 m a clz

/-- `brev`. -/
def execBrev (m : Wide) (a : Src) (s : State) : Out := s.wideInt1 m a bitReverse

end Sys2Proof.Machine
end

