-- ==== Sys2Proof/Machine/Approx.lean ====
section
/-! DEFINITION. The approximating functions of R85 and R214: enclosures of the exact value, the allowance, and the bound.
The manual leaves the delivered value open within the allowance: it is the implementation's word where that word is
admissible, and the correctly rounded value otherwise. -/

namespace Sys2Proof.Machine

/-- An enclosure of a real number. -/
structure Encl where
  lo : Dy
  hi : Dy
deriving DecidableEq, Repr

/-- An enclosure of an exactly known number. -/
def enclExact (a : Dy) : Encl := ⟨a, a⟩

/-- A fixed-point value with 512 fraction bits, good to 2^-500. -/
def enclFix (v : Int) : Encl := ⟨⟨v - 4096, -512⟩, ⟨v + 4096, -512⟩⟩

/-- The negated enclosure. -/
def Encl.neg (a : Encl) : Encl := ⟨a.hi.neg, a.lo.neg⟩

/-- ln 2 with 512 fraction bits, rounded down. -/
def ln2Fix : Nat := 0xb17217f7d1cf79abc9e3b39803f2f6af40f343267298b62d8a0d175b8baafa2be7b876206debac98559552fb4afa1b10ed2eae35c138214427573b291169b825

/-- π with 768 fraction bits, rounded down. -/
def piFix : Nat := 0x3243f6a8885a308d313198a2e03707344a4093822299f31d0082efa98ec4e6c89452821e638d01377be5466cf34e90c6cc0ac29b7c97c50dd3f84d5b5b54709179216d5d98979fb1bd1310ba698dfb5ac2ffd72dbd01adfb7b8e1afed6a267e96

/-- The terms r^j/j! for j from `k` on, `n` of them, in fixed point, summed. -/
def expTerms (r : Nat) : Nat → Nat → Nat → Nat → Nat
  | 0, _, _, acc => acc
  | n + 1, k, t, acc =>
    let t' := t * r / (k * 2 ^ 512)
    expTerms r n (k + 1) t' (acc + t')

/-- The exponential of r in [0, 1), in fixed point. -/
def expFix (r : Nat) : Nat := expTerms r 110 1 (2 ^ 512) (2 ^ 512)

/-- An enclosure of 2^x. Arguments below −400 count as −400. -/
def exp2Encl (x : Dy) : Encl :=
  let x := if x.lt (dyInt (-400)) then dyInt (-400) else x
  if 0 ≤ x.e then enclExact (dyPow (x.m * 2 ^ x.e.toNat))
  else
    let s := (-x.e).toNat
    let n := x.m / ((2 ^ s : Nat) : Int)
    let f := (x.m % ((2 ^ s : Nat) : Int)).toNat
    if f = 0 then enclExact (dyPow n)
    else
      let v := expFix (f * 2 ^ 512 / 2 ^ s * ln2Fix / 2 ^ 512)
      ⟨⟨(v : Int) - 4096, n - 512⟩, ⟨(v : Int) + 4096, n - 512⟩⟩

/-- The terms of the series of the inverse hyperbolic tangent of t, in fixed point. -/
def atanhTerms (t2 : Nat) : Nat → Nat → Nat → Nat → Nat
  | 0, _, _, acc => acc
  | n + 1, k, p, acc =>
    let p' := p * t2 / 2 ^ 512
    atanhTerms t2 n (k + 2) p' (acc + p' / (k + 2))

/-- log2 of a number m in [2^k, 2^(k+1)) over 2^k, in fixed point. -/
def log2Frac (m k : Nat) : Nat :=
  let t := (m - 2 ^ k) * 2 ^ 512 / (m + 2 ^ k)
  let l := 2 * atanhTerms (t * t / 2 ^ 512) 170 1 t t
  l * 2 ^ 512 / ln2Fix

/-- An enclosure of log2 of a positive number. -/
def log2Encl (x : Dy) : Encl :=
  let m := x.m.toNat
  let k := Nat.log2 m
  let i := (k : Int) + x.e
  if m = 2 ^ k then enclExact (dyInt i) else enclFix (i * 2 ^ 512 + (log2Frac m k : Int))

/-- The terms of a sine or cosine series: signed, from the term `t` of index `k` on. -/
def trigTerms (r2 : Nat) : Nat → Nat → Nat → Bool → Int → Int
  | 0, _, _, _, acc => acc
  | n + 1, k, t, neg, acc =>
    let t' := t * r2 / ((k + 1) * (k + 2) * 2 ^ 512)
    trigTerms r2 n (k + 2) t' (!neg) (if neg then acc - (t' : Int) else acc + (t' : Int))

/-- The sine of r in [0, 2), in fixed point. -/
def sinFix (r : Nat) : Int := trigTerms (r * r / 2 ^ 512) 70 1 r true r

/-- The cosine of r in [0, 2), in fixed point. -/
def cosFix (r : Nat) : Int := trigTerms (r * r / 2 ^ 512) 70 0 (2 ^ 512) true (2 ^ 512 : Nat)

/-- An enclosure of sin x (`cosine` false) or cos x, for x = ±m·2^e: the argument is reduced by quarter turns. -/
def trigEncl (cosine : Bool) (neg : Bool) (m : Nat) (e : Int) : Encl :=
  let X := m * 2 ^ (768 + e).toNat
  let half := piFix / 2
  let q := X / half
  let r := X % half / 2 ^ 256
  let j := (q + if cosine then 1 else 0) % 4
  let v := if j = 0 then sinFix r else if j = 1 then cosFix r else if j = 2 then -sinFix r else -cosFix r
  let a := enclFix v
  if neg && !cosine then a.neg else a

/-- An enclosure of tanh of m·2^e, not negative. -/
def tanhEncl (m : Nat) (e : Int) : Encl :=
  if (dyInt 64).le ⟨m, e⟩ then ⟨(dyInt 1).sub (dyPow (-150)), (dyInt 1).sub (dyPow (-600))⟩
  else
    -- e^(2x) is 2^n times the exponential of the rest of 2x over ln 2
    let y := m * 2 ^ (512 + 1 + e).toNat
    let n := y / ln2Fix
    let v := expFix (y % ln2Fix) * 2 ^ n
    enclFix (((v : Int) - 2 ^ 512) * 2 ^ 512 / ((v : Int) + 2 ^ 512))

/-- ulp(z) for an enclosure of a positive magnitude (R85). -/
def ulpOf (z : Encl) : Dy :=
  let a := z.lo.abs.min z.hi.abs
  if a.m = 0 then dyPow (-149) else dyPow (max a.ilog2 (-126) - 23)

/-- The value delivered for z with allowance u, and its bound. -/
def deliver (id : Nat) (w : Word) (z : Encl) (u : Dy) (bnd : Bnd) : LV :=
  let f := Config.approx id w
  let v := f32 f
  let r := if v.isFin && (v.dy.sub u).le z.lo && z.hi.le (v.dy.add u) && u.m != 0 then f
    else toF32 .rne (.ofDy false z.lo)
  ⟨r, if (f32 r).isFin then bnd else bndInf⟩

/-- A special result (R214): unbounded when NaN or infinite, or when the source was infinite. -/
def specialLane (x : Opnd) (v : FV) (b : Bnd) : LV :=
  ⟨toF32 .rne v, if x.v.isFin && v.isFin then b else bndInf⟩

/-- A quieted NaN source. -/
def nanSource (n : Bool) (f : Nat) : LV := nanLane ((firstNan [.nan n f]).getD dnan)

/-- `frsq` (R84, R85, R214): c is at least 1/√(x−b) − 1/√x + u, decided exactly. -/
def frsqLane (w : Word) (x : Opnd) : LV :=
  match x.v with
  | .nan n f => nanSource n f
  | .inf s => if s then nanLane dnan else ⟨0, bndInf⟩
  | .fin s m e =>
    if m = 0 then ⟨toF32 .rne (.inf s), bndInf⟩
    else if s then nanLane dnan
    else
      -- 1/√x = √(2^k / m) * 2^(-(k+e)/2) with k + e even
      let k := 1024 + Nat.log2 m + (((Nat.log2 m : Int) + e) % 2).toNat
      let n := 2 ^ k / m
      let r := isqrt n
      let sc := -(((k : Int) + e) / 2)
      let z : Encl := if r * r = n && 2 ^ k % m == 0 then enclExact ⟨r, sc⟩ else ⟨⟨r, sc⟩, ⟨r + 1, sc⟩⟩
      let isExact := m = 2 ^ Nat.log2 m && ((Nat.log2 m : Int) + e) % 2 == 0
      let u := if isExact then dyInt 0 else ulpOf z
      let X : Dy := ⟨m, e⟩
      let bnd := match bndVal x.b with
        | none => bndInf
        | some b =>
          if X.le b then bndInf
          else
            let Y := X.sub b
            leastBnd fun c =>
              -- t = c − u; 1/√Y ≤ t + 1/√X, multiplied by √(XY)·√X = X√Y: √X·... as squares over X·Y
              let t := c.sub u
              -- with a = 1/X, t + √a ≥ 0 and t² + a − 1/Y + 2t√a ≥ 0; both scaled by X·Y
              geRoot (t.mul X) (dyInt 1) X &&
                geRoot ((((t.mul t).mul X).mul Y).add (Y.sub X)) ((t.mul Y).scale 1) X
      deliver 0 w z u bnd

/-- `fexp2` (R84, R85, R214). -/
def fexp2Lane (w : Word) (x : Opnd) : LV :=
  match x.v with
  | .nan n f => nanSource n f
  | .inf s => ⟨toF32 .rne (if s then .fin false 0 0 else .inf false), bndInf⟩
  | .fin _ m e =>
    let X := x.v.dy
    if (dyInt 128).le X then ⟨toF32 .rne (.inf false), bndInf⟩
    else
      let z := exp2Encl X
      let whole := decide (0 ≤ e) || m % 2 ^ (-e).toNat == 0
      let u := if whole && (dyInt (-149)).le X then dyInt 0 else (ulpOf z).scale 1
      let bnd := match bndVal x.b with
        | none => bndInf
        | some b =>
          if b.m = 0 then bndUp u
          else if (dyInt 200).le (X.add b) then bndInf
          else bndUp (((exp2Encl (X.add b)).hi.sub z.lo).add u)
      deliver 1 w z u bnd

/-- The odd part of a positive mantissa and its power of two, by halving. -/
def oddPart : Nat → Nat → Nat → Nat × Nat
  | 0, m, k => (m, k)
  | n + 1, m, k => if m % 2 = 0 then oddPart n (m / 2) (k + 1) else (m, k)

/-- An upper value of log2 x − log2 y, exact when the quotient is a power of two. -/
def log2Diff (x y : Dy) : Dy :=
  let p := oddPart 600 x.m.toNat 0
  let q := oddPart 600 y.m.toNat 0
  if p.1 = q.1 then dyInt ((p.2 : Int) + x.e - q.2 - y.e) else (log2Encl x).hi.sub (log2Encl y).lo

/-- `flog2` (R84, R85, R214). -/
def flog2Lane (w : Word) (x : Opnd) : LV :=
  match x.v with
  | .nan n f => nanSource n f
  | .inf s => if s then nanLane dnan else ⟨toF32 .rne (.inf false), bndInf⟩
  | .fin s m e =>
    if m = 0 then ⟨toF32 .rne (.inf true), bndInf⟩
    else if s then nanLane dnan
    else
      let X : Dy := ⟨m, e⟩
      let z := log2Encl X
      let u := if m = 2 ^ Nat.log2 m then dyInt 0 else ((ulpOf z).scale 1).max (dyPow (-22))
      let bnd := match bndVal x.b with
        | none => bndInf
        | some b => if X.le b then bndInf else bndUp ((log2Diff X (X.sub b)).add u)
      deliver 2 w z u bnd

/-- The bound of `fsin`, `fcos` and `ftanh`: min(b, 2) and the allowance (R84). -/
def trigBnd (x : Opnd) (u : Dy) : Bnd :=
  match bndVal x.b with
  | none => bndInf
  | some b => bndUp ((b.min (dyInt 2)).add u)

/-- `fsin` and `fcos` (R84, R85, R214). -/
def ftrigLane (cosine : Bool) (w : Word) (x : Opnd) : LV :=
  match x.v with
  | .nan n f => nanSource n f
  | .inf _ => nanLane dnan
  | .fin s m e =>
    if m = 0 then specialLane x (if cosine then .fin false 1 0 else .fin s 0 0) (trigBnd x (dyInt 0))
    else deliver (if cosine then 4 else 3) w (trigEncl cosine s m e) (dyPow (-22)) (trigBnd x (dyPow (-22)))

/-- `ftanh` (R84, R85, R214). -/
def ftanhLane (w : Word) (x : Opnd) : LV :=
  match x.v with
  | .nan n f => nanSource n f
  | .inf s => specialLane x (.fin s 1 0) bndInf
  | .fin s m e =>
    if m = 0 then specialLane x (.fin s 0 0) (trigBnd x (dyInt 0))
    else
      let z := tanhEncl m e
      let u := (ulpOf z).scale 1
      deliver 5 w (if s then z.neg else z) u (trigBnd x u)

end Sys2Proof.Machine
end

