-- ==== Sys2Proof/Machine/Vx.lean ====
section
/-! DEFINITION. Conversions, functions, cross-lane moves, reductions and bound instructions: VX (R173, R205, R211 to R221). -/

namespace Sys2Proof.Machine

/-! ## Conversions (R212, R213) -/

/-- Registers that a value of a type takes. -/
def fmtRegs (f : Fmt) : Nat := if fmtBits f = 64 then 2 else 1

/-- How a constant is read in a source type (R168). -/
def fmtAs : Fmt → ReadAs
  | .f16 => .f16
  | .bf16 => .bf16
  | _ => .word

/-- Element `el` of a source of type `st`, with its bound (R212). -/
def Warp.rdElem (w : Warp) (st : Fmt) (a : Src) (el l : Nat) : Nat × Bnd :=
  if fmtRegs st = 2 then let x := w.rd64 a l; (x.1.toNat, x.2)
  else let x := w.rd (fmtAs st) a l; (x.val.toNat / 2 ^ (fmtBits st * el) % 2 ^ fmtBits st, x.bnd)

/-- `cvt` (R212). -/
def execCvt (p : Pred) (d : VReg) (a : Src) (dt st : Fmt) (rnd : Rnd) (sat : Bool) (el : BitVec 3) (s : State) : Out :=
  let conv := fun (w : Warp) (l : Nat) => let x := w.rdElem st a el.toNat l; convert dt st rnd sat x.1 x.2
  let u := (Uses.none.src (fmtRegs st) a).dstV d.toNat (fmtRegs dt)
  .next (s.guard u fun s => (s.updCw fun w =>
    if fmtRegs dt = 2 then w.write64 (w.effP p) d.toNat fun l => let r := conv w l; (BitVec.ofNat 64 r.1, r.2)
    else w.writeV (w.effP p) d.toNat fun l => lane32 (conv w l)).finish 2)

/-- A base word with two fields of `n` bits from field 2p on replaced (R213). -/
def mergeTwo (base : Word) (n p x y : Nat) : Word :=
  let off := 2 * p * n
  let m := BitVec.ofNat 32 ((2 ^ (2 * n) - 1) * 2 ^ off)
  (base &&& ~~~m) ||| BitVec.ofNat 32 ((x + y * 2 ^ n) * 2 ^ off)

/-- `cvtpk` (R213). -/
def execCvtpk (p : Pred) (d : VReg) (a b c : Src) (dt : Fmt) (rnd : Rnd) (sat : Bool) (pos : BitVec 2) (s : State) : Out :=
  let merges := fmtBits dt < 16
  .next (s.vx p d (if merges then [a, b, c] else [a, b]) fun _ w l =>
    let x := w.rd .word a l; let y := w.rd .word b l
    let u := convert dt .f32 rnd sat x.val.toNat x.bnd
    let v := convert dt .f32 rnd sat y.val.toNat y.bnd
    if merges then
      let z := w.rd .word c l
      ⟨mergeTwo z.val (fmtBits dt) pos.toNat u.1 v.1, bndMax (bndMax u.2 v.2) z.bnd⟩
    else packLane u v)

/-! ## Functions (R214 to R216) -/

/-- A VX instruction of one source. -/
def State.vx1 (s : State) (p : Pred) (d : VReg) (a : Src) (f : LV → LV) : Out :=
  .next (s.vx p d [a] fun _ w l => f (w.rd .word a l))

/-- An approximating function: the word of this implementation's unit stands where it lies within the allowance (R85). -/
def State.vxApprox (s : State) (p : Pred) (d : VReg) (a : Src) (f : Word → Opnd → LV) : Out :=
  s.vx1 p d a fun x => f x.val (opF32 x)

/-- `frcp`. -/
def execFrcp (p : Pred) (d : VReg) (a : Src) (rnd : Rnd) (s : State) : Out := s.vx1 p d a fun x => divLane rnd one32 (opF32 x)

/-- `frsq`. -/
def execFrsq (p : Pred) (d : VReg) (a : Src) (s : State) : Out := s.vxApprox p d a frsqLane

/-- `fsqrt`. -/
def execFsqrt (p : Pred) (d : VReg) (a : Src) (rnd : Rnd) (s : State) : Out := s.vx1 p d a fun x => sqrtLane rnd (opF32 x)

/-- `fdiv`. -/
def execFdiv (p : Pred) (d : VReg) (a b : Src) (rnd : Rnd) (s : State) : Out :=
  .next (s.vx p d [a, b] fun _ w l => divLane rnd (opF32 (w.rd .word a l)) (opF32 (w.rd .word b l)))

/-- `fexp2`. -/
def execFexp2 (p : Pred) (d : VReg) (a : Src) (s : State) : Out := s.vxApprox p d a fexp2Lane

/-- `flog2`. -/
def execFlog2 (p : Pred) (d : VReg) (a : Src) (s : State) : Out := s.vxApprox p d a flog2Lane

/-- `fsin`. -/
def execFsin (p : Pred) (d : VReg) (a : Src) (s : State) : Out := s.vxApprox p d a (ftrigLane false)

/-- `fcos`. -/
def execFcos (p : Pred) (d : VReg) (a : Src) (s : State) : Out := s.vxApprox p d a (ftrigLane true)

/-- `ftanh`. -/
def execFtanh (p : Pred) (d : VReg) (a : Src) (s : State) : Out := s.vxApprox p d a ftanhLane

/-- `frnd`. -/
def execFrnd (p : Pred) (d : VReg) (a : Src) (rnd : Rnd) (s : State) : Out := s.vx1 p d a fun x => frndLane rnd (opF32 x)

/-- `fclass`. -/
def execFclass (p : Pred) (d : VReg) (a : Src) (s : State) : Out :=
  s.vx1 p d a fun x => ⟨BitVec.ofNat 32 (2 ^ fclassBit x.val), bndExact⟩

/-- `fscale`. -/
def execFscale (p : Pred) (d : VReg) (a b : Src) (rnd : Rnd) (s : State) : Out :=
  .next (s.vx p d [a, b] fun _ w l => fscaleLane rnd (opF32 (w.rd .word a l)) (w.rd .word b l).val.toInt)

/-! ## Cross-lane moves (R206, R217) -/

/-- Width of a segment. -/
def segWidth : Seg → Nat
  | .w32 => 32 | .w2 => 2 | .w4 => 4 | .w8 => 8 | .w16 => 16

/-- A shuffle: `src` gives the lane read by lane `l` for a delta, if the segment has it. -/
def State.shuffle (s : State) (p : Pred) (d : VReg) (a b : Src) (own : Bool) (src : Nat → Nat → Option Nat) : Out :=
  .next (s.vx p d [a, b] fun e w l =>
    let miss := if own then w.rd .word a l else LV.zero
    match src l (w.rd .word b l).val.toNat with
    | some j => if e.getLsbD j then w.rd .word a j else miss
    | none => miss)

/-- `shfl.idx`. -/
def execShflIdx (p : Pred) (d : VReg) (a b : Src) (seg : Seg) (own : Bool) (s : State) : Out :=
  s.shuffle p d a b own fun l n => some (l - l % segWidth seg + n % segWidth seg)

/-- `shfl.up`. -/
def execShflUp (p : Pred) (d : VReg) (a b : Src) (seg : Seg) (own : Bool) (s : State) : Out :=
  s.shuffle p d a b own fun l n => if n ≤ l % segWidth seg then some (l - n) else none

/-- `shfl.down`. -/
def execShflDown (p : Pred) (d : VReg) (a b : Src) (seg : Seg) (own : Bool) (s : State) : Out :=
  s.shuffle p d a b own fun l n => if l + n < l - l % segWidth seg + segWidth seg then some (l + n) else none

/-- `shfl.xor`. -/
def execShflXor (p : Pred) (d : VReg) (a b : Src) (seg : Seg) (own : Bool) (s : State) : Out :=
  s.shuffle p d a b own fun l n => some (l ^^^ (n % segWidth seg))

/-- `bcast`: lane n of src0, n the uniform src1. -/
def execBcast (p : Pred) (d : VReg) (a b : Src) (s : State) : Out :=
  .next (s.vx p d [a, b] fun e w _ =>
    let n := (w.rdS b).toNat
    if n < 32 && e.getLsbD n then w.rd .word a n else LV.zero)

/-! ## Reductions (R218) -/

/-- The identity of an operation. -/
def redIdentity : RedOp → Word
  | .iadd => 0 | .iminS => 0x7FFFFFFF | .iminN => 0xFFFFFFFF | .imaxS => 0x80000000 | .imaxN => 0
  | .and => 0xFFFFFFFF | .or => 0 | .xor => 0 | .fadd => 0x80000000 | .fmin => 0x7F800000 | .fmax => 0xFF800000

/-- One step on two values, neither of them a stand-in for an absent lane. -/
def redValue (op : RedOp) (x y : LV) : LV :=
  match op with
  | .iadd => ⟨x.val + y.val, bndInt [x.bnd, y.bnd]⟩
  | .iminS => ⟨minS x.val y.val, bndInt [x.bnd, y.bnd]⟩
  | .iminN => ⟨minN x.val y.val, bndInt [x.bnd, y.bnd]⟩
  | .imaxS => ⟨maxS x.val y.val, bndInt [x.bnd, y.bnd]⟩
  | .imaxN => ⟨maxN x.val y.val, bndInt [x.bnd, y.bnd]⟩
  | .and => ⟨x.val &&& y.val, bndInt [x.bnd, y.bnd]⟩
  | .or => ⟨x.val ||| y.val, bndInt [x.bnd, y.bnd]⟩
  | .xor => ⟨x.val ^^^ y.val, bndInt [x.bnd, y.bnd]⟩
  | .fadd => addLane .rne x y
  | .fmin => fminLane (opF32 x) (opF32 y)
  | .fmax => fmaxLane (opF32 x) (opF32 y)

/-- One step: none stands for the identity of a lane that is not effective, which yields the other operand. An effective lane whose value
equals the identity is combined like any other (log 83, DESIGN CHOICE). -/
def reduxStep (op : RedOp) (x y : Option LV) : Option LV :=
  match x, y with
  | none, y => y
  | x, none => x
  | some x, some y => some (redValue op x y)

/-- The result of a partial: the identity takes its bound by R83. -/
def redOut (op : RedOp) (x : Option LV) : LV :=
  x.getD ⟨redIdentity op, if (f32 (redIdentity op)).isFin || !(op == .fmin || op == .fmax) then bndExact else bndInf⟩

/-- The partials at the start: effective lanes. -/
def Warp.partials (w : Warp) (e : Mask) (a : Src) : List (Option LV) :=
  (List.range 32).map fun l => if e.getLsbD l then some (w.rd .word a l) else none

/-- A round of `redux` with distance `k`. -/
def reduxRound (op : RedOp) (k : Nat) (p : List (Option LV)) : List (Option LV) :=
  (List.range 32).map fun l => if l % (2 * k) = 0 then reduxStep op (p.getD l none) (p.getD (l + k) none) else p.getD l none

/-- A round of `scan`. -/
def scanRound (op : RedOp) (k : Nat) (p : List (Option LV)) : List (Option LV) :=
  (List.range 32).map fun l => if k ≤ l then reduxStep op (p.getD (l - k) none) (p.getD l none) else p.getD l none

/-- `redux`. -/
def execRedux (p : Pred) (d : VReg) (a : Src) (op : RedOp) (s : State) : Out :=
  .next (s.vx p d [a] fun e w _ =>
    redOut op (([1, 2, 4, 8, 16].foldl (fun q k => reduxRound op k q) (w.partials e a)).headD none))

/-- `scan`. -/
def execScan (p : Pred) (d : VReg) (a : Src) (op : RedOp) (excl : Bool) (s : State) : Out :=
  .next (s.vx p d [a] fun e w l =>
    let q := [1, 2, 4, 8, 16].foldl (fun q k => scanRound op k q) (w.partials e a)
    redOut op (if excl then (if l = 0 then none else q.getD (l - 1) none) else q.getD l none))

/-! ## Selection and bounds (R219 to R221) -/

/-- `msel`. -/
def execMsel (p : Pred) (d : VReg) (a b : Src) (k : KReg) (s : State) : Out :=
  .next (s.vx p d [a, b] fun _ w l => if (w.k k.toNat).getLsbD l then w.rd .word a l else w.rd .word b l)

/-- A bound's value as FP32 (R220). -/
def bndF32 (b : Bnd) : Word :=
  match bndVal b with
  | none => 0x7F800000
  | some v => toF32 .rne (.fin false v.m.natAbs v.e)

/-- `brd`. -/
def execBrd (p : Pred) (d : VReg) (a : Src) (asF32 : Bool) (s : State) : Out :=
  s.vx1 p d a fun x =>
    if asF32 then ⟨bndF32 x.bnd, if (bndVal x.bnd).isNone then bndInf else bndExact⟩
    else ⟨x.bnd.setWidth 32, bndExact⟩

/-- The new bound that a source gives to `bwr`. -/
def newBnd (fromF32 : Bool) (y : Word) : Bnd :=
  if fromF32 then (let v := f32 y; if v.isFin then bndUp v.dy.abs else bndInf) else bndNorm (y.extractLsb' 0 16)

/-- `bwr`. -/
def execBwr (p : Pred) (d : VReg) (a b : Src) (fromF32 raise : Bool) (s : State) : Out :=
  .next (s.vx p d [a, b] fun _ w l =>
    let x := w.rd .word a l
    let n := newBnd fromF32 (w.rd .word b l).val
    ⟨x.val, if raise then bndMax n x.bnd else n⟩)

/-- `bclr`. -/
def execBclr (p : Pred) (d : VReg) (a : Src) (s : State) : Out := s.vx1 p d a fun x => ⟨x.val, bndExact⟩

/-- The value that `bchk` checks (R221). -/
def chkOpnd (st : Fmt) (x : LV) : Opnd := ⟨decodeFmt st (x.val.toNat % 2 ^ fmtBits st), x.bnd⟩

/-- `bchk`: a bound breach in the failing lanes, precise (R221, R401). -/
def execBchk (p : Pred) (a : Src) (st : Fmt) (s : State) : Out :=
  .next (s.guard (Uses.none.srcs [a]) fun s =>
    let w := s.cw
    let bad := w.effP p &&& maskOf fun l => !budgetPass w.budget (chkOpnd st (w.rd (fmtAs st) a l))
    if bad = 0 then s.finish 2 else s.takeTrap { w.trapHere 0x0401 with lanes := bad })

end Sys2Proof.Machine
end

