-- ==== Sys2Proof/Machine/Dispatch.lean ====
section
/-! DEFINITION. What each instruction and each step of the machine does: one arm per constructor of `Instr`. -/

namespace Sys2Proof.Machine

def exec (i : Instr) (s : State) : Host.Outcome State Fault Refusal :=
  match i with
  | .clauseHeader n cls wait yieldHint => Sys2Proof.Machine.execClauseHeader n cls wait yieldHint s
  | .sIaddB32 d a b => Sys2Proof.Machine.execSIaddB32 d a b s
  | .sIsubB32 d a b => Sys2Proof.Machine.execSIsubB32 d a b s
  | .sImulB32 d a b => Sys2Proof.Machine.execSImulB32 d a b s
  | .imulhiS32 d a b => Sys2Proof.Machine.execImulhiS32 d a b s
  | .imulhiN32 d a b => Sys2Proof.Machine.execImulhiN32 d a b s
  | .sAnd d a b => Sys2Proof.Machine.execSAnd d a b s
  | .sOr d a b => Sys2Proof.Machine.execSOr d a b s
  | .sXor d a b => Sys2Proof.Machine.execSXor d a b s
  | .andn d a b => Sys2Proof.Machine.execAndn d a b s
  | .sShl d a b => Sys2Proof.Machine.execSShl d a b s
  | .sShrN32 d a b => Sys2Proof.Machine.execSShrN32 d a b s
  | .sShrS32 d a b => Sys2Proof.Machine.execSShrS32 d a b s
  | .sIminS32 d a b => Sys2Proof.Machine.execSIminS32 d a b s
  | .sIminN32 d a b => Sys2Proof.Machine.execSIminN32 d a b s
  | .sImaxS32 d a b => Sys2Proof.Machine.execSImaxS32 d a b s
  | .sImaxN32 d a b => Sys2Proof.Machine.execSImaxN32 d a b s
  | .sIaddB64 d a b => Sys2Proof.Machine.execSIaddB64 d a b s
  | .isubB64 d a b => Sys2Proof.Machine.execIsubB64 d a b s
  | .shlB64 d a b => Sys2Proof.Machine.execShlB64 d a b s
  | .shrN64 d a b => Sys2Proof.Machine.execShrN64 d a b s
  | .shrS64 d a b => Sys2Proof.Machine.execShrS64 d a b s
  | .sBfeN32 d a b => Sys2Proof.Machine.execSBfeN32 d a b s
  | .sBfeS32 d a b => Sys2Proof.Machine.execSBfeS32 d a b s
  | .sBfiB32 d a b => Sys2Proof.Machine.execSBfiB32 d a b s
  | .selB32 d a b => Sys2Proof.Machine.execSelB32 d a b s
  | .cmpEqB32 a b => Sys2Proof.Machine.execCmpEqB32 a b s
  | .cmpNeB32 a b => Sys2Proof.Machine.execCmpNeB32 a b s
  | .cmpLtS32 a b => Sys2Proof.Machine.execCmpLtS32 a b s
  | .cmpLeS32 a b => Sys2Proof.Machine.execCmpLeS32 a b s
  | .cmpLtN32 a b => Sys2Proof.Machine.execCmpLtN32 a b s
  | .cmpLeN32 a b => Sys2Proof.Machine.execCmpLeN32 a b s
  | .cmpEqB64 a b => Sys2Proof.Machine.execCmpEqB64 a b s
  | .cmpNeB64 a b => Sys2Proof.Machine.execCmpNeB64 a b s
  | .sPopc d a => Sys2Proof.Machine.execSPopc d a s
  | .sClz d a => Sys2Proof.Machine.execSClz d a s
  | .ctz d a => Sys2Proof.Machine.execCtz d a s
  | .movk d imm => Sys2Proof.Machine.execMovk d imm s
  | .movhi d imm => Sys2Proof.Machine.execMovhi d imm s
  | .iaddk d imm => Sys2Proof.Machine.execIaddk d imm s
  | .cmpkEq d imm => Sys2Proof.Machine.execCmpkEq d imm s
  | .cmpkLtS32 d imm => Sys2Proof.Machine.execCmpkLtS32 d imm s
  | .cmpkLtN32 d imm => Sys2Proof.Machine.execCmpkLtN32 d imm s
  | .mulk d imm => Sys2Proof.Machine.execMulk d imm s
  | .vIaddB32 d a b => Sys2Proof.Machine.execVIaddB32 d a b s
  | .vIsubB32 d a b => Sys2Proof.Machine.execVIsubB32 d a b s
  | .vImulB32 d a b => Sys2Proof.Machine.execVImulB32 d a b s
  | .vAnd d a b => Sys2Proof.Machine.execVAnd d a b s
  | .vOr d a b => Sys2Proof.Machine.execVOr d a b s
  | .vXor d a b => Sys2Proof.Machine.execVXor d a b s
  | .vShl d a b => Sys2Proof.Machine.execVShl d a b s
  | .vShrN32 d a b => Sys2Proof.Machine.execVShrN32 d a b s
  | .vShrS32 d a b => Sys2Proof.Machine.execVShrS32 d a b s
  | .vIminS32 d a b => Sys2Proof.Machine.execVIminS32 d a b s
  | .vIminN32 d a b => Sys2Proof.Machine.execVIminN32 d a b s
  | .vImaxS32 d a b => Sys2Proof.Machine.execVImaxS32 d a b s
  | .vImaxN32 d a b => Sys2Proof.Machine.execVImaxN32 d a b s
  | .vFaddF32 d a b => Sys2Proof.Machine.execVFaddF32 d a b s
  | .vFsubF32 d a b => Sys2Proof.Machine.execVFsubF32 d a b s
  | .vFmulF32 d a b => Sys2Proof.Machine.execVFmulF32 d a b s
  | .vFminF32 d a b => Sys2Proof.Machine.execVFminF32 d a b s
  | .vFmaxF32 d a b => Sys2Proof.Machine.execVFmaxF32 d a b s
  | .vMovB32 d a => Sys2Proof.Machine.execVMovB32 d a s
  | .vFaddF16x2 d a b => Sys2Proof.Machine.execVFaddF16x2 d a b s
  | .vFmulF16x2 d a b => Sys2Proof.Machine.execVFmulF16x2 d a b s
  | .vFaddBf16x2 d a b => Sys2Proof.Machine.execVFaddBf16x2 d a b s
  | .vFmulBf16x2 d a b => Sys2Proof.Machine.execVFmulBf16x2 d a b s
  | .wIaddB32 m a b => Sys2Proof.Machine.execWIaddB32 m a b s
  | .wIsubB32 m a b => Sys2Proof.Machine.execWIsubB32 m a b s
  | .wImulB32 m a b => Sys2Proof.Machine.execWImulB32 m a b s
  | .wAnd m a b => Sys2Proof.Machine.execWAnd m a b s
  | .wOr m a b => Sys2Proof.Machine.execWOr m a b s
  | .wXor m a b => Sys2Proof.Machine.execWXor m a b s
  | .wShl m a b => Sys2Proof.Machine.execWShl m a b s
  | .wShrN32 m a b => Sys2Proof.Machine.execWShrN32 m a b s
  | .wShrS32 m a b => Sys2Proof.Machine.execWShrS32 m a b s
  | .wIminS32 m a b => Sys2Proof.Machine.execWIminS32 m a b s
  | .wIminN32 m a b => Sys2Proof.Machine.execWIminN32 m a b s
  | .wImaxS32 m a b => Sys2Proof.Machine.execWImaxS32 m a b s
  | .wImaxN32 m a b => Sys2Proof.Machine.execWImaxN32 m a b s
  | .wFaddF32 m a b => Sys2Proof.Machine.execWFaddF32 m a b s
  | .wFsubF32 m a b => Sys2Proof.Machine.execWFsubF32 m a b s
  | .wFmulF32 m a b => Sys2Proof.Machine.execWFmulF32 m a b s
  | .wFminF32 m a b => Sys2Proof.Machine.execWFminF32 m a b s
  | .wFmaxF32 m a b => Sys2Proof.Machine.execWFmaxF32 m a b s
  | .wMovB32 m a => Sys2Proof.Machine.execWMovB32 m a s
  | .wFaddF16x2 m a b => Sys2Proof.Machine.execWFaddF16x2 m a b s
  | .wFmulF16x2 m a b => Sys2Proof.Machine.execWFmulF16x2 m a b s
  | .wFaddBf16x2 m a b => Sys2Proof.Machine.execWFaddBf16x2 m a b s
  | .wFmulBf16x2 m a b => Sys2Proof.Machine.execWFmulBf16x2 m a b s
  | .ffmaF32 m a b c => Sys2Proof.Machine.execFfmaF32 m a b c s
  | .ffmaF16x2 m a b c => Sys2Proof.Machine.execFfmaF16x2 m a b c s
  | .ffmaBf16x2 m a b c => Sys2Proof.Machine.execFfmaBf16x2 m a b c s
  | .imad m a b c => Sys2Proof.Machine.execImad m a b c s
  | .imadhiS32 m a b c => Sys2Proof.Machine.execImadhiS32 m a b c s
  | .imadhiN32 m a b c => Sys2Proof.Machine.execImadhiN32 m a b c s
  | .imadwN32 m a b c => Sys2Proof.Machine.execImadwN32 m a b c s
  | .imadwS32 m a b c => Sys2Proof.Machine.execImadwS32 m a b c s
  | .wBfeN32 m a b => Sys2Proof.Machine.execWBfeN32 m a b s
  | .wBfeS32 m a b => Sys2Proof.Machine.execWBfeS32 m a b s
  | .wBfiB32 m a b c => Sys2Proof.Machine.execWBfiB32 m a b c s
  | .leaB64 m a b c => Sys2Proof.Machine.execLeaB64 m a b c s
  | .wIaddB64 m a b => Sys2Proof.Machine.execWIaddB64 m a b s
  | .dot4S8 m a b c => Sys2Proof.Machine.execDot4S8 m a b c s
  | .dot2F16 m a b c => Sys2Proof.Machine.execDot2F16 m a b c s
  | .dot2Bf16 m a b c => Sys2Proof.Machine.execDot2Bf16 m a b c s
  | .fclampF32 m a b c => Sys2Proof.Machine.execFclampF32 m a b c s
  | .wPopc m a => Sys2Proof.Machine.execWPopc m a s
  | .wClz m a => Sys2Proof.Machine.execWClz m a s
  | .brev m a => Sys2Proof.Machine.execBrev m a s
  | .cmpF32 d cond a b => Sys2Proof.Machine.execCmpF32 d cond a b s
  | .cmpF16 d cond a b => Sys2Proof.Machine.execCmpF16 d cond a b s
  | .cmpBf16 d cond a b => Sys2Proof.Machine.execCmpBf16 d cond a b s
  | .cmpS32 d cond a b => Sys2Proof.Machine.execCmpS32 d cond a b s
  | .cmpN32 d cond a b => Sys2Proof.Machine.execCmpN32 d cond a b s
  | .cmpB64 d cond a b => Sys2Proof.Machine.execCmpB64 d cond a b s
  | .kand d a b => Sys2Proof.Machine.execKand d a b s
  | .kor d a b => Sys2Proof.Machine.execKor d a b s
  | .kxor d a b => Sys2Proof.Machine.execKxor d a b s
  | .kandn d a b => Sys2Proof.Machine.execKandn d a b s
  | .knot d a => Sys2Proof.Machine.execKnot d a s
  | .kmovK d a => Sys2Proof.Machine.execKmovK d a s
  | .kmovFromS d a => Sys2Proof.Machine.execKmovFromS d a s
  | .kmovToS d a => Sys2Proof.Machine.execKmovToS d a s
  | .voteBallot d a => Sys2Proof.Machine.execVoteBallot d a s
  | .voteAny d a => Sys2Proof.Machine.execVoteAny d a s
  | .voteAll d a => Sys2Proof.Machine.execVoteAll d a s
  | .cvt p d a dt st rnd sat el => Sys2Proof.Machine.execCvt p d a dt st rnd sat el s
  | .cvtpk p d a b c dt rnd sat pos => Sys2Proof.Machine.execCvtpk p d a b c dt rnd sat pos s
  | .frcp p d a rnd => Sys2Proof.Machine.execFrcp p d a rnd s
  | .frsq p d a => Sys2Proof.Machine.execFrsq p d a s
  | .fsqrt p d a rnd => Sys2Proof.Machine.execFsqrt p d a rnd s
  | .fdiv p d a b rnd => Sys2Proof.Machine.execFdiv p d a b rnd s
  | .fexp2 p d a => Sys2Proof.Machine.execFexp2 p d a s
  | .flog2 p d a => Sys2Proof.Machine.execFlog2 p d a s
  | .fsin p d a => Sys2Proof.Machine.execFsin p d a s
  | .fcos p d a => Sys2Proof.Machine.execFcos p d a s
  | .ftanh p d a => Sys2Proof.Machine.execFtanh p d a s
  | .frnd p d a rnd => Sys2Proof.Machine.execFrnd p d a rnd s
  | .fclass p d a => Sys2Proof.Machine.execFclass p d a s
  | .fscale p d a b rnd => Sys2Proof.Machine.execFscale p d a b rnd s
  | .shflIdx p d a b seg own => Sys2Proof.Machine.execShflIdx p d a b seg own s
  | .shflUp p d a b seg own => Sys2Proof.Machine.execShflUp p d a b seg own s
  | .shflDown p d a b seg own => Sys2Proof.Machine.execShflDown p d a b seg own s
  | .shflXor p d a b seg own => Sys2Proof.Machine.execShflXor p d a b seg own s
  | .bcast p d a b => Sys2Proof.Machine.execBcast p d a b s
  | .redux p d a op => Sys2Proof.Machine.execRedux p d a op s
  | .scan p d a op excl => Sys2Proof.Machine.execScan p d a op excl s
  | .msel p d a b k => Sys2Proof.Machine.execMsel p d a b k s
  | .brd p d a asF32 => Sys2Proof.Machine.execBrd p d a asF32 s
  | .bwr p d a b fromF32 raise => Sys2Proof.Machine.execBwr p d a b fromF32 raise s
  | .bclr p d a => Sys2Proof.Machine.execBclr p d a s
  | .bchk p a st => Sys2Proof.Machine.execBchk p a st s
  | .ld g => Sys2Proof.Machine.execLd g s
  | .st g => Sys2Proof.Machine.execSt g s
  | .atom g => Sys2Proof.Machine.execAtom g s
  | .red g => Sys2Proof.Machine.execRed g s
  | .cas g => Sys2Proof.Machine.execCas g s
  | .pf g => Sys2Proof.Machine.execPf g s
  | .sld g => Sys2Proof.Machine.execSld g s
  | .gld g => Sys2Proof.Machine.execGld g s
  | .gst g => Sys2Proof.Machine.execGst g s
  | .gatom g => Sys2Proof.Machine.execGatom g s
  | .gcas g => Sys2Proof.Machine.execGcas g s
  | .ldsB32 d a imm => Sys2Proof.Machine.execLdsB32 d a imm s
  | .ldsB64 d a imm => Sys2Proof.Machine.execLdsB64 d a imm s
  | .ldsB128 d a imm => Sys2Proof.Machine.execLdsB128 d a imm s
  | .stsB32 d a imm => Sys2Proof.Machine.execStsB32 d a imm s
  | .stsB64 d a imm => Sys2Proof.Machine.execStsB64 d a imm s
  | .stsB128 d a imm => Sys2Proof.Machine.execStsB128 d a imm s
  | .ldsN8 d a imm => Sys2Proof.Machine.execLdsN8 d a imm s
  | .ldsS8 d a imm => Sys2Proof.Machine.execLdsS8 d a imm s
  | .ldsN16 d a imm => Sys2Proof.Machine.execLdsN16 d a imm s
  | .ldsS16 d a imm => Sys2Proof.Machine.execLdsS16 d a imm s
  | .stsB8 d a imm => Sys2Proof.Machine.execStsB8 d a imm s
  | .stsB16 d a imm => Sys2Proof.Machine.execStsB16 d a imm s
  | .satomIadd d a imm => Sys2Proof.Machine.execSatomIadd d a imm s
  | .satomIminS d a imm => Sys2Proof.Machine.execSatomIminS d a imm s
  | .satomImaxS d a imm => Sys2Proof.Machine.execSatomImaxS d a imm s
  | .satomCas d a imm => Sys2Proof.Machine.execSatomCas d a imm s
  | .satomXchg d a imm => Sys2Proof.Machine.execSatomXchg d a imm s
  | .satomFaddF32 d a imm => Sys2Proof.Machine.execSatomFaddF32 d a imm s
  | .satomIminN d a imm => Sys2Proof.Machine.execSatomIminN d a imm s
  | .satomImaxN d a imm => Sys2Proof.Machine.execSatomImaxN d a imm s
  | .satomOr d a imm => Sys2Proof.Machine.execSatomOr d a imm s
  | .satomAnd d a imm => Sys2Proof.Machine.execSatomAnd d a imm s
  | .bra off => Sys2Proof.Machine.execBra off s
  | .brc k off => Sys2Proof.Machine.execBrc k off s
  | .brcNot k off => Sys2Proof.Machine.execBrcNot k off s
  | .brs off => Sys2Proof.Machine.execBrs off s
  | .brsNot off => Sys2Proof.Machine.execBrsNot off s
  | .call off => Sys2Proof.Machine.execCall off s
  | .jmp p => Sys2Proof.Machine.execJmp p s
  | .calli p => Sys2Proof.Machine.execCalli p s
  | .meet off => Sys2Proof.Machine.execMeet off s
  | .barArv p id => Sys2Proof.Machine.execBarArv p id s
  | .barWt p id => Sys2Proof.Machine.execBarWt p id s
  | .barSync p id => Sys2Proof.Machine.execBarSync p id s
  | .cbarArv p id => Sys2Proof.Machine.execCbarArv p id s
  | .cbarWt p id => Sys2Proof.Machine.execCbarWt p id s
  | .txbInit p sa sb => Sys2Proof.Machine.execTxbInit p sa sb s
  | .txbExp p sa sb => Sys2Proof.Machine.execTxbExp p sa sb s
  | .txbArv p sa => Sys2Proof.Machine.execTxbArv p sa s
  | .txbWt p sa sb => Sys2Proof.Machine.execTxbWt p sa sb s
  | .kjoin p k => Sys2Proof.Machine.execKjoin p k s
  | .kleave p k => Sys2Proof.Machine.execKleave p k s
  | .kwait p k => Sys2Proof.Machine.execKwait p k s
  | .fence order scope => Sys2Proof.Machine.execFence order scope s
  | .waitd mask => Sys2Proof.Machine.execWaitd mask s
  | .icinv dev p len => Sys2Proof.Machine.execIcinv dev p len s
  | .tail p => Sys2Proof.Machine.execTail p s
  | .trap code => Sys2Proof.Machine.execTrap code s
  | .sysr dst idx => Sys2Proof.Machine.execSysr dst idx s
  | .sysw idx src => Sys2Proof.Machine.execSysw idx src s
  | .time d => Sys2Proof.Machine.execTime d s
  | .sleep a => Sys2Proof.Machine.execSleep a s
  | .bkpt code => Sys2Proof.Machine.execBkpt code s
  | .budget a => Sys2Proof.Machine.execBudget a s
  | .launch p dc => Sys2Proof.Machine.execLaunch p dc s
  | .xacq n => Sys2Proof.Machine.execXacq n s
  | .matAlloc n => Sys2Proof.Machine.execMatAlloc n s
  | .matEdge k n => Sys2Proof.Machine.execMatEdge k n s
  | .matLdb sa sh bank spec dc => Sys2Proof.Machine.execMatLdb sa sh bank spec dc s
  | .matMma sa roff spec dc => Sys2Proof.Machine.execMatMma sa roff spec dc s
  | .matMmar va roff spec dc => Sys2Proof.Machine.execMatMmar va roff spec dc s
  | .matZero roff => Sys2Proof.Machine.execMatZero roff s
  | .matRd d roff col => Sys2Proof.Machine.execMatRd d roff col s
  | .matWr a roff col => Sys2Proof.Machine.execMatWr a roff col s
  | .matSt sa roff spec dc => Sys2Proof.Machine.execMatSt sa roff spec dc s
  | .matRbnd d roff => Sys2Proof.Machine.execMatRbnd d roff s
  | .matBank bank => Sys2Proof.Machine.execMatBank bank s
  | .cpyTIn c sa sb sc => Sys2Proof.Machine.execCpyTIn c sa sb sc s
  | .cpyTOut c sa sb sc => Sys2Proof.Machine.execCpyTOut c sa sb sc s
  | .cpyBIn c sa sb sc => Sys2Proof.Machine.execCpyBIn c sa sb sc s
  | .cpyBOut c sa sb sc => Sys2Proof.Machine.execCpyBOut c sa sb sc s
  | .cpyP c sa sb sc sd => Sys2Proof.Machine.execCpyP c sa sb sc sd s
  | .cpyRed c sa sb sc ty rop => Sys2Proof.Machine.execCpyRed c sa sb sc ty rop s
  | .cpyPf sa sc => Sys2Proof.Machine.execCpyPf sa sc s
  | .cpyG c sa sb sc vi => Sys2Proof.Machine.execCpyG c sa sb sc vi s
  | .colAr dc sa sb sc sd ty rop => Sys2Proof.Machine.execColAr dc sa sb sc sd ty rop s
  | .colAg dc sa sb sc sd ty => Sys2Proof.Machine.execColAg dc sa sb sc sd ty s
  | .colRs dc sa sb sc sd ty rop => Sys2Proof.Machine.execColRs dc sa sb sc sd ty rop s
  | .colA2a dc sa sb sc sd ty => Sys2Proof.Machine.execColA2a dc sa sb sc sd ty s
  | .colBc dc sa sb sc sd root ty => Sys2Proof.Machine.execColBc dc sa sb sc sd root ty s
  | .noInstructionWord => Sys2Proof.Machine.execNoInstructionWord s
  | .ret => Sys2Proof.Machine.execRet s
  | .isync => Sys2Proof.Machine.execIsync s
  | .nop => Sys2Proof.Machine.execNop s
  | .rte => Sys2Proof.Machine.execRte s
  | .yield => Sys2Proof.Machine.execYield s
  | .xrel => Sys2Proof.Machine.execXrel s
  | .matFree => Sys2Proof.Machine.execMatFree s
  | .groupTurnLimit => Sys2Proof.Machine.execGroupTurnLimit s
  | .warpSwapOut out inn => Sys2Proof.Machine.execWarpSwapOut out inn s
  | .warpSwapIn inn out => Sys2Proof.Machine.execWarpSwapIn inn out s
  | .sleepWake slot lane => Sys2Proof.Machine.execSleepWake slot lane s
  | .loadReturn op => Sys2Proof.Machine.execLoadReturn op s
  | .storeAcknowledge op => Sys2Proof.Machine.execStoreAcknowledge op s
  | .releaseDrainComplete op => Sys2Proof.Machine.execReleaseDrainComplete op s
  | .homeRequest op part => Sys2Proof.Machine.execHomeRequest op part s
  | .pageTableWalk op part => Sys2Proof.Machine.execPageTableWalk op part s
  | .promoteRequest pid => Sys2Proof.Machine.execPromoteRequest pid s
  | .promoteDone pid => Sys2Proof.Machine.execPromoteDone pid s
  | .prspSuccess vf stage group => Sys2Proof.Machine.execPrspSuccess vf stage group s
  | .prspFailure vf stage group => Sys2Proof.Machine.execPrspFailure vf stage group s
  | .trapHandlerEntry slot => Sys2Proof.Machine.execTrapHandlerEntry slot s
  | .engineStart op => Sys2Proof.Machine.execEngineStart op s
  | .tensorDescriptorRead op => Sys2Proof.Machine.execTensorDescriptorRead op s
  | .engineOperationComplete op => Sys2Proof.Machine.execEngineOperationComplete op s
  | .matLdbBankWrite op => Sys2Proof.Machine.execMatLdbBankWrite op s
  | .matMmaComplete op residueBad => Sys2Proof.Machine.execMatMmaComplete op residueBad s
  | .matStComplete op => Sys2Proof.Machine.execMatStComplete op s
  | .icinvComplete slot => Sys2Proof.Machine.execIcinvComplete slot s
  | .xacqServed quadrant => Sys2Proof.Machine.execXacqServed quadrant s
  | .launchEntryAppend op => Sys2Proof.Machine.execLaunchEntryAppend op s
  | .collectivePartComplete milepost => Sys2Proof.Machine.execCollectivePartComplete milepost s
  | .qrsv vf cp q => Sys2Proof.Machine.execQrsv vf cp q s
  | .qdb vf cp q => Sys2Proof.Machine.execQdb vf cp q s
  | .qctlWrite vf cp q val => Sys2Proof.Machine.execQctlWrite vf cp q val s
  | .launchSlot cp q => Sys2Proof.Machine.execLaunchSlot cp q s
  | .rangeInvalidationEntry cp q => Sys2Proof.Machine.execRangeInvalidationEntry cp q s
  | .rangeInvalidationDone cp q => Sys2Proof.Machine.execRangeInvalidationDone cp q s
  | .launchHeaderRead launch => Sys2Proof.Machine.execLaunchHeaderRead launch s
  | .waitEventCheck launch => Sys2Proof.Machine.execWaitEventCheck launch s
  | .gangStart launch => Sys2Proof.Machine.execGangStart launch s
  | .preemptSave cluster => Sys2Proof.Machine.execPreemptSave cluster s
  | .timeSliceExpiry part => Sys2Proof.Machine.execTimeSliceExpiry part s
  | .launchAbort vf val => Sys2Proof.Machine.execLaunchAbort vf val s
  | .clockStepDown watts => Sys2Proof.Machine.execClockStepDown watts s
  | .clockStepUp watts => Sys2Proof.Machine.execClockStepUp watts s
  | .thermalLimit watts => Sys2Proof.Machine.execThermalLimit watts s
  | .energySample sample => Sys2Proof.Machine.execEnergySample sample s
  | .energyRequest vf val => Sys2Proof.Machine.execEnergyRequest vf val s
  | .energyReadingWrite => Sys2Proof.Machine.execEnergyReadingWrite s
  | .energyCheckpoint => Sys2Proof.Machine.execEnergyCheckpoint s
  | .packageReset => Sys2Proof.Machine.execPackageReset s
  | .alwaysOnPowerLoss => Sys2Proof.Machine.execAlwaysOnPowerLoss s
  | .powerUpBoot flash => Sys2Proof.Machine.execPowerUpBoot flash s
  | .attestationRequest nonce dest => Sys2Proof.Machine.execAttestationRequest nonce dest s
  | .timeExchange ahead offsetNs => Sys2Proof.Machine.execTimeExchange ahead offsetNs s
  | .evstClear vf val => Sys2Proof.Machine.execEvstClear vf val s
  | .evmaskWrite vf val => Sys2Proof.Machine.execEvmaskWrite vf val s
  | .flitReceive port flit => Sys2Proof.Machine.execFlitReceive port flit s
  | .resendRequest port seq => Sys2Proof.Machine.execResendRequest port seq s
  | .linkRetrain port trained => Sys2Proof.Machine.execLinkRetrain port trained s
  | .linkDown port => Sys2Proof.Machine.execLinkDown port s
  | .peerRequestTimeout op part => Sys2Proof.Machine.execPeerRequestTimeout op part s
  | .apertureAccess acc => Sys2Proof.Machine.execApertureAccess acc s
  | .bisnpinv pa => Sys2Proof.Machine.execBisnpinv pa s
  | .bisnpdata pa => Sys2Proof.Machine.execBisnpdata pa s
  | .poolRangeLost port dec => Sys2Proof.Machine.execPoolRangeLost port dec s
  | .poolLostClear port val => Sys2Proof.Machine.execPoolLostClear port val s
  | .request src msg => Sys2Proof.Machine.execRequest src msg s
  | .replicate src msg => Sys2Proof.Machine.execReplicate src msg s
  | .replicateAck src milepost => Sys2Proof.Machine.execReplicateAck src milepost s
  | .notice src msg => Sys2Proof.Machine.execNotice src msg s
  | .unknown src msg => Sys2Proof.Machine.execUnknown src msg s
  | .report src milepost status => Sys2Proof.Machine.execReport src milepost status s
  | .heartbeatSend => Sys2Proof.Machine.execHeartbeatSend s
  | .heartbeat src oldest => Sys2Proof.Machine.execHeartbeat src oldest s
  | .sequencerTakeover => Sys2Proof.Machine.execSequencerTakeover s
  | .takeover src newPrimary first => Sys2Proof.Machine.execTakeover src newPrimary first s
  | .cancel src milepost status => Sys2Proof.Machine.execCancel src milepost status s
  | .cancelled src milepost status => Sys2Proof.Machine.execCancelled src milepost status s
  | .collectiveTimeout milepost => Sys2Proof.Machine.execCollectiveTimeout milepost s
  | .dieFatalError domain cause => Sys2Proof.Machine.execDieFatalError domain cause s
  | .promoteAckTimeout pid => Sys2Proof.Machine.execPromoteAckTimeout pid s
  | .stateDumpComplete domain len => Sys2Proof.Machine.execStateDumpComplete domain len s
  | .uncorrectableError site => Sys2Proof.Machine.execUncorrectableError site s
  | .uncorrectableStateError launch kind slot => Sys2Proof.Machine.execUncorrectableStateError launch kind slot s
  | .partitionEntryWrite idx val => Sys2Proof.Machine.execPartitionEntryWrite idx val s
  | .functionEntryWrite f val => Sys2Proof.Machine.execFunctionEntryWrite f val s
  | .communicatorEntryWrite idx val => Sys2Proof.Machine.execCommunicatorEntryWrite idx val s
  | .pctlWrite vf stage val => Sys2Proof.Machine.execPctlWrite vf stage val s
  | .lctlWrite val => Sys2Proof.Machine.execLctlWrite val s
  | .registerWrite vf off bytes val => Sys2Proof.Machine.execRegisterWrite vf off bytes val s
  | .hubFunctionUsable bit => Sys2Proof.Machine.execHubFunctionUsable bit s
  | .readinessBitClears bit => Sys2Proof.Machine.execReadinessBitClears bit s
  | .poolRangeReachable port range => Sys2Proof.Machine.execPoolRangeReachable port range s
  | .stopGoSignal port vc go => Sys2Proof.Machine.execStopGoSignal port vc go s
  | .correctedErrorRecord kind domain count => Sys2Proof.Machine.execCorrectedErrorRecord kind domain count s

end Sys2Proof.Machine
end

