-- ==== Sys2Proof/Machine/Pair.lean ====
section
/-! DEFINITION. Assured launches: a leading warp that runs ahead, and the trailing warp that follows it through the load value queue and the
store compare buffer (R338, R339), the comparison of their effects (R405), the replay of a retried clause (R406), and the vote on the spare
lane (R407); log 57. -/

namespace Sys2Proof.Machine

/-- The next state of an instruction; the same state where there is none. -/
def State.after (s : State) (i : Instr) : State := Out.or (exec i s) s

/-- A warp with one vector lane of another: its registers and bounds, its bits of the mask registers, its latches. -/
def Warp.withLane (w t : Warp) (l : Nat) : Warp :=
  { w with vregs := (List.range 128).foldl (fun m r => Map.set m LV.zero (vkey r l) (t.v r l)) w.vregs,
           kregs := (List.range 11).foldl (fun m k => Map.set m 0 (k + 1) ((w.k (k + 1) &&& ~~~(1#32 <<< l)) ||| (t.k (k + 1) &&& (1#32 <<< l)))) w.kregs,
           threads := Map.set w.threads Thread.idle l ((w.thr l).withLatches (t.thr l)) }

/-! ## Effects (R339) -/

/-- A word and its bound as numbers. -/
def laneNats (x : LV) : List Nat := [x.val.toNat, x.bnd.toNat]

/-- An effect of the lanes of `m` made of scalar registers and of vector registers of each lane. -/
def Warp.operands (w : Warp) (m : Mask) (sr vr : List Nat) : Effect :=
  ⟨m, (lanesOf m).map fun l => (l, vr.flatMap fun r => laneNats (w.v r l)), sr.map fun r => (w.s r).toNat⟩

/-- The effect of a store or an atomic of GMEM: address, data and bounds of each lane. -/
def Warp.gmemEffect (w : Warp) (kind : MemKind) (group : Bool) (g : Gmem) : Effect :=
  let n := kind.operands g.width
  ⟨w.memLanes, (lanesOf w.memLanes).map fun l => (l, (w.memAddr g group l).toNat
    :: (w.memData (kind == .cas) g.vdata.toNat n l).1.map (·.toNat) ++ (w.memBnds g.vdata.toNat n l).map (·.toNat)), []⟩

/-- The effect of a store or an atomic of SPAD. -/
def Warp.spadEffect (w : Warp) (x : SpadOp) (d a : VReg) (imm : BitVec 9) : Effect :=
  ⟨w.memLanes, (lanesOf w.memLanes).map fun l => (l, (w.spadOff a imm l).toNat
    :: (w.spadData x d l).1.map (·.toNat) ++ (w.memBnds d.toNat x.regs l).map (·.toNat)), []⟩

/-- The scalar operands of a MAT instruction with a specifier: the specifier's word and the registers that it names. -/
def Warp.specEffect (w : Warp) (m : Mask) (spec : MatSpec) (use : MatUse) (sa : SReg) : Effect :=
  let e := w.operands m (specTop use sa.toNat (Spec.ofWord (w.matSpec spec))).sr []
  { e with common := (w.matSpec spec).toNat :: e.common }

/-- A copy's operands. -/
def Warp.copyEffect (w : Warp) (c : Done) (rs : List Nat) : Effect := w.operands w.issue (cpyUses c rs).sr []

/-- A collective's operands. -/
def Warp.colEffect (w : Warp) (sa sb sc sd : SReg) (root : List SReg) : Effect :=
  w.operands w.issue ([sa.toNat, sb.toNat, sb.toNat + 1, sc.toNat, sc.toNat + 1, sd.toNat] ++ root.map (·.toNat)) []

/-- The effect of an instruction that reaches outside its pair (R339). -/
def Warp.effectOf (w : Warp) : Instr → Option Effect
  | .st g => some (w.gmemEffect .st false g)
  | .red g => some (w.gmemEffect .red false g)
  | .atom g => some (w.gmemEffect .atom false g)
  | .cas g => some (w.gmemEffect .cas false g)
  | .gst g => some (w.gmemEffect .st true g)
  | .gatom g => some (w.gmemEffect .atom true g)
  | .gcas g => some (w.gmemEffect .cas true g)
  | .stsB8 d a imm => some (w.spadEffect (spadSt 1) d a imm)
  | .stsB16 d a imm => some (w.spadEffect (spadSt 2) d a imm)
  | .stsB32 d a imm => some (w.spadEffect (spadSt 4) d a imm)
  | .stsB64 d a imm => some (w.spadEffect (spadSt 8) d a imm)
  | .stsB128 d a imm => some (w.spadEffect (spadSt 16) d a imm)
  | .satomIadd d a imm => some (w.spadEffect (spadAtom .iadd) d a imm)
  | .satomIminS d a imm => some (w.spadEffect (spadAtom .iminS) d a imm)
  | .satomImaxS d a imm => some (w.spadEffect (spadAtom .imaxS) d a imm)
  | .satomIminN d a imm => some (w.spadEffect (spadAtom .iminN) d a imm)
  | .satomImaxN d a imm => some (w.spadEffect (spadAtom .imaxN) d a imm)
  | .satomOr d a imm => some (w.spadEffect (spadAtom .or) d a imm)
  | .satomAnd d a imm => some (w.spadEffect (spadAtom .and) d a imm)
  | .satomXchg d a imm => some (w.spadEffect (spadAtom .xchg) d a imm)
  | .satomFaddF32 d a imm => some (w.spadEffect (spadAtom .faddF32) d a imm)
  | .satomCas d a imm => some (w.spadEffect spadCas d a imm)
  | .barArv p _ => some (w.operands (w.predMask p) [] [])
  | .barWt p _ => some (w.operands (w.predMask p) [] [])
  | .barSync p _ => some (w.operands (w.predMask p) [] [])
  | .cbarArv p _ => some (w.operands (w.predMask p) [] [])
  | .cbarWt p _ => some (w.operands (w.predMask p) [] [])
  | .txbInit p sa sb => some (w.operands (w.predMask p) [sa.toNat, sb.toNat] [])
  | .txbExp p sa sb => some (w.operands (w.predMask p) [sa.toNat, sb.toNat] [])
  | .txbArv p sa => some (w.operands (w.predMask p) [sa.toNat] [])
  | .txbWt p sa sb => some (w.operands (w.predMask p) [sa.toNat, sb.toNat] [])
  | .sysw idx src => if idx = 0x0F || idx = 0x10 then some ⟨w.issue, [], [(w.rdS64 src).toNat]⟩ else none
  | .matAlloc _ => some (w.operands w.issue [] [])
  | .matFree => some (w.operands w.issue [] [])
  | .matZero _ => some (w.operands w.eff [] [])
  | .matWr a _ _ => some (w.operands w.eff [] (regRun a.toNat 4))
  | .matLdb sa _ _ spec _ => some (w.specEffect w.issue spec .ldb sa)
  | .matMma sa _ spec _ => some (w.specEffect w.eff spec .mma sa)
  | .matMmar va _ spec _ => some { w.operands w.eff [] (regRun va.toNat (aRegs (Spec.ofWord (w.matSpec spec)) (bitsOf w.medge.toNat 8 0))) with
      common := [(w.matSpec spec).toNat] }
  | .matSt sa _ spec _ => some (w.specEffect w.eff spec .st sa)
  | .cpyTIn c sa sb sc => some (w.copyEffect c ([sa.toNat, sa.toNat + 1, sb.toNat] ++ regRun sc.toNat (min 7 (63 - sc.toNat) + 1)))
  | .cpyTOut c sa sb sc => some (w.copyEffect c ([sa.toNat, sa.toNat + 1, sb.toNat] ++ regRun sc.toNat (min 7 (63 - sc.toNat) + 1)))
  | .cpyBIn c sa sb sc => some (w.copyEffect c [sa.toNat, sa.toNat + 1, sb.toNat, sc.toNat])
  | .cpyBOut c sa sb sc => some (w.copyEffect c [sa.toNat, sa.toNat + 1, sb.toNat, sc.toNat])
  | .cpyP c sa sb sc sd => some (w.copyEffect c [sa.toNat, sb.toNat, sc.toNat, sd.toNat])
  | .cpyRed c sa sb sc _ _ => some (w.copyEffect c [sa.toNat, sa.toNat + 1, sb.toNat, sc.toNat])
  | .cpyPf sa sc => some (w.operands w.issue [sa.toNat, sa.toNat + 1, sc.toNat] [])
  | .cpyG c sa sb sc vi => some (w.operands w.eff (cpyUses c [sa.toNat, sa.toNat + 1, sb.toNat, sc.toNat]).sr [vi.toNat])
  | .colAr _ sa sb sc sd _ _ => some (w.colEffect sa sb sc sd [])
  | .colAg _ sa sb sc sd _ => some (w.colEffect sa sb sc sd [])
  | .colRs _ sa sb sc sd _ _ => some (w.colEffect sa sb sc sd [])
  | .colA2a _ sa sb sc sd _ => some (w.colEffect sa sb sc sd [])
  | .colBc _ sa sb sc sd root _ => some (w.colEffect sa sb sc sd [root])
  | .launch p _ => some (w.operands w.issue [2 * p.toNat, 2 * p.toNat + 1] [])
  | _ => none

/-! ## Kinds of instruction (R338, R339) -/

/-- A register of `sysr` whose value the trailing warp takes from the leading one (R308). -/
def sprTaken (idx : BitVec 8) : Bool := idx = 0x11 || (3 ≤ idx.toNat && idx.toNat ≤ 6)

/-- An instruction that only receives values, or asks memory for none: the trailing warp does not issue it, and takes its values from the load
value queue (R308, R338). -/
def takesValues : Instr → Bool
  | .ld _ => true
  | .gld _ => true
  | .sld _ => true
  | .pf _ => true
  | .ldsB32 _ _ _ => true
  | .ldsB64 _ _ _ => true
  | .ldsB128 _ _ _ => true
  | .ldsN8 _ _ _ => true
  | .ldsS8 _ _ _ => true
  | .ldsN16 _ _ _ => true
  | .ldsS16 _ _ _ => true
  | .sysr _ idx => sprTaken idx
  | .time _ => true
  | .matRd _ _ _ => true
  | .matRbnd _ _ => true
  | _ => false

/-- Vector and scalar registers that a kind of instruction receives at once, of its group's lanes. -/
def takenNow : Instr → List Nat × List Nat
  | .ldsB32 d _ _ => (regRun d.toNat 1, [])
  | .ldsB64 d _ _ => (regRun d.toNat 2, [])
  | .ldsB128 d _ _ => (regRun d.toNat 4, [])
  | .ldsN8 d _ _ => (regRun d.toNat 1, [])
  | .ldsS8 d _ _ => (regRun d.toNat 1, [])
  | .ldsN16 d _ _ => (regRun d.toNat 1, [])
  | .ldsS16 d _ _ => (regRun d.toNat 1, [])
  | .sysr (.v d) _ => (regRun d.toNat 2, [])
  | .sysr (.s d) _ => ([], regRun d.toNat 2)
  | .time d => ([], regRun d.toNat 2)
  | .matRd d _ _ => (regRun d.toNat 4, [])
  | .matRbnd d _ => (regRun d.toNat 1, [])
  | _ => ([], [])

/-- An effect that waits in the store compare buffer while the leading warp goes on: one that returns no value (R339). -/
def queuedEffect : Instr → Bool
  | .st _ => true
  | .red _ => true
  | .gst _ => true
  | .stsB8 _ _ _ => true
  | .stsB16 _ _ _ => true
  | .stsB32 _ _ _ => true
  | .stsB64 _ _ _ => true
  | .stsB128 _ _ _ => true
  | _ => false

/-- An instruction that the two warps of a pair issue together: it orders or waits, holds or ends threads, or changes what one warp of the
pair has for both. -/
def issuedTogether : Instr → Bool
  | .kjoin _ _ => true
  | .kleave _ _ => true
  | .kwait _ _ => true
  | .meet _ => true
  | .fence _ _ => true
  | .waitd _ => true
  | .icinv _ _ _ => true
  | .isync => true
  | .tail _ => true
  | .trap _ => true
  | .bkpt _ => true
  | .rte => true
  | .yield => true
  | .sleep _ => true
  | .sysw _ _ => true
  | .xacq _ => true
  | .xrel => true
  | .matEdge _ _ => true
  | .matBank _ => true
  | .noInstructionWord => true
  | .groupTurnLimit => true
  | _ => false

/-! ## Comparison (R405) -/

/-- Lanes of an effect, none where there is none. -/
def effectLanes (e : Option Effect) : Mask := (e.map Effect.lanes).getD 0

/-- Lanes whose part of two effects differs; where kinds or lane sets differ, every lane effective in either (R405). -/
def differing (e f : Option Effect) : Mask := match e, f with
  | some x, some y =>
    if x.lanes = y.lanes && x.common = y.common then maskOf fun l => Map.find? x.parts l != Map.find? y.parts l else x.lanes ||| y.lanes
  | none, none => 0
  | _, _ => effectLanes e ||| effectLanes f

/-- The part of an effect that is of the lanes of `m`. -/
def Effect.within (e : Effect) (m : Mask) : Effect := { e with lanes := e.lanes &&& m, parts := e.parts.filter fun p => m.getLsbD p.1 }

/-- A trap has been taken. -/
def trapTaken (w x : Warp) : Bool := (w.trap.isNone && x.trap.isSome) || w.trapQueue.length < x.trapQueue.length

/-! ## Records -/

/-- Operations that an instruction started. -/
def started (s s' : State) : List Nat :=
  (s'.ops.filter fun p => (s.op? p.1).isNone).map Prod.fst ++ (s'.engs.filter fun p => (s.eng? p.1).isNone).map Prod.fst

/-- Values that the instruction `i` of the warp of slot `a` has received at once. -/
def State.nowVec (s s' : State) (a : Nat) (i : Instr) : List (Nat × LV) :=
  let w := s.warp a
  let x := s'.warp a
  newVec w x ++ ((takenNow i).1.flatMap fun r => (lanesOf w.issue).map fun l => (vkey r l, x.v r l))
def State.nowSca (s s' : State) (a : Nat) (i : Instr) : List (Nat × Word) :=
  newSca (s.warp a) (s'.warp a) ++ (takenNow i).2.map fun r => (r, (s'.warp a).s r)

/-- The record of an instruction that acted outside its pair or received values. -/
def actedBy (s s' : State) (a : Nat) (i : Instr) (e : Option Effect) : Acted :=
  { pc := (s.warp a).pc, effect := e, vec := s.nowVec s' a i, sca := s.nowSca s' a i, ops := started s s' }

/-- Received values written again. -/
def Warp.receive (w : Warp) (e : Acted) : Warp := w.take e.vec e.sca

/-- Words of the current instruction. -/
def Warp.len (w : Warp) : Nat := if isTwo w.iw0 then 2 else 1

/-- On a retry, the records of the instruction at the PC: what it did before is not done again (R406). -/
def Warp.done (w : Warp) : List Acted :=
  let r := w.pairRec
  if w.clause.isSome && r.redo.isSome then r.acted.filter fun e => e.pc = w.pc else []

/-- The effect that records tell of the lanes of `m`. -/
def recorded (m : Mask) (es : List Acted) : Option Effect := match es.filterMap (·.effect) with
  | [] => none
  | e :: t =>
    let u := t.foldl (fun x y => ⟨x.lanes ||| y.lanes, y.parts.foldl (fun p q => Map.put p q.1 q.2) x.parts, x.common⟩) e
    some (u.within m)

/-- What a record leaves when its clause has ended: a retry that came through is logged, and after a vote the spare lane takes the place of the
lane that failed (R407, R462). -/
def State.settleRec (s : State) (a : Nat) (r : PairRec) : State := match r.redo, r.spare with
  | some lanes, none => if lanes = 0 then s else s.pairRecord a lanes r.hdr 1
  | _, some (l, _) => s.updCore (coreOf a) fun c => { c with spare := Map.set c.spare 0 (quadOf a % 4) (l + 1) }
  | none, none => s

/-- The registers of the failed warp in the lane that failed come from the other warp (R407). -/
def State.rebuild (s : State) (a b : Nat) (r : PairRec) : State := match r.spare with
  | none => s
  | some (l, true) => s.updWarp a fun w => w.withLane (s.warp b) l
  | some (l, false) => s.updWarp b fun t => t.withLane (s.warp a) l

/-- A record at a clause end that both warps reach together: lanes that have left it are struck off; with the last one a retry that came
through is logged, and the spare lane takes its place (R406, R407, R462). -/
def State.closeRec (s : State) (a b : Nat) (r : PairRec) : State :=
  let m := r.mask &&& ~~~leftLanes r (s.warp a)
  let s := s.updWarp a fun x => { x with recs := { r with mask := m, lanes := m } :: x.recs.filter fun q => q.no != r.no }
  if m != 0 then s else ((s.settleRec a r).updWarp a Warp.dropRecs).rebuild a b r

/-- A new record of the group that has entered a clause: after an error that struck the pair, as of one that has mismatched (R433). Lanes that
stood in a record before have left it, but those whose clause a handler has interrupted. -/
def Warp.openRec (x : Warp) (trail : Map Thread) : Warp :=
  let r := { x.newRec with redo := if x.struck then some x.issue else none, trail := { threads := trail } }
  let old := if x.inTrap then x.recs else x.recs.map fun q => { q with mask := q.mask &&& ~~~x.issue }
  { ({ x with recs := r :: old } : Warp).dropRecs with struck := false }

/-- The records of a pair after an instruction that both warps made, which the leading one began as `w` and the trailing one as `t`. -/
def State.pairRecords (s : State) (a b : Nat) (w t : Warp) (act : Option Acted) : State :=
  let x := s.warp a
  if w.clause.isNone then
    if x.clause.isSome && x.issue != 0 then s.updWarp a fun x => x.openRec ((s.warp b).threadsOf x.issue) else s
  else
    let r := w.pairRec
    let r := { r with lead := r.lead.note w x, trail := r.trail.note t (s.warp b), acted := r.acted ++ act.toList }
    let s := s.updWarp a fun x => { x with recs := r :: x.recs.filter fun q => !(q.ofGroup w || q.no = r.no) }
    if x.issue != 0 then s else s.closeRec a b r

/-! ## The leading warp ahead (R338, R339) -/

/-- Entries of the load value queue: instructions whose values the trailing warp has still to take, and those that have not brought theirs. -/
def State.queued (s : State) (w : Warp) : Nat :=
  let takes := w.lag.filterMap fun k => match k.what with | .takes ops _ _ => some ops | _ => none
  let here := takes.flatten
  let values := w.lag.filter fun k => match k.what with | .value ops _ _ => !ops.any here.contains | _ => false
  let back := w.lag.flatMap fun k => match k.what with | .value ops _ _ => ops | _ => []
  let out := s.ops.filter fun p => p.2.uid = w.uid && p.2.kind.returns && !(here ++ back).contains p.1
  takes.length + values.length + out.length

/-- Effects in the store compare buffer. -/
def Warp.effectsAhead (w : Warp) : Nat := (w.lag.filter fun k => match k.what with | .effect _ => true | _ => false).length

/-- Clauses that the leading warp is ahead: those that the trailing one has still to enter. -/
def Warp.clausesAhead (w : Warp) : Nat := (w.lag.filter fun k => match k.what with | .enter _ => true | _ => false).length

/-- All steps that the trailing warp has still to make are of one run, or, of a clause that begins, of runs that have ended. -/
def Warp.lagWithin (w : Warp) (no : Nat) : Bool := w.lag.all fun k => !k.what.runs || k.no = no
def Warp.lagEnded (w : Warp) : Bool := w.lag.all fun k => !k.what.runs || w.recs.all fun r => r.no != k.no || r.mask = 0

/-- The leading warp enters a clause ahead of the trailing one, at most two of which it has not entered (R338). A header that waits for counters
waits for effects that have still to act. -/
def State.leadEnter (s : State) (i : Instr) (a : Nat) (wait : BitVec 6) : Option State :=
  let w := s.warp a
  if 2 ≤ w.clausesAhead || !w.lagEnded || (wait != 0 && w.effectsAhead != 0) then none
  else
    let x := s.after i
    let v := x.warp a
    if x = s || !v.live then none
    else if v.threads = w.threads && v.trap = w.trap && v.trapQueue = w.trapQueue then some x
    else match v.clause with
      | some c => if w.plainMove v then
          let y := v.openRec []
          some (x.setWarp a { y with lag := y.lag ++ [w.stepHere ((y.recs.head?).elim 0 (·.no)) (.enter c)] })
        else none
      | none => none

/-- The leading warp makes an instruction of a clause ahead of the trailing one, where that is possible: it computes a result, receives values
or puts an effect into the store compare buffer. -/
def State.leadOn (s : State) (i : Instr) (a : Nat) (r : PairRec) : Option State :=
  let w := s.warp a
  let x := s.after i
  let v := x.warp a
  if x = s || !w.plainMove v && v.hold == w.hold then none
  else if queuedEffect i then
    let y := s.finish w.len
    if 32 ≤ w.effectsAhead || !w.plainMove v || !w.plainMove (y.warp a) then none
    else (w.effectOf i).map fun e => y.updWarp a fun v => v.noteAhead w r [] (w.stepHere r.no (.effect e))
  else if takesValues i then
    if w.effectsAhead != 0 || 32 ≤ s.queued w || !w.lagWithin r.no then none
    else
      let e := actedBy s x a i none
      if w.plainMove v && v.hold == .none then some (x.updWarp a fun v => v.noteAhead w r [e] (w.stepHere r.no (.takes e.ops e.vec e.sca)))
      else if v.threads = w.threads && v.trap = w.trap && v.trapQueue = w.trapQueue then
        some (x.updWarp a fun v => { v with recs := { r with acted := r.acted ++ [e] } :: v.recs.filter fun q => q.no != r.no })
      else none
  else if issuedTogether i || (w.effectOf i).isSome || v.hold != .none || !w.plainMove v then none
  else some (x.updWarp a fun v => v.noteAhead w r [] (w.stepHere r.no .own))

/-- The leading warp goes ahead, where that is possible. -/
def State.lead (s : State) (i : Instr) (a : Nat) : Option State :=
  let w := s.warp a
  if !w.mayLead then none
  else match w.clause with
    | none => match i with
      | .clauseHeader _ _ wait _ => s.leadEnter i a wait
      | _ => none
    | some _ => if w.lagRun.all fun n => n = w.pairRec.no then s.leadOn i a w.pairRec else none

/-! ## The trailing warp behind -/

/-- The trailing warp's data and threads in the leading one's place, with its lanes `m` to issue. -/
def Warp.seated (t w : Warp) (m : Mask) : Warp := { w.withData t with threads := t.threads, issue := m, hold := .none }

/-- A trailing warp that has issued in the leading one's place again in its own; its stamp is set at its clause end (R336). -/
def Warp.back (z t : Warp) : Warp := if z.issue = 0 then { z.asTrailing t with stamp := z.stamp } else z.asTrailing t

/-- The instruction at which a warp stands in its clause. -/
def Warp.instr (w : Warp) : Option Instr := match w.clause with
  | some c => (w.decoded c).toOption
  | none => none

/-- The lanes of the trailing warp that make a step: those that stand where the leading ones stood, but for lanes that stood there without
issuing. -/
def LagStep.lanesOf (k : LagStep) (t : Warp) : Mask := t.standing k.pc k.cl &&& ~~~k.out

/-- An instruction that the trailing warp computes for itself; a trap that it alone would take is none, since it is no effect (log 57). -/
def State.trailOwn (s : State) (a : Nat) (t : Warp) (m : Mask) : Warp :=
  let q := ({ s with cur := a } : State).setWarp a { t.seated (s.warp a) m with uid := t.uid }
  match q.cw.instr with
  | none => t
  | some i =>
    let z := (q.after i).warp a
    if z.live && z.trap = q.cw.trap && z.trapQueue = q.cw.trapQueue && z.hold == .none && decide (z ≠ q.cw) then z.back t
    else ((q.updCw fun v => if z.live then v.withData z else v).finish q.cw.len).cw.back t

/-- An instruction whose values the trailing warp takes. -/
def State.trailTake (s : State) (a : Nat) (t : Warp) (m : Mask) (vec : List (Nat × LV)) (sca : List (Nat × Word)) : Warp :=
  let q := ({ s with cur := a } : State).setWarp a ((t.seated (s.warp a) m).take vec sca)
  (q.finish q.cw.len).cw.back t

/-- Values at the head of what the trailing warp has to do reach it at once. -/
def State.takeValues (s : State) (a b : Nat) : List LagStep → State
  | [] => s.updWarp a fun w => { w with lag := [] }
  | k :: rest => match k.what with
    | .value _ vec sca =>
      let t := s.warp b
      let u := t.take vec sca
      ((s.updWarp a fun w => { w with recs := w.recs.map fun r => r.followTrail (r.no = k.no) t u }).setWarp b u).takeValues a b rest
    | _ => s.updWarp a fun w => { w with lag := k :: rest }

/-- The trailing warp, `t` before it, has made a step: what it wrote is noted, and a record that nothing more belongs to is closed. -/
def State.trailDone (s : State) (a b : Nat) (k : LagStep) (t : Warp) (act : List Acted) (enter : Bool) : State :=
  let u := s.warp b
  let s := s.updWarp a fun w => { w with recs := w.recs.map fun r =>
    if r.no != k.no then r
    else if enter then { r with trail := { threads := u.threadsOf (k.lanesOf t) } }
    else { r with trail := r.trail.note t u, acted := r.acted ++ act } }
  let s := s.takeValues a b ((s.warp a).lag.drop 1)
  (s.updWarp a fun w => ({ w with recs := w.recs.map fun r => if w.lags r.no then r else { r with lanes := r.mask } } : Warp).dropRecs).sync a b

/-- The two warps go back to the clause's first instruction, to go through it together: no lane has mismatched. -/
def State.rejoin (s : State) (a b : Nat) : State := match (s.warp a).firstRec with
  | some r => s.retry a b r 0
  | none => (s.takeValues a b (s.warp a).lag).updWarp a fun w => { w with lag := [] }

/-- The oldest effect in the store compare buffer meets the trailing warp's: one that is the same acts once, for the leading warp's counters, and
another is a mismatch (R339, R405, R406). -/
def State.trailEffect (s : State) (a b : Nat) (k : LagStep) (e : Effect) : State :=
  let w := s.warp a
  let t := s.warp b
  let m := k.lanesOf t
  let q := ({ s with cur := a } : State).setWarp a (t.seated w m)
  let f := q.cw.instr.bind q.cw.effectOf
  match w.firstRec, q.cw.instr with
  | some r, some i =>
    let bad := differing (some e) f
    if some e ≠ f then { s.retry a b r (if bad = 0 then r.lanes else bad) with cur := s.cur }
    else
      let x := q.after i
      let z := x.warp a
      if x = q then s
      else if !(q.cw.plainMove z) then s.rejoin a b
      else
        let act : Acted := { pc := k.pc, effect := some e, vec := [], sca := [], ops := started q x }
        let lead := { w with ctr := z.ctr, seq := z.seq, acqMark := z.acqMark, deferred := z.deferred }
        { ((x.setWarp a lead).setWarp b (z.back t)).trailDone a b k t [act] false with cur := s.cur }
  | some r, none => s.retry a b r (if effectLanes (some e) = 0 then r.lanes else e.lanes)
  | none, _ => s

/-- The trailing warp makes the next step that the leading one has made before it. -/
def State.trailStep (s : State) (a b : Nat) : State :=
  let t := s.warp b
  match (s.warp a).lag with
  | [] => s
  | k :: _ =>
    let m := k.lanesOf t
    match k.what with
    | .enter c => (if m = 0 then s else s.setWarp b (({ t with issue := m } : Warp).enter c)).trailDone a b k t [] true
    | .own => (if m = 0 then s else s.setWarp b (s.trailOwn a t m)).trailDone a b k t [] false
    | .takes _ vec sca => (if m = 0 then s else s.setWarp b (s.trailTake a t m vec sca)).trailDone a b k t [] false
    | .value _ _ _ => s.takeValues a b (s.warp a).lag
    | .effect e => s.trailEffect a b k e

/-- The trailing warp catches up: by what it has to do, or, where an effect must wait, through the clause together with the leading one. -/
def State.drain (s : State) (a b : Nat) : Nat → State
  | 0 => s.rejoin a b
  | n + 1 =>
    if (s.warp a).lag = [] then s
    else
      let x := s.trailStep a b
      if x = s then s.rejoin a b else x.drain a b n

/-- A step of the machine that is no instruction of a pair, but for the pair at `own`, and what becomes of the pairs: where it moves or traps
threads of a leading warp that has run ahead, the trailing warps catch up first. -/
def State.paired (s : State) (own : Option Nat) (f : State → Out) : Out :=
  match f s with
  | .next x =>
    let ps := s.pairs.filter fun p => own ≠ some p.1
    if ps.any fun p => s.disturbed x p.1 then
      let s' := ps.foldl (fun s p => s.drain p.1 p.2 ((s.warp p.1).lag.length + 1)) s
      match f s' with
      | .next y => .next (s'.mirror y own)
      | o => o
    else .next (s.mirror x own)
  | o => o

/-! ## Instructions that both warps make together -/

/-- The trailing warp ends with the leading one. -/
def State.endPair (s : State) (a b : Nat) : State :=
  if !(s.warp a).live && (s.warp b).live then s.endWarp b else s

/-- The last instruction of a pair: its records end with it. -/
def State.endTogether (s : State) (a b : Nat) (i : Instr) : State :=
  (((s.warp a).recs.foldl (fun s r => s.settleRec a r) s).after i).endPair a b

/-- The trailing warp's data in the leading warp's place, at the same instruction. -/
def State.swapIn (s : State) (a : Nat) (t : Warp) : State :=
  s.updWarp a fun w => { t.seated w (t.standing w.pc (w.clause.map (·.hdr)) &&& ~~~(w.standing w.pc (w.clause.map (·.hdr)) &&& ~~~w.issue)) with
    hold := w.hold }

/-- An instruction that has been done by both: `x` is the leading warp's outcome, `u` the trailing warp after it. -/
def State.pairDone (s x : State) (a b : Nat) (u : Warp) (act : Option Acted) : State :=
  (x.setWarp b u).pairRecords a b (s.warp a) (s.warp b) act

/-- An instruction that a retry has come to again (R406): its effect is produced and compared with the record, and it takes the values
recorded. -/
def State.pairReplay (s : State) (a b : Nat) (i : Instr) (es : List Acted) (bad : Mask → State) : State :=
  let w := s.warp a
  let want := recorded w.issue es
  let m := differing (w.effectOf i) want ||| differing (((s.swapIn a (s.warp b)).warp a).effectOf i) want
  if want.isSome && m != 0 then bad m
  else
    let x := (s.updWarp a fun w => es.foldl Warp.receive w).finish w.len
    s.pairDone x a b ((es.foldl Warp.receive (s.warp b)).steer w (x.warp a)) none

/-- An instruction that both warps make together, the effect acting once when they agree; `bad` is what follows a mismatch of some lanes.
One that waits does nothing yet. -/
def State.together (s : State) (a b : Nat) (i : Instr) (bad : Mask → State) : State :=
  let w := s.warp a
  let t := s.warp b
  match w.done with
  | e :: es => s.pairReplay a b i (e :: es) bad
  | [] =>
    let x := s.after i
    let p := s.swapIn a t
    let v := x.warp a
    let e := w.effectOf i
    let f := (p.warp a).effectOf i
    let done := actedBy s x a i e
    if x = s then s
    else if !v.live then s.endTogether a b i
    else if e.isSome then
      if e = f then s.pairDone x a b ((t.follow w v).receive done) (if trapTaken w v && done.vec = [] && done.ops = [] then none else some done)
      else if trapTaken w v then bad (effectLanes f)
      else if trapTaken w ((p.after i).warp a) then bad (effectLanes e)
      else bad (differing e f)
    else if takesValues i then s.pairDone x a b ((t.follow w v).receive done) (some done)
    else
      let y := (p.after i).warp a
      s.pairDone x a b ((t.steer w v).withData (if y.live then y else t)) none

/-! ## The vote (R407) -/

/-- The spare lane's run of a clause from its header to the present instruction, on the leading warp's values (R407). -/
def State.spareRun (s : State) (a : Nat) (pc : DWord) : Nat → State
  | 0 => s
  | f + 1 =>
    let w := s.warp a
    if w.pc = pc then s
    else match w.done with
      | e :: es => (((s.updWarp a fun w => (e :: es).foldl Warp.receive w).finish w.len)).spareRun a pc f
      | [] => match w.instr with
        | some i => (s.after i).spareRun a pc f
        | none => s

/-- A mismatch after a vote of the clause: the spare lane decides no other lane (R407, R408). -/
def State.mismatchAgain (s : State) (a b : Nat) (lanes : Mask) : State :=
  let r := (s.warp a).pairRec
  let lanes := if lanes = 0 then (s.warp a).issue else lanes
  if lanes &&& r.redo.getD 0 = 0 then s.retry a b r lanes else s.pairFail a b lanes r 2

/-- The vote on lane `l` (R407): the spare lane's part of the effect against both warps'. The warp whose lane has failed goes on with the
other one's lane, and the instruction is made. -/
def State.vote (s : State) (i : Instr) (a b l : Nat) (lanes : Mask) (r : PairRec) : State :=
  let w := s.warp a
  let t := s.warp b
  let only : Option Effect → Option Effect := fun e => e.map fun e => e.within (1#32 <<< l)
  let spare := ((s.updWarp a fun w => w.undone r.lead w.issue).spareRun a w.pc 64).warp a
  let z := only ((w.withLane spare l).effectOf i)
  let decide := fun (s : State) (leading : Bool) (outcome : Nat) =>
    let s := (s.updWarp a fun w => w.setRec { r with spare := some (l, leading) }).pairRecord a lanes r.hdr outcome
    s.together a b i (s.mismatchAgain a b)
  if z = only (((s.swapIn a t).warp a).effectOf i) then decide (s.setWarp a (w.withLane t l)) true 2
  else if z = only (w.effectOf i) then decide (s.setWarp b (t.withLane w l)) false 3
  else s.pairFail a b lanes r 1

/-- The spare lane of a quadrant has taken a lane's place, or is to take it. -/
def State.spareUsed (s : State) (a : Nat) (r : PairRec) : Bool := Map.get (s.core (coreOf a)).spare 0 (quadOf a % 4) ≠ 0 || r.spare.isSome

/-- A mismatch of an instruction that both warps made (R406 to R408): the clause is retried, or a lane that mismatches again is voted on. -/
def State.mismatch (s : State) (a b : Nat) (i : Instr) (lanes : Mask) : State :=
  let r := (s.warp a).pairRec
  let lanes := if lanes = 0 then (s.warp a).issue else lanes
  let again := lanes &&& r.redo.getD 0
  if again = 0 then s.retry a b r lanes
  else if s.spareUsed a r then s.pairFail a b lanes r 2
  else s.vote i a b (lowest again) lanes r

/-! ## An instruction of a pair -/

/-- An instruction of the leading warp at slot `a`, with its trailing warp at `b` (R338, R339): ahead of it, or together with it once it has
caught up. -/
def State.runPair (s : State) (i : Instr) (a b : Nat) : State :=
  if (s.warp a).issue = 0 then (s.after i).sync a b
  else match s.lead i a with
    | some x => x
    | none => if (s.warp a).lag = [] then s.together a b i (s.mismatch a b i) else s.trailStep a b

/-- The current warp has asked for instruction words, or taken the fault of a fetch: a trailing warp follows it, or catches up first. -/
def State.apart (s x : State) : State := match s.cw.role with
  | .leading b => if s.disturbed x s.cur then s.trailStep s.cur b else s.mirrorPair x s.cur b
  | _ => x

/-- An instruction of the current warp: with its partner when it leads a pair. -/
def State.runInstr (s : State) (i : Instr) : Out := match s.cw.role with
  | .leading b => .next (s.runPair i s.cur b)
  | _ => exec i s

end Sys2Proof.Machine
end

