-- ==== Sys2Proof/Machine/Sched.lean ====
section
/-! DEFINITION. What moves next (R15, R33, R54, R335 to R337): the issue of an instruction by a warp, the steps that the machine takes by
itself, and the turns that the model's schedule names. -/

namespace Sys2Proof.Machine

/-! ## Issue (R33, R160, R335, R343) -/

/-- A launch lets its warps issue: it has started (R343). A warp without a launch is bound by none. -/
def State.startedLaunch (s : State) (lid : Nat) : Bool := match s.launch? lid with
  | some l => l.started
  | none => true

/-- The warp of a slot stops at its next clause end: it is being pre-empted, aborted or rolled back (R341, R436, R451). -/
def State.stopping (s : State) (w : Warp) : Bool :=
  (s.cluster (s.block w.block).cluster).preempt || (w.launch ≠ 0 && s.hub.abort = some w.launch)
    || (s.launch? w.launch).any fun l => l.rolling.isSome

/-- The leading warp has issued a clause to its end that the trailing one is still in, or has still to enter. -/
def Warp.hasLed (w : Warp) : Bool := match w.lag with
  | [] => false
  | k :: _ => w.issue = 0 || w.recs.all fun r => r.no != k.no || !r.ofGroup w

/-- The slot may issue: an active warp of a started launch, with no access or invalidation in progress (R250, R335) and no trap that waits
(R387); a trailing warp issues each clause after its leading one has issued it (R338). -/
def State.mayIssueSlot (s : State) (k : Nat) : Bool :=
  let w := s.warp k
  w.live && w.active && s.startedLaunch w.launch && match w.role with
    | .trailing a => (s.warp a).hasLed
    | _ => (w.trapQueue = [] || w.trap.isSome) && match w.hold with
      | .none => true
      | .fence _ => true
      | _ => false

/-- The instruction at the PC of the issuing group, in its clause (R182) or at a header (R160, R161). -/
def State.runGroup (s : State) : Out :=
  match s.cw.clause with
  | some c => if c.n = 0 then .next (s.apart (s.readClause c.hdr)) else s.runInstr (instrAt c.cls (s.cw.isLast c) (c.word s.cw.pc) (c.word (s.cw.pc + 4)))
  | none => match s.fetchWord s.cur s.cw.pc.toNat with
    | .ok s w => s.runInstr (if isHeader w then headerOf w else .noInstructionWord)
    | .walk va => .next (s.apart (s.fetchWalk .fetch va))
    | .fault c va => .next (s.apart (s.fetchFault c va 0 0))

/-- Lanes of a list of masks taken one group after another. -/
def Warp.agedGroups (w : Warp) : Nat → Mask → List Mask
  | 0, _ => []
  | n + 1, left => match w.eldest (lanesOf left) with
    | none => []
    | some l => w.groupOf l :: w.agedGroups n (left &&& ~~~w.groupOf l)

/-- The PC groups of a warp in the order in which it selects them (R33): the group in turn, then by age. A warp that stops at
its clause end goes on only with groups inside a clause. -/
def Warp.candidates (w : Warp) (stopping : Bool) : List Mask :=
  let gs := w.agedGroups 32 w.issuers
  let gs := if w.turnStands then w.turnMask :: gs.filter (· != w.turnMask) else gs
  if stopping then gs.filter fun m => (w.thr (lowest m)).cl.isSome else gs

/-- A group begins to issue; one selected inside its clause takes the turn there (R33), but for a handler's (R54). -/
def Warp.begin (w : Warp) (m : Mask) : Warp :=
  if (w.thr (lowest m)).cl.isSome && w.trap.isNone then { w with issue := m, turn := if w.turnMask = m then w.turn else 0, turnMask := m }
  else { w with issue := m }

/-- The first group that is ready, that is, whose issue changes something (R33, R335). -/
def State.tryGroups (s : State) : List Mask → Out
  | [] => .next s
  | m :: t =>
    let x := s.updCw fun w => w.begin m
    match x.runGroup with
    | .next y => if y = x then s.tryGroups t else .next y
    | o => o

/-- The groups that replay while the issuing group stands at an `xrel` that awaits their lanes (R314). -/
def Warp.xrelReplays (w : Warp) : List Mask :=
  match w.clause with
  | some c => if c.word w.pc = 0xC3C00000#32 && w.parkedExtended then
      (w.agedGroups 32 (w.issuers &&& ~~~w.issue)).filter fun m => (w.thr (lowest m)).replay.isSome
    else []
  | none => []

/-- The warp of the current slot issues: its group goes on in its clause, or a group is selected (R33). -/
def State.issueCw (s : State) : Out :=
  if s.cw.issue ≠ 0 then
    match s.cw.xrelReplays with
    | [] => s.runGroup
    | m :: t => s.tryGroups (m :: t)
  else if s.cw.atLimit then s.runInstr .groupTurnLimit
  else s.tryGroups (s.cw.candidates (s.stopping s.cw))

/-- The warp of a slot issues: a trailing one what its leading warp has issued before it. -/
def State.issueSlot (s : State) (k : Nat) : Out :=
  if s.mayIssueSlot k then match (s.warp k).role with
    | .trailing a => .next (({ s with cur := k } : State).trailStep a k)
    | _ => ({ s with cur := k } : State).issueCw
  else .next s

/-- The slot that speaks for the warp of a slot in its pair. -/
def State.leadSlot (s : State) (k : Nat) : Nat := match (s.warp k).role with
  | .trailing a => a
  | _ => k

/-- A warp has been chosen to issue; every other pair follows what that does. -/
def State.issueOf (s : State) (k : Nat) : Out := s.paired (some (s.leadSlot k)) fun s => s.issueSlot k

/-! ## The active set (R335, R337) -/

/-- The issuing group can issue: the instruction does something, and more than to ask for instruction words. -/
def State.canIssue (s : State) : Bool := match s.runGroup with
  | .next y => decide (y ≠ s) && match y.cw.hold with
    | .access id => (y.op? id).all fun o => !o.reads || s.cw.hold == .access id
    | _ => true
  | _ => false

/-- A group of the warp of the current slot can issue its next instruction: at a header its wait is met, and no interlock on the first
instruction of the clause is closed (R335, R337). -/
def State.groupReady (s : State) (m : Mask) : Bool :=
  let x := s.updCw fun w => w.begin m
  x.canIssue && match x.cw.clause, x.runGroup with
    | none, .next y => y.cw.issue = 0 || y.cw.clause.isNone || y.cw.underWay || y.canIssue
    | _, _ => true

/-- A warp is ready in this cycle (R335, R337): a group of it can issue, whether the warp is active or not. -/
def State.isReady (s : State) (slot : Nat) : Bool :=
  let s := { s with cur := slot }
  let w := s.cw
  w.live && w.role.counts && !w.underWay && (w.trapQueue = [] || w.trap.isSome)
    && (if w.issue ≠ 0 then [w.issue] else w.agedGroups 32 w.issuers).any s.groupReady

/-- Readiness noted before time passes: a warp for which it has changed begins to count its cycles anew (R337). -/
def State.noteReady (s : State) : State :=
  s.warps.keys.foldl (fun x k =>
    if (s.warp k).live && s.isReady k != (s.warp k).ready then x.updWarp k fun w => { w with ready := s.isReady k, since := s.cycle } else x) s

/-- Time passes, for which warps are ready or not (R337). -/
def State.pass (s : State) (ns : Nat) : State := s.noteReady.tick ns

/-- Pending warps of a quadrant, earliest stamp first; a trailing warp moves with its leading one. -/
def State.pending (s : State) (quad : Nat) : List Nat :=
  (sortBy (fun a b => a.2.stamp ≤ b.2.stamp)
    (s.warps.filter fun p => quadOf p.1 = quad && p.2.live && !p.2.active && p.2.role.counts)).map Prod.fst

/-- Quadrants that hold a pending warp. -/
def State.pendingQuads (s : State) : List Nat := ((s.warps.filter fun p => p.2.live && !p.2.active).map fun p => quadOf p.1).eraseDups

/-- Free places of the active set are taken by the earliest pending warp, when it fits with its partner (R335, R338). -/
def State.fillSet (s : State) (quad : Nat) : State := match s.pending quad with
  | [] => s
  | k :: _ => if s.activeRoom k ((s.warp k).slots k).length then s.activate k else s

/-- Active warps of a quadrant that speak for their pair. -/
def State.actives (s : State) (quad : Nat) : List Nat :=
  (s.warps.filter fun p => quadOf p.1 = quad && p.2.live && p.2.active && p.2.role.counts).map Prod.fst

/-- The swaps that are due in a quadrant (R337). -/
def State.swapSteps (s : State) (quad : Nat) : List (State → Out) :=
  (s.pending quad).flatMap fun inn => (s.actives quad).flatMap fun out => [execWarpSwapOut out inn, execWarpSwapIn inn out]

/-! ## Steps that the machine takes by itself -/

/-- Steps of memory operations, promotions and engine operations. -/
def State.opSteps (s : State) : List (State → Out) :=
  (s.ops.flatMap fun q => (q.2.lanes.map fun l => execHomeRequest q.1 l.1) ++ (q.2.lanes.map fun l => execPageTableWalk q.1 l.1)
      ++ [execLoadReturn q.1, execStoreAcknowledge q.1, execMatStComplete q.1, execReleaseDrainComplete q.1])
    ++ (s.promos.flatMap fun p => [execPromoteRequest p.1, execPromoteDone p.1])
    ++ (if s.htu = [] then [] else [fun s => .next s.htuTry])

/-- Steps of engine and matrix operations. -/
def State.engSteps (s : State) : List (State → Out) :=
  (s.engs.flatMap fun q => [execEngineStart q.1] ++ ((List.range q.2.xfers.length).map fun i => execHomeRequest q.1 i)
      ++ ((List.range q.2.xfers.length).map fun i => execPageTableWalk q.1 i)
      ++ [execTensorDescriptorRead q.1, execMatLdbBankWrite q.1, execLaunchEntryAppend q.1, execEngineOperationComplete q.1])
    ++ s.mats.map fun q => execMatMmaComplete q.1 0

/-- Steps of warps: handlers, waiting traps, invalidations, sleepers, extended blocks; a trailing warp follows its leading one. -/
def State.warpSteps (s : State) : List (State → Out) :=
  ((s.warps.filter fun p => p.2.role.counts).flatMap fun p => [execTrapHandlerEntry p.1, fun s => .next (s.nextTrap p.1), execIcinvComplete p.1]
      ++ (lanesOf (p.2.lanes fun t => match t.st with | .sleeping _ => true | _ => false)).map fun l => execSleepWake p.1 l)
    ++ s.xq.map fun q => execXacqServed q.1

/-- Steps of queues, launches and clusters. -/
def State.launchSteps (s : State) : List (State → Out) :=
  (s.queues.flatMap fun q => [execLaunchSlot (q.1 / 64) (q.1 % 64), execRangeInvalidationEntry (q.1 / 64) (q.1 % 64),
      execRangeInvalidationDone (q.1 / 64) (q.1 % 64)])
    ++ (s.launches.flatMap fun l => [execLaunchHeaderRead l.1, execWaitEventCheck l.1, execGangStart l.1,
      fun s => .next (s.rollTry l.1)])
    ++ (s.clusters.map fun c => execPreemptSave c.1) ++ ((List.range 8).map fun p => execTimeSliceExpiry p)
    ++ [fun s => .next s.abortTry]

/-- Steps of the hub: messages, collectives, readings, checkpoints, and what a clock starts. -/
def State.hubSteps (s : State) : List (State → Out) :=
  (((s.fab.inbox.filter fun x => x.2.1 = 3).map fun x => fun s : State => (.next (s.handle x.1 x.2.2) : Out)).take 1)
    ++ [fun s => .next (s.colAdvance 4)] ++ (s.fab.notices.map fun n => execCollectivePartComplete n.msg.milepost.toNat)
    ++ (s.fab.notices.map fun n => execCollectiveTimeout n.msg.milepost.toNat)
    ++ (s.promos.map fun p => execPromoteAckTimeout p.1)
    ++ [execEnergyReadingWrite, execEnergyCheckpoint]
    ++ (if s.hub.ready.getLsbD 7 then [execHeartbeatSend, execSequencerTakeover] else [])
    ++ (if s.hub.held = [] then [] else [fun s => .next s.apServeAll])
    ++ (if s.fab.inbox.any fun m => m.2.1 = 4 then [fun s => .next s.answerTime] else [])
    ++ (s.pendingQuads.flatMap fun q => (fun s : State => (.next (s.fillSet q) : Out)) :: s.swapSteps q)

/-- The first of a list of steps that changes the state. -/
def firstChange (s : State) : List (State → Out) → Option (State → Out)
  | [] => none
  | f :: t => if (f s).or s = s then firstChange s t else some f

/-- The next step that the machine takes by itself, if one is due. -/
def State.work (s : State) : Option (State → Out) :=
  firstChange s (s.opSteps ++ s.engSteps ++ s.warpSteps ++ s.launchSteps ++ s.hubSteps)

/-! ## The order of issue without turns (R336) -/

/-- Slots that may issue, earliest stamp first, the lower slot on a tie. -/
def State.ready (s : State) : List Nat :=
  (sortBy (fun a b => a.2.stamp ≤ b.2.stamp) (s.warps.filter fun p => s.mayIssueSlot p.1 && (p.2.issuers != 0 || !p.2.role.counts))).map Prod.fst

/-- The first slot whose issue changes something, then a ns; without one, a µs passes. -/
def State.issueAny (s : State) : List Nat → Out
  | [] => .next (s.pass 1000)
  | k :: t => match s.issueOf k with
    | .next x => if x = { s with cur := k } then s.issueAny t else .next (x.pass 1)
    | o => o

/-! ## Turns -/

/-- A warp's front end fetches a line ahead (R251). -/
def State.prefetch (s : State) (slot va : Nat) : State :=
  if !(s.warp slot).live then s
  else match s.fetchLine slot va with
    | .ok s bs 0 => s.updWarp slot fun w => { w with fetched := Map.put w.fetched (va / 128) bs }
    | _ => s

/-- Ranges that an agent outside the package writes by physical address: host, pool and peer memory (R345). -/
def outsidePa (pa : Nat) : Bool := match paKind pa with
  | .host => true
  | .pool => true
  | .peer => true
  | _ => false

/-- A row that stands for a step and no word. -/
def isEvent (i : Instr) : Bool := (encode i).isEmpty && match i with
  | .clauseHeader _ _ _ _ => false
  | .noInstructionWord => false
  | .groupTurnLimit => false
  | _ => true

/-- One turn of the schedule. -/
def State.turn (s : State) : Turn → Out
  | .event i => if isEvent i then s.paired none (exec i) else .next s
  | .issue k => s.issueOf k
  | .issueTorn k half => match ({ s with torn := half } : State).issueOf k with
      | .next x => .next { x with torn := 0 }
      | o => o
  | .peerError op part => s.paired none fun s => .next (s.peerFails op part s.time)
  | .tick ns => .next (s.pass ns)
  | .evictL1 key => .next { s with l1 := Map.set s.l1 none key none }
  | .evictI key => .next { s with icache := Map.set s.icache none key none }
  | .evictHome key => .next (s.evictHome key)
  | .dropWalk i => .next { s with tlb := s.tlb.eraseIdx i }
  | .prefetch slot va => .next (s.prefetch slot va)
  | .outside pa bs => .next (if outsidePa pa && outsidePa (pa + bs.length - 1) then s.pokes pa bs else s)
  | .upset slot key bits => .next (s.updWarp slot fun w =>
      { w with vregs := Map.upd w.vregs LV.zero key fun v => { v with val := v.val ^^^ bits } })
  | .read vf off =>
    if 0x40000 ≤ off && off < 0x44000 && off % 0x40 = 0x10 then execQrsv vf ((off - 0x40000) / 0x1000) (off % 0x1000 / 0x40) s
    else .next (s.send (.hubRead vf off (s.regRead vf off)))

/-- The machine without turns: what it does by itself, else the issue of a warp. -/
def State.run (s : State) : Out := match s.work with
  | some f => s.paired none f
  | none => s.issueAny s.ready

/-! ## The first instruction -/

/-- A clause of one instruction at the class that admits it. -/
def oneClause (w0 w1 : Word) : Clause :=
  let ok := fun c : Nat => match decodeAt (BitVec.ofNat 3 c) true w0 w1 with
    | .ok _ => true
    | .error _ => false
  ⟨0x1000, BitVec.ofNat 3 (((List.range 6).find? ok).getD 0), false, if isTwo w0 then [w0, w1] else [w0], 1⟩

/-- A warp of 32 running threads with words before it: at a header, its fetch line fetched ahead; else in a clause. -/
def fetchWarp (uid : Nat) (w0 w1 : Word) : Warp :=
  let hdr := isHeader w0
  let t : Thread := { Thread.idle with st := .running, pc := if hdr then 0x1000 else 0x1004, cl := if hdr then none else some (oneClause w0 w1) }
  { Warp.empty with
    live := true, uid, active := true, issue := BitVec.allOnes 32, turnMask := BitVec.allOnes 32, exm := BitVec.allOnes 32,
    threads := (List.range 32).map fun l => (l, t),
    fetched := if hdr then [(0x20, bytesOf 4 w0.toNat ++ bytesOf 4 w1.toNat ++ List.replicate 120 0)] else [] }

end Sys2Proof.Machine
end

