-- ==== Sys2Proof/Machine/Step.lean ====
section
/-! DEFINITION. One step of the machine: the turn that the schedule names, or else the machine's own order. -/

namespace Sys2Proof.Machine

/-- One step: the next turn, or what the machine does by itself. -/
def step (s : State) : Host.Outcome State Fault Refusal :=
  match s.turns with
  | t :: rest => { s with turns := rest }.turn t
  | [] => s.run

/-- The state whose next step runs the instruction with these bits: a warp in slot 0 stands before it, and has the turn. -/
def State.withFetchWord (s : State) (_nbits w : Nat) : State :=
  let p := tableWords w
  { s.setWarp 0 (fetchWarp s.nextId p.1 p.2) with turns := .issue 0 :: s.turns, nextId := s.nextId + 1 }

end Sys2Proof.Machine
end

