-- ==== Sys2Proof/Safety.lean ====
section
/-! DEFINITION. What a safe run is, and the terms that claims are stated in: when the checks at issue pass, what an
instruction leaves alone, and the values that the manual's tables give. -/

namespace Sys2Proof.Machine

/-- A run of `n` steps is safe: no step ends in a fault or a refusal. -/
def Safe (n : Nat) (s : State) : Prop := ∃ t, Host.Core.run Sys2Proof.core n s = .next t

/-! ## Hypotheses -/

/-- The checks at issue pass (R61, R65, R233): no operation in flight holds a register named, the warp holds every vector register
named, and each latch read is captured. -/
def State.clear (s : State) (u : Uses) : Prop :=
  s.interlocked u = false ∧ (u.vr ++ u.vw).any s.cw.unheld = false ∧ u.lat.any s.cw.latchMissing = false

/-- No deferred fault waits for the issuing group, so that an instruction is no delivery point (R394). -/
def State.noPending (s : State) : Prop := s.cw.deferred = []

/-- The trap registers let a trap be entered at once (R387, R388, R395): `%tvec` and `%tframe` are set, the frame is aligned and lies
within the address space, no older trap of the warp waits, and no operation of another group is under way. -/
def handlerReady (w : Warp) : Prop :=
  w.tvec ≠ 0 ∧ w.tframe ≠ 0 ∧ w.tframe.toNat % 128 = 0 ∧ w.tframe.toNat + 2048 ≤ 2 ^ 52 ∧ w.trapQueue = [] ∧ w.underWay = false

/-- The latch of a thread that a capture code names: 1 to 3 for l0 to l2 (R196). -/
def Thread.latch (t : Thread) (cap : Nat) : Latch := match cap with
  | 1 => t.l0
  | 2 => t.l1
  | _ => t.l2

/-! ## Frames -/

/-- The special registers, counters and trap state of a warp are unchanged. -/
def Warp.specialsKept (w w' : Warp) : Prop :=
  w'.exm = w.exm ∧ w'.unc = w.unc ∧ w'.budget = w.budget ∧ w'.awb = w.awb ∧ w'.awl = w.awl ∧ w'.medge = w.medge ∧
    w'.mbank = w.mbank ∧ w'.tvec = w.tvec ∧ w'.tframe = w.tframe ∧ w'.xblocks = w.xblocks ∧ w'.ctr = w.ctr ∧ w'.trap = w.trap ∧
    w'.trapQueue = w.trapQueue ∧ w'.deferred = w.deferred ∧ w'.hold = w.hold ∧ w'.seq = w.seq ∧ w'.acqMark = w.acqMark

/-- Memory of every kind is unchanged: each byte of physical memory reads as before, and so do scratchpad, group space, their
bounds and poison, and every cached line. -/
def State.memoryKept (s t : State) : Prop :=
  (∀ a, t.peek a = s.peek a) ∧ t.poison = s.poison ∧ t.scratch = s.scratch ∧ t.side = s.side ∧ t.gspace = s.gspace ∧ t.l1 = s.l1 ∧
    t.icache = s.icache ∧ t.home = s.home

/-- Nothing outside the issuing warp is changed, memory apart. -/
def State.outsideKept (s t : State) : Prop :=
  t.cur = s.cur ∧ (∀ k, k ≠ s.cur → t.warp k = s.warp k) ∧ t.blocks = s.blocks ∧ t.clusters = s.clusters ∧ t.launches = s.launches ∧
    t.queues = s.queues ∧ t.cores = s.cores ∧ t.ops = s.ops ∧ t.engs = s.engs ∧ t.mats = s.mats ∧ t.hub = s.hub ∧ t.fab = s.fab ∧
    t.power = s.power ∧ t.time = s.time ∧ t.outbox = s.outbox

/-- The threads of the issuing group that do not stay behind move on by `n` words (R157). -/
def State.movesOn (s t : State) (n : Nat) : Prop :=
  ∀ l, s.cw.issue.getLsbD l = true → (s.cw.thr l).stays = false →
    (t.cw.thr l).pc = (s.cw.thr l).pc + BitVec.ofNat 64 (4 * n)

/-- What no arithmetic instruction touches: special registers, memory and everything outside the warp. -/
def State.arithKept (s t : State) : Prop := s.cw.specialsKept t.cw ∧ s.memoryKept t ∧ s.outsideKept t

/-- After a scalar instruction that writes `n` registers from `d` on: every other scalar register, the vector registers, `sc`, the
masks and all the rest are as before. -/
def scalarKept (d n : Nat) (s t : State) : Prop :=
  (∀ r, r < d ∨ d + n ≤ r → t.cw.s r = s.cw.s r) ∧ t.cw.vregs = s.cw.vregs ∧ t.cw.sc = s.cw.sc ∧ t.cw.kregs = s.cw.kregs ∧
    s.arithKept t ∧ s.movesOn t 1

/-- After a scalar compare: every register and mask, and all the rest, are as before. -/
def conditionKept (s t : State) : Prop :=
  t.cw.sregs = s.cw.sregs ∧ t.cw.vregs = s.cw.vregs ∧ t.cw.kregs = s.cw.kregs ∧ s.arithKept t ∧ s.movesOn t 1

/-- After a vector instruction of `n` words: scalar registers, `sc`, the masks and all the rest are as before. -/
def vectorKept (s t : State) (n : Nat) : Prop :=
  t.cw.sregs = s.cw.sregs ∧ t.cw.sc = s.cw.sc ∧ t.cw.kregs = s.cw.kregs ∧ s.arithKept t ∧ s.movesOn t n

/-! ## Values of the manual's tables (R197 to R200) -/

/-- The lesser of two numbers, and the greater, by an order. -/
def pick (le : Bool) (a b : Word) : Word := if le then a else b

/-- How many bits of a word are set; how many zeros stand above, and below, every set bit (R197). -/
def countSet (a : Word) : Nat := ((List.range 32).filter fun i => a.getLsbD i).length
def zerosAbove (a : Word) : Nat := (((List.range 32).map fun i => a.getLsbD (31 - i)).takeWhile fun b => !b).length
def zerosBelow (a : Word) : Nat := (((List.range 32).map fun i => a.getLsbD i).takeWhile fun b => !b).length

/-- Bits O to O + n − 1 of a word at the bottom of the result, and above them zeros or the field's top bit (R198). -/
def fieldOf (signed : Bool) (x f : Word) : Word :=
  BitVec.ofNat 32 ((List.range 32).foldr (fun i acc =>
    let bit := if i < fieldLen f then x.getLsbD (fieldOff f + i)
      else signed && fieldLen f != 0 && x.getLsbD (fieldOff f + fieldLen f - 1)
    if bit then acc + 2 ^ i else acc) 0)

/-- The 32-bit function of two operands that a mnemonic of R197 names. -/
def binary : Instr → Option (Word → Word → Word)
  | .sIaddB32 _ _ _ | .vIaddB32 _ _ _ | .wIaddB32 _ _ _ => some fun a b => BitVec.ofNat 32 (a.toNat + b.toNat)
  | .sIsubB32 _ _ _ | .vIsubB32 _ _ _ | .wIsubB32 _ _ _ => some fun a b => BitVec.ofInt 32 (a.toInt - b.toInt)
  | .sImulB32 _ _ _ | .vImulB32 _ _ _ | .wImulB32 _ _ _ => some fun a b => BitVec.ofNat 32 (a.toNat * b.toNat)
  | .imulhiS32 _ _ _ => some fun a b => BitVec.ofInt 32 (a.toInt * b.toInt / 2 ^ 32)
  | .imulhiN32 _ _ _ => some fun a b => BitVec.ofNat 32 (a.toNat * b.toNat / 2 ^ 32)
  | .sAnd _ _ _ | .vAnd _ _ _ | .wAnd _ _ _ => some fun a b => a &&& b
  | .sOr _ _ _ | .vOr _ _ _ | .wOr _ _ _ => some fun a b => a ||| b
  | .sXor _ _ _ | .vXor _ _ _ | .wXor _ _ _ => some fun a b => a ^^^ b
  | .andn _ _ _ => some fun a b => a &&& ~~~b
  | .sShl _ _ _ | .vShl _ _ _ | .wShl _ _ _ => some fun a b => if 32 ≤ b.toNat then 0 else a <<< b.toNat
  | .sShrN32 _ _ _ | .vShrN32 _ _ _ | .wShrN32 _ _ _ => some fun a b => if 32 ≤ b.toNat then 0 else a >>> b.toNat
  | .sShrS32 _ _ _ | .vShrS32 _ _ _ | .wShrS32 _ _ _ =>
    some fun a b => if 32 ≤ b.toNat then (if a.toInt < 0 then 0xFFFFFFFF else 0) else BitVec.ofInt 32 (a.toInt / 2 ^ b.toNat)
  | .sIminS32 _ _ _ | .vIminS32 _ _ _ | .wIminS32 _ _ _ => some fun a b => pick (a.toInt ≤ b.toInt) a b
  | .sIminN32 _ _ _ | .vIminN32 _ _ _ | .wIminN32 _ _ _ => some fun a b => pick (a.toNat ≤ b.toNat) a b
  | .sImaxS32 _ _ _ | .vImaxS32 _ _ _ | .wImaxS32 _ _ _ => some fun a b => pick (b.toInt ≤ a.toInt) a b
  | .sImaxN32 _ _ _ | .vImaxN32 _ _ _ | .wImaxN32 _ _ _ => some fun a b => pick (b.toNat ≤ a.toNat) a b
  | .sBfeN32 _ _ _ | .wBfeN32 _ _ _ => some (fieldOf false)
  | .sBfeS32 _ _ _ | .wBfeS32 _ _ _ => some (fieldOf true)
  | _ => none

/-- The 32-bit function of one operand that a mnemonic of R197 names. -/
def unary : Instr → Option (Word → Word)
  | .sPopc _ _ | .wPopc _ _ => some fun a => BitVec.ofNat 32 (countSet a)
  | .sClz _ _ | .wClz _ _ => some fun a => BitVec.ofNat 32 (zerosAbove a)
  | .ctz _ _ => some fun a => BitVec.ofNat 32 (zerosBelow a)
  | .brev _ _ => some fun a => BitVec.ofNat 32 ((List.range 32).foldr (fun i acc => if a.getLsbD (31 - i) then acc + 2 ^ i else acc) 0)
  | _ => none

/-- Destination and sources of an SBIN instruction of two 32-bit sources. -/
def sbinTwo : Instr → Option (SReg × Src × Src)
  | .sIaddB32 d a b | .sIsubB32 d a b | .sImulB32 d a b | .imulhiS32 d a b | .imulhiN32 d a b | .sAnd d a b | .sOr d a b | .sXor d a b
  | .andn d a b | .sShl d a b | .sShrN32 d a b | .sShrS32 d a b | .sIminS32 d a b | .sIminN32 d a b | .sImaxS32 d a b | .sImaxN32 d a b
  | .sBfeN32 d a b | .sBfeS32 d a b => some (d, a, b)
  | _ => none

/-- Destination and source of an SBIN instruction of one source. -/
def sbinOne : Instr → Option (SReg × Src)
  | .sPopc d a | .sClz d a | .ctz d a => some (d, a)
  | _ => none

/-- Destination and sources of an integer VBIN instruction. -/
def vbinTwo : Instr → Option (VReg × Src × Src)
  | .vIaddB32 d a b | .vIsubB32 d a b | .vImulB32 d a b | .vAnd d a b | .vOr d a b | .vXor d a b | .vShl d a b | .vShrN32 d a b
  | .vShrS32 d a b | .vIminS32 d a b | .vIminN32 d a b | .vImaxS32 d a b | .vImaxN32 d a b => some (d, a, b)
  | _ => none

/-- Modifiers and sources of an integer VWIDE instruction of two sources. -/
def wideTwo : Instr → Option (Wide × Src × Src)
  | .wIaddB32 m a b | .wIsubB32 m a b | .wImulB32 m a b | .wAnd m a b | .wOr m a b | .wXor m a b | .wShl m a b | .wShrN32 m a b
  | .wShrS32 m a b | .wIminS32 m a b | .wIminN32 m a b | .wImaxS32 m a b | .wImaxN32 m a b | .wBfeN32 m a b | .wBfeS32 m a b =>
    some (m, a, b)
  | _ => none

/-- Modifiers and source of an integer VWIDE instruction of one source. -/
def wideOne : Instr → Option (Wide × Src)
  | .wPopc m a | .wClz m a | .brev m a => some (m, a)
  | _ => none

/-- A word with the bits of `m` taken from `x` (R198). -/
def merged (m x base : Word) : Word := (base &&& ~~~m) ||| (x &&& m)

/-- The bits that a field word names (R198). -/
def fieldMask (f : Word) : Word :=
  BitVec.ofNat 32 ((List.range 32).foldr (fun i acc => if fieldOff f ≤ i ∧ i < fieldOff f + fieldLen f then acc + 2 ^ i else acc) 0)

/-- Signed byte `i` of a word (R197). -/
def signedByte (a : Word) (i : Nat) : Int := let n := a.toNat / 256 ^ i % 256; if 128 ≤ n then (n : Int) - 256 else n

/-- Modifiers, sources and function of a VWIDE instruction of three sources with a 32-bit integer result (R197, R198). -/
def wideThree : Instr → Option (Wide × Src × Src × Src × (Word → Word → Word → Word))
  | .imad m a b c => some (m, a, b, c, fun a b c => BitVec.ofNat 32 (a.toNat * b.toNat + c.toNat))
  | .imadhiS32 m a b c => some (m, a, b, c, fun a b c => BitVec.ofInt 32 (a.toInt * b.toInt / 2 ^ 32 + c.toInt))
  | .imadhiN32 m a b c => some (m, a, b, c, fun a b c => BitVec.ofNat 32 (a.toNat * b.toNat / 2 ^ 32 + c.toNat))
  | .wBfiB32 m a b c => some (m, a, b, c, fun ins base f => merged (fieldMask f) (ins <<< fieldOff f) base)
  | .dot4S8 m a b c => some (m, a, b, c, fun a b c =>
      BitVec.ofInt 32 (c.toInt + (signedByte a 0 * signedByte b 0 + signedByte a 1 * signedByte b 1 + signedByte a 2 * signedByte b 2
        + signedByte a 3 * signedByte b 3)))
  | _ => none

/-- The bound of an integer result: exact when every source is, else unbounded (R86). -/
def intBound (xs : List LV) : Bnd := if xs.all fun x => x.bnd == bndExact then bndExact else bndInf

/-- The registers that a VWIDE instruction names, with a destination of `n` registers unless `nw` (R196). -/
def wideNames (m : Wide) (n : Nat) (xs : List Src) : Uses := let u := Uses.none.srcs xs; if m.nw then u else u.dstV m.d.toNat n

/-- Sources and function of a scalar compare of 32-bit sources (R199). -/
def scalarCompare : Instr → Option (Src × Src × (Word → Word → Bool))
  | .cmpEqB32 a b => some (a, b, fun a b => a == b)
  | .cmpNeB32 a b => some (a, b, fun a b => !(a == b))
  | .cmpLtS32 a b => some (a, b, fun a b => decide (a.toInt < b.toInt))
  | .cmpLeS32 a b => some (a, b, fun a b => decide (a.toInt ≤ b.toInt))
  | .cmpLtN32 a b => some (a, b, fun a b => decide (a.toNat < b.toNat))
  | .cmpLeN32 a b => some (a, b, fun a b => decide (a.toNat ≤ b.toNat))
  | _ => none

/-- The bits of a pair as a source, with its bound, as one lane value (R60). -/
def pairBnd (x : DWord × Bnd) : LV := ⟨0, x.2⟩

/-- Modifiers, source registers, result and bounded sources of a VWIDE instruction with a 64-bit result (R197). -/
def widePair (w : Warp) : Instr → Option (Wide × Uses × (Nat → DWord) × (Nat → List LV))
  | .imadwN32 m a b c => some (m, ((Uses.none.src 1 a).src 1 b).src 2 c,
      fun l => BitVec.ofNat 64 ((w.rd .word a l).val.toNat * (w.rd .word b l).val.toNat + (w.rd64 c l).1.toNat),
      fun l => [w.rd .word a l, w.rd .word b l, pairBnd (w.rd64 c l)])
  | .imadwS32 m a b c => some (m, ((Uses.none.src 1 a).src 1 b).src 2 c,
      fun l => BitVec.ofInt 64 ((w.rd .word a l).val.toInt * (w.rd .word b l).val.toInt + (w.rd64 c l).1.toInt),
      fun l => [w.rd .word a l, w.rd .word b l, pairBnd (w.rd64 c l)])
  | .leaB64 m a b c => some (m, ((Uses.none.src 2 a).src 1 b).src 1 c,
      fun l => BitVec.ofInt 64 ((w.rd64 a l).1.toInt + (w.rd .word b l).val.toInt * 2 ^ ((w.rd .word c l).val.toNat % 64)),
      fun l => [pairBnd (w.rd64 a l), w.rd .word b l, w.rd .word c l])
  | .wIaddB64 m a b => some (m, (Uses.none.src 2 a).src 2 b,
      fun l => BitVec.ofNat 64 ((w.rd64 a l).1.toNat + (w.rd64 b l).1.toNat),
      fun l => [pairBnd (w.rd64 a l), pairBnd (w.rd64 b l)])
  | _ => none

/-- The lane that lane `l` reads src0 from under a VWIDE pattern, by the table of R205. -/
def patternLane (xl l : Nat) : Int := match xl with
  | 0 => l
  | 1 => (l ^^^ 1 : Nat)
  | 2 => (l ^^^ 2 : Nat)
  | 3 => (l ^^^ 4 : Nat)
  | 4 => (l ^^^ 8 : Nat)
  | 5 => (l ^^^ 16 : Nat)
  | 6 => ((l &&& 28) + 0 : Nat)
  | 7 => ((l &&& 28) + 1 : Nat)
  | 8 => ((l &&& 28) + 2 : Nat)
  | 9 => ((l &&& 28) + 3 : Nat)
  | 10 => ((l + 31) % 32 : Nat)
  | 11 => ((l + 1) % 32 : Nat)
  | 12 => (l : Int) - 1
  | 13 => (l : Int) + 1
  | 14 => 31 - (l : Int)
  | _ => 0

/-- A source under a pattern (R205, R206): its value in the pattern's lane, which must be effective; else zero and exact. Without a
pattern, its value in the lane itself. -/
def across (xl : BitVec 4) (e : Mask) (x : Nat → LV) (l : Nat) : LV :=
  let j := patternLane xl.toNat l
  if xl = 0 then x l else if 0 ≤ j ∧ j < 32 ∧ e.getLsbD j.toNat = true then x j.toNat else LV.zero

/-- Modifiers, sources and lane function of the integer VWIDE instructions with a 32-bit result, and of `mov.b32` (R86, R195 to R198):
src0 is read under the pattern. -/
def wideInt (w : Warp) (i : Instr) : Option (Wide × List Src × (Nat → LV)) :=
  let src0 (m : Wide) (a : Src) (l : Nat) := across m.xl (w.effP m.pred) (w.rd .word a) l
  match wideTwo i, wideOne i, wideThree i, binary i, unary i with
  | some (m, a, b), _, _, some f, _ => some (m, [a, b], fun l =>
      let x := src0 m a l; let y := w.rd .word b l; ⟨f x.val y.val, intBound [x, y]⟩)
  | _, some (m, a), _, _, some f => some (m, [a], fun l => let x := src0 m a l; ⟨f x.val, intBound [x]⟩)
  | _, _, some (m, a, b, c, f), _, _ => some (m, [a, b, c], fun l =>
      let x := src0 m a l; let y := w.rd .word b l; let z := w.rd .word c l; ⟨f x.val y.val z.val, intBound [x, y, z]⟩)
  | _, _, _, _, _ => match i with
    | .wMovB32 m a => some (m, [a], fun l => src0 m a l)
    | _ => none

/-- After a VWIDE instruction: the lanes of its destination that are effective hold `f`, and every other lane of every vector
register is as it was (R44, R192, R196). -/
def wideDone (m : Wide) (f : Nat → LV) (w w' : Warp) : Prop :=
  ∀ q l, l < 32 → w'.v q l = if m.nw = false ∧ q = m.d.toNat ∧ (w.effP m.pred).getLsbD l then f l else w.v q l

/-! ## Floating point (R74, R81 to R91, R201 to R204) -/

/-- The exponent of an FP32 word, and whether the word is finite (R74). -/
def wordExp (w : Word) : Nat := w.toNat / 2 ^ 23 % 256
def finiteWord (w : Word) : Prop := wordExp w ≠ 255

/-- The number that a finite FP32 word stands for (R74). -/
def realOf (w : Word) : ℚ :=
  let f : ℚ := (w.toNat % 2 ^ 23 : Nat)
  let x : ℚ := if wordExp w = 0 then f * 2 ^ (-149 : ℤ) else (2 ^ 23 + f) * 2 ^ ((wordExp w : ℤ) - 150)
  if 2 ^ 31 ≤ w.toNat then -x else x

/-- The number that a bound16 code stands for; none is unbounded (R81). -/
def bndReal (b : Bnd) : Option ℚ :=
  let e := b.toNat / 256
  let m : ℚ := (b.toNat % 256 : Nat)
  if e = 255 then none
  else if e = 0 then some (m / 256 * 2 ^ (-126 : ℤ)) else some ((1 + m / 256) * 2 ^ ((e : ℤ) - 127))

/-- The number that an exact number of the model stands for. -/
def Dy.real (x : Dy) : ℚ := (x.m : ℚ) * 2 ^ x.e

/-- A true value within the bound of a finite computed value (R82, R83). -/
def within (x : LV) (v : ℚ) : Prop := finiteWord x.val ∧ ∃ b, bndReal x.bnd = some b ∧ |v - realOf x.val| ≤ b

/-- A delivered lane with a finite bound is finite and lies within its bound of the true value. -/
def encloses (r : LV) (v : ℚ) : Prop := ∀ b, bndReal r.bnd = some b → finiteWord r.val ∧ |v - realOf r.val| ≤ b

/-- A condition of R207 between two numbers. -/
def condHolds (c : Cond) (x y : ℚ) : Prop :=
  match c with
  | .eq | .ceq => x = y
  | .ne | .cne => x ≠ y
  | .lt | .clt => x < y
  | .le | .cle => x ≤ y
  | .gt | .cgt => x > y
  | .ge | .cge => x ≥ y
  | .ord => True
  | .uno => False

/-- The plain form of a condition and its certain form (R172). -/
def certainOf : Cond → Option Cond
  | .eq => some .ceq | .ne => some .cne | .lt => some .clt | .le => some .cle | .gt => some .cgt | .ge => some .cge
  | _ => none

/-- A word that is a NaN (R74). -/
def nanWord (w : Word) : Prop := wordExp w = 255 ∧ w.toNat % 2 ^ 23 ≠ 0

/-- The interval of a value (R87): the whole line for an infinite value or an unbounded one. -/
def inInterval (x : LV) (v : ℚ) : Prop := finiteWord x.val → ∀ b, bndReal x.bnd = some b → |v - realOf x.val| ≤ b

/-- Destination, sources and lane function of the floating-point VBIN instructions: governed ones, at the level chosen for the
effective lanes and rounded RNE; minima and maxima; packed ones (R90, R201 to R203). -/
def vbinFloat (w : Warp) : Instr → Option (VReg × List Src × (Nat → LV))
  | .vFaddF32 d a b => some (d, [a, b], w.governed w.eff .rne 0 fun l => govAdd (opF32 (w.rd .word a l)) (opF32 (w.rd .word b l)))
  | .vFsubF32 d a b => some (d, [a, b], w.governed w.eff .rne 0 fun l => govSub (opF32 (w.rd .word a l)) (opF32 (w.rd .word b l)))
  | .vFmulF32 d a b => some (d, [a, b], w.governed w.eff .rne 0 fun l => govMul (opF32 (w.rd .word a l)) (opF32 (w.rd .word b l)))
  | .vFminF32 d a b => some (d, [a, b], fun l => fminLane (opF32 (w.rd .word a l)) (opF32 (w.rd .word b l)))
  | .vFmaxF32 d a b => some (d, [a, b], fun l => fmaxLane (opF32 (w.rd .word a l)) (opF32 (w.rd .word b l)))
  | .vFaddF16x2 d a b => some (d, [a, b], fun l => packed2 spF16 (addElem spF16 .rne) (w.rd .f16 a l) (w.rd .f16 b l))
  | .vFmulF16x2 d a b => some (d, [a, b], fun l => packed2 spF16 (mulElem spF16 .rne) (w.rd .f16 a l) (w.rd .f16 b l))
  | .vFaddBf16x2 d a b => some (d, [a, b], fun l => packed2 spBf16 (addElem spBf16 .rne) (w.rd .bf16 a l) (w.rd .bf16 b l))
  | .vFmulBf16x2 d a b => some (d, [a, b], fun l => packed2 spBf16 (mulElem spBf16 .rne) (w.rd .bf16 a l) (w.rd .bf16 b l))
  | _ => none

/-- Modifiers, sources and lane function of the floating-point VWIDE instructions (R195, R201 to R204). -/
def wideFloat (w : Warp) : Instr → Option (Wide × List Src × (Nat → LV))
  | .wFaddF32 m a b => let e := w.effP m.pred
    some (m, [a, b], w.governed e m.rnd m.prec fun l => govAdd (w.f0 m e a l) (w.f1 m b l))
  | .wFsubF32 m a b => let e := w.effP m.pred
    some (m, [a, b], w.governed e m.rnd m.prec fun l => govSub (w.f0 m e a l) (w.f1 m b l))
  | .wFmulF32 m a b => let e := w.effP m.pred
    some (m, [a, b], w.governed e m.rnd m.prec fun l => govMul (w.f0 m e a l) (w.f1 m b l))
  | .ffmaF32 m a b c => let e := w.effP m.pred
    some (m, [a, b, c], w.governed e m.rnd m.prec fun l => govFma (w.f0 m e a l) (w.f1 m b l) (w.f2 m c l))
  | .wFminF32 m a b => let e := w.effP m.pred; some (m, [a, b], fun l => fminLane (w.f0 m e a l) (w.f1 m b l))
  | .wFmaxF32 m a b => let e := w.effP m.pred; some (m, [a, b], fun l => fmaxLane (w.f0 m e a l) (w.f1 m b l))
  | .fclampF32 m a b c => let e := w.effP m.pred
    some (m, [a, b, c], fun l => fclampLane (w.f0 m e a l) (w.f1 m b l) (w.f2 m c l))
  | .wFaddF16x2 m a b => some (m, [a, b], fun l => packed2 spF16 (addElem spF16 m.rnd) (w.p0 .f16 m (w.effP m.pred) a l) (w.p1 .f16 m b l))
  | .wFmulF16x2 m a b => some (m, [a, b], fun l => packed2 spF16 (mulElem spF16 m.rnd) (w.p0 .f16 m (w.effP m.pred) a l) (w.p1 .f16 m b l))
  | .wFaddBf16x2 m a b =>
    some (m, [a, b], fun l => packed2 spBf16 (addElem spBf16 m.rnd) (w.p0 .bf16 m (w.effP m.pred) a l) (w.p1 .bf16 m b l))
  | .wFmulBf16x2 m a b =>
    some (m, [a, b], fun l => packed2 spBf16 (mulElem spBf16 m.rnd) (w.p0 .bf16 m (w.effP m.pred) a l) (w.p1 .bf16 m b l))
  | .ffmaF16x2 m a b c => some (m, [a, b, c], fun l =>
      let x := w.p0 .f16 m (w.effP m.pred) a l; let y := w.p1 .f16 m b l; let z := w.p2 .f16 m c l
      packLane (fmaElem spF16 m.rnd (elem spF16 x 0) (elem spF16 y 0) (elem spF16 z 0))
        (fmaElem spF16 m.rnd (elem spF16 x 1) (elem spF16 y 1) (elem spF16 z 1)))
  | .ffmaBf16x2 m a b c => some (m, [a, b, c], fun l =>
      let x := w.p0 .bf16 m (w.effP m.pred) a l; let y := w.p1 .bf16 m b l; let z := w.p2 .bf16 m c l
      packLane (fmaElem spBf16 m.rnd (elem spBf16 x 0) (elem spBf16 y 0) (elem spBf16 z 0))
        (fmaElem spBf16 m.rnd (elem spBf16 x 1) (elem spBf16 y 1) (elem spBf16 z 1)))
  | .dot2F16 m a b c => some (m, [a, b, c], fun l =>
      let x := w.p0 .f16 m (w.effP m.pred) a l; let y := w.p1 .f16 m b l
      dot2Lane m.rnd (elem spF16 x 0) (elem spF16 x 1) (elem spF16 y 0) (elem spF16 y 1) (w.f2 m c l))
  | .dot2Bf16 m a b c => some (m, [a, b, c], fun l =>
      let x := w.p0 .bf16 m (w.effP m.pred) a l; let y := w.p1 .bf16 m b l
      dot2Lane m.rnd (elem spBf16 x 0) (elem spBf16 x 1) (elem spBf16 y 0) (elem spBf16 y 1) (w.f2 m c l))
  | _ => none

/-! ## Formats and rounding (R74 to R80) -/

/-- A floating-point format by the table of R74: the widths of exponent and fraction, the bias, and the code of the largest finite
value. -/
structure FmtRow where
  ew : Nat
  fw : Nat
  bias : Int
  top : Nat
deriving DecidableEq, Repr

/-- The rows of R74's table but E8M0. -/
def fmtRow : Fmt → Option FmtRow
  | .f32 => some ⟨8, 23, 127, 0x7F7FFFFF⟩
  | .f16 => some ⟨5, 10, 15, 0x7BFF⟩
  | .bf16 => some ⟨8, 7, 127, 0x7F7F⟩
  | .e4m3 => some ⟨4, 3, 7, 0x7E⟩
  | .e5m2 => some ⟨5, 2, 15, 0x7B⟩
  | .e2m1 => some ⟨2, 1, 1, 0x7⟩
  | _ => none

/-- The sign bit of a code, whether the code is finite, and the number that it then stands for (R74). -/
def FmtRow.neg (r : FmtRow) (c : Nat) : Bool := c / 2 ^ (r.ew + r.fw) % 2 = 1
def FmtRow.fin (r : FmtRow) (c : Nat) : Prop := c % 2 ^ (r.ew + r.fw) ≤ r.top
def FmtRow.real (r : FmtRow) (c : Nat) : ℚ :=
  let e := c / 2 ^ r.fw % 2 ^ r.ew
  let f : ℚ := (c % 2 ^ r.fw : Nat)
  let x : ℚ := if e = 0 then f / 2 ^ r.fw * 2 ^ (1 - r.bias) else (1 + f / 2 ^ r.fw) * 2 ^ ((e : ℤ) - r.bias)
  if r.neg c = true then -x else x

/-- The largest finite number, and the number that would follow it were the exponent unlimited (R78). -/
def FmtRow.most (r : FmtRow) : ℚ := r.real r.top
def FmtRow.next (r : FmtRow) : ℚ := r.most + 2 ^ (((r.top / 2 ^ r.fw : Nat) : ℤ) - r.bias - (r.fw : ℤ))

/-- A number overflows: rounded as though the exponent were unlimited, it exceeds the largest finite one (R78). -/
def FmtRow.over (r : FmtRow) (rnd : Rnd) (v : ℝ) : Prop := match rnd with
  | .rne => (r.most + r.next : ℚ) < 2 * |v| ∨ (((r.most + r.next : ℚ) : ℝ) = 2 * |v| ∧ r.top % 2 = 1)
  | .rz => (r.next : ℝ) ≤ |v|
  | .rd => (v < 0 ∧ (r.most : ℝ) < -v) ∨ (r.next : ℝ) ≤ v
  | .ru => (r.most : ℝ) < v ∨ (r.next : ℝ) ≤ -v

/-- A finite code is the rounding of a number that does not overflow (R76): the nearest, of two the even one; or the nearest toward
zero, downward or upward; and it has the number's sign. -/
def FmtRow.rounded (r : FmtRow) (rnd : Rnd) (v : ℝ) (c : Nat) : Prop :=
  r.fin c ∧ (v ≠ 0 → (r.neg c = true ↔ v < 0)) ∧ ∀ d, r.fin d →
    let x : ℝ := r.real c
    let y : ℝ := r.real d
    match rnd with
    | .rne => |v - x| ≤ |v - y| ∧ (|v - x| = |v - y| → x ≠ y → c % 2 = 0)
    | .rz => |x| ≤ |v| ∧ 0 ≤ v * x ∧ (|y| ≤ |v| → 0 ≤ v * y → |y| ≤ |x|)
    | .rd => x ≤ v ∧ (y ≤ v → y ≤ x)
    | .ru => v ≤ x ∧ (v ≤ y → x ≤ y)

/-- The code of an overflow by R78 and, for conversions, the table of R79. -/
def FmtRow.overCode (r : FmtRow) (f : Fmt) (rnd : Rnd) (sat neg : Bool) : Nat :=
  (if neg then 2 ^ (r.ew + r.fw) else 0) + match f, sat with
    | .e2m1, _ | _, true => r.top
    | .e4m3, false => 0x7F
    | _, false => match rnd, neg with
      | .rne, _ | .rd, true | .ru, false => r.top + 1
      | .rz, _ | .rd, false | .ru, true => r.top

/-- A code is the correctly rounded result of a number (R76, R78, R79). -/
def correct (f : Fmt) (rnd : Rnd) (sat : Bool) (v : ℝ) (c : Nat) : Prop := ∀ r, fmtRow f = some r →
  (r.over rnd v → ∃ neg : Bool, (neg = true ↔ v < 0) ∧ c = r.overCode f rnd sat neg) ∧ (¬r.over rnd v → r.rounded rnd v c)

/-- The least and the greatest value of an integer format (R74). -/
def intRange : Fmt → Option (ℤ × ℤ)
  | .s8 => some (-2 ^ 7, 2 ^ 7 - 1) | .s16 => some (-2 ^ 15, 2 ^ 15 - 1) | .s32 => some (-2 ^ 31, 2 ^ 31 - 1)
  | .s64 => some (-2 ^ 63, 2 ^ 63 - 1) | .n8 => some (0, 2 ^ 8 - 1) | .n16 => some (0, 2 ^ 16 - 1) | .n32 => some (0, 2 ^ 32 - 1)
  | .n64 => some (0, 2 ^ 64 - 1)
  | _ => none

/-- An integer is the rounding of a number (R76, R80). -/
def roundedInt (rnd : Rnd) (v : ℚ) (n : ℤ) : Prop := match rnd with
  | .rne => |v - n| ≤ 1 / 2 ∧ (|v - n| = 1 / 2 → n % 2 = 0)
  | .rz => |(n : ℚ)| ≤ |v| ∧ |v| < |(n : ℚ)| + 1 ∧ 0 ≤ v * n
  | .rd => n = ⌊v⌋
  | .ru => n = ⌈v⌉

/-- A power of two is the rounding of a positive number to E8M0 (R79). -/
def roundedPow (rnd : Rnd) (v : ℚ) (k : ℤ) : Prop := match rnd with
  | .rz | .rd => (2 : ℚ) ^ k ≤ v ∧ v < 2 ^ (k + 1)
  | .ru => (2 : ℚ) ^ (k - 1) < v ∧ v ≤ 2 ^ k
  | .rne => ∀ j : ℤ, |v - 2 ^ k| ≤ |v - 2 ^ j| ∧ (|v - 2 ^ k| = |v - 2 ^ j| → j ≤ k)

/-- The number that a code of a format stands for (R74); none for an infinity or a NaN. -/
def codeReal (f : Fmt) (c : Nat) : Option ℚ := match fmtRow f, intRange f, f with
  | some r, _, _ => if c % 2 ^ (r.ew + r.fw) ≤ r.top then some (r.real c) else none
  | _, some (lo, hi), _ =>
    let n : ℤ := (c % 2 ^ fmtBits f : Nat)
    some ((if lo < 0 ∧ hi < n then n - 2 ^ fmtBits f else n : ℤ) : ℚ)
  | _, _, .e8m0 => if c % 256 = 255 then none else some (2 ^ (((c % 256 : Nat) : ℤ) - 127))
  | _, _, _ => none

/-- The captures of a VWIDE instruction (R65, R196): a thread of the issuing group that stays in its clause holds in the latch that
`cap` names the lane's result, captured, in an effective lane, and zero and exact in every other lane; its other latches are as before. -/
def captured (m : Wide) (f : Nat → LV) (w w' : Warp) : Prop :=
  ∀ l c, l < 32 → w.issue.getLsbD l = true → (w.thr l).stays = false → (w.thr l).cl = some c →
    ((w.thr l).pc + 8).toNat < c.stop.toNat →
    (w'.thr l).latch m.cap.toNat = (if (w.effP m.pred).getLsbD l then ⟨(f l).val, (f l).bnd, true⟩ else ⟨0, 0, true⟩) ∧
      ∀ k, 1 ≤ k ∧ k ≤ 3 → k ≠ m.cap.toNat → (w'.thr l).latch k = (w.thr l).latch k

/-! ## Compares and masks (R207 to R210) -/

/-- Destination, condition and the two operands by lane of a VCMP compare with bounds (R207). -/
def laneCompare (w : Warp) : Instr → Option (KReg × Cond × List Src × (Nat → Opnd × Opnd))
  | .cmpF32 d c a b => some (d, c, [a, b], fun l => (opF32 (w.rd .word a l), opF32 (w.rd .word b l)))
  | .cmpF16 d c a b => some (d, c, [a, b], fun l => (elem spF16 (w.rd .f16 a l) 0, elem spF16 (w.rd .f16 b l) 0))
  | .cmpBf16 d c a b => some (d, c, [a, b], fun l => (elem spBf16 (w.rd .bf16 a l) 0, elem spBf16 (w.rd .bf16 b l) 0))
  | .cmpS32 d c a b => some (d, c, [a, b], fun l => (⟨.ofDy false (dyInt (w.rd .word a l).val.toInt), (w.rd .word a l).bnd⟩,
      ⟨.ofDy false (dyInt (w.rd .word b l).val.toInt), (w.rd .word b l).bnd⟩))
  | .cmpN32 d c a b => some (d, c, [a, b], fun l => (⟨.ofDy false (dyInt (w.rd .word a l).val.toNat), (w.rd .word a l).bnd⟩,
      ⟨.ofDy false (dyInt (w.rd .word b l).val.toNat), (w.rd .word b l).bnd⟩))
  | _ => none

/-- Destination and value of an instruction that writes a mask register whole (R209, R210). -/
def maskResult (w : Warp) : Instr → Option (KReg × List Src × Mask)
  | .kand d a b => some (d, [], w.k a.toNat &&& w.k b.toNat)
  | .kor d a b => some (d, [], w.k a.toNat ||| w.k b.toNat)
  | .kxor d a b => some (d, [], w.k a.toNat ^^^ w.k b.toNat)
  | .kandn d a b => some (d, [], w.k a.toNat &&& ~~~w.k b.toNat)
  | .knot d a => some (d, [], ~~~w.k a.toNat)
  | .kmovK d a => some (d, [], w.k a.toNat)
  | .kmovFromS d a => some (d, [a], w.rdS a)
  | .voteBallot d a => some (d, [a], maskOf fun l => (w.issue &&& w.exm).getLsbD l && (w.rd .word a l).val != 0)
  | .voteAny d a => some (d, [a],
      if (List.range 32).any fun l => (w.issue &&& w.exm).getLsbD l && (w.rd .word a l).val != 0 then 0xFFFFFFFF else 0)
  | .voteAll d a => some (d, [a],
      if (List.range 32).all fun l => !(w.issue &&& w.exm).getLsbD l || (w.rd .word a l).val != 0 then 0xFFFFFFFF else 0)
  | _ => none

/-- After an instruction that writes mask registers: all other masks, every register and all the rest are as before. -/
def maskKept (d : KReg) (s t : State) : Prop :=
  (∀ r, r ≠ d.toNat → Map.get t.cw.kregs 0 r = Map.get s.cw.kregs 0 r) ∧ t.cw.vregs = s.cw.vregs ∧ t.cw.sregs = s.cw.sregs ∧
    t.cw.sc = s.cw.sc ∧ s.memoryKept t ∧ s.outsideKept t ∧ s.movesOn t 1

/-! ## VX instructions (R211 to R220) -/

/-- Source lane of a shuffle for lane `l`, segment width `w` and src1 `n`, where one is available in the segment (R217). -/
def shuffleLane (i : Instr) (l w n : Nat) : Option Nat :=
  let base := l - l % w
  match i with
  | .shflIdx _ _ _ _ _ _ => some (base + n % w)
  | .shflUp _ _ _ _ _ _ => if n ≤ l - base then some (l - n) else none
  | .shflDown _ _ _ _ _ _ => if l + n < base + w then some (l + n) else none
  | .shflXor _ _ _ _ _ _ => some (l ^^^ (n % w))
  | _ => none

/-- Fields of a shuffle. -/
def shuffleParts : Instr → Option (Pred × VReg × Src × Src × Seg × Bool)
  | .shflIdx p d a b g o | .shflUp p d a b g o | .shflDown p d a b g o | .shflXor p d a b g o => some (p, d, a, b, g, o)
  | _ => none

/-- Predicate, destination, sources and lane function of a VX instruction that works lane by lane on FP32 or bits. -/
def vxLane (w : Warp) : Instr → Option (Pred × VReg × List Src × (Nat → LV))
  | .frcp p d a r => some (p, d, [a], fun l => divLane r one32 (opF32 (w.rd .word a l)))
  | .frsq p d a => some (p, d, [a], fun l => frsqLane (w.rd .word a l).val (opF32 (w.rd .word a l)))
  | .fsqrt p d a r => some (p, d, [a], fun l => sqrtLane r (opF32 (w.rd .word a l)))
  | .fdiv p d a b r => some (p, d, [a, b], fun l => divLane r (opF32 (w.rd .word a l)) (opF32 (w.rd .word b l)))
  | .fexp2 p d a => some (p, d, [a], fun l => fexp2Lane (w.rd .word a l).val (opF32 (w.rd .word a l)))
  | .flog2 p d a => some (p, d, [a], fun l => flog2Lane (w.rd .word a l).val (opF32 (w.rd .word a l)))
  | .fsin p d a => some (p, d, [a], fun l => ftrigLane false (w.rd .word a l).val (opF32 (w.rd .word a l)))
  | .fcos p d a => some (p, d, [a], fun l => ftrigLane true (w.rd .word a l).val (opF32 (w.rd .word a l)))
  | .ftanh p d a => some (p, d, [a], fun l => ftanhLane (w.rd .word a l).val (opF32 (w.rd .word a l)))
  | .frnd p d a r => some (p, d, [a], fun l => frndLane r (opF32 (w.rd .word a l)))
  | .fclass p d a => some (p, d, [a], fun l => ⟨BitVec.ofNat 32 (2 ^ fclassBit (w.rd .word a l).val), bndExact⟩)
  | .fscale p d a b r => some (p, d, [a, b], fun l => fscaleLane r (opF32 (w.rd .word a l)) (w.rd .word b l).val.toInt)
  | .msel p d a b k => some (p, d, [a, b], fun l => if (w.k k.toNat).getLsbD l then w.rd .word a l else w.rd .word b l)
  | .brd p d a true => some (p, d, [a], fun l => ⟨bndF32 (w.rd .word a l).bnd,
      if (w.rd .word a l).bnd.toNat / 256 = 255 then bndInf else bndExact⟩)
  | .brd p d a false => some (p, d, [a], fun l => ⟨BitVec.ofNat 32 (w.rd .word a l).bnd.toNat, bndExact⟩)
  | .bwr p d a b f r => some (p, d, [a, b], fun l =>
      ⟨(w.rd .word a l).val, if r then bndMax (newBnd f (w.rd .word b l).val) (w.rd .word a l).bnd else newBnd f (w.rd .word b l).val⟩)
  | .bclr p d a => some (p, d, [a], fun l => ⟨(w.rd .word a l).val, bndExact⟩)
  | .bcast p d a b => some (p, d, [a, b], fun _ =>
      let n := (w.rdS b).toNat
      if n < 32 ∧ (w.effP p).getLsbD n then w.rd .word a n else LV.zero)
  | _ => none

/-- After a VX instruction with a 32-bit result. -/
def vxDone (p : Pred) (d : VReg) (f : Nat → LV) (s t : State) : Prop :=
  vectorKept s t 2 ∧ ∀ q l, l < 32 → t.cw.v q l = if q = d.toNat ∧ (s.cw.effP p).getLsbD l then f l else s.cw.v q l

/-- A fold of R218's tree: the partial of lane `l` after the rounds with distances below `2 ^ n`. -/
def reduxTree (op : RedOp) (p : Nat → Option LV) : Nat → Nat → Option LV
  | 0, l => p l
  | n + 1, l => reduxStep op (reduxTree op p n l) (reduxTree op p n (l + 2 ^ n))

/-- The partial of lane `l` of a scan after the rounds with distances below `2 ^ n` (R218). -/
def scanTree (op : RedOp) (p : Nat → Option LV) : Nat → Nat → Option LV
  | 0, l => p l
  | n + 1, l => if 2 ^ n ≤ l then reduxStep op (scanTree op p n (l - 2 ^ n)) (scanTree op p n l) else scanTree op p n l

/-! ## Memory instructions (R97 to R103, R223 to R237) -/

/-- The address of a lane of a GMEM instruction (R225): the base pair plus the zero-extended offset register, unless it is not read,
plus the sign-extended immediate; a group-space form has no base. -/
def laneAddr (w : Warp) (g : Gmem) (group : Bool) (l : Nat) : DWord :=
  (if group then 0 else w.s (2 * g.pair.toNat + 1) ++ w.s (2 * g.pair.toNat)) +
    (if g.novoff then 0 else BitVec.ofNat 64 (w.v g.voff.toNat l).val.toNat) + BitVec.ofInt 64 g.imm.toInt

/-- A GMEM instruction may issue and is no delivery point with something to deliver (R66, R131, R130, R233, R394): its registers
are free, its counter has room, no acquire is pending and no release of the warp is held, no fault waits, no engine range is locked
on the core, the core's promotion log has room, and no thread replays; in group space, no half of an earlier access is left, and a
128-bit access is not to be split (R137). -/
def State.gmemFree (s : State) (kind : MemKind) (group : Bool) (g : Gmem) : Prop :=
  s.clear (s.cw.gmemUses kind group g) ∧ s.cw.ctrFull g.dc = false ∧ s.acqPending s.cur = false ∧
    s.relPending s.cur = false ∧ s.cw.deferred = [] ∧ (s.core (coreOf s.cur)).locks = [] ∧
    (s.core (coreOf s.cur)).log.length ≤ 32 ∧
    (group = true → s.groupHalf = false ∧ (g.width = .b128 → s.torn = 0) ∧
      (g.order.releases = true → g.scope.wide = true → s.allAcked (s.drainSet s.cur) = true)) ∧
    ∀ l, (s.cw.thr l).replay = none

/-- An address that the core accepts (R103, R392): in range, aligned to the width, in a placed region, and for a group-space form below
the cluster's group-space size. -/
def State.goodAddr (s : State) (group : Bool) (g : Gmem) (a : DWord) : Prop :=
  a.toNat % g.width.bytes = 0 ∧
    if group then a.toNat < (s.cluster (s.block s.cw.block).cluster).gspace
    else a.toNat < 2 ^ 52 ∧ (s.region (s.space s.cw).1 (s.space s.cw).2 a.toNat).isSome = true

/-- The core holds no L1 line of an address. -/
def State.coldLine (s : State) (a : DWord) : Prop :=
  s.l1Line (coreOf s.cur) (s.space s.cw).1 (s.space s.cw).2 a.toNat = none

/-- The checked stores of a `.chk` form all pass (R101, R235). -/
def State.chkPass (s : State) (g : Gmem) : Prop :=
  g.chk = false ∨ ∀ l i, l < 32 → s.cw.eff.getLsbD l = true → i < g.width.regs →
    budgetPass s.cw.budget (opF32 (s.cw.v (g.vdata.toNat + i) l)) = true

/-- The operand words of a lane: `n` registers from `vdata` on (R60). -/
def laneWords (w : Warp) (vdata n l : Nat) : List Word := (List.range n).map fun i => (w.v (vdata + i) l).val

/-- An instruction that has issued an operation on memory leaves every register but counters, `seq` and the hold of its warp, and
every byte of physical memory, as it was. -/
def issueKept (s t : State) : Prop :=
  t.cw.vregs = s.cw.vregs ∧ t.cw.sregs = s.cw.sregs ∧ t.cw.sc = s.cw.sc ∧ t.cw.kregs = s.cw.kregs ∧ t.cw.exm = s.cw.exm ∧
    t.cw.unc = s.cw.unc ∧ t.cw.budget = s.cw.budget ∧ t.cur = s.cur ∧ (∀ k, k ≠ s.cur → t.warp k = s.warp k) ∧
    (∀ a, t.peek a = s.peek a) ∧ t.scratch = s.scratch ∧ t.time = s.time ∧ t.hub = s.hub ∧ t.fab = s.fab

/-- A counter after one more operation names it: 7 names none (R66, R232). -/
def countedUp (s t : State) (dc : BitVec 3) : Prop :=
  ∀ i, t.cw.d i = if i = dc.toNat ∧ i < 6 then s.cw.d i + 1 else s.cw.d i

/-- Size, signedness and fields of a scratchpad load (R236). -/
def spadLoad : Instr → Option (Nat × Bool × VReg × VReg × BitVec 9)
  | .ldsB32 d a i => some (4, false, d, a, i) | .ldsB64 d a i => some (8, false, d, a, i) | .ldsB128 d a i => some (16, false, d, a, i)
  | .ldsN8 d a i => some (1, false, d, a, i) | .ldsS8 d a i => some (1, true, d, a, i)
  | .ldsN16 d a i => some (2, false, d, a, i) | .ldsS16 d a i => some (2, true, d, a, i)
  | _ => none

/-- Size and fields of a scratchpad store (R236). -/
def spadStore : Instr → Option (Nat × VReg × VReg × BitVec 9)
  | .stsB8 d a i => some (1, d, a, i) | .stsB16 d a i => some (2, d, a, i) | .stsB32 d a i => some (4, d, a, i)
  | .stsB64 d a i => some (8, d, a, i) | .stsB128 d a i => some (16, d, a, i)
  | _ => none

/-- Operation and fields of a scratchpad atomic (R237). -/
def spadAtomic : Instr → Option (Aop × VReg × VReg × BitVec 9)
  | .satomIadd d a i => some (.iadd, d, a, i) | .satomIminS d a i => some (.iminS, d, a, i) | .satomImaxS d a i => some (.imaxS, d, a, i)
  | .satomXchg d a i => some (.xchg, d, a, i) | .satomFaddF32 d a i => some (.faddF32, d, a, i)
  | .satomIminN d a i => some (.iminN, d, a, i) | .satomImaxN d a i => some (.imaxN, d, a, i)
  | .satomOr d a i => some (.or, d, a, i) | .satomAnd d a i => some (.and, d, a, i)
  | _ => none

/-- The offset of a lane of a SPAD instruction (R175, R236): the address register plus four times the immediate. -/
def spadAt (w : Warp) (a : VReg) (imm : BitVec 9) (l : Nat) : Nat := (w.v a.toNat l).val.toNat + 4 * imm.toNat

/-- A SPAD instruction may issue (R153, R233, R234). -/
def State.spadFree (s : State) (u : Uses) : Prop :=
  s.clear u ∧ s.acqPending s.cur = false ∧ (s.core (coreOf s.cur)).locks = [] ∧ ∀ l, (s.cw.thr l).replay = none

/-- The offsets of the effective lanes are aligned and inside the block's slice; `clean` asks for sectors without poison as well. -/
def State.spadGood (s : State) (size : Nat) (a : VReg) (imm : BitVec 9) (clean : Bool) : Prop :=
  ∀ l, l < 32 → s.cw.eff.getLsbD l = true →
    spadAt s.cw a imm l % size = 0 ∧ spadAt s.cw a imm l + size ≤ s.sliceOf s.cw.block ∧
      (clean = true → (s.spSide s.cw.block (s.coreInBlock s.cw) (spadAt s.cw a imm l)).2 = false)

/-- Effective lanes do not touch one byte twice. -/
def State.spadApart (s : State) (size : Nat) (a : VReg) (imm : BitVec 9) : Prop :=
  ∀ l j, l < 32 → j < 32 → l ≠ j → s.cw.eff.getLsbD l = true → s.cw.eff.getLsbD j = true →
    spadAt s.cw a imm l + size ≤ spadAt s.cw a imm j ∨ spadAt s.cw a imm j + size ≤ spadAt s.cw a imm l

/-- The scratchpad byte of the issuing warp's core at an offset. -/
def State.spHere (s : State) (off : Nat) : Byte := s.spByte s.cw.block (s.coreInBlock s.cw) off
def State.spHere4 (s : State) (off : Nat) : Word := s.spHere (off + 3) ++ s.spHere (off + 2) ++ s.spHere (off + 1) ++ s.spHere off

/-- Scratchpad bytes outside the `size` bytes of the effective lanes are as before (on every core and in every block). -/
def State.spadFrame (s t : State) (size : Nat) (a : VReg) (imm : BitVec 9) : Prop :=
  ∀ k, (∀ l i, l < 32 → s.cw.eff.getLsbD l = true → i < size →
      k ≠ spKey s.cw.block (s.coreInBlock s.cw) (spadAt s.cw a imm l + i)) →
    Map.get t.scratch 0 k = Map.get s.scratch 0 k

/-- What a SPAD instruction leaves alone besides scratchpad and vector registers. -/
def spadKept (s t : State) : Prop :=
  t.cw.sregs = s.cw.sregs ∧ t.cw.sc = s.cw.sc ∧ t.cw.kregs = s.cw.kregs ∧ s.cw.specialsKept t.cw ∧ (∀ a, t.peek a = s.peek a) ∧
    t.gspace = s.gspace ∧ s.outsideKept t ∧ s.movesOn t 1

/-- Byte `i` of a list of words, low word first (R1). -/
def byteAt (ws : List Word) (i : Nat) : Byte := (ws.getD (i / 4) 0).extractLsb' (8 * (i % 4)) 8

/-- The word at the fetch line of an address, at hand without a translation: fetched ahead by the warp, or in its core's instruction
cache, without poison (R251). -/
def State.atHand (s : State) (va : Nat) (w : Word) : Prop :=
  va < 2 ^ 52 ∧ ∃ bs, w = BitVec.ofNat 32 (natOf ((bs.drop (va % 128)).take 4)) ∧
    (Map.find? s.cw.fetched (va / 128) = some bs ∨
      (Map.find? s.cw.fetched (va / 128) = none ∧ ∃ c,
        Map.get s.icache none (lineKey (coreOf s.cur) (s.space s.cw).1 (s.space s.cw).2 va) = some c ∧ c.data = bs ∧
          c.poison.getLsbD (va % 128 / 32) = false))

/-- Target, threads that go there, and whether the return address is kept, of a branch (R252). -/
def branchOf (w : Warp) : Instr → Option (DWord × Mask × Bool)
  | .bra off => some (w.pc + BitVec.ofInt 64 (4 * off.toInt), w.issue, false)
  | .brc k off => some (w.pc + BitVec.ofInt 64 (4 * off.toInt), w.issue &&& w.k k.toNat, false)
  | .brcNot k off => some (w.pc + BitVec.ofInt 64 (4 * off.toInt), w.issue &&& ~~~w.k k.toNat, false)
  | .brs off => some (w.pc + BitVec.ofInt 64 (4 * off.toInt), if w.sc then w.issue else 0, false)
  | .brsNot off => some (w.pc + BitVec.ofInt 64 (4 * off.toInt), if w.sc then 0 else w.issue, false)
  | .call off => some (w.pc + BitVec.ofInt 64 (4 * off.toInt), w.issue, true)
  | .jmp p => some (w.s (2 * p.toNat + 1) ++ w.s (2 * p.toNat), w.issue, false)
  | .calli p => some (w.s (2 * p.toNat + 1) ++ w.s (2 * p.toNat), w.issue, true)
  | .ret => some (w.s 63 ++ w.s 62, w.issue, false)
  | _ => none

/-- The scalar registers that a branch names. -/
def branchUses : Instr → Uses
  | .call _ => Uses.none.dstS 62 2
  | .jmp p => Uses.none.srcS (2 * p.toNat) 2
  | .calli p => (Uses.none.srcS (2 * p.toNat) 2).dstS 62 2
  | .ret => Uses.none.srcS 62 2
  | _ => Uses.none

/-! ## Control and synchronisation -/

/-- A thread that runs: neither held, waiting, parked nor exited. -/
def Thread.runs (t : Thread) : Prop := t.st = .running ∨ t.st = .trapped

/-- Every thread of the issuing group runs. -/
def State.groupRuns (s : State) : Prop := ∀ l, s.cw.issue.getLsbD l = true → (s.cw.thr l).runs

/-- The registers of the issuing warp are as before: vector and scalar registers, `sc` and the masks. -/
def registersKept (s t : State) : Prop :=
  t.cw.vregs = s.cw.vregs ∧ t.cw.sregs = s.cw.sregs ∧ t.cw.sc = s.cw.sc ∧ t.cw.kregs = s.cw.kregs

/-- What an instruction that only moves threads leaves alone. -/
def controlKept (s t : State) : Prop := registersKept s t ∧ s.arithKept t

/-- What a synchronising instruction leaves alone: registers, `%exm`, `%unc`, `%budget`, counters, and every byte of physical memory. -/
def syncKept (s t : State) : Prop :=
  registersKept s t ∧ t.cw.exm = s.cw.exm ∧ t.cw.unc = s.cw.unc ∧ t.cw.budget = s.cw.budget ∧ t.cw.ctr = s.cw.ctr ∧
    (∀ a, t.peek a = s.peek a) ∧ t.gspace = s.gspace ∧ t.ops = s.ops ∧ t.cur = s.cur ∧ t.time = s.time

/-- The issuing group enters a trap (R387, R388, R398): the trap names the code, the group and its PC; the frame's stores are under
way, and no register or byte of memory has changed. -/
def State.entersTrap (s t : State) (code : Nat) (e : TrapInfo) : Prop :=
  (∃ ops, t.cw.trap = some (e, .entering ops)) ∧ e.code = BitVec.ofNat 16 code ∧ e.pc = s.cw.pc ∧ e.group = s.cw.issue ∧
    registersKept s t ∧ t.cw.exm = s.cw.exm ∧ t.cw.unc = s.cw.unc ∧ t.cw.budget = s.cw.budget ∧ (∀ a, t.peek a = s.peek a) ∧
    t.scratch = s.scratch ∧ t.gspace = s.gspace ∧ t.cur = s.cur

/-- A list of words is that of `n` instructions (R157). -/
def splits : Nat → List Word → Bool
  | 0, ws => ws.isEmpty
  | _ + 1, [] => false
  | n + 1, w :: ws => if isTwo w then (match ws with
      | [] => false
      | _ :: r => splits n r) else splits n ws

/-- The code of an Illegal Instruction cause (R397). -/
def illegalCode : IllCause → Nat
  | .fmtReserved => 0x0101 | .fmtExtension => 0x0102 | .fmtHeader => 0x0103 | .opcode => 0x0104 | .reserved => 0x0105 | .value => 0x0106
  | .align => 0x0107 | .cls => 0x0108 | .notHeader => 0x0109 | .k0 => 0x010D

/-- An arrival at a block or cluster barrier may take effect (R130, R131, R144, R394). -/
def State.barrierFree (s : State) (cluster arrives : Bool) : Prop :=
  s.cw.deferred = [] ∧ s.cw.role = .solo ∧ s.groupRuns ∧ s.acqPending s.cur = false ∧ (arrives = true → s.relPending s.cur = false) ∧
    (arrives = true → s.barWide cluster = true → s.allAcked (s.drainSet s.cur) = true)

/-- Warp slots that take part in a barrier of the issuing warp. -/
def State.barrierSlots (s : State) (cluster : Bool) : List Nat :=
  if cluster then s.clusterSlots (s.block s.cw.block).cluster else s.blockSlots s.cw.block

/-- The registers that a transaction-barrier instruction names. -/
def txbUses (sa : SReg) (more : List Nat) : Uses := { Uses.none with sr := sa.toNat :: more }

/-- Offset of a transaction-barrier object. -/
def txbAt (w : Warp) (sa : SReg) : Nat := (w.s sa.toNat).toNat

/-- A transaction-barrier instruction acts: operands readable, a thread participates, the object is aligned, inside the slice and not
locked (R153, R234, R245, R246, R394). -/
def State.txbFree (s : State) (p : Pred) (sa : SReg) (more : List Nat) : Prop :=
  s.clear (txbUses sa more) ∧ s.acqPending s.cur = false ∧ (s.core (coreOf s.cur)).locks = [] ∧ s.cw.deferred = [] ∧ s.groupRuns ∧
    s.cw.predMask p ≠ 0 ∧ txbAt s.cw sa % 16 = 0 ∧ txbAt s.cw sa + 16 ≤ s.sliceOf s.cw.block

/-- The object that a transaction-barrier instruction of the issuing warp names. -/
def State.txbHere (s : State) (sa : SReg) (t : State) : Txb := t.txbRead s.cw.block (s.coreInBlock s.cw) (txbAt s.cw sa)

/-- An object after an update: a completed generation advances and is cleared (R247). -/
def txbNext (x : Txb) : Txb :=
  if x.arrb = x.tgtb ∧ x.arrt = x.expt then ⟨0, 0, (x.gen + 1) % 2 ^ 32, x.expt, 0⟩ else x

/-- Scratchpad bytes outside an object are as before. -/
def State.txbFrame (s t : State) (sa : SReg) : Prop :=
  ∀ k, (∀ i, i < 16 → k ≠ spKey s.cw.block (s.coreInBlock s.cw) (txbAt s.cw sa + i)) → Map.get t.scratch 0 k = Map.get s.scratch 0 k

/-- The registers that `icinv` names. -/
def icinvUses (p : BitVec 5) (len : SReg) : Uses := { Uses.none with sr := [2 * p.toNat, 2 * p.toNat + 1, len.toNat] }

/-! ## System instructions and engines -/

/-- The work identifier of a lane of the issuing warp by the sum of R29, each part shifted to its field's place (R27). -/
def State.workId (s : State) (l : Nat) : Option DWord := (s.launch? s.cw.launch).map fun x =>
  let n := (s.cluster (s.block s.cw.block).cluster).number
  let o2 := x.width 0 + x.width 1
  let o3 := o2 + x.width 2
  let o4 := o3 + x.width 3
  let part (v o : Nat) : DWord := BitVec.ofNat 64 v <<< o
  BitVec.ofNat 64 l + part (s.cw.index % 128) (x.width 0) + part (s.block s.cw.block).index o2 + part (n % x.extent 3) o3 +
    part (n / x.extent 3 % x.extent 4) o4 + part (n / (x.extent 3 * x.extent 4)) (o4 + x.width 4)

/-- The value that a special register holds for a lane, from the table of R67. -/
def State.special (s : State) (l : Nat) : Nat → Option DWord
  | 0x00 => (s.workId l).map fun x => BitVec.ofNat 64 (x.toNat % 2 ^ 32)
  | 0x01 => (s.workId l).map fun x => BitVec.ofNat 64 (x.toNat / 2 ^ 32)
  | 0x02 => s.workId l
  | 0x03 => some (BitVec.ofNat 64 (s.cur / 64 / 48))
  | 0x04 => some (BitVec.ofNat 64 (s.cur / 64))
  | 0x05 => some (BitVec.ofNat 64 (s.cur / 16 % 4))
  | 0x06 => some (BitVec.ofNat 64 (s.cur % 16))
  | 0x07 => some (BitVec.ofNat 64 l)
  | 0x08 => some (s.cw.exm.setWidth 64)
  | 0x09 => some (s.cw.unc.setWidth 64)
  | 0x0A => some (s.cw.budget.setWidth 64)
  | 0x0B => some (BitVec.ofNat 64 s.cw.awb)
  | 0x0C => some (BitVec.ofNat 64 s.cw.awl)
  | 0x0D => some (s.cw.medge.setWidth 64)
  | 0x0E => some (if s.cw.mbank then 1 else 0)
  | 0x0F => some s.cw.tvec
  | 0x10 => some s.cw.tframe
  | 0x11 => some (BitVec.ofNat 64 s.time)
  | 0x12 => (s.launch? s.cw.launch).map (·.hdrVa)
  | 0x13 => (s.launch? s.cw.launch).map fun x => BitVec.ofNat 64 ((if x.assured then 1 else 0) + if x.uncTrap then 2 else 0)
  | _ => none

/-- Special registers that `sysr` reads into a scalar register, a scalar pair, a vector register or a vector pair (R67, R308). -/
def toScalar (i : Nat) : Prop := (0x03 ≤ i ∧ i ≤ 0x06) ∨ (0x08 ≤ i ∧ i ≤ 0x0E) ∨ i = 0x13
def toPair (i : Nat) : Prop := 0x0F ≤ i ∧ i ≤ 0x12
def toVector (i : Nat) : Prop := toScalar i ∨ i = 0x00 ∨ i = 0x01 ∨ i = 0x07
def toVectorPair (i : Nat) : Prop := toPair i ∨ i = 0x02

/-- After a read of special registers into vector lanes. -/
def lanesRead (s t : State) (p : Nat → Nat → Option LV) : Prop :=
  vectorKept s t 1 ∧ ∀ q l, l < 32 → t.cw.v q l = if s.cw.issue.getLsbD l = true then (p q l).getD (s.cw.v q l) else s.cw.v q l

/-- After a write of special registers: the warp's special registers are those of `w`, and nothing else changes. -/
def specialWritten (w : Warp) (s t : State) : Prop :=
  w.specialsKept t.cw ∧ registersKept s t ∧ s.memoryKept t ∧ s.outsideKept t ∧ s.movesOn t 1

/-- `%medge` as a write stores it: K at most 256, N at most 512 (R70). -/
def edgeOf (v : Word) : Word := BitVec.ofNat 32 (min (v.toNat % 512) 256 + 65536 * min (v.toNat / 65536 % 1024) 512)

/-- An engine instruction may issue (R66, R153, R233, R234, R429): its counter has room, no acquire is pending, no fault waits, its
registers are free, and no range of any core is locked. -/
def State.engFree (s : State) (u : Uses) (dc : BitVec 3) : Prop :=
  s.cw.ctrFull dc = false ∧ s.acqPending s.cur = false ∧ s.cw.deferred = [] ∧ s.clear u ∧ ∀ c, (s.core c).locks = []

/-- What the issue of an engine or matrix operation leaves alone: registers, special registers but counters, and memory of every
kind. -/
def engIssueKept (s t : State) : Prop :=
  registersKept s t ∧ t.cw.exm = s.cw.exm ∧ t.cw.unc = s.cw.unc ∧ t.cw.budget = s.cw.budget ∧ s.memoryKept t ∧ t.ops = s.ops ∧
    t.cur = s.cur ∧ (∀ k, k ≠ s.cur → t.warp k = s.warp k) ∧ t.time = s.time

/-- A barrier offset that a copy names is that of an object in the slice (R245). -/
def txbGood (slice : Nat) (off : Option Nat) : Prop := ∀ o, off = some o → o % 16 = 0 ∧ o + 16 ≤ slice

/-- An operation that a copy issues: it waits for its start, with its operands, its counter, its credit and its barrier (R285, R287). -/
def State.copyIssued (s t : State) (kind : EngKind) (c : Done) (a b n : DWord) (block j : Nat) (credit : Option Nat) : Prop :=
  ∃ e, t.eng? s.nextId = some e ∧ e.kind = kind ∧ e.st = .waiting ∧ e.a = a ∧ e.b = b ∧ e.c = n ∧ e.dc = c.dc ∧
    e.slot = s.cur ∧ e.txb = (s.cw.txbOff c).map (fun o => (block, j, o)) ∧ (∀ x, credit = some x → e.credit = x) ∧
    countedUp s t c.dc ∧ engIssueKept s t ∧ s.movesOn t 2

/-- Kind, alignment and fields of a copy of one run of bytes (R293, R296). -/
def runCopy : Instr → Option (EngKind × Nat × Done × SReg × SReg × SReg)
  | .cpyBIn c sa sb sc => some (.cpyBIn, 16, c, sa, sb, sc)
  | .cpyBOut c sa sb sc => some (.cpyBOut, 16, c, sa, sb, sc)
  | .cpyRed c sa sb sc ty rop => some (.cpyRed ty rop, if fmtBits ty = 64 then 8 else 4, c, sa, sb, sc)
  | _ => none

/-- Kind and fields of a tensor copy (R292). -/
def tensorCopy : Instr → Option (EngKind × Done × SReg × SReg × SReg)
  | .cpyTIn c sa sb sc => some (.cpyTIn, c, sa, sb, sc)
  | .cpyTOut c sa sb sc => some (.cpyTOut, c, sa, sb, sc)
  | _ => none

/-! ## Matrix instructions -/

/-- The core of the issuing warp, and the accumulator row of a lane (R262). -/
def State.here (s : State) : Core := s.core (coreOf s.cur)
def rowAt (w : Warp) (roff : BitVec 2) (l : Nat) : Nat := w.awb + 32 * roff.toNat + l

/-- A row is that of an effective lane. -/
def rowNamed (w : Warp) (roff : BitVec 2) (r : Nat) : Prop := ∃ l, l < 32 ∧ w.eff.getLsbD l = true ∧ r = rowAt w roff l

/-- A row instruction acts (R234, R260, R267): its registers are free, every effective lane's row lies in the warp's window, and no earlier
accumulation of the warp writes one of them. -/
def State.rowsReady (s : State) (u : Uses) (roff : BitVec 2) : Prop :=
  s.acqPending s.cur = false ∧ s.clear u ∧ (∀ l, l < 32 → s.cw.eff.getLsbD l = true → rowAt s.cw roff l < s.cw.awl) ∧
    s.rowsBusy s.cw.uid (rowAt s.cw roff 0) s.cw.eff = false

/-- No effective lane's row is poisoned (R282). -/
def State.rowsClean (s : State) (roff : BitVec 2) : Prop :=
  ∀ l, l < 32 → s.cw.eff.getLsbD l = true → (s.here.rowMeta (rowAt s.cw roff l)).poison = false

/-- What a row instruction that writes rows leaves alone: everything but its core's accumulator. -/
def rowKept (s t : State) : Prop :=
  engIssueKept s t ∧ t.cw.ctr = s.cw.ctr ∧ (∀ c, c ≠ coreOf s.cur → t.core c = s.core c) ∧ t.here.banks = s.here.banks ∧
    t.here.windows = s.here.windows ∧ s.movesOn t 2

/-- A counted MAT instruction with a specifier may issue (R66, R233, R234, R268, R271). -/
def State.matFree (s : State) (spec : MatSpec) (use : MatUse) (sa n : Nat) (u : Uses) (dc : BitVec 3) : Prop :=
  s.cw.ctrFull dc = false ∧ s.acqPending s.cur = false ∧ s.clear (specUses spec sa n) ∧ s.clear u ∧
    (Spec.ofWord (s.cw.matSpec spec)).ok use sa = true

/-- No warp that has ended waits for an operation (R51). -/
def State.noneEnded (s : State) : Prop := ∀ p ∈ s.cores, p.2.tracker = []

/-- A warp's counters after an operation of it completes (R66, R232). -/
def State.countedDown (s t : State) (slot uid : Nat) (dc : BitVec 3) : Prop :=
  (s.warp slot).live = true → (s.warp slot).uid = uid → ∀ i, (t.warp slot).d i = if i = dc.toNat ∧ i < 6 then (s.warp slot).d i - 1
    else (s.warp slot).d i

/-- Fields of a `col` (R299). -/
def collective : Instr → Option (BitVec 4 × BitVec 3 × SReg × SReg × SReg × SReg × Option SReg × Fmt × Rop)
  | .colAr dc sa sb sc sd ty rop => some (0, dc, sa, sb, sc, sd, none, ty, rop)
  | .colAg dc sa sb sc sd ty => some (1, dc, sa, sb, sc, sd, none, ty, .add)
  | .colRs dc sa sb sc sd ty rop => some (2, dc, sa, sb, sc, sd, none, ty, rop)
  | .colA2a dc sa sb sc sd ty => some (3, dc, sa, sb, sc, sd, none, ty, .add)
  | .colBc dc sa sb sc sd root ty => some (4, dc, sa, sb, sc, sd, some root, ty, .add)
  | _ => none

/-- The registers of a `col`. -/
def colUses (sa sb sc sd : SReg) (root : Option SReg) : Uses :=
  { Uses.none with sr := [sa.toNat, sb.toNat, sb.toNat + 1, sc.toNat, sc.toNat + 1, sd.toNat] ++ root.toList.map (·.toNat) }

/-- Two runs of bytes share none. -/
def disjointRuns (a m b n : Nat) : Prop := m = 0 ∨ n = 0 ∨ a + m ≤ b ∨ b + n ≤ a

/-! ## Memory operations at their units -/

/-- A lane of a memory operation has reached its home with nothing in its way (R110, R133, R137, R428): no earlier lane of its core is
ahead of it on the channel or on the line, no held write stands on the line, and no half of it has been performed. -/
def State.laneReady (s : State) (id part : Nat) (o : MemOp) : Prop :=
  s.op? id = some o ∧ part < 2 ^ 20 ∧ (o.lane part).st = .sent ∧ (o.lane part).halves = 0 ∧ o.held = none ∧ o.faults = [] ∧
    s.ahead o id part = false ∧ s.lineHeld o id part = false

/-- It stands at its line (R117, R146), which is there with the permission it needs, and no promotion comes first. -/
def State.atHome (s : State) (id part : Nat) (o : MemOp) (key : Nat) (h : HLine) : Prop :=
  s.laneReady id part o ∧ s.touch o.who (o.lane part).addr.toNat o.need = .ok s key ∧ s.hline key = some h ∧
    o.promotes h.mark key = none

/-- It stands at the fabric port, its page being in a hub host range whose port is usable and whose link is up (R345, R383, R454), and no
promotion comes first (R146). -/
def State.atPort (s : State) (id part : Nat) (o : MemOp) (p : PortAt) : Prop :=
  s.laneReady id part o ∧ s.touch o.who (o.lane part).addr.toNat o.need = .port p ∧ s.away p.pa = false ∧
    ∀ r, s.region o.vf o.asid (o.lane part).addr.toNat = some r →
      let key := lineKey (r.home (o.lane part).addr.toNat o.who.dom o.hint) o.vf o.asid (o.lane part).addr.toNat
      o.promotes (Map.get s.portMarks none key) key = none

/-- The sector of an access at the port in its line, and its bound: that of its shadow halfword, 0 on a page without bounds (R97). -/
def PortAt.sec (p : PortAt) : Nat := p.pa % 128 / 32
def State.boundAt (s : State) (p : PortAt) : Bnd := s.shadowBnd p.spa p.sec

/-- A byte of the shadow halfword of the sector of an access at the port. -/
def PortAt.shadowByte (p : PortAt) (b : Nat) : Prop := ∃ a, p.spa = some a ∧ a + 2 * p.sec ≤ b ∧ b < a + 2 * p.sec + 2

/-- The shadow halfwords of an access at the port stand in memory alone, away from its line, and answer. -/
def State.shadowReady (s : State) (p : PortAt) : Prop := ∀ a, p.spa = some a →
  (∀ q ∈ s.home, ∀ h, q.2 = some h → h.pa + 128 ≤ a ∨ a + 8 ≤ h.pa) ∧ (a + 8 ≤ p.pa / 128 * 128 ∨ p.pa / 128 * 128 + 256 ≤ a) ∧
    ∀ i, i < 4 → s.dead (a + 2 * i) = false

/-- No launch has a waypoint, so that no write copies a granule (R435). -/
def State.noWaypoint (s : State) : Prop := ∀ p ∈ s.launches, p.2.waypoint = false

/-- A lane has been performed: its operation is still there, and the lane is done. -/
def laneDone (t : State) (id part : Nat) (p : Lane → Prop) : Prop :=
  ∃ o, t.op? id = some o ∧ (o.lane part).st = .done ∧ p (o.lane part)

/-- An operation is there with the lanes of `o`. -/
def lanesNow (t : State) (id : Nat) (o : MemOp) : Prop := ∃ o', t.op? id = some o' ∧ o'.lanes = o.lanes

/-- Registers and counters of every warp, scratchpad and group space are as before. -/
def inFlightKept (s t : State) : Prop :=
  (∀ k, (t.warp k).vregs = (s.warp k).vregs ∧ (t.warp k).sregs = (s.warp k).sregs ∧ (t.warp k).kregs = (s.warp k).kregs ∧
    (t.warp k).ctr = (s.warp k).ctr) ∧ t.scratch = s.scratch ∧ t.gspace = s.gspace ∧ t.time = s.time

/-- Home lines other than one are as before. -/
def State.linesKept (s t : State) (key : Nat) : Prop := ∀ k, k ≠ key → t.hline k = s.hline k

/-- The bound of a sector after writes of bound `b` that cover it or not (R98). -/
def boundAfter (old b : Bnd) (cover : Bool) : Bnd := if cover then b else bndMax old b

/-- The list of a map is in its canonical form, with keys of lanes. -/
def lanesOk (o : MemOp) : Prop := Map.wf o.lanes Lane.none = true ∧ ∀ p ∈ o.lanes, p.1 < 32

/-- A lane waits at a walk of its unit (R117). -/
def State.walksAt (s : State) (id part : Nat) (o : MemOp) (unit va : Nat) (shadow : Bool) : Prop :=
  s.op? id = some o ∧ (o.lane part).st = .walking ∧ o.faults = [] ∧ s.touch o.who (o.lane part).addr.toNat o.need = .walk unit va shadow

/-- Nothing but operations, groups and the page-request queue changes. -/
def walkKept (s t : State) : Prop :=
  t.warps = s.warps ∧ t.home = s.home ∧ t.l1 = s.l1 ∧ t.engs = s.engs ∧ t.scratch = s.scratch ∧ t.time = s.time

/-! ## Engine operations at work -/

/-- Source and destination of a copy that moves one run of bytes. -/
def EngOp.run (e : EngOp) : Option (Nat × Nat) :=
  match e.kind with
  | .cpyBIn => some (e.a.toNat, e.b.toNat)
  | .cpyP => some (e.a.toNat, e.b.toNat)
  | .cpyBOut => some (e.b.toNat, e.a.toNat)
  | .cpyRed _ _ => some (e.b.toNat, e.a.toNat)
  | _ => none

/-- The transfers of a run of `n` bytes: each byte of it is moved, none crosses a sector on either side, and nothing else is moved. -/
def movesRun (xs : List Xfer) (src dst n : Nat) : Prop :=
  (∀ i, i < n → ∃ x ∈ xs, ∃ p ∈ x.pieces, ∃ j, j < p.len ∧ p.src + j = src + i ∧ p.dst + j = dst + i) ∧
    ∀ x ∈ xs, x.done = false ∧ x.paged = none ∧ ∀ p ∈ x.pieces, p.nib = none ∧ p.zero = false ∧ 0 < p.len ∧
      p.src / 32 = (p.src + p.len - 1) / 32 ∧ p.dst / 32 = (p.dst + p.len - 1) / 32 ∧
      ∃ i, i + p.len ≤ n ∧ p.src = src + i ∧ p.dst = dst + i

/-- Engine operations other than one, and every register, are as before. -/
def engsKept (s t : State) (op : Nat) : Prop :=
  (∀ k, k ≠ op → t.eng? k = s.eng? k) ∧ t.ops = s.ops ∧ (∀ k, (t.warp k).vregs = (s.warp k).vregs) ∧ t.time = s.time

/-- An engine operation has ended: it is gone, its ranges have left every table, and its counter has dropped (R154). -/
def State.engGone (s t : State) (op : Nat) (e : EngOp) : Prop :=
  t.eng? op = none ∧ s.countedDown t e.slot e.uid e.dc ∧ ∀ c, ∀ r ∈ (t.core c).locks, r.op ≠ op

/-! ## Queues and launches -/

/-- No launch but one is ready or running, so that a placement concerns none other; the table of launches is in order. -/
def State.onlyLaunch (s : State) (lid : Nat) : Prop :=
  s.launches.Pairwise (fun a b => a.1 < b.1) ∧ ∀ p ∈ s.launches, p.2.active = true → p.1 = lid

/-- A command processor may take the entry at HEAD from memory (R323): it is ready, the queue enabled, without an error, rung, idle and
without an invalidation under way, no `launch` has filled the entry, and its read does not fault. -/
def State.slotReady (s : State) (cp q : Nat) : Prop :=
  cp < 4 ∧ q < 64 ∧ s.mayTake cp (qkey cp q) = true ∧ (s.queue (qkey cp q)).inner = [] ∧ s.slotFaults (qkey cp q) = false

/-- The slot at HEAD has been taken (R323): its TYPE is 0, HEAD has advanced, one slot fewer is in use, and the rest of memory is as
before, but for what caches held of the slot's line, which stands in memory now. -/
def State.slotTaken (s t : State) (cp q : Nat) : Prop :=
  let x := s.queue (qkey cp q)
  (t.queue (qkey cp q)).head = x.head + 1 ∧ (t.queue (qkey cp q)).used = x.used - 1 ∧ t.peek x.slotPa = 0 ∧ t.peek (x.slotPa + 1) = 0 ∧
    ∀ a, a ≠ x.slotPa → a ≠ x.slotPa + 1 → t.peek a = (s.flushPa x.slotPa).peek a

/-- No home holds the line of a physical address. -/
def State.uncached (s : State) (pa : Nat) : Prop := ∀ key h, s.hline key = some h → h.pa ≠ pa / 128 * 128

/-- The threads, registers and masks of every warp are as before. -/
def threadsKept (s t : State) : Prop :=
  ∀ k, (t.warp k).vregs = (s.warp k).vregs ∧ (t.warp k).sregs = (s.warp k).sregs ∧ (t.warp k).threads = (s.warp k).threads ∧
    (t.warp k).kregs = (s.warp k).kregs

/-- A launch slot as R323 lays it out: type, ASID, function, header address, and zeros. -/
def launchSlotOk (bs : List Byte) : Prop :=
  field bs 0 2 = 1 ∧ field bs 4 1 < 64 ∧ field bs 5 3 = 0 ∧ field bs 16 16 = 0 ∧ field bs 8 8 % 128 = 0 ∧ field bs 8 8 < 2 ^ 52

/-- A launch stands at the head of its queue with its header read (R325). -/
def State.headerRead (s : State) (lid : Nat) (l : Launch) : Prop :=
  s.launch? lid = some l ∧ l.st = .header ∧ (s.queue l.queue).busy = some lid ∧ l.hdr ≠ []

/-- The host port and the pool ports are ready, so that no access to their memory has to wait (R383). -/
def State.portsReady (s : State) : Prop := s.hub.ready.getLsbD 3 = true ∧ ∀ i, i < 4 → s.hub.ready.getLsbD (36 + i) = true

/-- Every active launch but one is placed whole, so that the dispatcher places nothing of another. -/
def State.placesNone (s : State) (lid : Nat) : Prop :=
  ∀ p ∈ s.launches, p.1 ≠ lid → p.2.active = true → p.2.grid ≤ p.2.nextCl ∧ s.savedClusters p.1 = []

/-- A launch whose clusters leave is not placed again at once: its slice is over (R376), or another cluster of it has still to leave (R340). -/
def State.staysOff (s : State) (lid : Nat) (l : Launch) (cid : Nat) : Prop :=
  (l.pre = true ∧ s.turnFunc (s.partOf l.vf) ≠ some l.vf) ∨
    (l.cor = false ∧ ∃ k, k ≠ cid ∧ (s.cluster k).live = true ∧ (s.cluster k).launch = lid ∧ (s.cluster k).preempt = true ∧
      (s.cluster k).saved = false)

/-- A step moves and traps no threads of another pair whose leading warp has run ahead, so that its trailing warp need not catch up first. -/
def State.calm (s t : State) (k : Nat) : Prop := ∀ p ∈ s.pairs, p.1 ≠ k → s.disturbed t p.1 = false

/-- A launch has completed with a code, and its queue is free for the next entry (R324, R327). -/
def State.completed (t : State) (lid code queue : Nat) : Prop :=
  (∃ l, t.launch? lid = some l ∧ l.st = .finished ∧ l.code.toNat = code) ∧ (t.queue queue).busy ≠ some lid

/-! ## Platform -/

/-- Warps, launches, queues, operations, scratchpad and home lines are as before: what a platform event leaves alone. -/
def computeKept (s t : State) : Prop :=
  t.warps = s.warps ∧ t.launches = s.launches ∧ t.queues = s.queues ∧ t.ops = s.ops ∧ t.engs = s.engs ∧ t.scratch = s.scratch ∧
    t.home = s.home ∧ t.time = s.time

/-- A record has been logged or dropped: LSEQ has advanced by one (R444, R445). -/
def State.logged (s t : State) : Prop := t.hub.lseq = s.hub.lseq + 1

/-- What the cores of a sample are charged to a partition (R378): those that it owned. -/
def State.coreEnergy (s : State) (cores : List (Nat × Nat)) (part : Nat) : Nat :=
  ((cores.filter fun c => s.ownerAt c.1 = some part).map Prod.snd).sum

/-- Bytes that a partition has moved through a shared unit since the last sample (R378). -/
def State.bytesMoved (s : State) (unit part : Nat) : Nat := Map.get s.traffic 0 (32 * part + unit)

/-- No home holds a line that overlaps `n` bytes at a physical address. -/
def State.clearOf (s : State) (pa n : Nat) : Prop := ∀ p ∈ s.home, ∀ h, p.2 = some h → h.pa + 128 ≤ pa ∨ pa + n ≤ h.pa

/-- Valid partitions, with the dies of each, and all of them (R378). -/
def State.diesOf (s : State) (part : Nat) : Nat :=
  if part < 8 ∧ (s.part part).testBit 31 = true then (domainsOf (s.part part % 256)).length else 0
def State.diesAll (s : State) : Nat := ((List.range 8).map s.diesOf).sum

/-! ## Links, far memory and collectives -/

/-- A message to a chip that a flit can name is on its way: one for this chip waits here; another, where a port that is up leads to its
chip, stands on that port, to be sent or to be acknowledged (R347, R348). -/
def State.carries (t : State) (dest vc : Nat) (bs : List Byte) : Prop :=
  dest < 4096 → if dest = t.chip then (t.chip, vc, bs) ∈ t.fab.inbox
  else ∀ p, t.route dest = some p → (t.port p).width ≠ 0 →
    ∃ f ∈ (t.port p).wait.map Prod.snd ++ (t.port p).retry, f.dest = BitVec.ofNat 12 dest ∧ f.vc = BitVec.ofNat 8 vc ∧ f.payload = bs

/-- No collective is under way on this chip. -/
def State.quietCol (s : State) : Prop := s.fab.notices = [] ∧ s.fab.issued = [] ∧ s.fab.reports = []

/-- The oldest message of a chip on the sequencer channel (R359), in its turn among those of all chips (R360). -/
def State.arrived (s : State) (src : Nat) (bs : List Byte) : Prop := s.heard src = some bs ∧ s.inTurn src bs = true

/-- Nothing but the fabric, the log and what is sent changes. -/
def fabricOnly (s t : State) : Prop :=
  computeKept s t ∧ t.blocks = s.blocks ∧ t.l1 = s.l1 ∧ t.power = s.power ∧ t.hub.ready = s.hub.ready

/-- The side of an aperture access is there: the host's port is ready (R383), or the route to the other chip is up (R454). -/
def State.apHeard (s : State) (x : ApertureAcc) : Prop := if x.fromHost then s.hub.ready.getLsbD 3 = true else s.linked x.src = true

/-- A line of the pool cache of a page without bounds, alone at its physical address, whose range is not lost. -/
def State.poolLine (s : State) (pa key : Nat) (h : HLine) : Prop :=
  s.poolLines pa = [key] ∧ s.hline key = some h ∧ h.line.bounded = false ∧ paKind h.pa = .pool ∧ h.line.data.length = 128 ∧
    s.poolLost h.pa = false

/-- The dirty sectors of a line stand in memory, and nothing else of it has changed (R111, R354). -/
def writtenBack (s t : State) (h : HLine) : Prop :=
  ∀ a, t.peek a = if h.pa ≤ a ∧ a < h.pa + 128 ∧ h.dirty.getLsbD ((a - h.pa) / 32) = true then h.line.data.getD (a - h.pa) 0 else s.peek a

end Sys2Proof.Machine
end

