-- ==== Sys2Proof/Certificates/Slice0/Obligations.lean ====
section
/-! DEFINITION. The statements for the provers, from the numbered rules of the manual. -/

open Sys2Proof Sys2Proof.Machine

/-! ## Scalar and vector integer instructions (R192, R197 to R200) -/

/-- SBIN instructions with a 32-bit result (R197, R198): the destination holds the function of the two sources; every other scalar register,
every vector register, `sc`, the masks, the special registers, all memory and every other warp are as before; the issuing threads move
on by one word. SBIN instructions on pairs (R63, R197): the pair at the destination holds the 64-bit result, and the rest is as before.
The SIMM instructions that write a register (R200). The scalar compares (R199, R200): `sc` holds whether the condition holds, and
nothing else of the warp's registers changes. -/
def Obligations.ScalarResults : Prop :=
  ((∀ (i : Instr) (s : State) (d : SReg) (a b : Src) (f : Word → Word → Word), sbinTwo i = some (d, a, b) → binary i = some f →
    s.clear ((Uses.none.srcs [a, b]).dstS d.toNat 1) →
    ∃ t, exec i s = .next t ∧ t.cw.s d.toNat = f (s.cw.rdS a) (s.cw.rdS b) ∧ scalarKept d.toNat 1 s t) ∧
  (∀ (i : Instr) (s : State) (d : SReg) (a : Src) (f : Word → Word), sbinOne i = some (d, a) → unary i = some f →
    s.clear ((Uses.none.srcs [a]).dstS d.toNat 1) →
    ∃ t, exec i s = .next t ∧ t.cw.s d.toNat = f (s.cw.rdS a) ∧ scalarKept d.toNat 1 s t) ∧
  (∀ (s : State) (d : SReg) (a b : Src), s.clear (((Uses.none.srcs [a, b]).srcS d.toNat 1).dstS d.toNat 1) →
    ∃ t, exec (.sBfiB32 d a b) s = .next t ∧
      t.cw.s d.toNat = merged (fieldMask (s.cw.rdS b)) (s.cw.rdS a <<< fieldOff (s.cw.rdS b)) (s.cw.s d.toNat) ∧
      scalarKept d.toNat 1 s t) ∧
  (∀ (s : State) (d : SReg) (a b : Src), s.clear ((Uses.none.srcs [a, b]).dstS d.toNat 1) →
    ∃ t, exec (.selB32 d a b) s = .next t ∧ t.cw.s d.toNat = (if s.cw.sc = true then s.cw.rdS a else s.cw.rdS b) ∧
      scalarKept d.toNat 1 s t)) ∧
  (∀ (s : State) (d : SReg) (a b : Src),
    (s.clear (((Uses.none.src 2 a).src 2 b).dstS d.toNat 2) →
      (∃ t, exec (.sIaddB64 d a b) s = .next t ∧
        t.cw.s64 d.toNat = BitVec.ofNat 64 ((s.cw.rdS64 a).toNat + (s.cw.rdS64 b).toNat) ∧ scalarKept d.toNat 2 s t) ∧
      (∃ t, exec (.isubB64 d a b) s = .next t ∧
        t.cw.s64 d.toNat = BitVec.ofInt 64 ((s.cw.rdS64 a).toInt - (s.cw.rdS64 b).toInt) ∧ scalarKept d.toNat 2 s t)) ∧
    (s.clear (((Uses.none.src 2 a).src 1 b).dstS d.toNat 2) →
      (∃ t, exec (.shlB64 d a b) s = .next t ∧
        t.cw.s64 d.toNat = (if 64 ≤ (s.cw.rdS b).toNat then 0 else s.cw.rdS64 a <<< (s.cw.rdS b).toNat) ∧ scalarKept d.toNat 2 s t) ∧
      (∃ t, exec (.shrN64 d a b) s = .next t ∧
        t.cw.s64 d.toNat = (if 64 ≤ (s.cw.rdS b).toNat then 0 else s.cw.rdS64 a >>> (s.cw.rdS b).toNat) ∧ scalarKept d.toNat 2 s t) ∧
      (∃ t, exec (.shrS64 d a b) s = .next t ∧
        t.cw.s64 d.toNat = (if 64 ≤ (s.cw.rdS b).toNat then (if (s.cw.rdS64 a).toInt < 0 then BitVec.allOnes 64 else 0)
          else BitVec.ofInt 64 ((s.cw.rdS64 a).toInt / 2 ^ (s.cw.rdS b).toNat)) ∧ scalarKept d.toNat 2 s t))) ∧
  (∀ (s : State) (d : SReg) (imm : BitVec 16),
    (s.clear (Uses.none.dstS d.toNat 1) →
      ∃ t, exec (.movk d imm) s = .next t ∧ t.cw.s d.toNat = BitVec.ofInt 32 imm.toInt ∧ scalarKept d.toNat 1 s t) ∧
    (s.clear ((Uses.none.srcS d.toNat 1).dstS d.toNat 1) →
      (∃ t, exec (.movhi d imm) s = .next t ∧ t.cw.s d.toNat = imm ++ (s.cw.s d.toNat).extractLsb' 0 16 ∧ scalarKept d.toNat 1 s t) ∧
      (∃ t, exec (.iaddk d imm) s = .next t ∧ t.cw.s d.toNat = BitVec.ofInt 32 ((s.cw.s d.toNat).toInt + imm.toInt) ∧
        scalarKept d.toNat 1 s t) ∧
      (∃ t, exec (.mulk d imm) s = .next t ∧ t.cw.s d.toNat = BitVec.ofInt 32 ((s.cw.s d.toNat).toInt * imm.toInt) ∧
        scalarKept d.toNat 1 s t))) ∧
  ((∀ (i : Instr) (s : State) (a b : Src) (f : Word → Word → Bool), scalarCompare i = some (a, b, f) → s.clear (Uses.none.srcs [a, b]) →
    ∃ t, exec i s = .next t ∧ t.cw.sc = f (s.cw.rdS a) (s.cw.rdS b) ∧ conditionKept s t) ∧
  (∀ (s : State) (a b : Src), s.clear ((Uses.none.src 2 a).src 2 b) →
    (∃ t, exec (.cmpEqB64 a b) s = .next t ∧ (t.cw.sc = true ↔ s.cw.rdS64 a = s.cw.rdS64 b) ∧ conditionKept s t) ∧
    (∃ t, exec (.cmpNeB64 a b) s = .next t ∧ (t.cw.sc = true ↔ s.cw.rdS64 a ≠ s.cw.rdS64 b) ∧ conditionKept s t)) ∧
  (∀ (s : State) (d : SReg) (imm : BitVec 16), s.clear (Uses.none.srcS d.toNat 1) →
    (∃ t, exec (.cmpkEq d imm) s = .next t ∧ (t.cw.sc = true ↔ (s.cw.s d.toNat).toInt = imm.toInt) ∧ conditionKept s t) ∧
    (∃ t, exec (.cmpkLtS32 d imm) s = .next t ∧ (t.cw.sc = true ↔ (s.cw.s d.toNat).toInt < imm.toInt) ∧ conditionKept s t) ∧
    (∃ t, exec (.cmpkLtN32 d imm) s = .next t ∧ (t.cw.sc = true ↔ (s.cw.s d.toNat).toNat < imm.toNat) ∧ conditionKept s t)))

/-- VBIN integer instructions and `mov.b32` (R86, R192, R197): in each effective lane the destination holds the function of the lane's
sources, exact when both are and else unbounded (a move keeps the bound); every other lane and register is as before. VWIDE integer
instructions with a 32-bit result and `mov.b32` (R86, R195 to R198, R205): in each effective lane the destination, unless `nw`, holds
the function of the lane's sources, src0 being read under the cross-lane pattern. VWIDE instructions with a 64-bit result (R60, R195,
R197): in each effective lane the pair at the destination holds the result, with one bound in both registers. Captures of all VWIDE
instructions with a 32-bit result, integer, move and floating-point (R65, R196). -/
def Obligations.VectorResults : Prop :=
  ((∀ (i : Instr) (s : State) (d : VReg) (a b : Src) (f : Word → Word → Word), vbinTwo i = some (d, a, b) → binary i = some f →
    s.clear ((Uses.none.srcs [a, b]).dstV d.toNat 1) →
    ∃ t, exec i s = .next t ∧ vectorKept s t 1 ∧
      ∀ q l, l < 32 → t.cw.v q l = if q = d.toNat ∧ (s.cw.issue &&& s.cw.exm).getLsbD l
        then ⟨f (s.cw.rd .word a l).val (s.cw.rd .word b l).val, intBound [s.cw.rd .word a l, s.cw.rd .word b l]⟩ else s.cw.v q l) ∧
  (∀ (s : State) (d : VReg) (a : Src), s.clear ((Uses.none.srcs [a]).dstV d.toNat 1) →
    ∃ t, exec (.vMovB32 d a) s = .next t ∧ vectorKept s t 1 ∧
      ∀ q l, l < 32 → t.cw.v q l = if q = d.toNat ∧ (s.cw.issue &&& s.cw.exm).getLsbD l then s.cw.rd .word a l else s.cw.v q l)) ∧
  (∀ (i : Instr) (s : State) (m : Wide) (xs : List Src) (f : Nat → LV), wideInt s.cw i = some (m, xs, f) → s.clear (wideNames m 1 xs) →
    ∃ t, exec i s = .next t ∧ vectorKept s t 2 ∧ wideDone m f s.cw t.cw) ∧
  (∀ (i : Instr) (s : State) (m : Wide) (us : Uses) (f : Nat → DWord) (bs : Nat → List LV), widePair s.cw i = some (m, us, f, bs) →
    m.nw = false → m.d.toNat + 1 < 128 → s.clear (us.dstV m.d.toNat 2) →
    ∃ t, exec i s = .next t ∧ vectorKept s t 2 ∧
      ∀ q l, l < 32 → t.cw.v q l =
        if q = m.d.toNat ∧ (s.cw.effP m.pred).getLsbD l then ⟨(f l).extractLsb' 0 32, intBound (bs l)⟩
        else if q = m.d.toNat + 1 ∧ (s.cw.effP m.pred).getLsbD l then ⟨(f l).extractLsb' 32 32, intBound (bs l)⟩
        else s.cw.v q l) ∧
  (∀ (i : Instr) (s : State) (m : Wide) (xs : List Src) (f : Nat → LV),
    wideInt s.cw i = some (m, xs, f) ∨ wideFloat s.cw i = some (m, xs, f) →
    m.cap ≠ 0 → s.clear (wideNames m 1 xs) → ∃ t, exec i s = .next t ∧ captured m f s.cw t.cw)

/-! ## Floating point, bounds and compares -/

/-- Floating-point VBIN and VWIDE instructions (R90, R195, R201 to R204): each effective lane of the destination holds the lane's result
with its bound; governed instructions run at the one level chosen for their effective lanes. (That fmin, fmax and fclamp are unbounded
with an infinite source, and the order of NaN elements of dot2, are the model's choices (logs 76 and 39).) -/
def Obligations.VectorFloat : Prop :=
  (∀ (i : Instr) (s : State) (d : VReg) (xs : List Src) (f : Nat → LV), vbinFloat s.cw i = some (d, xs, f) →
    s.clear ((Uses.none.srcs xs).dstV d.toNat 1) →
    ∃ t, exec i s = .next t ∧ vectorKept s t 1 ∧
      ∀ q l, l < 32 → t.cw.v q l = if q = d.toNat ∧ (s.cw.issue &&& s.cw.exm).getLsbD l then f l else s.cw.v q l) ∧
  (∀ (i : Instr) (s : State) (m : Wide) (xs : List Src) (f : Nat → LV), wideFloat s.cw i = some (m, xs, f) →
    s.clear (wideNames m 1 xs) → ∃ t, exec i s = .next t ∧ vectorKept s t 2 ∧ wideDone m f s.cw t.cw) ∧
  (∀ (w : Warp) (as_ : ReadAs) (xl : BitVec 4) (e : Mask) (r : VReg) (l : Nat), l < 32 →
    w.rdX as_ xl e (.v r) l = across xl e (fun j => w.v r.toNat j) l)

/-- Error bounds are sound (R81 to R84, R89): whatever level the governor chooses and whatever the rounding mode, a governed result whose
bound is finite is finite and lies within that bound of the true result, for all true values of the sources within their own bounds. -/
def Obligations.BoundsEncloseTrueValues : Prop :=
  ∀ (v : Level) (rnd : Rnd) (x y z : LV) (X Y Z : ℚ), within x X → within y Y → within z Z →
    encloses (governedLane v rnd (govAdd (opF32 x) (opF32 y))) (X + Y) ∧
    encloses (governedLane v rnd (govSub (opF32 x) (opF32 y))) (X - Y) ∧
    encloses (governedLane v rnd (govMul (opF32 x) (opF32 y))) (X * Y) ∧
    encloses (governedLane v rnd (govFma (opF32 x) (opF32 y) (opF32 z))) (X * Y + Z)

/-- Bounds are rounded up once (R82): the code written is the least bound16 value that is not below the number, and unbounded above the
value of 0xFEFF. -/
def Obligations.BoundRoundsUpOnce : Prop :=
  ∀ x : Dy, match bndReal (bndUp x) with
    | some v => x.real ≤ v ∧ ∀ (b : Bnd) (u : ℚ), bndReal b = some u → x.real ≤ u → v ≤ u
    | none => bndUp x = 0xFF00 ∧ ∀ (b : Bnd) (u : ℚ), bndReal b = some u → u < x.real

/-- Certain compares (R87): true exactly when the condition holds for every pair of values of the two intervals; false with a NaN operand;
never uncertain. Plain compares (R88): on finite values the outcome is the condition's on the computed values; a lane is uncertain
exactly when an operand is a NaN or the outcome would differ for some pair of values of the two intervals; `ord` and `uno` never are. -/
def Obligations.IntervalCompares : Prop :=
  (∀ (c k : Cond) (x y : LV), certainOf c = some k →
    (compareFV k (opF32 x) (opF32 y)).2 = false ∧
    ((compareFV k (opF32 x) (opF32 y)).1 = true ↔
      ¬nanWord x.val ∧ ¬nanWord y.val ∧ ∀ X Y : ℚ, inInterval x X → inInterval y Y → condHolds c X Y)) ∧
  ((∀ (c k : Cond) (x y : LV), certainOf c = some k →
    (finiteWord x.val → finiteWord y.val → ((compareFV c (opF32 x) (opF32 y)).1 = true ↔ condHolds c (realOf x.val) (realOf y.val))) ∧
    (nanWord x.val ∨ nanWord y.val → compareFV c (opF32 x) (opF32 y) = (c == .ne, true)) ∧
    (finiteWord x.val → finiteWord y.val → ((compareFV c (opF32 x) (opF32 y)).2 = true ↔
      ∃ X Y : ℚ, inInterval x X ∧ inInterval y Y ∧ ¬(condHolds c X Y ↔ condHolds c (realOf x.val) (realOf y.val))))) ∧
  (∀ x y : LV, (compareFV .ord (opF32 x) (opF32 y)).2 = false ∧ (compareFV .uno (opF32 x) (opF32 y)).2 = false ∧
    ((compareFV .uno (opF32 x) (opF32 y)).1 = true ↔ nanWord x.val ∨ nanWord y.val) ∧
    ((compareFV .ord (opF32 x) (opF32 y)).1 = true ↔ ¬nanWord x.val ∧ ¬nanWord y.val)))

/-- VCMP compares (R207, R208): in each effective lane the mask bit is the outcome, and `%unc` gains the bits of the uncertain lanes; other
bits keep their values. Where uncertain comparisons trap, the statement is of a compare that is certain in every effective lane. An
uncertain compare traps where `%assure` bit 1 is set (R208, R404): kdst and `%unc` take their full effect first, then the issuing group
enters a trap of code 0x0501 whose LANES are the uncertain lanes and whose resume point is the next instruction. -/
def Obligations.VectorCompares : Prop :=
  ((∀ (i : Instr) (s : State) (d : KReg) (c : Cond) (xs : List Src) (f : Nat → Opnd × Opnd), laneCompare s.cw i = some (d, c, xs, f) →
    d ≠ 0 → s.clear (Uses.none.srcs xs) →
    (s.uncTraps s.cw = false ∨ s.cw.inTrap = true ∨
      ∀ l, l < 32 → (s.cw.issue &&& s.cw.exm).getLsbD l → (compareFV c (f l).1 (f l).2).2 = false) →
    ∃ t, exec i s = .next t ∧ maskKept d s t ∧
      ∀ l, l < 32 →
        ((t.cw.k d.toNat).getLsbD l = if (s.cw.issue &&& s.cw.exm).getLsbD l then (compareFV c (f l).1 (f l).2).1
          else (s.cw.k d.toNat).getLsbD l) ∧
        (t.cw.unc.getLsbD l = (s.cw.unc.getLsbD l || ((s.cw.issue &&& s.cw.exm).getLsbD l && (compareFV c (f l).1 (f l).2).2)))) ∧
  (∀ (s : State) (d : KReg) (c : Cond) (a b : Src), d ≠ 0 → c = .eq ∨ c = .ne → s.clear ((Uses.none.src 2 a).src 2 b) →
    ∃ t, exec (.cmpB64 d c a b) s = .next t ∧ maskKept d s t ∧ t.cw.unc = s.cw.unc ∧
      ∀ l, l < 32 → (t.cw.k d.toNat).getLsbD l =
        if (s.cw.issue &&& s.cw.exm).getLsbD l then ((s.cw.rd64 a l).1 == (s.cw.rd64 b l).1) == (c == .eq)
        else (s.cw.k d.toNat).getLsbD l)) ∧
  (∀ (i : Instr) (s : State) (d : KReg) (c : Cond) (xs : List Src) (f : Nat → Opnd × Opnd), laneCompare s.cw i = some (d, c, xs, f) →
    d ≠ 0 → s.clear (Uses.none.srcs xs) → s.uncTraps s.cw = true → s.cw.trap = none → handlerReady s.cw →
    (∃ l, l < 32 ∧ (s.cw.issue &&& s.cw.exm).getLsbD l ∧ (compareFV c (f l).1 (f l).2).2 = true) →
    ∃ t e ops, exec i s = .next t ∧ t.cw.trap = some (e, .entering ops) ∧ e.code = 0x0501 ∧ e.npc = s.cw.pc + 4 ∧ e.pc = s.cw.pc ∧
      ∀ l, l < 32 →
        (e.lanes.getLsbD l = ((s.cw.issue &&& s.cw.exm).getLsbD l && (compareFV c (f l).1 (f l).2).2)) ∧
        (t.cw.unc.getLsbD l = (s.cw.unc.getLsbD l || e.lanes.getLsbD l)) ∧
        ((t.cw.k d.toNat).getLsbD l = if (s.cw.issue &&& s.cw.exm).getLsbD l then (compareFV c (f l).1 (f l).2).1
          else (s.cw.k d.toNat).getLsbD l))

/-- Whole mask registers and votes (R209, R210): all 32 bits of the destination are written, whatever the effective lanes; and `kmov` to a
scalar register copies a mask (k0 reads as the issue mask). -/
def Obligations.MaskResults : Prop :=
  (∀ (i : Instr) (s : State) (d : KReg) (xs : List Src) (x : Mask), maskResult s.cw i = some (d, xs, x) → d ≠ 0 →
    s.clear (Uses.none.srcs xs) → ∃ t, exec i s = .next t ∧ t.cw.k d.toNat = x ∧ t.cw.unc = s.cw.unc ∧ maskKept d s t) ∧
  (∀ (s : State) (d : SReg) (a : KReg), s.clear (Uses.none.dstS d.toNat 1) →
    ∃ t, exec (.kmovToS d a) s = .next t ∧
      t.cw.s d.toNat = (if a = 0 then s.cw.issue else Map.get s.cw.kregs 0 a.toNat) ∧ scalarKept d.toNat 1 s t)

/-! ## VX instructions -/

/-- VX instructions that work lane by lane (R214 to R216, R219, R220) and `bcast` (R217). Shuffles (R206, R217): lane l takes src0 of its
source lane when that lane lies in the segment and is effective; else zero and exact, or its own src0. Reductions and scans (R218):
partials of the effective lanes are combined in the order of the rounds; lanes that are not effective count as the identity. (That the
words of the approximating functions are constants of the configuration is the model's choice (log 4).) -/
def Obligations.VxResults : Prop :=
  (∀ (i : Instr) (s : State) (p : Pred) (d : VReg) (xs : List Src) (f : Nat → LV), vxLane s.cw i = some (p, d, xs, f) →
    s.clear ((Uses.none.srcs xs).dstV d.toNat 1) → ∃ t, exec i s = .next t ∧ vxDone p d f s t) ∧
  (∀ (i : Instr) (s : State) (p : Pred) (d : VReg) (a b : Src) (g : Seg) (own : Bool), shuffleParts i = some (p, d, a, b, g, own) →
    s.clear ((Uses.none.srcs [a, b]).dstV d.toNat 1) →
    ∃ t, exec i s = .next t ∧ vxDone p d (fun l => match shuffleLane i l (segWidth g) (s.cw.rd .word b l).val.toNat with
      | some j => if (s.cw.effP p).getLsbD j then s.cw.rd .word a j else if own then s.cw.rd .word a l else LV.zero
      | none => if own then s.cw.rd .word a l else LV.zero) s t) ∧
  (∀ (s : State) (p : Pred) (d : VReg) (a : Src) (op : RedOp) (excl : Bool), s.clear ((Uses.none.srcs [a]).dstV d.toNat 1) →
    (∃ t, exec (.redux p d a op) s = .next t ∧ vxDone p d (fun _ => redOut op (reduxTree op
        (fun l => if (s.cw.effP p).getLsbD l then some (s.cw.rd .word a l) else none) 5 0)) s t) ∧
    (∃ t, exec (.scan p d a op excl) s = .next t ∧ vxDone p d (fun l =>
        let q := scanTree op (fun l => if (s.cw.effP p).getLsbD l then some (s.cw.rd .word a l) else none) 5
        redOut op (if excl then (if l = 0 then none else q (l - 1)) else q l)) s t))

/-- Conversions (R212, R213): the element converted, zero above it, or a pair; and two values packed into a word. -/
def Obligations.Conversions : Prop :=
  (∀ (s : State) (p : Pred) (d : VReg) (a : Src) (dt st : Fmt) (rnd : Rnd) (sat : Bool) (el : BitVec 3), dt.is64 = false →
    s.clear ((Uses.none.src (fmtRegs st) a).dstV d.toNat 1) →
    ∃ t, exec (.cvt p d a dt st rnd sat el) s = .next t ∧ vxDone p d (fun l =>
      let x := s.cw.rdElem st a el.toNat l; let r := convert dt st rnd sat x.1 x.2; ⟨BitVec.ofNat 32 r.1, r.2⟩) s t) ∧
  (∀ (s : State) (p : Pred) (d : VReg) (a : Src) (dt st : Fmt) (rnd : Rnd) (sat : Bool) (el : BitVec 3), dt.is64 = true →
    s.clear ((Uses.none.src (fmtRegs st) a).dstV d.toNat 2) →
    ∃ t, exec (.cvt p d a dt st rnd sat el) s = .next t ∧ vectorKept s t 2 ∧ ∀ q l, l < 32 →
      let x := s.cw.rdElem st a el.toNat l; let r := convert dt st rnd sat x.1 x.2
      t.cw.v q l =
        if q = d.toNat ∧ (s.cw.effP p).getLsbD l then ⟨BitVec.ofNat 32 (r.1 % 2 ^ 32), r.2⟩
        else if q = d.toNat + 1 ∧ (s.cw.effP p).getLsbD l then ⟨BitVec.ofNat 32 (r.1 / 2 ^ 32 % 2 ^ 32), r.2⟩
        else s.cw.v q l) ∧
  (∀ (s : State) (p : Pred) (d : VReg) (a b c : Src) (dt : Fmt) (rnd : Rnd) (sat : Bool) (pos : BitVec 2), fmtBits dt = 16 →
    s.clear ((Uses.none.srcs [a, b]).dstV d.toNat 1) →
    ∃ t, exec (.cvtpk p d a b c dt rnd sat pos) s = .next t ∧ vxDone p d (fun l =>
      let u := convert dt .f32 rnd sat (s.cw.rd .word a l).val.toNat (s.cw.rd .word a l).bnd
      let v := convert dt .f32 rnd sat (s.cw.rd .word b l).val.toNat (s.cw.rd .word b l).bnd
      ⟨BitVec.ofNat 32 (u.1 + 65536 * v.1), bndMax u.2 v.2⟩) s t) ∧
  (∀ (s : State) (p : Pred) (d : VReg) (a b c : Src) (dt : Fmt) (rnd : Rnd) (sat : Bool) (pos : BitVec 2), fmtBits dt < 16 →
    s.clear ((Uses.none.srcs [a, b, c]).dstV d.toNat 1) →
    ∃ t, exec (.cvtpk p d a b c dt rnd sat pos) s = .next t ∧ vxDone p d (fun l =>
      let u := convert dt .f32 rnd sat (s.cw.rd .word a l).val.toNat (s.cw.rd .word a l).bnd
      let v := convert dt .f32 rnd sat (s.cw.rd .word b l).val.toNat (s.cw.rd .word b l).bnd
      let z := s.cw.rd .word c l
      ⟨mergeTwo z.val (fmtBits dt) pos.toNat u.1 v.1, bndMax (bndMax u.2 v.2) z.bnd⟩) s t)

/-- `bchk` (R221, R401): with every effective lane within the budget it has no effect; otherwise a precise bound-breach trap of code 0x0401
is taken whose LANES are the failing lanes, and no register changes. -/
def Obligations.BoundCheck : Prop :=
  ∀ (s : State) (p : Pred) (a : Src) (st : Fmt), s.clear (Uses.none.srcs [a]) →
    ((∀ l, l < 32 → (s.cw.effP p).getLsbD l → budgetPass s.cw.budget (chkOpnd st (s.cw.rd (fmtAs st) a l)) = true) →
      ∃ t, exec (.bchk p a st) s = .next t ∧ t.cw.vregs = s.cw.vregs ∧ vectorKept s t 2) ∧
    (s.cw.trap = none → handlerReady s.cw →
      (∃ l, l < 32 ∧ (s.cw.effP p).getLsbD l ∧ budgetPass s.cw.budget (chkOpnd st (s.cw.rd (fmtAs st) a l)) = false) →
      ∃ t e ops, exec (.bchk p a st) s = .next t ∧ t.cw.trap = some (e, .entering ops) ∧ e.code = 0x0401 ∧ e.group = s.cw.issue ∧ e.pc = s.cw.pc ∧
        e.npc = s.cw.pc ∧ t.cw.vregs = s.cw.vregs ∧ t.cw.sregs = s.cw.sregs ∧
        ∀ l, l < 32 → e.lanes.getLsbD l =
          ((s.cw.effP p).getLsbD l && !budgetPass s.cw.budget (chkOpnd st (s.cw.rd (fmtAs st) a l))))

/-! ## Memory instructions -/

/-- Global loads, stores and atomics at issue (R223 to R226, R232): an operation leaves with the address and the operand words of each
effective lane, its counter rises, no register and no byte of memory changes yet; a load-class instruction holds the warp, a store-class
one moves on. Without an effective lane the instruction makes no access, but it counts on its counter (R45). `sld` (R225, R230): one
access for the warp, at the address that the issuing group's lowest lane forms; the warp is held. `pf` (R231): an operation asks for the
lines of the effective lanes whose addresses are good; no counter rises, no register changes, and the group moves on. (That a load keeps
its group at the instruction until each lane is served is the model's choice (log 12).) -/
def Obligations.GlobalAccessIssues : Prop :=
  (∀ (x : (Gmem → Instr) × MemKind), x ∈ [(Instr.ld, MemKind.ld), (Instr.st, MemKind.st), (Instr.atom, MemKind.atom),
      (Instr.red, MemKind.red), (Instr.cas, MemKind.cas)] →
  ∀ (s : State) (g : Gmem), s.gmemFree x.2 false g → (x.2 = .st → s.chkPass g) →
    (s.cw.eff = 0 → ∃ t, exec (x.1 g) s = .next t ∧ issueKept s t ∧ countedUp s t g.dc ∧ s.movesOn t 2 ∧
      (g.dc.toNat < 6 → ∃ o, t.op? s.nextId = some o ∧ o.kind = x.2 ∧ o.dc = g.dc ∧ o.lanes = [])) ∧
    (s.cw.eff ≠ 0 →
    (∀ l, l < 32 → s.cw.eff.getLsbD l = true → s.goodAddr false g (laneAddr s.cw g false l) ∧ s.coldLine (laneAddr s.cw g false l)) →
    ∃ t o, exec (x.1 g) s = .next t ∧ t.op? s.nextId = some o ∧ o.kind = x.2 ∧ o.slot = s.cur ∧ o.dc = g.dc ∧ o.dst = g.vdata.toNat ∧
      o.width = g.width ∧ o.scope = g.scope ∧ o.order = g.order ∧ issueKept s t ∧ countedUp s t g.dc ∧
      (if x.2.returns then t.cw.hold = .access s.nextId else s.movesOn t 2) ∧
      (∀ l, l < 32 → s.cw.eff.getLsbD l = true → (o.lane l).st = .sent ∧ (o.lane l).addr = laneAddr s.cw g false l ∧
        (o.lane l).data = laneWords s.cw g.vdata.toNat (x.2.operands g.width) l) ∧
      (∀ l, l < 32 → s.cw.eff.getLsbD l = false → o.lane l = Lane.none))) ∧
  (∀ (s : State) (g : Gmem), s.clear (s.cw.gmemUses .sld false g) → s.cw.ctrFull g.dc = false → s.acqPending s.cur = false →
    s.relPending s.cur = false →
    (s.core (coreOf s.cur)).locks = [] → (∀ l, (s.cw.thr l).replay = none) →
    s.goodAddr false g (laneAddr s.cw g false s.cw.lead) → s.coldLine (laneAddr s.cw g false s.cw.lead) →
    ∃ t o, exec (.sld g) s = .next t ∧ t.op? s.nextId = some o ∧ o.kind = .sld ∧ o.slot = s.cur ∧ o.dst = g.vdata.toNat % 64 ∧
      o.dc = g.dc ∧ o.lanes.length = 1 ∧ (o.lane 0).st = .sent ∧ (o.lane 0).addr = laneAddr s.cw g false s.cw.lead ∧ issueKept s t ∧
      countedUp s t g.dc ∧ t.cw.hold = .access s.nextId) ∧
  (∀ (s : State) (g : Gmem), s.clear (s.cw.gmemUses .pf false g) → s.acqPending s.cur = false → (∀ l, (s.cw.thr l).replay = none) →
    ∃ t, exec (.pf g) s = .next t ∧ issueKept s t ∧ t.cw.ctr = s.cw.ctr ∧ s.movesOn t 2 ∧
      (∀ l, l < 32 → s.cw.eff.getLsbD l = true → s.goodAddr false g (laneAddr s.cw g false l) → s.coldLine (laneAddr s.cw g false l) →
        ∃ o, t.op? s.nextId = some o ∧ o.kind = .pf ∧ (o.lane l).st = .sent ∧ (o.lane l).addr = laneAddr s.cw g false l))

/-- A load reads its address faults at issue (R103, R386, R392, R398): with one effective lane whose address lies at 2^52 or above, or is
not aligned, `ld` parks the lane and enters a memory trap whose LANES is that lane and whose ADDR is the address. A misaligned
scratchpad load traps (R236, R386, R398): with one effective lane, of the issuing group's one thread, memory cause 0x02, and no register
changes. -/
def Obligations.AddressTraps : Prop :=
  (∀ (s : State) (g : Gmem) (l : Nat), l < 32 → s.gmemFree .ld false g → s.cw.eff = 1#32 <<< l → s.cw.issue = 1#32 <<< l →
    s.cw.trap = none → handlerReady s.cw →
    let a := laneAddr s.cw g false l
    (2 ^ 52 ≤ a.toNat ∨ a.toNat % g.width.bytes ≠ 0) →
    ∃ t e ops, exec (.ld g) s = .next t ∧ t.cw.trap = some (e, .entering ops) ∧ e.lanes = 1#32 <<< l ∧ e.addr = a ∧ e.pc = s.cw.pc ∧
      e.code = (if 2 ^ 52 ≤ a.toNat then 0x0201 else 0x0202) ∧ t.cw.vregs = s.cw.vregs ∧ ∀ k, t.peek k = s.peek k) ∧
  (∀ (i : Instr) (s : State) (size : Nat) (sg : Bool) (d a : VReg) (imm : BitVec 9) (l : Nat), spadLoad i = some (size, sg, d, a, imm) →
    l < 32 → s.cw.issue = 1#32 <<< l → s.cw.eff = 1#32 <<< l → s.cw.trap = none → handlerReady s.cw →
    s.spadFree ((Uses.none.srcV a.toNat 1).dstV d.toNat ((size + 3) / 4)) → spadAt s.cw a imm l % size ≠ 0 →
    ∃ t e ops, exec i s = .next t ∧ t.cw.trap = some (e, .entering ops) ∧ e.code = 0x0202 ∧ e.lanes = 1#32 <<< l ∧
      e.addr = BitVec.ofNat 64 (spadAt s.cw a imm l) ∧ t.cw.vregs = s.cw.vregs ∧ t.scratch = s.scratch)

/-- Group-space accesses (R102, R134, R136, R223): they are performed in the cluster's unit at issue. For lanes that touch different bytes:
a load delivers the bytes at its offset, a store writes its operand's bytes, an atomic delivers the old value and writes the new one;
every other byte of group space, and all of physical memory, is as before. (That a group-space release issues once its drain set is
acknowledged, and that an access is one step, but for a 128-bit one that the schedule splits, are the model's choices (logs 59 and 9).) -/
def Obligations.GroupSpaceAccess : Prop :=
  ∀ (x : (Gmem → Instr) × MemKind), x ∈ [(Instr.gld, MemKind.ld), (Instr.gst, MemKind.st), (Instr.gatom, MemKind.atom),
      (Instr.gcas, MemKind.cas)] →
  ∀ (s : State) (g : Gmem), s.gmemFree x.2 true g → (x.2 = .st → s.chkPass g) → s.cw.eff ≠ 0 →
    (∀ l, l < 32 → s.cw.eff.getLsbD l = true → s.goodAddr true g (laneAddr s.cw g true l)) →
    (∀ l j, l < 32 → j < 32 → l ≠ j → s.cw.eff.getLsbD l = true → s.cw.eff.getLsbD j = true →
      (laneAddr s.cw g true l).toNat + g.width.bytes ≤ (laneAddr s.cw g true j).toNat ∨
      (laneAddr s.cw g true j).toNat + g.width.bytes ≤ (laneAddr s.cw g true l).toNat) →
    let cid := (s.block s.cw.block).cluster
    let n := g.width.bytes
    ∃ t o, exec (x.1 g) s = .next t ∧ t.op? s.nextId = some o ∧ o.kind = x.2 ∧ countedUp s t g.dc ∧ t.cw.vregs = s.cw.vregs ∧
      (∀ a, t.peek a = s.peek a) ∧ t.scratch = s.scratch ∧
      (∀ l, l < 32 → s.cw.eff.getLsbD l = true →
        let off := (laneAddr s.cw g true l).toNat
        let ws := laneWords s.cw g.vdata.toNat (x.2.operands g.width) l
        (x.2.returns = true → (o.lane l).res = loadWords g.width (s.gsRead cid off n)) ∧
        t.gsRead cid off n = (if x.2 = .ld then s.gsRead cid off n else if x.2 = .st then lowBytes n ws
          else (rmw x.2 g.aop n (s.gsRead cid off n) ws 0 (o.lane l).bnd).1)) ∧
      (∀ k, (x.2 = .ld ∨ ∀ l i, l < 32 → s.cw.eff.getLsbD l = true → i < n → k ≠ gsKey cid ((laneAddr s.cw g true l).toNat + i)) →
        Map.get t.gspace 0 k = Map.get s.gspace 0 k)

/-- Scratchpad loads (R99, R236): the destination registers of each effective lane receive the bytes at its offset, sign- or zero-extended,
with the sector's bound; nothing else changes. Scratchpad stores (R98, R99, R136, R236): each effective lane's bytes are written at its
offset, the higher lane's where two lanes meet; every other byte, and every register, is as before. Scratchpad atomics (R136, R229,
R237), for lanes that touch different words: the destination receives the old word, and the new word stands in its place; `satom.cas`
stores its second register where the first equals the old word. (That an access is one step is the model's choice (log 9).) -/
def Obligations.ScratchpadAccess : Prop :=
  (∀ (i : Instr) (s : State) (size : Nat) (sg : Bool) (d a : VReg) (imm : BitVec 9), spadLoad i = some (size, sg, d, a, imm) →
    s.spadFree ((Uses.none.srcV a.toNat 1).dstV d.toNat ((size + 3) / 4)) → s.spadGood size a imm true →
    ∃ t, exec i s = .next t ∧ spadKept s t ∧ t.scratch = s.scratch ∧ t.side = s.side ∧
      ∀ q l, l < 32 → t.cw.v q l =
        if s.cw.eff.getLsbD l = true ∧ d.toNat ≤ q ∧ q < d.toNat + (size + 3) / 4 then
          (let off := spadAt s.cw a imm l
           let bnd := (s.spSide s.cw.block (s.coreInBlock s.cw) off).1
           if size = 1 then ⟨if sg then (s.spHere off).signExtend 32 else (s.spHere off).setWidth 32, bnd⟩
           else if size = 2 then
             ⟨if sg then (s.spHere (off + 1) ++ s.spHere off).signExtend 32 else (s.spHere (off + 1) ++ s.spHere off).setWidth 32, bnd⟩
           else ⟨s.spHere4 (off + 4 * (q - d.toNat)), bnd⟩)
        else s.cw.v q l) ∧
  (∀ (i : Instr) (s : State) (size : Nat) (d a : VReg) (imm : BitVec 9), spadStore i = some (size, d, a, imm) →
    s.spadFree ((Uses.none.srcV a.toNat 1).srcV d.toNat ((size + 3) / 4)) → s.cw.deferred.length < 4 →
    s.relPending s.cur = false → s.spadGood size a imm false →
    ∃ t, exec i s = .next t ∧ spadKept s t ∧ t.cw.vregs = s.cw.vregs ∧ s.spadFrame t size a imm ∧
      ∀ l k, l < 32 → s.cw.eff.getLsbD l = true → k < size →
        (∀ j, l < j → j < 32 → s.cw.eff.getLsbD j = true → ∀ n, n < size → spadAt s.cw a imm j + n ≠ spadAt s.cw a imm l + k) →
        t.spByte s.cw.block (s.coreInBlock s.cw) (spadAt s.cw a imm l + k) = byteAt (laneWords s.cw d.toNat ((size + 3) / 4) l) k) ∧
  ((∀ (i : Instr) (s : State) (op : Aop) (d a : VReg) (imm : BitVec 9), spadAtomic i = some (op, d, a, imm) →
    s.spadFree (((Uses.none.srcV a.toNat 1).srcV d.toNat 1).dstV d.toNat 1) → s.relPending s.cur = false → s.spadGood 4 a imm true → s.spadApart 4 a imm →
    ∃ t, exec i s = .next t ∧ spadKept s t ∧ s.spadFrame t 4 a imm ∧
      (∀ q l, l < 32 → ¬(q = d.toNat ∧ s.cw.eff.getLsbD l = true) → t.cw.v q l = s.cw.v q l) ∧
      ∀ l, l < 32 → s.cw.eff.getLsbD l = true →
        let off := spadAt s.cw a imm l
        (t.cw.v d.toNat l).val = s.spHere4 off ∧
        t.spRead s.cw.block (s.coreInBlock s.cw) off 4 =
          bytesOf 4 (aopNew op 32 (s.spHere4 off).toNat (s.cw.v d.toNat l).val.toNat 0 0).1) ∧
  (∀ (s : State) (d a : VReg) (imm : BitVec 9), s.spadFree (((Uses.none.srcV a.toNat 1).srcV d.toNat 2).dstV d.toNat 1) →
    s.relPending s.cur = false →
    s.spadGood 4 a imm true → s.spadApart 4 a imm →
    ∃ t, exec (.satomCas d a imm) s = .next t ∧ spadKept s t ∧ s.spadFrame t 4 a imm ∧
      (∀ q l, l < 32 → ¬(q = d.toNat ∧ s.cw.eff.getLsbD l = true) → t.cw.v q l = s.cw.v q l) ∧
      ∀ l, l < 32 → s.cw.eff.getLsbD l = true →
        let off := spadAt s.cw a imm l
        (t.cw.v d.toNat l).val = s.spHere4 off ∧
        t.spRead s.cw.block (s.coreInBlock s.cw) off 4 =
          bytesOf 4 (if s.spHere4 off = (s.cw.v d.toNat l).val then (s.cw.v (d.toNat + 1) l).val else s.spHere4 off).toNat))

/-! ## Clauses, branches and synchronisation -/

/-- CTL branches (R32, R157, R252, R254): threads that the form selects stand at the target, outside any clause, the others at the next
word; `call` and `calli` write the address of the next word to s62:63; nothing else changes. A branch target that is no clause header,
or out of range, traps at the branch, and no thread moves (R254, R397, R398). -/
def Obligations.Branches : Prop :=
  (∀ (i : Instr) (s : State) (tgt : DWord) (m : Mask) (link : Bool) (w : Word), branchOf s.cw i = some (tgt, m, link) →
    s.clear (branchUses i) → (m = 0 ∨ (tgt.toNat % 4 = 0 ∧ s.atHand tgt.toNat w ∧ isHeader w = true)) →
    ∃ t, exec i s = .next t ∧
      (∀ l, s.cw.issue.getLsbD l = true → (t.cw.thr l).pc = if m.getLsbD l = true then tgt else (s.cw.thr l).pc + 4) ∧
      (∀ l, m.getLsbD l = true → (t.cw.thr l).cl = none) ∧
      (∀ l, s.cw.issue.getLsbD l = false → (t.cw.thr l).pc = (s.cw.thr l).pc) ∧
      t.cw.s64 62 = (if link = true ∧ m ≠ 0 then s.cw.pc + 4 else s.cw.s64 62) ∧
      (∀ r, r ≠ 62 → r ≠ 63 → t.cw.s r = s.cw.s r) ∧ t.cw.vregs = s.cw.vregs ∧ t.cw.sc = s.cw.sc ∧ t.cw.kregs = s.cw.kregs ∧
      s.arithKept t) ∧
  (∀ (i : Instr) (s : State) (tgt : DWord) (m : Mask) (link : Bool), branchOf s.cw i = some (tgt, m, link) →
    s.clear (branchUses i) → m ≠ 0 → s.cw.trap = none → handlerReady s.cw →
    ((tgt.toNat % 4 ≠ 0 ∨ ∃ w, s.atHand tgt.toNat w ∧ isHeader w = false) →
      ∃ t e, exec i s = .next t ∧ s.entersTrap t 0x010A e ∧ e.lanes = s.cw.issue ∧ e.addr = tgt) ∧
    (tgt.toNat % 4 = 0 → 2 ^ 52 ≤ tgt.toNat →
      ∃ t e, exec i s = .next t ∧ s.entersTrap t 0x0201 e ∧ e.lanes = s.cw.issue ∧ e.addr = tgt))

/-- A clause is entered (R157, R160, R162): with its words at hand, the counters that its header names at zero and no fault to deliver, each
thread of the group stands at the first instruction of the clause, with no latch captured; while a counter is not zero the group waits.
`meet` (R35, R36, R255): every thread of the issue mask that does not come to stand at the label by it holds the label as its meeting
point, and goes on. The turn limit (R33): the group in turn takes the present age and the warp selects again. (That the words of a
clause are read at its entry is the model's choice (log 11).) -/
def Obligations.ClausesAndGroups : Prop :=
  (∀ (s : State) (n : BitVec 4) (cls : BitVec 3) (wait : BitVec 6) (y : Bool) (ws : List Word), splits n.toNat ws = true →
    (∀ i w, ws[i]? = some w → s.atHand (s.cw.pc.toNat + 4 + 4 * i) w) →
    ((∀ i, i < 6 → wait.getLsbD i = true → s.cw.d i = 0) → s.cw.deferred = [] →
      ∃ t, exec (.clauseHeader n cls wait y) s = .next t ∧ controlKept s t ∧
        (∀ l, s.cw.issue.getLsbD l = true → (t.cw.thr l).pc = (s.cw.thr l).pc + 4 ∧
          (t.cw.thr l).cl = some ⟨s.cw.pc, cls, y, ws, n.toNat⟩ ∧ (t.cw.thr l).l0 = Latch.none ∧ (t.cw.thr l).l1 = Latch.none ∧
          (t.cw.thr l).l2 = Latch.none ∧ (t.cw.thr l).st = (s.cw.thr l).st) ∧
        (∀ l, s.cw.issue.getLsbD l = false → t.cw.thr l = s.cw.thr l)) ∧
    ((∃ i, i < 6 ∧ wait.getLsbD i = true ∧ s.cw.d i ≠ 0) → exec (.clauseHeader n cls wait y) s = .next s)) ∧
  (∀ (s : State) (off : BitVec 19) (w : Word), s.groupRuns →
    let tgt := s.cw.pc + BitVec.ofInt 64 (4 * off.toInt)
    tgt.toNat % 4 = 0 → s.atHand tgt.toNat w → isHeader w = true →
    ∃ t, exec (.meet off) s = .next t ∧ controlKept s t ∧ s.movesOn t 1 ∧
      ∀ l, s.cw.issue.getLsbD l = true → (s.cw.thr l).pc + 4 ≠ tgt → (t.cw.thr l).mr = some tgt) ∧
  (∀ s : State, s.cw.issue = 0 → s.cw.atLimit = true →
    ∃ t, exec .groupTurnLimit s = .next t ∧ controlKept s t ∧ t.cw.turn = 0 ∧ t.cw.turnMask = 0 ∧
      ∀ l, t.cw.thr l = if s.cw.turnMask.getLsbD l then { s.cw.thr l with age := s.stamp } else s.cw.thr l)

/-- A pattern that is no instruction raises Illegal Instruction with its cause (R182, R397), in a clause; a word at a header position that
is no header raises cause 0x09. Software traps and breakpoints (R306, R399): the issuing group enters a trap with the code, resuming at
the next header. -/
def Obligations.TrapsOfPrograms : Prop :=
  ((∀ (s : State) (c : Clause) (e : IllCause), s.cw.clause = some c → s.cw.decoded c = .error e → s.cw.trap = none → handlerReady s.cw →
    ∃ t x, exec .noInstructionWord s = .next t ∧ s.entersTrap t (illegalCode e) x ∧ x.lanes = s.cw.issue) ∧
  (∀ (s : State) (w : Word), s.cw.clause = none → s.atHand s.cw.pc.toNat w → isHeader w = false → s.cw.trap = none → handlerReady s.cw →
    ∃ t x, exec .noInstructionWord s = .next t ∧ s.entersTrap t 0x0109 x ∧ x.lanes = s.cw.issue ∧ x.iw0 = w)) ∧
  (∀ (s : State) (code : BitVec 16), s.cw.trap = none → handlerReady s.cw →
    (∃ t e, exec (.trap code) s = .next t ∧ s.entersTrap t 0x1000 e ∧ e.imm = code ∧ e.lanes = s.cw.issue ∧ e.npc = s.cw.pc + 4) ∧
    (∃ t e, exec (.bkpt code) s = .next t ∧ s.entersTrap t 0x1100 e ∧ e.imm = code ∧ e.lanes = s.cw.issue ∧ e.npc = s.cw.pc + 4))

/-- Barrier arrivals (R130, R240, R241, R243, R244): each participating thread is armed for the open phase and counted; when the count
reaches the live threads the phase turns, the count is zero and every waiting thread of the barrier goes on, disarmed. Barrier waits
(R242, R244): a participating thread whose phase is done goes on, disarmed; one whose phase is open waits. The barrier is as before.
`bar.sync` (R241 to R243): it arrives and waits; when its own arrivals complete the phase, its threads go on. Barrier misuse (R241,
R242, R413): an arrival in a phase already arrived in, or a wait of a thread that is not armed, traps with the participating threads as
LANES, and nothing changes. -/
def Obligations.Barriers : Prop :=
  (∀ (cl : Bool) (s : State) (p : Pred) (id : BitVec 4), s.barrierFree cl true →
    let m := s.cw.predMask p
    let n := id.toNat
    let x := s.barrier cl n
    let a := s.arrive cl n m
    (∀ l, m.getLsbD l = true → ¬((s.cw.thr l).armed cl n = true ∧ (s.cw.thr l).armPhase cl n = x.phase)) →
    ∃ t, exec (if cl then .cbarArv p id else .barArv p id) s = .next t ∧ syncKept s t ∧ t.scratch = s.scratch ∧ s.movesOn t 1 ∧
      (∀ l, m.getLsbD l = true → (t.cw.thr l).armed cl n = true ∧ (t.cw.thr l).armPhase cl n = x.phase) ∧
      (if m ≠ 0 ∧ x.count + countOf m = a.liveThreads (a.barrierSlots cl) then
        t.barrier cl n = ⟨!x.phase, 0⟩ ∧
          ∀ k l, k ∈ a.barrierSlots cl → l < 32 → ((a.warp k).thr l).st = .waitBar cl id →
            ((t.warp k).thr l).st ≠ .waitBar cl id ∧ ((t.warp k).thr l).armed cl n = false
      else t.barrier cl n = ⟨x.phase, x.count + countOf m⟩)) ∧
  (∀ (cl : Bool) (s : State) (p : Pred) (id : BitVec 4), s.barrierFree cl false →
    let m := s.cw.predMask p
    let n := id.toNat
    let x := s.barrier cl n
    (∀ l, m.getLsbD l = true → (s.cw.thr l).armed cl n = true) →
    ∃ t, exec (if cl then .cbarWt p id else .barWt p id) s = .next t ∧ syncKept s t ∧ t.scratch = s.scratch ∧ s.movesOn t 1 ∧
      t.barrier cl n = x ∧
      ∀ l, m.getLsbD l = true →
        if (s.cw.thr l).armPhase cl n = x.phase then (t.cw.thr l).st = .waitBar cl id ∧ (t.cw.thr l).armed cl n = true
        else (t.cw.thr l).st ≠ .waitBar cl id ∧ (t.cw.thr l).armed cl n = false) ∧
  (∀ (s : State) (p : Pred) (id : BitVec 4), s.barrierFree false true → s.cw.live = true →
    let m := s.cw.predMask p
    let n := id.toNat
    let x := s.barrier false n
    let b := ((s.arrive false n m).updCw fun w => w.updThrs m fun _ t => { t with st := .waitBar false id }).finish 1
    (∀ l, m.getLsbD l = true → ¬((s.cw.thr l).armed false n = true ∧ (s.cw.thr l).armPhase false n = x.phase)) →
    ∃ t, exec (.barSync p id) s = .next t ∧ syncKept s t ∧ t.scratch = s.scratch ∧ s.movesOn t 1 ∧
      (if m ≠ 0 ∧ x.count + countOf m = b.liveThreads (b.blockSlots s.cw.block) then
        t.barrier false n = ⟨!x.phase, 0⟩ ∧
          ∀ l, m.getLsbD l = true → (t.cw.thr l).st ≠ .waitBar false id ∧ (t.cw.thr l).armed false n = false
      else t.barrier false n = ⟨x.phase, x.count + countOf m⟩ ∧
          ∀ l, m.getLsbD l = true → (t.cw.thr l).st = .waitBar false id ∧ (t.cw.thr l).armed false n = true)) ∧
  (∀ (cl : Bool) (s : State) (p : Pred) (id : BitVec 4) (l : Nat), s.barrierFree cl true → s.cw.trap = none → handlerReady s.cw →
    let m := s.cw.predMask p
    let n := id.toNat
    m.getLsbD l = true →
    ((s.cw.thr l).armed cl n = true → (s.cw.thr l).armPhase cl n = (s.barrier cl n).phase →
      ∃ t e, exec (if cl then .cbarArv p id else .barArv p id) s = .next t ∧ s.entersTrap t 0x0801 e ∧ e.lanes = m ∧
        e.addr = BitVec.ofNat 64 n ∧ t.barrier cl n = s.barrier cl n) ∧
    ((s.cw.thr l).armed cl n = false →
      ∃ t e, exec (if cl then .cbarWt p id else .barWt p id) s = .next t ∧ s.entersTrap t 0x0802 e ∧ e.lanes = m ∧
        e.addr = BitVec.ofNat 64 n ∧ t.barrier cl n = s.barrier cl n))

/-- Transaction barriers (R246, R247): `txb.init` writes the object, `txb.exp` and `txb.arv` add to it and advance a completed generation,
`txb.wt` lets its threads go on when the generation differs and holds them when it does not; no other byte of scratchpad changes. Mask
synchronisation (R39 to R41): `kjoin` and `kleave` add and remove the participating threads; `kwait` holds those whose bit is set until
every thread of the mask has arrived. Other masks and registers are as before. -/
def Obligations.ObjectsAndMasks : Prop :=
  (∀ (s : State) (p : Pred) (sa sb : SReg),
    let x := s.txbHere sa s
    let v := (s.cw.s sb.toNat).toNat
    (s.txbFree p sa [sb.toNat] → s.relPending s.cur = false →
      (∃ t, exec (.txbInit p sa sb) s = .next t ∧ s.txbHere sa t = ⟨0, 0, x.gen, v % 2 ^ 16, 0⟩ ∧ s.txbFrame t sa ∧ syncKept s t ∧
        s.movesOn t 1) ∧
      (x.tgtb + v < 2 ^ 32 → ∃ t, exec (.txbExp p sa sb) s = .next t ∧ s.txbHere sa t = txbNext { x with tgtb := x.tgtb + v } ∧
        s.txbFrame t sa ∧ syncKept s t ∧ s.movesOn t 1)) ∧
    (s.txbFree p sa [sb.toNat] →
      (∃ t, exec (.txbWt p sa sb) s = .next t ∧ t.scratch = s.scratch ∧ syncKept s t ∧ s.movesOn t 1 ∧
        ∀ l, (s.cw.predMask p).getLsbD l = true →
          if x.gen = v then (t.cw.thr l).st = .waitTxb (s.cw.s sa.toNat) (s.cw.s sb.toNat)
          else ∀ o g, (t.cw.thr l).st ≠ .waitTxb o g)) ∧
    (s.txbFree p sa [] → s.relPending s.cur = false → x.arrt + countOf (s.cw.predMask p) ≤ x.expt →
      ∃ t, exec (.txbArv p sa) s = .next t ∧ s.txbHere sa t = txbNext { x with arrt := x.arrt + countOf (s.cw.predMask p) } ∧
        s.txbFrame t sa ∧ syncKept s t ∧ s.movesOn t 1)) ∧
  (∀ (s : State) (p : Pred) (k : KReg),
    let m := s.cw.predMask p
    (k ≠ 0 →
      (∃ t, exec (.kjoin p k) s = .next t ∧ t.cw.k k.toNat = s.cw.k k.toNat ||| m ∧ maskKept k s t) ∧
      (∃ t, exec (.kleave p k) s = .next t ∧ t.cw.k k.toNat = s.cw.k k.toNat &&& ~~~m ∧ maskKept k s t)) ∧
    (s.groupRuns → (∀ j, Map.get s.cw.arrive 0 j &&& s.cw.issue = 0) → k.toNat ≤ 11 →
      ∃ t, exec (.kwait p k) s = .next t ∧ controlKept s t ∧ s.movesOn t 1 ∧
        ∀ l, m.getLsbD l = true → (s.cw.k k.toNat).getLsbD l = true →
          if k = 0 ∨ s.cw.k k.toNat &&& ~~~(Map.get s.cw.arrive 0 k.toNat ||| (m &&& s.cw.k k.toNat)) = 0
          then (t.cw.thr l).st ≠ .heldK k else (t.cw.thr l).st = .heldK k))

/-- Fences and counter waits (R130 to R132, R238, R239, R394): `fence` completes when the releases it makes are drained and, for an acquire,
earlier loads have returned; an acquire at `grp` scope or wider empties the L1 of the core. `waitd` completes when the counters that it
names are zero and waits until then. Instruction-cache instructions (R250, R251): `icinv` holds the warp for its range, or has no effect
with no bytes; its completion lets the warp go on; `isync` drops the words fetched ahead. `nop` and `yield` only move on (R303, R304). -/
def Obligations.FencesAndCaches : Prop :=
  ((∀ (s : State) (o : Order) (c : Scope), s.cw.deferred = [] → s.cw.hold = .none → s.acqPending s.cur = false →
    (o.releases = true → c.wide = false → s.relPending s.cur = false) →
    (o.releases = true → c.wide = true → s.allAcked (s.drainSet s.cur) = true) →
    (o.acquires = true → c ≠ .wp → s.loadsOut s.cur = []) →
    ∃ t, exec (.fence o c) s = .next t ∧ syncKept s t ∧ t.scratch = s.scratch ∧ s.movesOn t 1 ∧
      (o.acquires = true → c.wide = true → ∀ vf asid va, vf < 64 → asid < 2 ^ 16 → va < 2 ^ 52 →
        t.l1Line (coreOf s.cur) vf asid va = none)) ∧
  (∀ (s : State) (mask : BitVec 6), s.cw.deferred = [] →
    ((∀ i, i < 6 → mask.getLsbD i = true → s.cw.d i = 0) →
      ∃ t, exec (.waitd mask) s = .next t ∧ controlKept s t ∧ s.movesOn t 1) ∧
    ((∃ i, i < 6 ∧ mask.getLsbD i = true ∧ s.cw.d i ≠ 0) → exec (.waitd mask) s = .next s))) ∧
  ((∀ (s : State) (dev : Bool) (p : BitVec 5) (len : SReg), s.clear (icinvUses p len) →
    ∃ t, exec (.icinv dev p len) s = .next t ∧ syncKept s t ∧ t.scratch = s.scratch ∧ s.movesOn t 1 ∧
      t.cw.hold = (if s.cw.s len.toNat = 0 then s.cw.hold else .icinv dev (s.cw.s64 (2 * p.toNat)) (s.cw.s len.toNat))) ∧
  (∀ (s : State) (k : Nat) (dev : Bool) (va : DWord) (len : Word), (s.warp k).hold = .icinv dev va len →
    ∃ t, exec (.icinvComplete k) s = .next t ∧ (t.warp k).hold = .none ∧ (∀ a, t.peek a = s.peek a) ∧ t.l1 = s.l1 ∧ t.home = s.home ∧
      ∀ a c, va.toNat ≤ a → a < va.toNat + len.toNat → a < 2 ^ 52 → (s.space (s.warp k)).1 < 64 → (s.space (s.warp k)).2 < 2 ^ 16 →
        (if dev then c < 384 else c = coreOf k) →
        Map.get t.icache none (lineKey c (s.space (s.warp k)).1 (s.space (s.warp k)).2 a) = none) ∧
  (∀ s : State, ∃ t, exec .isync s = .next t ∧ controlKept s t ∧ s.movesOn t 1 ∧ t.cw.fetched = [])) ∧
  (∀ s : State, (∃ t, exec .nop s = .next t ∧ controlKept s t ∧ s.movesOn t 1) ∧ (∃ t, exec .yield s = .next t ∧ controlKept s t ∧ s.movesOn t 1))

/-! ## System instructions -/

/-- `tail` (R41, R49, R50, R305): the participating threads exit and leave every mask, the others go on; when none is left the warp ends and
its slot is free (the clause is of a warp that is not the last of its block, while no cluster waits for a place). `sleep` (R304, R311):
every thread of the issue mask waits until its time has come; with 0 it is a `yield`. A wake before the time does nothing, one at or
after it lets the thread run. -/
def Obligations.ExitAndSleep : Prop :=
  (∀ (s : State) (p : Pred), s.cw.deferred = [] → s.trackerFull (s.cw.predMask p) = false → s.exitHeld (s.cw.predMask p) = false →
    s.cw.trap = none →
    (∀ j, Map.get s.cw.arrive 0 j = 0) →
    (s.cw.alive &&& ~~~s.cw.predMask p ≠ 0 → ∃ t, exec (.tail p) s = .next t ∧ t.cw.vregs = s.cw.vregs ∧ t.cw.sregs = s.cw.sregs ∧
      (∀ l, (s.cw.predMask p).getLsbD l = true → (t.cw.thr l).st = .exited) ∧
      (∀ k, 1 ≤ k → k ≤ 11 → t.cw.k k = s.cw.k k &&& ~~~s.cw.predMask p) ∧
      (∀ l, s.cw.issue.getLsbD l = true → (s.cw.predMask p).getLsbD l = false → (s.cw.thr l).stays = false →
        (t.cw.thr l).pc = (s.cw.thr l).pc + 4)) ∧
    (s.cw.alive &&& ~~~s.cw.predMask p = 0 → (s.block s.cw.block).ended + 1 < (s.block s.cw.block).warps → s.dispatchOrder = [] →
      ∃ t, exec (.tail p) s = .next t ∧ (t.warp s.cur).live = false ∧ (t.block s.cw.block).ended = (s.block s.cw.block).ended + 1)) ∧
  ((∀ (s : State) (a : Src), s.clear (Uses.none.srcs [a]) →
    ∃ t, exec (.sleep a) s = .next t ∧ controlKept s t ∧ s.movesOn t 1 ∧
      (s.cw.rdS a ≠ 0 → (∀ j, Map.get s.cw.arrive 0 j = 0) → ∀ l, s.cw.issue.getLsbD l = true →
        (t.cw.thr l).st = .sleeping (s.time + (s.cw.rdS a).toNat))) ∧
  (∀ (s : State) (k l wake : Nat), l < 32 → ((s.warp k).thr l).st = .sleeping wake →
    (s.time < wake → exec (.sleepWake k l) s = .next s) ∧
    (wake ≤ s.time → ∃ t, exec (.sleepWake k l) s = .next t ∧ (∀ n, ((t.warp k).thr l).st ≠ .sleeping n) ∧
      ((t.warp k).thr l).pc = ((s.warp k).thr l).pc ∧ (t.warp k).vregs = (s.warp k).vregs ∧ (t.warp k).sregs = (s.warp k).sregs)))

/-- Trap entry (R388 step 3): with every frame store acknowledged, each thread of the trapped group is trapped at `%tvec`, `%exm` is all
ones, and MR, registers, `sc`, masks and `%budget` keep their values. `rte` (R307, R388, R391, R397): in trap mode, with the trapped
threads as its issue mask, it reads the frame at `%tframe`; outside trap mode it is Illegal Instruction, cause 0x0F. The frame has come
back (R388, R391): with NPC a clause header at hand and HDR 0, trap mode ends, s56 to s63, `sc` and `%exm` are those of the frame, and
each thread still trapped runs at NPC unless it meets its MR there; no other register changes. (That a return into a clause whose words
are not at hand reads them first is the model's choice (log 75).) -/
def Obligations.TrapAndReturn : Prop :=
  (∀ (s : State) (k : Nat) (e : TrapInfo) (ops : List Nat), (s.warp k).trap = some (e, .entering ops) → s.allAcked ops = true →
    ∃ t, exec (.trapHandlerEntry k) s = .next t ∧ (t.warp k).trap = some (e, .handling) ∧ (t.warp k).exm = 0xFFFFFFFF ∧
      (∀ l, e.group.getLsbD l = true → ((t.warp k).thr l).st = .trapped ∧ ((t.warp k).thr l).pc = (s.warp k).tvec ∧
        ((t.warp k).thr l).mr = ((s.warp k).thr l).mr ∧ ((t.warp k).thr l).l0.cap = false ∧ ((t.warp k).thr l).l1.cap = false ∧
        ((t.warp k).thr l).l2.cap = false) ∧
      (∀ l, e.group.getLsbD l = false → (t.warp k).thr l = (s.warp k).thr l) ∧
      (t.warp k).vregs = (s.warp k).vregs ∧ (t.warp k).sregs = (s.warp k).sregs ∧ (t.warp k).sc = (s.warp k).sc ∧
      (t.warp k).kregs = (s.warp k).kregs ∧ (t.warp k).budget = (s.warp k).budget ∧ (∀ a, t.peek a = s.peek a) ∧
      ∀ j, j ≠ k → t.warp j = s.warp j) ∧
  ((∀ (s : State) (e : TrapInfo), s.cw.trap = some (e, .handling) → s.cw.issue = s.cw.trapped →
    ∃ t o, exec .rte s = .next t ∧ t.cw.trap = some (e, .leaving s.nextId true) ∧ t.op? s.nextId = some o ∧ o.kind = .frameLd ∧
      o.slot = s.cur ∧ (∀ i, i < 4 → (o.lane i).st = .sent ∧ (o.lane i).addr = s.cw.tframe + BitVec.ofNat 64 (32 * i)) ∧
      registersKept s t ∧ t.cw.exm = s.cw.exm ∧ ∀ a, t.peek a = s.peek a) ∧
  (∀ s : State, s.cw.trap = none → handlerReady s.cw →
    ∃ t e, exec .rte s = .next t ∧ s.entersTrap t 0x010F e ∧ e.lanes = s.cw.issue)) ∧
  (∀ (s : State) (id : Nat) (o : MemOp) (e : TrapInfo) (w : Word), s.op? id = some o → o.kind = .frameLd → o.slot = s.cur → o.held = none →
    (o.lanes.all fun p => p.2.st == .done) = true → s.cw.trap = some (e, .leaving id true) → s.cw.trapQueue = [] →
    frameDword o.frameBytes 0x18 = 0 →
    let npc := frameDword o.frameBytes 0x10
    npc.toNat % 4 = 0 → s.atHand npc.toNat w → isHeader w = true →
    ∃ t, exec (.loadReturn id) s = .next t ∧ t.cw.trap = none ∧
      (∀ i, i < 8 → t.cw.s (56 + i) = frameWord o.frameBytes (0x60 + 4 * i)) ∧ (∀ r, r < 56 → t.cw.s r = s.cw.s r) ∧
      t.cw.exm = frameWord o.frameBytes 0x50 ∧ t.cw.sc = (o.frameBytes.getD 0x4E 0).getLsbD 0 ∧ t.cw.vregs = s.cw.vregs ∧
      t.cw.kregs = s.cw.kregs ∧ (∀ a, t.peek a = s.peek a) ∧
      ∀ l, s.cw.trapped.getLsbD l = true → (t.cw.thr l).pc = npc ∧ (t.cw.thr l).cl = none ∧
        ((s.cw.thr l).mr ≠ some npc → (t.cw.thr l).st = .running))

/-- Special registers (R67, R72, R308, R310): a read delivers the register's value to a scalar register or pair, or to each lane of the
issue mask exactly: the identifiers `%wlo`, `%whi` and `%wid` as R29 forms them, and `%assure` from the header among them; `time` reads
`%time` into a pair. -/
def Obligations.SpecialReads : Prop :=
  (∀ (s : State) (i l : Nat) (x : DWord), s.special l i = some x → s.spr i l = x) ∧
  (∀ (s : State) (idx : BitVec 8) (r : SReg), toScalar idx.toNat → s.clear (Uses.none.dstS r.toNat 1) →
    ∃ t, exec (.sysr (.s r) idx) s = .next t ∧ t.cw.s r.toNat = (s.spr idx.toNat 0).extractLsb' 0 32 ∧ scalarKept r.toNat 1 s t) ∧
  (∀ (s : State) (idx : BitVec 8) (r : SReg), toPair idx.toNat → s.clear (Uses.none.dstS r.toNat 2) →
    ∃ t, exec (.sysr (.s r) idx) s = .next t ∧ t.cw.s64 r.toNat = s.spr idx.toNat 0 ∧ scalarKept r.toNat 2 s t) ∧
  (∀ (s : State) (idx : BitVec 8) (r : VReg), toVector idx.toNat → s.clear (Uses.none.dstV r.toNat 1) →
    ∃ t, exec (.sysr (.v r) idx) s = .next t ∧ lanesRead s t fun q l =>
      if q = r.toNat then some ⟨(s.spr idx.toNat l).extractLsb' 0 32, 0⟩ else none) ∧
  (∀ (s : State) (idx : BitVec 8) (r : VReg), toVectorPair idx.toNat → s.clear (Uses.none.dstV r.toNat 2) →
    ∃ t, exec (.sysr (.v r) idx) s = .next t ∧ lanesRead s t fun q l =>
      if q = r.toNat then some ⟨(s.spr idx.toNat l).extractLsb' 0 32, 0⟩
      else if q = r.toNat + 1 then some ⟨(s.spr idx.toNat l).extractLsb' 32 32, 0⟩ else none) ∧
  (∀ (s : State) (d : SReg), s.clear (Uses.none.dstS d.toNat 2) →
    ∃ t, exec (.time d) s = .next t ∧ t.cw.s64 d.toNat = BitVec.ofNat 64 s.time ∧ scalarKept d.toNat 2 s t)

/-- Writes of special registers (R68, R70, R309): the register takes the value with its reserved bits zero and its lengths clamped; `budget`
is `sysw` of `%budget`. A read-only or absent register is Illegal Instruction, cause 0x0E (R397). -/
def Obligations.SpecialWrites : Prop :=
  ∀ (s : State) (src : Src),
    (s.clear (Uses.none.src 1 src) →
      (∃ t, exec (.sysw 0x08 src) s = .next t ∧ specialWritten { s.cw with exm := s.cw.rdS src } s t) ∧
      (∃ t, exec (.sysw 0x09 src) s = .next t ∧ specialWritten { s.cw with unc := s.cw.rdS src } s t) ∧
      (∃ t, exec (.sysw 0x0A src) s = .next t ∧ specialWritten { s.cw with budget := s.cw.rdS src &&& 0xFFFF0FFF } s t) ∧
      (∃ t, exec (.budget src) s = .next t ∧ specialWritten { s.cw with budget := s.cw.rdS src &&& 0xFFFF0FFF } s t) ∧
      (∃ t, exec (.sysw 0x0D src) s = .next t ∧ specialWritten { s.cw with medge := edgeOf (s.cw.rdS src) } s t)) ∧
    (s.clear (Uses.none.src 2 src) →
      (∃ t, exec (.sysw 0x0F src) s = .next t ∧ specialWritten { s.cw with tvec := s.cw.rdS64 src &&& 0x000FFFFFFFFFFFFC } s t) ∧
      (∃ t, exec (.sysw 0x10 src) s = .next t ∧ specialWritten { s.cw with tframe := s.cw.rdS64 src &&& 0x000FFFFFFFFFFFFC } s t)) ∧
    (∀ idx : BitVec 8, idx ∉ [0x08, 0x09, 0x0A, 0x0D, 0x0F, 0x10] →
      s.clear (Uses.none.src (if idx = 0x11 ∨ idx = 0x12 then 2 else 1) src) → s.cw.trap = none → handlerReady s.cw →
      ∃ t e, exec (.sysw idx src) s = .next t ∧ s.entersTrap t 0x010E e ∧ e.lanes = s.cw.issue)

/-- Extended blocks (R61, R62, R313, R314): `xacq` takes the blocks it lacks, zero and exact, when the pool can supply them and none waits
before it, else its threads wait; a request is served whole; `xrel` gives all up. -/
def Obligations.ExtendedBlocks : Prop :=
  (∀ (s : State) (n : BitVec 2),
    (n.toNat ≤ s.cw.xblocks → ∃ t, exec (.xacq n) s = .next t ∧ controlKept s t ∧ s.movesOn t 1) ∧
    (s.cw.xblocks < n.toNat → Map.get s.xq [] (quadOf s.cur) = [] → s.canSupply s.cur n.toNat = true →
      ∃ t, exec (.xacq n) s = .next t ∧ { s.cw with xblocks := n.toNat }.specialsKept t.cw ∧ t.cw.sregs = s.cw.sregs ∧ s.movesOn t 1 ∧
        ∀ q l, l < 32 → t.cw.v q l = if 32 * (s.cw.xblocks + 1) ≤ q ∧ q < 32 * (n.toNat + 1) then LV.zero else s.cw.v q l) ∧
    (s.cw.xblocks < n.toNat → (Map.get s.xq [] (quadOf s.cur) ≠ [] ∨ s.canSupply s.cur n.toNat = false) →
      (∀ j, Map.get s.cw.arrive 0 j = 0) →
      ∃ t, exec (.xacq n) s = .next t ∧ controlKept s t ∧
        Map.get t.xq [] (quadOf s.cur) = Map.get s.xq [] (quadOf s.cur) ++ [(s.cur, s.cw.issue, n.toNat)] ∧
        ∀ l, s.cw.issue.getLsbD l = true → (t.cw.thr l).st = .waitX n)) ∧
  (∀ (s : State) (q k n : Nat) (m : Mask) (rest : List (Nat × Mask × Nat)), Map.get s.xq [] q = (k, m, n) :: rest →
    s.canSupply k n = true → ∃ t, exec (.xacqServed q) s = .next t ∧ Map.get t.xq [] q = rest ∧
      (t.warp k).xblocks = max (s.warp k).xblocks n ∧ (t.warp k).sregs = (s.warp k).sregs ∧
      ∀ l, m.getLsbD l = true → ∀ x, ((t.warp k).thr l).st ≠ .waitX x) ∧
  (∀ s : State, (s.ops.any fun p => p.2.uid = s.cw.uid && p.2.kind.returns && p.2.kind != .sld && 32 ≤ p.2.dst + p.2.dstCount - 1) = false →
    s.cw.parkedExtended = false → s.dispatchOrder = [] → ∃ t, exec .xrel s = .next t ∧ { s.cw with xblocks := 0 }.specialsKept t.cw ∧ s.movesOn t 1 ∧
      t.cw.sregs = s.cw.sregs ∧ ∀ q l, l < 32 → t.cw.v q l = if 32 ≤ q ∧ q < 128 then LV.zero else s.cw.v q l)

/-! ## Engines -/

/-- Copies at issue (R285 to R287, R292 to R298): with its operands aligned and in range, a copy issues an operation that holds its operands
and waits for its start; its counter rises; no register and no byte changes. `launch` at issue (R312): with its address aligned and in
range an operation holds the header's address; the counter rises. `col` at issue (R299, R300): with its buffers aligned, in range and
apart, and its root a member, it issues an operation with its buffers, its communicator ID and its count; its counter rises. Buffers
that overlap are a copy-argument fault, cause 1, also of a bc whose root this chip is not: only the check of the address range takes its
send range as empty. (That the ranges of a col are checked for overlap on every chip, that the send range of a non-root bc is empty for
the check of the address range alone, and that a col without an entry takes one member, are the model's choices (log 25).) -/
def Obligations.EngineIssues : Prop :=
  ((∀ (i : Instr) (s : State) (kind : EngKind) (al : Nat) (c : Done) (sa sb sc : SReg), runCopy i = some (kind, al, c, sa, sb, sc) →
    s.engFree (cpyUses c [sa.toNat, sa.toNat + 1, sb.toNat, sc.toNat]) c.dc →
    let va := (s.cw.s64 sa.toNat).toNat
    let off := (s.cw.s sb.toNat).toNat
    let n := (s.cw.s sc.toNat).toNat
    let slice := s.sliceOf s.cw.block
    va < 2 ^ 52 → (n = 0 ∨ va + n ≤ 2 ^ 52) → va % al = 0 → off % al = 0 → n % al = 0 → (n = 0 ∨ off + n ≤ slice) →
    txbGood slice (s.cw.txbOff c) →
    ∃ t, exec i s = .next t ∧ s.copyIssued t kind c (s.cw.s64 sa.toNat) ((s.cw.s sb.toNat).setWidth 64) ((s.cw.s sc.toNat).setWidth 64)
      s.cw.block (s.coreInBlock s.cw) (some n)) ∧
  (∀ (i : Instr) (s : State) (kind : EngKind) (c : Done) (sa sb sc : SReg), tensorCopy i = some (kind, c, sa, sb, sc) →
    let n := min 7 (63 - sc.toNat) + 1
    s.engFree (cpyUses c ([sa.toNat, sa.toNat + 1, sb.toNat] ++ regRun sc.toNat n)) c.dc →
    let va := (s.cw.s64 sa.toNat).toNat
    let off := (s.cw.s sb.toNat).toNat
    let slice := s.sliceOf s.cw.block
    va + 128 ≤ 2 ^ 52 → va % 128 = 0 → off % 16 = 0 → off < slice → txbGood slice (s.cw.txbOff c) →
    ∃ t e, exec i s = .next t ∧ s.copyIssued t kind c (s.cw.s64 sa.toNat) ((s.cw.s sb.toNat).setWidth 64) 0
      s.cw.block (s.coreInBlock s.cw) none ∧ t.eng? s.nextId = some e ∧ e.coords = (regRun sc.toNat n).map s.cw.s) ∧
  (∀ (s : State) (c : Done) (sa sb sc sd : SReg) (core : Nat), s.engFree (cpyUses c [sa.toNat, sb.toNat, sc.toNat, sd.toNat]) c.dc →
    let src := (s.cw.s sa.toNat).toNat
    let dst := (s.cw.s sb.toNat).toNat
    let n := (s.cw.s sc.toNat).toNat
    let b := (s.cw.s sd.toNat).toNat % 8
    let j := (s.cw.s sd.toNat).toNat / 8 % 4
    let blocks := (s.cluster (s.block s.cw.block).cluster).blocks
    let slice := s.sliceOf s.cw.block
    src % 16 = 0 → dst % 16 = 0 → n % 16 = 0 → (n = 0 ∨ (src + n ≤ slice ∧ dst + n ≤ slice)) → b < blocks.length →
    j < (s.block s.cw.block).cores.length → txbGood slice (s.cw.txbOff c) → (s.block (blocks.getD b 0)).cores[j]? = some core →
    ∃ t, exec (.cpyP c sa sb sc sd) s = .next t ∧ s.copyIssued t .cpyP c ((s.cw.s sa.toNat).setWidth 64) ((s.cw.s sb.toNat).setWidth 64)
      ((s.cw.s sc.toNat).setWidth 64) (blocks.getD b 0) j (some n)) ∧
  (∀ (s : State) (sa sc : SReg), s.engFree ((Uses.none.srcS sa.toNat 2).srcS sc.toNat 1) 7 →
    ∃ t, exec (.cpyPf sa sc) s = .next t ∧ s.copyIssued t .cpyPf ⟨7, none⟩ (s.cw.s64 sa.toNat) 0 ((s.cw.s sc.toNat).setWidth 64) 0 0 none) ∧
  (∀ (s : State) (c : Done) (sa sb sc : SReg) (vi : VReg),
    s.engFree ((cpyUses c [sa.toNat, sa.toNat + 1, sb.toNat, sc.toNat]).srcV vi.toNat 1) c.dc →
    let va := (s.cw.s64 sa.toNat).toNat
    let off := (s.cw.s sb.toNat).toNat
    let r := (s.cw.s sc.toNat).toNat
    let slice := s.sliceOf s.cw.block
    va < 2 ^ 52 → va % 16 = 0 → r % 16 = 0 → 0 < r → r ≤ 65536 → off % 16 = 0 → off + 32 * r ≤ slice → txbGood slice (s.cw.txbOff c) →
    ∃ t e, exec (.cpyG c sa sb sc vi) s = .next t ∧ s.copyIssued t .cpyG c (s.cw.s64 sa.toNat) ((s.cw.s sb.toNat).setWidth 64)
      ((s.cw.s sc.toNat).setWidth 64) s.cw.block (s.coreInBlock s.cw) (some (r * countOf s.cw.eff)) ∧
      t.eng? s.nextId = some e ∧ e.coords = (List.range 32).map fun l => (s.cw.v vi.toNat l).val)) ∧
  (∀ (s : State) (p : BitVec 5) (dc : BitVec 3), s.engFree (Uses.none.srcS (2 * p.toNat) 2) dc →
    (s.cw.s64 (2 * p.toNat)).toNat % 128 = 0 → (s.cw.s64 (2 * p.toNat)).toNat + 128 ≤ 2 ^ 52 →
    ∃ t e, exec (.launch p dc) s = .next t ∧ t.eng? s.nextId = some e ∧ e.kind = .launch ∧ e.st = .waiting ∧
      e.a = s.cw.s64 (2 * p.toNat) ∧ e.dc = dc ∧ countedUp s t dc ∧ engIssueKept s t ∧ s.movesOn t 1) ∧
  (∀ (i : Instr) (s : State) (kind : BitVec 4) (dc : BitVec 3) (sa sb sc sd : SReg) (root : Option SReg) (ty : Fmt) (rop : Rop),
    collective i = some (kind, dc, sa, sb, sc, sd, root, ty, rop) → s.engFree (colUses sa sb sc sd root) dc →
    let id := (s.cw.s sa.toNat).toNat % 65536
    let send := (s.cw.s64 sb.toNat).toNat
    let recv := (s.cw.s64 sc.toNat).toNat
    let n := (s.cw.s sd.toNat).toNat
    let rk := (root.map fun r => (s.cw.s r.toNat).toNat).getD 0
    let entry := s.commOf (s.space s.cw).1 id
    let p := (entry.map fun i => commSize (s.comm i)).getD 1
    let size := fmtBits ty / 8
    let sn := (if kind = 2 ∨ kind = 3 then n * p else n) * size
    let rn := (if kind = 1 ∨ kind = 3 then n * p else n) * size
    let reads := root = none ∨ entry.map (fun i => commRank (s.comm i)) = some rk ∨ entry = none
    send < 2 ^ 52 → recv < 2 ^ 52 → send % size = 0 → recv % size = 0 → (reads → send + sn ≤ 2 ^ 52) → recv + rn ≤ 2 ^ 52 →
    ((disjointRuns send sn recv rn ∨ (send = recv ∧ (kind = 0 ∨ kind = 4))) → (root = none ∨ entry = none ∨ rk < p) →
      ∃ t e, exec i s = .next t ∧ s.copyIssued t (.col kind ty rop) ⟨dc, none⟩ (BitVec.ofNat 64 send) (BitVec.ofNat 64 recv)
        (BitVec.ofNat 64 rk) 0 0 none ∧ t.eng? s.nextId = some e ∧ e.coords = [BitVec.ofNat 32 id, BitVec.ofNat 32 n]) ∧
    (¬disjointRuns send sn recv rn → ¬(send = recv ∧ (kind = 0 ∨ kind = 4)) → s.cw.trap = none → handlerReady s.cw →
      ∃ t e, exec i s = .next t ∧ s.entersTrap t 0x0A01 e))

/-! ## Matrix instructions -/

/-- Row instructions that write rows (R260, R267, R279): `mat.zero` clears the rows of the effective lanes with their bounds and poison;
`mat.wr` writes four columns and raises the row bound, unbounded when a value is NaN or infinite; every other column of every row, every
register and all memory are as before. Row instructions that read rows (R279): `mat.rd` delivers four columns with the row bound,
`mat.rbnd` the row bound's code, exactly; nothing else changes. Row traps (R267, R282, R411): a row outside the window traps before
anything changes, with the lanes concerned; a poisoned row traps a read. -/
def Obligations.RowMoves : Prop :=
  ((∀ (s : State) (roff : BitVec 2), s.rowsReady Uses.none roff →
    ∃ t, exec (.matZero roff) s = .next t ∧ rowKept s t ∧
      (∀ r j, j < 512 → (rowNamed s.cw roff r → t.here.accWord r j = 0) ∧
        (¬rowNamed s.cw roff r → t.here.accWord r j = s.here.accWord r j)) ∧
      (∀ r, (rowNamed s.cw roff r → t.here.rowMeta r = ⟨0, false⟩) ∧ (¬rowNamed s.cw roff r → t.here.rowMeta r = s.here.rowMeta r))) ∧
  (∀ (s : State) (a : VReg) (roff : BitVec 2) (col : BitVec 9), s.rowsReady (Uses.none.srcV a.toNat 4) roff → col.toNat ≤ 508 →
    ∃ t, exec (.matWr a roff col) s = .next t ∧ rowKept s t ∧
      (∀ l j, l < 32 → j < 512 → s.cw.eff.getLsbD l = true → t.here.accWord (rowAt s.cw roff l) j =
        if col.toNat ≤ j ∧ j < col.toNat + 4 then (s.cw.v (a.toNat + (j - col.toNat)) l).val else s.here.accWord (rowAt s.cw roff l) j) ∧
      (∀ l, l < 32 → s.cw.eff.getLsbD l = true →
        let old := s.here.rowMeta (rowAt s.cw roff l)
        let b := fun i => (s.cw.v (a.toNat + i) l).bnd
        (t.here.rowMeta (rowAt s.cw roff l)).poison = old.poison ∧
        ((∀ i, i < 4 → finiteWord (s.cw.v (a.toNat + i) l).val) → (t.here.rowMeta (rowAt s.cw roff l)).bnd =
          bndNorm (bndMax (bndMax (bndMax (bndMax old.bnd (b 0)) (b 1)) (b 2)) (b 3))) ∧
        ((∃ i, i < 4 ∧ ¬finiteWord (s.cw.v (a.toNat + i) l).val) → (t.here.rowMeta (rowAt s.cw roff l)).bnd = 0xFF00)) ∧
      (∀ r j, j < 512 → ¬rowNamed s.cw roff r → t.here.accWord r j = s.here.accWord r j ∧ t.here.rowMeta r = s.here.rowMeta r))) ∧
  ((∀ (s : State) (d : VReg) (roff : BitVec 2) (col : BitVec 9), s.rowsReady (Uses.none.dstV d.toNat 4) roff → s.rowsClean roff →
    ∃ t, exec (.matRd d roff col) s = .next t ∧ vectorKept s t 2 ∧ ∀ q l, l < 32 → t.cw.v q l =
      if s.cw.eff.getLsbD l = true ∧ d.toNat ≤ q ∧ q < d.toNat + 4 then
        ⟨s.here.accWord (rowAt s.cw roff l) (col.toNat + (q - d.toNat)), (s.here.rowMeta (rowAt s.cw roff l)).bnd⟩ else s.cw.v q l) ∧
  (∀ (s : State) (d : VReg) (roff : BitVec 2), s.rowsReady (Uses.none.dstV d.toNat 1) roff → s.rowsClean roff →
    ∃ t, exec (.matRbnd d roff) s = .next t ∧ vectorKept s t 2 ∧ ∀ q l, l < 32 → t.cw.v q l =
      if s.cw.eff.getLsbD l = true ∧ q = d.toNat then ⟨(s.here.rowMeta (rowAt s.cw roff l)).bnd.setWidth 32, 0⟩ else s.cw.v q l)) ∧
  (∀ (s : State) (d : VReg) (roff : BitVec 2) (col : BitVec 9) (l : Nat), s.acqPending s.cur = false → s.clear (Uses.none.dstV d.toNat 4) →
    s.cw.trap = none → handlerReady s.cw → l < 32 → s.cw.eff.getLsbD l = true →
    (s.cw.awl ≤ rowAt s.cw roff l → ∃ t e, exec (.matRd d roff col) s = .next t ∧ s.entersTrap t 0x0603 e ∧ t.cores = s.cores ∧
      ∀ j, j < 32 → (e.lanes.getLsbD j = true ↔ s.cw.eff.getLsbD j = true ∧ s.cw.awl ≤ rowAt s.cw roff j)) ∧
    (s.rowsReady (Uses.none.dstV d.toNat 4) roff → (s.here.rowMeta (rowAt s.cw roff l)).poison = true →
      ∃ t e, exec (.matRd d roff col) s = .next t ∧ s.entersTrap t 0x0701 e ∧ t.cores = s.cores ∧
        ∀ j, j < 32 → (e.lanes.getLsbD j = true ↔ s.cw.eff.getLsbD j = true ∧ (s.here.rowMeta (rowAt s.cw roff j)).poison = true)))

/-- Setting up the matrix engine (R263, R265, R266, R275): `mat.alloc` gives each warp of the block on the core its part of the lowest free
run of rows, cleared; `mat.free` gives them back; `mat.edge` and `mat.bank` write `%medge` and `%mbank`. -/
def Obligations.MatrixSetUp : Prop :=
  (∀ (s : State) (n : BitVec 8) (base : Nat), s.acqPending s.cur = false →
    let ws := s.windowSlots
    let rows := ws.length * n.toNat
    (∀ x ∈ s.here.windows, x.1 ≠ s.cw.block) → rows ≤ 128 → ws.Nodup → (∀ k ∈ ws, (s.warp k).role = .solo) →
    base + rows ≤ 128 → s.here.rowsFree base rows = true → (∀ b, b < base → s.here.rowsFree b rows = false) →
    ∃ t, exec (.matAlloc n) s = .next t ∧ registersKept s t ∧ (∀ a, t.peek a = s.peek a) ∧ t.scratch = s.scratch ∧ s.movesOn t 2 ∧
      (∀ j k, ws[j]? = some k → (t.warp k).awb = base + j * n.toNat ∧ (t.warp k).awl = base + (j + 1) * n.toNat) ∧
      (s.cw.block, base, rows) ∈ t.here.windows ∧
      (∀ r j, j < 512 → t.here.accWord r j = if base ≤ r ∧ r < base + rows then 0 else s.here.accWord r j) ∧
      (∀ r, t.here.rowMeta r = if base ≤ r ∧ r < base + rows then ⟨0, false⟩ else s.here.rowMeta r)) ∧
  (∀ s : State, s.acqPending s.cur = false → (∀ p ∈ s.mats, p.2.block ≠ s.cw.block ∨ p.2.core ≠ coreOf s.cur) →
    (∀ p ∈ s.engs, ¬(p.2.kind.fillsBank = true ∧ p.2.block = s.cw.block ∧ p.2.core = coreOf s.cur)) →
    ∃ t, exec .matFree s = .next t ∧ registersKept s t ∧ (∀ a, t.peek a = s.peek a) ∧ s.movesOn t 2 ∧
      (∀ k ∈ s.windowSlots, (t.warp k).awb = 0 ∧ (t.warp k).awl = 0) ∧ (∀ x ∈ t.here.windows, x.1 ≠ s.cw.block)) ∧
  (∀ (s : State) (k : BitVec 9) (n : BitVec 10), s.acqPending s.cur = false →
    ∃ t, exec (.matEdge k n) s = .next t ∧ registersKept s t ∧ s.memoryKept t ∧ s.outsideKept t ∧ s.movesOn t 2 ∧
      { s.cw with medge := BitVec.ofNat 32 (min k.toNat 256 + 65536 * min n.toNat 512) }.specialsKept t.cw) ∧
  (∀ (s : State) (b : Bool), s.acqPending s.cur = false →
    ∃ t, exec (.matBank b) s = .next t ∧ registersKept s t ∧ s.memoryKept t ∧ s.outsideKept t ∧ s.movesOn t 2 ∧
      { s.cw with mbank := b }.specialsKept t.cw)

/-- Counted matrix instructions at issue (R268, R271 to R273, R276, R280): with a valid specifier, aligned and in range, an operation holds
the operands, the bank and the edge as they stand, and the counter rises; no row, no bank and no byte of memory changes. -/
def Obligations.MatrixIssues : Prop :=
  (∀ (s : State) (sa : SReg) (sh : BShape) (bank : Bool) (spec : MatSpec) (dc : BitVec 3),
    s.matFree spec .ldb sa.toNat 2 (Uses.none.srcS sa.toNat ((Spec.ofWord (s.cw.matSpec spec)).top .ldb + 1)) dc →
    (∀ c, (s.core c).locks = []) →
    ∃ t e, exec (.matLdb sa sh bank spec dc) s = .next t ∧ t.eng? s.nextId = some e ∧ e.kind = .ldb sh bank (s.cw.matSpec spec) ∧
      e.st = .waiting ∧ e.a = s.cw.s64 sa.toNat ∧ e.dc = dc ∧ e.launch = s.cw.launch ∧ countedUp s t dc ∧ engIssueKept s t ∧ s.movesOn t 2) ∧
  (∀ (s : State) (sa : SReg) (roff : BitVec 2) (spec : MatSpec) (dc : BitVec 3),
    let p := Spec.ofWord (s.cw.matSpec spec)
    let base := (s.cw.s sa.toNat).toNat
    let kB := (s.bankK s.cw.mbank).getD 64
    let k := min (s.cw.medge.toNat % 512) kB
    s.matFree spec .mma sa.toNat 1 (Uses.none.srcS sa.toNat (p.top .mma + 1)) dc →
    (∀ l, l < 32 → s.cw.eff.getLsbD l = true → rowAt s.cw roff l < s.cw.awl) →
    (s.cw.eff = 0 ∨ matMisaligned p.layout base p.lineStride = false) →
    (∀ l, l < 32 → s.cw.eff.getLsbD l = true → aTop p base (s.cw.s (sa.toNat + 1)).toNat k kB l ≤ s.sliceOf s.cw.block) →
    ∃ t m, exec (.matMma sa roff spec dc) s = .next t ∧ t.mat? s.nextId = some m ∧ m.kind = .mma ∧ m.mask = s.cw.eff ∧
      m.row0 = rowAt s.cw roff 0 ∧ m.bank = s.cw.mbank ∧ m.kLen = k ∧ m.nLen = s.cw.medge.toNat / 65536 % 1024 ∧
      m.base = (s.cw.s sa.toNat).setWidth 64 ∧ m.dc = dc ∧ countedUp s t dc ∧ engIssueKept s t ∧ s.movesOn t 2) ∧
  (∀ (s : State) (va : VReg) (roff : BitVec 2) (spec : MatSpec) (dc : BitVec 3),
    let p := Spec.ofWord (s.cw.matSpec spec)
    let k := min (s.cw.medge.toNat % 512) ((s.bankK s.cw.mbank).getD 64)
    s.matFree spec .mmar 0 0 (Uses.none.srcV va.toNat (aRegs p k)) dc →
    (∀ l, l < 32 → s.cw.eff.getLsbD l = true → rowAt s.cw roff l < s.cw.awl) →
    ∃ t m, exec (.matMmar va roff spec dc) s = .next t ∧ t.mat? s.nextId = some m ∧ m.kind = .mmar ∧ m.mask = s.cw.eff ∧
      m.row0 = rowAt s.cw roff 0 ∧ m.bank = s.cw.mbank ∧ m.kLen = k ∧ m.dc = dc ∧ countedUp s t dc ∧ engIssueKept s t ∧ s.movesOn t 2 ∧
      ∀ l, s.cw.eff.getLsbD l = true → Map.find? m.regs l = some ((List.range (aRegs p k)).map fun i => s.cw.v (va.toNat + i) l)) ∧
  (∀ (s : State) (sa : SReg) (roff : BitVec 2) (spec : MatSpec) (dc : BitVec 3),
    s.matFree spec .st sa.toNat 2 (Uses.none.srcS sa.toNat ((Spec.ofWord (s.cw.matSpec spec)).top .st + 1)) dc →
    s.relPending s.cur = false → s.cw.deferred = [] → s.here.locks = [] → s.rowsReady Uses.none roff → s.rowsClean roff →
    ∃ t o, exec (.matSt sa roff spec dc) s = .next t ∧ t.op? s.nextId = some o ∧ o.kind = .matSt ∧ o.slot = s.cur ∧ o.dc = dc ∧
      countedUp s t dc ∧ issueKept s t ∧ t.cores = s.cores ∧ s.movesOn t 2)

/-- Accumulation (R260, R277): when what it waits for has come, the row of each effective lane holds what accumulating it gives, every other
row is as before, the counter drops, and the operation is over; banks and scratchpad are as before. Loads of B banks and stores of rows
(R257, R260, R276, R280): when a `mat.ldb` has read its bytes, and no earlier operation of the core uses its bank, the bank is written
for the launch, cell by cell, and the counter drops, the other bank as before; after an engine fault the bank stands. A `mat.st` ends
when its writes are acknowledged. -/
def Obligations.MatrixCompletes : Prop :=
  (∀ (s : State) (op : Nat) (m : MatOp) (bad : Mask), s.mat? op = some m → s.matReady m = true → s.noneEnded →
    ∃ t, exec (.matMmaComplete op bad) s = .next t ∧ t.mat? op = none ∧ s.countedDown t m.slot m.uid m.dc ∧ t.scratch = s.scratch ∧
      (t.core m.core).banks = (s.core m.core).banks ∧
      (∀ l j, l < 32 → j < 512 → m.mask.getLsbD l = true →
        (t.core m.core).accWord (m.row0 + l) j = ((s.accumulateRow m (bad.getLsbD l) l).core m.core).accWord (m.row0 + l) j ∧
        (t.core m.core).rowMeta (m.row0 + l) = ((s.accumulateRow m (bad.getLsbD l) l).core m.core).rowMeta (m.row0 + l)) ∧
      (∀ r j, j < 512 → (∀ l, l < 32 → m.mask.getLsbD l = true → r ≠ m.row0 + l) →
        (t.core m.core).accWord r j = (s.core m.core).accWord r j ∧ (t.core m.core).rowMeta r = (s.core m.core).rowMeta r)) ∧
  ((∀ (s : State) (op : Nat) (e : EngOp) (sh : BShape) (bank : Bool) (word : Word), s.eng? op = some e → e.kind = .ldb sh bank word →
    s.noneEnded → e.txb = none →
    let old := fun b => Map.get (s.core e.core).banks Bank.reset b
    (e.allDone = true → e.fault = none → s.bankBusy e.core e.order bank = false →
      ∃ t b, exec (.matLdbBankWrite op) s = .next t ∧ s.engGone t op e ∧ Map.get (t.core e.core).banks Bank.reset (b2n bank) = b ∧
        b.owner = some e.launch ∧ b.shape = sh ∧ b.enc = (Spec.ofWord word).enc ∧
        Map.get (t.core e.core).banks Bank.reset (b2n (!bank)) = old (b2n (!bank)) ∧ (t.core e.core).acc = (s.core e.core).acc ∧
        (∀ k n, (Spec.ofWord word).layout = 0 → fmtBits (fmtOf (Spec.ofWord word).enc) = 8 → k < shapeK sh → n < shapeN sh false →
          Map.get b.cells 0 (k * shapeN sh false + n) = (e.byte (e.a.toNat + 16 * (Spec.ofWord word).stride.toNat * k + n)).toNat)) ∧
    (∀ code addr, e.fault = some (code, addr) → (s.warp e.slot).live = true → (s.warp e.slot).uid = e.uid →
      ∃ t, exec (.matLdbBankWrite op) s = .next t ∧ s.engGone t op e ∧ (t.core e.core).banks = (s.core e.core).banks ∧
        (t.warp e.slot).deferred = (s.warp e.slot).deferred ++ [e.deferred code addr])) ∧
  (∀ (s : State) (op : Nat) (o : MemOp), s.op? op = some o → o.kind = .matSt → o.acked = true → s.noneEnded →
    ∃ t, exec (.matStComplete op) s = .next t ∧ t.op? op = none ∧ s.countedDown t o.slot o.uid o.dc ∧ (∀ a, t.peek a = s.peek a) ∧
      (o.faults = [] → (t.warp o.slot).deferred = (s.warp o.slot).deferred) ∧
      (o.faults ≠ [] → (s.warp o.slot).live = true → (s.warp o.slot).uid = o.uid →
        (t.warp o.slot).deferred = (s.warp o.slot).deferred ++ [o.storeFault])))

/-- One column (R95), for one alignment block without scales, of finite numbers: the sum of the products is exact, is rounded once to FP32,
and is added to the column with one more rounding. Digit counts (R93): a digit cap is clamped to the limits of the A type; without a cap
and without a tolerance the most digits are used. (That elements of B past the K length count as zero is read from the manual's example
(log 40).) -/
def Obligations.MatrixArithmetic : Prop :=
  (∀ (d j : Nat) (v : BView) (a : List FV) (f : Fed) (bA bB : Option Dy) (old : Word),
    let one : FV := .fin false 1 0
    (∀ x ∈ a, x.isFin = true) → (∀ x ∈ f.vals, x.isFin = true) → f.vals.length = a.length → 0 < a.length → v.blk = none → v.tB = one →
    (∀ k, k < a.length → (v.elem k j).isFin = true ∧ v.scale k j = one) → finiteWord old →
    ∃ total : FV, total.isFin = true ∧
      total.dy.real = ∑ k ∈ Finset.range a.length, (f.vals.getD k one).dy.real * (v.elem k j).dy.real ∧
      (accumulate d one v bA bB [⟨a, f, one, 0⟩] old j).1 = toF32 .rne (addFV .rne (f32 old) (f32 (toF32 .rne total)))) ∧
  (∀ (f : Fmt) (blk dcap gstep n : Nat) (r : ARow) (tA : FV) (v : BView),
    let lo := if f = .e2m1 then 1 else 2
    let hi := if f = .e2m1 then 1 else if f = .s8 ∨ f = .n8 then 2 else 4
    (dcap ≠ 0 → digitsOf f blk dcap gstep n r tA v = min (max dcap lo) hi) ∧
    (dcap = 0 → gstep = 0 → digitsOf f blk dcap gstep n r tA v = hi) ∧
    lo ≤ digitsOf f blk dcap gstep n r tA v ∧ digitsOf f blk dcap gstep n r tA v ≤ hi)

/-! ## Memory operations in flight -/

/-- Loads at their home (R97, R129, R227): a lane is done with the bytes of the line as its width delivers them, and with its sector's
bound; memory, the line's bytes and every other line are as before. A lane at the fabric port reads physical memory, with the bound of
its shadow halfword, 0 on a page without bounds. (That a lane is one step, a 128-bit one also in halves, and that an access to a host
range acts on the model's memory at the port, are the model's choices (logs 9 and 61).) -/
def Obligations.LoadsAtHome : Prop :=
  (∀ (s : State) (id part key : Nat) (o : MemOp) (h : HLine), s.atHome id part o key h → o.kind = .ld ∨ o.kind = .sld →
    let va := (o.lane part).addr.toNat
    h.line.poisoned (secOf va) = false → (o.kind = .sld → h.line.bnd (secOf va) = 0) →
    ∃ t h', exec (.homeRequest id part) s = .next t ∧ t.hline key = some h' ∧ h'.line = h.line ∧ h'.dirty = h.dirty ∧ s.linesKept t key ∧
      inFlightKept s t ∧ (∀ a, t.peek a = s.peek a) ∧
      laneDone t id part fun l => l.rbnd = h.line.bnd (secOf va) ∧
        l.res = loadWords o.width ((h.line.data.drop (va % 128)).take o.width.bytes)) ∧
  (∀ (s : State) (id part : Nat) (p : PortAt) (o : MemOp), s.atPort id part o p → o.kind = .ld ∨ o.kind = .sld →
    s.paPoison p.pa = false → (o.kind = .sld → s.boundAt p = 0) →
    ∃ t, exec (.homeRequest id part) s = .next t ∧ inFlightKept s t ∧ t.home = s.home ∧ (∀ a, t.peek a = s.peek a) ∧
      laneDone t id part fun l => l.rbnd = s.boundAt p ∧
        l.res = loadWords o.width ((List.range o.width.bytes).map fun i => s.peek (p.pa + i)))

/-- Stores at their home (R97, R98, R111, R432): on a page without bounds the bytes of the lane are written into the line; on a bounded page
those of every lane of the instruction in the sector, in one step, and the sector's bound becomes the largest among them where they
cover it, else the larger of that and its own. The sector is dirty; other lines and physical memory are as before. While a lane of a
bounded sector is still on its way elsewhere, the sector waits for it. At the fabric port the bytes go to physical memory, and the bound
to the sector's shadow halfword. (That a lane is one step, a 128-bit one also in halves, and that an access to a host range acts on the
model's memory at the port, are the model's choices (logs 9 and 61).) -/
def Obligations.StoresAtHome : Prop :=
  (∀ (s : State) (id part key : Nat) (o : MemOp) (h : HLine), s.atHome id part o key h → o.kind = .st → s.noWaypoint →
    h.line.bnds.length = 4 →
    let va := (o.lane part).addr.toNat
    let ps := if h.line.bounded then o.sameSector part (fun l => l.st == .sent || l.st == .arrived) else [part]
    if h.line.bounded = true ∧ o.sectorDue part = true then
      ∃ t, exec (.homeRequest id part) s = .next t ∧ t.op? id = some o ∧ t.home = s.home ∧ inFlightKept s t ∧ ∀ a, t.peek a = s.peek a
    else ∃ t h', exec (.homeRequest id part) s = .next t ∧ t.hline key = some h' ∧ s.linesKept t key ∧ inFlightKept s t ∧
      (∀ a, t.peek a = s.peek a) ∧ h'.dirty = h.dirty ||| (1#4 <<< secOf va) ∧
      h'.line.data = ps.foldl (fun d p => splice d ((o.lane p).addr.toNat % 128) (o.bytes p)) h.line.data ∧
      (h.line.bounded = true →
        h'.line.bnd (secOf va) = boundAfter (h.line.bnd (secOf va)) (o.sectorBnd ps) (covers (o.sectorWrites ps) (secOf va))) ∧
      ∀ p ∈ ps, laneDone t id p fun _ => True) ∧
  (∀ (s : State) (id part : Nat) (p : PortAt) (o : MemOp), s.atPort id part o p → o.kind = .st → s.noWaypoint → s.shadowReady p →
    let ps := if p.spa.isSome then o.sameSector part (fun l => l.st == .sent || l.st == .arrived) else [part]
    (p.spa.isSome = true → o.sectorDue part = false) → (∀ q ∈ ps, (o.bytes q).length = o.size q) →
    ∃ t, exec (.homeRequest id part) s = .next t ∧ inFlightKept s t ∧ t.home = s.home ∧ (∀ q ∈ ps, laneDone t id q fun _ => True) ∧
      (∀ a, ¬p.shadowByte a → t.peek a = ps.foldl (fun x q =>
        let pa := p.pa / 32 * 32 + (o.lane q).addr.toNat % 32
        if pa ≤ a ∧ a < pa + o.size q then (o.bytes q).getD (a - pa) 0 else x) (s.peek a)) ∧
      (p.spa.isSome = true → t.boundAt p = bndNorm (boundAfter (s.boundAt p) (o.sectorBnd ps) (o.coversSector part Lane.writes))))

/-- Atomics at their home, at `grp` scope or wider (R100, R134, R229): one read-modify-write; the lane is done with the old value and its
bound, and the line holds the new one. At the fabric port it acts on physical memory and on the shadow halfword of the sector. (That an
access to a host range acts on the model's memory at the port is the model's choice (log 61).) -/
def Obligations.AtomicsAtHome : Prop :=
  (∀ (s : State) (id part key : Nat) (o : MemOp) (h : HLine), s.atHome id part o key h → o.kind.atomic = true → o.scope.wide = true →
    s.noWaypoint → h.line.poisoned (secOf (o.lane part).addr.toNat) = false →
    let va := (o.lane part).addr.toNat
    let old := (h.line.data.drop (va % 128)).take o.width.bytes
    let r := rmw o.kind o.aop o.width.bytes old (o.lane part).data (h.line.bnd (secOf va)) (o.lane part).bnd
    ∃ t h', exec (.homeRequest id part) s = .next t ∧ t.hline key = some h' ∧ h'.line.data = splice h.line.data (va % 128) r.1 ∧
      h'.dirty = h.dirty ||| (1#4 <<< secOf va) ∧ s.linesKept t key ∧ inFlightKept s t ∧ (∀ a, t.peek a = s.peek a) ∧
      laneDone t id part fun l => l.res = loadWords o.width old ∧ l.rbnd = h.line.bnd (secOf va)) ∧
  (∀ (s : State) (id part : Nat) (p : PortAt) (o : MemOp), s.atPort id part o p → o.kind.atomic = true → o.scope.wide = true →
    s.noWaypoint → s.shadowReady p → s.paPoison p.pa = false → o.scope ≠ .sys ∨ paKind p.pa ≠ .host ∨ o.pcieOk = true →
    let old := (List.range o.width.bytes).map fun i => s.peek (p.pa + i)
    let r := rmw o.kind o.aop o.width.bytes old (o.lane part).data (s.boundAt p) (o.lane part).bnd
    ∃ t, exec (.homeRequest id part) s = .next t ∧ inFlightKept s t ∧ t.home = s.home ∧
      (laneDone t id part fun l => l.res = loadWords o.width old ∧ l.rbnd = s.boundAt p) ∧
      (∀ a, ¬p.shadowByte a → t.peek a = if p.pa ≤ a ∧ a < p.pa + r.1.length then r.1.getD (a - p.pa) 0 else s.peek a) ∧
      (p.spa.isSome = true → t.boundAt p = bndNorm (boundAfter (s.boundAt p) r.2 false)))

/-- Return and acknowledgement (R130, R131, R232, R394, R427). When every lane of a load-class operation is served, its destinations receive
each lane's words and bound, no other register lane changes, its counter drops, and an acquire at `grp` scope or wider empties the
core's L1; of `sld` (R230), the scalar destinations receive the words of its one access, and a sector bound other than 0 is a bound
breach that writes nothing and traps the issuing group. A store-class operation drops its counter, and a fault of its lanes is recorded
for the warp as one deferred fault. A held release is sent once its drain set is acknowledged, in its place among its core's requests
from there on (R15, R133). -/
def Obligations.OperationsEnd : Prop :=
  (∀ (s : State) (id : Nat) (o : MemOp), s.op? id = some o → o.kind = .ld ∨ o.kind = .atom ∨ o.kind = .cas → o.returned = true → lanesOk o →
    s.holds o id = false → s.counterBusy o.uid o.dc id = false → s.registerBusy o id = false → s.noneEnded → (s.warp o.slot).live = true →
    (s.warp o.slot).uid = o.uid →
    ∃ t, exec (.loadReturn id) s = .next t ∧ t.op? id = none ∧ s.countedDown t o.slot o.uid o.dc ∧ (∀ a, t.peek a = s.peek a) ∧
      (t.warp o.slot).sregs = (s.warp o.slot).sregs ∧ (∀ k, k ≠ o.slot → t.warp k = s.warp k) ∧
      (∀ q l, l < 32 → (t.warp o.slot).v q l =
        if (o.lane l).st = .done ∧ o.dst ≤ q ∧ q < o.dst + (o.lane l).res.length then ⟨(o.lane l).res.getD (q - o.dst) 0, (o.lane l).rbnd⟩
        else (s.warp o.slot).v q l) ∧
      (o.order.acquires = true → o.scope.wide = true → ∀ vf asid va, vf < 64 → asid < 65536 → va < 2 ^ 52 →
        t.l1Line o.core vf asid va = none) ∧
      (o.order.acquires = false → t.l1 = s.l1)) ∧
  ((∀ (s : State) (id : Nat) (o : MemOp), s.op? id = some o → o.kind = .sld → o.returned = true → s.holds o id = false →
    s.counterBusy o.uid o.dc id = false → s.registerBusy o id = false → s.noneEnded → (s.warp o.slot).live = true →
    (s.warp o.slot).uid = o.uid →
    ∃ t, exec (.loadReturn id) s = .next t ∧ t.op? id = none ∧ s.countedDown t o.slot o.uid o.dc ∧ (∀ a, t.peek a = s.peek a) ∧
      (t.warp o.slot).vregs = (s.warp o.slot).vregs ∧ (∀ k, k ≠ o.slot → t.warp k = s.warp k) ∧
      ∀ q, (t.warp o.slot).s q =
        if (o.lane 0).st = .done ∧ o.dst ≤ q ∧ q < o.dst + (o.lane 0).res.length then (o.lane 0).res.getD (q - o.dst) 0
        else (s.warp o.slot).s q) ∧
  (∀ (s : State) (id key : Nat) (o : MemOp) (h : HLine), s.atHome id 0 o key h → o.kind = .sld → o.lanes.length = 1 →
    (s.warp o.slot).hold = .access id → (s.warp o.slot).trap = none → handlerReady { s.warp o.slot with hold := .none } →
    (s.warp o.slot).issue ≠ 0 → h.line.poisoned (secOf (o.lane 0).addr.toNat) = false → h.line.bnd (secOf (o.lane 0).addr.toNat) ≠ 0 →
    ∃ t e ops, exec (.homeRequest id 0) s = .next t ∧ (t.warp o.slot).trap = some (e, .entering ops) ∧ e.code = 0x0403 ∧
      e.lanes = (s.warp o.slot).issue ∧ e.addr = (o.lane 0).addr ∧ e.pc = o.pc ∧ (t.warp o.slot).sregs = (s.warp o.slot).sregs ∧
      (∃ h', t.hline key = some h' ∧ h'.line = h.line) ∧ ∀ a, t.peek a = s.peek a)) ∧
  (∀ (s : State) (id : Nat) (o : MemOp), s.op? id = some o → o.kind.acks = true → o.acked = true → s.counterBusy o.uid o.dc id = false →
    s.noneEnded →
    ∃ t, exec (.storeAcknowledge id) s = .next t ∧ t.op? id = none ∧ s.countedDown t o.slot o.uid o.dc ∧ (∀ a, t.peek a = s.peek a) ∧
      (o.faults = [] → (t.warp o.slot).deferred = (s.warp o.slot).deferred) ∧
      (o.faults ≠ [] → (s.warp o.slot).live = true → (s.warp o.slot).uid = o.uid →
        (t.warp o.slot).deferred = (s.warp o.slot).deferred ++ [o.storeFault])) ∧
  (∀ (s : State) (id : Nat) (o : MemOp) (drain : List Nat), s.op? id = some o → o.held = some drain →
    (s.allAcked drain = false → exec (.releaseDrainComplete id) s = .next s) ∧
    (s.allAcked drain = true → ∃ t, exec (.releaseDrainComplete id) s = .next t ∧
      t.op? id = some { o with held := none, sentAt := s.time, place := (s.nextId, 0) } ∧
      t.warps = s.warps ∧ t.home = s.home ∧ ∀ a, t.peek a = s.peek a))

/-- Page-table walks (R111, R117, R118, R418, R420 to R422): a walk that succeeds is kept for its page and the lane is sent again, or ends
in cause 08 where the page lacks the permission; one that fails ends a store's lane in cause 06 or 07 where the function's queue is not
enabled; else it joins the outstanding group of its page, or opens one and writes a record of 32 bytes at PROD, while its lane is held;
with 1,024 groups outstanding or the ring full the lane waits at its HTU. Page answers (R423 to R428): success closes the group, sends
every held lane again and lets every parked thread issue its instruction again at its recorded address; failure closes it, ends held
store lanes in cause 06 or 07 and traps the parked threads; an answer for a group that is not outstanding changes no thread and no
operation, and is logged. (That a walk is kept for one page of 4 KiB, and that records of the page-request ring go to memory directly,
are the model's choices (logs 18 and 45).) -/
def Obligations.Translation : Prop :=
  ((∀ (s : State) (id part unit va : Nat) (o : MemOp) (shadow : Bool) (e : TlbEntry), s.walksAt id part o unit va shadow →
    s.walk unit o.vf o.asid va = .ok e →
    let asks := ((s.tlbPut e).touch o.who (o.lane part).addr.toNat o.need).asks unit va shadow
    (asks = true → o.kind = .st → ∃ t, exec (.pageTableWalk id part) s = .next t ∧ t.tlbFind unit o.vf o.asid va = some e ∧
      lanesNow t id (o.setLane part { o.lane part with st := .fault 0x08 })) ∧
    (asks = false → ∃ t, exec (.pageTableWalk id part) s = .next t ∧ t.tlbFind unit o.vf o.asid va = some e ∧ (∀ a, t.peek a = s.peek a) ∧
      (∀ u v a x, (u, v, a, x / 4096) ≠ (unit, o.vf, o.asid, va / 4096) → t.tlbFind u v a x = s.tlbFind u v a x) ∧
      (o.kind ≠ .fetch → o.kind ≠ .target → t.op? id = some (o.setLane part { o.lane part with st := .sent }) ∧ walkKept s t) ∧
      (o.kind = .fetch ∨ o.kind = .target → t.op? id = none ∧ (t.warp o.slot).hold = .none))) ∧
  (∀ (s : State) (id part unit va : Nat) (o : MemOp) (shadow : Bool) (f : WalkFault), s.walksAt id part o unit va shadow →
    s.walk unit o.vf o.asid va = .error f → f.cause ≠ 8 → f.cause ≠ 9 → o.kind = .st →
    let q := s.pq o.vf f.stage
    let gs := s.outGroups o.vf f.stage
    let page := (if f.stage = 1 then va else f.gpa) / 4096
    let here := fun g : PageGroup => decide (g.page = page) && (decide (f.stage = 2) || decide (g.asid = o.asid))
    (q.ctl.getLsbD 15 = false → ∃ t, exec (.pageTableWalk id part) s = .next t ∧ t.groups = s.groups ∧ (∀ a, t.peek a = s.peek a) ∧
      lanesNow t id (o.setLane part { o.lane part with st := .fault (if f.stage = 1 then 0x06 else 0x07) })) ∧
    (∀ g, q.ctl.getLsbD 15 = true → gs.find? here = some g → ∃ t, exec (.pageTableWalk id part) s = .next t ∧ t.groups = s.groups ∧
      walkKept s t ∧ (∀ a, t.peek a = s.peek a) ∧
      t.op? id = some (o.setLane part { o.lane part with st := .paged o.vf f.stage g.index })) ∧
    (q.ctl.getLsbD 15 = true → gs.find? here = none → 1024 ≤ gs.length ∨ 2 ^ (q.ctl.toNat % 32) ≤ (q.prod - q.cons).toNat →
      ∃ t, exec (.pageTableWalk id part) s = .next t ∧ t.groups = s.groups ∧ walkKept s t ∧ (∀ a, t.peek a = s.peek a) ∧
        t.op? id = some (o.setLane part { o.lane part with st := .atHtu })) ∧
    (q.ctl.getLsbD 15 = true → gs.find? here = none → gs.length < 1024 → (q.prod - q.cons).toNat < 2 ^ (q.ctl.toNat % 32) →
      s.dead (bitsOf q.base.toNat 51 12 * 4096 + 32 * (q.prod.toNat % 2 ^ (q.ctl.toNat % 32))) = false →
      ∃ t g, exec (.pageTableWalk id part) s = .next t ∧ t.groups = s.groups ++ [g] ∧ walkKept s t ∧
        g.vf = o.vf ∧ g.stage = f.stage ∧ g.asid = o.asid ∧ g.page = page ∧ (∀ x ∈ gs, x.index ≠ g.index) ∧ g.index < 65536 ∧
        g.record = pageRecord f (o.access shadow f.table) g.index o.vf o.asid va ∧ g.record.length = 32 ∧
        (t.pq o.vf f.stage).prod = q.prod + 1 ∧
        (∀ a, let at_ := bitsOf q.base.toNat 51 12 * 4096 + 32 * (q.prod.toNat % 2 ^ (q.ctl.toNat % 32))
          t.peek a = if at_ ≤ a ∧ a < at_ + 32 then g.record.getD (a - at_) 0 else s.peek a) ∧
        t.op? id = some (o.setLane part { o.lane part with st := .paged o.vf f.stage g.index })))) ∧
  ((∀ (s : State) (vf stage g : Nat), s.outstanding vf stage g = true →
    ∃ t, exec (.prspSuccess vf stage g) s = .next t ∧ t.outstanding vf stage g = false ∧ (∀ a, t.peek a = s.peek a) ∧
      (∀ k, (t.warp k).vregs = (s.warp k).vregs ∧ (t.warp k).sregs = (s.warp k).sregs) ∧
      (∀ id o p, s.op? id = some o → (o.lane p).st = .paged vf stage g →
        ∃ o', t.op? id = some o' ∧ o'.lane p = { o.lane p with st := .arrived, waited := true }) ∧
      (∀ k l q, l < 32 → ((s.warp k).thr l).st = .parked q → q.group = some (vf, stage, g) →
        ((t.warp k).thr l).runs ∧ ((t.warp k).thr l).replay = some q ∧ ((t.warp k).thr l).pc = ((s.warp k).thr l).pc)) ∧
  (∀ (s : State) (vf stage g : Nat), s.outstanding vf stage g = true → s.fab.notices = [] → s.fab.issued = [] →
    (∀ q ∈ s.ops, q.2.kind ≠ .frameSt ∧ q.2.kind ≠ .frameLd) → s.pagedXfers vf stage g = [] →
    Map.wf s.warps Warp.empty = true →
    (s.pageTraps vf stage g = [] →
      ∃ t, exec (.prspFailure vf stage g) s = .next t ∧ t.outstanding vf stage g = false ∧ (∀ a, t.peek a = s.peek a) ∧ t.warps = s.warps ∧
        ∀ id o p, s.op? id = some o → (o.lane p).st = .paged vf stage g →
          ∃ o', t.op? id = some o' ∧ (o'.lane p).st = .fault (if stage = 1 then 0x06 else 0x07) ∧ (o'.lane p).addr = (o.lane p).addr) ∧
    (∀ k e, s.pageTraps vf stage g = [(k, e)] → (s.warp k).live = true → (s.warp k).role.counts = true → (s.warp k).trap = none →
      handlerReady (s.warp k) → ∃ t ops, exec (.prspFailure vf stage g) s = .next t ∧ t.outstanding vf stage g = false ∧ (t.warp k).trap = some (e, .entering ops) ∧
        e.code = (if stage = 1 then 0x0206 else 0x0207) ∧
        ∀ l, l < 32 → e.group.getLsbD l = true → ((t.warp k).thr l).st = .trapWait ∧
          ((∃ q, ((s.warp k).thr l).st = .parked q ∧ q.group = some (vf, stage, g)) ∨ ∃ va, ((s.warp k).thr l).st = .waitPage vf stage g va))) ∧
  (∀ (s : State) (vf stage g : Nat), s.outstanding vf stage g = false →
    ∃ t u, exec (.prspSuccess vf stage g) s = .next t ∧ exec (.prspFailure vf stage g) s = .next u ∧
      ∀ x, x = t ∨ x = u → x.warps = s.warps ∧ x.ops = s.ops ∧ x.engs = s.engs ∧ x.groups = s.groups ∧ x.hub.lseq = s.hub.lseq + 1))

/-- Promotions (R147, R151, R438): the marking core acknowledges a request; once it has, and its log entries of the line have drained, the
entries and the line's mark are gone and the promotion is over; one that is not acknowledged for 1 ms costs its core's domain; a
peer-range request unanswered for 1 ms ends a store's lane in cause 08 (R454). -/
def Obligations.Promotions : Prop :=
  (∀ (s : State) (pid : Nat) (p : Promotion), s.promo? pid = some p →
    (p.acked = false → ∃ t, exec (.promoteRequest pid) s = .next t ∧ t.promo? pid = some { p with acked := true } ∧ t.ops = s.ops ∧
      t.cores = s.cores ∧ t.home = s.home) ∧
    (∀ h, p.acked = true → (∀ e ∈ (s.core p.core).log, e.for_ p = true → s.allAcked e.drain = true) → s.promoting pid = [] →
      s.hline p.key = some h →
      ∃ t, exec (.promoteDone pid) s = .next t ∧ t.promo? pid = none ∧ t.hline p.key = some { h with mark := none } ∧
        (t.core p.core).log = (s.core p.core).log.filter (fun e => !e.for_ p) ∧ t.ops = s.ops ∧ s.linesKept t p.key) ∧
    (p.acked = false → p.sentAt + 1000000 ≤ s.time → s.present (domainOf p.core) = true →
      s.promos = [(pid, p)] → s.promoting pid = [] → s.affected (domainOf p.core) = [] →
      ∃ t, exec (.promoteAckTimeout pid) s = .next t ∧ t.viral (domainOf p.core) = true ∧ t.promo? pid = none ∧
        t.hub.ready.getLsbD (24 + domainOf p.core) = false)) ∧
  (∀ (s : State) (id part : Nat) (p : PortAt) (o : MemOp), s.op? id = some o → (o.lane part).st = .sent → o.held = none → o.kind = .st →
    s.touch o.who (o.lane part).addr.toNat o.need = .port p → paKind p.pa = .peer →
    (s.time < o.sentAt + 1000000 → exec (.peerRequestTimeout id part) s = .next s) ∧
    (o.sentAt + 1000000 ≤ s.time → ∃ t, exec (.peerRequestTimeout id part) s = .next t ∧ lanesNow t id (o.setLane part { o.lane part with st := .fault 0x08 }) ∧
      t.home = s.home ∧ t.warps = s.warps ∧ ∀ a, t.peek a = s.peek a))

/-! ## Engine operations -/

/-- The start of an engine operation (R152, R287, R291, R292, R300, R302, R312, R357): it waits until what it awaits has come. A copy of a
run then moves every byte of it, once, sector by sector; a tensor copy and a `launch` first read 128 bytes whole; a `mat.ldb` with a
base that its layout does not accept is an engine fault; a `col` without a communicator entry ends with status 2, and another takes the
entry's call index, which advances by one. (That an engine operation reads and sends nothing before its start, and the runs of bytes
that a load of a bank moves at once, are the model's choices (logs 24 and 38).) -/
def Obligations.EngineStarts : Prop :=
  ∀ (s : State) (op : Nat) (e : EngOp), s.eng? op = some e → e.st = .waiting →
    (s.engReady e = false → exec (.engineStart op) s = .next s) ∧
    (∀ src dst, s.engReady e = true → e.run = some (src, dst) →
      ∃ t x, exec (.engineStart op) s = .next t ∧ t.eng? op = some x ∧ x.st = .active ∧ x.kind = e.kind ∧ x.fault = e.fault ∧
        movesRun x.xfers src dst e.c.toNat ∧ engsKept s t op) ∧
    (s.engReady e = true → e.kind = .cpyTIn ∨ e.kind = .cpyTOut ∨ e.kind = .launch →
      ∃ t x, exec (.engineStart op) s = .next t ∧ t.eng? op = some x ∧ x.st = .descriptor ∧ x.kind = e.kind ∧
        x.xfers = [⟨[⟨e.a.toNat, e.a.toNat, 128, none, false⟩], false, none, false⟩] ∧
        engsKept s t op) ∧
    (∀ sh bank word, s.engReady e = true → e.kind = .ldb sh bank word →
      ∃ t x, exec (.engineStart op) s = .next t ∧ t.eng? op = some x ∧ x.st = .active ∧ x.kind = e.kind ∧ engsKept s t op ∧
        (matMisaligned (Spec.ofWord word).layout e.a.toNat (Spec.ofWord word).lineStride = true → x.fault = some (0x0202, e.a)) ∧
        (matMisaligned (Spec.ofWord word).layout e.a.toNat (Spec.ofWord word).lineStride = false → x.fault = e.fault ∧
          ∀ j, j < shapeN sh (8 < fmtBits (fmtOf (Spec.ofWord word).enc)) → ∀ a ∈ (colAddrs e (Spec.ofWord word) sh j).1,
            ∃ y ∈ x.xfers, ∃ p ∈ y.pieces, p.src = a / 32 * 32 ∧ p.len = 32)) ∧
    (∀ kind ty rop, s.engReady e = true → e.kind = .col kind ty rop → s.hub.ready.getLsbD 7 = true →
      (∀ i, s.commOf e.vf e.colId.toNat = some i → s.listClosed (s.comm i) = false) →
      (∀ q ∈ s.engs, q.1 < op → q.2.uid ≠ e.uid) → e.txb = none → e.fault = none → s.noneEnded → s.fab.notices = [] →
      (s.localCheck e = none → (s.warp e.slot).live = true → (s.warp e.slot).uid = e.uid →
        ∃ t, exec (.engineStart op) s = .next t ∧ s.engGone t op e ∧ (t.warp e.slot).s e.sd = 2 ∧ t.fab.issued = s.fab.issued) ∧
      (∀ i ms, s.localCheck e = some (i, ms) →
        ∃ t x y, exec (.engineStart op) s = .next t ∧ t.eng? op = some y ∧ y.st = .atHub ∧ t.fab.issued = s.fab.issued ++ [x] ∧ x.op = op ∧
          x.id = e.colId.toNat ∧ x.call = commCidx (s.comm i) ∧ x.chips = ms ∧ x.milepost = none ∧
          commCidx (t.comm i) = (commCidx (s.comm i) + 1) % 2 ^ 32))

/-- Transfers of a copy at their home (R98, R99, R110, R287, R293): a piece of `cpy.b` in either direction moves its bytes between the line
and the slice; the bound of the destination sector becomes the source sector's where the piece covers it, else the larger of the two.
Nothing else in the slice or in the line changes. -/
def Obligations.CopyTransfers : Prop :=
  ∀ (s : State) (op part key : Nat) (e : EngOp) (p : Piece) (h : HLine), s.op? op = none → s.eng? op = some e → e.open_ part = true →
    e.st = .active → (e.xfer part).pieces = [p] → p.nib = none → p.zero = false → 0 < p.len → s.hline key = some h →
    s.xferHeld e op part = false → s.xferLost e part = false →
    p.src / 32 = (p.src + p.len - 1) / 32 → p.dst / 32 = (p.dst + p.len - 1) / 32 → h.line.data.length = 128 → h.line.bnds.length = 4 →
    let j := s.engCore e
    (e.kind = .cpyBIn → s.reach e p.src .read = .line s key →
      ∃ t, exec (.homeRequest op part) s = .next t ∧ (∃ x, t.eng? op = some x ∧ (x.xfer part).done = true) ∧ t.home = s.home ∧
        (∀ a, t.peek a = s.peek a) ∧ engsKept s t op ∧
        (∀ k, Map.get t.scratch 0 k =
          if ∃ i, i < p.len ∧ k = spKey e.block j (p.dst + i) then h.line.data.getD (p.src % 128 + (k - spKey e.block j p.dst)) 0
          else Map.get s.scratch 0 k) ∧
        (t.spSide e.block j p.dst).1 = boundAfter (s.spSide e.block j p.dst).1 (bndMax (h.line.bnd (secOf p.src)) 0) (p.len = 32)) ∧
    (e.kind = .cpyBOut → s.reach e p.dst .write = .line s key → s.noWaypoint →
      ∃ t h', exec (.homeRequest op part) s = .next t ∧ (∃ x, t.eng? op = some x ∧ (x.xfer part).done = true) ∧ t.scratch = s.scratch ∧
        (∀ a, t.peek a = s.peek a) ∧ engsKept s t op ∧ t.hline key = some h' ∧ s.linesKept t key ∧
        h'.dirty = h.dirty ||| (1#4 <<< secOf p.dst) ∧
        (∀ i, i < 128 → h'.line.data.getD i 0 =
          if p.dst % 128 ≤ i ∧ i < p.dst % 128 + p.len then s.spByte e.block j (p.src + (i - p.dst % 128)) else h.line.data.getD i 0) ∧
        (h.line.bounded = true → h'.line.bnd (secOf p.dst) =
          boundAfter (h.line.bnd (secOf p.dst)) (bndMax (s.spSide e.block j p.src).1 0) (p.len = 32)))

/-- The end of an engine operation (R154, R246, R247, R287, R289, R291, R312, R414): when every transfer is made, its ranges are released,
its counter drops, and its bytes are credited to its barrier object; an engine fault is recorded for the warp instead, and nothing is
credited. A descriptor that breaks R290 is such a fault; one that does not lets the transfers begin. A `launch` appends an entry to its
queue, with the header as read. -/
def Obligations.EnginesEnd : Prop :=
  (∀ (s : State) (op : Nat) (e : EngOp), s.eng? op = some e → s.noneEnded →
    (e.kind.copies = true → e.allDone = true → e.fault = none → e.txb = none →
      ∃ t, exec (.engineOperationComplete op) s = .next t ∧ s.engGone t op e ∧ t.scratch = s.scratch ∧ t.home = s.home ∧
        ∀ a, t.peek a = s.peek a) ∧
    (∀ b j off, e.kind.copies = true → e.allDone = true → e.fault = none → e.txb = some (b, j, off) →
      let x := s.txbRead b j off
      x.arrb + e.credit < 2 ^ 32 →
      ∃ t, exec (.engineOperationComplete op) s = .next t ∧ s.engGone t op e ∧ (∀ a, t.peek a = s.peek a) ∧
        t.txbRead b j off = txbNext { x with arrb := x.arrb + e.credit }) ∧
    (∀ code addr, e.kind.copies = true → e.fault = some (code, addr) → (s.warp e.slot).live = true → (s.warp e.slot).uid = e.uid →
      ∃ t, exec (.engineOperationComplete op) s = .next t ∧ s.engGone t op e ∧ t.scratch = s.scratch ∧
        (t.warp e.slot).deferred = (s.warp e.slot).deferred ++ [e.deferred code addr]) ∧
    (∀ p, e.kind = .launch → e.fault = none → e.txb = none → e.st = .descriptor → (∀ x ∈ e.xfers, x.done = true) → s.launch? e.launch = some p →
      let q := s.queue p.queue
      let l := newLaunch p.queue q.rsv p.vf p.asid e.a e.snapshot (some e.launch)
      l.asidF = p.asid → l.vfF = p.vf → q.used < 2 ^ (q.ctl.toNat % 32) →
      ∃ t, exec (.launchEntryAppend op) s = .next t ∧ s.engGone t op e ∧ t.launch? s.nextId = some l ∧
        (t.queue p.queue).rsv = q.rsv + 1 ∧ (t.queue p.queue).used = q.used + 1 ∧ (t.queue p.queue).inner = q.inner ++ [(q.rsv.toNat, s.nextId)] ∧ (t.queue p.queue).rung = true)) ∧
  (∀ (s : State) (op : Nat) (e : EngOp), s.eng? op = some e → e.kind = .cpyTIn ∨ e.kind = .cpyTOut → e.st = .descriptor → e.fault = none →
    (∀ x ∈ e.xfers, x.done = true) →
    (descOk e.snapshot e.coords e.b.toNat = false →
      ∃ t x, exec (.tensorDescriptorRead op) s = .next t ∧ t.eng? op = some x ∧ x.fault = some (0x0A03, e.a) ∧ engsKept s t op) ∧
    (let n := windowBytes e.snapshot e.coords
     descOk e.snapshot e.coords e.b.toNat = true → e.b.toNat + n ≤ s.sliceOf e.block → (∀ r ∈ (s.core e.core).locks, r.op = op) →
      ∃ t x, exec (.tensorDescriptorRead op) s = .next t ∧ t.eng? op = some x ∧ x.fault = none ∧ x.st = .active ∧ x.credit = n ∧
        engsKept s t op ∧ ∀ y ∈ x.xfers, y.done = false))

/-! ## Queues and launches -/

/-- Queue registers (R322, R377): a read of QRSV returns RSV and advances it, or all ones when the queue is full; through a window that does
not reach the queue it returns zero and changes nothing. A write of QDB rings the queue. A write of QCTL sets EN; sets LOG2 while EN was
clear; sets VF from the physical function alone; clears ERR with a 1; one that would enable a queue of a size outside 16 to 65,536 slots
is ignored. -/
def Obligations.QueueRegisters : Prop :=
  ∀ (s : State) (vf cp q : Nat), cp < 4 → q < 64 →
    let k := qkey cp q
    let x := s.queue k
    let off := 0x40000 + 0x1000 * cp + 0x40 * q + 0x10
    let reaches := vf = 0 ∨ bitsOf x.ctl.toNat 13 8 = vf
    let full := 2 ^ (x.ctl.toNat % 32) ≤ x.used
    (reaches → ¬full → ∃ t, exec (.qrsv vf cp q) s = .next t ∧ t.queue k = { x with rsv := x.rsv + 1, used := x.used + 1 } ∧
      (∀ j, j ≠ k → t.queue j = s.queue j) ∧ t.outbox = s.outbox ++ [.hubRead vf off (x.rsv.setWidth 64)] ∧ t.warps = s.warps) ∧
    (reaches → full → ∃ t, exec (.qrsv vf cp q) s = .next t ∧ t.queues = s.queues ∧ t.outbox = s.outbox ++ [.hubRead vf off 0xFFFFFFFF]) ∧
    (¬reaches → ∃ t, exec (.qrsv vf cp q) s = .next t ∧ t.queues = s.queues ∧ t.outbox = s.outbox ++ [.hubRead vf off 0]) ∧
    (reaches → ∃ t, exec (.qdb vf cp q) s = .next t ∧ t.queue k = { x with rung := true } ∧ (∀ j, j ≠ k → t.queue j = s.queue j) ∧
      t.launches = s.launches ∧ ∀ a, t.peek a = s.peek a) ∧
    (∀ val : Word,
      let log := if x.ctl.getLsbD 15 then x.ctl.toNat % 32 else val.toNat % 32
      (reaches → (val.getLsbD 15 = false ∨ (4 ≤ log ∧ log ≤ 16)) →
        ∃ t y, exec (.qctlWrite vf cp q val) s = .next t ∧ t.queue k = y ∧ y.ctl.toNat % 32 = log ∧ y.ctl.getLsbD 15 = val.getLsbD 15 ∧
          y.ctl.getLsbD 14 = (x.ctl.getLsbD 14 && !val.getLsbD 14) ∧
          bitsOf y.ctl.toNat 13 8 = bitsOf (if vf = 0 then val else x.ctl).toNat 13 8 ∧ y.rsv = x.rsv ∧ y.head = x.head ∧
          y.base = x.base ∧ (∀ j, j ≠ k → t.queue j = s.queue j)) ∧
      (¬reaches ∨ (val.getLsbD 15 = true ∧ (log < 4 ∨ 16 < log)) → exec (.qctlWrite vf cp q val) s = .next s))

/-- Slots and headers (R323 to R325, R327, R329): a well-formed launch slot is taken and becomes a launch with its ASID, function and header
address; a malformed one halts the queue with ERR and the event of its owner. A header that breaks a limit of R326 completes the launch
with code 0x0001, whose signal, and with it the queue, waits while the port of the event is not usable; one that passes every check
waits for its events, and is ready when they are met. (That a slot that cannot be read is passed over is the model's choice (log 78).) -/
def Obligations.LaunchProcessing : Prop :=
  (∀ (s : State) (cp q : Nat), s.slotReady cp q →
    let k := qkey cp q
    let bs := s.slotBytes k
    (launchSlotOk bs → ∃ t l, exec (.launchSlot cp q) s = .next t ∧ s.slotTaken t cp q ∧ t.launch? s.nextId = some l ∧
      (t.queue k).busy = some s.nextId ∧ l.st = .header ∧ l.asid = field bs 2 2 ∧ l.vf = field bs 4 1 ∧
      l.hdrVa.toNat = field bs 8 8 ∧ l.queue = k ∧ l.parent = none ∧ t.warps = s.warps) ∧
    (¬launchSlotOk bs → field bs 0 2 ≠ 0 → field bs 0 2 ≠ 2 → ∃ t, exec (.launchSlot cp q) s = .next t ∧ s.slotTaken t cp q ∧
      (t.queue k).ctl.getLsbD 14 = true ∧ (t.queue k).halted = true ∧ t.launches = s.launches ∧
      (t.evst (s.queue k).owner).getLsbD 1 = true) ∧
    (field bs 0 2 = 0 → exec (.launchSlot cp q) s = .next s)) ∧
  (∀ (s : State) (lid : Nat) (l : Launch), s.headerRead lid l →
    (l.limits = false → s.onlyLaunch lid → s.portsReady →
      ∃ t, exec (.launchHeaderRead lid) s = .next t ∧ t.completed lid 1 l.queue ∧ t.warps = s.warps) ∧
    (l.limits = false → s.onlyLaunch lid → s.signalClosed l 1 = true →
      ∃ t, exec (.launchHeaderRead lid) s = .next t ∧ (lid, 1) ∈ t.hub.late ∧ (t.queue l.queue).busy = some lid ∧ t.warps = s.warps ∧
        ∀ a, t.peek a = s.peek a) ∧
    (l.limits = true → l.widOk = false → s.onlyLaunch lid → s.portsReady →
      ∃ t, exec (.launchHeaderRead lid) s = .next t ∧ t.completed lid 2 l.queue ∧ t.warps = s.warps) ∧
    (l.limits = true → l.widOk = true → s.spaceOk l = true → s.dies &&& l.diesF &&& s.dmask l.vf ≠ 0 →
      (l.gang = true → s.hub.ready.getLsbD 6 = true) → (Map.get s.plts [] (spaceKey l.vf l.asid)).head? = some (BitVec.ofNat 64 l.pltVa) →
      l.wsetVa = 0 → s.fitsIdle lid l = true → l.noWaits = false →
      ∃ t x, exec (.launchHeaderRead lid) s = .next t ∧ t.launch? lid = some x ∧ x.st = .events ∧ x.hdr = l.hdr ∧ t.warps = s.warps)) ∧
  (∀ (s u : State) (lid : Nat) (l : Launch), s.launch? lid = some l → l.st = .events →
    (s.waitEvents l [0, 1, 2, 3] = (u, .unmet) → exec (.waitEventCheck lid) s = .next s) ∧
    (s.waitEvents l [0, 1, 2, 3] = (u, .met) →
      ∃ t x, exec (.waitEventCheck lid) s = .next t ∧ t.launch? lid = some x ∧ x.st = .running) ∧
    (∀ code, s.waitEvents l [0, 1, 2, 3] = (u, .bad code) → u.launches = s.launches → code < 65536 → s.onlyLaunch lid → u.portsReady →
      ∃ t, exec (.waitEventCheck lid) s = .next t ∧ t.completed lid code l.queue))

/-- Gangs, slices, pre-emption and aborts (R335, R337, R340, R341, R343, R376, R451): a gang launch starts at its tick once all of it is
placed, and a late start is logged; a cluster asked to leave is saved, with the context of each block, when its operations have
completed and its pool has room, a coresident launch as a whole, and its slots are empty; where the pool has no room nothing leaves; a
slice that has run out passes the turn to the next function in ascending order, round robin, or goes on where a context does not fit the
pool; a swap exchanges a ready pending and an active warp of one quadrant, the entering one at the present stamp, and a quadrant makes
one in a cycle at most; an abort marks its launch, and completes it with code 0x000A when nothing of it runs. (Where and with what bytes
a context is laid into the save pool, and what makes a warp ready, are the model's choices (logs 77 and 10).) -/
def Obligations.LaunchControl : Prop :=
  (∀ (s : State) (lid : Nat) (l : Launch), s.launch? lid = some l → l.st = .running → l.gang = true → l.started = false →
    l.tick ≤ s.time → s.allPlaced lid l = true → s.hub.ready.getLsbD 6 = true →
    ∃ t, exec (.gangStart lid) s = .next t ∧ t.launch? lid = some { l with started := true } ∧ t.warps = s.warps ∧
      (l.placedAt ≤ l.tick → t.hub = s.hub) ∧ (l.tick < l.placedAt → t.hub.lseq = s.hub.lseq + 1)) ∧
  (∀ (s : State) (lid : Nat) (l : Launch), s.launch? lid = some l → l.gang = true → s.time < l.tick ∨ s.hub.ready.getLsbD 6 = false → exec (.gangStart lid) s = .next s) ∧
  (∀ (s : State) (cid : Nat) (l : Launch),
    let c := s.cluster cid
    let cs := s.leaveWith c.launch l cid
    let part := s.partOf l.vf
    let pool := bitsOf (s.part part) 115 64 + s.poolUsed part
    let size := (cs.map s.contextSize).sum
    c.live = true → c.saved = false → c.preempt = true → s.launch? c.launch = some l →
    (∀ k ∈ cs, ∀ b ∈ (s.cluster k).blocks, s.blockIdle b = true) →
    (s.poolRoom l.vf size = true → cs.Nodup → (cs.flatMap fun k => (s.cluster k).blocks).Nodup →
      (∀ k ∈ cs, ∀ b ∈ (s.cluster k).blocks, Map.find? s.saved b = none ∧ (s.block b).live = true) → s.placesNone c.launch → s.staysOff c.launch l cid →
      ∃ t, exec (.preemptSave cid) s = .next t ∧ (∀ k ∈ cs, (t.cluster k).saved = true ∧ ∀ b ∈ (s.cluster k).blocks,
          Map.find? t.saved b = some (s.contextOf b) ∧ ∀ k ∈ s.blockSlots b, (t.warp k).live = false) ∧
        (∀ a, a < pool ∨ pool + size ≤ a → t.peek a = s.peek a) ∧
        ∀ b, cs = [cid] → c.blocks = [b] → s.dead pool = false → ∀ i, i < s.contextSize cid → t.peek (pool + i) = Config.contextByte b i) ∧
    (s.poolRoom l.vf size = false → ∃ t, exec (.preemptSave cid) s = .next t ∧ t.warps = s.warps ∧ t.saved = s.saved ∧
      (∀ k ∈ cs, (t.cluster k).preempt = false) ∧ ∀ a, t.peek a = s.peek a)) ∧
  (∀ (s : State) (part f start : Nat), part < 8 → Map.get s.slices (0, 0) part = (f, start) → f ∈ s.readyFuncs part →
    2 ≤ (s.readyFuncs part).length → bitsOf (s.func f) 47 32 ≠ 0 →
    (s.time < start + bitsOf (s.func f) 47 32 * 1000 → ∃ t, exec (.timeSliceExpiry part) s = .next t ∧ t.slices = s.slices ∧
      t.warps = s.warps) ∧
    (start + bitsOf (s.func f) 47 32 * 1000 ≤ s.time → (∀ p ∈ s.sliceVictims f, p.2.stays = false) →
      (∃ p ∈ s.sliceVictims f, s.contextsFit f p = false) →
      ∃ t, exec (.timeSliceExpiry part) s = .next t ∧ Map.get t.slices (0, 0) part = (f, s.time) ∧ t.warps = s.warps) ∧
    (start + bitsOf (s.func f) 47 32 * 1000 ≤ s.time → (∀ p ∈ s.sliceVictims f, p.2.stays = false) →
      (∀ p ∈ s.sliceVictims f, s.contextsFit f p = true) → ∃ t g, exec (.timeSliceExpiry part) s = .next t ∧
      Map.get t.slices (0, 0) part = (g, s.time) ∧ g ≠ f ∧ g ∈ s.readyFuncs part ∧
      (∀ x ∈ s.readyFuncs part, f < x → f < g ∧ g ≤ x) ∧ ((∀ x ∈ s.readyFuncs part, x ≤ f) → ∀ x ∈ s.readyFuncs part, g ≤ x))) ∧
  (∀ (s : State) (out inn : Nat), (s.warp out).live = true → (s.warp inn).live = true → (s.warp out).active = true →
    (s.warp inn).active = false → (s.warp out).role = .solo → (s.warp inn).role = .solo → quadOf out = quadOf inn →
    (s.warp out).atHeader = true → (s.warp inn).ready = true → (s.retire out).activeRoom inn 1 = true →
    s.swapFree (quadOf inn) = true →
    ∀ i, ((i = .warpSwapIn inn out ∧ s.displaced out = true ∧ s.readyFor inn true 256 = true) ∨
        (i = .warpSwapOut out inn ∧ s.earliest inn = true ∧ s.outCause out = true ∧ s.readyFor out false 32 = true)) →
      ∃ t, exec i s = .next t ∧ (t.warp out).active = false ∧ (t.warp inn).active = true ∧ (t.warp inn).stamp = s.stamp ∧
        (∀ k, (t.warp k).vregs = (s.warp k).vregs ∧ (t.warp k).sregs = (s.warp k).sregs ∧ (t.warp k).threads = (s.warp k).threads) ∧
        (∀ k, k ≠ out → k ≠ inn → t.warp k = s.warp k) ∧ t.swapFree (quadOf inn) = false) ∧
  (∀ (s : State) (out inn : Nat), s.swapFree (quadOf inn) = false ∨ (s.warp inn).ready = false →
    exec (.warpSwapIn inn out) s = .next s ∧ exec (.warpSwapOut out inn) s = .next s) ∧
  (∀ (s : State) (vf lid : Nat) (val : Word) (l : Launch),
    let q := s.queue (qkey (bitsOf val.toNat 9 8) (bitsOf val.toNat 5 0))
    val.getLsbD 31 = true → s.hub.abort = none → (vf = 0 ∨ q.owner = vf) → q.busy = some lid → s.launch? lid = some l → l.st = .running →
    (∀ k ∈ s.slotsOf lid, s.halted k = false → (s.warp k).stopped = false → ∃ t, exec (.launchAbort vf val) s = .next t ∧ t.hub.abort = some lid ∧
      t.launches = s.launches ∧ t.warps = s.warps) ∧
    ((∀ k ∈ s.slotsOf lid, s.halted k = true ∨ (s.warp k).stopped = true) → (∀ p ∈ s.ops, p.2.launch ≠ lid) → (∀ p ∈ s.engs, p.2.launch ≠ lid) →
      (∀ p ∈ s.mats, p.2.launch ≠ lid) → s.onlyLaunch lid → s.portsReady →
      ∃ t, exec (.launchAbort vf val) s = .next t ∧ t.completed lid 0x0A l.queue ∧ t.hub.abort = none ∧ t.slotsOf lid = []))

/-- Range invalidation (R121, R122): the entry is taken; translations of the range leave every unit, and lines of the range leave L1, the
instruction caches and, unless a promotion mark holds them, their homes; lines of other pages without bounds stay. Once no marked line
and no earlier load of the range is left, the entry is over and its DONE word is written: 1, or all ones for an entry that breaks a
limit. (That a bad DONE address is not written is the model's choice (log 72).) -/
def Obligations.RangeInvalidation : Prop :=
  (∀ (s : State) (cp q : Nat), s.slotReady cp q → field (s.slotBytes (qkey cp q)) 0 2 = 2 →
    let i := invOf cp (qkey cp q) (s.slotBytes (qkey cp q))
    ∃ t, exec (.rangeInvalidationEntry cp q) s = .next t ∧ (t.queue (qkey cp q)).head = (s.queue (qkey cp q)).head + 1 ∧
      (∃ x, t.invs = s.invs ++ [x] ∧ x.bad = i.bad ∧ x.start = i.start ∧ x.len = i.len ∧ x.doneVa = i.doneVa) ∧ t.ops = s.ops ∧
      threadsKept s t ∧
      (i.bad = false → (∀ e ∈ t.tlb, i.walk e = false) ∧ (∀ e ∈ s.tlb, i.walk e = false → e ∈ t.tlb) ∧
        (∀ key, i.line key = true → Map.get t.l1 none key = none ∧ Map.get t.icache none key = none ∧
          (s.lineMark key = none → t.hline key = none)) ∧
        (s.uncached (s.queue (qkey cp q)).slotPa → ∀ key, i.line key = false →
          ((∀ c, Map.get s.l1 none key = some c → c.bounded = false) → Map.get t.l1 none key = Map.get s.l1 none key) ∧
          ((∀ h, s.hline key = some h → h.line.bounded = false) → t.hline key = s.hline key)))) ∧
  (∀ (s : State) (cp q pa : Nat) (i : RangeInv) (e : TlbEntry), s.invs.find? (fun x => x.queue = qkey cp q) = some i →
    (i.bad = false → s.invLines i = [] ∧ ∀ o ∈ i.pending, s.op? o = none) →
    i.doneVa.toNat < 2 ^ 52 → i.doneVa.toNat % 8 = 0 → s.plt i.vf i.asid = [] →
    s.walk 8 i.vf i.asid i.doneVa.toNat = .ok e → e.write = true → pa = e.paPage * 4096 + i.doneVa.toNat % 4096 →
    s.viralPa pa = false → s.poolLost pa = false → s.away pa = false →
    ∃ t, exec (.rangeInvalidationDone cp q) s = .next t ∧ (∀ x ∈ t.invs, x.queue ≠ qkey cp q) ∧ threadsKept s t ∧
      (∀ n, n < 8 → t.peek (pa + n) = if i.bad then 0xFF else if n = 0 then 1 else 0) ∧
      ∀ a, a < pa ∨ pa + 8 ≤ a → t.peek a = s.peek a) ∧
  (∀ (s : State) (cp q : Nat) (i : RangeInv), s.invs.find? (fun x => x.queue = qkey cp q) = some i → i.bad = false →
    (∀ k ∈ s.invLines i, s.lineMark k = none) → (∃ o ∈ i.pending, s.op? o ≠ none) → exec (.rangeInvalidationDone cp q) s = .next s)

/-! ## Platform -/

/-- Clock and energy (R19 to R21, R378 to R380): above 2,800 W the clock steps down by 25 MHz, not below 1.00 GHz; below 2,700 W for 100 µs
it steps up, not above 1.75 GHz; at most one step in 10 µs, each logged; the thermal event sets after 1 ms at the lowest clock. A sample
charges each partition the energy of the cores that it owned, its share by bytes moved of a shared unit's energy, and its share by dies
of the idle energy, which holds that of the cores without an owner; each share is rounded down and the rest carried over. A reading is
requested once, written whole in arrival order, and takes the next SEQ; a checkpoint keeps counters, SEQ and BOOT. (The count from reset
of the 10 µs before a step, the list of shared units and the remainders, the first SEQ, the way of a reading to memory, and the
conditions of THERM are the model's choices (logs 80, 42, 43, 45 and 49).) -/
def Obligations.ClockAndEnergy : Prop :=
  (∀ (s : State) (watts : Nat),
    let due := s.power.lastStep + 10000 ≤ s.time
    (2800 < watts → 1000 < s.power.mhz → due → ∃ t, exec (.clockStepDown watts) s = .next t ∧ t.power.mhz = s.power.mhz - 25 ∧
      t.power.lastStep = s.time ∧ s.logged t ∧ computeKept s t) ∧
    (watts ≤ 2800 ∨ s.power.mhz ≤ 1000 ∨ ¬due → ∃ t, exec (.clockStepDown watts) s = .next t ∧ t.power.mhz = s.power.mhz ∧
      t.hub = s.hub ∧ computeKept s t) ∧
    (∀ t0, s.power.cool = some t0 → t0 + 100000 ≤ s.time → watts < 2700 → s.power.mhz < 1750 → due →
      ∃ t, exec (.clockStepUp watts) s = .next t ∧ t.power.mhz = s.power.mhz + 25 ∧ t.power.lastStep = s.time ∧ s.logged t ∧ computeKept s t) ∧
    (2700 ≤ watts ∨ 1750 ≤ s.power.mhz ∨ ¬due → ∃ t, exec (.clockStepUp watts) s = .next t ∧ t.power.mhz = s.power.mhz ∧ t.hub = s.hub ∧
      computeKept s t) ∧
    (∀ t0, s.power.low = some t0 → t0 + 1000000 ≤ s.time → 2800 < watts →
      ∃ t, exec (.thermalLimit watts) s = .next t ∧ (t.evst 0).getLsbD 0 = true ∧ t.power.mhz = s.power.mhz ∧ computeKept s t)) ∧
  (∀ (s : State) (x : EnergyIn) (u n : Nat), s.power.sampled + 1000 ≤ s.time → (∀ d, s.viral d = false) → x.shared = [(u, n)] → u < 24 →
    let e := x.idle + ((x.cores.filter fun c => (s.ownerAt c.1).isNone).map Prod.snd).sum + Map.get s.power.rest 0 0
    let share := fun p => e * s.diesOf p / s.diesAll
    let eu := n + Map.get s.power.rest 0 (1 + u)
    let bytes := ((List.range 8).map (s.bytesMoved u)).sum
    let unitShare := fun p => if p < 8 then eu * s.bytesMoved u p / bytes else 0
    ∃ t, exec (.energySample x) s = .next t ∧ t.power.sampled = s.time ∧ computeKept s t ∧ t.hub = s.hub ∧ t.traffic = [] ∧
      (∀ p, Map.get t.power.nJ 0 p = Map.get s.power.nJ 0 p + s.coreEnergy x.cores p + unitShare p + share p) ∧
      Map.get t.power.rest 0 0 = e - ((List.range 8).map share).sum ∧
      Map.get t.power.rest 0 (1 + u) = eu - ((List.range 8).map unitShare).sum) ∧
  (∀ (s : State) (x : EnergyIn), s.time < s.power.sampled + 1000 → exec (.energySample x) s = .next s) ∧
  (∀ (s : State) (vf : Nat) (val : DWord), vf < 64 →
    (vf ∈ s.hub.busy → exec (.energyRequest vf val) s = .next s) ∧
    (vf ∉ s.hub.busy → ∃ t, exec (.energyRequest vf val) s = .next t ∧ vf ∈ t.hub.busy ∧ computeKept s t ∧
      t.hub.energy = s.hub.energy ++ [(vf, if vf = 0 then bitsOf val.toNat 54 52 else s.partOf vf, bitsOf val.toNat 51 6 * 64)])) ∧
  (∀ (s : State) (vf part dest : Nat) (rest : List (Nat × Nat × Nat)), s.hub.energy = (vf, part, dest) :: rest → vf ∉ rest.map Prod.fst →
    s.hub.busy.Nodup → s.hub.ready.getLsbD 5 = true → s.dead dest = false → s.clearOf dest 2560 →
    ∃ t r, exec (.energyReadingWrite) s = .next t ∧ r.length = 2560 ∧ field r 0 2 = 0x0E01 ∧ field r 2 1 = part % 256 ∧
      field r 4 4 = s.power.boot % 2 ^ 32 ∧ field r 8 8 = Map.get s.power.seq 0 part % 2 ^ 64 ∧
      field r 16 8 = Map.get s.power.nJ 0 part / 1000 % 2 ^ 64 ∧ field r 24 8 = s.power.sampled % 2 ^ 64 ∧
      (∀ a, t.peek a = if dest ≤ a ∧ a < dest + 2560 then r.getD (a - dest) 0 else s.peek a) ∧ computeKept s t ∧
      Map.get t.power.seq 0 part = Map.get s.power.seq 0 part + 1 ∧ t.hub.energy = rest ∧ vf ∉ t.hub.busy ∧
      (t.evst vf).getLsbD 5 = true) ∧
  (∀ s : State,
    (s.time < s.power.checkpointed + 1000000000 → exec .energyCheckpoint s = .next s) ∧
    (s.power.checkpointed + 1000000000 ≤ s.time → ∃ t, exec .energyCheckpoint s = .next t ∧
      t.power.ckpt = (s.power.nJ, s.power.seq, s.power.boot) ∧ t.outbox = s.outbox ++ [.checkpoint] ∧ t.hub = s.hub ∧ computeKept s t))

/-- Resets, boot, attestation and time (R380 to R384): a package reset empties the machine, keeps the counters and SEQ, and raises BOOT; a
loss of always-on power resumes the counters and BOOT from the checkpoint and SEQ 2^32 above it. At boot the first image that passes its
checks runs, and FWSTAT says which failed; with none, the dies stay in reset and only SEC is set. A reply holds the nonce and BOOT
first; a request waits while SEC is clear. An exchange sends a message to the time master; TIME is set within 4 ns of the master and
clear outside; the master's own time is not changed. (That memory, poison and the time stand through a reset, and that a reset brings
the checkpoint's BOOT up to date, is the model's choice, log 44; that dies and records are operands of boot is, log 46; the layout of a
reply after the nonce is, log 47; that the bit clears outside 4 ns, that the master's own time is not changed, and that a master without
a route does not answer are, log 48.) -/
def Obligations.ResetsAndBoot : Prop :=
  (∀ (s : State) (i : Instr), i = .packageReset ∨ i = .alwaysOnPowerLoss →
    ∃ t, exec i s = .next t ∧ t.warps = [] ∧ t.launches = [] ∧ t.queues = [] ∧ t.ops = [] ∧ t.engs = [] ∧ t.mats = [] ∧ t.l1 = [] ∧
      t.home = [] ∧ t.tlb = [] ∧ t.scratch = [] ∧ t.hub = Hub.reset ∧ t.fab = Fabric.reset ∧ t.power.mhz = 1750 ∧
      (i = .packageReset → t.power.boot = s.power.boot + 1 ∧ t.power.nJ = s.power.nJ ∧ t.power.seq = s.power.seq ∧
        t.power.ckpt = (s.power.ckpt.1, s.power.ckpt.2.1, t.power.boot)) ∧
      (i = .alwaysOnPowerLoss → t.power.boot = s.power.ckpt.2.2 + 1 ∧ t.power.nJ = s.power.ckpt.1 ∧
        t.power.ckpt = (t.power.nJ, t.power.seq, t.power.boot) ∧ ∀ p, p < 8 → Map.get t.power.seq 0 p = Map.get s.power.ckpt.2.1 0 p + 2 ^ 32)) ∧
  (∀ (s : State) (f : BootFlash),
    let min := max s.power.minVersion f.minVersion
    let good := fun x : BootImage => Config.verifies x.bytes x.sig = true ∧ min ≤ x.version
    (s.hub.ready.getLsbD 4 = true → exec (.powerUpBoot f) s = .next s) ∧
    (s.power.asks = [] →
    (∀ x st, s.hub.ready.getLsbD 4 = false → f.records = [] → (good f.primary ∧ x = f.primary ∧ st = 0) ∨
        (¬good f.primary ∧ good f.alternate ∧ x = f.alternate ∧ st = 1) →
      ∃ t, exec (.powerUpBoot f) s = .next t ∧ bitsOf t.hub.ready.toNat 23 8 = st ∧ bitsOf t.hub.ready.toNat 31 24 = f.dies.toNat ∧
        t.hub.ready.getLsbD 4 = true ∧ t.power.loaded = [fixLen 32 (Config.digest x.bytes)] ∧ t.power.minVersion = min ∧ computeKept s t) ∧
    (s.hub.ready.getLsbD 4 = false → ¬good f.primary → ¬good f.alternate →
      ∃ t, exec (.powerUpBoot f) s = .next t ∧ t.hub.ready = 0x210 ∧ computeKept s t))) ∧
  (∀ (s : State) (nonce : List Byte) (dest : Nat), s.hub.ready.getLsbD 4 = false → ∃ t, exec (.attestationRequest nonce dest) s = .next t ∧
    t = s.updPower (fun p => { p with asks := p.asks ++ [(nonce, dest)] })) ∧
  (∀ (s : State) (nonce : List Byte) (dest : Nat), s.hub.ready.getLsbD 4 = true → nonce.length = 32 → s.power.asks = [] →
    s.dead dest = false → s.clearOf dest (2464 + s.power.loaded.flatten.length) →
    ∃ t, exec (.attestationRequest nonce dest) s = .next t ∧ t.hub = s.hub ∧ computeKept s t ∧ t.peeks dest 32 = nonce ∧
      natOf (t.peeks (dest + 32) 4) = s.power.boot % 2 ^ 32 ∧ natOf (t.peeks (dest + 36) 8) = s.time % 2 ^ 64) ∧
  (∀ (s : State) (ahead : Bool) (off m : Nat), s.power.master = some m → m ≠ s.chip → m < 4096 →
    ∃ t, exec (.timeExchange ahead off) s = .next t ∧ computeKept s t ∧ t.carries m 4 (Config.timeMessage s.time) ∧
      (s.linked m = true → t.power.offset = off ∧ t.power.ahead = ahead ∧ t.hub.ready.getLsbD 6 = decide (off ≤ 4) ∧
        (4 < off → s.hub.ready.getLsbD 6 = true → (t.evst 0).getLsbD 6 = true)) ∧
      (s.linked m = false → t.power = s.power ∧ t.hub = s.hub)) ∧
  (∀ (s : State) (ahead : Bool) (off : Nat), s.power.master = some s.chip →
    ∃ t, exec (.timeExchange ahead off) s = .next t ∧ computeKept s t ∧ t.power = s.power ∧ t.hub = s.hub)

/-- Host events and readiness (R383, R385, R460): a write of 1 clears an event bit, and the bit of a ring whose condition still holds sets
again; a mask bit that clears while its event is set sends one message on the event's vector; a hub function sets its readiness bit,
TIME only within 4 ns of the time master, and one that fails clears it and raises DIEC, and with COL every collective that has reached
the engine ends. -/
def Obligations.HostEvents : Prop :=
  (∀ (s : State) (vf : Nat) (val : Word), vf < 64 →
    (∃ t, exec (.evstClear vf val) s = .next t ∧ computeKept s t ∧
      (∀ i, i < 32 → (t.evst vf).getLsbD i =
        ((s.evst vf).getLsbD i && !(decide (i < 7) && val.getLsbD i && !s.eventHolds vf i))) ∧ ∀ f, f ≠ vf → t.evst f = s.evst f) ∧
    ((∀ i, i < 7 → (s.msixCtl vf i).getLsbD 0 = false) →
      ∃ t, exec (.evmaskWrite vf val) s = .next t ∧ computeKept s t ∧ t.evmask vf = val &&& 0x7F ∧ t.evst vf = s.evst vf ∧
        t.outbox = s.outbox ++ ((List.range 7).filter fun i =>
          (s.evmask vf).getLsbD i && !val.getLsbD i && (s.evst vf).getLsbD i).map fun i => .msix vf i)) ∧
  (∀ (s : State) (bit : Nat), s.hub.held = [] → s.hub.late = [] → s.power.asks = [] →
    ((3 ≤ bit ∧ bit ≤ 5) ∨ bit = 7 ∨ (32 ≤ bit ∧ bit ≤ 57) →
      ∃ t, exec (.hubFunctionUsable bit) s = .next t ∧ computeKept s t ∧ t.hub.ready = s.hub.ready ||| (1#64 <<< bit)) ∧
    (bit = 6 → ∃ t, exec (.hubFunctionUsable bit) s = .next t ∧ computeKept s t ∧
      t.hub.ready = if s.power.master = some s.chip ∨ (s.power.synced = true ∧ s.power.offset ≤ 4) then s.hub.ready ||| (1#64 <<< 6) else s.hub.ready)) ∧
  (∀ (s : State) (bit : Nat), (bit = 3 ∨ bit = 5 ∨ bit = 6 ∨ (32 ≤ bit ∧ bit < 40)) → s.hub.ready.getLsbD bit = true →
    ∃ t, exec (.readinessBitClears bit) s = .next t ∧ computeKept s t ∧ t.hub.ready = s.hub.ready &&& ~~~(1#64 <<< bit) ∧
      (t.evst 0).getLsbD 6 = true) ∧
  (∀ s : State, s.hub.ready.getLsbD 7 = true → s.noneEnded →
    ∃ t, exec (.readinessBitClears 7) s = .next t ∧ t.hub.ready = s.hub.ready &&& ~~~(1#64 <<< 7) ∧ t.fab.issued = [])

/-- Hub registers (R4, R322, R348, R357, R374, R375, R377, R420, R423, R444): an entry of a partition, a function or a communicator takes
the value written, but for a partition or function with an enabled queue and for a mask of dies that is not available or taken, which is
logged; CIDX starts again when VALID is set. Ring controls keep LOG2 while enabled and refuse a size outside their limits; base
registers are written while disabled alone; a read-only field is written by none, and a virtual function's window reaches none of the
fabric's. (That a write of a partition entry in use leaves no record, and the sizes of accesses, are the model's choices (logs 27 and
79).) -/
def Obligations.HubRegisters : Prop :=
  (∀ (s : State) (i : Nat) (val : BitVec 128), i < 8 →
    let v := val.toNat
    let taken := fun j => j ≠ i ∧ (s.part j).testBit 31 = true ∧ (s.part j % 256 &&& v % 256) ≠ 0
    let bad := (v % 256 &&& s.dies) ≠ v % 256 ∨ (v.testBit 31 = true ∧ ∃ j, j < 8 ∧ taken j)
    let used := ∃ f, f < 64 ∧ s.partOf f = i ∧ s.queueEnabled f = true
    (used → exec (.partitionEntryWrite i val) s = .next s) ∧
    (¬used → bad → ∃ t, exec (.partitionEntryWrite i val) s = .next t ∧ t.hub.parts = s.hub.parts ∧ s.logged t ∧ computeKept s t) ∧
    (¬used → ¬bad → ∃ t, exec (.partitionEntryWrite i val) s = .next t ∧ computeKept s t ∧ t.part i % 256 = v % 256 ∧
      bitsOf (t.part i) 115 31 = bitsOf v 115 31 ∧ bitsOf (t.part i) 30 8 = 0 ∧ t.part i < 2 ^ 116 ∧ ∀ j, j ≠ i → t.part j = s.part j)) ∧
  (∀ (s : State) (f : Nat) (val : BitVec 256), f < 64 →
    (s.queueEnabled f = true → exec (.functionEntryWrite f val) s = .next s) ∧
    (s.queueEnabled f = false → ∃ t, exec (.functionEntryWrite f val) s = .next t ∧ computeKept s t ∧
      bitsOf (t.func f) 63 27 = bitsOf val.toNat 63 27 ∧ bitsOf (t.func f) 115 64 = bitsOf val.toNat 115 64 ∧
      bitsOf (t.func f) 179 128 = bitsOf val.toNat 179 128 ∧ ∀ j, j ≠ f → t.func j = s.func j)) ∧
  (∀ (s : State) (i : Nat) (val : BitVec 256), i < 1024 → s.seqP ≠ s.chip → s.seqS ≠ s.chip →
    ∃ t, exec (.communicatorEntryWrite i val) s = .next t ∧ computeKept s t ∧ t.hub = s.hub ∧ commValid (t.comm i) = val.getLsbD 63 ∧
      commId (t.comm i) = bitsOf val.toNat 47 32 ∧ commRank (t.comm i) = bitsOf val.toNat 31 16 ∧ commVf (t.comm i) = bitsOf val.toNat 53 48 ∧
      commSize (t.comm i) = bitsOf val.toNat 12 0 ∧ commCidx (t.comm i) = (if val.getLsbD 63 then 0 else commCidx (s.comm i)) ∧
      ∀ j, j ≠ i → t.comm j = s.comm j) ∧
  (∀ (s : State) (vf stage : Nat) (val : Word), vf < 64 → stage = 1 ∨ stage = 2 →
    let q := s.pq vf stage
    let log := if q.ctl.getLsbD 15 then q.ctl.toNat % 32 else val.toNat % 32
    (val.getLsbD 15 = true → log < 4 ∨ 16 < log → exec (.pctlWrite vf stage val) s = .next s) ∧
    (val.getLsbD 15 = false ∨ (4 ≤ log ∧ log ≤ 16) → ∃ t y, exec (.pctlWrite vf stage val) s = .next t ∧ computeKept s t ∧
      t.pq vf stage = { q with ctl := y } ∧ y.toNat = log + (if val.getLsbD 15 then 2 ^ 15 else 0))) ∧
  (∀ (s : State) (val : Word),
    let log := if s.hub.lctl.getLsbD 15 then s.hub.lctl.toNat % 32 else val.toNat % 32
    (val.getLsbD 15 = true → log < 6 ∨ 20 < log → exec (.lctlWrite val) s = .next s) ∧
    (val.getLsbD 15 = false ∨ (6 ≤ log ∧ log ≤ 20) → ∃ t, exec (.lctlWrite val) s = .next t ∧ computeKept s t ∧
      t.hub.lctl.toNat = log + (if val.getLsbD 15 then 2 ^ 15 else 0))) ∧
  (∀ (s : State) (vf : Nat) (val : DWord), vf < 64 →
    (∃ t, exec (.registerWrite 0 0x70004 4 val) s = .next t ∧ computeKept s t ∧ t.hub = s.hub ∧
      t.fab.fseq = BitVec.ofNat 32 (val.toNat % 4096)) ∧
    (vf ≠ 0 → exec (.registerWrite vf 0x70004 4 val) s = .next s) ∧
    (∃ t, exec (.registerWrite 0 0xC0014 4 val) s = .next t ∧ computeKept s t ∧ t.hub.lcons = val.setWidth 32 ∧ t.hub.lprod = s.hub.lprod) ∧
    (∃ t, exec (.registerWrite 0 0xC0018 4 val) s = .next t ∧ computeKept s t ∧ t.hub.ldrop = s.hub.ldrop &&& ~~~(val.setWidth 32)) ∧
    (exec (.registerWrite 0 0xC0010 4 val) s = .next s) ∧
    (∃ t, exec (.registerWrite vf 0xB0014 4 val) s = .next t ∧ computeKept s t ∧ (t.pq vf 1).cons = val.setWidth 16 ∧
      (t.pq vf 1).prod = (s.pq vf 1).prod) ∧
    (s.hub.lctl.getLsbD 15 = true → exec (.registerWrite 0 0xC0000 8 val) s = .next s) ∧
    (s.hub.lctl.getLsbD 15 = false → ∃ t, exec (.registerWrite 0 0xC0000 8 val) s = .next t ∧ computeKept s t ∧
      t.hub.lbase = BitVec.ofNat 64 (bitsOf val.toNat 51 12 * 4096)))

/-! ## Links, far memory and collectives -/

/-- Yunel Link (R346 to R348, R453, R454): a flit of the awaited SEQ is accepted and its messages wait for this chip; any other is
discarded, and a resend is asked for once. A resend sends every kept flit from a SEQ on, as first sent. With the 16th request for one
SEQ a port retrains; meanwhile it takes and sends nothing. It trains again at the width that it reaches and sends every kept flit, or,
where none has trained within 10 ms, goes down: its LINK bit clears and nothing waits on it. A stopped channel sends nothing until it
may go. (That a port that has not asked retrains with the far side is DEDUCED, log 41.) (That a corrupted flit asks again, and that a
link first comes up at eight lanes, are the model's choices (logs 41 and 28).) -/
def Obligations.Links : Prop :=
  (∀ (s : State) (p : Nat) (f : Flit), (s.port p).width ≠ 0 → (s.port p).retrain = none → s.quietCol →
    (f.good = true → f.vc.toNat < 5 → f.seq = (s.port p).rxSeq → f.dest.toNat = s.chip → (s.port p).wait = [] →
      ∃ t, exec (.flitReceive p f) s = .next t ∧ fabricOnly s t ∧ t.outbox = s.outbox ∧ (t.port p).rxSeq = (s.port p).rxSeq + 1 ∧
        (f.vc ≠ 3 → t.fab.inbox = s.fab.inbox ++ [(f.src.toNat, f.vc.toNat, f.payload)]) ∧
        (f.vc = 3 → f.payload.length = 32 → t.fab.inbox = s.fab.inbox ++ [(f.src.toNat, 3, f.payload)])) ∧
    (f.good = false → ∃ t, exec (.flitReceive p f) s = .next t ∧ fabricOnly s t ∧ t.fab.inbox = s.fab.inbox ∧
      (t.port p).rxSeq = (s.port p).rxSeq ∧ t.outbox = s.outbox ++ [.resend p (s.port p).rxSeq] ∧
      (t.port p).asked = (s.port p).asked + 1 ∧ (t.port p).retrain = (if 16 ≤ (s.port p).asked + 1 then some s.time else none) ∧
      ((s.port p).crc ≠ BitVec.allOnes 32 → (t.port p).crc = (s.port p).crc + 1)) ∧
    (f.good = true → f.vc.toNat < 5 → f.seq ≠ (s.port p).rxSeq → ∃ t, exec (.flitReceive p f) s = .next t ∧ fabricOnly s t ∧
      t.fab.inbox = s.fab.inbox ∧ (t.port p).rxSeq = (s.port p).rxSeq ∧
      t.outbox = s.outbox ++ (if (s.port p).gap then [] else [.resend p (s.port p).rxSeq]))) ∧
  (∀ (s : State) (p q : Nat) (f : Flit), s.quietCol → (s.port p).width ≠ 0 → (s.port p).retrain = none → f.good = true → f.vc.toNat < 5 → f.seq = (s.port p).rxSeq →
    f.dest.toNat ≠ s.chip → s.route f.dest.toNat = some q → q ≠ p → (s.port q).width ≠ 0 → (s.port q).retrain = none → (s.port p).wait = [] → (s.port q).wait = [] →
    (s.port q).retry.length < 512 → (s.port q).stop.getLsbD f.vc.toNat = false →
    ∃ t g, exec (.flitReceive p f) s = .next t ∧ fabricOnly s t ∧ t.fab.inbox = s.fab.inbox ∧ t.outbox = s.outbox ++ [.flit q g] ∧
      g.dest = f.dest ∧ g.src = f.src ∧ g.vc = f.vc ∧ g.payload = f.payload ∧ g.seq = (s.port q).txSeq ∧
      (t.port q).retry = (s.port q).retry ++ [g] ∧ (t.port q).txSeq = (s.port q).txSeq + 1) ∧
  (∀ (s : State) (p : Nat) (n : Word), (s.port p).retrain ≠ none → exec (.resendRequest p n.toNat) s = .next s) ∧
  (∀ (s : State) (p : Nat) (f : Flit), (s.port p).retrain ≠ none → s.quietCol →
    ∃ t, exec (.flitReceive p f) s = .next t ∧ fabricOnly s t ∧ t.fab.inbox = s.fab.inbox ∧ t.outbox = s.outbox ∧ t.port p = s.port p) ∧
  (∀ (s : State) (p : Nat) (n : Word), (s.port p).width ≠ 0 → (s.port p).retrain = none →
    ∃ t, exec (.resendRequest p n.toNat) s = .next t ∧ t.fab = s.fab ∧ fabricOnly s t ∧
      t.outbox = s.outbox ++ ((s.port p).retry.dropWhile fun f => f.seq ≠ n).map fun f => .flit p f) ∧
  (∀ (s : State) (p : Nat) (w : LinkWidth), (s.port p).width ≠ 0 → (s.port p).wait = [] →
    ∃ t, exec (.linkRetrain p w) s = .next t ∧ fabricOnly s t ∧
      (t.port p).width = (match w with | .two => 1 | .four => 2 | .eight => 3) ∧
      (t.port p).rtrn = (if (s.port p).rtrn = 0xFFFF then 0xFFFF else (s.port p).rtrn + 1) ∧ (t.port p).retry = (s.port p).retry ∧
      (t.port p).asked = 0 ∧ (t.port p).retrain = none ∧ ((t.port p).width ≠ (s.port p).width → s.logged t) ∧
      ((t.port p).width = (s.port p).width → t.outbox = s.outbox ++ (s.port p).retry.map fun f => .flit p f)) ∧
  (∀ (s : State) (p : Nat), (s.port p).width ≠ 0 →
    ((s.port p).retrain = none → ∃ t, exec (.linkDown p) s = .next t ∧ fabricOnly s t ∧ t.port p = { s.port p with retrain := some s.time } ∧
      t.outbox = s.outbox) ∧
    (∀ t0, (s.port p).retrain = some t0 →
      (s.time < t0 + 10000000 → exec (.linkDown p) s = .next s) ∧
      (t0 + 10000000 ≤ s.time →
        ∃ t, exec (.linkDown p) s = .next t ∧ computeKept s t ∧ (t.port p).width = 0 ∧ (t.port p).retry = [] ∧ (t.port p).wait = [] ∧
          (p < 18 → t.hub.ready.getLsbD (40 + p) = false ∧ (s.hub.ready.getLsbD (40 + p) = true → (t.evst 0).getLsbD 6 = true))))) ∧
  (∀ (s : State) (p vc : Nat) (go : Bool), p < 18 → vc < 5 → (s.port p).wait = [] →
    ∃ t, exec (.stopGoSignal p vc go) s = .next t ∧ fabricOnly s t ∧ (t.port p).stop.getLsbD vc = !go ∧ t.outbox = s.outbox ∧
      ∀ c, c ≠ vc → (t.port p).stop.getLsbD c = (s.port p).stop.getLsbD c)

/-- Apertures and the pool (R350, R351, R354, R355, R383, R428, R439, R440, R454): a host access waits while the HOST bit is clear, and one
of another chip is lost on a route that is down. An access that its entry does not admit is answered in error and changes nothing; an
admitted read answers the bytes of the line, and a write puts its bytes there; either waits behind a held write of the line. A
back-invalidation writes the dirty sectors of a line back, and for the invalidating kind the line leaves the pool cache, but a dirty one
of a lost range stays. A lost range loses its clean lines and poisons its dirty ones in every sector, keeps no copy of them above its
home, and is logged; LOST clears by a 1 while the range is up. (That a range's addresses come with the event that makes it reachable is
the model's choice, log 19; that a lost range is no longer up is DEDUCED, log 29.) -/
def Obligations.FarMemory : Prop :=
  (∀ (s : State) (x : ApertureAcc),
    (x.fromHost = true → s.hub.ready.getLsbD 3 = false → ∃ t, exec (.apertureAccess x) s = .next t ∧ t.hub.held = s.hub.held ++ [x] ∧
      t.outbox = s.outbox ∧ (∀ a, t.peek a = s.peek a) ∧ computeKept s t) ∧
    (x.fromHost = false → s.linked x.src = false → exec (.apertureAccess x) s = .next s)) ∧
  (∀ (s : State) (x : ApertureAcc), s.apHeard x → apAdmits (Map.get s.hub.apertures 0 x.index) x = false →
    ∃ t, exec (.apertureAccess x) s = .next t ∧ t.outbox = s.outbox ++ [.answer false []] ∧ t.home = s.home ∧
      (∀ a, t.peek a = s.peek a) ∧ computeKept s t) ∧
  (∀ (s : State) (x : ApertureAcc) (key n : Nat) (h : HLine),
    let e := Map.get s.hub.apertures 0 x.index
    let va := apVa e + x.offset
    s.apHeard x → apAdmits e x = true → s.hline key = some h → 0 < n → va % 32 + n ≤ 32 →
    s.storeHeld (apOwner e) (apAsid e) (va / 128) = false →
    (x.kind = .read n → s.touch ⟨apOwner e, apAsid e, 0, 0⟩ va .read = .ok s key → h.line.poisoned (secOf va) = false →
      ∃ t, exec (.apertureAccess x) s = .next t ∧ t.outbox = s.outbox ++ [.answer true ((h.line.data.drop (va % 128)).take n)] ∧
        t.home = s.home ∧ (∀ a, t.peek a = s.peek a) ∧ computeKept s t) ∧
    (∀ d, x.kind = .write d → d.length = n → s.touch ⟨apOwner e, apAsid e, 0, 0⟩ va .write = .ok s key → s.noWaypoint →
      ∃ t h', exec (.apertureAccess x) s = .next t ∧ t.outbox = s.outbox ++ [.answer true []] ∧ t.hline key = some h' ∧
        h'.line.data = splice h.line.data (va % 128) d ∧ h'.dirty = h.dirty ||| (1#4 <<< secOf va) ∧ s.linesKept t key ∧
        (∀ a, t.peek a = s.peek a) ∧ t.warps = s.warps)) ∧
  (∀ (s : State) (pa key : Nat) (h : HLine), s.poolLines pa = [key] → s.hline key = some h → s.poolLost h.pa = true →
    ∃ t, exec (.bisnpinv pa) s = .next t ∧ t.outbox = s.outbox ++ [.birsp pa] ∧ t.hline key = some h ∧ ∀ a, t.peek a = s.peek a) ∧
  (∀ (s : State) (pa key : Nat) (h : HLine), s.poolLine pa key h →
    (∃ t, exec (.bisnpinv pa) s = .next t ∧ t.outbox = s.outbox ++ [.birsp pa] ∧ writtenBack s t h ∧ t.hline key = none ∧
      s.linesKept t key ∧ (∀ c ∈ h.sharers, t.l1Line c (keyVf key) (keyAsid key) (keyVa key) = none)) ∧
    (∃ t, exec (.bisnpdata pa) s = .next t ∧ t.outbox = s.outbox ++ [.birsp pa] ∧ writtenBack s t h ∧
      t.hline key = some { h with dirty := 0, pool := .shared } ∧ s.linesKept t key ∧ t.l1 = s.l1)) ∧
  (∀ (s : State) (port dec : Nat), port < 4 → dec < 4 →
    let r := s.poolReg port
    (r.getLsbD (8 + dec) = true → exec (.poolRangeLost port dec) s = .next s) ∧
    (r.getLsbD (8 + dec) = false → s.rangeLines port dec = [] →
      ∃ t, exec (.poolRangeLost port dec) s = .next t ∧ (t.poolReg port).getLsbD (8 + dec) = true ∧ (t.poolReg port).getLsbD dec = false ∧
        bitsOf (t.poolReg port).toNat 39 16 = 0 ∧ s.logged t ∧ threadsKept s t ∧ t.home = s.home ∧ t.l1 = s.l1 ∧
        ∀ k, s.pooled (keyVf k) (keyAsid k) (keyVa k) = true → Map.find? t.icache k = none) ∧
    (∀ key dirty h, r.getLsbD (8 + dec) = false → s.rangeLines port dec = [(key, dirty)] → s.hline key = some h →
      ∃ t, exec (.poolRangeLost port dec) s = .next t ∧ s.linesKept t key ∧
        t.hline key = (if dirty then some { h with line := { h.line with poison := 0xF }, dirty := 0xF } else none) ∧
        (∀ c ∈ h.sharers, t.l1Line c (keyVf key) (keyAsid key) (keyVa key) = none) ∧
        bitsOf (t.poolReg port).toNat 39 16 = if dirty then 1 else 0) ∧
    (∀ lo hi, ∃ t, exec (.poolRangeReachable port ⟨dec, lo, hi⟩) s = .next t ∧ computeKept s t ∧ t.poolReg port = r ||| (1#64 <<< dec) ∧
      Map.get t.hub.hdm (0, 0) (4 * port + dec) = (lo, hi)) ∧
    (∀ val : DWord, ∃ t, exec (.poolLostClear port val) s = .next t ∧ computeKept s t ∧
      ∀ i, i < 64 → (t.poolReg port).getLsbD i = (r.getLsbD i && !(decide (8 ≤ i ∧ i < 12) && val.getLsbD i && r.getLsbD (i - 8)))))

/-- The sequencers (R359 to R362, R455 to R457; the layouts of their messages by log 23): the primary grants a new key of a known
communicator the next milepost, and sends REPLICATE, or a lone one the NOTICE; it answers an unknown communicator with UNKNOWN and
discards a key that it has granted; a REQUEST that comes while it waits for the standby, or for L, is kept in its turn. The standby
keeps what it is sent and acknowledges it; the NOTICE then leaves for every member. A key that every member has reported is dropped. The
standby that has heard no HEARTBEAT for 100 µs takes over: 65,537 beyond the highest milepost that it holds, alone, and logged. -/
def Obligations.Sequencers : Prop :=
  (∀ (s : State) (src : Nat) (m : ColMsg), s.arrived src (colBytes 1 m.asRequest) → s.seqP = s.chip → s.seqWaits = true →
    ∃ t, exec (.request src m) s = .next t ∧ fabricOnly s t ∧ t.fab.seq.waiting = s.fab.seq.waiting ++ [(src, m.asRequest)] ∧
      t.fab.seq.grants = s.fab.seq.grants ∧ t.outbox = s.outbox) ∧
  (∀ (s : State) (src : Nat) (m : ColMsg), s.arrived src (colBytes 1 m.asRequest) → s.seqP = s.chip → s.fab.seq.waiting = [] →
    s.seqWaits = false →
    (s.seqMembers m.id.toNat = none → ∃ t, exec (.request src m) s = .next t ∧ t.fab.seq = s.fab.seq ∧ fabricOnly s t ∧
      t.carries src 3 (colBytes 3 m.asUnknown)) ∧
    (∀ ms g, s.seqMembers m.id.toNat = some ms → g ∈ s.fab.seq.grants → g.msg.sameKey m = true →
      ∃ t, exec (.request src m) s = .next t ∧ t.fab.seq = s.fab.seq ∧ fabricOnly s t ∧ t.outbox = s.outbox) ∧
    (∀ ms, s.seqMembers m.id.toNat = some ms → (∀ g ∈ s.fab.seq.grants, g.msg.sameKey m = false) → s.grantable ms = true →
      ∃ t g, exec (.request src m) s = .next t ∧ fabricOnly s t ∧ t.fab.seq.grants = s.fab.seq.grants ++ [g] ∧
        t.fab.seq.next = s.fab.seq.next + 1 ∧ g.msg = { m with milepost := s.fab.seq.next } ∧ g.members = ms ∧ g.reported = [] ∧
        g.sent = s.fab.seq.alone ∧ t.fab.seq.waiting = [] ∧
        (s.fab.seq.alone = false → t.carries s.seqS 3 (colBytes 5 g.msg)) ∧
        (s.fab.seq.alone = true → ∀ c ∈ ms, t.carries c 3 (colBytes 2 g.msg)))) ∧
  (∀ (s : State) (src : Nat) (m : ColMsg), s.arrived src (colBytes 5 m) → s.seqS = s.chip → src = s.seqP →
    ∃ t, exec (.replicate src m) s = .next t ∧ fabricOnly s t ∧ t.fab.seq.copies = s.fab.seq.copies ++ [m] ∧
      t.fab.seq.high = m.milepost ∧
      t.carries src 3 (statBytes 16 m.milepost.toNat 0)) ∧
  (∀ (s : State) (src : Nat) (m : Word) (g : Grant), s.arrived src (statBytes 16 m.toNat 0) → s.seqP = s.chip → src = s.seqS →
    s.fab.seq.grants = [g] → g.sent = false → g.msg.milepost = m → s.fab.seq.waiting = [] →
    ∃ t, exec (.replicateAck src m.toNat) s = .next t ∧ fabricOnly s t ∧ t.fab.seq.grants = [{ g with sent := true }] ∧
      ∀ c ∈ g.members, t.carries c 3 (colBytes 2 g.msg)) ∧
  (∀ (s : State) (src : Nat) (m : Word) (st : Byte) (g : Grant), s.arrived src (statBytes 4 m.toNat st.toNat) → s.seqP = s.chip →
    s.fab.seq.grants = [g] → g.msg.milepost = m → src ∈ g.members → src ∉ g.reported → s.fab.seq.waiting = [] →
    ∃ t, exec (.report src m.toNat st.toNat) s = .next t ∧ fabricOnly s t ∧
      t.fab.seq.grants = if ∀ c ∈ g.members, c = src ∨ c ∈ g.reported then [] else [{ g with reported := src :: g.reported }]) ∧
  (∀ s : State, s.seqP = s.chip →
    (s.time < s.fab.seq.beat + 10000 → exec .heartbeatSend s = .next s) ∧
    (s.fab.seq.beat + 10000 ≤ s.time → ∃ t, exec .heartbeatSend s = .next t ∧ fabricOnly s t ∧ t.fab.seq.beat = s.time ∧
      t.carries s.seqS 3 (statBytes 6 s.seqL.toNat 0))) ∧
  (∀ (s : State) (src : Nat) (l : Word), s.arrived src (statBytes 6 l.toNat 0) → s.seqS = s.chip → src = s.seqP →
    ∃ t, exec (.heartbeat src l.toNat) s = .next t ∧ fabricOnly s t ∧ t.fab.seq.beat = s.time ∧ t.fab.seq.oldest = l ∧
      t.fab.seq.copies = s.fab.seq.copies.filter fun m => !precedes m.milepost l) ∧
  (∀ s : State, s.seqS = s.chip → s.seqP ≠ s.chip →
    (s.time < s.fab.seq.beat + 100000 → exec .sequencerTakeover s = .next s) ∧
    (s.fab.seq.beat + 100000 ≤ s.time → ∃ t, exec .sequencerTakeover s = .next t ∧ computeKept s t ∧
      t.fab.fseq = BitVec.ofNat 32 s.chip ∧ t.fab.seq.next = s.fab.seq.high + 65537 ∧ t.fab.seq.alone = true ∧ t.fab.seq.copies = [] ∧
      (t.fab.seq.grants.map fun g => g.msg) = s.fab.seq.copies ∧
      ∀ c ∈ s.podChips, t.carries c 3 (takeoverBytes s.chip (s.fab.seq.high + 65537).toNat))) ∧
  (∀ (s : State) (src new : Nat) (first : Word), new < 4096 → s.arrived src (takeoverBytes new first.toNat) → s.fab.issued = [] →
    s.fab.reports = [] → ∃ t, exec (.takeover src new first.toNat) s = .next t ∧ fabricOnly s t ∧ t.seqP = new)

/-- Collectives on a chip (R302, R357, R361, R363, R458, R459): a NOTICE joins those held, in milepost order, and gives its `col` its
milepost; when the part of the oldest is done, and every member has told that its receive buffer is written, its `col` ends with status
0, its counter drops after its status register is written, and the primary is sent a REPORT. A `col` ends with status 2 at UNKNOWN and
with the status of a CANCELLED; the first CANCEL decides, and every member is told; a part that has waited for another member for the
time of COLTO asks for status 3. (The message that tells so is the model's own, log 23.) -/
def Obligations.Collectives : Prop :=
  (∀ (s : State) (src : Nat) (m : ColMsg), s.arrived src (colBytes 2 m) → src = s.seqP → s.fab.issued = [] → s.fab.reports = [] →
    (∀ n ∈ s.fab.notices, n.msg.sameKey m = false) →
    ∃ t, exec (.notice src m) s = .next t ∧ fabricOnly s t ∧ (∃ as bs, s.fab.notices = as ++ bs ∧ t.fab.notices = as ++ [⟨m, none⟩] ++ bs ∧
      (∀ n ∈ as, precedes m.milepost n.msg.milepost = false) ∧ ∀ n, bs.head? = some n → precedes m.milepost n.msg.milepost = true)) ∧
  (∀ (s : State) (n : Notice) (i : Issued) (e : EngOp), s.fab.notices = [n] → s.fab.issued = [i] → n.cancelled = none → i.keyed n.msg = true →
    s.eng? i.op = some e → e.allDone = true → e.fault = none → e.txb = none → i.asked = false → i.milepost = some n.msg.milepost →
    i.wrote = true → s.noneEnded → (s.warp e.slot).live = true → (s.warp e.slot).uid = e.uid →
    (s.allWrote n.msg i = false → exec (.collectivePartComplete n.msg.milepost.toNat) s = .next s) ∧
    (s.allWrote n.msg i = true → ∃ t, exec (.collectivePartComplete n.msg.milepost.toNat) s = .next t ∧ s.engGone t i.op e ∧ (t.warp e.slot).s e.sd = 0 ∧
      t.fab.issued = [] ∧ t.fab.notices = [] ∧ (∃ r ∈ t.fab.reports, r.milepost = n.msg.milepost ∧ r.status = 0 ∧ r.is n.msg = true) ∧
      t.carries s.seqP 3 (statBytes 4 n.msg.milepost.toNat 0))) ∧
  (∀ (s : State) (src : Nat) (m : ColMsg) (i : Issued) (e : EngOp), s.arrived src (colBytes 3 m.asUnknown) → src = s.seqP →
    s.fab.issued = [i] → i.keyed m = true → i.milepost = none → s.eng? i.op = some e → e.fault = none → e.txb = none → s.noneEnded →
    (s.warp e.slot).live = true → (s.warp e.slot).uid = e.uid →
    ∃ t, exec (.unknown src m) s = .next t ∧ s.engGone t i.op e ∧ (t.warp e.slot).s e.sd = 2 ∧ t.fab.issued = []) ∧
  (∀ (s : State) (src : Nat) (m : Word) (st : Byte) (i : Issued) (e : EngOp), s.arrived src (statBytes 9 m.toNat st.toNat) → src = s.seqP →
    s.fab.issued = [i] → i.milepost = some m → s.fab.notices.all (fun n => i.keyed n.msg) = true → s.eng? i.op = some e →
    e.fault = none → e.txb = none → s.noneEnded → (s.warp e.slot).live = true → (s.warp e.slot).uid = e.uid →
    ∃ t, exec (.cancelled src m.toNat st.toNat) s = .next t ∧ s.engGone t i.op e ∧ ((t.warp e.slot).s e.sd).toNat = st.toNat ∧
      t.fab.issued = [] ∧ t.fab.notices = [] ∧ t.carries s.seqP 3 (statBytes 4 m.toNat st.toNat)) ∧
  (∀ (s : State) (src : Nat) (m : Word) (st : Byte) (g : Grant), s.arrived src (statBytes 8 m.toNat st.toNat) → s.seqP = s.chip →
    s.fab.seq.grants ++ s.fab.seq.lost = [g] → g.msg.milepost = m →
    (g.status = none → ∃ t, exec (.cancel src m.toNat st.toNat) s = .next t ∧ fabricOnly s t ∧
      t.fab.seq.grants ++ t.fab.seq.lost = [{ g with status := some st.toNat }] ∧ ∀ c ∈ g.members, t.carries c 3 (statBytes 9 m.toNat st.toNat)) ∧
    (g.status ≠ none → ∃ t, exec (.cancel src m.toNat st.toNat) s = .next t ∧ fabricOnly s t ∧ t.fab.seq = s.fab.seq ∧ t.outbox = s.outbox)) ∧
  (∀ (s : State) (m : Word) (i : Issued) (t0 : Nat), s.fab.issued = [i] → i.milepost = some m → i.waits = some t0 →
    i.asked = false → s.fab.colto ≠ 0 →
    (s.time < t0 + s.fab.colto.toNat * 1000 → exec (.collectiveTimeout m.toNat) s = .next s) ∧
    (t0 + s.fab.colto.toNat * 1000 ≤ s.time → ∃ t, exec (.collectiveTimeout m.toNat) s = .next t ∧ fabricOnly s t ∧
      t.fab.issued = [{ i with asked := true }] ∧ t.carries s.seqP 3 (statBytes 8 m.toNat 3)))

/-- Errors and the loss of a die (R406, R431, R433, R437, R446 to R448, R452, R462): an uncorrectable error poisons one sector and is
logged; one in the state of a core aborts a launch that has no waypoint, with code 0x000A, but one in a warp of a pair of an assured
launch is a mismatch of the clause that the pair has in issue, which is issued again from its header on, or of the next one where the
pair has none in issue; corrected errors of a structure and domain are logged once a second. A die with a fatal error enters the viral
state once: its DIE bit clears, and no line or translation of it is left; a launch with blocks on it will complete as aborted. Its dump
is written once. (The layout of a dump, what a lost die takes with it, that a launch runs on elsewhere, and which clause an error in a
pair is a mismatch of, are the model's choices (logs 47, 51, 54, 56 and 57).) -/
def Obligations.Containment : Prop :=
  (∀ (s : State) (d pa : Nat), paKind pa = .hbm d →
    ∃ t, exec (.uncorrectableError (.hbm d pa)) s = .next t ∧ Map.get t.poison false (pa / 32) = true ∧
      (∀ k, k ≠ pa / 32 → Map.get t.poison false k = Map.get s.poison false k) ∧ s.logged t ∧ t.home = s.home ∧ t.warps = s.warps) ∧
  (∀ (s : State) (core b off : Nat), (s.block b).live = true → core ∈ (s.block b).cores → off < (s.block b).slice →
    ∃ t, exec (.uncorrectableError (.scratchpad core b off)) s = .next t ∧ (t.spSide b ((s.block b).cores.idxOf core) off).2 = true ∧
      (t.spSide b ((s.block b).cores.idxOf core) off).1 = (s.spSide b ((s.block b).cores.idxOf core) off).1 ∧ t.scratch = s.scratch ∧
      s.logged t) ∧
  (∀ (s : State) (site : EccSite) (d asid va key : Nat) (h : HLine), (d < 8 ∧ site = .l2 d asid va) ∨ (d = 8 ∧ site = .poolCache asid va) →
    linesAt d asid va s.home.keys = [key] → s.hline key = some h → ∃ t h', exec (.uncorrectableError site) s = .next t ∧ t.hline key = some h' ∧ h'.line.poisoned (secOf va) = true ∧
      h'.line.data = h.line.data ∧ h'.line.bnds = h.line.bnds ∧ s.linesKept t key ∧ s.logged t) ∧
  (∀ (s : State) (core asid va key : Nat) (c : CLine), linesAt core asid va s.l1.keys = [key] → Map.get s.l1 none key = some c →
    ∃ t c', exec (.uncorrectableError (.l1 core asid va)) s = .next t ∧ Map.get t.l1 none key = some c' ∧ c'.poisoned (secOf va) = true ∧
      c'.data = c.data ∧ c'.bnds = c.bnds ∧ t.home = s.home ∧ s.logged t) ∧
  (∀ (s : State) (lid kind slot : Nat) (l : Launch), s.launch? lid = some l → l.st = .running → l.rolling = none → 1 ≤ kind → kind ≤ 5 →
    (∀ a b, s.pairOf slot = some (a, b) → (s.warp slot).live = true → (s.warp slot).launch = lid → kind = 1 ∨ kind = 4 →
      (s.warp a).lag = [] → a ≠ b →
      let w := s.warp a
      (w.issue = 0 ∨ w.clause = none ∨ w.hold ≠ .none → ∃ t, exec (.uncorrectableStateError lid kind slot) s = .next t ∧ s.logged t ∧
        t.launches = s.launches ∧ t.ops = s.ops ∧ t.warp a = { w with struck := true } ∧ ∀ k, k ≠ a → t.warp k = s.warp k) ∧
      (∀ c r, w.issue ≠ 0 → w.clause = some c → w.hold = .none → w.pairRec = r →
        ∃ t, exec (.uncorrectableStateError lid kind slot) s = .next t ∧ s.logged t ∧ t.launches = s.launches ∧ t.ops = s.ops ∧
          (∃ q ∈ (t.warp a).recs, q.no = r.no ∧ q.redo = some (r.redo.getD 0 ||| r.lanes)) ∧ (∀ k, k ≠ a → k ≠ b → t.warp k = s.warp k) ∧
          (t.warp a).issue = r.back w ∧ (t.warp b).issue = r.back w ∧ ∀ l, l < 32 → (r.back w).getLsbD l = true →
            ((t.warp a).thr l).pc = (Map.get r.lead.threads (w.thr l) l).pc ∧ ∀ n, (((t.warp a).thr l).latch n) = Latch.none)) ∧
    (l.waypoint = false → s.pairOf slot = none ∨ (kind ≠ 1 ∧ kind ≠ 4) → s.onlyLaunch lid → s.portsReady →
      ∃ t, exec (.uncorrectableStateError lid kind slot) s = .next t ∧ t.completed lid 0x0A l.queue ∧ t.slotsOf lid = [])) ∧
  (∀ (s : State) (kind domain count : Nat), 1 ≤ kind → kind ≤ 5 → domain ≤ 8 → 0 < count →
    (∀ t0, Map.get s.hub.corrected none (kind * 16 + domain) = some t0 → s.time < t0 + 1000000000 →
      exec (.correctedErrorRecord kind domain count) s = .next s) ∧
    ((∀ t0, Map.get s.hub.corrected none (kind * 16 + domain) = some t0 → t0 + 1000000000 ≤ s.time) →
      ∃ t, exec (.correctedErrorRecord kind domain count) s = .next t ∧ s.logged t ∧ computeKept s t ∧
        Map.get t.hub.corrected none (kind * 16 + domain) = some s.time)) ∧
  (∀ (s : State) (d cause : Nat), 0 < cause → cause ≤ 6 →
    (s.present d = false → exec (.dieFatalError d cause) s = .next s) ∧
    (s.present d = true → s.lostPromos d = [] → (s.affected d = [] →
        ∃ t, exec (.dieFatalError d cause) s = .next t ∧ t.viral d = true ∧ t.hub.ready.getLsbD (24 + d) = false ∧
          (t.evst 0).getLsbD 6 = true ∧ s.logged t ∧ (∀ key, keyUnit key = d → t.hline key = none) ∧
          (∀ e ∈ t.tlb, e.unit ≠ d) ∧ (∀ key, keyUnit key ≠ d → ∀ h, s.hline key = some h → (t.hline key).map (·.line) = some h.line) ∧
          t.warps = s.warps) ∧
      (∀ lid l, s.affected d = [lid] → s.launch? lid = some l → l.repl = false → ∃ t x, exec (.dieFatalError d cause) s = .next t ∧
        t.viral d = true ∧ t.launch? lid = some x ∧ x.aborted = true))) ∧
  (∀ (s : State) (d len : Nat), d < 8 → s.viral d = true → s.hub.dumpBase ≠ 0 → 2444 ≤ len → len ≤ 2 ^ 20 →
    s.dead s.hub.dumpBase.toNat = false → s.clearOf s.hub.dumpBase.toNat len →
    (d ∈ s.hub.dumped → exec (.stateDumpComplete d len) s = .next s) ∧
    (d ∉ s.hub.dumped → s.hub.lctl.getLsbD 15 = false → ∃ t, exec (.stateDumpComplete d len) s = .next t ∧ d ∈ t.hub.dumped ∧ s.logged t ∧
      natOf (t.peeks s.hub.dumpBase.toNat 2) = 0x0D01 ∧ natOf (t.peeks (s.hub.dumpBase.toNat + 4) 4) = s.power.boot % 2 ^ 32 ∧
      natOf (t.peeks (s.hub.dumpBase.toNat + 8) 8) = s.time % 2 ^ 64 ∧
      ∀ a, a < s.hub.dumpBase.toNat ∨ s.hub.dumpBase.toNat + len ≤ a → t.peek a = s.peek a))

/-! ## Encoding, steps and reset -/

/-- Decoding gives back what was encoded (R157 to R181): every well-formed instruction of one word or of two is read from the words that
encode it, with every operand at every value that the encoding admits; a second word does not matter to an instruction of one. -/
def Obligations.DecodeEncode : Prop :=
  ∀ i : Instr, wf i = true →
    (∃ w, encode i = [w] ∧ ∀ v : Word, decodeTableWord 64 (w.toNat + 2 ^ 32 * v.toNat) = some i) ∨
    (∃ w v, encode i = [w, v] ∧ decodeTableWord 64 (w.toNat + 2 ^ 32 * v.toNat) = some i)

/-- Words that the manual spells out are read as what they stand for (R182 and the worked examples of the manual). -/
def Obligations.DecodeWords : Prop :=
  decodeTableWord 32 0xF3210000 = some (.clauseHeader 3 1 2 false) ∧
  decodeTableWord 32 0x27840102 = some (.vFmulF32 4 (.v 1) (.v 2)) ∧
  decodeTableWord 64 (0x31006260 + 2 ^ 32 * 0x048AE001) =
    some (.ffmaF32 ⟨6, false, 1, ⟨3, false⟩, 0, 0, false, .rne, 1⟩ (.v 4) (.s 10) (.fk 0)) ∧
  decodeTableWord 32 0x2687E805 = some (.vFaddF32 7 .l0 (.v 5)) ∧
  decodeTableWord 64 (0x60018811 + 2 ^ 32 * 0x01026840) =
    some (.ld ⟨3, 2, 2, 1, 16, .b32, .dev, .acq, .iadd, true, false, false, 0⟩) ∧
  decodeTableWord 32 0xA007FFF0 = some (.bra 0x7FFF0) ∧ decodeTableWord 32 0xD0000000 = none

/-- A step runs the decoded instruction (R33, R160, R182, R338). A warp that has the turn and a group in issue executes what its words
decode to, at the state with that turn taken: in a clause the instruction at the PC, at a header the header fetched there, and where the
word is no instruction the step of R182. The leading warp of a pair runs it ahead of its partner or with it, and the trailing one what
the leading one has issued before it; every other pair then follows. A clause that `rte` has entered again and whose words no fetch has
brought yet is read first (log 75). (The schedule, and how far the leading warp of a pair runs ahead, are the model's choices (logs 1
and 57).) -/
def Obligations.StepRunsDecoded : Prop :=
  ∀ (s : State) (k : Nat) (rest : List Turn) (c : Clause),
    let z : State := { s with turns := rest }
    let x : State := { s with turns := rest, cur := k }
    let w := s.warp k
    s.turns = .issue k :: rest → z.mayIssueSlot k = true → w.issue ≠ 0 → w.xrelReplays = [] →
    (∀ i, w.clause = some c → c.n ≠ 0 → decodeAt c.cls (w.isLast c) (c.word w.pc) (c.word (w.pc + 4)) = .ok i → w.role = .solo →
      ∀ t, exec i x = .next t → z.calm t k → step s = .next (z.mirror t (some k)) ∧ (t.pairs = [] → step s = .next t)) ∧
    (∀ i b, w.clause = some c → c.n ≠ 0 → decodeAt c.cls (w.isLast c) (c.word w.pc) (c.word (w.pc + 4)) = .ok i → w.role = .leading b →
      z.calm (x.runPair i k b) k → step s = .next (z.mirror (x.runPair i k b) (some k))) ∧
    (∀ a, w.role = .trailing a → z.calm (x.trailStep a k) a → step s = .next (z.mirror (x.trailStep a k) (some a))) ∧
    (∀ e, w.clause = some c → c.n ≠ 0 → decodeAt c.cls (w.isLast c) (c.word w.pc) (c.word (w.pc + 4)) = .error e → w.role = .solo →
      ∀ t, exec .noInstructionWord x = .next t → z.calm t k → t.pairs = [] → step s = .next t) ∧
    (w.clause = some c → c.n = 0 → w.role = .solo → z.calm (x.readClause c.hdr) k → step s = .next (z.mirror (x.readClause c.hdr) (some k))) ∧
    (∀ b, w.clause = some c → c.n = 0 → w.role = .leading b → z.calm (x.apart (x.readClause c.hdr)) k →
      step s = .next (z.mirror (x.apart (x.readClause c.hdr)) (some k))) ∧
    (∀ y h, w.clause = none → x.fetchWord k w.pc.toNat = .ok y h → w.role = .solo → y.cw.role = .solo →
      ∀ t, exec (if isHeader h then headerOf h else .noInstructionWord) y = .next t → z.calm t k → t.pairs = [] → step s = .next t)

/-- Memory keeps its canonical form (the bytes of R119; that they stand as a list is the model's own form, log 2): addresses strictly rise,
and no byte is listed that reads as an unlisted one, after every step from every such state. -/
def Obligations.MemoryForm : Prop :=
  ∀ s t : State, Memory.wf s.mem = true → step s = .next t → Memory.wf t.mem = true

/-- Right after reset (R259, R322, R348, R349, R357, R374, R375, R379, R383, R385, R420, R439, R444, R451, R454, R458 and the reset columns
of the register tables): memory is in canonical form (log 2), accumulator rows are +0 with bound 0x0000 and no poison, no bank has an
owner, and every register of the hub window reads 0, but COLTO 1,000,000, each route 0x1F and EVMASK 0x7F. (That the vector control
words of the MSI-X tables read 1 is PRESUMED, log 20; that an offset without a register reads 0 is the model's choice, log 79.) -/
def Obligations.ResetState : Prop :=
  Memory.wf State.reset.mem = true ∧
  (∀ c r k, (State.reset.core c).accWord r k = 0 ∧ (State.reset.core c).rowMeta r = ⟨0, false⟩) ∧
  (∀ c b, (Map.get (State.reset.core c).banks Bank.reset b).owner = none) ∧
  (∀ vf off, State.reset.regRead vf off =
    if off = 0xD0008 then 0x7F
    else if 0xD1000 ≤ off ∧ off < 0xD1080 ∧ off / 4 % 4 = 3 then 1
    else if vf = 0 ∧ off = 0x68000 then 1000000
    else if vf = 0 ∧ 0x71000 ≤ off ∧ off < 0x72000 then 0x1F
    else 0)

/-! ## Rounding -/

/-- Conversions, division and square root against the formats of R74 (R76 to R80, R85, R212 to R214), for all inputs. A conversion to a
floating-point format is the correctly rounded source, or what R78 and R79 give where it overflows; one to an integer format is the
source rounded to an integer, then saturated; one to E8M0 is the power of two that R79 names, within the format's range; a zero keeps
its sign. `fdiv`, `frcp` and `fsqrt` are correctly rounded. Each finite bound encloses the true result. -/
def Obligations.CorrectRounding : Prop :=
  (∀ (dt st : Fmt) (rnd : Rnd) (sat : Bool) (bits : Nat) (b : Bnd) (v : ℚ), codeReal st bits = some v →
    let c := convert dt st rnd sat bits b
    correct dt rnd sat v c.1 ∧
    (∀ r q, fmtRow dt = some r → fmtRow st = some q → v = 0 → c.1 = if q.neg bits = true then 2 ^ (r.ew + r.fw) else 0) ∧
    (∀ lo hi, intRange dt = some (lo, hi) → ∃ n : ℤ, roundedInt rnd v n ∧ (c.1 : ℤ) = max lo (min hi n) % 2 ^ fmtBits dt) ∧
    (dt = .e8m0 → (v ≤ 0 → c.1 = 0xFF) ∧
      (0 < v → ∃ k : ℤ, roundedPow rnd v k ∧ (c.1 : ℤ) = max (-127) (min 127 k) + 127)) ∧
    (∀ (X β ρ : ℚ) (r : FmtRow), fmtRow dt = some r → bndReal b = some β → |X - v| ≤ β → bndReal c.2 = some ρ →
      r.fin c.1 ∧ |X - r.real c.1| ≤ ρ)) ∧
  (∀ (rnd : Rnd) (x y : LV), finiteWord x.val → finiteWord y.val →
    let d := divLane rnd (opF32 x) (opF32 y)
    (realOf y.val ≠ 0 → correct .f32 rnd false (realOf x.val / realOf y.val : ℚ) d.val.toNat ∧
      (realOf x.val = 0 → d.val = (x.val ^^^ y.val) &&& 0x80000000) ∧
      ∀ X Y : ℚ, within x X → within y Y → encloses d (X / Y)) ∧
    (realOf y.val = 0 → d.bnd = bndInf ∧
      d.val = if realOf x.val = 0 then 0x7FC00000 else ((x.val ^^^ y.val) &&& 0x80000000) ||| 0x7F800000)) ∧
  (∀ (rnd : Rnd) (x : LV), finiteWord x.val →
    let d := sqrtLane rnd (opF32 x)
    (realOf x.val < 0 → d = ⟨0x7FC00000, bndInf⟩) ∧
    (realOf x.val = 0 → d.val = x.val) ∧
    (0 ≤ realOf x.val → correct .f32 rnd false (Real.sqrt (realOf x.val)) d.val.toNat ∧
      ∀ (X b : ℚ), within x X → 0 ≤ X → bndReal d.bnd = some b → finiteWord d.val ∧ |Real.sqrt X - (realOf d.val : ℝ)| ≤ b)) ∧
  (∀ (rnd : Rnd) (y : LV), finiteWord y.val → realOf y.val ≠ 0 →
    let d := divLane rnd one32 (opF32 y)
    correct .f32 rnd false (1 / realOf y.val : ℚ) d.val.toNat ∧ ∀ Y : ℚ, within y Y → encloses d (1 / Y))
end

