-- ==== Sys2Proof/Laws/Bits.lean ====
section
/-! SUPPORT. Fields of concatenated words, and the format and length of every word that the encoder builds. -/

namespace Sys2Proof.Laws

/-- A field that lies in the upper part of a concatenation. -/
theorem extract_hi {a b : Nat} (x : BitVec a) (y : BitVec b) (s n : Nat) (h : b ≤ s) :
    (x ++ y).extractLsb' s n = x.extractLsb' (s - b) n := by
  ext i hi
  simp only [BitVec.getElem_extractLsb', BitVec.getLsbD_append]
  rw [if_neg (by omega)]; congr 1; omega

/-- A field that lies in the lower part of a concatenation. -/
theorem extract_lo {a b : Nat} (x : BitVec a) (y : BitVec b) (s n : Nat) (h : s + n ≤ b) :
    (x ++ y).extractLsb' s n = y.extractLsb' s n := by
  ext i hi
  have hb : s + i < b := by omega
  simp [BitVec.getElem_extractLsb', BitVec.getLsbD_append, hb]

/-- Two words of one format take the same number of words. -/
theorem isTwo_congr (w v : Word) (h : w.extractLsb' 28 4 = v.extractLsb' 28 4) : isTwo w = isTwo v := by
  unfold isTwo; rw [h]

/-- The format of a word of five fields. -/
theorem top5 {a b c d : Nat} (f : BitVec 4) (x : BitVec a) (y : BitVec b) (z : BitVec c) (u : BitVec d)
    (h : a + b + c + d = 28) : (f ++ x ++ y ++ z ++ u).extractLsb' 28 4 = f := by
  rw [extract_hi _ _ _ _ (by omega), extract_hi _ _ _ _ (by omega), extract_hi _ _ _ _ (by omega), extract_hi _ _ _ _ (by omega)]
  have : 28 - d - c - b - a = 0 := by omega
  rw [this]; simp

theorem isTwo_sbin (op d : BitVec 6) (a b : BitVec 8) : isTwo (sbinWord op d a b) = false :=
  isTwo_congr _ 0x00000000 (top5 0 op d a b rfl)

theorem isTwo_simm (op d : BitVec 6) (imm : BitVec 16) : isTwo (simmWord op d imm) = false :=
  isTwo_congr _ 0x10000000 ((extract_hi _ imm 28 4 (by decide)).trans <| (extract_hi _ d 12 4 (by decide)).trans <|
    (extract_hi _ op 6 4 (by decide)).trans <| by decide)

theorem isTwo_vbin (op : BitVec 5) (d : BitVec 7) (a b : BitVec 8) : isTwo (vbinWord op d a b) = false :=
  isTwo_congr _ 0x20000000 (top5 2 op d a b rfl)

theorem isTwo_vwide (op : BitVec 9) (m : Wide) (a b c : BitVec 8) : ∃ w v, vwideWords op m a b c = [w, v] ∧ isTwo w = true := by
  refine ⟨_, _, rfl, isTwo_congr _ 0x30000000 ?_⟩
  iterate 7 rw [extract_hi _ _ _ _ (by decide)]
  decide

theorem isTwo_vcmp (op d c : BitVec 4) (a b : BitVec 8) : isTwo (vcmpWord op d c a b) = false := by
  refine isTwo_congr _ 0x40000000 ?_
  unfold vcmpWord
  iterate 5 rw [extract_hi _ _ _ _ (by decide)]
  decide

theorem isTwo_vx (op : BitVec 8) (p : Pred) (d : BitVec 7) (a b c : BitVec 8) (dt st : BitVec 4) (ctl : BitVec 8) :
    ∃ w v, vxWords op p d a b c dt st ctl = [w, v] ∧ isTwo w = true := by
  refine ⟨_, _, rfl, isTwo_congr _ 0x50000000 ?_⟩
  iterate 5 rw [extract_hi _ _ _ _ (by decide)]
  decide

theorem isTwo_gmem (op : BitVec 6) (g : Gmem) : ∃ w v, gmemWords op g = [w, v] ∧ isTwo w = true := by
  refine ⟨_, _, rfl, isTwo_congr _ 0x60000000 ?_⟩
  iterate 5 rw [extract_hi _ _ _ _ (by decide)]
  decide

theorem isTwo_spad (op : BitVec 5) (d a : BitVec 7) (imm : BitVec 9) : isTwo (spadWord op d a imm) = false :=
  isTwo_congr _ 0x70000000 (top5 7 op d a imm rfl)

theorem isTwo_mat (op : BitVec 6) (v : BitVec 7) (sa : BitVec 6) (roff sh : BitVec 2) (bk sp : Bool) (dc : BitVec 3) :
    isTwo (matWord op v sa roff sh bk sp dc) = true := by
  refine isTwo_congr _ 0x80000000 ?_
  unfold matWord
  iterate 8 rw [extract_hi _ _ _ _ (by decide)]
  decide

theorem isTwo_cpy (op sub : BitVec 4) (dc : BitVec 3) (tx : Bool) (sa sb : BitVec 6) :
    isTwo (cpyWord0 op sub dc tx sa sb) = true := by
  refine isTwo_congr _ 0x90000000 ?_
  unfold cpyWord0
  iterate 7 rw [extract_hi _ _ _ _ (by decide)]
  decide

theorem isTwo_ctl (op k : BitVec 4) (neg : Bool) (off : BitVec 19) : isTwo (ctlWord op k neg off) = false :=
  isTwo_congr _ 0xA0000000 (top5 0xA op k (BitVec.ofBool neg) off rfl)

theorem isTwo_syn (op : BitVec 5) (p : Pred) (x : BitVec 18) : isTwo (synWord op p x) = false :=
  isTwo_congr _ 0xB0000000 (top5 0xB op p.k (BitVec.ofBool p.neg) x rfl)

theorem isTwo_sys (op : BitVec 6) (x : BitVec 22) : isTwo (sysWord op x) = false :=
  isTwo_congr _ 0xC0000000 ((extract_hi _ x 28 4 (by decide)).trans <| (extract_hi _ op 6 4 (by decide)).trans <| by decide)

theorem isTwo_header (n : BitVec 4) (cls : BitVec 3) (wait : BitVec 6) (y : Bool) :
    isTwo (0xF#4 ++ n ++ cls ++ wait ++ BitVec.ofBool y ++ 0#14) = false := by
  refine isTwo_congr _ 0xF0000000 ?_
  iterate 5 rw [extract_hi _ _ _ _ (by decide)]
  decide

end Sys2Proof.Laws
end

