-- ==== Sys2Proof/Laws/Map.lean ====
section
/-! SUPPORT. Laws of sparse tables: reading after writing, and the canonical form kept by every operation. -/

namespace Sys2Proof.Machine.Map

variable {α : Type} [DecidableEq α]

omit [DecidableEq α] in
@[simp] theorem get_nil (d : α) (k : Nat) : get ([] : Map α) d k = d := rfl

omit [DecidableEq α] in
theorem get_cons (p : Nat × α) (t : Map α) (d : α) (k : Nat) : get (p :: t) d k = if p.1 = k then p.2 else get t d k := rfl

/-- A value reads back at its key. -/
@[simp] theorem get_set_same (m : Map α) (d : α) (k : Nat) (v : α) : get (set m d k v) d k = v := by
  induction m with
  | nil => by_cases h : v = d <;> simp [set, get, h]
  | cons p t ih =>
    obtain ⟨j, a⟩ := p
    unfold set
    by_cases hk : k = j
    · subst hk
      by_cases h : v = d
      · subst h; simpa using ih
      · simp [h, get]
    · by_cases h : k < j ∧ v ≠ d
      · simp [hk, h, get]
      · simp only [hk, h, if_false, get, if_neg (Ne.symm hk), ih]

/-- Other keys read as before. -/
theorem get_set_other (m : Map α) (d : α) (k j : Nat) (v : α) (h : j ≠ k) : get (set m d k v) d j = get m d j := by
  induction m with
  | nil => by_cases hv : v = d <;> simp [set, get, hv, Ne.symm h]
  | cons p t ih =>
    obtain ⟨i, a⟩ := p
    unfold set
    by_cases hk : k = i
    · subst hk
      by_cases hv : v = d
      · subst hv; simpa [get, Ne.symm h] using ih
      · simp [hv, get, Ne.symm h]
    · by_cases hc : k < i ∧ v ≠ d
      · simp [hk, hc, get, Ne.symm h]
      · simp only [hk, hc, if_false, get, ih]

/-- Reading any key after a write. -/
theorem get_set (m : Map α) (d : α) (k j : Nat) (v : α) : get (set m d k v) d j = if j = k then v else get m d j := by
  by_cases h : j = k
  · subst h; simp
  · simp [h, get_set_other m d k j v h]

@[simp] theorem get_upd_same (m : Map α) (d : α) (k : Nat) (f : α → α) : get (upd m d k f) d k = f (get m d k) := by
  simp [upd]

theorem get_upd_other (m : Map α) (d : α) (k j : Nat) (f : α → α) (h : j ≠ k) : get (upd m d k f) d j = get m d j :=
  get_set_other m d k j _ h

omit [DecidableEq α] in
@[simp] theorem find?_put_same (m : Map α) (k : Nat) (v : α) : find? (put m k v) k = some v := by
  induction m with
  | nil => simp [put, find?]
  | cons p t ih =>
    obtain ⟨j, a⟩ := p
    unfold put
    by_cases h1 : k < j
    · simp [h1, find?]
    · by_cases h2 : k = j
      · subst h2; simp [find?]
      · simp only [h1, h2, if_false, find?, if_neg (Ne.symm h2), ih]

omit [DecidableEq α] in
theorem find?_put_other (m : Map α) (k j : Nat) (v : α) (h : j ≠ k) : find? (put m k v) j = find? m j := by
  induction m with
  | nil => simp [put, find?, Ne.symm h]
  | cons p t ih =>
    obtain ⟨i, a⟩ := p
    unfold put
    by_cases h1 : k < i
    · simp [h1, find?, Ne.symm h]
    · by_cases h2 : k = i
      · subst h2; simp [find?, Ne.symm h]
      · simp only [h1, h2, if_false, find?, ih]

omit [DecidableEq α] in
theorem find?_put (m : Map α) (k j : Nat) (v : α) : find? (put m k v) j = if j = k then some v else find? m j := by
  by_cases h : j = k
  · subst h; simp
  · simp [h, find?_put_other m k j v h]

/-! ## The canonical form -/

/-- Every key of a table lies above `k`. -/
def Above (k : Nat) (m : Map α) : Prop := ∀ p ∈ m, k < p.1

/-- The canonical form of a table with a first entry. -/
theorem wf_cons (j : Nat) (a d : α) (t : Map α) : wf ((j, a) :: t) d = true ↔ a ≠ d ∧ Above j t ∧ wf t d = true := by
  induction t generalizing j a with
  | nil => simp [wf, Above]
  | cons p t ih =>
    obtain ⟨k, b⟩ := p
    have h := ih k b
    simp only [wf, Bool.and_eq_true, bne_iff_ne, ne_eq, decide_eq_true_eq]
    constructor
    · rintro ⟨⟨h1, h2⟩, h3⟩
      refine ⟨h1, ?_, h3⟩
      intro q hq
      rcases List.mem_cons.1 hq with rfl | hq
      · exact h2
      · exact Nat.lt_trans h2 ((h.1 h3).2.1 q hq)
    · rintro ⟨h1, h2, h3⟩
      exact ⟨⟨h1, h2 (k, b) (List.mem_cons_self ..)⟩, h3⟩

@[simp] theorem wf_nil (d : α) : wf ([] : Map α) d = true := rfl

/-- Keys after a write are the key written and keys of before. -/
theorem set_keys (m : Map α) (d : α) (k : Nat) (v : α) : ∀ p ∈ set m d k v, p.1 = k ∨ p ∈ m := by
  induction m with
  | nil => intro p hp; by_cases h : v = d <;> simp [set, h] at hp; simp [hp]
  | cons q t ih =>
    obtain ⟨j, a⟩ := q
    intro p hp
    unfold set at hp
    split at hp
    · split at hp
      · rcases ih p hp with h | h
        · exact .inl h
        · exact .inr (List.mem_cons_of_mem _ h)
      · rcases List.mem_cons.1 hp with rfl | h
        · exact .inl rfl
        · exact .inr (List.mem_cons_of_mem _ h)
    · split at hp
      · rcases List.mem_cons.1 hp with rfl | h
        · exact .inl rfl
        · exact .inr h
      · rcases List.mem_cons.1 hp with rfl | h
        · exact .inr (List.mem_cons_self ..)
        · rcases ih p h with h | h
          · exact .inl h
          · exact .inr (List.mem_cons_of_mem _ h)

/-- A write of the default below the first key changes nothing. -/
theorem set_above (m : Map α) (d : α) (k : Nat) (h : Above k m) : set m d k d = m := by
  induction m with
  | nil => simp [set]
  | cons p t ih =>
    obtain ⟨j, a⟩ := p
    have hj : k < j := h (j, a) (List.mem_cons_self ..)
    have hk : k ≠ j := Nat.ne_of_lt hj
    simp [set, hk, ih fun q hq => h q (List.mem_cons_of_mem _ hq)]

/-- A write keeps the canonical form. -/
theorem wf_set (m : Map α) (d : α) (k : Nat) (v : α) (h : wf m d = true) : wf (set m d k v) d = true := by
  induction m with
  | nil => by_cases hv : v = d <;> simp [set, hv, wf]
  | cons p t ih =>
    obtain ⟨j, a⟩ := p
    obtain ⟨h1, h2, h3⟩ := (wf_cons j a d t).1 h
    unfold set
    split
    · rename_i hk
      subst hk
      split
      · rename_i hv; subst hv; rw [set_above t _ k h2]; exact h3
      · rename_i hv; exact (wf_cons k v d t).2 ⟨hv, h2, h3⟩
    · rename_i hk
      split
      · rename_i hc
        refine (wf_cons k v d _).2 ⟨hc.2, ?_, h⟩
        intro q hq
        rcases List.mem_cons.1 hq with rfl | hq
        · exact hc.1
        · exact Nat.lt_trans hc.1 (h2 q hq)
      · rename_i hc
        by_cases hkj : k < j
        · have hv : v = d := by by_contra hne; exact hc ⟨hkj, hne⟩
          subst hv
          rw [set_above t _ k fun q hq => Nat.lt_trans hkj (h2 q hq)]
          exact h
        · refine (wf_cons j a d _).2 ⟨h1, ?_, ih h3⟩
          intro q hq
          rcases set_keys t d k v q hq with hq | hq
          · rw [hq]; omega
          · exact h2 q hq

/-- Dropping entries keeps the canonical form. -/
theorem wf_filter (m : Map α) (d : α) (f : Nat × α → Bool) (h : wf m d = true) : wf (m.filter f) d = true := by
  induction m with
  | nil => rfl
  | cons p t ih =>
    obtain ⟨j, a⟩ := p
    obtain ⟨h1, h2, h3⟩ := (wf_cons j a d t).1 h
    by_cases hf : f (j, a)
    · rw [List.filter_cons_of_pos hf]
      exact (wf_cons j a d _).2 ⟨h1, fun q hq => h2 q (List.mem_of_mem_filter hq), ih h3⟩
    · rw [List.filter_cons_of_neg hf]; exact ih h3

end Sys2Proof.Machine.Map
end

