-- ==== Sys2Proof/Laws/Memory.lean ====
section
/-! SUPPORT. Physical memory: a byte read after a write, and that the operations over memory keep its canonical form. -/

namespace Sys2Proof.Laws

open Sys2Proof Sys2Proof.Machine

/-! ## Reads after writes -/

theorem peek_poke (s : State) (a b : Nat) (x : Byte) : (s.poke a x).peek b = if b = a then x else s.peek b :=
  Map.get_set s.mem 0 a b x

@[simp] theorem peek_poke_same (s : State) (a : Nat) (x : Byte) : (s.poke a x).peek a = x := by simp [peek_poke]

theorem peek_poke_other (s : State) (a b : Nat) (x : Byte) (h : b ≠ a) : (s.poke a x).peek b = s.peek b := by simp [peek_poke, h]

/-- A byte after a write of several: the one written there, or the old one. -/
theorem peek_pokes (bs : List Byte) (s : State) (a b : Nat) :
    (s.pokes a bs).peek b = if a ≤ b ∧ b < a + bs.length then bs.getD (b - a) 0 else s.peek b := by
  induction bs generalizing s a with
  | nil => simp [State.pokes]
  | cons x t ih =>
    rw [State.pokes, ih, peek_poke]
    rcases Nat.lt_trichotomy b a with h | h | h
    · have h1 : ¬(a + 1 ≤ b ∧ b < a + 1 + t.length) := by omega
      have h2 : ¬(a ≤ b ∧ b < a + (x :: t).length) := by omega
      simp only [h1, h2, if_false]
      exact if_neg (by omega)
    · subst h
      have h1 : ¬(b + 1 ≤ b ∧ b < b + 1 + t.length) := by omega
      simp
    · have h3 : b ≠ a := by omega
      have h4 : b - a = (b - (a + 1)) + 1 := by omega
      by_cases h1 : a + 1 ≤ b ∧ b < a + 1 + t.length
      · have h2 : a ≤ b ∧ b < a + (x :: t).length := by simp; omega
        rw [if_pos h1, if_pos h2, h4]; simp
      · have h2 : ¬(a ≤ b ∧ b < a + (x :: t).length) := by simp; omega
        rw [if_neg h1, if_neg h2, if_neg h3]

/-- A write of bytes leaves every field of the state but memory. -/
theorem pokes_eq (bs : List Byte) (s : State) (a : Nat) : s.pokes a bs = { s with mem := (s.pokes a bs).mem } := by
  induction bs generalizing s a with
  | nil => rfl
  | cons x t ih => rw [State.pokes, ih (s.poke a x) (a + 1)]; rfl

/-! ## The canonical form -/

theorem wf_poke (s : State) (a : Nat) (b : Byte) (h : Memory.wf s.mem = true) : Memory.wf (s.poke a b).mem = true :=
  Map.wf_set s.mem 0 a b h

theorem wf_pokes (bs : List Byte) (s : State) (a : Nat) (h : Memory.wf s.mem = true) : Memory.wf (s.pokes a bs).mem = true := by
  induction bs generalizing s a with
  | nil => exact h
  | cons b t ih => exact ih _ _ (wf_poke s a b h)

theorem wf_hubPokes (s : State) (a : Nat) (bs : List Byte) (h : Memory.wf s.mem = true) : Memory.wf (s.hubPokes a bs).mem = true := by
  unfold State.hubPokes
  split
  · exact h
  · exact wf_pokes _ _ _ h

theorem mem_setPoisons (ps : List Bool) (s : State) (sec : Nat) : (s.setPoisons sec ps).mem = s.mem := by
  induction ps generalizing s sec with
  | nil => rfl
  | cons p t ih => exact ih _ _

theorem wf_foldl {α : Type} (f : State → α → State) (hf : ∀ s x, Memory.wf s.mem = true → Memory.wf (f s x).mem = true)
    (xs : List α) (s : State) (h : Memory.wf s.mem = true) : Memory.wf (xs.foldl f s).mem = true := by
  induction xs generalizing s with
  | nil => exact h
  | cons x t ih => exact ih _ (hf s x h)

theorem wf_pokeBits (s : State) (ws : BitWrites) (h : Memory.wf s.mem = true) : Memory.wf (s.pokeBits ws).mem = true :=
  wf_foldl _ (fun s _ h => wf_poke s _ _ h) ws s h

theorem wf_writeSector (s : State) (l : HLine) (sec : Nat) (h : Memory.wf s.mem = true) : Memory.wf (writeSector s l sec).mem = true := by
  unfold writeSector
  split
  · exact h
  · dsimp only
    split
    · exact wf_pokes _ _ _ (wf_pokes _ _ _ h)
    · exact wf_pokes _ _ _ h

theorem wf_writeBack (s : State) (key : Nat) (h : Memory.wf s.mem = true) : Memory.wf (s.writeBack key).mem = true := by
  unfold State.writeBack
  split
  · split
    · exact h
    · refine wf_foldl _ (fun s i hs => ?_) (List.range 4) s h
      split
      · exact wf_writeSector s _ i hs
      · exact hs
  · exact h

theorem wf_restoreGranule (s : State) (g : Granule) (h : Memory.wf s.mem = true) : Memory.wf (s.restoreGranule g).mem = true := by
  unfold State.restoreGranule
  split
  · exact h
  · rw [mem_setPoisons]
    exact wf_foldl _ (fun s _ h => wf_hubPokes s _ _ h) _ _ (wf_pokes _ _ _ h)

theorem wf_restoreSet (s : State) (lid : Nat) (h : Memory.wf s.mem = true) : Memory.wf (s.restoreSet lid).mem = true :=
  wf_foldl _ wf_restoreGranule _ s h

theorem wf_loseData (s : State) (d : Nat) (h : Memory.wf s.mem = true) : Memory.wf (s.loseData d).mem = true :=
  Map.wf_filter s.mem 0 _ h

theorem wf_reset : Memory.wf State.reset.mem = true := rfl

/-! ## The log -/

@[simp] theorem mem_updHub (s : State) (f : Hub → Hub) : (s.updHub f).mem = s.mem := rfl

theorem wf_raiseEvent (s : State) (vf bit : Nat) (h : Memory.wf s.mem = true) : Memory.wf (s.raiseEvent vf bit).mem = true := by
  unfold State.raiseEvent State.msix
  split
  · exact h
  · dsimp only
    split
    · exact h
    · split <;> exact h

theorem wf_logOne (s : State) (keep : Bool) (ty src time : Nat) (data : List Byte) (h : Memory.wf s.mem = true) :
    Memory.wf (s.logOne keep ty src time data).mem = true := by
  unfold State.logOne
  split
  · dsimp only
    rw [mem_updHub]
    exact wf_hubPokes _ _ _ h
  · rw [mem_updHub]
    exact h

theorem wf_log (s : State) (ty src : Nat) (fs : List (Nat × Nat × Nat)) (h : Memory.wf s.mem = true) :
    Memory.wf (s.log ty src fs).mem = true := by
  unfold State.log State.logGroup
  dsimp only
  split
  · exact wf_raiseEvent _ _ _ (wf_foldl _ (fun s r hs => wf_logOne s _ _ _ _ _ hs) _ s h)
  · exact wf_foldl _ (fun s r hs => wf_logOne s _ _ _ _ _ hs) _ s h

end Sys2Proof.Laws
end

