-- ==== Sys2Proof/Laws/State.lean ====
section
/-! SUPPORT. What each update of the state and of a warp leaves alone, field by field, and what it writes. -/

namespace Sys2Proof.Machine

/-! `State.setWarp` -/

@[simp] theorem State.setWarp_blocks (s : State) (k : Nat) (w : Warp) : (s.setWarp k w).blocks = s.blocks := rfl
@[simp] theorem State.setWarp_clusters (s : State) (k : Nat) (w : Warp) : (s.setWarp k w).clusters = s.clusters := rfl
@[simp] theorem State.setWarp_launches (s : State) (k : Nat) (w : Warp) : (s.setWarp k w).launches = s.launches := rfl
@[simp] theorem State.setWarp_queues (s : State) (k : Nat) (w : Warp) : (s.setWarp k w).queues = s.queues := rfl
@[simp] theorem State.setWarp_cores (s : State) (k : Nat) (w : Warp) : (s.setWarp k w).cores = s.cores := rfl
@[simp] theorem State.setWarp_xq (s : State) (k : Nat) (w : Warp) : (s.setWarp k w).xq = s.xq := rfl
@[simp] theorem State.setWarp_scratch (s : State) (k : Nat) (w : Warp) : (s.setWarp k w).scratch = s.scratch := rfl
@[simp] theorem State.setWarp_side (s : State) (k : Nat) (w : Warp) : (s.setWarp k w).side = s.side := rfl
@[simp] theorem State.setWarp_gspace (s : State) (k : Nat) (w : Warp) : (s.setWarp k w).gspace = s.gspace := rfl
@[simp] theorem State.setWarp_mem (s : State) (k : Nat) (w : Warp) : (s.setWarp k w).mem = s.mem := rfl
@[simp] theorem State.setWarp_poison (s : State) (k : Nat) (w : Warp) : (s.setWarp k w).poison = s.poison := rfl
@[simp] theorem State.setWarp_l1 (s : State) (k : Nat) (w : Warp) : (s.setWarp k w).l1 = s.l1 := rfl
@[simp] theorem State.setWarp_icache (s : State) (k : Nat) (w : Warp) : (s.setWarp k w).icache = s.icache := rfl
@[simp] theorem State.setWarp_home (s : State) (k : Nat) (w : Warp) : (s.setWarp k w).home = s.home := rfl
@[simp] theorem State.setWarp_tlb (s : State) (k : Nat) (w : Warp) : (s.setWarp k w).tlb = s.tlb := rfl
@[simp] theorem State.setWarp_portMarks (s : State) (k : Nat) (w : Warp) : (s.setWarp k w).portMarks = s.portMarks := rfl
@[simp] theorem State.setWarp_htu (s : State) (k : Nat) (w : Warp) : (s.setWarp k w).htu = s.htu := rfl
@[simp] theorem State.setWarp_plts (s : State) (k : Nat) (w : Warp) : (s.setWarp k w).plts = s.plts := rfl
@[simp] theorem State.setWarp_ops (s : State) (k : Nat) (w : Warp) : (s.setWarp k w).ops = s.ops := rfl
@[simp] theorem State.setWarp_engs (s : State) (k : Nat) (w : Warp) : (s.setWarp k w).engs = s.engs := rfl
@[simp] theorem State.setWarp_mats (s : State) (k : Nat) (w : Warp) : (s.setWarp k w).mats = s.mats := rfl
@[simp] theorem State.setWarp_promos (s : State) (k : Nat) (w : Warp) : (s.setWarp k w).promos = s.promos := rfl
@[simp] theorem State.setWarp_groups (s : State) (k : Nat) (w : Warp) : (s.setWarp k w).groups = s.groups := rfl
@[simp] theorem State.setWarp_pqs (s : State) (k : Nat) (w : Warp) : (s.setWarp k w).pqs = s.pqs := rfl
@[simp] theorem State.setWarp_granules (s : State) (k : Nat) (w : Warp) : (s.setWarp k w).granules = s.granules := rfl
@[simp] theorem State.setWarp_saved (s : State) (k : Nat) (w : Warp) : (s.setWarp k w).saved = s.saved := rfl
@[simp] theorem State.setWarp_invs (s : State) (k : Nat) (w : Warp) : (s.setWarp k w).invs = s.invs := rfl
@[simp] theorem State.setWarp_hub (s : State) (k : Nat) (w : Warp) : (s.setWarp k w).hub = s.hub := rfl
@[simp] theorem State.setWarp_fab (s : State) (k : Nat) (w : Warp) : (s.setWarp k w).fab = s.fab := rfl
@[simp] theorem State.setWarp_power (s : State) (k : Nat) (w : Warp) : (s.setWarp k w).power = s.power := rfl
@[simp] theorem State.setWarp_time (s : State) (k : Nat) (w : Warp) : (s.setWarp k w).time = s.time := rfl
@[simp] theorem State.setWarp_traffic (s : State) (k : Nat) (w : Warp) : (s.setWarp k w).traffic = s.traffic := rfl
@[simp] theorem State.setWarp_slices (s : State) (k : Nat) (w : Warp) : (s.setWarp k w).slices = s.slices := rfl
@[simp] theorem State.setWarp_outbox (s : State) (k : Nat) (w : Warp) : (s.setWarp k w).outbox = s.outbox := rfl
@[simp] theorem State.setWarp_turns (s : State) (k : Nat) (w : Warp) : (s.setWarp k w).turns = s.turns := rfl
@[simp] theorem State.setWarp_cur (s : State) (k : Nat) (w : Warp) : (s.setWarp k w).cur = s.cur := rfl
@[simp] theorem State.setWarp_torn (s : State) (k : Nat) (w : Warp) : (s.setWarp k w).torn = s.torn := rfl
@[simp] theorem State.setWarp_nextId (s : State) (k : Nat) (w : Warp) : (s.setWarp k w).nextId = s.nextId := rfl
@[simp] theorem State.setWarp_cycle (s : State) (k : Nat) (w : Warp) : (s.setWarp k w).cycle = s.cycle := rfl
@[simp] theorem State.setWarp_swaps (s : State) (k : Nat) (w : Warp) : (s.setWarp k w).swaps = s.swaps := rfl
@[simp] theorem State.setWarp_stamp (s : State) (k : Nat) (w : Warp) : (s.setWarp k w).stamp = s.stamp := rfl

/-! `State.updCore` -/

@[simp] theorem State.updCore_warps (s : State) (c : Nat) (f : Core → Core) : (s.updCore c f).warps = s.warps := rfl
@[simp] theorem State.updCore_blocks (s : State) (c : Nat) (f : Core → Core) : (s.updCore c f).blocks = s.blocks := rfl
@[simp] theorem State.updCore_clusters (s : State) (c : Nat) (f : Core → Core) : (s.updCore c f).clusters = s.clusters := rfl
@[simp] theorem State.updCore_launches (s : State) (c : Nat) (f : Core → Core) : (s.updCore c f).launches = s.launches := rfl
@[simp] theorem State.updCore_queues (s : State) (c : Nat) (f : Core → Core) : (s.updCore c f).queues = s.queues := rfl
@[simp] theorem State.updCore_xq (s : State) (c : Nat) (f : Core → Core) : (s.updCore c f).xq = s.xq := rfl
@[simp] theorem State.updCore_scratch (s : State) (c : Nat) (f : Core → Core) : (s.updCore c f).scratch = s.scratch := rfl
@[simp] theorem State.updCore_side (s : State) (c : Nat) (f : Core → Core) : (s.updCore c f).side = s.side := rfl
@[simp] theorem State.updCore_gspace (s : State) (c : Nat) (f : Core → Core) : (s.updCore c f).gspace = s.gspace := rfl
@[simp] theorem State.updCore_mem (s : State) (c : Nat) (f : Core → Core) : (s.updCore c f).mem = s.mem := rfl
@[simp] theorem State.updCore_poison (s : State) (c : Nat) (f : Core → Core) : (s.updCore c f).poison = s.poison := rfl
@[simp] theorem State.updCore_l1 (s : State) (c : Nat) (f : Core → Core) : (s.updCore c f).l1 = s.l1 := rfl
@[simp] theorem State.updCore_icache (s : State) (c : Nat) (f : Core → Core) : (s.updCore c f).icache = s.icache := rfl
@[simp] theorem State.updCore_home (s : State) (c : Nat) (f : Core → Core) : (s.updCore c f).home = s.home := rfl
@[simp] theorem State.updCore_tlb (s : State) (c : Nat) (f : Core → Core) : (s.updCore c f).tlb = s.tlb := rfl
@[simp] theorem State.updCore_portMarks (s : State) (c : Nat) (f : Core → Core) : (s.updCore c f).portMarks = s.portMarks := rfl
@[simp] theorem State.updCore_htu (s : State) (c : Nat) (f : Core → Core) : (s.updCore c f).htu = s.htu := rfl
@[simp] theorem State.updCore_plts (s : State) (c : Nat) (f : Core → Core) : (s.updCore c f).plts = s.plts := rfl
@[simp] theorem State.updCore_ops (s : State) (c : Nat) (f : Core → Core) : (s.updCore c f).ops = s.ops := rfl
@[simp] theorem State.updCore_engs (s : State) (c : Nat) (f : Core → Core) : (s.updCore c f).engs = s.engs := rfl
@[simp] theorem State.updCore_mats (s : State) (c : Nat) (f : Core → Core) : (s.updCore c f).mats = s.mats := rfl
@[simp] theorem State.updCore_promos (s : State) (c : Nat) (f : Core → Core) : (s.updCore c f).promos = s.promos := rfl
@[simp] theorem State.updCore_groups (s : State) (c : Nat) (f : Core → Core) : (s.updCore c f).groups = s.groups := rfl
@[simp] theorem State.updCore_pqs (s : State) (c : Nat) (f : Core → Core) : (s.updCore c f).pqs = s.pqs := rfl
@[simp] theorem State.updCore_granules (s : State) (c : Nat) (f : Core → Core) : (s.updCore c f).granules = s.granules := rfl
@[simp] theorem State.updCore_saved (s : State) (c : Nat) (f : Core → Core) : (s.updCore c f).saved = s.saved := rfl
@[simp] theorem State.updCore_invs (s : State) (c : Nat) (f : Core → Core) : (s.updCore c f).invs = s.invs := rfl
@[simp] theorem State.updCore_hub (s : State) (c : Nat) (f : Core → Core) : (s.updCore c f).hub = s.hub := rfl
@[simp] theorem State.updCore_fab (s : State) (c : Nat) (f : Core → Core) : (s.updCore c f).fab = s.fab := rfl
@[simp] theorem State.updCore_power (s : State) (c : Nat) (f : Core → Core) : (s.updCore c f).power = s.power := rfl
@[simp] theorem State.updCore_time (s : State) (c : Nat) (f : Core → Core) : (s.updCore c f).time = s.time := rfl
@[simp] theorem State.updCore_traffic (s : State) (c : Nat) (f : Core → Core) : (s.updCore c f).traffic = s.traffic := rfl
@[simp] theorem State.updCore_slices (s : State) (c : Nat) (f : Core → Core) : (s.updCore c f).slices = s.slices := rfl
@[simp] theorem State.updCore_outbox (s : State) (c : Nat) (f : Core → Core) : (s.updCore c f).outbox = s.outbox := rfl
@[simp] theorem State.updCore_turns (s : State) (c : Nat) (f : Core → Core) : (s.updCore c f).turns = s.turns := rfl
@[simp] theorem State.updCore_cur (s : State) (c : Nat) (f : Core → Core) : (s.updCore c f).cur = s.cur := rfl
@[simp] theorem State.updCore_torn (s : State) (c : Nat) (f : Core → Core) : (s.updCore c f).torn = s.torn := rfl
@[simp] theorem State.updCore_nextId (s : State) (c : Nat) (f : Core → Core) : (s.updCore c f).nextId = s.nextId := rfl
@[simp] theorem State.updCore_cycle (s : State) (c : Nat) (f : Core → Core) : (s.updCore c f).cycle = s.cycle := rfl
@[simp] theorem State.updCore_swaps (s : State) (c : Nat) (f : Core → Core) : (s.updCore c f).swaps = s.swaps := rfl
@[simp] theorem State.updCore_stamp (s : State) (c : Nat) (f : Core → Core) : (s.updCore c f).stamp = s.stamp := rfl

/-! `State.updBlock` -/

@[simp] theorem State.updBlock_warps (s : State) (b : Nat) (f : Block → Block) : (s.updBlock b f).warps = s.warps := rfl
@[simp] theorem State.updBlock_clusters (s : State) (b : Nat) (f : Block → Block) : (s.updBlock b f).clusters = s.clusters := rfl
@[simp] theorem State.updBlock_launches (s : State) (b : Nat) (f : Block → Block) : (s.updBlock b f).launches = s.launches := rfl
@[simp] theorem State.updBlock_queues (s : State) (b : Nat) (f : Block → Block) : (s.updBlock b f).queues = s.queues := rfl
@[simp] theorem State.updBlock_cores (s : State) (b : Nat) (f : Block → Block) : (s.updBlock b f).cores = s.cores := rfl
@[simp] theorem State.updBlock_xq (s : State) (b : Nat) (f : Block → Block) : (s.updBlock b f).xq = s.xq := rfl
@[simp] theorem State.updBlock_scratch (s : State) (b : Nat) (f : Block → Block) : (s.updBlock b f).scratch = s.scratch := rfl
@[simp] theorem State.updBlock_side (s : State) (b : Nat) (f : Block → Block) : (s.updBlock b f).side = s.side := rfl
@[simp] theorem State.updBlock_gspace (s : State) (b : Nat) (f : Block → Block) : (s.updBlock b f).gspace = s.gspace := rfl
@[simp] theorem State.updBlock_mem (s : State) (b : Nat) (f : Block → Block) : (s.updBlock b f).mem = s.mem := rfl
@[simp] theorem State.updBlock_poison (s : State) (b : Nat) (f : Block → Block) : (s.updBlock b f).poison = s.poison := rfl
@[simp] theorem State.updBlock_l1 (s : State) (b : Nat) (f : Block → Block) : (s.updBlock b f).l1 = s.l1 := rfl
@[simp] theorem State.updBlock_icache (s : State) (b : Nat) (f : Block → Block) : (s.updBlock b f).icache = s.icache := rfl
@[simp] theorem State.updBlock_home (s : State) (b : Nat) (f : Block → Block) : (s.updBlock b f).home = s.home := rfl
@[simp] theorem State.updBlock_tlb (s : State) (b : Nat) (f : Block → Block) : (s.updBlock b f).tlb = s.tlb := rfl
@[simp] theorem State.updBlock_portMarks (s : State) (b : Nat) (f : Block → Block) : (s.updBlock b f).portMarks = s.portMarks := rfl
@[simp] theorem State.updBlock_htu (s : State) (b : Nat) (f : Block → Block) : (s.updBlock b f).htu = s.htu := rfl
@[simp] theorem State.updBlock_plts (s : State) (b : Nat) (f : Block → Block) : (s.updBlock b f).plts = s.plts := rfl
@[simp] theorem State.updBlock_ops (s : State) (b : Nat) (f : Block → Block) : (s.updBlock b f).ops = s.ops := rfl
@[simp] theorem State.updBlock_engs (s : State) (b : Nat) (f : Block → Block) : (s.updBlock b f).engs = s.engs := rfl
@[simp] theorem State.updBlock_mats (s : State) (b : Nat) (f : Block → Block) : (s.updBlock b f).mats = s.mats := rfl
@[simp] theorem State.updBlock_promos (s : State) (b : Nat) (f : Block → Block) : (s.updBlock b f).promos = s.promos := rfl
@[simp] theorem State.updBlock_groups (s : State) (b : Nat) (f : Block → Block) : (s.updBlock b f).groups = s.groups := rfl
@[simp] theorem State.updBlock_pqs (s : State) (b : Nat) (f : Block → Block) : (s.updBlock b f).pqs = s.pqs := rfl
@[simp] theorem State.updBlock_granules (s : State) (b : Nat) (f : Block → Block) : (s.updBlock b f).granules = s.granules := rfl
@[simp] theorem State.updBlock_saved (s : State) (b : Nat) (f : Block → Block) : (s.updBlock b f).saved = s.saved := rfl
@[simp] theorem State.updBlock_invs (s : State) (b : Nat) (f : Block → Block) : (s.updBlock b f).invs = s.invs := rfl
@[simp] theorem State.updBlock_hub (s : State) (b : Nat) (f : Block → Block) : (s.updBlock b f).hub = s.hub := rfl
@[simp] theorem State.updBlock_fab (s : State) (b : Nat) (f : Block → Block) : (s.updBlock b f).fab = s.fab := rfl
@[simp] theorem State.updBlock_power (s : State) (b : Nat) (f : Block → Block) : (s.updBlock b f).power = s.power := rfl
@[simp] theorem State.updBlock_time (s : State) (b : Nat) (f : Block → Block) : (s.updBlock b f).time = s.time := rfl
@[simp] theorem State.updBlock_traffic (s : State) (b : Nat) (f : Block → Block) : (s.updBlock b f).traffic = s.traffic := rfl
@[simp] theorem State.updBlock_slices (s : State) (b : Nat) (f : Block → Block) : (s.updBlock b f).slices = s.slices := rfl
@[simp] theorem State.updBlock_outbox (s : State) (b : Nat) (f : Block → Block) : (s.updBlock b f).outbox = s.outbox := rfl
@[simp] theorem State.updBlock_turns (s : State) (b : Nat) (f : Block → Block) : (s.updBlock b f).turns = s.turns := rfl
@[simp] theorem State.updBlock_cur (s : State) (b : Nat) (f : Block → Block) : (s.updBlock b f).cur = s.cur := rfl
@[simp] theorem State.updBlock_torn (s : State) (b : Nat) (f : Block → Block) : (s.updBlock b f).torn = s.torn := rfl
@[simp] theorem State.updBlock_nextId (s : State) (b : Nat) (f : Block → Block) : (s.updBlock b f).nextId = s.nextId := rfl
@[simp] theorem State.updBlock_cycle (s : State) (b : Nat) (f : Block → Block) : (s.updBlock b f).cycle = s.cycle := rfl
@[simp] theorem State.updBlock_swaps (s : State) (b : Nat) (f : Block → Block) : (s.updBlock b f).swaps = s.swaps := rfl
@[simp] theorem State.updBlock_stamp (s : State) (b : Nat) (f : Block → Block) : (s.updBlock b f).stamp = s.stamp := rfl

/-! `State.updCluster` -/

@[simp] theorem State.updCluster_warps (s : State) (c : Nat) (f : Cluster → Cluster) : (s.updCluster c f).warps = s.warps := rfl
@[simp] theorem State.updCluster_blocks (s : State) (c : Nat) (f : Cluster → Cluster) : (s.updCluster c f).blocks = s.blocks := rfl
@[simp] theorem State.updCluster_launches (s : State) (c : Nat) (f : Cluster → Cluster) : (s.updCluster c f).launches = s.launches := rfl
@[simp] theorem State.updCluster_queues (s : State) (c : Nat) (f : Cluster → Cluster) : (s.updCluster c f).queues = s.queues := rfl
@[simp] theorem State.updCluster_cores (s : State) (c : Nat) (f : Cluster → Cluster) : (s.updCluster c f).cores = s.cores := rfl
@[simp] theorem State.updCluster_xq (s : State) (c : Nat) (f : Cluster → Cluster) : (s.updCluster c f).xq = s.xq := rfl
@[simp] theorem State.updCluster_scratch (s : State) (c : Nat) (f : Cluster → Cluster) : (s.updCluster c f).scratch = s.scratch := rfl
@[simp] theorem State.updCluster_side (s : State) (c : Nat) (f : Cluster → Cluster) : (s.updCluster c f).side = s.side := rfl
@[simp] theorem State.updCluster_gspace (s : State) (c : Nat) (f : Cluster → Cluster) : (s.updCluster c f).gspace = s.gspace := rfl
@[simp] theorem State.updCluster_mem (s : State) (c : Nat) (f : Cluster → Cluster) : (s.updCluster c f).mem = s.mem := rfl
@[simp] theorem State.updCluster_poison (s : State) (c : Nat) (f : Cluster → Cluster) : (s.updCluster c f).poison = s.poison := rfl
@[simp] theorem State.updCluster_l1 (s : State) (c : Nat) (f : Cluster → Cluster) : (s.updCluster c f).l1 = s.l1 := rfl
@[simp] theorem State.updCluster_icache (s : State) (c : Nat) (f : Cluster → Cluster) : (s.updCluster c f).icache = s.icache := rfl
@[simp] theorem State.updCluster_home (s : State) (c : Nat) (f : Cluster → Cluster) : (s.updCluster c f).home = s.home := rfl
@[simp] theorem State.updCluster_tlb (s : State) (c : Nat) (f : Cluster → Cluster) : (s.updCluster c f).tlb = s.tlb := rfl
@[simp] theorem State.updCluster_portMarks (s : State) (c : Nat) (f : Cluster → Cluster) : (s.updCluster c f).portMarks = s.portMarks := rfl
@[simp] theorem State.updCluster_htu (s : State) (c : Nat) (f : Cluster → Cluster) : (s.updCluster c f).htu = s.htu := rfl
@[simp] theorem State.updCluster_plts (s : State) (c : Nat) (f : Cluster → Cluster) : (s.updCluster c f).plts = s.plts := rfl
@[simp] theorem State.updCluster_ops (s : State) (c : Nat) (f : Cluster → Cluster) : (s.updCluster c f).ops = s.ops := rfl
@[simp] theorem State.updCluster_engs (s : State) (c : Nat) (f : Cluster → Cluster) : (s.updCluster c f).engs = s.engs := rfl
@[simp] theorem State.updCluster_mats (s : State) (c : Nat) (f : Cluster → Cluster) : (s.updCluster c f).mats = s.mats := rfl
@[simp] theorem State.updCluster_promos (s : State) (c : Nat) (f : Cluster → Cluster) : (s.updCluster c f).promos = s.promos := rfl
@[simp] theorem State.updCluster_groups (s : State) (c : Nat) (f : Cluster → Cluster) : (s.updCluster c f).groups = s.groups := rfl
@[simp] theorem State.updCluster_pqs (s : State) (c : Nat) (f : Cluster → Cluster) : (s.updCluster c f).pqs = s.pqs := rfl
@[simp] theorem State.updCluster_granules (s : State) (c : Nat) (f : Cluster → Cluster) : (s.updCluster c f).granules = s.granules := rfl
@[simp] theorem State.updCluster_saved (s : State) (c : Nat) (f : Cluster → Cluster) : (s.updCluster c f).saved = s.saved := rfl
@[simp] theorem State.updCluster_invs (s : State) (c : Nat) (f : Cluster → Cluster) : (s.updCluster c f).invs = s.invs := rfl
@[simp] theorem State.updCluster_hub (s : State) (c : Nat) (f : Cluster → Cluster) : (s.updCluster c f).hub = s.hub := rfl
@[simp] theorem State.updCluster_fab (s : State) (c : Nat) (f : Cluster → Cluster) : (s.updCluster c f).fab = s.fab := rfl
@[simp] theorem State.updCluster_power (s : State) (c : Nat) (f : Cluster → Cluster) : (s.updCluster c f).power = s.power := rfl
@[simp] theorem State.updCluster_time (s : State) (c : Nat) (f : Cluster → Cluster) : (s.updCluster c f).time = s.time := rfl
@[simp] theorem State.updCluster_traffic (s : State) (c : Nat) (f : Cluster → Cluster) : (s.updCluster c f).traffic = s.traffic := rfl
@[simp] theorem State.updCluster_slices (s : State) (c : Nat) (f : Cluster → Cluster) : (s.updCluster c f).slices = s.slices := rfl
@[simp] theorem State.updCluster_outbox (s : State) (c : Nat) (f : Cluster → Cluster) : (s.updCluster c f).outbox = s.outbox := rfl
@[simp] theorem State.updCluster_turns (s : State) (c : Nat) (f : Cluster → Cluster) : (s.updCluster c f).turns = s.turns := rfl
@[simp] theorem State.updCluster_cur (s : State) (c : Nat) (f : Cluster → Cluster) : (s.updCluster c f).cur = s.cur := rfl
@[simp] theorem State.updCluster_torn (s : State) (c : Nat) (f : Cluster → Cluster) : (s.updCluster c f).torn = s.torn := rfl
@[simp] theorem State.updCluster_nextId (s : State) (c : Nat) (f : Cluster → Cluster) : (s.updCluster c f).nextId = s.nextId := rfl
@[simp] theorem State.updCluster_cycle (s : State) (c : Nat) (f : Cluster → Cluster) : (s.updCluster c f).cycle = s.cycle := rfl
@[simp] theorem State.updCluster_swaps (s : State) (c : Nat) (f : Cluster → Cluster) : (s.updCluster c f).swaps = s.swaps := rfl
@[simp] theorem State.updCluster_stamp (s : State) (c : Nat) (f : Cluster → Cluster) : (s.updCluster c f).stamp = s.stamp := rfl

/-! `State.setLaunch` -/

@[simp] theorem State.setLaunch_warps (s : State) (l : Nat) (x : Launch) : (s.setLaunch l x).warps = s.warps := rfl
@[simp] theorem State.setLaunch_blocks (s : State) (l : Nat) (x : Launch) : (s.setLaunch l x).blocks = s.blocks := rfl
@[simp] theorem State.setLaunch_clusters (s : State) (l : Nat) (x : Launch) : (s.setLaunch l x).clusters = s.clusters := rfl
@[simp] theorem State.setLaunch_queues (s : State) (l : Nat) (x : Launch) : (s.setLaunch l x).queues = s.queues := rfl
@[simp] theorem State.setLaunch_cores (s : State) (l : Nat) (x : Launch) : (s.setLaunch l x).cores = s.cores := rfl
@[simp] theorem State.setLaunch_xq (s : State) (l : Nat) (x : Launch) : (s.setLaunch l x).xq = s.xq := rfl
@[simp] theorem State.setLaunch_scratch (s : State) (l : Nat) (x : Launch) : (s.setLaunch l x).scratch = s.scratch := rfl
@[simp] theorem State.setLaunch_side (s : State) (l : Nat) (x : Launch) : (s.setLaunch l x).side = s.side := rfl
@[simp] theorem State.setLaunch_gspace (s : State) (l : Nat) (x : Launch) : (s.setLaunch l x).gspace = s.gspace := rfl
@[simp] theorem State.setLaunch_mem (s : State) (l : Nat) (x : Launch) : (s.setLaunch l x).mem = s.mem := rfl
@[simp] theorem State.setLaunch_poison (s : State) (l : Nat) (x : Launch) : (s.setLaunch l x).poison = s.poison := rfl
@[simp] theorem State.setLaunch_l1 (s : State) (l : Nat) (x : Launch) : (s.setLaunch l x).l1 = s.l1 := rfl
@[simp] theorem State.setLaunch_icache (s : State) (l : Nat) (x : Launch) : (s.setLaunch l x).icache = s.icache := rfl
@[simp] theorem State.setLaunch_home (s : State) (l : Nat) (x : Launch) : (s.setLaunch l x).home = s.home := rfl
@[simp] theorem State.setLaunch_tlb (s : State) (l : Nat) (x : Launch) : (s.setLaunch l x).tlb = s.tlb := rfl
@[simp] theorem State.setLaunch_portMarks (s : State) (l : Nat) (x : Launch) : (s.setLaunch l x).portMarks = s.portMarks := rfl
@[simp] theorem State.setLaunch_htu (s : State) (l : Nat) (x : Launch) : (s.setLaunch l x).htu = s.htu := rfl
@[simp] theorem State.setLaunch_plts (s : State) (l : Nat) (x : Launch) : (s.setLaunch l x).plts = s.plts := rfl
@[simp] theorem State.setLaunch_ops (s : State) (l : Nat) (x : Launch) : (s.setLaunch l x).ops = s.ops := rfl
@[simp] theorem State.setLaunch_engs (s : State) (l : Nat) (x : Launch) : (s.setLaunch l x).engs = s.engs := rfl
@[simp] theorem State.setLaunch_mats (s : State) (l : Nat) (x : Launch) : (s.setLaunch l x).mats = s.mats := rfl
@[simp] theorem State.setLaunch_promos (s : State) (l : Nat) (x : Launch) : (s.setLaunch l x).promos = s.promos := rfl
@[simp] theorem State.setLaunch_groups (s : State) (l : Nat) (x : Launch) : (s.setLaunch l x).groups = s.groups := rfl
@[simp] theorem State.setLaunch_pqs (s : State) (l : Nat) (x : Launch) : (s.setLaunch l x).pqs = s.pqs := rfl
@[simp] theorem State.setLaunch_granules (s : State) (l : Nat) (x : Launch) : (s.setLaunch l x).granules = s.granules := rfl
@[simp] theorem State.setLaunch_saved (s : State) (l : Nat) (x : Launch) : (s.setLaunch l x).saved = s.saved := rfl
@[simp] theorem State.setLaunch_invs (s : State) (l : Nat) (x : Launch) : (s.setLaunch l x).invs = s.invs := rfl
@[simp] theorem State.setLaunch_hub (s : State) (l : Nat) (x : Launch) : (s.setLaunch l x).hub = s.hub := rfl
@[simp] theorem State.setLaunch_fab (s : State) (l : Nat) (x : Launch) : (s.setLaunch l x).fab = s.fab := rfl
@[simp] theorem State.setLaunch_power (s : State) (l : Nat) (x : Launch) : (s.setLaunch l x).power = s.power := rfl
@[simp] theorem State.setLaunch_time (s : State) (l : Nat) (x : Launch) : (s.setLaunch l x).time = s.time := rfl
@[simp] theorem State.setLaunch_traffic (s : State) (l : Nat) (x : Launch) : (s.setLaunch l x).traffic = s.traffic := rfl
@[simp] theorem State.setLaunch_slices (s : State) (l : Nat) (x : Launch) : (s.setLaunch l x).slices = s.slices := rfl
@[simp] theorem State.setLaunch_outbox (s : State) (l : Nat) (x : Launch) : (s.setLaunch l x).outbox = s.outbox := rfl
@[simp] theorem State.setLaunch_turns (s : State) (l : Nat) (x : Launch) : (s.setLaunch l x).turns = s.turns := rfl
@[simp] theorem State.setLaunch_cur (s : State) (l : Nat) (x : Launch) : (s.setLaunch l x).cur = s.cur := rfl
@[simp] theorem State.setLaunch_torn (s : State) (l : Nat) (x : Launch) : (s.setLaunch l x).torn = s.torn := rfl
@[simp] theorem State.setLaunch_nextId (s : State) (l : Nat) (x : Launch) : (s.setLaunch l x).nextId = s.nextId := rfl
@[simp] theorem State.setLaunch_cycle (s : State) (l : Nat) (x : Launch) : (s.setLaunch l x).cycle = s.cycle := rfl
@[simp] theorem State.setLaunch_swaps (s : State) (l : Nat) (x : Launch) : (s.setLaunch l x).swaps = s.swaps := rfl
@[simp] theorem State.setLaunch_stamp (s : State) (l : Nat) (x : Launch) : (s.setLaunch l x).stamp = s.stamp := rfl

/-! `State.setOp` -/

@[simp] theorem State.setOp_warps (s : State) (o : Nat) (x : MemOp) : (s.setOp o x).warps = s.warps := rfl
@[simp] theorem State.setOp_blocks (s : State) (o : Nat) (x : MemOp) : (s.setOp o x).blocks = s.blocks := rfl
@[simp] theorem State.setOp_clusters (s : State) (o : Nat) (x : MemOp) : (s.setOp o x).clusters = s.clusters := rfl
@[simp] theorem State.setOp_launches (s : State) (o : Nat) (x : MemOp) : (s.setOp o x).launches = s.launches := rfl
@[simp] theorem State.setOp_queues (s : State) (o : Nat) (x : MemOp) : (s.setOp o x).queues = s.queues := rfl
@[simp] theorem State.setOp_cores (s : State) (o : Nat) (x : MemOp) : (s.setOp o x).cores = s.cores := rfl
@[simp] theorem State.setOp_xq (s : State) (o : Nat) (x : MemOp) : (s.setOp o x).xq = s.xq := rfl
@[simp] theorem State.setOp_scratch (s : State) (o : Nat) (x : MemOp) : (s.setOp o x).scratch = s.scratch := rfl
@[simp] theorem State.setOp_side (s : State) (o : Nat) (x : MemOp) : (s.setOp o x).side = s.side := rfl
@[simp] theorem State.setOp_gspace (s : State) (o : Nat) (x : MemOp) : (s.setOp o x).gspace = s.gspace := rfl
@[simp] theorem State.setOp_mem (s : State) (o : Nat) (x : MemOp) : (s.setOp o x).mem = s.mem := rfl
@[simp] theorem State.setOp_poison (s : State) (o : Nat) (x : MemOp) : (s.setOp o x).poison = s.poison := rfl
@[simp] theorem State.setOp_l1 (s : State) (o : Nat) (x : MemOp) : (s.setOp o x).l1 = s.l1 := rfl
@[simp] theorem State.setOp_icache (s : State) (o : Nat) (x : MemOp) : (s.setOp o x).icache = s.icache := rfl
@[simp] theorem State.setOp_home (s : State) (o : Nat) (x : MemOp) : (s.setOp o x).home = s.home := rfl
@[simp] theorem State.setOp_tlb (s : State) (o : Nat) (x : MemOp) : (s.setOp o x).tlb = s.tlb := rfl
@[simp] theorem State.setOp_portMarks (s : State) (o : Nat) (x : MemOp) : (s.setOp o x).portMarks = s.portMarks := rfl
@[simp] theorem State.setOp_htu (s : State) (o : Nat) (x : MemOp) : (s.setOp o x).htu = s.htu := rfl
@[simp] theorem State.setOp_plts (s : State) (o : Nat) (x : MemOp) : (s.setOp o x).plts = s.plts := rfl
@[simp] theorem State.setOp_engs (s : State) (o : Nat) (x : MemOp) : (s.setOp o x).engs = s.engs := rfl
@[simp] theorem State.setOp_mats (s : State) (o : Nat) (x : MemOp) : (s.setOp o x).mats = s.mats := rfl
@[simp] theorem State.setOp_promos (s : State) (o : Nat) (x : MemOp) : (s.setOp o x).promos = s.promos := rfl
@[simp] theorem State.setOp_groups (s : State) (o : Nat) (x : MemOp) : (s.setOp o x).groups = s.groups := rfl
@[simp] theorem State.setOp_pqs (s : State) (o : Nat) (x : MemOp) : (s.setOp o x).pqs = s.pqs := rfl
@[simp] theorem State.setOp_granules (s : State) (o : Nat) (x : MemOp) : (s.setOp o x).granules = s.granules := rfl
@[simp] theorem State.setOp_saved (s : State) (o : Nat) (x : MemOp) : (s.setOp o x).saved = s.saved := rfl
@[simp] theorem State.setOp_invs (s : State) (o : Nat) (x : MemOp) : (s.setOp o x).invs = s.invs := rfl
@[simp] theorem State.setOp_hub (s : State) (o : Nat) (x : MemOp) : (s.setOp o x).hub = s.hub := rfl
@[simp] theorem State.setOp_fab (s : State) (o : Nat) (x : MemOp) : (s.setOp o x).fab = s.fab := rfl
@[simp] theorem State.setOp_power (s : State) (o : Nat) (x : MemOp) : (s.setOp o x).power = s.power := rfl
@[simp] theorem State.setOp_time (s : State) (o : Nat) (x : MemOp) : (s.setOp o x).time = s.time := rfl
@[simp] theorem State.setOp_traffic (s : State) (o : Nat) (x : MemOp) : (s.setOp o x).traffic = s.traffic := rfl
@[simp] theorem State.setOp_slices (s : State) (o : Nat) (x : MemOp) : (s.setOp o x).slices = s.slices := rfl
@[simp] theorem State.setOp_outbox (s : State) (o : Nat) (x : MemOp) : (s.setOp o x).outbox = s.outbox := rfl
@[simp] theorem State.setOp_turns (s : State) (o : Nat) (x : MemOp) : (s.setOp o x).turns = s.turns := rfl
@[simp] theorem State.setOp_cur (s : State) (o : Nat) (x : MemOp) : (s.setOp o x).cur = s.cur := rfl
@[simp] theorem State.setOp_torn (s : State) (o : Nat) (x : MemOp) : (s.setOp o x).torn = s.torn := rfl
@[simp] theorem State.setOp_nextId (s : State) (o : Nat) (x : MemOp) : (s.setOp o x).nextId = s.nextId := rfl
@[simp] theorem State.setOp_cycle (s : State) (o : Nat) (x : MemOp) : (s.setOp o x).cycle = s.cycle := rfl
@[simp] theorem State.setOp_swaps (s : State) (o : Nat) (x : MemOp) : (s.setOp o x).swaps = s.swaps := rfl
@[simp] theorem State.setOp_stamp (s : State) (o : Nat) (x : MemOp) : (s.setOp o x).stamp = s.stamp := rfl

/-! `State.dropOp` -/

@[simp] theorem State.dropOp_warps (s : State) (o : Nat) : (s.dropOp o).warps = s.warps := rfl
@[simp] theorem State.dropOp_blocks (s : State) (o : Nat) : (s.dropOp o).blocks = s.blocks := rfl
@[simp] theorem State.dropOp_clusters (s : State) (o : Nat) : (s.dropOp o).clusters = s.clusters := rfl
@[simp] theorem State.dropOp_launches (s : State) (o : Nat) : (s.dropOp o).launches = s.launches := rfl
@[simp] theorem State.dropOp_queues (s : State) (o : Nat) : (s.dropOp o).queues = s.queues := rfl
@[simp] theorem State.dropOp_cores (s : State) (o : Nat) : (s.dropOp o).cores = s.cores := rfl
@[simp] theorem State.dropOp_xq (s : State) (o : Nat) : (s.dropOp o).xq = s.xq := rfl
@[simp] theorem State.dropOp_scratch (s : State) (o : Nat) : (s.dropOp o).scratch = s.scratch := rfl
@[simp] theorem State.dropOp_side (s : State) (o : Nat) : (s.dropOp o).side = s.side := rfl
@[simp] theorem State.dropOp_gspace (s : State) (o : Nat) : (s.dropOp o).gspace = s.gspace := rfl
@[simp] theorem State.dropOp_mem (s : State) (o : Nat) : (s.dropOp o).mem = s.mem := rfl
@[simp] theorem State.dropOp_poison (s : State) (o : Nat) : (s.dropOp o).poison = s.poison := rfl
@[simp] theorem State.dropOp_l1 (s : State) (o : Nat) : (s.dropOp o).l1 = s.l1 := rfl
@[simp] theorem State.dropOp_icache (s : State) (o : Nat) : (s.dropOp o).icache = s.icache := rfl
@[simp] theorem State.dropOp_home (s : State) (o : Nat) : (s.dropOp o).home = s.home := rfl
@[simp] theorem State.dropOp_tlb (s : State) (o : Nat) : (s.dropOp o).tlb = s.tlb := rfl
@[simp] theorem State.dropOp_portMarks (s : State) (o : Nat) : (s.dropOp o).portMarks = s.portMarks := rfl
@[simp] theorem State.dropOp_htu (s : State) (o : Nat) : (s.dropOp o).htu = s.htu := rfl
@[simp] theorem State.dropOp_plts (s : State) (o : Nat) : (s.dropOp o).plts = s.plts := rfl
@[simp] theorem State.dropOp_engs (s : State) (o : Nat) : (s.dropOp o).engs = s.engs := rfl
@[simp] theorem State.dropOp_mats (s : State) (o : Nat) : (s.dropOp o).mats = s.mats := rfl
@[simp] theorem State.dropOp_promos (s : State) (o : Nat) : (s.dropOp o).promos = s.promos := rfl
@[simp] theorem State.dropOp_groups (s : State) (o : Nat) : (s.dropOp o).groups = s.groups := rfl
@[simp] theorem State.dropOp_pqs (s : State) (o : Nat) : (s.dropOp o).pqs = s.pqs := rfl
@[simp] theorem State.dropOp_granules (s : State) (o : Nat) : (s.dropOp o).granules = s.granules := rfl
@[simp] theorem State.dropOp_saved (s : State) (o : Nat) : (s.dropOp o).saved = s.saved := rfl
@[simp] theorem State.dropOp_invs (s : State) (o : Nat) : (s.dropOp o).invs = s.invs := rfl
@[simp] theorem State.dropOp_hub (s : State) (o : Nat) : (s.dropOp o).hub = s.hub := rfl
@[simp] theorem State.dropOp_fab (s : State) (o : Nat) : (s.dropOp o).fab = s.fab := rfl
@[simp] theorem State.dropOp_power (s : State) (o : Nat) : (s.dropOp o).power = s.power := rfl
@[simp] theorem State.dropOp_time (s : State) (o : Nat) : (s.dropOp o).time = s.time := rfl
@[simp] theorem State.dropOp_traffic (s : State) (o : Nat) : (s.dropOp o).traffic = s.traffic := rfl
@[simp] theorem State.dropOp_slices (s : State) (o : Nat) : (s.dropOp o).slices = s.slices := rfl
@[simp] theorem State.dropOp_outbox (s : State) (o : Nat) : (s.dropOp o).outbox = s.outbox := rfl
@[simp] theorem State.dropOp_turns (s : State) (o : Nat) : (s.dropOp o).turns = s.turns := rfl
@[simp] theorem State.dropOp_cur (s : State) (o : Nat) : (s.dropOp o).cur = s.cur := rfl
@[simp] theorem State.dropOp_torn (s : State) (o : Nat) : (s.dropOp o).torn = s.torn := rfl
@[simp] theorem State.dropOp_nextId (s : State) (o : Nat) : (s.dropOp o).nextId = s.nextId := rfl
@[simp] theorem State.dropOp_cycle (s : State) (o : Nat) : (s.dropOp o).cycle = s.cycle := rfl
@[simp] theorem State.dropOp_swaps (s : State) (o : Nat) : (s.dropOp o).swaps = s.swaps := rfl
@[simp] theorem State.dropOp_stamp (s : State) (o : Nat) : (s.dropOp o).stamp = s.stamp := rfl

/-! `State.setEng` -/

@[simp] theorem State.setEng_warps (s : State) (o : Nat) (x : EngOp) : (s.setEng o x).warps = s.warps := rfl
@[simp] theorem State.setEng_blocks (s : State) (o : Nat) (x : EngOp) : (s.setEng o x).blocks = s.blocks := rfl
@[simp] theorem State.setEng_clusters (s : State) (o : Nat) (x : EngOp) : (s.setEng o x).clusters = s.clusters := rfl
@[simp] theorem State.setEng_launches (s : State) (o : Nat) (x : EngOp) : (s.setEng o x).launches = s.launches := rfl
@[simp] theorem State.setEng_queues (s : State) (o : Nat) (x : EngOp) : (s.setEng o x).queues = s.queues := rfl
@[simp] theorem State.setEng_cores (s : State) (o : Nat) (x : EngOp) : (s.setEng o x).cores = s.cores := rfl
@[simp] theorem State.setEng_xq (s : State) (o : Nat) (x : EngOp) : (s.setEng o x).xq = s.xq := rfl
@[simp] theorem State.setEng_scratch (s : State) (o : Nat) (x : EngOp) : (s.setEng o x).scratch = s.scratch := rfl
@[simp] theorem State.setEng_side (s : State) (o : Nat) (x : EngOp) : (s.setEng o x).side = s.side := rfl
@[simp] theorem State.setEng_gspace (s : State) (o : Nat) (x : EngOp) : (s.setEng o x).gspace = s.gspace := rfl
@[simp] theorem State.setEng_mem (s : State) (o : Nat) (x : EngOp) : (s.setEng o x).mem = s.mem := rfl
@[simp] theorem State.setEng_poison (s : State) (o : Nat) (x : EngOp) : (s.setEng o x).poison = s.poison := rfl
@[simp] theorem State.setEng_l1 (s : State) (o : Nat) (x : EngOp) : (s.setEng o x).l1 = s.l1 := rfl
@[simp] theorem State.setEng_icache (s : State) (o : Nat) (x : EngOp) : (s.setEng o x).icache = s.icache := rfl
@[simp] theorem State.setEng_home (s : State) (o : Nat) (x : EngOp) : (s.setEng o x).home = s.home := rfl
@[simp] theorem State.setEng_tlb (s : State) (o : Nat) (x : EngOp) : (s.setEng o x).tlb = s.tlb := rfl
@[simp] theorem State.setEng_portMarks (s : State) (o : Nat) (x : EngOp) : (s.setEng o x).portMarks = s.portMarks := rfl
@[simp] theorem State.setEng_htu (s : State) (o : Nat) (x : EngOp) : (s.setEng o x).htu = s.htu := rfl
@[simp] theorem State.setEng_plts (s : State) (o : Nat) (x : EngOp) : (s.setEng o x).plts = s.plts := rfl
@[simp] theorem State.setEng_ops (s : State) (o : Nat) (x : EngOp) : (s.setEng o x).ops = s.ops := rfl
@[simp] theorem State.setEng_mats (s : State) (o : Nat) (x : EngOp) : (s.setEng o x).mats = s.mats := rfl
@[simp] theorem State.setEng_promos (s : State) (o : Nat) (x : EngOp) : (s.setEng o x).promos = s.promos := rfl
@[simp] theorem State.setEng_groups (s : State) (o : Nat) (x : EngOp) : (s.setEng o x).groups = s.groups := rfl
@[simp] theorem State.setEng_pqs (s : State) (o : Nat) (x : EngOp) : (s.setEng o x).pqs = s.pqs := rfl
@[simp] theorem State.setEng_granules (s : State) (o : Nat) (x : EngOp) : (s.setEng o x).granules = s.granules := rfl
@[simp] theorem State.setEng_saved (s : State) (o : Nat) (x : EngOp) : (s.setEng o x).saved = s.saved := rfl
@[simp] theorem State.setEng_invs (s : State) (o : Nat) (x : EngOp) : (s.setEng o x).invs = s.invs := rfl
@[simp] theorem State.setEng_hub (s : State) (o : Nat) (x : EngOp) : (s.setEng o x).hub = s.hub := rfl
@[simp] theorem State.setEng_fab (s : State) (o : Nat) (x : EngOp) : (s.setEng o x).fab = s.fab := rfl
@[simp] theorem State.setEng_power (s : State) (o : Nat) (x : EngOp) : (s.setEng o x).power = s.power := rfl
@[simp] theorem State.setEng_time (s : State) (o : Nat) (x : EngOp) : (s.setEng o x).time = s.time := rfl
@[simp] theorem State.setEng_traffic (s : State) (o : Nat) (x : EngOp) : (s.setEng o x).traffic = s.traffic := rfl
@[simp] theorem State.setEng_slices (s : State) (o : Nat) (x : EngOp) : (s.setEng o x).slices = s.slices := rfl
@[simp] theorem State.setEng_outbox (s : State) (o : Nat) (x : EngOp) : (s.setEng o x).outbox = s.outbox := rfl
@[simp] theorem State.setEng_turns (s : State) (o : Nat) (x : EngOp) : (s.setEng o x).turns = s.turns := rfl
@[simp] theorem State.setEng_cur (s : State) (o : Nat) (x : EngOp) : (s.setEng o x).cur = s.cur := rfl
@[simp] theorem State.setEng_torn (s : State) (o : Nat) (x : EngOp) : (s.setEng o x).torn = s.torn := rfl
@[simp] theorem State.setEng_nextId (s : State) (o : Nat) (x : EngOp) : (s.setEng o x).nextId = s.nextId := rfl
@[simp] theorem State.setEng_cycle (s : State) (o : Nat) (x : EngOp) : (s.setEng o x).cycle = s.cycle := rfl
@[simp] theorem State.setEng_swaps (s : State) (o : Nat) (x : EngOp) : (s.setEng o x).swaps = s.swaps := rfl
@[simp] theorem State.setEng_stamp (s : State) (o : Nat) (x : EngOp) : (s.setEng o x).stamp = s.stamp := rfl

/-! `State.dropEng` -/

@[simp] theorem State.dropEng_warps (s : State) (o : Nat) : (s.dropEng o).warps = s.warps := rfl
@[simp] theorem State.dropEng_blocks (s : State) (o : Nat) : (s.dropEng o).blocks = s.blocks := rfl
@[simp] theorem State.dropEng_clusters (s : State) (o : Nat) : (s.dropEng o).clusters = s.clusters := rfl
@[simp] theorem State.dropEng_launches (s : State) (o : Nat) : (s.dropEng o).launches = s.launches := rfl
@[simp] theorem State.dropEng_queues (s : State) (o : Nat) : (s.dropEng o).queues = s.queues := rfl
@[simp] theorem State.dropEng_cores (s : State) (o : Nat) : (s.dropEng o).cores = s.cores := rfl
@[simp] theorem State.dropEng_xq (s : State) (o : Nat) : (s.dropEng o).xq = s.xq := rfl
@[simp] theorem State.dropEng_scratch (s : State) (o : Nat) : (s.dropEng o).scratch = s.scratch := rfl
@[simp] theorem State.dropEng_side (s : State) (o : Nat) : (s.dropEng o).side = s.side := rfl
@[simp] theorem State.dropEng_gspace (s : State) (o : Nat) : (s.dropEng o).gspace = s.gspace := rfl
@[simp] theorem State.dropEng_mem (s : State) (o : Nat) : (s.dropEng o).mem = s.mem := rfl
@[simp] theorem State.dropEng_poison (s : State) (o : Nat) : (s.dropEng o).poison = s.poison := rfl
@[simp] theorem State.dropEng_l1 (s : State) (o : Nat) : (s.dropEng o).l1 = s.l1 := rfl
@[simp] theorem State.dropEng_icache (s : State) (o : Nat) : (s.dropEng o).icache = s.icache := rfl
@[simp] theorem State.dropEng_home (s : State) (o : Nat) : (s.dropEng o).home = s.home := rfl
@[simp] theorem State.dropEng_tlb (s : State) (o : Nat) : (s.dropEng o).tlb = s.tlb := rfl
@[simp] theorem State.dropEng_portMarks (s : State) (o : Nat) : (s.dropEng o).portMarks = s.portMarks := rfl
@[simp] theorem State.dropEng_htu (s : State) (o : Nat) : (s.dropEng o).htu = s.htu := rfl
@[simp] theorem State.dropEng_plts (s : State) (o : Nat) : (s.dropEng o).plts = s.plts := rfl
@[simp] theorem State.dropEng_ops (s : State) (o : Nat) : (s.dropEng o).ops = s.ops := rfl
@[simp] theorem State.dropEng_mats (s : State) (o : Nat) : (s.dropEng o).mats = s.mats := rfl
@[simp] theorem State.dropEng_promos (s : State) (o : Nat) : (s.dropEng o).promos = s.promos := rfl
@[simp] theorem State.dropEng_groups (s : State) (o : Nat) : (s.dropEng o).groups = s.groups := rfl
@[simp] theorem State.dropEng_pqs (s : State) (o : Nat) : (s.dropEng o).pqs = s.pqs := rfl
@[simp] theorem State.dropEng_granules (s : State) (o : Nat) : (s.dropEng o).granules = s.granules := rfl
@[simp] theorem State.dropEng_saved (s : State) (o : Nat) : (s.dropEng o).saved = s.saved := rfl
@[simp] theorem State.dropEng_invs (s : State) (o : Nat) : (s.dropEng o).invs = s.invs := rfl
@[simp] theorem State.dropEng_hub (s : State) (o : Nat) : (s.dropEng o).hub = s.hub := rfl
@[simp] theorem State.dropEng_fab (s : State) (o : Nat) : (s.dropEng o).fab = s.fab := rfl
@[simp] theorem State.dropEng_power (s : State) (o : Nat) : (s.dropEng o).power = s.power := rfl
@[simp] theorem State.dropEng_time (s : State) (o : Nat) : (s.dropEng o).time = s.time := rfl
@[simp] theorem State.dropEng_traffic (s : State) (o : Nat) : (s.dropEng o).traffic = s.traffic := rfl
@[simp] theorem State.dropEng_slices (s : State) (o : Nat) : (s.dropEng o).slices = s.slices := rfl
@[simp] theorem State.dropEng_outbox (s : State) (o : Nat) : (s.dropEng o).outbox = s.outbox := rfl
@[simp] theorem State.dropEng_turns (s : State) (o : Nat) : (s.dropEng o).turns = s.turns := rfl
@[simp] theorem State.dropEng_cur (s : State) (o : Nat) : (s.dropEng o).cur = s.cur := rfl
@[simp] theorem State.dropEng_torn (s : State) (o : Nat) : (s.dropEng o).torn = s.torn := rfl
@[simp] theorem State.dropEng_nextId (s : State) (o : Nat) : (s.dropEng o).nextId = s.nextId := rfl
@[simp] theorem State.dropEng_cycle (s : State) (o : Nat) : (s.dropEng o).cycle = s.cycle := rfl
@[simp] theorem State.dropEng_swaps (s : State) (o : Nat) : (s.dropEng o).swaps = s.swaps := rfl
@[simp] theorem State.dropEng_stamp (s : State) (o : Nat) : (s.dropEng o).stamp = s.stamp := rfl

/-! `State.dropMat` -/

@[simp] theorem State.dropMat_warps (s : State) (o : Nat) : (s.dropMat o).warps = s.warps := rfl
@[simp] theorem State.dropMat_blocks (s : State) (o : Nat) : (s.dropMat o).blocks = s.blocks := rfl
@[simp] theorem State.dropMat_clusters (s : State) (o : Nat) : (s.dropMat o).clusters = s.clusters := rfl
@[simp] theorem State.dropMat_launches (s : State) (o : Nat) : (s.dropMat o).launches = s.launches := rfl
@[simp] theorem State.dropMat_queues (s : State) (o : Nat) : (s.dropMat o).queues = s.queues := rfl
@[simp] theorem State.dropMat_cores (s : State) (o : Nat) : (s.dropMat o).cores = s.cores := rfl
@[simp] theorem State.dropMat_xq (s : State) (o : Nat) : (s.dropMat o).xq = s.xq := rfl
@[simp] theorem State.dropMat_scratch (s : State) (o : Nat) : (s.dropMat o).scratch = s.scratch := rfl
@[simp] theorem State.dropMat_side (s : State) (o : Nat) : (s.dropMat o).side = s.side := rfl
@[simp] theorem State.dropMat_gspace (s : State) (o : Nat) : (s.dropMat o).gspace = s.gspace := rfl
@[simp] theorem State.dropMat_mem (s : State) (o : Nat) : (s.dropMat o).mem = s.mem := rfl
@[simp] theorem State.dropMat_poison (s : State) (o : Nat) : (s.dropMat o).poison = s.poison := rfl
@[simp] theorem State.dropMat_l1 (s : State) (o : Nat) : (s.dropMat o).l1 = s.l1 := rfl
@[simp] theorem State.dropMat_icache (s : State) (o : Nat) : (s.dropMat o).icache = s.icache := rfl
@[simp] theorem State.dropMat_home (s : State) (o : Nat) : (s.dropMat o).home = s.home := rfl
@[simp] theorem State.dropMat_tlb (s : State) (o : Nat) : (s.dropMat o).tlb = s.tlb := rfl
@[simp] theorem State.dropMat_portMarks (s : State) (o : Nat) : (s.dropMat o).portMarks = s.portMarks := rfl
@[simp] theorem State.dropMat_htu (s : State) (o : Nat) : (s.dropMat o).htu = s.htu := rfl
@[simp] theorem State.dropMat_plts (s : State) (o : Nat) : (s.dropMat o).plts = s.plts := rfl
@[simp] theorem State.dropMat_ops (s : State) (o : Nat) : (s.dropMat o).ops = s.ops := rfl
@[simp] theorem State.dropMat_engs (s : State) (o : Nat) : (s.dropMat o).engs = s.engs := rfl
@[simp] theorem State.dropMat_promos (s : State) (o : Nat) : (s.dropMat o).promos = s.promos := rfl
@[simp] theorem State.dropMat_groups (s : State) (o : Nat) : (s.dropMat o).groups = s.groups := rfl
@[simp] theorem State.dropMat_pqs (s : State) (o : Nat) : (s.dropMat o).pqs = s.pqs := rfl
@[simp] theorem State.dropMat_granules (s : State) (o : Nat) : (s.dropMat o).granules = s.granules := rfl
@[simp] theorem State.dropMat_saved (s : State) (o : Nat) : (s.dropMat o).saved = s.saved := rfl
@[simp] theorem State.dropMat_invs (s : State) (o : Nat) : (s.dropMat o).invs = s.invs := rfl
@[simp] theorem State.dropMat_hub (s : State) (o : Nat) : (s.dropMat o).hub = s.hub := rfl
@[simp] theorem State.dropMat_fab (s : State) (o : Nat) : (s.dropMat o).fab = s.fab := rfl
@[simp] theorem State.dropMat_power (s : State) (o : Nat) : (s.dropMat o).power = s.power := rfl
@[simp] theorem State.dropMat_time (s : State) (o : Nat) : (s.dropMat o).time = s.time := rfl
@[simp] theorem State.dropMat_traffic (s : State) (o : Nat) : (s.dropMat o).traffic = s.traffic := rfl
@[simp] theorem State.dropMat_slices (s : State) (o : Nat) : (s.dropMat o).slices = s.slices := rfl
@[simp] theorem State.dropMat_outbox (s : State) (o : Nat) : (s.dropMat o).outbox = s.outbox := rfl
@[simp] theorem State.dropMat_turns (s : State) (o : Nat) : (s.dropMat o).turns = s.turns := rfl
@[simp] theorem State.dropMat_cur (s : State) (o : Nat) : (s.dropMat o).cur = s.cur := rfl
@[simp] theorem State.dropMat_torn (s : State) (o : Nat) : (s.dropMat o).torn = s.torn := rfl
@[simp] theorem State.dropMat_nextId (s : State) (o : Nat) : (s.dropMat o).nextId = s.nextId := rfl
@[simp] theorem State.dropMat_cycle (s : State) (o : Nat) : (s.dropMat o).cycle = s.cycle := rfl
@[simp] theorem State.dropMat_swaps (s : State) (o : Nat) : (s.dropMat o).swaps = s.swaps := rfl
@[simp] theorem State.dropMat_stamp (s : State) (o : Nat) : (s.dropMat o).stamp = s.stamp := rfl

/-! `State.poke` -/

@[simp] theorem State.poke_warps (s : State) (pa : Nat) (b : Byte) : (s.poke pa b).warps = s.warps := rfl
@[simp] theorem State.poke_blocks (s : State) (pa : Nat) (b : Byte) : (s.poke pa b).blocks = s.blocks := rfl
@[simp] theorem State.poke_clusters (s : State) (pa : Nat) (b : Byte) : (s.poke pa b).clusters = s.clusters := rfl
@[simp] theorem State.poke_launches (s : State) (pa : Nat) (b : Byte) : (s.poke pa b).launches = s.launches := rfl
@[simp] theorem State.poke_queues (s : State) (pa : Nat) (b : Byte) : (s.poke pa b).queues = s.queues := rfl
@[simp] theorem State.poke_cores (s : State) (pa : Nat) (b : Byte) : (s.poke pa b).cores = s.cores := rfl
@[simp] theorem State.poke_xq (s : State) (pa : Nat) (b : Byte) : (s.poke pa b).xq = s.xq := rfl
@[simp] theorem State.poke_scratch (s : State) (pa : Nat) (b : Byte) : (s.poke pa b).scratch = s.scratch := rfl
@[simp] theorem State.poke_side (s : State) (pa : Nat) (b : Byte) : (s.poke pa b).side = s.side := rfl
@[simp] theorem State.poke_gspace (s : State) (pa : Nat) (b : Byte) : (s.poke pa b).gspace = s.gspace := rfl
@[simp] theorem State.poke_poison (s : State) (pa : Nat) (b : Byte) : (s.poke pa b).poison = s.poison := rfl
@[simp] theorem State.poke_l1 (s : State) (pa : Nat) (b : Byte) : (s.poke pa b).l1 = s.l1 := rfl
@[simp] theorem State.poke_icache (s : State) (pa : Nat) (b : Byte) : (s.poke pa b).icache = s.icache := rfl
@[simp] theorem State.poke_home (s : State) (pa : Nat) (b : Byte) : (s.poke pa b).home = s.home := rfl
@[simp] theorem State.poke_tlb (s : State) (pa : Nat) (b : Byte) : (s.poke pa b).tlb = s.tlb := rfl
@[simp] theorem State.poke_portMarks (s : State) (pa : Nat) (b : Byte) : (s.poke pa b).portMarks = s.portMarks := rfl
@[simp] theorem State.poke_htu (s : State) (pa : Nat) (b : Byte) : (s.poke pa b).htu = s.htu := rfl
@[simp] theorem State.poke_plts (s : State) (pa : Nat) (b : Byte) : (s.poke pa b).plts = s.plts := rfl
@[simp] theorem State.poke_ops (s : State) (pa : Nat) (b : Byte) : (s.poke pa b).ops = s.ops := rfl
@[simp] theorem State.poke_engs (s : State) (pa : Nat) (b : Byte) : (s.poke pa b).engs = s.engs := rfl
@[simp] theorem State.poke_mats (s : State) (pa : Nat) (b : Byte) : (s.poke pa b).mats = s.mats := rfl
@[simp] theorem State.poke_promos (s : State) (pa : Nat) (b : Byte) : (s.poke pa b).promos = s.promos := rfl
@[simp] theorem State.poke_groups (s : State) (pa : Nat) (b : Byte) : (s.poke pa b).groups = s.groups := rfl
@[simp] theorem State.poke_pqs (s : State) (pa : Nat) (b : Byte) : (s.poke pa b).pqs = s.pqs := rfl
@[simp] theorem State.poke_granules (s : State) (pa : Nat) (b : Byte) : (s.poke pa b).granules = s.granules := rfl
@[simp] theorem State.poke_saved (s : State) (pa : Nat) (b : Byte) : (s.poke pa b).saved = s.saved := rfl
@[simp] theorem State.poke_invs (s : State) (pa : Nat) (b : Byte) : (s.poke pa b).invs = s.invs := rfl
@[simp] theorem State.poke_hub (s : State) (pa : Nat) (b : Byte) : (s.poke pa b).hub = s.hub := rfl
@[simp] theorem State.poke_fab (s : State) (pa : Nat) (b : Byte) : (s.poke pa b).fab = s.fab := rfl
@[simp] theorem State.poke_power (s : State) (pa : Nat) (b : Byte) : (s.poke pa b).power = s.power := rfl
@[simp] theorem State.poke_time (s : State) (pa : Nat) (b : Byte) : (s.poke pa b).time = s.time := rfl
@[simp] theorem State.poke_traffic (s : State) (pa : Nat) (b : Byte) : (s.poke pa b).traffic = s.traffic := rfl
@[simp] theorem State.poke_slices (s : State) (pa : Nat) (b : Byte) : (s.poke pa b).slices = s.slices := rfl
@[simp] theorem State.poke_outbox (s : State) (pa : Nat) (b : Byte) : (s.poke pa b).outbox = s.outbox := rfl
@[simp] theorem State.poke_turns (s : State) (pa : Nat) (b : Byte) : (s.poke pa b).turns = s.turns := rfl
@[simp] theorem State.poke_cur (s : State) (pa : Nat) (b : Byte) : (s.poke pa b).cur = s.cur := rfl
@[simp] theorem State.poke_torn (s : State) (pa : Nat) (b : Byte) : (s.poke pa b).torn = s.torn := rfl
@[simp] theorem State.poke_nextId (s : State) (pa : Nat) (b : Byte) : (s.poke pa b).nextId = s.nextId := rfl
@[simp] theorem State.poke_cycle (s : State) (pa : Nat) (b : Byte) : (s.poke pa b).cycle = s.cycle := rfl
@[simp] theorem State.poke_swaps (s : State) (pa : Nat) (b : Byte) : (s.poke pa b).swaps = s.swaps := rfl
@[simp] theorem State.poke_stamp (s : State) (pa : Nat) (b : Byte) : (s.poke pa b).stamp = s.stamp := rfl

/-! `State.bump` -/

@[simp] theorem State.bump_warps (s : State) : (s.bump).warps = s.warps := rfl
@[simp] theorem State.bump_blocks (s : State) : (s.bump).blocks = s.blocks := rfl
@[simp] theorem State.bump_clusters (s : State) : (s.bump).clusters = s.clusters := rfl
@[simp] theorem State.bump_launches (s : State) : (s.bump).launches = s.launches := rfl
@[simp] theorem State.bump_queues (s : State) : (s.bump).queues = s.queues := rfl
@[simp] theorem State.bump_cores (s : State) : (s.bump).cores = s.cores := rfl
@[simp] theorem State.bump_xq (s : State) : (s.bump).xq = s.xq := rfl
@[simp] theorem State.bump_scratch (s : State) : (s.bump).scratch = s.scratch := rfl
@[simp] theorem State.bump_side (s : State) : (s.bump).side = s.side := rfl
@[simp] theorem State.bump_gspace (s : State) : (s.bump).gspace = s.gspace := rfl
@[simp] theorem State.bump_mem (s : State) : (s.bump).mem = s.mem := rfl
@[simp] theorem State.bump_poison (s : State) : (s.bump).poison = s.poison := rfl
@[simp] theorem State.bump_l1 (s : State) : (s.bump).l1 = s.l1 := rfl
@[simp] theorem State.bump_icache (s : State) : (s.bump).icache = s.icache := rfl
@[simp] theorem State.bump_home (s : State) : (s.bump).home = s.home := rfl
@[simp] theorem State.bump_tlb (s : State) : (s.bump).tlb = s.tlb := rfl
@[simp] theorem State.bump_portMarks (s : State) : (s.bump).portMarks = s.portMarks := rfl
@[simp] theorem State.bump_htu (s : State) : (s.bump).htu = s.htu := rfl
@[simp] theorem State.bump_plts (s : State) : (s.bump).plts = s.plts := rfl
@[simp] theorem State.bump_ops (s : State) : (s.bump).ops = s.ops := rfl
@[simp] theorem State.bump_engs (s : State) : (s.bump).engs = s.engs := rfl
@[simp] theorem State.bump_mats (s : State) : (s.bump).mats = s.mats := rfl
@[simp] theorem State.bump_promos (s : State) : (s.bump).promos = s.promos := rfl
@[simp] theorem State.bump_groups (s : State) : (s.bump).groups = s.groups := rfl
@[simp] theorem State.bump_pqs (s : State) : (s.bump).pqs = s.pqs := rfl
@[simp] theorem State.bump_granules (s : State) : (s.bump).granules = s.granules := rfl
@[simp] theorem State.bump_saved (s : State) : (s.bump).saved = s.saved := rfl
@[simp] theorem State.bump_invs (s : State) : (s.bump).invs = s.invs := rfl
@[simp] theorem State.bump_hub (s : State) : (s.bump).hub = s.hub := rfl
@[simp] theorem State.bump_fab (s : State) : (s.bump).fab = s.fab := rfl
@[simp] theorem State.bump_power (s : State) : (s.bump).power = s.power := rfl
@[simp] theorem State.bump_time (s : State) : (s.bump).time = s.time := rfl
@[simp] theorem State.bump_traffic (s : State) : (s.bump).traffic = s.traffic := rfl
@[simp] theorem State.bump_slices (s : State) : (s.bump).slices = s.slices := rfl
@[simp] theorem State.bump_outbox (s : State) : (s.bump).outbox = s.outbox := rfl
@[simp] theorem State.bump_turns (s : State) : (s.bump).turns = s.turns := rfl
@[simp] theorem State.bump_cur (s : State) : (s.bump).cur = s.cur := rfl
@[simp] theorem State.bump_torn (s : State) : (s.bump).torn = s.torn := rfl
@[simp] theorem State.bump_nextId (s : State) : (s.bump).nextId = s.nextId := rfl
@[simp] theorem State.bump_cycle (s : State) : (s.bump).cycle = s.cycle := rfl
@[simp] theorem State.bump_swaps (s : State) : (s.bump).swaps = s.swaps := rfl

/-! `State.send` -/

@[simp] theorem State.send_warps (s : State) (m : Msg) : (s.send m).warps = s.warps := rfl
@[simp] theorem State.send_blocks (s : State) (m : Msg) : (s.send m).blocks = s.blocks := rfl
@[simp] theorem State.send_clusters (s : State) (m : Msg) : (s.send m).clusters = s.clusters := rfl
@[simp] theorem State.send_launches (s : State) (m : Msg) : (s.send m).launches = s.launches := rfl
@[simp] theorem State.send_queues (s : State) (m : Msg) : (s.send m).queues = s.queues := rfl
@[simp] theorem State.send_cores (s : State) (m : Msg) : (s.send m).cores = s.cores := rfl
@[simp] theorem State.send_xq (s : State) (m : Msg) : (s.send m).xq = s.xq := rfl
@[simp] theorem State.send_scratch (s : State) (m : Msg) : (s.send m).scratch = s.scratch := rfl
@[simp] theorem State.send_side (s : State) (m : Msg) : (s.send m).side = s.side := rfl
@[simp] theorem State.send_gspace (s : State) (m : Msg) : (s.send m).gspace = s.gspace := rfl
@[simp] theorem State.send_mem (s : State) (m : Msg) : (s.send m).mem = s.mem := rfl
@[simp] theorem State.send_poison (s : State) (m : Msg) : (s.send m).poison = s.poison := rfl
@[simp] theorem State.send_l1 (s : State) (m : Msg) : (s.send m).l1 = s.l1 := rfl
@[simp] theorem State.send_icache (s : State) (m : Msg) : (s.send m).icache = s.icache := rfl
@[simp] theorem State.send_home (s : State) (m : Msg) : (s.send m).home = s.home := rfl
@[simp] theorem State.send_tlb (s : State) (m : Msg) : (s.send m).tlb = s.tlb := rfl
@[simp] theorem State.send_portMarks (s : State) (m : Msg) : (s.send m).portMarks = s.portMarks := rfl
@[simp] theorem State.send_htu (s : State) (m : Msg) : (s.send m).htu = s.htu := rfl
@[simp] theorem State.send_plts (s : State) (m : Msg) : (s.send m).plts = s.plts := rfl
@[simp] theorem State.send_ops (s : State) (m : Msg) : (s.send m).ops = s.ops := rfl
@[simp] theorem State.send_engs (s : State) (m : Msg) : (s.send m).engs = s.engs := rfl
@[simp] theorem State.send_mats (s : State) (m : Msg) : (s.send m).mats = s.mats := rfl
@[simp] theorem State.send_promos (s : State) (m : Msg) : (s.send m).promos = s.promos := rfl
@[simp] theorem State.send_groups (s : State) (m : Msg) : (s.send m).groups = s.groups := rfl
@[simp] theorem State.send_pqs (s : State) (m : Msg) : (s.send m).pqs = s.pqs := rfl
@[simp] theorem State.send_granules (s : State) (m : Msg) : (s.send m).granules = s.granules := rfl
@[simp] theorem State.send_saved (s : State) (m : Msg) : (s.send m).saved = s.saved := rfl
@[simp] theorem State.send_invs (s : State) (m : Msg) : (s.send m).invs = s.invs := rfl
@[simp] theorem State.send_hub (s : State) (m : Msg) : (s.send m).hub = s.hub := rfl
@[simp] theorem State.send_fab (s : State) (m : Msg) : (s.send m).fab = s.fab := rfl
@[simp] theorem State.send_power (s : State) (m : Msg) : (s.send m).power = s.power := rfl
@[simp] theorem State.send_time (s : State) (m : Msg) : (s.send m).time = s.time := rfl
@[simp] theorem State.send_traffic (s : State) (m : Msg) : (s.send m).traffic = s.traffic := rfl
@[simp] theorem State.send_slices (s : State) (m : Msg) : (s.send m).slices = s.slices := rfl
@[simp] theorem State.send_turns (s : State) (m : Msg) : (s.send m).turns = s.turns := rfl
@[simp] theorem State.send_cur (s : State) (m : Msg) : (s.send m).cur = s.cur := rfl
@[simp] theorem State.send_torn (s : State) (m : Msg) : (s.send m).torn = s.torn := rfl
@[simp] theorem State.send_nextId (s : State) (m : Msg) : (s.send m).nextId = s.nextId := rfl
@[simp] theorem State.send_cycle (s : State) (m : Msg) : (s.send m).cycle = s.cycle := rfl
@[simp] theorem State.send_swaps (s : State) (m : Msg) : (s.send m).swaps = s.swaps := rfl
@[simp] theorem State.send_stamp (s : State) (m : Msg) : (s.send m).stamp = s.stamp := rfl

/-! `Warp.setThr` -/

@[simp] theorem Warp.setThr_live (w : Warp) (l : Nat) (t : Thread) : (w.setThr l t).live = w.live := rfl
@[simp] theorem Warp.setThr_uid (w : Warp) (l : Nat) (t : Thread) : (w.setThr l t).uid = w.uid := rfl
@[simp] theorem Warp.setThr_launch (w : Warp) (l : Nat) (t : Thread) : (w.setThr l t).launch = w.launch := rfl
@[simp] theorem Warp.setThr_block (w : Warp) (l : Nat) (t : Thread) : (w.setThr l t).block = w.block := rfl
@[simp] theorem Warp.setThr_index (w : Warp) (l : Nat) (t : Thread) : (w.setThr l t).index = w.index := rfl
@[simp] theorem Warp.setThr_vregs (w : Warp) (l : Nat) (t : Thread) : (w.setThr l t).vregs = w.vregs := rfl
@[simp] theorem Warp.setThr_sregs (w : Warp) (l : Nat) (t : Thread) : (w.setThr l t).sregs = w.sregs := rfl
@[simp] theorem Warp.setThr_sc (w : Warp) (l : Nat) (t : Thread) : (w.setThr l t).sc = w.sc := rfl
@[simp] theorem Warp.setThr_kregs (w : Warp) (l : Nat) (t : Thread) : (w.setThr l t).kregs = w.kregs := rfl
@[simp] theorem Warp.setThr_arrive (w : Warp) (l : Nat) (t : Thread) : (w.setThr l t).arrive = w.arrive := rfl
@[simp] theorem Warp.setThr_ctr (w : Warp) (l : Nat) (t : Thread) : (w.setThr l t).ctr = w.ctr := rfl
@[simp] theorem Warp.setThr_xblocks (w : Warp) (l : Nat) (t : Thread) : (w.setThr l t).xblocks = w.xblocks := rfl
@[simp] theorem Warp.setThr_exm (w : Warp) (l : Nat) (t : Thread) : (w.setThr l t).exm = w.exm := rfl
@[simp] theorem Warp.setThr_unc (w : Warp) (l : Nat) (t : Thread) : (w.setThr l t).unc = w.unc := rfl
@[simp] theorem Warp.setThr_budget (w : Warp) (l : Nat) (t : Thread) : (w.setThr l t).budget = w.budget := rfl
@[simp] theorem Warp.setThr_awb (w : Warp) (l : Nat) (t : Thread) : (w.setThr l t).awb = w.awb := rfl
@[simp] theorem Warp.setThr_awl (w : Warp) (l : Nat) (t : Thread) : (w.setThr l t).awl = w.awl := rfl
@[simp] theorem Warp.setThr_medge (w : Warp) (l : Nat) (t : Thread) : (w.setThr l t).medge = w.medge := rfl
@[simp] theorem Warp.setThr_mbank (w : Warp) (l : Nat) (t : Thread) : (w.setThr l t).mbank = w.mbank := rfl
@[simp] theorem Warp.setThr_tvec (w : Warp) (l : Nat) (t : Thread) : (w.setThr l t).tvec = w.tvec := rfl
@[simp] theorem Warp.setThr_tframe (w : Warp) (l : Nat) (t : Thread) : (w.setThr l t).tframe = w.tframe := rfl
@[simp] theorem Warp.setThr_issue (w : Warp) (l : Nat) (t : Thread) : (w.setThr l t).issue = w.issue := rfl
@[simp] theorem Warp.setThr_turn (w : Warp) (l : Nat) (t : Thread) : (w.setThr l t).turn = w.turn := rfl
@[simp] theorem Warp.setThr_turnMask (w : Warp) (l : Nat) (t : Thread) : (w.setThr l t).turnMask = w.turnMask := rfl
@[simp] theorem Warp.setThr_hold (w : Warp) (l : Nat) (t : Thread) : (w.setThr l t).hold = w.hold := rfl
@[simp] theorem Warp.setThr_trap (w : Warp) (l : Nat) (t : Thread) : (w.setThr l t).trap = w.trap := rfl
@[simp] theorem Warp.setThr_trapQueue (w : Warp) (l : Nat) (t : Thread) : (w.setThr l t).trapQueue = w.trapQueue := rfl
@[simp] theorem Warp.setThr_deferred (w : Warp) (l : Nat) (t : Thread) : (w.setThr l t).deferred = w.deferred := rfl
@[simp] theorem Warp.setThr_seq (w : Warp) (l : Nat) (t : Thread) : (w.setThr l t).seq = w.seq := rfl
@[simp] theorem Warp.setThr_acqMark (w : Warp) (l : Nat) (t : Thread) : (w.setThr l t).acqMark = w.acqMark := rfl
@[simp] theorem Warp.setThr_fetched (w : Warp) (l : Nat) (t : Thread) : (w.setThr l t).fetched = w.fetched := rfl
@[simp] theorem Warp.setThr_active (w : Warp) (l : Nat) (t : Thread) : (w.setThr l t).active = w.active := rfl
@[simp] theorem Warp.setThr_ready (w : Warp) (l : Nat) (t : Thread) : (w.setThr l t).ready = w.ready := rfl
@[simp] theorem Warp.setThr_since (w : Warp) (l : Nat) (t : Thread) : (w.setThr l t).since = w.since := rfl
@[simp] theorem Warp.setThr_stamp (w : Warp) (l : Nat) (t : Thread) : (w.setThr l t).stamp = w.stamp := rfl
@[simp] theorem Warp.setThr_role (w : Warp) (l : Nat) (t : Thread) : (w.setThr l t).role = w.role := rfl
@[simp] theorem Warp.setThr_recs (w : Warp) (l : Nat) (t : Thread) : (w.setThr l t).recs = w.recs := rfl
@[simp] theorem Warp.setThr_lag (w : Warp) (l : Nat) (t : Thread) : (w.setThr l t).lag = w.lag := rfl
@[simp] theorem Warp.setThr_struck (w : Warp) (l : Nat) (t : Thread) : (w.setThr l t).struck = w.struck := rfl

/-! `Warp.setV` -/

@[simp] theorem Warp.setV_live (w : Warp) (r l : Nat) (x : LV) : (w.setV r l x).live = w.live := rfl
@[simp] theorem Warp.setV_uid (w : Warp) (r l : Nat) (x : LV) : (w.setV r l x).uid = w.uid := rfl
@[simp] theorem Warp.setV_launch (w : Warp) (r l : Nat) (x : LV) : (w.setV r l x).launch = w.launch := rfl
@[simp] theorem Warp.setV_block (w : Warp) (r l : Nat) (x : LV) : (w.setV r l x).block = w.block := rfl
@[simp] theorem Warp.setV_index (w : Warp) (r l : Nat) (x : LV) : (w.setV r l x).index = w.index := rfl
@[simp] theorem Warp.setV_threads (w : Warp) (r l : Nat) (x : LV) : (w.setV r l x).threads = w.threads := rfl
@[simp] theorem Warp.setV_sregs (w : Warp) (r l : Nat) (x : LV) : (w.setV r l x).sregs = w.sregs := rfl
@[simp] theorem Warp.setV_sc (w : Warp) (r l : Nat) (x : LV) : (w.setV r l x).sc = w.sc := rfl
@[simp] theorem Warp.setV_kregs (w : Warp) (r l : Nat) (x : LV) : (w.setV r l x).kregs = w.kregs := rfl
@[simp] theorem Warp.setV_arrive (w : Warp) (r l : Nat) (x : LV) : (w.setV r l x).arrive = w.arrive := rfl
@[simp] theorem Warp.setV_ctr (w : Warp) (r l : Nat) (x : LV) : (w.setV r l x).ctr = w.ctr := rfl
@[simp] theorem Warp.setV_xblocks (w : Warp) (r l : Nat) (x : LV) : (w.setV r l x).xblocks = w.xblocks := rfl
@[simp] theorem Warp.setV_exm (w : Warp) (r l : Nat) (x : LV) : (w.setV r l x).exm = w.exm := rfl
@[simp] theorem Warp.setV_unc (w : Warp) (r l : Nat) (x : LV) : (w.setV r l x).unc = w.unc := rfl
@[simp] theorem Warp.setV_budget (w : Warp) (r l : Nat) (x : LV) : (w.setV r l x).budget = w.budget := rfl
@[simp] theorem Warp.setV_awb (w : Warp) (r l : Nat) (x : LV) : (w.setV r l x).awb = w.awb := rfl
@[simp] theorem Warp.setV_awl (w : Warp) (r l : Nat) (x : LV) : (w.setV r l x).awl = w.awl := rfl
@[simp] theorem Warp.setV_medge (w : Warp) (r l : Nat) (x : LV) : (w.setV r l x).medge = w.medge := rfl
@[simp] theorem Warp.setV_mbank (w : Warp) (r l : Nat) (x : LV) : (w.setV r l x).mbank = w.mbank := rfl
@[simp] theorem Warp.setV_tvec (w : Warp) (r l : Nat) (x : LV) : (w.setV r l x).tvec = w.tvec := rfl
@[simp] theorem Warp.setV_tframe (w : Warp) (r l : Nat) (x : LV) : (w.setV r l x).tframe = w.tframe := rfl
@[simp] theorem Warp.setV_issue (w : Warp) (r l : Nat) (x : LV) : (w.setV r l x).issue = w.issue := rfl
@[simp] theorem Warp.setV_turn (w : Warp) (r l : Nat) (x : LV) : (w.setV r l x).turn = w.turn := rfl
@[simp] theorem Warp.setV_turnMask (w : Warp) (r l : Nat) (x : LV) : (w.setV r l x).turnMask = w.turnMask := rfl
@[simp] theorem Warp.setV_hold (w : Warp) (r l : Nat) (x : LV) : (w.setV r l x).hold = w.hold := rfl
@[simp] theorem Warp.setV_trap (w : Warp) (r l : Nat) (x : LV) : (w.setV r l x).trap = w.trap := rfl
@[simp] theorem Warp.setV_trapQueue (w : Warp) (r l : Nat) (x : LV) : (w.setV r l x).trapQueue = w.trapQueue := rfl
@[simp] theorem Warp.setV_deferred (w : Warp) (r l : Nat) (x : LV) : (w.setV r l x).deferred = w.deferred := rfl
@[simp] theorem Warp.setV_seq (w : Warp) (r l : Nat) (x : LV) : (w.setV r l x).seq = w.seq := rfl
@[simp] theorem Warp.setV_acqMark (w : Warp) (r l : Nat) (x : LV) : (w.setV r l x).acqMark = w.acqMark := rfl
@[simp] theorem Warp.setV_fetched (w : Warp) (r l : Nat) (x : LV) : (w.setV r l x).fetched = w.fetched := rfl
@[simp] theorem Warp.setV_active (w : Warp) (r l : Nat) (x : LV) : (w.setV r l x).active = w.active := rfl
@[simp] theorem Warp.setV_ready (w : Warp) (r l : Nat) (x : LV) : (w.setV r l x).ready = w.ready := rfl
@[simp] theorem Warp.setV_since (w : Warp) (r l : Nat) (x : LV) : (w.setV r l x).since = w.since := rfl
@[simp] theorem Warp.setV_stamp (w : Warp) (r l : Nat) (x : LV) : (w.setV r l x).stamp = w.stamp := rfl
@[simp] theorem Warp.setV_role (w : Warp) (r l : Nat) (x : LV) : (w.setV r l x).role = w.role := rfl
@[simp] theorem Warp.setV_recs (w : Warp) (r l : Nat) (x : LV) : (w.setV r l x).recs = w.recs := rfl
@[simp] theorem Warp.setV_lag (w : Warp) (r l : Nat) (x : LV) : (w.setV r l x).lag = w.lag := rfl
@[simp] theorem Warp.setV_struck (w : Warp) (r l : Nat) (x : LV) : (w.setV r l x).struck = w.struck := rfl

/-! `Warp.setS` -/

@[simp] theorem Warp.setS_live (w : Warp) (r : Nat) (x : Word) : (w.setS r x).live = w.live := rfl
@[simp] theorem Warp.setS_uid (w : Warp) (r : Nat) (x : Word) : (w.setS r x).uid = w.uid := rfl
@[simp] theorem Warp.setS_launch (w : Warp) (r : Nat) (x : Word) : (w.setS r x).launch = w.launch := rfl
@[simp] theorem Warp.setS_block (w : Warp) (r : Nat) (x : Word) : (w.setS r x).block = w.block := rfl
@[simp] theorem Warp.setS_index (w : Warp) (r : Nat) (x : Word) : (w.setS r x).index = w.index := rfl
@[simp] theorem Warp.setS_threads (w : Warp) (r : Nat) (x : Word) : (w.setS r x).threads = w.threads := rfl
@[simp] theorem Warp.setS_vregs (w : Warp) (r : Nat) (x : Word) : (w.setS r x).vregs = w.vregs := rfl
@[simp] theorem Warp.setS_sc (w : Warp) (r : Nat) (x : Word) : (w.setS r x).sc = w.sc := rfl
@[simp] theorem Warp.setS_kregs (w : Warp) (r : Nat) (x : Word) : (w.setS r x).kregs = w.kregs := rfl
@[simp] theorem Warp.setS_arrive (w : Warp) (r : Nat) (x : Word) : (w.setS r x).arrive = w.arrive := rfl
@[simp] theorem Warp.setS_ctr (w : Warp) (r : Nat) (x : Word) : (w.setS r x).ctr = w.ctr := rfl
@[simp] theorem Warp.setS_xblocks (w : Warp) (r : Nat) (x : Word) : (w.setS r x).xblocks = w.xblocks := rfl
@[simp] theorem Warp.setS_exm (w : Warp) (r : Nat) (x : Word) : (w.setS r x).exm = w.exm := rfl
@[simp] theorem Warp.setS_unc (w : Warp) (r : Nat) (x : Word) : (w.setS r x).unc = w.unc := rfl
@[simp] theorem Warp.setS_budget (w : Warp) (r : Nat) (x : Word) : (w.setS r x).budget = w.budget := rfl
@[simp] theorem Warp.setS_awb (w : Warp) (r : Nat) (x : Word) : (w.setS r x).awb = w.awb := rfl
@[simp] theorem Warp.setS_awl (w : Warp) (r : Nat) (x : Word) : (w.setS r x).awl = w.awl := rfl
@[simp] theorem Warp.setS_medge (w : Warp) (r : Nat) (x : Word) : (w.setS r x).medge = w.medge := rfl
@[simp] theorem Warp.setS_mbank (w : Warp) (r : Nat) (x : Word) : (w.setS r x).mbank = w.mbank := rfl
@[simp] theorem Warp.setS_tvec (w : Warp) (r : Nat) (x : Word) : (w.setS r x).tvec = w.tvec := rfl
@[simp] theorem Warp.setS_tframe (w : Warp) (r : Nat) (x : Word) : (w.setS r x).tframe = w.tframe := rfl
@[simp] theorem Warp.setS_issue (w : Warp) (r : Nat) (x : Word) : (w.setS r x).issue = w.issue := rfl
@[simp] theorem Warp.setS_turn (w : Warp) (r : Nat) (x : Word) : (w.setS r x).turn = w.turn := rfl
@[simp] theorem Warp.setS_turnMask (w : Warp) (r : Nat) (x : Word) : (w.setS r x).turnMask = w.turnMask := rfl
@[simp] theorem Warp.setS_hold (w : Warp) (r : Nat) (x : Word) : (w.setS r x).hold = w.hold := rfl
@[simp] theorem Warp.setS_trap (w : Warp) (r : Nat) (x : Word) : (w.setS r x).trap = w.trap := rfl
@[simp] theorem Warp.setS_trapQueue (w : Warp) (r : Nat) (x : Word) : (w.setS r x).trapQueue = w.trapQueue := rfl
@[simp] theorem Warp.setS_deferred (w : Warp) (r : Nat) (x : Word) : (w.setS r x).deferred = w.deferred := rfl
@[simp] theorem Warp.setS_seq (w : Warp) (r : Nat) (x : Word) : (w.setS r x).seq = w.seq := rfl
@[simp] theorem Warp.setS_acqMark (w : Warp) (r : Nat) (x : Word) : (w.setS r x).acqMark = w.acqMark := rfl
@[simp] theorem Warp.setS_fetched (w : Warp) (r : Nat) (x : Word) : (w.setS r x).fetched = w.fetched := rfl
@[simp] theorem Warp.setS_active (w : Warp) (r : Nat) (x : Word) : (w.setS r x).active = w.active := rfl
@[simp] theorem Warp.setS_ready (w : Warp) (r : Nat) (x : Word) : (w.setS r x).ready = w.ready := rfl
@[simp] theorem Warp.setS_since (w : Warp) (r : Nat) (x : Word) : (w.setS r x).since = w.since := rfl
@[simp] theorem Warp.setS_stamp (w : Warp) (r : Nat) (x : Word) : (w.setS r x).stamp = w.stamp := rfl
@[simp] theorem Warp.setS_role (w : Warp) (r : Nat) (x : Word) : (w.setS r x).role = w.role := rfl
@[simp] theorem Warp.setS_recs (w : Warp) (r : Nat) (x : Word) : (w.setS r x).recs = w.recs := rfl
@[simp] theorem Warp.setS_lag (w : Warp) (r : Nat) (x : Word) : (w.setS r x).lag = w.lag := rfl
@[simp] theorem Warp.setS_struck (w : Warp) (r : Nat) (x : Word) : (w.setS r x).struck = w.struck := rfl

/-! `Warp.setK` -/

@[simp] theorem Warp.setK_live (w : Warp) (r : Nat) (m : Mask) : (w.setK r m).live = w.live := rfl
@[simp] theorem Warp.setK_uid (w : Warp) (r : Nat) (m : Mask) : (w.setK r m).uid = w.uid := rfl
@[simp] theorem Warp.setK_launch (w : Warp) (r : Nat) (m : Mask) : (w.setK r m).launch = w.launch := rfl
@[simp] theorem Warp.setK_block (w : Warp) (r : Nat) (m : Mask) : (w.setK r m).block = w.block := rfl
@[simp] theorem Warp.setK_index (w : Warp) (r : Nat) (m : Mask) : (w.setK r m).index = w.index := rfl
@[simp] theorem Warp.setK_threads (w : Warp) (r : Nat) (m : Mask) : (w.setK r m).threads = w.threads := rfl
@[simp] theorem Warp.setK_vregs (w : Warp) (r : Nat) (m : Mask) : (w.setK r m).vregs = w.vregs := rfl
@[simp] theorem Warp.setK_sregs (w : Warp) (r : Nat) (m : Mask) : (w.setK r m).sregs = w.sregs := rfl
@[simp] theorem Warp.setK_sc (w : Warp) (r : Nat) (m : Mask) : (w.setK r m).sc = w.sc := rfl
@[simp] theorem Warp.setK_arrive (w : Warp) (r : Nat) (m : Mask) : (w.setK r m).arrive = w.arrive := rfl
@[simp] theorem Warp.setK_ctr (w : Warp) (r : Nat) (m : Mask) : (w.setK r m).ctr = w.ctr := rfl
@[simp] theorem Warp.setK_xblocks (w : Warp) (r : Nat) (m : Mask) : (w.setK r m).xblocks = w.xblocks := rfl
@[simp] theorem Warp.setK_exm (w : Warp) (r : Nat) (m : Mask) : (w.setK r m).exm = w.exm := rfl
@[simp] theorem Warp.setK_unc (w : Warp) (r : Nat) (m : Mask) : (w.setK r m).unc = w.unc := rfl
@[simp] theorem Warp.setK_budget (w : Warp) (r : Nat) (m : Mask) : (w.setK r m).budget = w.budget := rfl
@[simp] theorem Warp.setK_awb (w : Warp) (r : Nat) (m : Mask) : (w.setK r m).awb = w.awb := rfl
@[simp] theorem Warp.setK_awl (w : Warp) (r : Nat) (m : Mask) : (w.setK r m).awl = w.awl := rfl
@[simp] theorem Warp.setK_medge (w : Warp) (r : Nat) (m : Mask) : (w.setK r m).medge = w.medge := rfl
@[simp] theorem Warp.setK_mbank (w : Warp) (r : Nat) (m : Mask) : (w.setK r m).mbank = w.mbank := rfl
@[simp] theorem Warp.setK_tvec (w : Warp) (r : Nat) (m : Mask) : (w.setK r m).tvec = w.tvec := rfl
@[simp] theorem Warp.setK_tframe (w : Warp) (r : Nat) (m : Mask) : (w.setK r m).tframe = w.tframe := rfl
@[simp] theorem Warp.setK_issue (w : Warp) (r : Nat) (m : Mask) : (w.setK r m).issue = w.issue := rfl
@[simp] theorem Warp.setK_turn (w : Warp) (r : Nat) (m : Mask) : (w.setK r m).turn = w.turn := rfl
@[simp] theorem Warp.setK_turnMask (w : Warp) (r : Nat) (m : Mask) : (w.setK r m).turnMask = w.turnMask := rfl
@[simp] theorem Warp.setK_hold (w : Warp) (r : Nat) (m : Mask) : (w.setK r m).hold = w.hold := rfl
@[simp] theorem Warp.setK_trap (w : Warp) (r : Nat) (m : Mask) : (w.setK r m).trap = w.trap := rfl
@[simp] theorem Warp.setK_trapQueue (w : Warp) (r : Nat) (m : Mask) : (w.setK r m).trapQueue = w.trapQueue := rfl
@[simp] theorem Warp.setK_deferred (w : Warp) (r : Nat) (m : Mask) : (w.setK r m).deferred = w.deferred := rfl
@[simp] theorem Warp.setK_seq (w : Warp) (r : Nat) (m : Mask) : (w.setK r m).seq = w.seq := rfl
@[simp] theorem Warp.setK_acqMark (w : Warp) (r : Nat) (m : Mask) : (w.setK r m).acqMark = w.acqMark := rfl
@[simp] theorem Warp.setK_fetched (w : Warp) (r : Nat) (m : Mask) : (w.setK r m).fetched = w.fetched := rfl
@[simp] theorem Warp.setK_active (w : Warp) (r : Nat) (m : Mask) : (w.setK r m).active = w.active := rfl
@[simp] theorem Warp.setK_ready (w : Warp) (r : Nat) (m : Mask) : (w.setK r m).ready = w.ready := rfl
@[simp] theorem Warp.setK_since (w : Warp) (r : Nat) (m : Mask) : (w.setK r m).since = w.since := rfl
@[simp] theorem Warp.setK_stamp (w : Warp) (r : Nat) (m : Mask) : (w.setK r m).stamp = w.stamp := rfl
@[simp] theorem Warp.setK_role (w : Warp) (r : Nat) (m : Mask) : (w.setK r m).role = w.role := rfl
@[simp] theorem Warp.setK_recs (w : Warp) (r : Nat) (m : Mask) : (w.setK r m).recs = w.recs := rfl
@[simp] theorem Warp.setK_lag (w : Warp) (r : Nat) (m : Mask) : (w.setK r m).lag = w.lag := rfl
@[simp] theorem Warp.setK_struck (w : Warp) (r : Nat) (m : Mask) : (w.setK r m).struck = w.struck := rfl

/-! ## What is written -/

@[simp] theorem State.warp_setWarp_same (s : State) (k : Nat) (w : Warp) : (s.setWarp k w).warp k = w := by
  simp [State.warp, State.setWarp]

theorem State.warp_setWarp_other (s : State) (k j : Nat) (w : Warp) (h : j ≠ k) : (s.setWarp k w).warp j = s.warp j :=
  Map.get_set_other _ _ _ _ _ h

@[simp] theorem State.warp_updWarp_same (s : State) (k : Nat) (f : Warp → Warp) : (s.updWarp k f).warp k = f (s.warp k) := by
  simp [State.updWarp]

theorem State.warp_updWarp_other (s : State) (k j : Nat) (f : Warp → Warp) (h : j ≠ k) : (s.updWarp k f).warp j = s.warp j :=
  State.warp_setWarp_other _ _ _ _ h

/-- The issuing warp after a change of it. -/
@[simp] theorem State.cw_updCw (s : State) (f : Warp → Warp) : (s.updCw f).cw = f s.cw := by
  simp [State.updCw, State.cw, State.updWarp]

theorem State.warp_updCw_other (s : State) (f : Warp → Warp) (k : Nat) (h : k ≠ s.cur) : (s.updCw f).warp k = s.warp k :=
  State.warp_setWarp_other _ _ _ _ h

@[simp] theorem State.cw_bump (s : State) : s.bump.cw = s.cw := rfl
@[simp] theorem State.warp_bump (s : State) (k : Nat) : s.bump.warp k = s.warp k := rfl
@[simp] theorem State.peek_setWarp (s : State) (k : Nat) (w : Warp) (a : Nat) : (s.setWarp k w).peek a = s.peek a := rfl
@[simp] theorem State.peek_bump (s : State) (a : Nat) : s.bump.peek a = s.peek a := rfl
@[simp] theorem State.peek_updCw (s : State) (f : Warp → Warp) (a : Nat) : (s.updCw f).peek a = s.peek a := rfl

/-- A byte written reads back. -/
@[simp] theorem State.peek_poke_same (s : State) (pa : Nat) (b : Byte) : (s.poke pa b).peek pa = b := by
  simp [State.peek, State.poke]

/-- Every other byte reads as before. -/
theorem State.peek_poke_other (s : State) (pa a : Nat) (b : Byte) (h : a ≠ pa) : (s.poke pa b).peek a = s.peek a :=
  Map.get_set_other _ _ _ _ _ h

@[simp] theorem Warp.thr_setThr_same (w : Warp) (l : Nat) (t : Thread) : (w.setThr l t).thr l = t := by
  simp [Warp.thr, Warp.setThr]

theorem Warp.thr_setThr_other (w : Warp) (l j : Nat) (t : Thread) (h : j ≠ l) : (w.setThr l t).thr j = w.thr j :=
  Map.get_set_other _ _ _ _ _ h

@[simp] theorem Warp.s_setS_same (w : Warp) (r : Nat) (x : Word) : (w.setS r x).s r = x := by simp [Warp.s, Warp.setS]

theorem Warp.s_setS_other (w : Warp) (r j : Nat) (x : Word) (h : j ≠ r) : (w.setS r x).s j = w.s j :=
  Map.get_set_other _ _ _ _ _ h

@[simp] theorem Warp.v_setV_same (w : Warp) (r l : Nat) (x : LV) : (w.setV r l x).v r l = x := by simp [Warp.v, Warp.setV]

/-- Two lanes of vector registers have one key only when they are one. -/
theorem vkey_inj (r l q j : Nat) (hl : l < 32) (hj : j < 32) (h : vkey r l = vkey q j) : r = q ∧ l = j := by
  unfold vkey at h; omega

theorem Warp.v_setV_other (w : Warp) (r l q j : Nat) (x : LV) (h : vkey q j ≠ vkey r l) : (w.setV r l x).v q j = w.v q j :=
  Map.get_set_other _ _ _ _ _ h

/-- A mask register written: k0 reads as the issue mask whatever is written. -/
theorem Warp.k_setK (w : Warp) (r j : Nat) (m : Mask) : (w.setK r m).k j = if j = r ∧ r ≠ 0 then m else w.k j := by
  unfold Warp.k Warp.setK
  by_cases h0 : j = 0
  · subst h0; simp; omega
  · by_cases h : j = r
    · subst h; simp [h0]
    · simp [h0, h, Map.get_set_other _ _ _ _ _ h]

@[simp] theorem State.op?_setOp_same (s : State) (o : Nat) (x : MemOp) : (s.setOp o x).op? o = some x := by
  simp [State.op?, State.setOp]

@[simp] theorem State.launch?_setLaunch_same (s : State) (l : Nat) (x : Launch) : (s.setLaunch l x).launch? l = some x := by
  simp [State.launch?, State.setLaunch]

end Sys2Proof.Machine
end

