-- ==== Sys2Proof/Laws/Ops.lean ====
section
/-! SUPPORT. What the shared operations of a warp can do: changing threads, settling, ending an instruction, writing registers,
and the checks at issue. -/

namespace Sys2Proof.Machine

/-! ## Lanes of a mask -/

theorem mem_lanesOf (m : Mask) (l : Nat) : l ∈ lanesOf m ↔ m.getLsbD l = true := by
  unfold lanesOf
  rw [List.mem_filter, List.mem_range]
  constructor
  · exact fun h => h.2
  · intro h
    refine ⟨?_, h⟩
    by_contra hl
    rw [BitVec.getLsbD_of_ge m l (by omega)] at h
    exact absurd h (by simp)

theorem nodup_lanesOf (m : Mask) : (lanesOf m).Nodup := List.Nodup.filter _ List.nodup_range

/-! ## Changing threads -/

/-- A fold that changes the warp only by its threads. -/
theorem updThrs_threads (w : Warp) (m : Mask) (f : Nat → Thread → Thread) :
    w.updThrs m f = { w with threads := (w.updThrs m f).threads } := by
  unfold Warp.updThrs
  generalize lanesOf m = ls
  induction ls generalizing w with
  | nil => rfl
  | cons l t ih => rw [List.foldl_cons, ih]; rfl

/-- A thread after a change of the threads of a mask. -/
theorem thr_updThrs (w : Warp) (m : Mask) (f : Nat → Thread → Thread) (l : Nat) :
    (w.updThrs m f).thr l = if m.getLsbD l then f l (w.thr l) else w.thr l := by
  have key : ∀ (ls : List Nat) (w : Warp), ls.Nodup →
      (ls.foldl (fun w l => w.setThr l (f l (w.thr l))) w).thr l = if l ∈ ls then f l (w.thr l) else w.thr l := by
    intro ls
    induction ls with
    | nil => intro w _; simp
    | cons a t ih =>
      intro w hn
      rw [List.nodup_cons] at hn
      rw [List.foldl_cons, ih _ hn.2]
      by_cases h : l = a
      · subst h; simp [hn.1]
      · simp [h, Warp.thr_setThr_other _ _ _ _ h]
  unfold Warp.updThrs
  rw [key _ _ (nodup_lanesOf m)]
  simp [mem_lanesOf]

/-! ## Settling (R36, R40) -/

/-- What settling and waking change: threads and arrive masks. -/
def Warp.sameButThreads (w w' : Warp) : Prop := w' = { w with threads := w'.threads, arrive := w'.arrive }

/-- The fields of a thread that settling leaves alone. -/
def Thread.sameButState (t t' : Thread) : Prop := t' = { t with st := t'.st, mr := t'.mr, age := t'.age }

/-- A change of a warp that leaves everything but thread states, meeting points, ages and arrive masks. -/
def Warp.Settles (w w' : Warp) : Prop := w.sameButThreads w' ∧ ∀ l, (w.thr l).sameButState (w'.thr l)

theorem Warp.Settles.refl (w : Warp) : w.Settles w := ⟨rfl, fun _ => rfl⟩

theorem Warp.Settles.trans {a b c : Warp} (h : a.Settles b) (g : b.Settles c) : a.Settles c := by
  obtain ⟨h1, h2⟩ := h
  obtain ⟨g1, g2⟩ := g
  refine ⟨?_, fun l => ?_⟩
  · unfold Warp.sameButThreads at *; rw [g1, h1]
  · have x := h2 l; have y := g2 l
    unfold Thread.sameButState at *; rw [y, x]

theorem settles_updThrs (w : Warp) (m : Mask) (f : Nat → Thread → Thread) (h : ∀ l t, Thread.sameButState t (f l t)) :
    w.Settles (w.updThrs m f) := by
  refine ⟨?_, fun l => ?_⟩
  · unfold Warp.sameButThreads; rw [updThrs_threads]
  · rw [thr_updThrs]; split
    · exact h l _
    · rfl

theorem settles_wake (w : Warp) (m : Mask) (age : Nat) : w.Settles (w.wake m age) := settles_updThrs _ _ _ fun _ _ => rfl

theorem settles_kRelease (w : Warp) (age k : Nat) : w.Settles (w.kRelease age k) := by
  unfold Warp.kRelease; dsimp only
  split
  · have h := settles_wake w (Map.get w.arrive 0 k) age
    refine ⟨?_, h.2⟩
    have h1 := h.1; unfold Warp.sameButThreads at *; rw [h1]
  · exact .refl w

theorem settles_mrHold (w : Warp) : w.Settles w.mrHold := settles_updThrs _ _ _ fun _ _ => rfl

theorem settles_mrRelease (w : Warp) (age l : Nat) : w.Settles (w.mrRelease age l) := by
  unfold Warp.mrRelease; dsimp only
  split
  · exact settles_updThrs _ _ _ fun _ _ => rfl
  · exact .refl w

theorem settles_foldl (f : Warp → Nat → Warp) (h : ∀ (w : Warp) (n : Nat), w.Settles (f w n)) (ls : List Nat) (w : Warp) :
    w.Settles (ls.foldl f w) := by
  induction ls generalizing w with
  | nil => exact .refl w
  | cons a t ih => exact (h w a).trans (ih _)

theorem settles_merge (w : Warp) : w.Settles w.merge := by
  unfold Warp.merge; exact settles_updThrs _ _ _ fun _ _ => rfl

/-- Settling changes thread states, meeting points, ages and arrive masks, and nothing else of a warp. -/
theorem settles_settle (w : Warp) (age : Nat) : w.Settles (w.settle age) := by
  unfold Warp.settle
  exact (((settles_foldl _ (fun w k => settles_kRelease w age k) _ w).trans (settles_mrHold _)).trans
    (settles_foldl _ (fun w l => settles_mrRelease w age l) _ _)).trans (settles_merge _)

/-! ## The end of an instruction (R33, R157) -/

/-- What the end of an instruction may change of a warp. -/
def Warp.sameButPlace (w w' : Warp) : Prop :=
  w' = { w with threads := w'.threads, arrive := w'.arrive, issue := w'.issue, turn := w'.turn, turnMask := w'.turnMask,
                stamp := w'.stamp }

theorem Warp.sameButPlace.refl (w : Warp) : w.sameButPlace w := rfl

theorem Warp.sameButPlace.trans {a b c : Warp} (h : a.sameButPlace b) (g : b.sameButPlace c) : a.sameButPlace c := by
  unfold Warp.sameButPlace at *; rw [g, h]

theorem Warp.Settles.place {a b : Warp} (h : a.Settles b) : a.sameButPlace b := by
  have h1 := h.1; unfold Warp.sameButThreads at h1; unfold Warp.sameButPlace; rw [h1]

theorem updThrs_place (w : Warp) (m : Mask) (f : Nat → Thread → Thread) : w.sameButPlace (w.updThrs m f) := by
  unfold Warp.sameButPlace; rw [updThrs_threads]

theorem endTurn_place (w : Warp) (stamp : Nat) : w.sameButPlace (w.endTurn stamp) := by
  unfold Warp.endTurn; dsimp only; split
  · rfl
  · split <;> rfl

theorem settleTurn_place (w : Warp) (age : Nat) : w.sameButPlace (w.settleTurn age) := by
  unfold Warp.settleTurn; dsimp only; split
  · exact (settles_settle _ _).place
  · exact (settles_settle w age).place.trans rfl

theorem reissue_place (w : Warp) (m : Mask) (stamp : Nat) : w.sameButPlace (w.reissue m stamp) := by
  unfold Warp.reissue; dsimp only; split
  · rfl
  · exact endTurn_place _ _

@[simp] theorem endTurn_thr (w : Warp) (stamp l : Nat) : (w.endTurn stamp).thr l = w.thr l := by
  unfold Warp.endTurn; dsimp only; split
  · rfl
  · split <;> rfl

@[simp] theorem settleTurn_thr (w : Warp) (age l : Nat) : (w.settleTurn age).thr l = (w.settle age).thr l := by
  unfold Warp.settleTurn; dsimp only; split <;> rfl

@[simp] theorem reissue_thr (w : Warp) (m : Mask) (stamp l : Nat) : (w.reissue m stamp).thr l = w.thr l := by
  unfold Warp.reissue; dsimp only; split
  · rfl
  · rw [endTurn_thr]

/-- What an instruction's end may change of the state: the issuing warp's place, and the stamp. -/
def State.sameButPlace (s t : State) : Prop :=
  t = { s with warps := Map.set s.warps Warp.empty s.cur t.cw, stamp := t.stamp } ∧ s.cw.sameButPlace t.cw

/-- What `finish` does: the issuing warp's place moves, nothing else changes. -/
theorem finish_cw (s : State) (n : Nat) :
    (s.finish n).cw =
      let x := (s.cw.updThrs s.cw.issue fun _ t => if t.stays then t else t.advance n).settleTurn s.stamp
      x.reissue x.issue s.stamp := by
  unfold State.finish
  simp [State.updCw, State.updWarp, State.cw, State.setWarp, State.bump, State.warp]

@[simp] theorem finish_cur (s : State) (n : Nat) : (s.finish n).cur = s.cur := rfl

@[simp] theorem finish_peek (s : State) (n a : Nat) : (s.finish n).peek a = s.peek a := rfl

theorem finish_warp_other (s : State) (n k : Nat) (h : k ≠ s.cur) : (s.finish n).warp k = s.warp k := by
  unfold State.finish
  simp only [State.warp_bump]
  rw [State.warp_updCw_other _ _ _ (by exact h), State.warp_updCw_other _ _ _ h]

theorem finish_place (s : State) (n : Nat) : s.cw.sameButPlace (s.finish n).cw := by
  rw [finish_cw]
  exact ((updThrs_place _ _ _).trans (settleTurn_place _ _)).trans (reissue_place _ _ _)

/-- The PC of a thread of the issuing group that moves on (R157). -/
theorem finish_pc (s : State) (n l : Nat) (hl : s.cw.issue.getLsbD l = true) (hs : (s.cw.thr l).stays = false) :
    ((s.finish n).cw.thr l).pc = (s.cw.thr l).pc + BitVec.ofNat 64 (4 * n) := by
  rw [finish_cw]; dsimp only; rw [reissue_thr, settleTurn_thr]
  have h := (settles_settle (s.cw.updThrs s.cw.issue fun _ t => if t.stays then t else t.advance n) s.stamp).2 l
  unfold Thread.sameButState at h
  rw [h]; dsimp only
  rw [thr_updThrs, if_pos hl, if_neg (by simp [hs])]
  unfold Thread.advance; dsimp only
  split
  · split <;> rfl
  · rfl

/-! ## The checks at issue (R61, R65, R233) -/

/-- The checks at issue pass: no interlock holds the registers, they are held, and the latches read are captured. -/
theorem guard_clear (s : State) (u : Uses) (k : State → State) (hi : s.interlocked u = false)
    (hv : (u.vr ++ u.vw).any s.cw.unheld = false) (hl : u.lat.any s.cw.latchMissing = false) : s.guard u k = k s := by
  simp [State.guard, hi, hv, hl]

/-! ## Register writes (R192) -/

theorem writeV_fields (w : Warp) (m : Mask) (r : Nat) (f : Nat → LV) :
    w.writeV m r f = { w with vregs := (w.writeV m r f).vregs } := by
  unfold Warp.writeV
  generalize lanesOf m = ls
  induction ls generalizing w with
  | nil => rfl
  | cons l t ih => rw [List.foldl_cons, ih]; rfl

/-- A vector register after a write of the lanes of a mask. -/
theorem v_writeV (w : Warp) (m : Mask) (r : Nat) (f : Nat → LV) (q l : Nat) (hl : l < 32) :
    (w.writeV m r f).v q l = if q = r ∧ m.getLsbD l then f l else w.v q l := by
  have key : ∀ (ls : List Nat) (w : Warp), (∀ a ∈ ls, a < 32) →
      (ls.foldl (fun w l => w.setV r l (f l)) w).v q l = if q = r ∧ l ∈ ls then f l else w.v q l := by
    intro ls
    induction ls with
    | nil => intro w _; simp
    | cons a t ih =>
      intro w hb
      rw [List.foldl_cons, ih _ fun x hx => hb x (List.mem_cons_of_mem _ hx)]
      by_cases ht : q = r ∧ l ∈ t
      · simp [ht]
      · by_cases ha : q = r ∧ l = a
        · obtain ⟨rfl, rfl⟩ := ha; simp
        · have hk : vkey q l ≠ vkey r a := fun h => ha (vkey_inj _ _ _ _ hl (hb a (List.mem_cons_self ..)) h)
          rw [if_neg ht, Warp.v_setV_other _ _ _ _ _ _ hk, if_neg]
          rintro ⟨h1, h2⟩
          rcases List.mem_cons.1 h2 with h2 | h2
          · exact ha ⟨h1, h2⟩
          · exact ht ⟨h1, h2⟩
  unfold Warp.writeV
  rw [key _ _ fun a ha => by rw [mem_lanesOf] at ha; by_contra hc; rw [BitVec.getLsbD_of_ge m a (by omega)] at ha; exact absurd ha (by simp)]
  simp [mem_lanesOf]

theorem write64_fields (w : Warp) (m : Mask) (r : Nat) (f : Nat → DWord × Bnd) :
    w.write64 m r f = { w with vregs := (w.write64 m r f).vregs } := by
  unfold Warp.write64
  generalize lanesOf m = ls
  induction ls generalizing w with
  | nil => rfl
  | cons l t ih => rw [List.foldl_cons, ih]; rfl

/-- A capture changes threads only. -/
theorem capture_fields (w : Warp) (cap : BitVec 2) (e : Mask) (f : Nat → LV) :
    w.capture cap e f = { w with threads := (w.capture cap e f).threads } := by
  unfold Warp.capture
  split
  · rfl
  · exact updThrs_threads _ _ _

end Sys2Proof.Machine
end

