-- ==== Sys2Proof/Laws/PerInstr.lean ====
section
/-! SUPPORT. The family `Size`: what the encoder gives for each row of the table, a word or two words, and nothing for a row
that no word stands for. One lemma for each constructor. -/

namespace Sys2Proof.Laws

/-- The encoder gives one word of a one-word format, two words of a two-word format, or nothing (R157, R163). -/
def Size.Statement (i : Instr) : Prop :=
  match encode i with
  | [] => isWord i = false
  | [w] => isWord i = true ∧ isTwo w = false
  | [w, _] => isWord i = true ∧ isTwo w = true
  | _ :: _ :: _ :: _ => False

/-- Two words given as a list. -/
theorem Size.two {i : Instr} (hw : isWord i = true) (h : ∃ w v, encode i = [w, v] ∧ isTwo w = true) : Size.Statement i := by
  obtain ⟨w, v, he, ht⟩ := h
  unfold Size.Statement; rw [he]; exact ⟨hw, ht⟩

theorem Size.clauseHeader : ∀ n cls wait yieldHint, Size.Statement (.clauseHeader n cls wait yieldHint) :=
  fun _ _ _ _ => ⟨rfl, isTwo_header _ _ _ _⟩
theorem Size.sIaddB32 : ∀ d a b, Size.Statement (.sIaddB32 d a b) :=
  fun _ _ _ => ⟨rfl, isTwo_sbin _ _ _ _⟩
theorem Size.sIsubB32 : ∀ d a b, Size.Statement (.sIsubB32 d a b) :=
  fun _ _ _ => ⟨rfl, isTwo_sbin _ _ _ _⟩
theorem Size.sImulB32 : ∀ d a b, Size.Statement (.sImulB32 d a b) :=
  fun _ _ _ => ⟨rfl, isTwo_sbin _ _ _ _⟩
theorem Size.imulhiS32 : ∀ d a b, Size.Statement (.imulhiS32 d a b) :=
  fun _ _ _ => ⟨rfl, isTwo_sbin _ _ _ _⟩
theorem Size.imulhiN32 : ∀ d a b, Size.Statement (.imulhiN32 d a b) :=
  fun _ _ _ => ⟨rfl, isTwo_sbin _ _ _ _⟩
theorem Size.sAnd : ∀ d a b, Size.Statement (.sAnd d a b) :=
  fun _ _ _ => ⟨rfl, isTwo_sbin _ _ _ _⟩
theorem Size.sOr : ∀ d a b, Size.Statement (.sOr d a b) :=
  fun _ _ _ => ⟨rfl, isTwo_sbin _ _ _ _⟩
theorem Size.sXor : ∀ d a b, Size.Statement (.sXor d a b) :=
  fun _ _ _ => ⟨rfl, isTwo_sbin _ _ _ _⟩
theorem Size.andn : ∀ d a b, Size.Statement (.andn d a b) :=
  fun _ _ _ => ⟨rfl, isTwo_sbin _ _ _ _⟩
theorem Size.sShl : ∀ d a b, Size.Statement (.sShl d a b) :=
  fun _ _ _ => ⟨rfl, isTwo_sbin _ _ _ _⟩
theorem Size.sShrN32 : ∀ d a b, Size.Statement (.sShrN32 d a b) :=
  fun _ _ _ => ⟨rfl, isTwo_sbin _ _ _ _⟩
theorem Size.sShrS32 : ∀ d a b, Size.Statement (.sShrS32 d a b) :=
  fun _ _ _ => ⟨rfl, isTwo_sbin _ _ _ _⟩
theorem Size.sIminS32 : ∀ d a b, Size.Statement (.sIminS32 d a b) :=
  fun _ _ _ => ⟨rfl, isTwo_sbin _ _ _ _⟩
theorem Size.sIminN32 : ∀ d a b, Size.Statement (.sIminN32 d a b) :=
  fun _ _ _ => ⟨rfl, isTwo_sbin _ _ _ _⟩
theorem Size.sImaxS32 : ∀ d a b, Size.Statement (.sImaxS32 d a b) :=
  fun _ _ _ => ⟨rfl, isTwo_sbin _ _ _ _⟩
theorem Size.sImaxN32 : ∀ d a b, Size.Statement (.sImaxN32 d a b) :=
  fun _ _ _ => ⟨rfl, isTwo_sbin _ _ _ _⟩
theorem Size.sIaddB64 : ∀ d a b, Size.Statement (.sIaddB64 d a b) :=
  fun _ _ _ => ⟨rfl, isTwo_sbin _ _ _ _⟩
theorem Size.isubB64 : ∀ d a b, Size.Statement (.isubB64 d a b) :=
  fun _ _ _ => ⟨rfl, isTwo_sbin _ _ _ _⟩
theorem Size.shlB64 : ∀ d a b, Size.Statement (.shlB64 d a b) :=
  fun _ _ _ => ⟨rfl, isTwo_sbin _ _ _ _⟩
theorem Size.shrN64 : ∀ d a b, Size.Statement (.shrN64 d a b) :=
  fun _ _ _ => ⟨rfl, isTwo_sbin _ _ _ _⟩
theorem Size.shrS64 : ∀ d a b, Size.Statement (.shrS64 d a b) :=
  fun _ _ _ => ⟨rfl, isTwo_sbin _ _ _ _⟩
theorem Size.sBfeN32 : ∀ d a b, Size.Statement (.sBfeN32 d a b) :=
  fun _ _ _ => ⟨rfl, isTwo_sbin _ _ _ _⟩
theorem Size.sBfeS32 : ∀ d a b, Size.Statement (.sBfeS32 d a b) :=
  fun _ _ _ => ⟨rfl, isTwo_sbin _ _ _ _⟩
theorem Size.sBfiB32 : ∀ d a b, Size.Statement (.sBfiB32 d a b) :=
  fun _ _ _ => ⟨rfl, isTwo_sbin _ _ _ _⟩
theorem Size.selB32 : ∀ d a b, Size.Statement (.selB32 d a b) :=
  fun _ _ _ => ⟨rfl, isTwo_sbin _ _ _ _⟩
theorem Size.cmpEqB32 : ∀ a b, Size.Statement (.cmpEqB32 a b) :=
  fun _ _ => ⟨rfl, isTwo_sbin _ _ _ _⟩
theorem Size.cmpNeB32 : ∀ a b, Size.Statement (.cmpNeB32 a b) :=
  fun _ _ => ⟨rfl, isTwo_sbin _ _ _ _⟩
theorem Size.cmpLtS32 : ∀ a b, Size.Statement (.cmpLtS32 a b) :=
  fun _ _ => ⟨rfl, isTwo_sbin _ _ _ _⟩
theorem Size.cmpLeS32 : ∀ a b, Size.Statement (.cmpLeS32 a b) :=
  fun _ _ => ⟨rfl, isTwo_sbin _ _ _ _⟩
theorem Size.cmpLtN32 : ∀ a b, Size.Statement (.cmpLtN32 a b) :=
  fun _ _ => ⟨rfl, isTwo_sbin _ _ _ _⟩
theorem Size.cmpLeN32 : ∀ a b, Size.Statement (.cmpLeN32 a b) :=
  fun _ _ => ⟨rfl, isTwo_sbin _ _ _ _⟩
theorem Size.cmpEqB64 : ∀ a b, Size.Statement (.cmpEqB64 a b) :=
  fun _ _ => ⟨rfl, isTwo_sbin _ _ _ _⟩
theorem Size.cmpNeB64 : ∀ a b, Size.Statement (.cmpNeB64 a b) :=
  fun _ _ => ⟨rfl, isTwo_sbin _ _ _ _⟩
theorem Size.sPopc : ∀ d a, Size.Statement (.sPopc d a) :=
  fun _ _ => ⟨rfl, isTwo_sbin _ _ _ _⟩
theorem Size.sClz : ∀ d a, Size.Statement (.sClz d a) :=
  fun _ _ => ⟨rfl, isTwo_sbin _ _ _ _⟩
theorem Size.ctz : ∀ d a, Size.Statement (.ctz d a) :=
  fun _ _ => ⟨rfl, isTwo_sbin _ _ _ _⟩
theorem Size.movk : ∀ d imm, Size.Statement (.movk d imm) :=
  fun _ _ => ⟨rfl, isTwo_simm _ _ _⟩
theorem Size.movhi : ∀ d imm, Size.Statement (.movhi d imm) :=
  fun _ _ => ⟨rfl, isTwo_simm _ _ _⟩
theorem Size.iaddk : ∀ d imm, Size.Statement (.iaddk d imm) :=
  fun _ _ => ⟨rfl, isTwo_simm _ _ _⟩
theorem Size.cmpkEq : ∀ d imm, Size.Statement (.cmpkEq d imm) :=
  fun _ _ => ⟨rfl, isTwo_simm _ _ _⟩
theorem Size.cmpkLtS32 : ∀ d imm, Size.Statement (.cmpkLtS32 d imm) :=
  fun _ _ => ⟨rfl, isTwo_simm _ _ _⟩
theorem Size.cmpkLtN32 : ∀ d imm, Size.Statement (.cmpkLtN32 d imm) :=
  fun _ _ => ⟨rfl, isTwo_simm _ _ _⟩
theorem Size.mulk : ∀ d imm, Size.Statement (.mulk d imm) :=
  fun _ _ => ⟨rfl, isTwo_simm _ _ _⟩
theorem Size.vIaddB32 : ∀ d a b, Size.Statement (.vIaddB32 d a b) :=
  fun _ _ _ => ⟨rfl, isTwo_vbin _ _ _ _⟩
theorem Size.vIsubB32 : ∀ d a b, Size.Statement (.vIsubB32 d a b) :=
  fun _ _ _ => ⟨rfl, isTwo_vbin _ _ _ _⟩
theorem Size.vImulB32 : ∀ d a b, Size.Statement (.vImulB32 d a b) :=
  fun _ _ _ => ⟨rfl, isTwo_vbin _ _ _ _⟩
theorem Size.vAnd : ∀ d a b, Size.Statement (.vAnd d a b) :=
  fun _ _ _ => ⟨rfl, isTwo_vbin _ _ _ _⟩
theorem Size.vOr : ∀ d a b, Size.Statement (.vOr d a b) :=
  fun _ _ _ => ⟨rfl, isTwo_vbin _ _ _ _⟩
theorem Size.vXor : ∀ d a b, Size.Statement (.vXor d a b) :=
  fun _ _ _ => ⟨rfl, isTwo_vbin _ _ _ _⟩
theorem Size.vShl : ∀ d a b, Size.Statement (.vShl d a b) :=
  fun _ _ _ => ⟨rfl, isTwo_vbin _ _ _ _⟩
theorem Size.vShrN32 : ∀ d a b, Size.Statement (.vShrN32 d a b) :=
  fun _ _ _ => ⟨rfl, isTwo_vbin _ _ _ _⟩
theorem Size.vShrS32 : ∀ d a b, Size.Statement (.vShrS32 d a b) :=
  fun _ _ _ => ⟨rfl, isTwo_vbin _ _ _ _⟩
theorem Size.vIminS32 : ∀ d a b, Size.Statement (.vIminS32 d a b) :=
  fun _ _ _ => ⟨rfl, isTwo_vbin _ _ _ _⟩
theorem Size.vIminN32 : ∀ d a b, Size.Statement (.vIminN32 d a b) :=
  fun _ _ _ => ⟨rfl, isTwo_vbin _ _ _ _⟩
theorem Size.vImaxS32 : ∀ d a b, Size.Statement (.vImaxS32 d a b) :=
  fun _ _ _ => ⟨rfl, isTwo_vbin _ _ _ _⟩
theorem Size.vImaxN32 : ∀ d a b, Size.Statement (.vImaxN32 d a b) :=
  fun _ _ _ => ⟨rfl, isTwo_vbin _ _ _ _⟩
theorem Size.vFaddF32 : ∀ d a b, Size.Statement (.vFaddF32 d a b) :=
  fun _ _ _ => ⟨rfl, isTwo_vbin _ _ _ _⟩
theorem Size.vFsubF32 : ∀ d a b, Size.Statement (.vFsubF32 d a b) :=
  fun _ _ _ => ⟨rfl, isTwo_vbin _ _ _ _⟩
theorem Size.vFmulF32 : ∀ d a b, Size.Statement (.vFmulF32 d a b) :=
  fun _ _ _ => ⟨rfl, isTwo_vbin _ _ _ _⟩
theorem Size.vFminF32 : ∀ d a b, Size.Statement (.vFminF32 d a b) :=
  fun _ _ _ => ⟨rfl, isTwo_vbin _ _ _ _⟩
theorem Size.vFmaxF32 : ∀ d a b, Size.Statement (.vFmaxF32 d a b) :=
  fun _ _ _ => ⟨rfl, isTwo_vbin _ _ _ _⟩
theorem Size.vMovB32 : ∀ d a, Size.Statement (.vMovB32 d a) :=
  fun _ _ => ⟨rfl, isTwo_vbin _ _ _ _⟩
theorem Size.vFaddF16x2 : ∀ d a b, Size.Statement (.vFaddF16x2 d a b) :=
  fun _ _ _ => ⟨rfl, isTwo_vbin _ _ _ _⟩
theorem Size.vFmulF16x2 : ∀ d a b, Size.Statement (.vFmulF16x2 d a b) :=
  fun _ _ _ => ⟨rfl, isTwo_vbin _ _ _ _⟩
theorem Size.vFaddBf16x2 : ∀ d a b, Size.Statement (.vFaddBf16x2 d a b) :=
  fun _ _ _ => ⟨rfl, isTwo_vbin _ _ _ _⟩
theorem Size.vFmulBf16x2 : ∀ d a b, Size.Statement (.vFmulBf16x2 d a b) :=
  fun _ _ _ => ⟨rfl, isTwo_vbin _ _ _ _⟩
theorem Size.wIaddB32 : ∀ m a b, Size.Statement (.wIaddB32 m a b) :=
  fun _ _ _ => Size.two rfl (isTwo_vwide _ _ _ _ _)
theorem Size.wIsubB32 : ∀ m a b, Size.Statement (.wIsubB32 m a b) :=
  fun _ _ _ => Size.two rfl (isTwo_vwide _ _ _ _ _)
theorem Size.wImulB32 : ∀ m a b, Size.Statement (.wImulB32 m a b) :=
  fun _ _ _ => Size.two rfl (isTwo_vwide _ _ _ _ _)
theorem Size.wAnd : ∀ m a b, Size.Statement (.wAnd m a b) :=
  fun _ _ _ => Size.two rfl (isTwo_vwide _ _ _ _ _)
theorem Size.wOr : ∀ m a b, Size.Statement (.wOr m a b) :=
  fun _ _ _ => Size.two rfl (isTwo_vwide _ _ _ _ _)
theorem Size.wXor : ∀ m a b, Size.Statement (.wXor m a b) :=
  fun _ _ _ => Size.two rfl (isTwo_vwide _ _ _ _ _)
theorem Size.wShl : ∀ m a b, Size.Statement (.wShl m a b) :=
  fun _ _ _ => Size.two rfl (isTwo_vwide _ _ _ _ _)
theorem Size.wShrN32 : ∀ m a b, Size.Statement (.wShrN32 m a b) :=
  fun _ _ _ => Size.two rfl (isTwo_vwide _ _ _ _ _)
theorem Size.wShrS32 : ∀ m a b, Size.Statement (.wShrS32 m a b) :=
  fun _ _ _ => Size.two rfl (isTwo_vwide _ _ _ _ _)
theorem Size.wIminS32 : ∀ m a b, Size.Statement (.wIminS32 m a b) :=
  fun _ _ _ => Size.two rfl (isTwo_vwide _ _ _ _ _)
theorem Size.wIminN32 : ∀ m a b, Size.Statement (.wIminN32 m a b) :=
  fun _ _ _ => Size.two rfl (isTwo_vwide _ _ _ _ _)
theorem Size.wImaxS32 : ∀ m a b, Size.Statement (.wImaxS32 m a b) :=
  fun _ _ _ => Size.two rfl (isTwo_vwide _ _ _ _ _)
theorem Size.wImaxN32 : ∀ m a b, Size.Statement (.wImaxN32 m a b) :=
  fun _ _ _ => Size.two rfl (isTwo_vwide _ _ _ _ _)
theorem Size.wFaddF32 : ∀ m a b, Size.Statement (.wFaddF32 m a b) :=
  fun _ _ _ => Size.two rfl (isTwo_vwide _ _ _ _ _)
theorem Size.wFsubF32 : ∀ m a b, Size.Statement (.wFsubF32 m a b) :=
  fun _ _ _ => Size.two rfl (isTwo_vwide _ _ _ _ _)
theorem Size.wFmulF32 : ∀ m a b, Size.Statement (.wFmulF32 m a b) :=
  fun _ _ _ => Size.two rfl (isTwo_vwide _ _ _ _ _)
theorem Size.wFminF32 : ∀ m a b, Size.Statement (.wFminF32 m a b) :=
  fun _ _ _ => Size.two rfl (isTwo_vwide _ _ _ _ _)
theorem Size.wFmaxF32 : ∀ m a b, Size.Statement (.wFmaxF32 m a b) :=
  fun _ _ _ => Size.two rfl (isTwo_vwide _ _ _ _ _)
theorem Size.wMovB32 : ∀ m a, Size.Statement (.wMovB32 m a) :=
  fun _ _ => Size.two rfl (isTwo_vwide _ _ _ _ _)
theorem Size.wFaddF16x2 : ∀ m a b, Size.Statement (.wFaddF16x2 m a b) :=
  fun _ _ _ => Size.two rfl (isTwo_vwide _ _ _ _ _)
theorem Size.wFmulF16x2 : ∀ m a b, Size.Statement (.wFmulF16x2 m a b) :=
  fun _ _ _ => Size.two rfl (isTwo_vwide _ _ _ _ _)
theorem Size.wFaddBf16x2 : ∀ m a b, Size.Statement (.wFaddBf16x2 m a b) :=
  fun _ _ _ => Size.two rfl (isTwo_vwide _ _ _ _ _)
theorem Size.wFmulBf16x2 : ∀ m a b, Size.Statement (.wFmulBf16x2 m a b) :=
  fun _ _ _ => Size.two rfl (isTwo_vwide _ _ _ _ _)
theorem Size.ffmaF32 : ∀ m a b c, Size.Statement (.ffmaF32 m a b c) :=
  fun _ _ _ _ => Size.two rfl (isTwo_vwide _ _ _ _ _)
theorem Size.ffmaF16x2 : ∀ m a b c, Size.Statement (.ffmaF16x2 m a b c) :=
  fun _ _ _ _ => Size.two rfl (isTwo_vwide _ _ _ _ _)
theorem Size.ffmaBf16x2 : ∀ m a b c, Size.Statement (.ffmaBf16x2 m a b c) :=
  fun _ _ _ _ => Size.two rfl (isTwo_vwide _ _ _ _ _)
theorem Size.imad : ∀ m a b c, Size.Statement (.imad m a b c) :=
  fun _ _ _ _ => Size.two rfl (isTwo_vwide _ _ _ _ _)
theorem Size.imadhiS32 : ∀ m a b c, Size.Statement (.imadhiS32 m a b c) :=
  fun _ _ _ _ => Size.two rfl (isTwo_vwide _ _ _ _ _)
theorem Size.imadhiN32 : ∀ m a b c, Size.Statement (.imadhiN32 m a b c) :=
  fun _ _ _ _ => Size.two rfl (isTwo_vwide _ _ _ _ _)
theorem Size.imadwN32 : ∀ m a b c, Size.Statement (.imadwN32 m a b c) :=
  fun _ _ _ _ => Size.two rfl (isTwo_vwide _ _ _ _ _)
theorem Size.imadwS32 : ∀ m a b c, Size.Statement (.imadwS32 m a b c) :=
  fun _ _ _ _ => Size.two rfl (isTwo_vwide _ _ _ _ _)
theorem Size.wBfeN32 : ∀ m a b, Size.Statement (.wBfeN32 m a b) :=
  fun _ _ _ => Size.two rfl (isTwo_vwide _ _ _ _ _)
theorem Size.wBfeS32 : ∀ m a b, Size.Statement (.wBfeS32 m a b) :=
  fun _ _ _ => Size.two rfl (isTwo_vwide _ _ _ _ _)
theorem Size.wBfiB32 : ∀ m a b c, Size.Statement (.wBfiB32 m a b c) :=
  fun _ _ _ _ => Size.two rfl (isTwo_vwide _ _ _ _ _)
theorem Size.leaB64 : ∀ m a b c, Size.Statement (.leaB64 m a b c) :=
  fun _ _ _ _ => Size.two rfl (isTwo_vwide _ _ _ _ _)
theorem Size.wIaddB64 : ∀ m a b, Size.Statement (.wIaddB64 m a b) :=
  fun _ _ _ => Size.two rfl (isTwo_vwide _ _ _ _ _)
theorem Size.dot4S8 : ∀ m a b c, Size.Statement (.dot4S8 m a b c) :=
  fun _ _ _ _ => Size.two rfl (isTwo_vwide _ _ _ _ _)
theorem Size.dot2F16 : ∀ m a b c, Size.Statement (.dot2F16 m a b c) :=
  fun _ _ _ _ => Size.two rfl (isTwo_vwide _ _ _ _ _)
theorem Size.dot2Bf16 : ∀ m a b c, Size.Statement (.dot2Bf16 m a b c) :=
  fun _ _ _ _ => Size.two rfl (isTwo_vwide _ _ _ _ _)
theorem Size.fclampF32 : ∀ m a b c, Size.Statement (.fclampF32 m a b c) :=
  fun _ _ _ _ => Size.two rfl (isTwo_vwide _ _ _ _ _)
theorem Size.wPopc : ∀ m a, Size.Statement (.wPopc m a) :=
  fun _ _ => Size.two rfl (isTwo_vwide _ _ _ _ _)
theorem Size.wClz : ∀ m a, Size.Statement (.wClz m a) :=
  fun _ _ => Size.two rfl (isTwo_vwide _ _ _ _ _)
theorem Size.brev : ∀ m a, Size.Statement (.brev m a) :=
  fun _ _ => Size.two rfl (isTwo_vwide _ _ _ _ _)
theorem Size.cmpF32 : ∀ d cond a b, Size.Statement (.cmpF32 d cond a b) :=
  fun _ _ _ _ => ⟨rfl, isTwo_vcmp _ _ _ _ _⟩
theorem Size.cmpF16 : ∀ d cond a b, Size.Statement (.cmpF16 d cond a b) :=
  fun _ _ _ _ => ⟨rfl, isTwo_vcmp _ _ _ _ _⟩
theorem Size.cmpBf16 : ∀ d cond a b, Size.Statement (.cmpBf16 d cond a b) :=
  fun _ _ _ _ => ⟨rfl, isTwo_vcmp _ _ _ _ _⟩
theorem Size.cmpS32 : ∀ d cond a b, Size.Statement (.cmpS32 d cond a b) :=
  fun _ _ _ _ => ⟨rfl, isTwo_vcmp _ _ _ _ _⟩
theorem Size.cmpN32 : ∀ d cond a b, Size.Statement (.cmpN32 d cond a b) :=
  fun _ _ _ _ => ⟨rfl, isTwo_vcmp _ _ _ _ _⟩
theorem Size.cmpB64 : ∀ d cond a b, Size.Statement (.cmpB64 d cond a b) :=
  fun _ _ _ _ => ⟨rfl, isTwo_vcmp _ _ _ _ _⟩
theorem Size.kand : ∀ d a b, Size.Statement (.kand d a b) :=
  fun _ _ _ => ⟨rfl, isTwo_vcmp _ _ _ _ _⟩
theorem Size.kor : ∀ d a b, Size.Statement (.kor d a b) :=
  fun _ _ _ => ⟨rfl, isTwo_vcmp _ _ _ _ _⟩
theorem Size.kxor : ∀ d a b, Size.Statement (.kxor d a b) :=
  fun _ _ _ => ⟨rfl, isTwo_vcmp _ _ _ _ _⟩
theorem Size.kandn : ∀ d a b, Size.Statement (.kandn d a b) :=
  fun _ _ _ => ⟨rfl, isTwo_vcmp _ _ _ _ _⟩
theorem Size.knot : ∀ d a, Size.Statement (.knot d a) :=
  fun _ _ => ⟨rfl, isTwo_vcmp _ _ _ _ _⟩
theorem Size.kmovK : ∀ d a, Size.Statement (.kmovK d a) :=
  fun _ _ => ⟨rfl, isTwo_vcmp _ _ _ _ _⟩
theorem Size.kmovFromS : ∀ d a, Size.Statement (.kmovFromS d a) :=
  fun _ _ => ⟨rfl, isTwo_vcmp _ _ _ _ _⟩
theorem Size.kmovToS : ∀ d a, Size.Statement (.kmovToS d a) :=
  fun _ _ => ⟨rfl, isTwo_vcmp _ _ _ _ _⟩
theorem Size.voteBallot : ∀ d a, Size.Statement (.voteBallot d a) :=
  fun _ _ => ⟨rfl, isTwo_vcmp _ _ _ _ _⟩
theorem Size.voteAny : ∀ d a, Size.Statement (.voteAny d a) :=
  fun _ _ => ⟨rfl, isTwo_vcmp _ _ _ _ _⟩
theorem Size.voteAll : ∀ d a, Size.Statement (.voteAll d a) :=
  fun _ _ => ⟨rfl, isTwo_vcmp _ _ _ _ _⟩
theorem Size.cvt : ∀ p d a dt st rnd sat el, Size.Statement (.cvt p d a dt st rnd sat el) :=
  fun _ _ _ _ _ _ _ _ => Size.two rfl (isTwo_vx _ _ _ _ _ _ _ _ _)
theorem Size.cvtpk : ∀ p d a b c dt rnd sat pos, Size.Statement (.cvtpk p d a b c dt rnd sat pos) :=
  fun _ _ _ _ _ _ _ _ _ => Size.two rfl (isTwo_vx _ _ _ _ _ _ _ _ _)
theorem Size.frcp : ∀ p d a rnd, Size.Statement (.frcp p d a rnd) :=
  fun _ _ _ _ => Size.two rfl (isTwo_vx _ _ _ _ _ _ _ _ _)
theorem Size.frsq : ∀ p d a, Size.Statement (.frsq p d a) :=
  fun _ _ _ => Size.two rfl (isTwo_vx _ _ _ _ _ _ _ _ _)
theorem Size.fsqrt : ∀ p d a rnd, Size.Statement (.fsqrt p d a rnd) :=
  fun _ _ _ _ => Size.two rfl (isTwo_vx _ _ _ _ _ _ _ _ _)
theorem Size.fdiv : ∀ p d a b rnd, Size.Statement (.fdiv p d a b rnd) :=
  fun _ _ _ _ _ => Size.two rfl (isTwo_vx _ _ _ _ _ _ _ _ _)
theorem Size.fexp2 : ∀ p d a, Size.Statement (.fexp2 p d a) :=
  fun _ _ _ => Size.two rfl (isTwo_vx _ _ _ _ _ _ _ _ _)
theorem Size.flog2 : ∀ p d a, Size.Statement (.flog2 p d a) :=
  fun _ _ _ => Size.two rfl (isTwo_vx _ _ _ _ _ _ _ _ _)
theorem Size.fsin : ∀ p d a, Size.Statement (.fsin p d a) :=
  fun _ _ _ => Size.two rfl (isTwo_vx _ _ _ _ _ _ _ _ _)
theorem Size.fcos : ∀ p d a, Size.Statement (.fcos p d a) :=
  fun _ _ _ => Size.two rfl (isTwo_vx _ _ _ _ _ _ _ _ _)
theorem Size.ftanh : ∀ p d a, Size.Statement (.ftanh p d a) :=
  fun _ _ _ => Size.two rfl (isTwo_vx _ _ _ _ _ _ _ _ _)
theorem Size.frnd : ∀ p d a rnd, Size.Statement (.frnd p d a rnd) :=
  fun _ _ _ _ => Size.two rfl (isTwo_vx _ _ _ _ _ _ _ _ _)
theorem Size.fclass : ∀ p d a, Size.Statement (.fclass p d a) :=
  fun _ _ _ => Size.two rfl (isTwo_vx _ _ _ _ _ _ _ _ _)
theorem Size.fscale : ∀ p d a b rnd, Size.Statement (.fscale p d a b rnd) :=
  fun _ _ _ _ _ => Size.two rfl (isTwo_vx _ _ _ _ _ _ _ _ _)
theorem Size.shflIdx : ∀ p d a b seg own, Size.Statement (.shflIdx p d a b seg own) :=
  fun _ _ _ _ _ _ => Size.two rfl (isTwo_vx _ _ _ _ _ _ _ _ _)
theorem Size.shflUp : ∀ p d a b seg own, Size.Statement (.shflUp p d a b seg own) :=
  fun _ _ _ _ _ _ => Size.two rfl (isTwo_vx _ _ _ _ _ _ _ _ _)
theorem Size.shflDown : ∀ p d a b seg own, Size.Statement (.shflDown p d a b seg own) :=
  fun _ _ _ _ _ _ => Size.two rfl (isTwo_vx _ _ _ _ _ _ _ _ _)
theorem Size.shflXor : ∀ p d a b seg own, Size.Statement (.shflXor p d a b seg own) :=
  fun _ _ _ _ _ _ => Size.two rfl (isTwo_vx _ _ _ _ _ _ _ _ _)
theorem Size.bcast : ∀ p d a b, Size.Statement (.bcast p d a b) :=
  fun _ _ _ _ => Size.two rfl (isTwo_vx _ _ _ _ _ _ _ _ _)
theorem Size.redux : ∀ p d a op, Size.Statement (.redux p d a op) :=
  fun _ _ _ _ => Size.two rfl (isTwo_vx _ _ _ _ _ _ _ _ _)
theorem Size.scan : ∀ p d a op excl, Size.Statement (.scan p d a op excl) :=
  fun _ _ _ _ _ => Size.two rfl (isTwo_vx _ _ _ _ _ _ _ _ _)
theorem Size.msel : ∀ p d a b k, Size.Statement (.msel p d a b k) :=
  fun _ _ _ _ _ => Size.two rfl (isTwo_vx _ _ _ _ _ _ _ _ _)
theorem Size.brd : ∀ p d a asF32, Size.Statement (.brd p d a asF32) :=
  fun _ _ _ _ => Size.two rfl (isTwo_vx _ _ _ _ _ _ _ _ _)
theorem Size.bwr : ∀ p d a b fromF32 raise, Size.Statement (.bwr p d a b fromF32 raise) :=
  fun _ _ _ _ _ _ => Size.two rfl (isTwo_vx _ _ _ _ _ _ _ _ _)
theorem Size.bclr : ∀ p d a, Size.Statement (.bclr p d a) :=
  fun _ _ _ => Size.two rfl (isTwo_vx _ _ _ _ _ _ _ _ _)
theorem Size.bchk : ∀ p a st, Size.Statement (.bchk p a st) :=
  fun _ _ _ => Size.two rfl (isTwo_vx _ _ _ _ _ _ _ _ _)
theorem Size.ld : ∀ g, Size.Statement (.ld g) :=
  fun _ => Size.two rfl (isTwo_gmem _ _)
theorem Size.st : ∀ g, Size.Statement (.st g) :=
  fun _ => Size.two rfl (isTwo_gmem _ _)
theorem Size.atom : ∀ g, Size.Statement (.atom g) :=
  fun _ => Size.two rfl (isTwo_gmem _ _)
theorem Size.red : ∀ g, Size.Statement (.red g) :=
  fun _ => Size.two rfl (isTwo_gmem _ _)
theorem Size.cas : ∀ g, Size.Statement (.cas g) :=
  fun _ => Size.two rfl (isTwo_gmem _ _)
theorem Size.pf : ∀ g, Size.Statement (.pf g) :=
  fun _ => Size.two rfl (isTwo_gmem _ _)
theorem Size.sld : ∀ g, Size.Statement (.sld g) :=
  fun _ => Size.two rfl (isTwo_gmem _ _)
theorem Size.gld : ∀ g, Size.Statement (.gld g) :=
  fun _ => Size.two rfl (isTwo_gmem _ _)
theorem Size.gst : ∀ g, Size.Statement (.gst g) :=
  fun _ => Size.two rfl (isTwo_gmem _ _)
theorem Size.gatom : ∀ g, Size.Statement (.gatom g) :=
  fun _ => Size.two rfl (isTwo_gmem _ _)
theorem Size.gcas : ∀ g, Size.Statement (.gcas g) :=
  fun _ => Size.two rfl (isTwo_gmem _ _)
theorem Size.ldsB32 : ∀ d a imm, Size.Statement (.ldsB32 d a imm) :=
  fun _ _ _ => ⟨rfl, isTwo_spad _ _ _ _⟩
theorem Size.ldsB64 : ∀ d a imm, Size.Statement (.ldsB64 d a imm) :=
  fun _ _ _ => ⟨rfl, isTwo_spad _ _ _ _⟩
theorem Size.ldsB128 : ∀ d a imm, Size.Statement (.ldsB128 d a imm) :=
  fun _ _ _ => ⟨rfl, isTwo_spad _ _ _ _⟩
theorem Size.stsB32 : ∀ d a imm, Size.Statement (.stsB32 d a imm) :=
  fun _ _ _ => ⟨rfl, isTwo_spad _ _ _ _⟩
theorem Size.stsB64 : ∀ d a imm, Size.Statement (.stsB64 d a imm) :=
  fun _ _ _ => ⟨rfl, isTwo_spad _ _ _ _⟩
theorem Size.stsB128 : ∀ d a imm, Size.Statement (.stsB128 d a imm) :=
  fun _ _ _ => ⟨rfl, isTwo_spad _ _ _ _⟩
theorem Size.ldsN8 : ∀ d a imm, Size.Statement (.ldsN8 d a imm) :=
  fun _ _ _ => ⟨rfl, isTwo_spad _ _ _ _⟩
theorem Size.ldsS8 : ∀ d a imm, Size.Statement (.ldsS8 d a imm) :=
  fun _ _ _ => ⟨rfl, isTwo_spad _ _ _ _⟩
theorem Size.ldsN16 : ∀ d a imm, Size.Statement (.ldsN16 d a imm) :=
  fun _ _ _ => ⟨rfl, isTwo_spad _ _ _ _⟩
theorem Size.ldsS16 : ∀ d a imm, Size.Statement (.ldsS16 d a imm) :=
  fun _ _ _ => ⟨rfl, isTwo_spad _ _ _ _⟩
theorem Size.stsB8 : ∀ d a imm, Size.Statement (.stsB8 d a imm) :=
  fun _ _ _ => ⟨rfl, isTwo_spad _ _ _ _⟩
theorem Size.stsB16 : ∀ d a imm, Size.Statement (.stsB16 d a imm) :=
  fun _ _ _ => ⟨rfl, isTwo_spad _ _ _ _⟩
theorem Size.satomIadd : ∀ d a imm, Size.Statement (.satomIadd d a imm) :=
  fun _ _ _ => ⟨rfl, isTwo_spad _ _ _ _⟩
theorem Size.satomIminS : ∀ d a imm, Size.Statement (.satomIminS d a imm) :=
  fun _ _ _ => ⟨rfl, isTwo_spad _ _ _ _⟩
theorem Size.satomImaxS : ∀ d a imm, Size.Statement (.satomImaxS d a imm) :=
  fun _ _ _ => ⟨rfl, isTwo_spad _ _ _ _⟩
theorem Size.satomCas : ∀ d a imm, Size.Statement (.satomCas d a imm) :=
  fun _ _ _ => ⟨rfl, isTwo_spad _ _ _ _⟩
theorem Size.satomXchg : ∀ d a imm, Size.Statement (.satomXchg d a imm) :=
  fun _ _ _ => ⟨rfl, isTwo_spad _ _ _ _⟩
theorem Size.satomFaddF32 : ∀ d a imm, Size.Statement (.satomFaddF32 d a imm) :=
  fun _ _ _ => ⟨rfl, isTwo_spad _ _ _ _⟩
theorem Size.satomIminN : ∀ d a imm, Size.Statement (.satomIminN d a imm) :=
  fun _ _ _ => ⟨rfl, isTwo_spad _ _ _ _⟩
theorem Size.satomImaxN : ∀ d a imm, Size.Statement (.satomImaxN d a imm) :=
  fun _ _ _ => ⟨rfl, isTwo_spad _ _ _ _⟩
theorem Size.satomOr : ∀ d a imm, Size.Statement (.satomOr d a imm) :=
  fun _ _ _ => ⟨rfl, isTwo_spad _ _ _ _⟩
theorem Size.satomAnd : ∀ d a imm, Size.Statement (.satomAnd d a imm) :=
  fun _ _ _ => ⟨rfl, isTwo_spad _ _ _ _⟩
theorem Size.bra : ∀ off, Size.Statement (.bra off) :=
  fun _ => ⟨rfl, isTwo_ctl _ _ _ _⟩
theorem Size.brc : ∀ k off, Size.Statement (.brc k off) :=
  fun _ _ => ⟨rfl, isTwo_ctl _ _ _ _⟩
theorem Size.brcNot : ∀ k off, Size.Statement (.brcNot k off) :=
  fun _ _ => ⟨rfl, isTwo_ctl _ _ _ _⟩
theorem Size.brs : ∀ off, Size.Statement (.brs off) :=
  fun _ => ⟨rfl, isTwo_ctl _ _ _ _⟩
theorem Size.brsNot : ∀ off, Size.Statement (.brsNot off) :=
  fun _ => ⟨rfl, isTwo_ctl _ _ _ _⟩
theorem Size.call : ∀ off, Size.Statement (.call off) :=
  fun _ => ⟨rfl, isTwo_ctl _ _ _ _⟩
theorem Size.jmp : ∀ p, Size.Statement (.jmp p) :=
  fun _ => ⟨rfl, isTwo_ctl _ _ _ _⟩
theorem Size.calli : ∀ p, Size.Statement (.calli p) :=
  fun _ => ⟨rfl, isTwo_ctl _ _ _ _⟩
theorem Size.meet : ∀ off, Size.Statement (.meet off) :=
  fun _ => ⟨rfl, isTwo_ctl _ _ _ _⟩
theorem Size.barArv : ∀ p id, Size.Statement (.barArv p id) :=
  fun _ _ => ⟨rfl, isTwo_syn _ _ _⟩
theorem Size.barWt : ∀ p id, Size.Statement (.barWt p id) :=
  fun _ _ => ⟨rfl, isTwo_syn _ _ _⟩
theorem Size.barSync : ∀ p id, Size.Statement (.barSync p id) :=
  fun _ _ => ⟨rfl, isTwo_syn _ _ _⟩
theorem Size.cbarArv : ∀ p id, Size.Statement (.cbarArv p id) :=
  fun _ _ => ⟨rfl, isTwo_syn _ _ _⟩
theorem Size.cbarWt : ∀ p id, Size.Statement (.cbarWt p id) :=
  fun _ _ => ⟨rfl, isTwo_syn _ _ _⟩
theorem Size.txbInit : ∀ p sa sb, Size.Statement (.txbInit p sa sb) :=
  fun _ _ _ => ⟨rfl, isTwo_syn _ _ _⟩
theorem Size.txbExp : ∀ p sa sb, Size.Statement (.txbExp p sa sb) :=
  fun _ _ _ => ⟨rfl, isTwo_syn _ _ _⟩
theorem Size.txbArv : ∀ p sa, Size.Statement (.txbArv p sa) :=
  fun _ _ => ⟨rfl, isTwo_syn _ _ _⟩
theorem Size.txbWt : ∀ p sa sb, Size.Statement (.txbWt p sa sb) :=
  fun _ _ _ => ⟨rfl, isTwo_syn _ _ _⟩
theorem Size.kjoin : ∀ p k, Size.Statement (.kjoin p k) :=
  fun _ _ => ⟨rfl, isTwo_syn _ _ _⟩
theorem Size.kleave : ∀ p k, Size.Statement (.kleave p k) :=
  fun _ _ => ⟨rfl, isTwo_syn _ _ _⟩
theorem Size.kwait : ∀ p k, Size.Statement (.kwait p k) :=
  fun _ _ => ⟨rfl, isTwo_syn _ _ _⟩
theorem Size.fence : ∀ order scope, Size.Statement (.fence order scope) :=
  fun _ _ => ⟨rfl, isTwo_syn _ _ _⟩
theorem Size.waitd : ∀ mask, Size.Statement (.waitd mask) :=
  fun _ => ⟨rfl, isTwo_syn _ _ _⟩
theorem Size.icinv : ∀ dev p len, Size.Statement (.icinv dev p len) :=
  fun _ _ _ => ⟨rfl, isTwo_syn _ _ _⟩
theorem Size.tail : ∀ p, Size.Statement (.tail p) :=
  fun _ => ⟨rfl, isTwo_sys _ _⟩
theorem Size.trap : ∀ code, Size.Statement (.trap code) :=
  fun _ => ⟨rfl, isTwo_sys _ _⟩
theorem Size.sysr : ∀ dst idx, Size.Statement (.sysr dst idx) :=
  fun _ _ => ⟨rfl, isTwo_sys _ _⟩
theorem Size.sysw : ∀ idx src, Size.Statement (.sysw idx src) :=
  fun _ _ => ⟨rfl, isTwo_sys _ _⟩
theorem Size.time : ∀ d, Size.Statement (.time d) :=
  fun _ => ⟨rfl, isTwo_sys _ _⟩
theorem Size.sleep : ∀ a, Size.Statement (.sleep a) :=
  fun _ => ⟨rfl, isTwo_sys _ _⟩
theorem Size.bkpt : ∀ code, Size.Statement (.bkpt code) :=
  fun _ => ⟨rfl, isTwo_sys _ _⟩
theorem Size.budget : ∀ a, Size.Statement (.budget a) :=
  fun _ => ⟨rfl, isTwo_sys _ _⟩
theorem Size.launch : ∀ p dc, Size.Statement (.launch p dc) :=
  fun _ _ => ⟨rfl, isTwo_sys _ _⟩
theorem Size.xacq : ∀ n, Size.Statement (.xacq n) :=
  fun _ => ⟨rfl, isTwo_sys _ _⟩
theorem Size.matAlloc : ∀ n, Size.Statement (.matAlloc n) :=
  fun _ => ⟨rfl, isTwo_mat _ _ _ _ _ _ _ _⟩
theorem Size.matEdge : ∀ k n, Size.Statement (.matEdge k n) :=
  fun _ _ => ⟨rfl, isTwo_mat _ _ _ _ _ _ _ _⟩
theorem Size.matLdb : ∀ sa sh bank spec dc, Size.Statement (.matLdb sa sh bank spec dc) :=
  fun _ _ _ _ _ => ⟨rfl, isTwo_mat _ _ _ _ _ _ _ _⟩
theorem Size.matMma : ∀ sa roff spec dc, Size.Statement (.matMma sa roff spec dc) :=
  fun _ _ _ _ => ⟨rfl, isTwo_mat _ _ _ _ _ _ _ _⟩
theorem Size.matMmar : ∀ va roff spec dc, Size.Statement (.matMmar va roff spec dc) :=
  fun _ _ _ _ => ⟨rfl, isTwo_mat _ _ _ _ _ _ _ _⟩
theorem Size.matZero : ∀ roff, Size.Statement (.matZero roff) :=
  fun _ => ⟨rfl, isTwo_mat _ _ _ _ _ _ _ _⟩
theorem Size.matRd : ∀ d roff col, Size.Statement (.matRd d roff col) :=
  fun _ _ _ => ⟨rfl, isTwo_mat _ _ _ _ _ _ _ _⟩
theorem Size.matWr : ∀ a roff col, Size.Statement (.matWr a roff col) :=
  fun _ _ _ => ⟨rfl, isTwo_mat _ _ _ _ _ _ _ _⟩
theorem Size.matSt : ∀ sa roff spec dc, Size.Statement (.matSt sa roff spec dc) :=
  fun _ _ _ _ => ⟨rfl, isTwo_mat _ _ _ _ _ _ _ _⟩
theorem Size.matRbnd : ∀ d roff, Size.Statement (.matRbnd d roff) :=
  fun _ _ => ⟨rfl, isTwo_mat _ _ _ _ _ _ _ _⟩
theorem Size.matBank : ∀ bank, Size.Statement (.matBank bank) :=
  fun _ => ⟨rfl, isTwo_mat _ _ _ _ _ _ _ _⟩
theorem Size.cpyTIn : ∀ c sa sb sc, Size.Statement (.cpyTIn c sa sb sc) :=
  fun _ _ _ _ => ⟨rfl, isTwo_cpy _ _ _ _ _ _⟩
theorem Size.cpyTOut : ∀ c sa sb sc, Size.Statement (.cpyTOut c sa sb sc) :=
  fun _ _ _ _ => ⟨rfl, isTwo_cpy _ _ _ _ _ _⟩
theorem Size.cpyBIn : ∀ c sa sb sc, Size.Statement (.cpyBIn c sa sb sc) :=
  fun _ _ _ _ => ⟨rfl, isTwo_cpy _ _ _ _ _ _⟩
theorem Size.cpyBOut : ∀ c sa sb sc, Size.Statement (.cpyBOut c sa sb sc) :=
  fun _ _ _ _ => ⟨rfl, isTwo_cpy _ _ _ _ _ _⟩
theorem Size.cpyP : ∀ c sa sb sc sd, Size.Statement (.cpyP c sa sb sc sd) :=
  fun _ _ _ _ _ => ⟨rfl, isTwo_cpy _ _ _ _ _ _⟩
theorem Size.cpyRed : ∀ c sa sb sc ty rop, Size.Statement (.cpyRed c sa sb sc ty rop) :=
  fun _ _ _ _ _ _ => ⟨rfl, isTwo_cpy _ _ _ _ _ _⟩
theorem Size.cpyPf : ∀ sa sc, Size.Statement (.cpyPf sa sc) :=
  fun _ _ => ⟨rfl, isTwo_cpy _ _ _ _ _ _⟩
theorem Size.cpyG : ∀ c sa sb sc vi, Size.Statement (.cpyG c sa sb sc vi) :=
  fun _ _ _ _ _ => ⟨rfl, isTwo_cpy _ _ _ _ _ _⟩
theorem Size.colAr : ∀ dc sa sb sc sd ty rop, Size.Statement (.colAr dc sa sb sc sd ty rop) :=
  fun _ _ _ _ _ _ _ => ⟨rfl, isTwo_cpy _ _ _ _ _ _⟩
theorem Size.colAg : ∀ dc sa sb sc sd ty, Size.Statement (.colAg dc sa sb sc sd ty) :=
  fun _ _ _ _ _ _ => ⟨rfl, isTwo_cpy _ _ _ _ _ _⟩
theorem Size.colRs : ∀ dc sa sb sc sd ty rop, Size.Statement (.colRs dc sa sb sc sd ty rop) :=
  fun _ _ _ _ _ _ _ => ⟨rfl, isTwo_cpy _ _ _ _ _ _⟩
theorem Size.colA2a : ∀ dc sa sb sc sd ty, Size.Statement (.colA2a dc sa sb sc sd ty) :=
  fun _ _ _ _ _ _ => ⟨rfl, isTwo_cpy _ _ _ _ _ _⟩
theorem Size.colBc : ∀ dc sa sb sc sd root ty, Size.Statement (.colBc dc sa sb sc sd root ty) :=
  fun _ _ _ _ _ _ _ => ⟨rfl, isTwo_cpy _ _ _ _ _ _⟩
theorem Size.noInstructionWord : Size.Statement (.noInstructionWord) := rfl
theorem Size.ret : Size.Statement (.ret) := ⟨rfl, isTwo_ctl _ _ _ _⟩
theorem Size.isync : Size.Statement (.isync) := ⟨rfl, isTwo_syn _ _ _⟩
theorem Size.nop : Size.Statement (.nop) := ⟨rfl, isTwo_sys _ _⟩
theorem Size.rte : Size.Statement (.rte) := ⟨rfl, isTwo_sys _ _⟩
theorem Size.yield : Size.Statement (.yield) := ⟨rfl, isTwo_sys _ _⟩
theorem Size.xrel : Size.Statement (.xrel) := ⟨rfl, isTwo_sys _ _⟩
theorem Size.matFree : Size.Statement (.matFree) := ⟨rfl, isTwo_mat _ _ _ _ _ _ _ _⟩
theorem Size.groupTurnLimit : Size.Statement (.groupTurnLimit) := rfl
theorem Size.warpSwapOut : ∀ out inn, Size.Statement (.warpSwapOut out inn) :=
  fun _ _ => rfl
theorem Size.warpSwapIn : ∀ inn out, Size.Statement (.warpSwapIn inn out) :=
  fun _ _ => rfl
theorem Size.sleepWake : ∀ slot lane, Size.Statement (.sleepWake slot lane) :=
  fun _ _ => rfl
theorem Size.loadReturn : ∀ op, Size.Statement (.loadReturn op) :=
  fun _ => rfl
theorem Size.storeAcknowledge : ∀ op, Size.Statement (.storeAcknowledge op) :=
  fun _ => rfl
theorem Size.releaseDrainComplete : ∀ op, Size.Statement (.releaseDrainComplete op) :=
  fun _ => rfl
theorem Size.homeRequest : ∀ op part, Size.Statement (.homeRequest op part) :=
  fun _ _ => rfl
theorem Size.pageTableWalk : ∀ op part, Size.Statement (.pageTableWalk op part) :=
  fun _ _ => rfl
theorem Size.promoteRequest : ∀ pid, Size.Statement (.promoteRequest pid) :=
  fun _ => rfl
theorem Size.promoteDone : ∀ pid, Size.Statement (.promoteDone pid) :=
  fun _ => rfl
theorem Size.prspSuccess : ∀ vf stage group, Size.Statement (.prspSuccess vf stage group) :=
  fun _ _ _ => rfl
theorem Size.prspFailure : ∀ vf stage group, Size.Statement (.prspFailure vf stage group) :=
  fun _ _ _ => rfl
theorem Size.trapHandlerEntry : ∀ slot, Size.Statement (.trapHandlerEntry slot) :=
  fun _ => rfl
theorem Size.engineStart : ∀ op, Size.Statement (.engineStart op) :=
  fun _ => rfl
theorem Size.tensorDescriptorRead : ∀ op, Size.Statement (.tensorDescriptorRead op) :=
  fun _ => rfl
theorem Size.engineOperationComplete : ∀ op, Size.Statement (.engineOperationComplete op) :=
  fun _ => rfl
theorem Size.matLdbBankWrite : ∀ op, Size.Statement (.matLdbBankWrite op) :=
  fun _ => rfl
theorem Size.matMmaComplete : ∀ op residueBad, Size.Statement (.matMmaComplete op residueBad) :=
  fun _ _ => rfl
theorem Size.matStComplete : ∀ op, Size.Statement (.matStComplete op) :=
  fun _ => rfl
theorem Size.icinvComplete : ∀ slot, Size.Statement (.icinvComplete slot) :=
  fun _ => rfl
theorem Size.xacqServed : ∀ quadrant, Size.Statement (.xacqServed quadrant) :=
  fun _ => rfl
theorem Size.launchEntryAppend : ∀ op, Size.Statement (.launchEntryAppend op) :=
  fun _ => rfl
theorem Size.collectivePartComplete : ∀ milepost, Size.Statement (.collectivePartComplete milepost) :=
  fun _ => rfl
theorem Size.qrsv : ∀ vf cp q, Size.Statement (.qrsv vf cp q) :=
  fun _ _ _ => rfl
theorem Size.qdb : ∀ vf cp q, Size.Statement (.qdb vf cp q) :=
  fun _ _ _ => rfl
theorem Size.qctlWrite : ∀ vf cp q val, Size.Statement (.qctlWrite vf cp q val) :=
  fun _ _ _ _ => rfl
theorem Size.launchSlot : ∀ cp q, Size.Statement (.launchSlot cp q) :=
  fun _ _ => rfl
theorem Size.rangeInvalidationEntry : ∀ cp q, Size.Statement (.rangeInvalidationEntry cp q) :=
  fun _ _ => rfl
theorem Size.rangeInvalidationDone : ∀ cp q, Size.Statement (.rangeInvalidationDone cp q) :=
  fun _ _ => rfl
theorem Size.launchHeaderRead : ∀ launch, Size.Statement (.launchHeaderRead launch) :=
  fun _ => rfl
theorem Size.waitEventCheck : ∀ launch, Size.Statement (.waitEventCheck launch) :=
  fun _ => rfl
theorem Size.gangStart : ∀ launch, Size.Statement (.gangStart launch) :=
  fun _ => rfl
theorem Size.preemptSave : ∀ cluster, Size.Statement (.preemptSave cluster) :=
  fun _ => rfl
theorem Size.timeSliceExpiry : ∀ part, Size.Statement (.timeSliceExpiry part) :=
  fun _ => rfl
theorem Size.launchAbort : ∀ vf val, Size.Statement (.launchAbort vf val) :=
  fun _ _ => rfl
theorem Size.clockStepDown : ∀ watts, Size.Statement (.clockStepDown watts) :=
  fun _ => rfl
theorem Size.clockStepUp : ∀ watts, Size.Statement (.clockStepUp watts) :=
  fun _ => rfl
theorem Size.thermalLimit : ∀ watts, Size.Statement (.thermalLimit watts) :=
  fun _ => rfl
theorem Size.energySample : ∀ sample, Size.Statement (.energySample sample) :=
  fun _ => rfl
theorem Size.energyRequest : ∀ vf val, Size.Statement (.energyRequest vf val) :=
  fun _ _ => rfl
theorem Size.energyReadingWrite : Size.Statement (.energyReadingWrite) := rfl
theorem Size.energyCheckpoint : Size.Statement (.energyCheckpoint) := rfl
theorem Size.packageReset : Size.Statement (.packageReset) := rfl
theorem Size.alwaysOnPowerLoss : Size.Statement (.alwaysOnPowerLoss) := rfl
theorem Size.powerUpBoot : ∀ flash, Size.Statement (.powerUpBoot flash) :=
  fun _ => rfl
theorem Size.attestationRequest : ∀ nonce dest, Size.Statement (.attestationRequest nonce dest) :=
  fun _ _ => rfl
theorem Size.timeExchange : ∀ ahead offsetNs, Size.Statement (.timeExchange ahead offsetNs) :=
  fun _ _ => rfl
theorem Size.evstClear : ∀ vf val, Size.Statement (.evstClear vf val) :=
  fun _ _ => rfl
theorem Size.evmaskWrite : ∀ vf val, Size.Statement (.evmaskWrite vf val) :=
  fun _ _ => rfl
theorem Size.flitReceive : ∀ port flit, Size.Statement (.flitReceive port flit) :=
  fun _ _ => rfl
theorem Size.resendRequest : ∀ port seq, Size.Statement (.resendRequest port seq) :=
  fun _ _ => rfl
theorem Size.linkRetrain : ∀ port trained, Size.Statement (.linkRetrain port trained) :=
  fun _ _ => rfl
theorem Size.linkDown : ∀ port, Size.Statement (.linkDown port) :=
  fun _ => rfl
theorem Size.peerRequestTimeout : ∀ op part, Size.Statement (.peerRequestTimeout op part) :=
  fun _ _ => rfl
theorem Size.apertureAccess : ∀ acc, Size.Statement (.apertureAccess acc) :=
  fun _ => rfl
theorem Size.bisnpinv : ∀ pa, Size.Statement (.bisnpinv pa) :=
  fun _ => rfl
theorem Size.bisnpdata : ∀ pa, Size.Statement (.bisnpdata pa) :=
  fun _ => rfl
theorem Size.poolRangeLost : ∀ port dec, Size.Statement (.poolRangeLost port dec) :=
  fun _ _ => rfl
theorem Size.poolLostClear : ∀ port val, Size.Statement (.poolLostClear port val) :=
  fun _ _ => rfl
theorem Size.request : ∀ src msg, Size.Statement (.request src msg) :=
  fun _ _ => rfl
theorem Size.replicate : ∀ src msg, Size.Statement (.replicate src msg) :=
  fun _ _ => rfl
theorem Size.replicateAck : ∀ src milepost, Size.Statement (.replicateAck src milepost) :=
  fun _ _ => rfl
theorem Size.notice : ∀ src msg, Size.Statement (.notice src msg) :=
  fun _ _ => rfl
theorem Size.unknown : ∀ src msg, Size.Statement (.unknown src msg) :=
  fun _ _ => rfl
theorem Size.report : ∀ src milepost status, Size.Statement (.report src milepost status) :=
  fun _ _ _ => rfl
theorem Size.heartbeatSend : Size.Statement (.heartbeatSend) := rfl
theorem Size.heartbeat : ∀ src oldest, Size.Statement (.heartbeat src oldest) :=
  fun _ _ => rfl
theorem Size.sequencerTakeover : Size.Statement (.sequencerTakeover) := rfl
theorem Size.takeover : ∀ src newPrimary first, Size.Statement (.takeover src newPrimary first) :=
  fun _ _ _ => rfl
theorem Size.cancel : ∀ src milepost status, Size.Statement (.cancel src milepost status) :=
  fun _ _ _ => rfl
theorem Size.cancelled : ∀ src milepost status, Size.Statement (.cancelled src milepost status) :=
  fun _ _ _ => rfl
theorem Size.collectiveTimeout : ∀ milepost, Size.Statement (.collectiveTimeout milepost) :=
  fun _ => rfl
theorem Size.dieFatalError : ∀ domain cause, Size.Statement (.dieFatalError domain cause) :=
  fun _ _ => rfl
theorem Size.promoteAckTimeout : ∀ pid, Size.Statement (.promoteAckTimeout pid) :=
  fun _ => rfl
theorem Size.stateDumpComplete : ∀ domain len, Size.Statement (.stateDumpComplete domain len) :=
  fun _ _ => rfl
theorem Size.uncorrectableError : ∀ site, Size.Statement (.uncorrectableError site) :=
  fun _ => rfl
theorem Size.uncorrectableStateError : ∀ launch kind slot, Size.Statement (.uncorrectableStateError launch kind slot) :=
  fun _ _ _ => rfl
theorem Size.partitionEntryWrite : ∀ idx val, Size.Statement (.partitionEntryWrite idx val) :=
  fun _ _ => rfl
theorem Size.functionEntryWrite : ∀ f val, Size.Statement (.functionEntryWrite f val) :=
  fun _ _ => rfl
theorem Size.communicatorEntryWrite : ∀ idx val, Size.Statement (.communicatorEntryWrite idx val) :=
  fun _ _ => rfl
theorem Size.pctlWrite : ∀ vf stage val, Size.Statement (.pctlWrite vf stage val) :=
  fun _ _ _ => rfl
theorem Size.lctlWrite : ∀ val, Size.Statement (.lctlWrite val) :=
  fun _ => rfl
theorem Size.registerWrite : ∀ vf off bytes val, Size.Statement (.registerWrite vf off bytes val) :=
  fun _ _ _ _ => rfl
theorem Size.hubFunctionUsable : ∀ bit, Size.Statement (.hubFunctionUsable bit) :=
  fun _ => rfl
theorem Size.readinessBitClears : ∀ bit, Size.Statement (.readinessBitClears bit) :=
  fun _ => rfl
theorem Size.poolRangeReachable : ∀ port range, Size.Statement (.poolRangeReachable port range) :=
  fun _ _ => rfl
theorem Size.stopGoSignal : ∀ port vc go, Size.Statement (.stopGoSignal port vc go) :=
  fun _ _ _ => rfl
theorem Size.correctedErrorRecord : ∀ kind domain count, Size.Statement (.correctedErrorRecord kind domain count) :=
  fun _ _ _ => rfl

end Sys2Proof.Laws
end

