-- ==== Sys2Proof/Tests/Slice0.lean ====
section
/-! SUPPORT. Tests: words written out from the manual's encodings, its worked examples, a term that each check of
`WellFormed` refuses, and for every statement about states some states that meet its hypotheses (`wit_…`). -/

open Sys2Proof Sys2Proof.Machine

namespace Sys2Proof.Tests

set_option Elab.async false

/-! ## Small states -/

/-- A thread in the middle of a clause of three words at 0x1000, with its latches captured. -/
def lane0 : Thread :=
  { Thread.idle with
      st := .running, pc := 0x1004, age := 1, cl := some ⟨0x1000, 0, false, [0, 0, 0], 3⟩, l0 := ⟨0, 0, true⟩,
      l1 := ⟨0, 0, true⟩, l2 := ⟨0, 0, true⟩ }

/-- A warp of one thread: v1 is 1 with bound 2^-8, v2 is 1 + 2^-9 and exact (the example of R88). -/
def warp1 : Warp :=
  { Warp.empty with
      live := true, uid := 1, launch := 1, block := 1, threads := [(0, lane0)],
      vregs := [(vkey 1 0, ⟨0x3F800000, 0x7700⟩), (vkey 2 0, ⟨0x3F804000, 0⟩)], sregs := [(4, 0x100), (8, 3), (10, 16)], xblocks := 3, exm := 1,
      awl := 32, tvec := 0x2000, tframe := 0x4000, issue := 1, turn := 1, turnMask := 1, active := true }

def launch1 : Launch :=
  ⟨.running, 0, 0, 0, 0, 0, [], none, 0, 0, 1, 0, 0, 0, true, [], false, false, false, false, false, none, false⟩

/-- One warp in slot 0, in its block, cluster and launch; 64 MiB of its addresses are placed on domain 0. -/
def s1 : State :=
  { State.reset with
      warps := [(0, warp1)], blocks := [(1, { Block.none with live := true, launch := 1, cluster := 1, cores := [0], slice := 4096, warps := 1 })],
      clusters := [(1, { Cluster.none with live := true, launch := 1, blocks := [1], gspace := 256 })], launches := [(1, launch1)],
      plts := [(0, [0, 0x8001680000000000, 0])], hub := { Hub.reset with ready := 0xFFFFFFFFFF }, nextId := 10, stamp := 10 }

/-- The same with the warp changed. -/
def s1w (f : Warp → Warp) : State := { s1 with warps := [(0, f warp1)] }

theorem s1_replay (l : Nat) : (s1.cw.thr l).replay = none := by
  show (Map.get [(0, lane0)] Thread.idle l).replay = none
  unfold Map.get; split <;> rfl

/-- The launch with CTRL, byte 0x79 of its header, given. -/
def launchCtrl (ctrl : Byte) : Launch := { launch1 with hdr := List.replicate 0x79 0 ++ [ctrl] ++ List.replicate 6 0 }

/-- Uncertain compares trap (bit 7 of CTRL). -/
def assured : State := { s1 with launches := [(1, launchCtrl 0x80)] }

/-- A budget of 2^-7. -/
def lenient : State := s1w fun w => { w with budget := 0x78000000 }

/-- The state after an instruction, where there is one. -/
def after (i : Instr) (s : State) : State := match exec i s with
  | .next t => t
  | _ => s

/-- A property of the lanes of a mask is that of the lanes below 32. -/
theorem lanes_lt {m : Mask} {P : Nat → Prop} (h : ∀ l, l < 32 → m.getLsbD l = true → P l) : ∀ l, m.getLsbD l = true → P l := by
  intro l hl
  by_cases hb : l < 32
  · exact h l hb hl
  · rw [BitVec.getLsbD_of_ge m l (by omega)] at hl; cases hl

theorem s1_runs : s1.groupRuns := by
  refine lanes_lt ?_; unfold Thread.runs; decide +kernel

/-! ## States that meet the hypotheses of the statements -/

theorem wit_ScalarResults :
    (sbinTwo (.sIaddB32 4 (.s 5) (.s 6)) = some (4, .s 5, .s 6) ∧ (binary (.sIaddB32 4 (.s 5) (.s 6))).isSome = true ∧
      s1.clear ((Uses.none.srcs [.s 5, .s 6]).dstS 4 1)) ∧
    (sbinOne (.ctz 4 (.s 5)) = some (4, .s 5) ∧ (unary (.ctz 4 (.s 5))).isSome = true ∧ s1.clear ((Uses.none.srcs [.s 5]).dstS 4 1)) ∧
    s1.clear (((Uses.none.srcs [.s 5, .s 6]).srcS 4 1).dstS 4 1) ∧
    (s1.clear (((Uses.none.src 2 (.s 6)).src 2 (.s 8)).dstS 4 2) ∧ s1.clear (((Uses.none.src 2 (.s 6)).src 1 (.s 9)).dstS 4 2)) ∧
    (s1.clear (Uses.none.dstS 4 1) ∧ s1.clear ((Uses.none.srcS 4 1).dstS 4 1)) ∧
    (scalarCompare (.cmpLtN32 (.s 5) (.s 6))).isSome = true ∧ s1.clear (Uses.none.srcs [.s 5, .s 6]) ∧
    s1.clear ((Uses.none.src 2 (.s 6)).src 2 (.s 8)) ∧ s1.clear (Uses.none.srcS 4 1) := by
  unfold State.clear; decide +kernel

/-- No predicate. -/
def always : Pred := ⟨0, false⟩

/-- The modifiers of a VWIDE instruction with destination v3 and a capture in l0. -/
def wide3 : Wide := ⟨3, false, 1, always, 0, 0, false, .rne, 0⟩

theorem wit_VectorResults :
    ((vbinTwo (.vIaddB32 3 (.v 1) (.v 2))).isSome = true ∧ (binary (.vIaddB32 3 (.v 1) (.v 2))).isSome = true ∧
      s1.clear ((Uses.none.srcs [.v 1, .v 2]).dstV 3 1)) ∧ s1.clear ((Uses.none.srcs [.v 1]).dstV 3 1) ∧
    ((wideInt s1.cw (.wXor wide3 (.v 1) (.v 2))).isSome = true ∧ (wideInt s1.cw (.brev wide3 (.v 1))).isSome = true ∧
      (wideInt s1.cw (.imad wide3 (.v 1) (.v 2) .l0)).isSome = true ∧ (wideInt s1.cw (.wMovB32 wide3 (.v 1))).isSome = true ∧
      (wideFloat s1.cw (.wFaddF32 wide3 (.v 1) (.v 2))).isSome = true) ∧
    (s1.clear (wideNames wide3 1 [.v 1, .v 2]) ∧ s1.clear (wideNames wide3 1 [.v 1]) ∧ s1.clear (wideNames wide3 1 [.v 1, .v 2, .l0])) ∧
    ((widePair s1.cw (.imadwN32 wide3 (.v 1) (.v 2) (.v 4))).isSome = true ∧ wide3.nw = false ∧ wide3.d.toNat + 1 < 128 ∧
      s1.clear ((((Uses.none.src 1 (.v 1)).src 1 (.v 2)).src 2 (.v 4)).dstV 3 2)) ∧
    (wide3.cap ≠ 0 ∧ s1.cw.issue.getLsbD 0 = true ∧ (s1.cw.thr 0).stays = false ∧
      ∃ c, (s1.cw.thr 0).cl = some c ∧ ((s1.cw.thr 0).pc + 8).toNat < c.stop.toNat) := by
  refine ⟨?_, ?_, ⟨rfl, rfl, rfl, rfl, rfl⟩, ?_, ⟨rfl, ?_⟩, by decide +kernel, by decide +kernel, by decide +kernel, _, rfl, by decide +kernel⟩ <;>
    unfold State.clear <;> decide +kernel

theorem wit_VectorFloat :
    ((vbinFloat s1.cw (.vFaddF32 3 (.v 1) (.v 2))).isSome = true ∧ s1.clear ((Uses.none.srcs [.v 1, .v 2]).dstV 3 1)) ∧
    (wideFloat s1.cw (.ffmaF32 wide3 (.v 1) (.v 2) (.v 4))).isSome = true ∧ s1.clear (wideNames wide3 1 [.v 1, .v 2, .v 4]) := by
  refine ⟨⟨rfl, ?_⟩, rfl, ?_⟩ <;> unfold State.clear <;> decide +kernel

/-- 1 with bound 2^-8 may stand for 1 + 2^-9. -/
theorem wit_BoundsEncloseTrueValues : within ⟨0x3F800000, 0x7700⟩ (1 + 1 / 512) := by
  have hb : (0x7700 : Bnd).toNat = 30464 := rfl
  have hw : (0x3F800000 : Word).toNat = 1065353216 := rfl
  refine ⟨by unfold finiteWord; decide, 1 / 256, ?_, ?_⟩
  · simp only [bndReal, hb]; norm_num
  · simp only [realOf, wordExp, hw]; norm_num [abs_of_pos]

theorem wit_BoundRoundsUpOnce : bndUp ⟨1, 200⟩ = 0xFF00 ∧ bndUp ⟨3, 0⟩ = 0x8080 := by decide +kernel

theorem wit_IntervalCompares : certainOf .lt = some .clt ∧ finiteWord 0x3F800000 ∧ nanWord 0x7FC00000 := by
  unfold finiteWord nanWord; decide

theorem wit_VectorCompares :
    ((laneCompare s1.cw (.cmpF32 2 .lt (.v 1) (.v 2))).isSome = true ∧ s1.clear (Uses.none.srcs [.v 1, .v 2]) ∧ s1.uncTraps s1.cw = false) ∧
    s1.clear ((Uses.none.src 2 (.v 2)).src 2 (.v 4)) ∧
    ((assured.uncTraps assured.cw = true ∧ assured.clear (Uses.none.srcs [.v 1, .v 2]) ∧ assured.cw.trap = none ∧ handlerReady assured.cw) ∧
      (assured.cw.issue &&& assured.cw.exm).getLsbD 0 = true ∧
      (compareFV .lt (opF32 (assured.cw.rd .word (.v 1) 0)) (opF32 (assured.cw.rd .word (.v 2) 0))).2 = true) := by
  unfold State.clear handlerReady; decide +kernel

theorem wit_MaskResults :
    (maskResult s1.cw (.voteBallot 2 (.v 1))).isSome = true ∧ s1.clear (Uses.none.srcs [.v 1]) ∧ s1.clear (Uses.none.dstS 4 1) := by
  unfold State.clear; decide +kernel

theorem wit_VxResults :
    ((vxLane s1.cw (.fdiv always 3 (.v 1) (.v 2) .rne)).isSome = true ∧ s1.clear ((Uses.none.srcs [.v 1, .v 2]).dstV 3 1)) ∧
    (shuffleParts (.shflXor always 3 (.v 1) (.v 2) .w8 true)).isSome = true ∧ s1.clear ((Uses.none.srcs [.v 1]).dstV 3 1) := by
  refine ⟨⟨rfl, ?_⟩, rfl, ?_⟩ <;> unfold State.clear <;> decide +kernel

theorem wit_Conversions :
    (Fmt.is64 .f16 = false ∧ s1.clear ((Uses.none.src (fmtRegs .f32) (.v 1)).dstV 3 1)) ∧
    (Fmt.is64 .s64 = true ∧ s1.clear ((Uses.none.src (fmtRegs .f32) (.v 1)).dstV 4 2)) ∧
    (fmtBits .bf16 = 16 ∧ s1.clear ((Uses.none.srcs [.v 1, .v 2]).dstV 3 1)) ∧
    fmtBits .e4m3 < 16 ∧ s1.clear ((Uses.none.srcs [.v 1, .v 2, .v 4]).dstV 3 1) := by
  unfold State.clear; decide +kernel

/-- With a budget of 2^-7, v1 passes the check; with a budget of 0 it does not. -/
theorem wit_BoundCheck :
    s1.clear (Uses.none.srcs [.v 1]) ∧ s1.cw.trap = none ∧ handlerReady s1.cw ∧ (s1.cw.effP always).getLsbD 0 = true ∧
    budgetPass s1.cw.budget (chkOpnd .f32 (s1.cw.rd (fmtAs .f32) (.v 1) 0)) = false ∧
    ∀ l, l < 32 → (lenient.cw.effP always).getLsbD l →
      budgetPass lenient.cw.budget (chkOpnd .f32 (lenient.cw.rd (fmtAs .f32) (.v 1) l)) = true := by
  unfold State.clear handlerReady; decide +kernel

/-! Memory instructions. -/

/-- Fields of a `….b32` at s4:5 with data v2, with a scope, an order and an atomic operation. -/
def gmem (scope : Scope) (order : Order) (op : Aop) : Gmem := ⟨2, 2, 2, 0, 0, .b32, scope, order, op, false, false, true, 0⟩

/-- The address in s4:5 lies on a misaligned word, or above 2^52. -/
def askew : State := s1w fun w => { w with sregs := [(4, 0x101)] }
def beyond : State := s1w fun w => { w with sregs := [(5, 0x00100000)] }

theorem wit_GlobalAccessIssues : ∀ x ∈ [(Instr.ld, MemKind.ld), (Instr.st, MemKind.st), (Instr.atom, MemKind.atom),
      (Instr.red, MemKind.red), (Instr.cas, MemKind.cas)],
    s1.gmemFree x.2 false (gmem .dev .plain .iadd) ∧ s1.chkPass (gmem .dev .plain .iadd) ∧ s1.cw.eff ≠ 0 ∧
    ∀ l, l < 32 → s1.cw.eff.getLsbD l = true → s1.goodAddr false (gmem .dev .plain .iadd) (laneAddr s1.cw (gmem .dev .plain .iadd) false l) ∧
      s1.coldLine (laneAddr s1.cw (gmem .dev .plain .iadd) false l) := by
  intro x hx; simp only [List.mem_cons, List.not_mem_nil, or_false] at hx
  obtain rfl | rfl | rfl | rfl | rfl := hx <;>
  refine ⟨⟨?_, by decide +kernel, by decide +kernel, by decide +kernel, by decide +kernel, by decide +kernel, by decide +kernel,
    by decide +kernel, s1_replay⟩, .inl rfl, by decide +kernel, ?_⟩ <;>
  (try unfold State.clear) <;> (try unfold State.goodAddr State.coldLine) <;> decide +kernel

theorem wit_AddressTraps :
    ((askew.gmemFree .ld false (gmem .dev .plain .iadd) ∧ askew.cw.eff = 1#32 <<< 0 ∧ askew.cw.issue = 1#32 <<< 0 ∧ askew.cw.trap = none ∧
        handlerReady askew.cw) ∧
      (laneAddr askew.cw (gmem .dev .plain .iadd) false 0).toNat % 4 ≠ 0 ∧
      2 ^ 52 ≤ (laneAddr beyond.cw (gmem .dev .plain .iadd) false 0).toNat) ∧
    (spadLoad (.ldsB32 3 1 0)).isSome = true ∧ s1.spadFree ((Uses.none.srcV 1 1).dstV 3 1) ∧
      spadAt (s1w fun w => { w with vregs := [(vkey 1 0, ⟨1, 0⟩)] }).cw 1 0 0 % 4 ≠ 0 := by
  refine ⟨⟨⟨⟨?_, by decide +kernel, by decide +kernel, by decide +kernel, by decide +kernel, by decide +kernel, by decide +kernel,
    by decide +kernel, s1_replay⟩, ?_⟩, by decide +kernel⟩, rfl, ⟨?_, by decide +kernel, by decide +kernel, s1_replay⟩, by decide +kernel⟩ <;>
  (try unfold State.clear) <;> (try unfold handlerReady) <;> decide +kernel

/-- No lane is effective. -/
def nobody : State := s1w fun w => { w with exm := 0 }

theorem wit_NoEffectiveLane : ∀ k ∈ [MemKind.ld, .st, .atom, .red, .cas],
    nobody.gmemFree k false (gmem .dev .plain .iadd) ∧ nobody.cw.eff = 0 := by
  intro k hk; simp only [List.mem_cons, List.not_mem_nil, or_false] at hk
  obtain rfl | rfl | rfl | rfl | rfl := hk <;>
  refine ⟨⟨?_, by decide +kernel, by decide +kernel, by decide +kernel, by decide +kernel, by decide +kernel, by decide +kernel,
    by decide +kernel, s1_replay⟩, by decide +kernel⟩ <;> unfold State.clear <;> decide +kernel

/-- `sld` and `pf`, which the other parts of O12 state. -/
theorem wit_ScalarLoads :
    s1.clear (s1.cw.gmemUses .sld false (gmem .dev .plain .iadd)) ∧ s1.clear (s1.cw.gmemUses .pf false (gmem .dev .plain .iadd)) ∧
    s1.cw.ctrFull 0 = false ∧ s1.acqPending s1.cur = false ∧ s1.relPending s1.cur = false ∧ (s1.core (coreOf s1.cur)).locks = [] ∧
    s1.goodAddr false (gmem .dev .plain .iadd) (laneAddr s1.cw (gmem .dev .plain .iadd) false s1.cw.lead) ∧
    s1.coldLine (laneAddr s1.cw (gmem .dev .plain .iadd) false s1.cw.lead) := by
  unfold State.clear State.goodAddr State.coldLine; decide +kernel

theorem wit_GroupSpaceAccess : ∀ k ∈ [MemKind.ld, .st, .atom, .cas],
    s1.gmemFree k true (gmem .grp .plain .iadd) ∧
    ∀ l, l < 32 → s1.cw.eff.getLsbD l = true → s1.goodAddr true (gmem .grp .plain .iadd) (laneAddr s1.cw (gmem .grp .plain .iadd) true l) := by
  intro k hk; simp only [List.mem_cons, List.not_mem_nil, or_false] at hk
  obtain rfl | rfl | rfl | rfl := hk <;>
  refine ⟨⟨?_, by decide +kernel, by decide +kernel, by decide +kernel, by decide +kernel, by decide +kernel, by decide +kernel,
    by decide +kernel, s1_replay⟩, ?_⟩ <;> (try unfold State.clear) <;> (try unfold State.goodAddr) <;> decide +kernel

theorem wit_ScratchpadAccess :
    (spadLoad (.ldsB128 4 6 2)).isSome = true ∧ (spadStore (.stsB128 4 6 2)).isSome = true ∧ (spadAtomic (.satomOr 4 6 2)).isSome = true ∧
    (s1.spadFree ((Uses.none.srcV 6 1).dstV 4 4) ∧ s1.spadFree ((Uses.none.srcV 6 1).srcV 4 4)) ∧ (s1.cw.deferred.length < 4 ∧ s1.relPending s1.cur = false) ∧
    s1.spadFree (((Uses.none.srcV 6 1).srcV 4 1).dstV 4 1) ∧ s1.spadFree (((Uses.none.srcV 6 1).srcV 4 2).dstV 4 1) ∧
    s1.spadGood 16 6 4 true ∧ s1.spadGood 4 6 4 true ∧ s1.spadApart 4 6 4 := by
  have one : ∀ l, l < 32 → s1.cw.eff.getLsbD l = true → l = 0 := by decide +kernel
  refine ⟨rfl, rfl, rfl, ⟨⟨?_, by decide +kernel, by decide +kernel, s1_replay⟩, ?_, by decide +kernel, by decide +kernel, s1_replay⟩, by decide +kernel,
    ⟨?_, by decide +kernel, by decide +kernel, s1_replay⟩, ⟨?_, by decide +kernel, by decide +kernel, s1_replay⟩, ?_, ?_,
    fun l j hl hj h a b => absurd ((one l hl a).trans (one j hj b).symm) h⟩ <;>
  (try unfold State.clear) <;> (try unfold State.spadGood) <;> decide +kernel

/-! Clauses, branches and synchronisation. -/

/-- The fetch line at 0x1080 is at hand: a header, then zeros. -/
def fetchedLine : List Byte := [0x00, 0x00, 0x21, 0xF3] ++ List.replicate 124 0
def hot : State := s1w fun w => { w with fetched := [(33, fetchedLine)] }

/-- s6:7 names an address that is not a word's, s4:5 one past the address space. -/
def wild : State := s1w fun w => { w with sregs := [(5, 0x00100000), (6, 2)] }

theorem wit_Branches :
    (branchOf hot.cw (.call 31) = some (0x1080, 1, true) ∧ hot.clear (branchUses (.call 31)) ∧ hot.atHand 0x1080 0xF3210000 ∧
      isHeader 0xF3210000 = true) ∧ (branchOf hot.cw (.brc 1 31) = some (0x1080, 0, false) ∧ hot.clear (branchUses (.brc 1 31))) ∧
    (branchOf hot.cw (.bra 32) = some (0x1084, 1, false) ∧ hot.atHand 0x1084 0 ∧ isHeader 0 = false ∧ hot.cw.trap = none ∧
      handlerReady hot.cw) ∧
    (branchOf wild.cw (.jmp 3) = some (2, 1, false) ∧ branchOf wild.cw (.jmp 2) = some (0x0010000000000000, 1, false) ∧
      wild.clear (branchUses (.jmp 3)) ∧ wild.cw.trap = none ∧ handlerReady wild.cw) := by
  refine ⟨⟨by decide +kernel, ?_, ⟨by decide, fetchedLine, by decide +kernel, .inl rfl⟩, by decide +kernel⟩, ⟨by decide +kernel, ?_⟩,
    ⟨by decide +kernel, ⟨by decide, fetchedLine, by decide +kernel, .inl rfl⟩, by decide +kernel, rfl, ?_⟩,
    by decide +kernel, by decide +kernel, ?_, rfl, ?_⟩ <;>
  (try unfold State.clear) <;> (try unfold handlerReady) <;> decide +kernel

/-- A group of one thread that stands at a header at 0x1000, its line at hand; d0 stands at 1 in the second. -/
def atHeader : State :=
  s1w fun w => { w with threads := [(0, { lane0 with pc := 0x1000, cl := none })], fetched := [(32, List.replicate 128 0)] }
def atHeader1 : State :=
  s1w fun w => { w with threads := [(0, { lane0 with pc := 0x1000, cl := none })], fetched := [(32, List.replicate 128 0)], ctr := [(0, 1)] }

theorem atHeader_words : ∀ i w, [0, 0, (0 : Word)][i]? = some w → atHeader.atHand (atHeader.cw.pc.toNat + 4 + 4 * i) w := by
  intro i w h
  rcases i with _ | _ | _ | i <;> simp at h <;> subst h <;>
    exact ⟨by decide +kernel, List.replicate 128 0, by decide +kernel, .inl (by decide +kernel)⟩

/-- Two threads at different PCs, the first's group at its sixteenth clause. -/
def limit : State :=
  s1w fun w => { w with threads := [(0, { lane0 with pc := 0x1000, cl := none }), (1, { lane0 with pc := 0x2000, cl := none })],
                        issue := 0, turn := 16, turnMask := 1 }

theorem wit_ClausesAndGroups :
    (splits 3 [0, 0, 0] = true ∧ atHeader.cw.deferred = [] ∧ (∀ i, i < 6 → (1#6).getLsbD i = true → atHeader.cw.d i = 0) ∧
      ∃ i, i < 6 ∧ (1#6).getLsbD i = true ∧ atHeader1.cw.d i ≠ 0) ∧
    (hot.groupRuns ∧ (hot.cw.pc + BitVec.ofInt 64 (4 * (31#19).toInt)).toNat % 4 = 0 ∧ hot.cw.pc + 4 ≠ 0x1080) ∧
    limit.cw.issue = 0 ∧ limit.cw.atLimit = true := by
  refine ⟨⟨by decide, rfl, by decide +kernel, 0, by decide +kernel⟩, ⟨?_, by decide +kernel⟩, by decide +kernel, by decide +kernel⟩
  refine lanes_lt ?_; unfold Thread.runs; decide +kernel

/-- A clause whose first word is no instruction, and a group at a word that is no header. -/
def junk : State :=
  s1w fun w => { w with threads := [(0, { lane0 with cl := some ⟨0x1000, 0, false, [0xD0000000], 1⟩ })] }

theorem wit_TrapsOfPrograms :
    (junk.cw.clause = some ⟨0x1000, 0, false, [0xD0000000], 1⟩ ∧
      (∃ e, junk.cw.decoded ⟨0x1000, 0, false, [0xD0000000], 1⟩ = .error e) ∧ junk.cw.trap = none ∧ handlerReady junk.cw) ∧
    (atHeader.cw.clause = none ∧ atHeader.atHand atHeader.cw.pc.toNat 0 ∧ isHeader 0 = false ∧ atHeader.cw.trap = none ∧
      handlerReady atHeader.cw) ∧ s1.cw.trap = none ∧ handlerReady s1.cw := by
  refine ⟨⟨by decide +kernel, ⟨_, rfl⟩, rfl, ?_⟩,
    ⟨by decide +kernel, ⟨by decide +kernel, List.replicate 128 0, by decide +kernel, .inl (by decide +kernel)⟩, by decide, rfl, ?_⟩, rfl, ?_⟩ <;>
  unfold handlerReady <;> decide +kernel

/-- The thread has arrived at block barrier 0. -/
def armed : State := s1w fun w => { w with threads := [(0, { lane0 with armB := 1 })] }

theorem armed_runs : armed.groupRuns := by
  refine lanes_lt ?_; unfold Thread.runs; decide +kernel

theorem wit_Barriers :
    (∀ cl, s1.barrierFree cl true ∧ s1.barrierFree cl false) ∧ armed.barrierFree false false ∧ armed.barrierFree false true ∧
    s1.cw.live = true ∧ s1.cw.predMask always = 1 ∧
    (∀ l, (s1.cw.predMask always).getLsbD l = true →
      ¬((s1.cw.thr l).armed false 0 = true ∧ (s1.cw.thr l).armPhase false 0 = (s1.barrier false 0).phase)) ∧
    (∀ l, (armed.cw.predMask always).getLsbD l = true → (armed.cw.thr l).armed false 0 = true) ∧
    ((armed.cw.thr 0).armPhase false 0 = (armed.barrier false 0).phase ∧ armed.cw.trap = none ∧ handlerReady armed.cw) ∧
    (s1.cw.thr 0).armed false 0 = false ∧ s1.cw.trap = none ∧ handlerReady s1.cw := by
  have h (cl : Bool) (b : Bool) : s1.barrierFree cl b :=
    ⟨rfl, rfl, s1_runs, by decide +kernel, fun _ => by decide +kernel, fun _ _ => by decide +kernel⟩
  have h' (b : Bool) : armed.barrierFree false b :=
    ⟨rfl, rfl, armed_runs, by decide +kernel, fun _ => by decide +kernel, fun _ _ => by decide +kernel⟩
  refine ⟨fun cl => ⟨h cl true, h cl false⟩, h' false, h' true, by decide +kernel, by decide +kernel, lanes_lt ?_, lanes_lt ?_, ?_⟩ <;>
  (try unfold handlerReady) <;> decide +kernel

/-- A transaction barrier at offset 0 that expects three arrivals. -/
def object : State := after (.txbInit always 20 8) s1

theorem wit_ObjectsAndMasks :
    (s1.txbFree always 20 [8] ∧ s1.txbFree always 20 [] ∧ s1.relPending s1.cur = false) ∧
    ((s1.txbHere 20 s1).tgtb + (s1.cw.s 8).toNat < 2 ^ 32 ∧
      (object.txbHere 20 object).arrt + countOf (object.cw.predMask always) ≤ (object.txbHere 20 object).expt) ∧
    s1.groupRuns ∧ ∀ j, Map.get s1.cw.arrive 0 j &&& s1.cw.issue = 0 := by
  refine ⟨⟨⟨?_, by decide +kernel, by decide +kernel, rfl, s1_runs, by decide +kernel⟩,
    ⟨?_, by decide +kernel, by decide +kernel, rfl, s1_runs, by decide +kernel⟩, by decide +kernel⟩, by decide +kernel, s1_runs,
    fun j => by show Map.get [] 0 j &&& _ = 0; simp [Map.get]⟩ <;> unfold State.clear <;> decide +kernel

/-- The warp waits for `icinv`; d0 stands at 1. -/
def flushing : State := s1w fun w => { w with hold := .icinv false 0x1000 64 }
def counting : State := s1w fun w => { w with ctr := [(0, 1)] }

theorem wit_FencesAndCaches :
    (s1.cw.deferred = [] ∧ s1.cw.hold = .none ∧ s1.acqPending s1.cur = false ∧ s1.relPending s1.cur = false ∧
      s1.allAcked (s1.drainSet s1.cur) = true ∧ s1.loadsOut s1.cur = []) ∧
    ((∀ i, i < 6 → s1.cw.d i = 0) ∧ ∃ i, i < 6 ∧ (1#6).getLsbD i = true ∧ counting.cw.d i ≠ 0) ∧
    s1.clear (icinvUses 2 8) ∧ (flushing.warp 0).hold = .icinv false 0x1000 64 := by
  refine ⟨⟨rfl, rfl, by decide +kernel, by decide +kernel, by decide +kernel, by decide +kernel⟩, ⟨by decide +kernel, 0, by decide +kernel⟩, ?_, rfl⟩
  unfold State.clear; decide +kernel

/-! System instructions. -/

/-- Two threads of one group, the first in k1; the block's warps are two. -/
def pair : State :=
  { s1w (fun w => { w with threads := [(0, lane0), (1, lane0)], issue := 3, exm := 3, kregs := [(1, 1)] }) with
      blocks := [(1, { Block.none with live := true, launch := 1, cluster := 1, cores := [0], slice := 4096, warps := 2 })] }

/-- The thread sleeps until 5 ns. -/
def asleep : State := s1w fun w => { w with threads := [(0, { lane0 with st := .sleeping 5 })] }

theorem wit_ExitAndSleep :
    (pair.cw.deferred = [] ∧ pair.trackerFull (pair.cw.predMask ⟨1, false⟩) = false ∧ pair.trackerFull (pair.cw.predMask always) = false ∧
      (pair.exitHeld (pair.cw.predMask ⟨1, false⟩) = false ∧ pair.exitHeld (pair.cw.predMask always) = false ∧ pair.dispatchOrder = []) ∧
      pair.cw.trap = none ∧ (∀ j, Map.get pair.cw.arrive 0 j = 0) ∧ pair.cw.alive &&& ~~~pair.cw.predMask ⟨1, false⟩ ≠ 0 ∧
      pair.cw.alive &&& ~~~pair.cw.predMask always = 0 ∧ (pair.block pair.cw.block).ended + 1 < (pair.block pair.cw.block).warps) ∧
    (s1.clear (Uses.none.srcs [.s 8]) ∧ s1.cw.rdS (.s 8) ≠ 0) ∧
    ((asleep.warp 0).thr 0).st = .sleeping 5 ∧ asleep.time < 5 ∧ 5 ≤ { asleep with time := 5 }.time := by
  refine ⟨⟨rfl, by decide +kernel, by decide +kernel, by decide +kernel, rfl, fun _ => rfl, by decide +kernel, by decide +kernel, by decide +kernel⟩, ?_,
    by decide +kernel⟩
  unfold State.clear; decide +kernel

/-- A trap of the group, and the states of its entry, its handler and its return. -/
def trap1 : TrapInfo := { warp1.trapHere 0x1000 with group := 1 }
def entering : State := s1w fun w => { w with trap := some (trap1, .entering [7]) }
def handling : State := s1w fun w => { w with trap := some (trap1, .handling), threads := [(0, { lane0 with st := .trapped })] }

/-- The frame has come back: NPC 0x1080, and the rest of its first 128 bytes zero. -/
def frameLoad : MemOp :=
  { warp1.frameOp 0 0 0 .frameLd ((List.range 4).map fun i =>
      (i, { Lane.none with st := .done, res := if i = 0 then [0, 0, 0, 0, 0x1080, 0, 0, 0] else List.replicate 8 0 })) with seq := 0 }
def returning : State :=
  { s1w (fun w => { w with trap := some (trap1, .leaving 7 true), threads := [(0, { lane0 with st := .trapped })],
                           fetched := [(33, fetchedLine)] }) with ops := [(7, frameLoad)] }

theorem wit_TrapAndReturn :
    ((entering.warp 0).trap = some (trap1, .entering [7]) ∧ entering.allAcked [7] = true) ∧
    (handling.cw.trap = some (trap1, .handling) ∧ handling.cw.issue = handling.cw.trapped) ∧ (s1.cw.trap = none ∧ handlerReady s1.cw) ∧
    returning.op? 7 = some frameLoad ∧ frameLoad.kind = .frameLd ∧ frameLoad.slot = returning.cur ∧ frameLoad.held = none ∧
    (frameLoad.lanes.all fun p => p.2.st == .done) = true ∧ returning.cw.trap = some (trap1, .leaving 7 true) ∧ returning.cw.trapQueue = [] ∧
    frameDword frameLoad.frameBytes 0x18 = 0 ∧ frameDword frameLoad.frameBytes 0x10 = 0x1080 ∧ returning.atHand 0x1080 0xF3210000 ∧
    isHeader 0xF3210000 = true := by
  refine ⟨⟨rfl, by decide +kernel⟩, ⟨rfl, by decide +kernel⟩, ⟨rfl, ?_⟩, rfl, by decide +kernel, by decide +kernel, by decide +kernel,
    by decide +kernel, rfl, rfl, by decide +kernel, by decide +kernel, ⟨by decide, fetchedLine, by decide +kernel, .inl rfl⟩, by decide +kernel⟩
  unfold handlerReady; decide +kernel

/-- Its header, with CTRL 0xC0. -/
def numberedHeader : List Byte :=
  let bytes : Map Byte := [(0x68, 3), (0x6C, 2), (0x6E, 1), (0x79, 0xC0), (0x7A, 5), (0x7B, 3), (0x7D, 2), (0x7E, 1), (0x7F, 1)]
  (List.range 128).map fun i => Map.get bytes 0 i

/-- Warp 1 of block 0 of cluster 5 in a grid of 3 by 2 by 1, with widths 5, 3, 0, 2, 1 and 1: its lane 3 is 3 + 2^5 + 2·2^8 + 1·2^10. -/
def numbered : State :=
  { s1w (fun w => { w with index := 1 }) with
      clusters := [(1, { Cluster.none with live := true, launch := 1, number := 5, blocks := [1] })],
      launches := [(1, { launch1 with hdr := numberedHeader })] }

/-- The identifier by R29 and `%assure` by R67. -/
theorem test_wid : numbered.special 3 0x02 = some 1571 ∧ numbered.spr 0x02 3 = 1571 ∧ numbered.spr 0x00 3 = 1571 ∧ numbered.spr 0x01 3 = 0 ∧
    numbered.special 0 0x13 = some 3 := by decide +kernel

theorem wit_SpecialReads :
    (s1.special 0 0x0F = some 0x2000 ∧ s1.special 0 0x08 = some 1) ∧ (toScalar 0x08 ∧ s1.clear (Uses.none.dstS 4 1)) ∧
    (toPair 0x11 ∧ s1.clear (Uses.none.dstS 4 2)) ∧ (toVector 0x07 ∧ s1.clear (Uses.none.dstV 4 1)) ∧
    toVectorPair 0x02 ∧ s1.clear (Uses.none.dstV 4 2) := by
  unfold toVectorPair toVector toScalar toPair State.clear; decide +kernel

theorem wit_SpecialWrites :
    s1.clear (Uses.none.src 1 (.s 8)) ∧ s1.clear (Uses.none.src 2 (.s 8)) ∧
    ((0x11 : BitVec 8) ∉ [0x08, 0x09, 0x0A, 0x0D, 0x0F, 0x10] ∧ (0x03 : BitVec 8) ∉ [0x08, 0x09, 0x0A, 0x0D, 0x0F, 0x10]) ∧
    s1.cw.trap = none ∧ handlerReady s1.cw := by
  unfold State.clear handlerReady; decide +kernel

/-- The warp holds no extended block; in the second a request of another warp waits. -/
def bare : State := s1w fun w => { w with xblocks := 0 }
def queued : State := { bare with xq := [(0, [(1, 1, 1)])] }

theorem wit_ExtendedBlocks :
    (3#2).toNat ≤ s1.cw.xblocks ∧
    (bare.cw.xblocks < (2#2).toNat ∧ Map.get bare.xq [] (quadOf bare.cur) = [] ∧ bare.canSupply bare.cur (2#2).toNat = true) ∧
    (queued.cw.xblocks < (2#2).toNat ∧ Map.get queued.xq [] (quadOf queued.cur) ≠ [] ∧ ∀ j, Map.get queued.cw.arrive 0 j = 0) ∧
    (Map.get queued.xq [] 0 = (1, 1, 1) :: [] ∧ queued.canSupply 1 1 = true) ∧
    (s1.ops.any fun p => p.2.uid = s1.cw.uid && p.2.kind.returns && p.2.kind != .sld && 32 ≤ p.2.dst + p.2.dstCount - 1) = false ∧
    s1.cw.parkedExtended = false ∧ s1.dispatchOrder = [] := by
  refine ⟨by decide +kernel, by decide +kernel, ⟨by decide +kernel, by decide +kernel, fun _ => rfl⟩, by decide +kernel, by decide +kernel,
    by decide +kernel⟩

/-! Engines. -/

theorem s1_locks (c : Nat) : (s1.core c).locks = [] := rfl

theorem wit_EngineIssues :
    ((runCopy (.cpyRed ⟨7, none⟩ 4 20 10 .f32 .add)).isSome = true ∧ s1.engFree (cpyUses ⟨7, none⟩ [4, 5, 20, 10]) 7 ∧
      (s1.cw.s64 4).toNat = 0x100 ∧ (s1.cw.s 20).toNat = 0 ∧ (s1.cw.s 10).toNat = 16 ∧ s1.sliceOf s1.cw.block = 4096 ∧
      txbGood 4096 (s1.cw.txbOff ⟨7, none⟩)) ∧
    ((tensorCopy (.cpyTOut ⟨7, none⟩ 4 20 10)).isSome = true ∧ s1.engFree (cpyUses ⟨7, none⟩ ([4, 5, 20] ++ regRun 10 8)) 7) ∧
    (s1.engFree (cpyUses ⟨7, none⟩ [20, 20, 10, 20]) 7 ∧ 0 < (s1.cluster (s1.block s1.cw.block).cluster).blocks.length ∧
      (s1.block 1).cores[0]? = some 0) ∧
    s1.engFree ((Uses.none.srcS 4 2).srcS 10 1) 7 ∧
    (s1.engFree ((cpyUses ⟨7, none⟩ [4, 5, 20, 10]).srcV 1 1) 7 ∧ 0 + 32 * 16 ≤ s1.sliceOf s1.cw.block) ∧
    s1.engFree (Uses.none.srcS 4 2) 7 := by
  have f (u : Uses) (h : s1.clear u) : s1.engFree u 7 := ⟨by decide +kernel, by decide +kernel, rfl, h, s1_locks⟩
  refine ⟨⟨rfl, f _ ?_, by decide +kernel, by decide +kernel, by decide +kernel, by decide +kernel, ?_⟩, ⟨rfl, f _ ?_⟩,
    ⟨f _ ?_, by decide +kernel, by decide +kernel⟩, f _ ?_, ⟨f _ ?_, by decide +kernel⟩, f _ ?_⟩ <;>
  first
  | (unfold State.clear; decide +kernel)
  | (intro o h; cases h)

/-! Matrix instructions. -/

/-- Row 0 of the core is poisoned; the warp has no window. -/
def poisonedRow : State := { s1 with cores := [(0, { Core.reset with rows := [(0, ⟨0, true⟩)] })] }
def windowless : State := s1w fun w => { w with awl := 0 }

theorem s1_rows (u : Uses) (h : s1.clear u) : s1.rowsReady u 0 := by
  refine ⟨by decide +kernel, h, ?_, rfl⟩; unfold rowAt; decide +kernel

theorem wit_RowMoves :
    s1.rowsReady Uses.none 0 ∧ (s1.rowsReady (Uses.none.srcV 4 4) 0 ∧ (508#9).toNat ≤ 508) ∧
    (s1.rowsReady (Uses.none.dstV 4 4) 0 ∧ s1.rowsReady (Uses.none.dstV 4 1) 0 ∧ s1.rowsClean 0) ∧
    (windowless.acqPending windowless.cur = false ∧ windowless.clear (Uses.none.dstV 4 4) ∧ windowless.cw.trap = none ∧
      handlerReady windowless.cw ∧ windowless.cw.eff.getLsbD 0 = true ∧ windowless.cw.awl ≤ rowAt windowless.cw 0 0) ∧
    poisonedRow.rowsReady (Uses.none.dstV 4 4) 0 ∧ (poisonedRow.here.rowMeta (rowAt poisonedRow.cw 0 0)).poison = true := by
  refine ⟨s1_rows _ ?_, ⟨s1_rows _ ?_, by decide⟩, ⟨s1_rows _ ?_, s1_rows _ ?_, ?_⟩, ⟨by decide +kernel, ?_, rfl, ?_, by decide +kernel, ?_⟩,
    ⟨by decide +kernel, ?_, ?_, rfl⟩, ?_⟩ <;>
  (try unfold State.clear) <;> (try unfold State.rowsClean) <;> (try unfold handlerReady) <;> (try unfold rowAt) <;> decide +kernel

theorem wit_MatrixSetUp :
    s1.acqPending s1.cur = false ∧ s1.windowSlots = [0] ∧ (∀ x ∈ s1.here.windows, x.1 ≠ s1.cw.block) ∧
    (∀ k ∈ s1.windowSlots, (s1.warp k).role = .solo) ∧ s1.here.rowsFree 0 16 = true ∧ (∀ b, b < 0 → s1.here.rowsFree b 16 = false) ∧
    ∀ p ∈ s1.mats, p.2.block ≠ s1.cw.block ∨ p.2.core ≠ coreOf s1.cur := by
  refine ⟨by decide +kernel, by decide +kernel, by decide +kernel, by decide +kernel, by decide +kernel, ?_, by decide +kernel⟩
  intro b h; omega

/-- Specifiers that `mat.ldb`, `mat.mma` and `mat.st`, and `mat.mmar`, accept. -/
def spec0 : MatSpec := .inline 0x00200053
def spec1 : MatSpec := .inline 2

theorem wit_MatrixIssues :
    (s1.matFree spec0 .ldb 4 2 (Uses.none.srcS 4 ((Spec.ofWord (s1.cw.matSpec spec0)).top .ldb + 1)) 7 ∧ ∀ c, (s1.core c).locks = []) ∧
    (s1.matFree spec0 .mma 20 1 (Uses.none.srcS 20 ((Spec.ofWord (s1.cw.matSpec spec0)).top .mma + 1)) 7 ∧
      (∀ l, l < 32 → s1.cw.eff.getLsbD l = true → rowAt s1.cw 0 l < s1.cw.awl) ∧
      matMisaligned (Spec.ofWord (s1.cw.matSpec spec0)).layout (s1.cw.s 20).toNat (Spec.ofWord (s1.cw.matSpec spec0)).lineStride = false ∧
      ∀ l, l < 32 → s1.cw.eff.getLsbD l = true → aTop (Spec.ofWord (s1.cw.matSpec spec0)) (s1.cw.s 20).toNat (s1.cw.s 21).toNat
        (min (s1.cw.medge.toNat % 512) ((s1.bankK s1.cw.mbank).getD 64)) ((s1.bankK s1.cw.mbank).getD 64) l ≤ s1.sliceOf s1.cw.block) ∧
    s1.matFree spec1 .mmar 0 0 (Uses.none.srcV 32 (aRegs (Spec.ofWord (s1.cw.matSpec spec1))
      (min (s1.cw.medge.toNat % 512) ((s1.bankK s1.cw.mbank).getD 64)))) 7 ∧
    s1.matFree spec0 .st 4 2 (Uses.none.srcS 4 ((Spec.ofWord (s1.cw.matSpec spec0)).top .st + 1)) 7 ∧
    s1.relPending s1.cur = false ∧ s1.cw.deferred = [] ∧ s1.here.locks = [] ∧ s1.rowsReady Uses.none 0 ∧ s1.rowsClean 0 := by
  have f (sp : MatSpec) (use : MatUse) (sa n : Nat) (u : Uses) (h : s1.clear (specUses sp sa n)) (h' : s1.clear u)
      (hs : (Spec.ofWord (s1.cw.matSpec sp)).ok use sa = true) : s1.matFree sp use sa n u 7 :=
    ⟨by decide +kernel, by decide +kernel, h, h', hs⟩
  refine ⟨⟨f _ _ _ _ _ ?_ ?_ ?_, s1_locks⟩, ⟨f _ _ _ _ _ ?_ ?_ ?_, ?_, ?_, ?_⟩, f _ _ _ _ _ ?_ ?_ ?_, f _ _ _ _ _ ?_ ?_ ?_, by decide +kernel, rfl, rfl,
    s1_rows _ ?_, ?_⟩ <;>
  (try unfold State.clear) <;> (try unfold State.rowsClean) <;> (try unfold rowAt) <;> decide +kernel

/-- An accumulation of lane 0 into row 0 that waits for nothing. -/
def mma0 : MatOp :=
  ⟨.mma, 0, 1, 0, 1, 1, 0x1004, 0, 0, 7, 0x00200053, 1, 0, false, 64, 64, 64, 0, 0, [], [], 0, []⟩
def accumulating : State := { s1 with mats := [(7, mma0)] }

theorem wit_MatrixCompletes :
    accumulating.mat? 7 = some mma0 ∧ accumulating.matReady mma0 = true ∧ accumulating.noneEnded := by
  refine ⟨rfl, by decide +kernel, ?_⟩; unfold State.noneEnded; decide +kernel

/-- A bank whose every element is 1, without scales. -/
def ones : BView := ⟨fun _ _ => .fin false 1 0, fun _ _ => .fin false 1 0, none, .fin false 1 0, 0, []⟩

theorem wit_MatrixArithmetic :
    (∀ x ∈ [FV.fin false 3 0], x.isFin = true) ∧ (Fed.vals ⟨[.fin false 3 0], false, 1⟩).length = [FV.fin false 3 0].length ∧
    0 < [FV.fin false 3 0].length ∧ ones.blk = none ∧ ones.tB = .fin false 1 0 ∧
    (∀ k, k < 1 → (ones.elem k 0).isFin = true ∧ ones.scale k 0 = .fin false 1 0) ∧ finiteWord 0x3F800000 :=
  ⟨by decide, rfl, by decide, rfl, rfl, fun _ _ => ⟨rfl, rfl⟩, by unfold finiteWord; decide⟩

/-- The collective's buffers: 16 words at 0x100 and the same, or 8 bytes on. -/
def buffers : State := s1w fun w => { w with sregs := [(4, 0x100), (6, 0x108), (10, 16)] }

/-- The same on a member of rank 1 of communicator 0, whose `bc` names root 0: the send range is not read, and still compared. -/
def receiving : State := { buffers with fab := { Fabric.reset with comms := [(0, BitVec.ofNat 256 (2 ^ 63 + 2 ^ 62 + 2 ^ 16 + 2))] } }

theorem wit_Broadcast :
    (collective (.colBc 7 20 4 6 10 22 .f32)).isSome = true ∧ receiving.engFree (colUses 20 4 6 10 (some 22)) 7 ∧
    receiving.commOf (receiving.space receiving.cw).1 0 = some 0 ∧ commRank (receiving.comm 0) = 1 ∧ (receiving.cw.s 22).toNat = 0 ∧
    ¬disjointRuns 0x100 64 0x108 64 ∧ receiving.cw.trap = none ∧ handlerReady receiving.cw := by
  refine ⟨rfl, ⟨by decide +kernel, by decide +kernel, rfl, ?_, fun _ => rfl⟩, by decide +kernel, by decide +kernel, by decide +kernel, ?_, rfl, ?_⟩ <;>
  (try unfold State.clear) <;> (try unfold handlerReady) <;> (try unfold disjointRuns) <;> decide +kernel

theorem wit_Collective :
    (collective (.colAr 7 20 4 4 10 .f32 .add)).isSome = true ∧ s1.engFree (colUses 20 4 4 10 none) 7 ∧
    (s1.cw.s64 4).toNat = 0x100 ∧ (buffers.cw.s64 6).toNat = 0x108 ∧ (buffers.cw.s 10).toNat = 16 ∧ ¬disjointRuns 0x100 64 0x108 64 ∧
    buffers.engFree (colUses 20 4 6 10 none) 7 ∧ buffers.cw.trap = none ∧ handlerReady buffers.cw := by
  refine ⟨rfl, ⟨by decide +kernel, by decide +kernel, rfl, ?_, s1_locks⟩, by decide +kernel, by decide +kernel, by decide +kernel, ?_,
    ⟨by decide +kernel, by decide +kernel, rfl, ?_, fun _ => rfl⟩, rfl, ?_⟩ <;>
  (try unfold State.clear) <;> (try unfold handlerReady) <;> (try unfold disjointRuns) <;> decide +kernel

/-! Memory operations in flight. -/

/-- A line at its home is reached when the machine says so. -/
theorem touch_ok {s : State} {w : Who} {va key : Nat} {n : Need}
    (h : (match s.touch w va n with | .ok x k => decide (x = s ∧ k = key) | _ => false) = true) : s.touch w va n = .ok s key := by
  revert h; cases s.touch w va n <;> simp_all

theorem touch_port {s : State} {w : Who} {va : Nat} {p : PortAt} {n : Need}
    (h : (match s.touch w va n with | .port q => decide (q = p) | _ => false) = true) : s.touch w va n = .port p := by
  revert h; cases s.touch w va n <;> simp_all

theorem touch_walk {s : State} {w : Who} {va unit at_ : Nat} {sh : Bool} {n : Need}
    (h : (match s.touch w va n with | .walk a b c => decide (a = unit ∧ b = at_ ∧ c = sh) | _ => false) = true) :
    s.touch w va n = .walk unit at_ sh := by
  revert h; cases s.touch w va n <;> simp_all

/-- A line at 0x100 at its home in domain 0, of a page without bounds or with them. -/
def hline1 (bounded : Bool) : HLine :=
  ⟨⟨true, true, true, List.replicate 128 0, List.replicate 4 0, 0, bounded⟩, 0x40000100, 0x50000000, 0, none, .shared, [], []⟩
def key1 : Nat := lineKey 0 0 0 0x100

/-- An instruction of the warp has left an operation; its line is at home. -/
def homed (b : Bool) : State := { s1 with home := [(key1, some (hline1 b))] }
def sent (i : Instr) (b : Bool) : State := after i (homed b)
def opOf (s : State) : MemOp := (s.op? 10).getD frameLoad

/-- The same with the page in a hub host range, without bounds or with them; its shadow lies in the same page. -/
def ported (b : Bool) (i : Instr) : State :=
  after i { s1 with tlb := [⟨0, 0, 0, 0, 0, 2 ^ 39, true, true, true, b⟩], plts := [(0, [0, 0x8001680000000000, 0x8000000000000000])] }
def portAt (b : Bool) : PortAt := ⟨2 ^ 51 + 0x100, if b then some (2 ^ 51 + 16) else none, true⟩

def plainGmem : Gmem := gmem .dev .plain .iadd

theorem ported_port {b : Bool} {i : Instr}
    (h : decide ((ported b i).op? 10 = some (opOf (ported b i)) ∧ ((opOf (ported b i)).lane 0).st = .sent ∧
      ((opOf (ported b i)).lane 0).halves = 0 ∧ (opOf (ported b i)).held = none ∧ (opOf (ported b i)).faults = [] ∧
      (ported b i).ahead (opOf (ported b i)) 10 0 = false ∧ (ported b i).lineHeld (opOf (ported b i)) 10 0 = false ∧
      (ported b i).away (2 ^ 51 + 0x100) = false ∧ (ported b i).portMarks = []) = true)
    (h' : (match (ported b i).touch (opOf (ported b i)).who ((opOf (ported b i)).lane 0).addr.toNat (opOf (ported b i)).need with
      | .port p => decide (p = portAt b) | _ => false) = true) :
    (ported b i).atPort 10 0 (opOf (ported b i)) (portAt b) := by
  obtain ⟨h1, h2, h3, h4, h5, h6, h7, h8, h9⟩ := of_decide_eq_true h
  refine ⟨⟨h1, by decide, h2, h3, h4, h5, h6, h7⟩, touch_port h', h8, fun r _ => ?_⟩
  rw [h9]; rfl

/-- The shadow of the page's line stands in memory alone. -/
theorem ported_shadow {i : Instr} (h : (ported true i).home = [])
    (h' : ∀ k, k < 4 → (ported true i).dead (2 ^ 51 + 16 + 2 * k) = false) : (ported true i).shadowReady (portAt true) := by
  intro a ha
  cases ha
  exact ⟨fun q hq => (by rw [h] at hq; cases hq), by decide, h'⟩

theorem wit_LoadsAtHome : (∀ i ∈ [Instr.ld plainGmem, .sld plainGmem],
      (sent i false).atHome 10 0 (opOf (sent i false)) key1 (hline1 false) ∧
      ((opOf (sent i false)).kind = .ld ∨ (opOf (sent i false)).kind = .sld)) ∧
    ((hline1 false).line.poisoned 0 = false ∧ (hline1 false).line.bnd 0 = 0) ∧
    ∀ b, (ported b (.ld plainGmem)).atPort 10 0 (opOf (ported b (.ld plainGmem))) (portAt b) ∧
      (ported b (.ld plainGmem)).paPoison (portAt b).pa = false := by
  refine ⟨?_, by decide +kernel, fun b => ?_⟩
  rotate_left
  · cases b <;> exact ⟨ported_port (by decide +kernel) (by decide +kernel), by decide +kernel⟩
  intro i hi; simp only [List.mem_cons, List.not_mem_nil, or_false] at hi
  obtain rfl | rfl := hi <;>
  exact ⟨⟨by unfold State.laneReady; decide +kernel, touch_ok (by decide +kernel), by decide +kernel, by decide +kernel⟩, by decide +kernel⟩

theorem wit_StoresAtHome : (∀ b, (sent (.st plainGmem) b).atHome 10 0 (opOf (sent (.st plainGmem) b)) key1 (hline1 b) ∧
      (opOf (sent (.st plainGmem) b)).kind = .st ∧ (hline1 b).line.bnds.length = 4 ∧ (hline1 b).line.bounded = b ∧
      (opOf (sent (.st plainGmem) b)).sectorDue 0 = false) ∧ s1.noWaypoint ∧
    ∀ b, (ported b (.st plainGmem)).atPort 10 0 (opOf (ported b (.st plainGmem))) (portAt b) ∧ (opOf (ported b (.st plainGmem))).kind = .st ∧
      (b = true → (ported b (.st plainGmem)).shadowReady (portAt b)) ∧ (opOf (ported b (.st plainGmem))).sectorDue 0 = false ∧
      ((opOf (ported b (.st plainGmem))).bytes 0).length = (opOf (ported b (.st plainGmem))).size 0 := by
  refine ⟨?_, by unfold State.noWaypoint; decide +kernel, fun b => ?_⟩
  · intro b; cases b <;>
    exact ⟨⟨by unfold State.laneReady; decide +kernel, touch_ok (by decide +kernel), by decide +kernel, by decide +kernel⟩, by decide +kernel⟩
  · refine ⟨?_, ?_, fun hb => ?_, ?_⟩
    · cases b <;> exact ported_port (by decide +kernel) (by decide +kernel)
    · cases b <;> decide +kernel
    · subst hb; exact ported_shadow (by decide +kernel) (by decide +kernel)
    · cases b <;> decide +kernel

theorem wit_AtomicsAtHome : (∀ i ∈ [Instr.atom plainGmem, .red plainGmem, .cas plainGmem],
      (sent i false).atHome 10 0 (opOf (sent i false)) key1 (hline1 false) ∧ (opOf (sent i false)).kind.atomic = true ∧
      (opOf (sent i false)).scope.wide = true) ∧
    (∀ b, (ported b (.atom plainGmem)).atPort 10 0 (opOf (ported b (.atom plainGmem))) (portAt b) ∧
      (opOf (ported b (.atom plainGmem))).kind.atomic = true ∧ (opOf (ported b (.atom plainGmem))).scope.wide = true ∧
      (opOf (ported b (.atom plainGmem))).scope ≠ .sys ∧ (ported b (.atom plainGmem)).paPoison (portAt b).pa = false) ∧
    (ported true (.atom plainGmem)).shadowReady (portAt true) := by
  refine ⟨?_, fun b => ?_,
    ported_shadow (by decide +kernel) (by decide +kernel)⟩
  rotate_left
  · cases b <;> exact ⟨ported_port (by decide +kernel) (by decide +kernel), by decide +kernel⟩
  intro i hi; simp only [List.mem_cons, List.not_mem_nil, or_false] at hi
  obtain rfl | rfl | rfl := hi <;>
  exact ⟨⟨by unfold State.laneReady; decide +kernel, touch_ok (by decide +kernel), by decide +kernel, by decide +kernel⟩, by decide +kernel⟩

/-- A load that is served, a store whose lane ended in a fault, and a held release. -/
def served : State := (sent (.ld (gmem .dev .acq .iadd)) false).serveLane 10 0
def faulty : State := (sent (.st plainGmem) false).setOp 10 ((opOf (sent (.st plainGmem) false)).setLane 0 { Lane.none with st := .fault 0x05 })
def scalarServed : State := (sent (.sld plainGmem) false).serveLane 10 0
/-- An `sld` before its home, in a sector whose bound is 2^-15. -/
def bounded1 : HLine := { hline1 true with line := { (hline1 true).line with bnds := List.replicate 4 0x7000 } }
def breaching : State := after (.sld plainGmem) { s1 with home := [(key1, some bounded1)] }
def heldRelease (drain : List Nat) : State :=
  (sent (.st plainGmem) false).setOp 11 { opOf (sent (.st plainGmem) false) with held := some drain }

theorem wit_ScalarReturn :
    (scalarServed.op? 10 = some (opOf scalarServed) ∧ (opOf scalarServed).kind = .sld ∧ (opOf scalarServed).returned = true ∧
      scalarServed.holds (opOf scalarServed) 10 = false ∧ scalarServed.counterBusy (opOf scalarServed).uid (opOf scalarServed).dc 10 = false ∧
      scalarServed.registerBusy (opOf scalarServed) 10 = false ∧ scalarServed.noneEnded ∧ (scalarServed.warp 0).live = true ∧
      (opOf scalarServed).slot = 0 ∧ (scalarServed.warp 0).uid = (opOf scalarServed).uid) ∧
    breaching.atHome 10 0 (opOf breaching) key1 bounded1 ∧
    ((opOf breaching).kind = .sld ∧ (opOf breaching).lanes.length = 1 ∧ (opOf breaching).slot = 0 ∧ (breaching.warp 0).hold = .access 10 ∧
      (breaching.warp 0).trap = none ∧ handlerReady { breaching.warp 0 with hold := .none } ∧ (breaching.warp 0).issue ≠ 0 ∧
      bounded1.line.poisoned 0 = false ∧ bounded1.line.bnd 0 ≠ 0) := by
  refine ⟨?_, ⟨?_, touch_ok (by decide +kernel), by decide +kernel, by decide +kernel⟩, ?_⟩
  · unfold State.noneEnded; decide +kernel
  · unfold State.laneReady; decide +kernel
  · unfold handlerReady; decide +kernel

theorem wit_OperationsEnd :
    (served.op? 10 = some (opOf served) ∧ (opOf served).kind = .ld ∧ (opOf served).returned = true ∧ lanesOk (opOf served) ∧
      served.holds (opOf served) 10 = false ∧ served.counterBusy (opOf served).uid (opOf served).dc 10 = false ∧
      served.registerBusy (opOf served) 10 = false ∧ served.noneEnded ∧ (served.warp (opOf served).slot).live = true ∧
      (served.warp (opOf served).slot).uid = (opOf served).uid ∧ (opOf served).order.acquires = true ∧ (opOf served).scope.wide = true) ∧
    (faulty.op? 10 = some (opOf faulty) ∧ (opOf faulty).kind.acks = true ∧ (opOf faulty).acked = true ∧ (opOf faulty).faults ≠ [] ∧
      faulty.counterBusy (opOf faulty).uid (opOf faulty).dc 10 = false ∧ faulty.noneEnded) ∧
    ((heldRelease [9]).op? 11 = some { opOf (sent (.st plainGmem) false) with held := some [9] } ∧
      (heldRelease [9]).allAcked [9] = true ∧ (heldRelease [10]).allAcked [10] = false) := by
  unfold lanesOk State.noneEnded; decide +kernel

/-- Function 0's tables: its ASID table at 0x10000 names a root at 0x20000, and a leaf of 1 GiB, of these permissions, maps address 0
to 0. -/
def tables (leaf : Byte) : State :=
  { s1 with
      hub := { s1.hub with funcs := [(0, BitVec.ofNat 256 (0x10000 * 2 ^ 64))] },
      mem := [(0x10000, 1), (0x10002, 2), (0x20000, 1), (0x20002, 3), (0x30000, leaf)] }

/-- A load whose lane waits at a walk; a store's whose page is not writable; and a store's without tables, its page-request queue enabled,
or not, and a group of its page outstanding, or none. -/
def walking : State := (after (.ld plainGmem) (tables 0x1F)).serveLane 10 0
def unwritable : State := (after (.st plainGmem) (tables 0x17)).serveLane 10 0
def missing (en : Bool) (gs : List PageGroup) : State :=
  { (after (.st plainGmem) s1).serveLane 10 0 with pqs := if en then [(0, { PageQueue.reset with ctl := 0x800C })] else [], groups := gs }
def group0 : PageGroup := ⟨0, 1, 5, 0, 0, true, []⟩

/-- The same store with the ring full of records that nothing has consumed. -/
def crowded : State :=
  { (after (.st plainGmem) s1).serveLane 10 0 with pqs := [(0, { PageQueue.reset with ctl := 0x800C, prod := 4096 })] }

theorem missing_walks : ∀ x ∈ [(false, []), (true, [group0]), (true, [])],
    (missing x.1 x.2).walksAt 10 0 (opOf (missing x.1 x.2)) 0 0x100 false := by
  intro x hx; simp only [List.mem_cons, List.not_mem_nil, or_false] at hx
  obtain rfl | rfl | rfl := hx <;> exact ⟨by decide +kernel, by decide +kernel, by decide +kernel, touch_walk (by decide +kernel)⟩

theorem wit_Translation :
    (walking.walksAt 10 0 (opOf walking) 0 0x100 false ∧ (∃ e, walking.walk 0 (opOf walking).vf (opOf walking).asid 0x100 = .ok e ∧
      ((walking.tlbPut e).touch (opOf walking).who 0x100 (opOf walking).need).asks 0 0x100 false = false)) ∧
    (unwritable.walksAt 10 0 (opOf unwritable) 0 0x100 false ∧ (opOf unwritable).kind = .st ∧
      (∃ e, unwritable.walk 0 (opOf unwritable).vf (opOf unwritable).asid 0x100 = .ok e ∧
        ((unwritable.tlbPut e).touch (opOf unwritable).who 0x100 (opOf unwritable).need).asks 0 0x100 false = true)) ∧
    ((missing false []).walksAt 10 0 (opOf (missing false [])) 0 0x100 false ∧
      (∃ f, f.stage = 1 ∧ f.cause ≠ 8 ∧ f.cause ≠ 9 ∧ (missing false []).walk 0 0 0 0x100 = .error f) ∧ ((missing false []).pq 0 1).ctl.getLsbD 15 = false) ∧
    (((missing true [group0]).pq 0 1).ctl.getLsbD 15 = true ∧
      ((missing true [group0]).outGroups 0 1).find? (fun g => decide (g.page = 0) && (decide (1 = 2) || decide (g.asid = 0))) = some group0) ∧
    ((missing true []).outGroups 0 1 = [] ∧
      (((missing true []).pq 0 1).prod - ((missing true []).pq 0 1).cons).toNat < 2 ^ (((missing true []).pq 0 1).ctl.toNat % 32) ∧
      (missing true []).dead 0 = false) ∧
    crowded.walksAt 10 0 (opOf crowded) 0 0x100 false ∧ 2 ^ ((crowded.pq 0 1).ctl.toNat % 32) ≤ ((crowded.pq 0 1).prod - (crowded.pq 0 1).cons).toNat := by
  refine ⟨⟨⟨by decide +kernel, by decide +kernel, by decide +kernel, touch_walk (by decide +kernel)⟩, _, rfl, by decide +kernel⟩,
    ⟨⟨by decide +kernel, by decide +kernel, by decide +kernel, touch_walk (by decide +kernel)⟩, by decide +kernel, _, rfl, by decide +kernel⟩,
    ⟨missing_walks (false, []) (by decide), ⟨_, ?_, ?_, ?_, rfl⟩, by decide +kernel⟩, ⟨by decide +kernel, by decide +kernel⟩, by decide +kernel,
    ⟨by decide +kernel, by decide +kernel, by decide +kernel, touch_walk (by decide +kernel)⟩, by decide +kernel⟩ <;> decide

/-- A parked thread that waits for the group. -/
def request0 : Parked := ⟨0x100, [], 0, 0, some (0, 1, 5), 0, 0, []⟩
def parked : State :=
  { s1w (fun w => { w with threads := [(0, { lane0 with st := .parked request0 })] }) with groups := [group0] }

theorem wit_PageAnswers :
    (parked.outstanding 0 1 5 = true ∧ parked.fab.notices = [] ∧ parked.fab.issued = [] ∧
      (∀ q ∈ parked.ops, q.2.kind ≠ .frameSt ∧ q.2.kind ≠ .frameLd) ∧ parked.pagedXfers 0 1 5 = [] ∧ Map.wf parked.warps Warp.empty = true ∧
      ((parked.warp 0).thr 0).st = .parked request0) ∧
    ((∃ e, parked.pageTraps 0 1 5 = [(0, e)]) ∧ (parked.warp 0).live = true ∧ (parked.warp 0).trap = none ∧ (parked.warp 0).underWay = false ∧
      handlerReady (parked.warp 0)) ∧
    ({ s1 with groups := [group0] }.outstanding 0 1 5 = true ∧ { s1 with groups := [group0] }.pageTraps 0 1 5 = []) ∧
    s1.outstanding 0 1 5 = false := by
  refine ⟨by decide +kernel, ⟨⟨_, rfl⟩, rfl, rfl, by decide +kernel, ?_⟩, by decide +kernel, by decide +kernel⟩
  unfold handlerReady; decide +kernel

/-- A promotion of the line at 0x100 that core 0 holds a mark for, one log entry of which has drained. -/
def promo (acked : Bool) : Promotion := ⟨0, 0, 0, 0x100, 0, acked, 0, []⟩
def promoted (acked : Bool) : State :=
  { homed false with
      cores := [(0, { Core.reset with log := [⟨2, 0, 0, 1, 0, []⟩] })], promos := [(7, promo acked)], time := 1000000, launches := [],
      warps := [], blocks := [] }

/-- A store to another chip's range, at its issue or 1 ms later. -/
def abroad (time : Nat) : State :=
  { after (.st plainGmem) { s1 with tlb := [⟨0, 0, 0, 0, 0, 0xC000000000, true, true, true, false⟩] } with time := time }

theorem wit_Promotions :
    ((promoted false).promo? 7 = some (promo false) ∧ (promo false).acked = false ∧ (promo false).sentAt + 1000000 ≤ (promoted false).time ∧
      (promoted false).present 0 = true ∧ (promoted false).promoting 7 = [] ∧ (promoted false).affected 0 = []) ∧
    ((∀ e ∈ ((promoted true).core 0).log, e.for_ (promo true) = true → (promoted true).allAcked e.drain = true) ∧
      (promoted true).promoting 7 = [] ∧ (promoted true).hline (promo true).key = some (hline1 false)) ∧
    (∀ n ∈ [0, 1000000], (abroad n).op? 10 = some (opOf (abroad n)) ∧ ((opOf (abroad n)).lane 0).st = .sent ∧
      (opOf (abroad n)).held = none ∧ (opOf (abroad n)).kind = .st ∧
      (abroad n).touch (opOf (abroad n)).who ((opOf (abroad n)).lane 0).addr.toNat (opOf (abroad n)).need = .port ⟨0xC000000000100, none, true⟩) ∧
    (paKind 0xC000000000100 = .peer ∧ (abroad 0).time < (opOf (abroad 0)).sentAt + 1000000 ∧
      (opOf (abroad 1000000)).sentAt + 1000000 ≤ (abroad 1000000).time) := by
  refine ⟨by decide +kernel, by decide +kernel, ?_, by decide +kernel⟩
  intro n hn; simp only [List.mem_cons, List.not_mem_nil, or_false] at hn
  obtain rfl | rfl := hn <;>
  exact ⟨by decide +kernel, by decide +kernel, by decide +kernel, by decide +kernel, touch_port (by decide +kernel)⟩

/-! Engine operations at work. -/

theorem reach_line {s : State} {e : EngOp} {va key : Nat} {n : Need}
    (h : (match s.reach e va n with | .line x k => decide (x = s ∧ k = key) | _ => false) = true) : s.reach e va n = .line s key := by
  revert h; cases s.reach e va n <;> simp_all

/-- An engine operation of 16 bytes between 0x100 and offset 0, its transfers made. -/
def eng0 : EngOp :=
  ⟨.cpyBIn, .active, 0, 1, 0, 1, 1, 0, 0, 0x1004, 0, 0, 1, 0, none, 0, [], 0x100, 0, 16, 0, 0, [], (0, 0), [], [], 0, [], 0, none, [], 0⟩
def withEng (e : EngOp) : State := { s1 with engs := [(10, e)] }

/-- Communicator 0 of function 0, with this chip as its one member; its table is at 0. -/
def comm0 : BitVec 256 := BitVec.ofNat 256 (2 ^ 63 + 2 ^ 62 + 1)

/-- A `col` that waits, without an entry and with one. -/
def waitingCol : EngOp := { eng0 with kind := .col 0 .f32 .add, st := .waiting, coords := [0, 16], sd := 12 }
def withComm : State := { withEng waitingCol with fab := { Fabric.reset with comms := [(0, comm0)] } }

/-- A bank load at a base that its layout does not accept, and at one it does. -/
def ldb0 : EngOp := { eng0 with kind := .ldb .k64 false 0x00200053, st := .waiting }

theorem wit_EngineStarts :
    ((withEng { eng0 with st := .waiting }).eng? 10 = some { eng0 with st := .waiting } ∧
      (withEng { eng0 with st := .waiting }).engReady { eng0 with st := .waiting } = true ∧
      EngOp.run { eng0 with st := .waiting } = some (0x100, 0) ∧ (sent (.st plainGmem) false).engReady { eng0 with drain := [10] } = false) ∧
    (withEng { eng0 with kind := .cpyTIn, st := .waiting }).engReady { eng0 with kind := .cpyTIn, st := .waiting } = true ∧
    ((withEng ldb0).engReady ldb0 = true ∧ ldb0.kind = .ldb .k64 false 0x00200053 ∧
      matMisaligned (Spec.ofWord 0x00200053).layout 0x101 (Spec.ofWord 0x00200053).lineStride = true ∧
      matMisaligned (Spec.ofWord 0x00200053).layout 0x100 (Spec.ofWord 0x00200053).lineStride = false) ∧
    ((withEng waitingCol).hub.ready.getLsbD 7 = true ∧ (∀ q ∈ (withEng waitingCol).engs, q.1 < 10 → q.2.uid ≠ waitingCol.uid) ∧
      (withEng waitingCol).noneEnded ∧ (withEng waitingCol).fab.notices = [] ∧ (withEng waitingCol).localCheck waitingCol = none ∧
      ((withEng waitingCol).warp 0).live = true ∧ ((withEng waitingCol).warp 0).uid = waitingCol.uid ∧
      withComm.localCheck waitingCol = some (0, [0]) ∧ withComm.hub.ready.getLsbD 7 = true) := by
  unfold State.noneEnded; decide +kernel

/-- Copies with one piece left to move. -/
def moving (kind : EngKind) (src dst : Nat) : EngOp := { eng0 with kind, xfers := [⟨[⟨src, dst, 16, none, false⟩], false, none, false⟩] }
def movingAt (e : EngOp) (b : Bool) : State := { homed b with engs := [(10, e)] }

theorem wit_CopyTransfers :
    ((movingAt (moving .cpyBIn 0x100 0) false).eng? 10 = some (moving .cpyBIn 0x100 0) ∧ (movingAt (moving .cpyBIn 0x100 0) false).op? 10 = none ∧
      (moving .cpyBIn 0x100 0).open_ 0 = true ∧ ((moving .cpyBIn 0x100 0).xfer 0).pieces = [⟨0x100, 0, 16, none, false⟩] ∧
      ((movingAt (moving .cpyBIn 0x100 0) false).hline key1 = some (hline1 false) ∧
        (movingAt (moving .cpyBIn 0x100 0) false).xferHeld (moving .cpyBIn 0x100 0) 10 0 = false ∧
        (movingAt (moving .cpyBIn 0x100 0) false).xferLost (moving .cpyBIn 0x100 0) 0 = false) ∧
      (movingAt (moving .cpyBIn 0x100 0) false).reach (moving .cpyBIn 0x100 0) 0x100 .read = .line (movingAt (moving .cpyBIn 0x100 0) false) key1) ∧
    ((moving .cpyBOut 0 0x100).open_ 0 = true ∧ (movingAt (moving .cpyBOut 0 0x100) true).xferHeld (moving .cpyBOut 0 0x100) 10 0 = false ∧
      (movingAt (moving .cpyBOut 0 0x100) true).xferLost (moving .cpyBOut 0 0x100) 0 = false) ∧ (hline1 true).line.bounded = true ∧ (hline1 true).line.data.length = 128 ∧
    (hline1 true).line.bnds.length = 4 ∧ (movingAt (moving .cpyBOut 0 0x100) true).noWaypoint ∧
    (movingAt (moving .cpyBOut 0 0x100) true).reach (moving .cpyBOut 0 0x100) 0x100 .write = .line (movingAt (moving .cpyBOut 0 0x100) true) key1 := by
  refine ⟨⟨by decide +kernel, by decide +kernel, by decide +kernel, by decide +kernel, by decide +kernel, reach_line (by decide +kernel)⟩,
    by decide +kernel, by decide +kernel, by decide +kernel, by decide +kernel, ?_, reach_line (by decide +kernel)⟩
  unfold State.noWaypoint; decide +kernel

/-- A descriptor of one dimension of four 8-bit elements, all of them in the window. -/
def desc1 : List Byte := List.replicate 8 0 ++ [1, 7] ++ List.replicate 6 0 ++ [4, 0, 0, 0, 4, 0] ++ List.replicate 106 0
def tensor1 (d : List Byte) : EngOp := { eng0 with kind := .cpyTIn, st := .descriptor, buf := [(8, d)], coords := [0] }

theorem wit_EnginesEnd :
    ((withEng eng0).eng? 10 = some eng0 ∧ (withEng eng0).noneEnded ∧ eng0.kind.copies = true ∧ eng0.allDone = true ∧ eng0.fault = none ∧
      eng0.txb = none) ∧
    ((withEng eng0).txbRead 1 0 0).arrb + 16 < 2 ^ 32 ∧ ((s1.warp eng0.slot).live = true ∧ (s1.warp eng0.slot).uid = eng0.uid) ∧
    (s1.launch? eng0.launch = some launch1 ∧
      (newLaunch 0 0 0 0 eng0.a (List.replicate 128 0) (some 1)).asidF = launch1.asid ∧
      (newLaunch 0 0 0 0 eng0.a (List.replicate 128 0) (some 1)).vfF = launch1.vf ∧
      (s1.queue launch1.queue).used < 2 ^ ((s1.queue launch1.queue).ctl.toNat % 32)) ∧
    (descOk (tensor1 []).snapshot [0] 0 = false ∧ descOk (tensor1 desc1).snapshot [0] 0 = true ∧
      0 + windowBytes (tensor1 desc1).snapshot [0] ≤ s1.sliceOf 1 ∧ ∀ r ∈ (s1.core 0).locks, r.op = 10) := by
  unfold State.noneEnded; decide +kernel

/-- The bank load has read its bytes; a `mat.st` has had its write, or a fault of it, acknowledged. -/
def ldbDone : EngOp := { ldb0 with st := .active }
def stored (st : LaneSt) : MemOp := { frameLoad with kind := .matSt, lanes := [(0, { Lane.none with st })] }

theorem wit_MatrixTransfersEnd :
    ((withEng ldbDone).eng? 10 = some ldbDone ∧ ldbDone.allDone = true ∧ (withEng ldbDone).bankBusy 0 ldbDone.order false = false ∧
      (withEng ldbDone).noneEnded ∧ ldbDone.txb = none ∧ fmtBits .e4m3 = 8) ∧
    ((stored .done).acked = true ∧ (stored .done).faults = [] ∧ (stored (.fault 5)).acked = true ∧ (stored (.fault 5)).faults ≠ []) := by
  unfold State.noneEnded; decide +kernel

/-! Queues and launches. -/

/-- A list of bytes given by its non-zero bytes. -/
def bytesAt (n : Nat) (xs : List (Nat × Byte)) : List Byte := (List.range n).map fun i => Map.get xs 0 i

/-- Queue 0, enabled with 16 slots at 0x1000 and rung; and a machine with it and no warp. -/
def queue1 : Queue := { Queue.reset with base := 0x1000, ctl := 0x8004, rung := true }
def ringing (mem : List Host.Cell) : State :=
  { s1 with warps := [], blocks := [], clusters := [], launches := [], queues := [(0, queue1)], mem, hub := { s1.hub with parts := [(0, 0x80000001)], funcs := [(0, BitVec.ofNat 256 (0x10000 * 2 ^ 64 + 2 ^ 31))] } }

theorem wit_QueueRegisters :
    (¬2 ^ (((ringing []).queue (qkey 0 0)).ctl.toNat % 32) ≤ ((ringing []).queue (qkey 0 0)).used) ∧
    (let s := { s1 with queues := [(0, { queue1 with used := 16 })] }
     2 ^ ((s.queue (qkey 0 0)).ctl.toNat % 32) ≤ (s.queue (qkey 0 0)).used) ∧
    ¬(1 = 0 ∨ bitsOf ((ringing []).queue (qkey 0 0)).ctl.toNat 13 8 = 1) ∧ (0x8004 : Word).getLsbD 15 = true ∧ (0x8003 : Word).toNat % 32 < 4 := by
  decide +kernel

/-- A launch whose header has been read: zeros, which break a limit; one that is well formed but for its widths; and a whole one
that waits for an event at VA 8. -/
def header1 (ws : List (Nat × Byte)) : List Byte :=
  bytesAt 128 ([(6, 0x10)] ++ ws ++ [(0x68, 1), (0x6C, 1), (0x6E, 1), (0x74, 32), (0x78, 1)])
def launchH (hdr : List Byte) : Launch := { launch1 with st := .header, hdr, nextCl := 0 }
def read (hdr : List Byte) : State :=
  { ringing [] with launches := [(1, launchH hdr)], queues := [(0, { queue1 with busy := some 1 })] }
def badHeader : List Byte := bytesAt 128 []
def wholeHeader : List Byte := bytesAt 128 [(6, 0x10), (0x30, 8), (0x58, 1), (0x68, 1), (0x6C, 1), (0x6E, 1), (0x74, 32), (0x78, 1), (0x7A, 5)]

/-- A launch that waits for its events, and how they stand: 0 met, 1 unmet, otherwise a code. -/
def eventful (hdr : List Byte) (mem : List Host.Cell) : State :=
  { ringing mem with launches := [(1, { launchH hdr with st := .events })], queues := [(0, { queue1 with busy := some 1 })] }
def waits (s : State) (l : Launch) : Nat := match (s.waitEvents l [0, 1, 2, 3]).2 with
  | .met => 0
  | .unmet => 1
  | .bad c => 2 + c

/-- A header that breaks a limit and names a signal event at VA 8, in a page of a pool range whose port is not ready. -/
def remoteHeader : List Byte := bytesAt 128 [(0x28, 8)]
def remote (mem : List Host.Cell) : State :=
  { read remoteHeader with
      mem, tlb := [⟨8, 0, 0, 0, 0, (2 ^ 51 + 2 ^ 49) / 4096, true, true, true, false⟩], plts := [(0, [0, 0xE001680000000000, 0])],
      hub := { (read remoteHeader).hub with ready := 0xFFFFFFFFF - 0xF00000000 + 0xF00000000, hdm := [(0, (0, 2 ^ 46))] } }

theorem wit_LaunchProcessing :
    ((ringing [(0x1000, 1)]).slotReady 0 0 ∧ launchSlotOk ((ringing [(0x1000, 1)]).slotBytes 0)) ∧
    ((ringing [(0x1000, 3)]).slotReady 0 0 ∧ ¬launchSlotOk ((ringing [(0x1000, 3)]).slotBytes 0) ∧
      field ((ringing [(0x1000, 3)]).slotBytes 0) 0 2 = 3) ∧
    ((ringing []).slotReady 0 0 ∧ field ((ringing []).slotBytes 0) 0 2 = 0) ∧
    ((read badHeader).headerRead 1 (launchH badHeader) ∧ (launchH badHeader).limits = false ∧ (read badHeader).onlyLaunch 1 ∧
      (read badHeader).portsReady) ∧
    ((remote []).headerRead 1 (launchH remoteHeader) ∧ (launchH remoteHeader).limits = false ∧ (remote []).onlyLaunch 1 ∧
      (remote []).signalClosed (launchH remoteHeader) 1 = true) ∧
    ((read (header1 [])).headerRead 1 (launchH (header1 [])) ∧ (launchH (header1 [])).limits = true ∧ (launchH (header1 [])).widOk = false) ∧
    ((read wholeHeader).headerRead 1 (launchH wholeHeader) ∧ (launchH wholeHeader).limits = true ∧ (launchH wholeHeader).widOk = true ∧
      (read wholeHeader).spaceOk (launchH wholeHeader) = true ∧
      (read wholeHeader).dies &&& (launchH wholeHeader).diesF &&& (read wholeHeader).dmask 0 ≠ 0 ∧ (launchH wholeHeader).gang = false ∧
      (Map.get (read wholeHeader).plts [] (spaceKey 0 0)).head? = some (BitVec.ofNat 64 (launchH wholeHeader).pltVa) ∧
      (launchH wholeHeader).wsetVa = 0 ∧ (read wholeHeader).fitsIdle 1 (launchH wholeHeader) = true ∧ (launchH wholeHeader).noWaits = false) ∧
    waits (eventful badHeader []) { launchH badHeader with st := .events } = 0 ∧
    waits (eventful wholeHeader (tables 0x1F).mem) { launchH wholeHeader with st := .events } = 1 ∧
    2 ≤ waits (eventful wholeHeader []) { launchH wholeHeader with st := .events } ∧ (eventful wholeHeader []).onlyLaunch 1 ∧ (eventful wholeHeader []).portsReady := by
  unfold State.slotReady State.headerRead State.onlyLaunch launchSlotOk State.portsReady
  refine ⟨?_, ?_, ?_, ?_, ?_, ?_, ?_, ?_, ?_, ?_, ?_⟩ <;> decide +kernel

/-- A gang launch that has been placed whole, on time or late. -/
def gang (tick placed : Nat) : Launch :=
  { launch1 with hdr := bytesAt 128 [(0x20, BitVec.ofNat 8 tick), (0x68, 1), (0x6C, 1), (0x6E, 1), (0x79, 8)], nextCl := 1, started := false, placedAt := placed }
def ganged (tick placed : Nat) : State := { s1 with launches := [(1, gang tick placed)], time := 5 }

/-- A cluster without blocks and one with, asked to leave. -/
def leaving : State :=
  { s1w (fun w => { w with issue := 0, threads := [(0, { lane0 with pc := 0x1000, cl := none })] }) with
      hub := { s1.hub with parts := [(0, BitVec.ofNat 128 (2 ^ 63))] },
      clusters := [(1, { Cluster.none with live := true, launch := 1, blocks := [1], preempt := true }),
        (2, { Cluster.none with live := true, launch := 1, preempt := true })] }

/-- A coresident launch that may be pre-empted and whose function's slice is over, its two clusters asked to leave. -/
def leavingAll : State :=
  { leaving with
      launches := [(1, { launchCtrl 0x14 with nextCl := 1 }), (2, { launch1 with vf := 1 })], slices := [(0, (1, 0))] }

/-- A cluster asked to leave whose partition has no save pool. -/
def unpooled : State := { leaving with hub := { leaving.hub with parts := [] } }

/-- Two functions with launches in partition 0; a slice of 1 µs each. -/
def shared : State :=
  { s1 with
      launches := [(1, launch1), (2, { launch1 with vf := 1 })], time := 1000,
      hub := { s1.hub with funcs := [(0, BitVec.ofNat 256 (2 ^ 32)), (1, BitVec.ofNat 256 (2 ^ 32))] } }

/-- The same where the save pool has no room for the launch's context. -/
def cramped : State :=
  { shared with
      launches := [(1, { launch1 with hdr := bytesAt 128 [(0x79, 0x10)] }), (2, { launch1 with vf := 1 })],
      clusters := [(1, { Cluster.none with live := true, launch := 1, blocks := [1] })] }

/-- An active warp at a header and a pending one that is ready. -/
def swapping : State :=
  { s1 with
      stamp := 300, cycle := 256000,
      warps := [(0, { warp1 with issue := 0, threads := [(0, { lane0 with pc := 0x1000, cl := none })] }),
        (1, { warp1 with uid := 2, issue := 0, active := false, ready := true, threads := [(0, { lane0 with pc := 0x1000, cl := none })] })] }

/-- The active warp's one thread sleeps at the header. -/
def idle : State :=
  { swapping with
      warps := [(0, { warp1 with issue := 0, threads := [(0, { lane0 with pc := 0x1000, cl := none, st := .sleeping 5 })] }),
        (1, { warp1 with uid := 2, issue := 0, active := false, ready := true, threads := [(0, { lane0 with pc := 0x1000, cl := none })] })] }

/-- The launch of the abort register, with a warp that is in mid-clause or that is not. -/
def aborting (w : List (Nat × Warp)) : State := { s1 with warps := w, queues := [(0, { queue1 with busy := some 1 })] }

/-- A warp whose one thread waits at a barrier. -/
def sleeper : Warp := { warp1 with issue := 0, threads := [(0, { lane0 with st := .heldK 1 })] }

/-- One block on one core takes a byte at least, and less than a pool of 2^31 MiB holds. -/
theorem wit_SavePool : leaving.poolRoom 0 (([1].map leaving.contextSize).sum) = true ∧
    leavingAll.poolRoom 0 (([1, 2].map leavingAll.contextSize).sum) = true ∧ unpooled.poolRoom 0 (([1].map unpooled.contextSize).sum) = false ∧
    ∃ p ∈ cramped.sliceVictims 0, cramped.contextsFit 0 p = false := by
  have h : ([1].map leaving.contextSize).sum = 1 * ((Config.contextBytes 1 4096).toNat + 1) + 0 + 0 := rfl
  have ha : ([1, 2].map leavingAll.contextSize).sum = 1 * ((Config.contextBytes 1 4096).toNat + 1) + 0 + (0 + 0) := rfl
  have hu : ([1].map unpooled.contextSize).sum = 1 * ((Config.contextBytes 1 4096).toNat + 1) + 0 + 0 := rfl
  have hc : ([1].map cramped.contextSize).sum = 1 * ((Config.contextBytes 1 4096).toNat + 1) + 0 + 0 := rfl
  have b : (Config.contextBytes 1 4096).toNat < 2 ^ 21 := (Config.contextBytes 1 4096).isLt
  have u : leaving.poolUsed (leaving.partOf 0) = 0 := by decide +kernel
  have ua : leavingAll.poolUsed (leavingAll.partOf 0) = 0 := by decide +kernel
  have p : bitsOf (leaving.part (leaving.partOf 0)) 63 32 = 2 ^ 31 := by decide +kernel
  have pa : bitsOf (leavingAll.part (leavingAll.partOf 0)) 63 32 = 2 ^ 31 := by decide +kernel
  have pu : bitsOf (unpooled.part (unpooled.partOf 0)) 63 32 = 0 := by decide +kernel
  have pc : bitsOf (cramped.part (cramped.partOf 0)) 63 32 = 0 := by decide +kernel
  have none : ∀ (s : State) (n : Nat), bitsOf (s.part (s.partOf 0)) 63 32 = 0 → 0 < n → s.poolRoom 0 n = false := by
    intro s n hz hn
    simp only [State.poolRoom, hz, decide_eq_false_iff_not]; omega
  refine ⟨?_, ?_, none _ _ pu (by omega), (1, { launch1 with hdr := bytesAt 128 [(0x79, 0x10)] }), by decide +kernel, ?_⟩
  · simp only [State.poolRoom, h, u, p, decide_eq_true_eq]; omega
  · simp only [State.poolRoom, ha, ua, pa, decide_eq_true_eq]; omega
  · have hf : cramped.poolFits 0 [1] = false := none _ _ pc (by omega)
    have hm : cramped.mayLeave (1, { launch1 with hdr := bytesAt 128 [(0x79, 0x10)] }) = [1] := by decide +kernel
    have hn : ({ launch1 with hdr := bytesAt 128 [(0x79, 0x10)] } : Launch).cor = false := by decide +kernel
    simp only [State.contextsFit, hm, hn, List.all_cons, hf, Bool.false_and, Bool.false_eq_true, if_false]

theorem wit_LaunchControl :
    (((ganged 3 2).launch? 1 = some (gang 3 2) ∧ (gang 3 2).gang = true ∧ (gang 3 2).tick ≤ (ganged 3 2).time ∧
      (ganged 3 2).allPlaced 1 (gang 3 2) = true ∧ (gang 3 2).placedAt ≤ (gang 3 2).tick ∧ (gang 3 4).tick < (gang 3 4).placedAt ∧
      (ganged 9 2).time < (gang 9 2).tick ∧ (ganged 3 2).hub.ready.getLsbD 6 = true)) ∧
    (((leaving.cluster 1).blocks = [1] ∧ leaving.dead 0 = false) ∧ (leaving.cluster 1).live = true ∧ (leaving.cluster 1).saved = false ∧ (leaving.cluster 1).preempt = true ∧
      leaving.leaveWith 1 launch1 1 = [1] ∧ (∀ b ∈ (leaving.cluster 1).blocks, leaving.blockIdle b = true) ∧ (leaving.cluster 1).blocks.Nodup ∧
      Map.find? leaving.saved 1 = none ∧ (leaving.block 1).live = true ∧
      leaving.launch? 1 = some launch1 ∧ leaving.placesNone 1 ∧ leaving.staysOff 1 launch1 1) ∧
    ((leavingAll.cluster 1).live = true ∧ leavingAll.launch? 1 = some { launchCtrl 0x14 with nextCl := 1 } ∧
      leavingAll.leaveWith 1 { launchCtrl 0x14 with nextCl := 1 } 1 = [1, 2] ∧
      (∀ k ∈ [1, 2], ∀ b ∈ (leavingAll.cluster k).blocks, leavingAll.blockIdle b = true) ∧
      ([1, 2].flatMap fun k => (leavingAll.cluster k).blocks) = [1] ∧ leavingAll.placesNone 1 ∧
      leavingAll.staysOff 1 { launchCtrl 0x14 with nextCl := 1 } 1) ∧
    ((unpooled.cluster 1).live = true ∧ unpooled.leaveWith 1 launch1 1 = [1] ∧ ∀ b ∈ (unpooled.cluster 1).blocks, unpooled.blockIdle b = true) ∧
    (shared.readyFuncs 0 = [0, 1] ∧ bitsOf (shared.func 0) 47 32 = 1 ∧ Map.get shared.slices (0, 0) 0 = (0, 0) ∧
      0 + bitsOf (shared.func 0) 47 32 * 1000 ≤ shared.time ∧ { shared with time := 999 }.time < 0 + bitsOf (shared.func 0) 47 32 * 1000 ∧
      (∀ p ∈ shared.sliceVictims 0, p.2.stays = false) ∧
      (∀ p ∈ shared.sliceVictims 0, shared.contextsFit 0 p = true) ∧
      (∀ p ∈ { shared with slices := [(0, (1, 0))] }.sliceVictims 1, { shared with slices := [(0, (1, 0))] }.contextsFit 1 p = true) ∧
      bitsOf (shared.func 1) 47 32 = 1) ∧
    ((∀ p ∈ cramped.sliceVictims 0, p.2.stays = false) ∧ cramped.readyFuncs 0 = [0, 1]) ∧
    (((swapping.warp 0).live = true ∧ (swapping.warp 1).live = true ∧ (swapping.warp 0).active = true ∧ (swapping.warp 1).active = false ∧
      quadOf 0 = quadOf 1 ∧ (swapping.warp 0).atHeader = true ∧ (swapping.warp 1).ready = true ∧ (swapping.retire 0).activeRoom 1 1 = true ∧
      swapping.swapFree (quadOf 1) = true ∧ swapping.displaced 0 = true ∧ swapping.readyFor 1 true 256 = true ∧
      ({ swapping with swaps := [(0, 257)] } : State).swapFree (quadOf 1) = false) ∧
    ((idle.warp 0).atHeader = true ∧ (idle.warp 1).ready = true ∧ (idle.retire 0).activeRoom 1 1 = true ∧ idle.earliest 1 = true ∧
      idle.swapFree (quadOf 1) = true ∧ (idle.warp 0).ready = false ∧ idle.outCause 0 = true ∧ idle.readyFor 0 false 32 = true)) ∧
    ((0x80000000 : Word).getLsbD 31 = true ∧ (aborting []).hub.abort = none ∧ ((aborting []).queue 0).busy = some 1 ∧
      (aborting []).launch? 1 = some launch1 ∧ launch1.st = .running ∧
      (∀ k ∈ (aborting [(0, warp1)]).slotsOf 1, (aborting [(0, warp1)]).halted k = false ∧ ((aborting [(0, warp1)]).warp k).stopped = false) ∧
      (aborting [(0, warp1)]).slotsOf 1 = [0] ∧ (aborting []).portsReady ∧
      (∀ k ∈ (aborting [(0, sleeper)]).slotsOf 1, ((aborting [(0, sleeper)]).warp k).stopped = true) ∧
      (∀ p ∈ (aborting []).ops, p.2.launch ≠ 1) ∧ (∀ p ∈ (aborting []).engs, p.2.launch ≠ 1) ∧ (∀ p ∈ (aborting []).mats, p.2.launch ≠ 1) ∧
      (aborting []).onlyLaunch 1) := by
  unfold State.onlyLaunch State.placesNone State.staysOff State.portsReady
  refine ⟨?_, ?_, ⟨by decide +kernel, by decide +kernel, by decide +kernel, by decide +kernel, by decide +kernel, by decide +kernel, .inl ?_⟩,
    ?_, ?_, ?_, ?_, ?_⟩ <;> try decide +kernel
  exact ⟨by decide +kernel, by decide +kernel, by decide +kernel, by decide +kernel, by decide +kernel, by decide +kernel, by decide +kernel,
    by decide +kernel, by decide +kernel, by decide +kernel, by decide +kernel, .inr ⟨rfl, 2, by decide +kernel⟩⟩

/-- A range invalidation that is at its end, of 4 KiB at 0 with its DONE word at VA 8, for which there is no placement table. -/
def inv1 : RangeInv := ⟨0, 0, 0, 0, 1, 0, 4096, 8, false, []⟩
def invalidating (i : RangeInv) : State := { tables 0x1F with plts := [], invs := [i] }

theorem wit_RangeInvalidation :
    ((ringing [(0x1000, 2), (0x1011, 0x10)]).slotReady 0 0 ∧ field ((ringing [(0x1000, 2), (0x1011, 0x10)]).slotBytes 0) 0 2 = 2 ∧
      (invOf 0 0 ((ringing [(0x1000, 2), (0x1011, 0x10)]).slotBytes 0)).bad = false) ∧
    ((invalidating inv1).invs.find? (fun x => x.queue = qkey 0 0) = some inv1 ∧ (∀ k ∈ (invalidating inv1).invLines inv1, False) ∧
      (invalidating inv1).plt 0 0 = [] ∧ (∃ e, (invalidating inv1).walk 8 0 0 8 = .ok e ∧ e.write = true ∧ e.paPage = 0) ∧
      (invalidating inv1).viralPa 8 = false ∧ (invalidating inv1).poolLost 8 = false ∧ (ringing [(0x1000, 2), (0x1011, 0x10)]).home = []) ∧
    ({ invalidating { inv1 with pending := [10] } with ops := [(10, frameLoad)] }.invs.find? (fun x => x.queue = qkey 0 0) =
        some { inv1 with pending := [10] } ∧
      { invalidating { inv1 with pending := [10] } with ops := [(10, frameLoad)] }.op? 10 ≠ none) := by
  refine ⟨?_, ⟨by decide +kernel, by decide +kernel, by decide +kernel, ⟨_, rfl, by decide +kernel⟩, by decide +kernel⟩,
    by decide +kernel⟩
  unfold State.slotReady; decide +kernel

/-! Platform. -/

/-- The clock at 1,725 MHz, last stepped long ago, with power low since 0; and the clock at its lowest since 0. -/
def clock : State := { s1 with time := 1000000000, power := { Power.reset with mhz := 1725, cool := some 0 } }
def slow : State := { s1 with time := 1000000000, power := { Power.reset with mhz := 1000, low := some 0 } }

/-- A reading requested by function 1 of partition 0. -/
def metered : State := { s1 with hub := { s1.hub with energy := [(1, 0, 0x100000)], busy := [1] } }

theorem wit_ClockAndEnergy :
    (1000 < clock.power.mhz ∧ clock.power.lastStep + 10000 ≤ clock.time ∧ clock.power.cool = some 0 ∧ 0 + 100000 ≤ clock.time ∧
      clock.power.mhz < 1750) ∧
    (slow.power.mhz ≤ 1000 ∧ slow.power.low = some 0 ∧ 0 + 1000000 ≤ slow.time ∧ 1750 ≤ s1.power.mhz ∧
      ¬s1.power.lastStep + 10000 ≤ s1.time) ∧
    (clock.power.sampled + 1000 ≤ clock.time ∧ (∀ d, clock.viral d = false) ∧ s1.time < s1.power.sampled + 1000) ∧ 1 ∉ s1.hub.busy ∧ 1 ∈ metered.hub.busy ∧
    (metered.hub.energy = (1, 0, 0x100000) :: [] ∧ 1 ∉ ([] : List (Nat × Nat × Nat)).map Prod.fst ∧ metered.hub.busy.Nodup ∧
      metered.hub.ready.getLsbD 5 = true ∧ metered.dead 0x100000 = false ∧ metered.clearOf 0x100000 2560) ∧
    s1.time < s1.power.checkpointed + 1000000000 ∧ clock.power.checkpointed + 1000000000 ≤ clock.time := by
  refine ⟨by decide +kernel, by decide +kernel, ⟨by decide +kernel, fun _ => rfl, by decide +kernel⟩, by decide +kernel, by decide +kernel,
    ⟨by decide +kernel, by decide +kernel, by decide +kernel, by decide +kernel, by decide +kernel, fun p h => nomatch h⟩, by decide +kernel⟩

/-- Boot flash with images of the versions given, and no record. -/
def flash (a b : Nat) : BootFlash := ⟨⟨[1], [], a⟩, ⟨[2], [], b⟩, 1, [], 1⟩

/-- What an image's signature says is the implementation's; each answer falls under a clause of O47, and images that are too old fall under
the last. -/
theorem wit_ResetsAndBoot :
    (State.reset.hub.ready.getLsbD 4 = false ∧ State.reset.power.asks = []) ∧ s1.hub.ready.getLsbD 4 = true ∧ (flash 1 1).records = [] ∧
    (Config.verifies [1] [] = true → Config.verifies (flash 1 1).primary.bytes (flash 1 1).primary.sig = true ∧
      max State.reset.power.minVersion (flash 1 1).minVersion ≤ (flash 1 1).primary.version) ∧
    (Config.verifies [2] [] = true →
      ¬(Config.verifies (flash 0 1).primary.bytes (flash 0 1).primary.sig = true ∧
        max State.reset.power.minVersion (flash 0 1).minVersion ≤ (flash 0 1).primary.version) ∧
      Config.verifies (flash 0 1).alternate.bytes (flash 0 1).alternate.sig = true ∧
      max State.reset.power.minVersion (flash 0 1).minVersion ≤ (flash 0 1).alternate.version) ∧
    (¬max State.reset.power.minVersion (flash 0 0).minVersion ≤ (flash 0 0).primary.version ∧
      ¬max State.reset.power.minVersion (flash 0 0).minVersion ≤ (flash 0 0).alternate.version) ∧
    ((List.replicate 32 (0 : Byte)).length = 32 ∧ s1.power.asks = [] ∧ s1.dead 0x100000 = false ∧
      s1.clearOf 0x100000 (2464 + s1.power.loaded.flatten.length)) := by
  refine ⟨by decide, by decide +kernel, rfl, fun h => ⟨h, by decide⟩, fun h => ⟨fun x => ?_, h, by decide⟩, by decide,
    rfl, rfl, by decide +kernel, fun p h => nomatch h⟩
  exact absurd x.2 (by decide)

/-- Chip 7, which may be reached or not, or this chip is the pod's time master. -/
def mastered (m : Nat) (up : Bool) : State :=
  { s1 with
      power := { Power.reset with master := some m },
      fab := { Fabric.reset with fid := 5, frt := [(7, 1)], ports := if up then [(1, { Port.reset with width := 3 })] else [] } }

theorem wit_TimeMaster : (∀ b, (mastered 7 b).power.master = some 7 ∧ 7 ≠ (mastered 7 b).chip ∧ (mastered 7 b).linked 7 = b) ∧
    (mastered 5 true).power.master = some (mastered 5 true).chip := by decide +kernel

theorem wit_HostEvents :
    (∀ i, i < 7 → ({ s1 with hub := { s1.hub with msix := (List.range 7).map fun i => (4 * i + 3, 1) } }.msixCtl 0 i).getLsbD 0 = false) ∧
    (s1.hub.ready.getLsbD 3 = true ∧ s1.hub.ready.getLsbD 39 = true ∧ s1.hub.ready.getLsbD 7 = true ∧ s1.hub.held = [] ∧ s1.hub.late = [] ∧ s1.power.asks = [] ∧
      s1.noneEnded) ∧
    ({ s1 with power := { s1.power with synced := true, offset := 4 } }.power.offset ≤ 4 ∧ s1.power.master ≠ some s1.chip) := by
  unfold State.noneEnded; decide +kernel

/-- Partition 1 holds domain 1; function 1, in partition 0, has an enabled queue. -/
def owned : State :=
  { s1 with
      hub := { s1.hub with parts := [(1, 0x80000002)] }, queues := [(0, { queue1 with ctl := 0x8104 })],
      fab := { Fabric.reset with fid := 5 } }

theorem wit_HubRegisters :
    ((∃ f, f < 64 ∧ owned.partOf f = 0 ∧ owned.queueEnabled f = true) ∧ (¬∃ f, f < 64 ∧ owned.partOf f = 1 ∧ owned.queueEnabled f = true) ∧
      ¬∃ f, f < 64 ∧ owned.partOf f = 2 ∧ owned.queueEnabled f = true) ∧
    ((∃ j, j < 8 ∧ (j ≠ 2 ∧ (owned.part j).testBit 31 = true ∧ (owned.part j % 256 &&& 0x80000002 % 256) ≠ 0)) ∧
      ¬((0x80000001 % 256 &&& s1.dies) ≠ 0x80000001 % 256)) ∧
    (owned.queueEnabled 1 = true ∧ owned.queueEnabled 2 = false) ∧ (owned.seqP ≠ owned.chip ∧ owned.seqS ≠ owned.chip) ∧
    ((s1.pq 0 1).ctl.getLsbD 15 = false ∧ s1.hub.lctl.getLsbD 15 = false ∧
      { s1 with hub := { s1.hub with lctl := 0x8006 } }.hub.lctl.getLsbD 15 = true) := by
  refine ⟨⟨⟨1, by decide +kernel⟩, ?_, ?_⟩, ⟨⟨1, by decide +kernel⟩, by decide +kernel⟩, by decide +kernel, by decide +kernel,
    by decide +kernel⟩
  · rintro ⟨f, h, p⟩; revert f; decide +kernel
  · rintro ⟨f, h, p⟩; revert f; decide +kernel

/-! Links, far memory and collectives. -/

/-- Ports 0 and 1 are up; chip 7 lies behind port 1, and this chip is chip 5. -/
def linked : State :=
  { s1 with
      fab := { Fabric.reset with
        fid := 5, frt := [(7, 1)], ports := [(0, { Port.reset with width := 3, asked := 15 }), (1, { Port.reset with width := 3 })] } }

/-- Port 0 retrains since time 0. -/
def retraining (time : Nat) : State :=
  { linked with time, fab := { linked.fab with ports := [(0, { Port.reset with width := 3, asked := 16, retrain := some 0 })] } }
def flit1 (dest : BitVec 12) (vc : BitVec 8) (seq : Word) (good : Bool) : Flit := ⟨dest, 7, vc, 0, seq, List.replicate 32 0, good⟩

theorem wit_Links :
    ((linked.port 0).width ≠ 0 ∧ (linked.port 0).retrain = none ∧ (linked.port 1).retrain = none ∧ linked.quietCol ∧ (flit1 5 3 0 true).seq = (linked.port 0).rxSeq ∧ (flit1 5 3 0 true).dest.toNat = linked.chip ∧
      (linked.port 0).wait = [] ∧ (flit1 5 3 0 true).payload.length = 32 ∧ (flit1 5 3 9 true).seq ≠ (linked.port 0).rxSeq) ∧
    ((flit1 7 0 0 true).dest.toNat ≠ linked.chip ∧ linked.route (flit1 7 0 0 true).dest.toNat = some 1 ∧ (linked.port 1).width ≠ 0 ∧
      (linked.port 1).wait = [] ∧ (linked.port 1).retry.length < 512 ∧ (linked.port 1).stop.getLsbD 0 = false) ∧
    ((retraining 0).port 0).retrain = some 0 ∧ (retraining 0).quietCol ∧ ((retraining 0).port 0).width ≠ 0 ∧
    (retraining 0).time < 0 + 10000000 ∧ 0 + 10000000 ≤ (retraining 10000000).time ∧ 16 ≤ (linked.port 0).asked + 1 := by
  unfold State.quietCol; decide +kernel

/-- Aperture 0, for function 0 from the host, maps VA 0 of ASID 0 for reads and writes; the access falls on the line at 0x100. -/
def aperture : State := { homed false with hub := { s1.hub with apertures := [(0, 0xE000000000000000)] } }
def access (k : ApertureKind) : ApertureAcc := { fromHost := true, vf := 0, index := 0, offset := 0x100, kind := k }

/-- A line of the pool cache, dirty in one sector, at a pool address; decoder 0 of its port maps the port's whole range. -/
def poolPa : Nat := 2 ^ 51 + 2 ^ 49 + 0x100
def hlineP (dirty : BitVec 4) : HLine := { hline1 false with pa := poolPa, dirty, sharers := [0] }
def keyP : Nat := lineKey 8 0 0 0x100
def pooled (dirty : BitVec 4) : State := { s1 with home := [(keyP, some (hlineP dirty))], hub := { s1.hub with hdm := [(0, (0, 2 ^ 46))] } }

theorem wit_FarMemory :
    ((access (.read 4)).fromHost = true ∧ State.reset.hub.ready.getLsbD 3 = false ∧
      ({ access (.read 4) with fromHost := false, src := 7 } : ApertureAcc).fromHost = false ∧ aperture.linked 7 = false ∧
      ∀ k, aperture.apHeard (access k) ∧ s1.apHeard (access k)) ∧
    apAdmits (Map.get s1.hub.apertures 0 (access (.read 4)).index) (access (.read 4)) = false ∧
    (apAdmits (Map.get aperture.hub.apertures 0 0) (access (.read 4)) = true ∧ aperture.hline key1 = some (hline1 false) ∧
      apVa (Map.get aperture.hub.apertures 0 0) + 0x100 = 0x100 ∧ aperture.storeHeld 0 0 (0x100 / 128) = false ∧
      aperture.touch ⟨0, 0, 0, 0⟩ 0x100 .read = .ok aperture key1) ∧
    (apAdmits (Map.get aperture.hub.apertures 0 0) (access (.write [1, 2, 3, 4])) = true ∧
      aperture.touch ⟨0, 0, 0, 0⟩ 0x100 .write = .ok aperture key1 ∧ aperture.noWaypoint) ∧
    (pooled 1).poolLine poolPa keyP (hlineP 1) ∧
    (let s := { pooled 1 with hub := { (pooled 1).hub with pools := [(0, 0x100)] } }
     s.poolLines poolPa = [keyP] ∧ s.hline keyP = some (hlineP 1) ∧ s.poolLost poolPa = true) ∧
    (s1.poolReg 0).getLsbD 8 = false ∧ s1.rangeLines 0 0 = [] ∧
    (∀ d ∈ [(0 : BitVec 4), 1], (pooled d).rangeLines 0 0 = [(keyP, d != 0)] ∧ ((pooled d).poolReg 0).getLsbD 8 = false ∧ (pooled d).hline keyP = some (hlineP d)) ∧
    { s1 with hub := { s1.hub with pools := [(0, 0x100)] } }.poolReg 0 = 0x100 := by
  refine ⟨⟨rfl, by decide +kernel, rfl, by decide +kernel, fun _ => ⟨rfl, rfl⟩⟩, by decide +kernel,
    ⟨by decide +kernel, by decide +kernel, by decide +kernel, by decide +kernel, touch_ok (by decide +kernel)⟩,
    ⟨by decide +kernel, touch_ok (by decide +kernel), ?_⟩, ⟨by decide +kernel, by decide +kernel, rfl, by decide +kernel, rfl, by decide +kernel⟩,
    by decide +kernel, by decide +kernel, by decide +kernel, by decide +kernel, by decide +kernel⟩
  unfold State.noWaypoint; decide +kernel

/-- A message of communicator 0 and its grant. -/
def msg1 : ColMsg := ⟨0, 0, 0, 0, 0, 0, 0, 16⟩
def grant1 (sent : Bool) (st : Option Nat) : Grant := ⟨msg1, [0, 7], [], sent, st⟩

/-- The sequencers: this chip is chip 5, the primary and the standby as given; communicator 0 has chip 5 as its member. -/
def seqState (p q : Word) (grants : List Grant) (bs : List Byte) (src : Nat) : State :=
  { s1 with
      mem := [(0, 5)],
      fab := { Fabric.reset with
        fid := 5 + 65536 * q, fseq := p, comms := [(0, comm0)], seq := { Sequencer.reset with grants }, inbox := [(src, 3, bs)] } }

theorem wit_Sequencers :
    ((seqState 5 6 [] (colBytes 1 msg1.asRequest) 7).arrived 7 (colBytes 1 msg1.asRequest) ∧
      (seqState 5 6 [] (colBytes 1 msg1.asRequest) 7).seqP = (seqState 5 6 [] (colBytes 1 msg1.asRequest) 7).chip ∧
      (seqState 5 6 [] (colBytes 1 msg1.asRequest) 7).seqMembers 0 = some [5] ∧
      (seqState 5 6 [] (colBytes 1 msg1.asRequest) 7).seqMembers 9 = none ∧
      (seqState 5 6 [] (colBytes 1 msg1.asRequest) 7).grantable [5] = true ∧
      (seqState 5 6 [] (colBytes 1 msg1.asRequest) 7).seqWaits = false ∧
      (seqState 5 6 [grant1 false none] (colBytes 1 msg1.asRequest) 7).seqWaits = true ∧
      (seqState 5 6 [grant1 false none] (colBytes 1 msg1.asRequest) 7).arrived 7 (colBytes 1 msg1.asRequest) ∧ (grant1 true none).msg.sameKey msg1 = true) ∧
    ((seqState 6 5 [] (colBytes 5 msg1) 6).arrived 6 (colBytes 5 msg1) ∧
      (seqState 6 5 [] (colBytes 5 msg1) 6).seqS = (seqState 6 5 [] (colBytes 5 msg1) 6).chip ∧ 6 = (seqState 6 5 [] (colBytes 5 msg1) 6).seqP) ∧
    ((seqState 5 6 [grant1 false none] (statBytes 16 0 0) 6).arrived 6 (statBytes 16 (0 : Word).toNat 0) ∧
      6 = (seqState 5 6 [grant1 false none] (statBytes 16 0 0) 6).seqS ∧ (grant1 false none).sent = false ∧ (grant1 false none).msg.milepost = 0) ∧
    ((seqState 5 6 [grant1 true none] (statBytes 4 0 0) 7).arrived 7 (statBytes 4 (0 : Word).toNat (0 : Byte).toNat) ∧
      7 ∈ (grant1 true none).members ∧ 7 ∉ (grant1 true none).reported) ∧
    (let s := seqState 5 6 [] [] 7
     s.seqP = s.chip ∧ s.time < s.fab.seq.beat + 10000 ∧ s.fab.seq.beat + 10000 ≤ { s with time := 10000 }.time) ∧
    (seqState 6 5 [] (statBytes 6 0 0) 6).arrived 6 (statBytes 6 (0 : Word).toNat 0) ∧
    (let s := seqState 6 5 [] [] 7
     s.seqS = s.chip ∧ s.seqP ≠ s.chip ∧ s.time < s.fab.seq.beat + 100000 ∧ s.fab.seq.beat + 100000 ≤ { s with time := 100000 }.time) ∧
    (seqState 6 5 [] (takeoverBytes 5 0) 7).arrived 7 (takeoverBytes 5 (0 : Word).toNat) := by
  unfold State.arrived; refine ⟨?_, ?_, ?_, ?_, ?_, ?_, ?_, ?_⟩ <;> decide +kernel

/-- A `col` of this chip that has reached the collective engine, with its NOTICE held. -/
def issued1 (m : Option Word) (waits : Option Nat) : Issued := ⟨10, 0, 0, 0, m, 0, [5], false, waits, true, msg1⟩
def colEng (st : EngSt) : EngOp := { waitingCol with st }
def colState (ns : List Notice) (i : Issued) (st : EngSt) (bs : List Byte) (src : Nat) : State :=
  { seqState 6 9 [] bs src with
      engs := [(10, colEng st)], fab := { (seqState 6 9 [] bs src).fab with notices := ns, issued := [i] } }

theorem wit_Collectives :
    ((seqState 6 9 [] (colBytes 2 msg1) 6).arrived 6 (colBytes 2 msg1) ∧ 6 = (seqState 6 9 [] (colBytes 2 msg1) 6).seqP ∧
      (seqState 6 9 [] (colBytes 2 msg1) 6).fab.notices = []) ∧
    (let s := colState [⟨msg1, none⟩] (issued1 (some 0) (some 0)) .active [] 6
     s.fab.notices = [⟨msg1, none⟩] ∧ s.fab.issued = [issued1 (some 0) (some 0)] ∧ (issued1 (some 0) (some 0)).keyed msg1 = true ∧
      s.eng? 10 = some (colEng .active) ∧ (colEng .active).allDone = true ∧ (colEng .active).fault = none ∧ (colEng .active).txb = none ∧
      s.noneEnded ∧ (s.warp 0).live = true ∧ (s.warp 0).uid = (colEng .active).uid ∧ s.allWrote msg1 (issued1 (some 0) (some 0)) = true ∧
      s.allWrote msg1 { issued1 (some 0) (some 0) with chips := [5, 7] } = false) ∧
    (let s := colState [] (issued1 none none) .atHub (colBytes 3 msg1.asUnknown) 6
     s.arrived 6 (colBytes 3 msg1.asUnknown) ∧ 6 = s.seqP ∧ (issued1 none none).keyed msg1 = true ∧ s.eng? 10 = some (colEng .atHub)) ∧
    (let s := colState [⟨msg1, none⟩] (issued1 (some 0) none) .atHub (statBytes 9 0 4) 6
     s.arrived 6 (statBytes 9 (0 : Word).toNat (4 : Byte).toNat) ∧ s.fab.notices.all (fun n => (issued1 (some 0) none).keyed n.msg) = true) ∧
    (let s := fun st => seqState 5 6 [grant1 true st] (statBytes 8 0 3) 7
     (s none).arrived 7 (statBytes 8 (0 : Word).toNat (3 : Byte).toNat) ∧ (s none).seqP = (s none).chip ∧
      ∀ st, (s st).fab.seq.grants ++ (s st).fab.seq.lost = [grant1 true st]) ∧
    (let s := colState [⟨msg1, none⟩] (issued1 (some 0) (some 0)) .drained [] 6
     s.eng? 10 = some (colEng .drained) ∧ s.fab.colto ≠ 0 ∧ s.time < 0 + s.fab.colto.toNat * 1000 ∧
      0 + s.fab.colto.toNat * 1000 ≤ { s with time := 1000000000 }.time) := by
  unfold State.arrived State.noneEnded
  refine ⟨by decide +kernel, by decide +kernel, by decide +kernel, by decide +kernel,
    ⟨by decide +kernel, by decide +kernel, fun _ => rfl⟩, by decide +kernel⟩

/-- A launch whose error ends it, one under assurance; domain 0 in the viral state, with or without its dump. -/
def dumping (done : List Nat) : State :=
  { s1 with hub := { s1.hub with viral := [(0, some 0)], dumpBase := 0x2000100000, dumped := done } }

/-- A pair of warps with a group of one thread in issue, or none. -/
def paired (m : Mask) : State :=
  { s1 with
      warps := [(0, { warp1 with role := .leading 1, issue := m }), (1, { warp1 with role := .trailing 0, uid := 2, issue := m })],
      launches := [(1, launchCtrl 0x40)] }

theorem wit_StateErrors : ∀ m ∈ [(0 : Mask), 1],
    (paired m).launch? 1 = some (launchCtrl 0x40) ∧ (launchCtrl 0x40).st = .running ∧ (launchCtrl 0x40).rolling = none ∧
      (paired m).pairOf 1 = some (0, 1) ∧ ((paired m).warp 1).live = true ∧ ((paired m).warp 1).launch = 1 ∧ ((paired m).warp 0).issue = m ∧
      ((paired m).warp 0).lag = [] ∧ ((paired m).warp 0).hold = .none ∧ ((m = 0 ∨ (((paired m).warp 0).clause.isSome = true ∧
        (((paired m).warp 0).pairRec.back ((paired m).warp 0)).getLsbD 0 = true))) ∧ s1.pairOf 0 = none := by
  intro m hm; simp only [List.mem_cons, List.not_mem_nil, or_false] at hm
  obtain rfl | rfl := hm <;>
    exact ⟨rfl, rfl, rfl, by decide +kernel, rfl, rfl, rfl, rfl, rfl, by decide +kernel, by decide +kernel⟩

theorem wit_Containment :
    paKind 0x40000100 = .hbm 0 ∧
    ((s1.block 1).live = true ∧ 0 ∈ (s1.block 1).cores ∧ 0 < (s1.block 1).slice) ∧
    (linesAt 0 0 0x100 (homed false).home.keys = [key1] ∧ (homed false).hline key1 = some (hline1 false) ∧
      linesAt 8 0 0x100 (pooled 0).home.keys = [keyP] ∧ (pooled 0).hline keyP = some (hlineP 0) ∧
      linesAt 0 0 0x100 { s1 with l1 := [(key1, some (hline1 false).line)] }.l1.keys = [key1]) ∧
    (s1.launch? 1 = some launch1 ∧ launch1.st = .running ∧ launch1.rolling = none ∧ (launchCtrl 0x40).assured = true ∧
      launch1.waypoint = false ∧ launch1.assured = false ∧ s1.onlyLaunch 1 ∧ s1.portsReady) ∧
    (let s := { s1 with hub := { s1.hub with corrected := [(17, some 0)] } }
     Map.get s.hub.corrected none (1 * 16 + 1) = some 0 ∧ s.time < 0 + 1000000000 ∧ Map.get s.hub.corrected none (1 * 16 + 2) = none) ∧
    ((dumping []).present 0 = false ∧ s1.present 0 = true ∧ s1.lostPromos 0 = [] ∧ s1.affected 0 = [1] ∧ s1.affected 1 = [] ∧
      s1.present 1 = true ∧ launch1.repl = false) ∧
    ((dumping []).viral 0 = true ∧ (dumping []).hub.dumpBase ≠ 0 ∧ 0 ∈ (dumping [0]).hub.dumped ∧ 0 ∉ (dumping []).hub.dumped ∧
      (dumping []).hub.lctl.getLsbD 15 = false ∧ (dumping []).dead 0x2000100000 = false ∧ (dumping []).home = []) := by
  unfold State.onlyLaunch State.portsReady; refine ⟨?_, ?_, ?_, ?_, ?_, ?_, ?_⟩ <;> decide +kernel

/-! Encoding, steps and reset. -/

theorem wit_DecodeEncode : wf (.sIaddB32 4 (.s 5) (.int 3)) = true ∧ encode (.sIaddB32 4 (.s 5) (.int 3)) = [0x000485C3] ∧
    wf (.cpyBIn ⟨1, none⟩ 6 24 23) = true ∧ encode (.cpyBIn ⟨1, none⟩ 6 24 23) = [0x91021980, 0x5C000000] := by decide +kernel

/-- The thread of `lane0` at the first word of a clause that holds a word, or at a header on a line that the warp has fetched. -/
def threadAt (w : Word) : Thread := { lane0 with cl := some ⟨0x1000, 0, false, [w, 0, 0], 3⟩ }
def issuing (t : Thread) (r : Role) : State :=
  { s1w fun x => { x with threads := [(0, t)], role := r, fetched := [(32, [4, 0, 0, 0, 0, 0, 0x20, 0xF3] ++ List.replicate 120 0)] } with
      turns := [.issue 0] }

/-- A pair whose leading warp has left the clause that the trailing one is still in. -/
def following : State :=
  { paired 1 with
      turns := [.issue 1],
      warps := [(0, { warp1 with role := .leading 1, issue := 0, lag := [⟨1, 0, 0x1004, some 0x1000, .own⟩] }),
        (1, { warp1 with role := .trailing 0, uid := 2 })] }

theorem wit_StepRunsDecoded :
    (∀ r ∈ [Role.solo, .leading 1], ∀ w ∈ [(0xC0000000 : Word), 0xD0000000], let s := issuing (threadAt w) r
      s.turns = [.issue 0] ∧ { s with turns := [] }.mayIssueSlot 0 = true ∧ (s.warp 0).issue ≠ 0 ∧ (s.warp 0).xrelReplays = [] ∧
      ∃ c, (s.warp 0).clause = some c ∧ c.n ≠ 0 ∧ c.word (s.warp 0).pc = w) ∧
    (∀ t, { issuing (threadAt 0xC0000000) .solo with turns := [] }.calm t 0) ∧
    ((following.warp 1).role = .trailing 0 ∧ { following with turns := [] }.mayIssueSlot 1 = true ∧ (following.warp 1).issue ≠ 0 ∧
      ∀ t, { following with turns := [] }.calm t 0) ∧
    (∃ c, ((issuing { lane0 with cl := some ⟨0x1000, 0, false, [], 0⟩ } .solo).warp 0).clause = some c ∧ c.n = 0) ∧
    decodeAt 0 false 0xC0000000 0 = .ok .nop ∧ decodeAt 0 false 0xD0000000 0 = .error .fmtReserved ∧
    (let s := issuing { lane0 with cl := none } .solo
     (s.warp 0).clause = none ∧
       (match { s with turns := [], cur := 0 }.fetchWord 0 (s.warp 0).pc.toNat with
        | .ok y h => decide (h = 0xF3200000 ∧ y.cw.role = .solo) && isHeader h
        | _ => false) = true) := by
  refine ⟨?_, fun t p hp => (by cases hp), ⟨rfl, by decide +kernel, by decide +kernel, fun t p hp h => ?_⟩, ⟨_, rfl, rfl⟩, rfl, rfl, rfl, ?_⟩
  on_goal 2 =>
    have e : { following with turns := [] }.pairs = [(0, 1)] := by decide +kernel
    rw [e] at hp; simp only [List.mem_singleton] at hp; subst hp; exact absurd rfl h
  · intro r hr w hw
    simp only [List.mem_cons, List.not_mem_nil, or_false] at hr hw
    obtain rfl | rfl := hr <;> obtain rfl | rfl := hw <;>
      exact ⟨rfl, by decide +kernel, by decide +kernel, by decide +kernel, _, rfl, by decide +kernel, by decide +kernel⟩
  · decide +kernel

/-- 1000.0, 3 and -1 in S8, 2^-127 in E8M0, and 1 and 4 as FP32 words with the value within their bounds. -/
theorem wit_CorrectRounding :
    (codeReal .f32 0x447A0000 ≠ none ∧ codeReal .s8 0xFF ≠ none ∧ codeReal .e8m0 0 ≠ none ∧ (fmtRow .e4m3).isSome = true ∧
      intRange .s8 = some (-2 ^ 7, 2 ^ 7 - 1) ∧ codeReal .f32 0 = some 0) ∧
    (finiteWord 0x40800000 ∧ realOf 0x40800000 = 4 ∧ realOf 0 = 0 ∧ realOf 0xC0800000 = -4) ∧ within ⟨0x40800000, 0⟩ 4 := by
  have h4 : realOf 0x40800000 = 4 := by
    have hw : (0x40800000 : Word).toNat = 1082130432 := rfl
    simp only [realOf, wordExp, hw]; norm_num
  refine ⟨⟨?_, ?_, ?_, rfl, rfl, ?_⟩, ⟨?_, h4, ?_, ?_⟩, ?_, 0, ?_, ?_⟩
  · simp [codeReal, fmtRow]
  · simp [codeReal, fmtRow, intRange]
  · simp [codeReal, fmtRow, intRange]
  · simp [codeReal, fmtRow, FmtRow.real]
  · unfold finiteWord; decide
  · have hw : (0 : Word).toNat = 0 := rfl
    simp only [realOf, wordExp, hw]; norm_num
  · have hw : (0xC0800000 : Word).toNat = 3229614080 := rfl
    simp only [realOf, wordExp, hw]; norm_num
  · unfold finiteWord; decide
  · have hb : (0 : Bnd).toNat = 0 := rfl
    simp only [bndReal, hb]; norm_num
  · rw [h4]; norm_num

theorem wit_MemoryForm : Memory.wf s1.mem = true ∧ Memory.wf (s1.poke 5 7).mem = true ∧ ∃ t, step (issuing (threadAt 0xC0000000) .solo) = .next t := by
  refine ⟨rfl, by decide +kernel, ?_⟩
  cases h : step (issuing (threadAt 0xC0000000) .solo) with
  | next t => exact ⟨t, rfl⟩
  | fault f => cases f
  | refused r =>
    exact absurd h (by
      have : (match step (issuing (threadAt 0xC0000000) .solo) with | .next _ => true | _ => false) = true := by decide +kernel
      intro e; rw [e] at this; cases this)

/-! ## Ill-formed terms -/

theorem test_illformed_event : isWord (.sleepWake 0 0) = false ∧ wf (.sleepWake 0 0) = false := by decide
theorem test_illformed_alloc : allocOk (.cmpB64 1 .lt (.v 2) (.v 4)) = false ∧ wf (.cmpB64 1 .lt (.v 2) (.v 4)) = false := by decide
theorem test_illformed_reserved : reservedOk (.wXor { wide3 with nw := true } (.v 1) (.v 2)) = false ∧
    wf (.wXor { wide3 with nw := true } (.v 1) (.v 2)) = false := by decide
theorem test_illformed_value : valueOk (.wFaddF32 { wide3 with prec := 3 } (.v 1) (.v 2)) = false ∧
    wf (.wFaddF32 { wide3 with prec := 3 } (.v 1) (.v 2)) = false := by decide
theorem test_illformed_align : alignOk (.sIaddB64 5 (.s 2) (.s 4)) = false ∧ wf (.sIaddB64 5 (.s 2) (.s 4)) = false := by decide
theorem test_illformed_k0 : k0Ok (.cmpF32 0 .lt (.v 1) (.v 2)) = false ∧ wf (.cmpF32 0 .lt (.v 1) (.v 2)) = false := by decide

/-! ## Words that the manual's programs and examples print, one or more of every format -/

/-- The bits of a two-word instruction as the opcode table numbers them. -/
def two (w v : Nat) : Nat := w + 2 ^ 32 * v

/-- SBIN by R168: op8 0, sdst 4, src0 0x85, src1 0xC3. -/
theorem test_decode_sbin : decodeTableWord 32 0x000485C3 = some (.sIaddB32 4 (.s 5) (.int 3)) := by decide +kernel

/-- The program of *Programs and Bounded Compute*: `movk s5, 0x40` and `movhi s6, 1`. -/
theorem test_decode_simm : decodeTableWord 32 0x10050040 = some (.movk 5 0x40) ∧ decodeTableWord 32 0x10460001 = some (.movhi 6 1) := by
  decide +kernel

/-- `shl v20, %laneid, 5`. -/
theorem test_decode_vbin : decodeTableWord 32 0x2314EBC5 = some (.vShl 20 .laneid (.int 5)) := by decide +kernel

/-- `?!k2 fsub.f32.rz v12, |v3|, s20`. -/
theorem test_decode_vwide : decodeTableWord 64 (two 0x3070C050 0x03940014) =
    some (.wFsubF32 ⟨12, false, 0, ⟨2, true⟩, 0, 0, true, .rz, 0⟩ (.v 3) (.s 20)) := by decide +kernel

/-- VCMP by R172: `cmp.clt.f32 k2, v1, v6`. -/
theorem test_decode_vcmp : decodeTableWord 32 0x402A0106 = some (.cmpF32 2 .clt (.v 1) (.v 6)) := by decide +kernel

/-- `cvt.e4m3.f32.sat v3, v1` and `redux.fadd.f32 v10, v2`. -/
theorem test_decode_vx : decodeTableWord 64 (two 0x50006001 0x3004) = some (.cvt ⟨0, false⟩ 3 (.v 1) .e4m3 .f32 .rne true 0) ∧
    decodeTableWord 64 (two 0x51514002 8) = some (.redux ⟨0, false⟩ 10 (.v 2) .fadd) := by decide +kernel

/-- `ld.b32 v4, [s4:5 + v3], d1` and `st.b128.chk [s6:7 + v9], v4:7`. -/
theorem test_decode_gmem :
    decodeTableWord 64 (two 0x60020819 0x22000) = some (.ld ⟨4, 2, 3, 1, 0, .b32, .core, .plain, .iadd, false, false, false, 0⟩) ∧
    decodeTableWord 64 (two 0x60420C4F 0x42020) = some (.st ⟨4, 3, 9, 7, 0, .b128, .core, .plain, .iadd, false, true, false, 0⟩) := by
  decide +kernel

/-- `lds.b32 v4, [v2 + 64]`. -/
theorem test_decode_spad : decodeTableWord 32 0x70040410 = some (.ldsB32 4 2 16) := by decide +kernel

/-- `mat.edge 48, 2`, `mat.ldb.k64.bank0 [s4:5], 0x0018_1455, d2`, `mat.rd.row0 v8:11, 0` and `mat.rbnd.row0 v12`. -/
theorem test_decode_mat : decodeTableWord 64 (two 0x80800007 0x20030) = some (.matEdge 48 2) ∧
    decodeTableWord 64 (two 0x80C00802 0x181455) = some (.matLdb 4 .k64 false (.inline 0x181455) 2) ∧
    decodeTableWord 64 (two 0x81C40007 0) = some (.matRd 8 0 0) ∧ decodeTableWord 64 (two 0x82860007 0) = some (.matRbnd 12 0) := by
  decide +kernel

/-- `mat.mma.row0 [s12], 0x0018_5445, d3` and `mat.st.row0 [s6:7], 0x0008_1645, d3`. -/
theorem test_decode_mma : decodeTableWord 64 (two 0x81001803 0x185445) = some (.matMma 12 0 (.inline 0x185445) 3) ∧
    decodeTableWord 64 (two 0x82400C03 0x81645) = some (.matSt 6 0 (.inline 0x81645) 3) := by decide +kernel

/-- `cpy.t.in [s23], [s4:5], s16, txb=s20` and `cpy.p [s29], [s27], s26, s40, txb=s21`. -/
theorem test_decode_cpy : decodeTableWord 64 (two 0x900F1170 0x40050000) = some (.cpyTIn ⟨7, some 20⟩ 4 23 16) ∧
    decodeTableWord 64 (two 0x920F6DD0 0x6A854000) = some (.cpyP ⟨7, some 21⟩ 27 29 26 40) := by decide +kernel

/-- `col.ar.add.f32 s10, [s4:5], [s6:7], s12, d2`. -/
theorem test_decode_col : decodeTableWord 64 (two 0x98042840 0x18C00000) = some (.colAr 2 10 4 6 12 .f32 .add) := by decide +kernel

/-- `cbar.arv 0`, `cbar.wt 0` and `waitd d0|d1|d2|d3|d4|d5`. -/
theorem test_decode_syn : decodeTableWord 32 0xB1800000 = some (.cbarArv ⟨0, false⟩ 0) ∧
    decodeTableWord 32 0xB2000000 = some (.cbarWt ⟨0, false⟩ 0) ∧ decodeTableWord 32 0xB683F000 = some (.waitd 0x3F) := by decide +kernel

/-- `tail`, `rte`, and CTL by R176: `meet 0x1F`. -/
theorem test_decode_ctl_sys : decodeTableWord 32 0xC0400000 = some (.tail ⟨0, false⟩) ∧ decodeTableWord 32 0xC0C00000 = some .rte ∧
    decodeTableWord 32 0xA700001F = some (.meet 0x1F) := by decide +kernel

/-- `.clause class=cpy`, and `.clause wait=d2|d3 class=mem` before five instructions. -/
theorem test_decode_header : decodeTableWord 32 0xF59F8000 = some (.clauseHeader 5 4 0x3F false) ∧
    decodeTableWord 32 0xF6460000 = some (.clauseHeader 6 2 0xC false) := by decide +kernel

/-! ## The manual's worked values -/

/-- Under R82: 3 · 2^-20 is 0x6C80, and 2^-13 (1 + 2^-12) rounds up to 0x7201. -/
theorem test_bound_up : bndUp ⟨3, -20⟩ = 0x6C80 ∧ bndUp ⟨4097, -25⟩ = 0x7201 := by decide +kernel

/-- `warp1` with vector registers given. -/
def vregs (l : List (Nat × LV)) : State := s1w fun w => { w with vregs := l }

/-- Under R86: 1000.0 exact to E4M3. The saturating form gives 0x7E with bound 0x8814, the plain one 0x7F with bound 0xFF00. -/
theorem test_cvt_e4m3 :
    (after (.cvt always 3 (.v 1) .e4m3 .f32 .rne true 0) (vregs [(vkey 1 0, ⟨0x447A0000, 0⟩)])).cw.v 3 0 = ⟨0x7E, 0x8814⟩ ∧
    (after (.cvt always 3 (.v 1) .e4m3 .f32 .rne false 0) (vregs [(vkey 1 0, ⟨0x447A0000, 0⟩)])).cw.v 3 0 = ⟨0x7F, 0xFF00⟩ := by
  decide +kernel

/-- Under R86: 1.0 with bound 2^-12 by 4.0 with bound 2^-10 is 0.25 with bound 0x7201. -/
theorem test_fdiv :
    (after (.fdiv always 3 (.v 1) (.v 2) .rne) (vregs [(vkey 1 0, ⟨0x3F800000, 0x7300⟩), (vkey 2 0, ⟨0x40800000, 0x7500⟩)])).cw.v 3 0 =
      ⟨0x3E800000, 0x7201⟩ := by decide +kernel

/-- Under R91: two lanes of `ffma.f32` and the governor step. -/
def governed (budget : Word) : State :=
  s1w fun w => { w with
    issue := 3, exm := 3, budget, threads := [(0, lane0), (1, lane0)],
    vregs := [(vkey 1 0, ⟨0x3FC00000, 0x6B00⟩), (vkey 2 0, ⟨0x40400000, 0⟩), (vkey 4 0, ⟨0x3F000000, 0⟩),
      (vkey 1 1, ⟨0x3F802000, 0⟩), (vkey 2 1, ⟨0x40000000, 0⟩)] }

/-- The example under R91: the level is chosen once for both lanes. -/
theorem test_governor :
    (let s := after (.ffmaF32 { wide3 with cap := 0 } (.v 1) (.v 2) (.v 4)) (governed 10)
     s.cw.v 3 0 = ⟨0x40A00000, 0x6C80⟩ ∧ s.cw.v 3 1 = ⟨0x40002000, 0⟩) ∧
    (let s := after (.ffmaF32 { wide3 with cap := 0 } (.v 1) (.v 2) (.v 4)) (governed 4)
     s.cw.v 3 0 = ⟨0x40A00000, 0x6C80⟩ ∧ s.cw.v 3 1 = ⟨0x40000000, 0x7600⟩) := by decide +kernel

/-- The example under R218: the sum in tree order is 0x3F80_0001 with bound 0x6700, and lane 4 takes no part. -/
theorem test_redux :
    let s := after (.redux always 10 (.v 2) .fadd) (s1w fun w => { w with
      issue := 0xFFFFFFFF, exm := 0xF, threads := (List.range 32).map fun l => (l, lane0),
      vregs := [(vkey 2 0, ⟨0x3F800000, 0⟩), (vkey 2 1, ⟨0x33800000, 0⟩), (vkey 2 2, ⟨0x33800000, 0⟩), (vkey 2 3, ⟨0x33800000, 0⟩),
        (vkey 2 4, ⟨0x40A00000, 0⟩)] })
    s.cw.v 10 0 = ⟨0x3F800001, 0x6700⟩ ∧ s.cw.v 10 3 = ⟨0x3F800001, 0x6700⟩ ∧ s.cw.v 10 4 = ⟨0, 0⟩ := by decide +kernel

/-- The example under R217: `shfl.down.w8` with lane 3 not effective. -/
theorem test_shfl :
    let s := after (.shflDown always 5 (.v 4) (.int 1) .w8 false) (s1w fun w => { w with
      issue := 0xFFFFFFFF, exm := 0xFFFFFFF7, threads := (List.range 32).map fun l => (l, lane0),
      vregs := (List.range 32).map (fun l => (vkey 4 l, ⟨BitVec.ofNat 32 l, 0⟩)) ++ [(vkey 5 3, ⟨99, 0⟩)] })
    (s.cw.v 5 6).val = 7 ∧ (s.cw.v 5 2).val = 0 ∧ (s.cw.v 5 7).val = 0 ∧ (s.cw.v 5 3).val = 99 := by decide +kernel

/-- The example under R88: the two intervals meet, so a plain `lt` sets `%unc` and a certain one is false. -/
theorem test_uncertain :
    (let s := after (.cmpF32 2 .lt (.v 1) (.v 2)) s1
     s.cw.unc = 1 ∧ s.cw.k 2 = 1) ∧ (after (.cmpF32 2 .clt (.v 1) (.v 2)) s1).cw.k 2 = 0 := by decide +kernel

end Sys2Proof.Tests
end

section
/-! PROOFS. The hub's registers: what a write through the register window leaves alone, field by field, and what it stores. -/

namespace Sys2Proof.Machine

/-! ## Fields of numbers -/

/-- A field below bit `m` is one of the low `m` bits. -/
theorem bitsOf_mod_two_pow (n : Nat) {m hi lo : Nat} (hlo : lo ≤ hi) (hm : hi < m) : bitsOf (n % 2 ^ m) hi lo = bitsOf n hi lo := by
  have hsplit : 2 ^ m = 2 ^ lo * 2 ^ (m - lo) := by rw [← pow_add, Nat.add_sub_cancel' (by omega)]
  rw [bitsOf, bitsOf, hsplit, Nat.mod_mul_right_div_self, Nat.mod_mod_of_dvd _ (pow_dvd_pow 2 (by omega))]

theorem getLsbD_eq_bitsOf {w : Nat} (x : BitVec w) (i : Nat) : x.getLsbD i = decide (bitsOf x.toNat i i = 1) := by
  rw [BitVec.getLsbD, Nat.testBit_eq_decide_div_mod_eq, bitsOf, Nat.add_sub_cancel_left, pow_one]

/-! ## What platform steps leave alone -/

theorem computeKept_refl (s : State) : computeKept s s := ⟨rfl, rfl, rfl, rfl, rfl, rfl, rfl, rfl⟩

theorem computeKept_updHub (s : State) (f : Hub → Hub) : computeKept s (s.updHub f) := computeKept_refl s
theorem computeKept_updFab (s : State) (f : Fabric → Fabric) : computeKept s (s.updFab f) := computeKept_refl s
theorem computeKept_setPq (s : State) (vf stage : Nat) (q : PageQueue) : computeKept s (s.setPq vf stage q) := computeKept_refl s

/-! ## Host events and the event log (R385, R444, R445) -/

/-- All that a rising event can change: its register, the pending bits and what is sent. -/
theorem raiseEvent_eq (s : State) (vf bit : Nat) : ∃ ev pend out,
    s.raiseEvent vf bit = { s with hub := { s.hub with evst := ev, pba := pend }, outbox := out } := by
  unfold State.raiseEvent State.msix
  split
  · exact ⟨_, _, _, rfl⟩
  · dsimp only
    split
    · exact ⟨_, _, _, rfl⟩
    · split <;> exact ⟨_, _, _, rfl⟩

theorem reraise_eq (s : State) (vf bit : Nat) : ∃ ev pend out,
    s.reraise vf bit = { s with hub := { s.hub with evst := ev, pba := pend }, outbox := out } := by
  unfold State.reraise
  split
  · exact raiseEvent_eq s vf bit
  · exact ⟨_, _, _, rfl⟩

theorem hubPokes_eq (s : State) (pa : Nat) (bs : List Byte) : ∃ m, s.hubPokes pa bs = { s with mem := m } := by
  unfold State.hubPokes
  split
  · exact ⟨_, rfl⟩
  · exact ⟨_, Laws.pokes_eq bs s pa⟩

/-- A record takes the next LSEQ; it changes LPROD, LDROP and memory besides. -/
theorem logOne_eq (s : State) (keep : Bool) (type src time : Nat) (data : List Byte) : ∃ m prod drop,
    s.logOne keep type src time data =
      { s with mem := m, hub := { s.hub with lprod := prod, ldrop := drop, lseq := s.hub.lseq + 1 } } := by
  unfold State.logOne
  split
  · dsimp only
    obtain ⟨m, hm⟩ := hubPokes_eq s (bitsOf s.hub.lbase.toNat 51 12 * 4096 + 64 * (s.hub.lprod.toNat % 2 ^ (s.hub.lctl.toNat % 32)))
      (recordBytes s type src time data)
    exact ⟨m, _, _, by rw [hm]; rfl⟩
  · exact ⟨_, _, _, rfl⟩

/-- All that one record of the log can change, whether it is written or dropped. -/
theorem log_eq (s : State) (type src : Nat) (fs : List (Nat × Nat × Nat)) : ∃ m prod drop ev pend out,
    s.log type src fs = { s with mem := m, hub := { s.hub with lprod := prod, ldrop := drop, lseq := s.hub.lseq + 1, evst := ev,
                                                               pba := pend }, outbox := out } := by
  unfold State.log State.logGroup
  obtain ⟨m, prod, drop, h⟩ := logOne_eq s (s.logRoom 1) type src s.time (recData fs)
  simp only [List.length_singleton, List.foldl_cons, List.foldl_nil, h]
  split
  · obtain ⟨ev, pend, out, hr⟩ := raiseEvent_eq { s with mem := m, hub := { s.hub with lprod := prod, ldrop := drop, lseq := s.hub.lseq + 1 } } 0 4
    exact ⟨_, _, _, ev, pend, out, hr⟩
  · exact ⟨_, _, _, _, _, _, rfl⟩

theorem computeKept_reraise (s : State) (vf bit : Nat) : computeKept s (s.reraise vf bit) := by
  obtain ⟨ev, pend, out, h⟩ := reraise_eq s vf bit
  rw [h]; exact computeKept_refl s

theorem computeKept_log (s : State) (type src : Nat) (fs : List (Nat × Nat × Nat)) : computeKept s (s.log type src fs) := by
  obtain ⟨m, prod, drop, ev, pend, out, h⟩ := log_eq s type src fs
  rw [h]; exact computeKept_refl s

/-! ## What is read back -/

@[simp] theorem part_updHub_parts (s : State) (i j v : Nat) :
    (s.updHub fun h => { h with parts := Map.set h.parts 0 i (BitVec.ofNat 128 v) }).part j = if j = i then v % 2 ^ 128 else s.part j := by
  by_cases h : j = i <;> simp [State.part, State.updHub, Map.get_set, h]

@[simp] theorem func_updHub_funcs (s : State) (i j v : Nat) :
    (s.updHub fun h => { h with funcs := Map.set h.funcs 0 i (BitVec.ofNat 256 v) }).func j = if j = i then v % 2 ^ 256 else s.func j := by
  by_cases h : j = i <;> simp [State.func, State.updHub, Map.get_set, h]

@[simp] theorem pq_setPq_same (s : State) (vf stage : Nat) (q : PageQueue) : (s.setPq vf stage q).pq vf stage = q := by
  simp [State.pq, State.setPq]

/-! ## Partition and function entries (R374, R375) -/

theorem exec_partitionEntryWrite (i : Nat) (val : BitVec 128) (s : State) :
    exec (.partitionEntryWrite i val) s = execPartitionEntryWrite i val s := rfl

theorem exec_functionEntryWrite (f : Nat) (val : BitVec 256) (s : State) :
    exec (.functionEntryWrite f val) s = execFunctionEntryWrite f val s := rfl

theorem partMask_lt (v : Nat) : partMask v < 2 ^ 116 := by unfold partMask bitsOf; omega
theorem partMask_mod (v : Nat) : partMask v % 256 = v % 256 := by unfold partMask bitsOf; omega
theorem bitsOf_partMask (v : Nat) : bitsOf (partMask v) 115 31 = bitsOf v 115 31 := by unfold partMask bitsOf; omega
theorem bitsOf_partMask_reserved (v : Nat) : bitsOf (partMask v) 30 8 = 0 := by unfold partMask bitsOf; omega

theorem testBit_partMask (v : Nat) : (partMask v).testBit 31 = v.testBit 31 := by
  simp only [Nat.testBit_eq_decide_div_mod_eq]
  congr 2
  unfold partMask bitsOf; omega

theorem funcMask_lt (v : Nat) : funcMask v < 2 ^ 180 := by unfold funcMask bitsOf; omega

theorem bitsOf_funcMask (v : Nat) : bitsOf (funcMask v) 63 27 = bitsOf v 63 27 ∧ bitsOf (funcMask v) 115 64 = bitsOf v 115 64 ∧
    bitsOf (funcMask v) 179 128 = bitsOf v 179 128 := by
  unfold funcMask bitsOf; refine ⟨?_, ?_, ?_⟩ <;> omega

/-- The limits of R374 on DMASK are on dies that are not available, and on dies of another valid entry. -/
theorem partBad_iff (s : State) (i v : Nat) : s.partBad i v = true ↔
    (v % 256 &&& s.dies) ≠ v % 256 ∨
      (v.testBit 31 = true ∧ ∃ j, j < 8 ∧ (j ≠ i ∧ (s.part j).testBit 31 = true ∧ (s.part j % 256 &&& v % 256) ≠ 0)) := by
  simp [State.partBad, and_assoc]

theorem partBad_partMask (s : State) (i v : Nat) : s.partBad i (partMask v) = s.partBad i v := by
  simp only [State.partBad, partMask_mod, testBit_partMask]

/-- A partition is in use while a function of it has an enabled queue (R374). -/
def State.partUsed (s : State) (i : Nat) : Bool := (List.range 64).any fun f => s.partOf f = i && s.queueEnabled f

theorem partUsed_iff (s : State) (i : Nat) : s.partUsed i = true ↔ ∃ f, f < 64 ∧ s.partOf f = i ∧ s.queueEnabled f = true := by
  simp [State.partUsed]

/-- What a write of a partition entry does: nothing while it is in use, a record where it breaks the limits, else the value is stored. -/
theorem execPartitionEntryWrite_eq {i : Nat} (hi : i < 8) (val : BitVec 128) (s : State) :
    execPartitionEntryWrite i val s = .next (
      if s.partUsed i then s
      else if s.partBad i val.toNat then s.log 0x0701 srcHub [(24, 1, i), (32, 16, val.toNat)]
      else s.updHub fun h => { h with parts := Map.set h.parts 0 i (BitVec.ofNat 128 (partMask val.toNat)) }) := by
  unfold execPartitionEntryWrite
  rw [if_neg (Nat.not_le.2 hi), partBad_partMask]; rfl

/-- A bad mask of dies changes no entry and is logged. -/
theorem partitionLog_effect (s : State) (i v : Nat) :
    let t := s.log 0x0701 srcHub [(24, 1, i), (32, 16, v)]
    t.hub.parts = s.hub.parts ∧ s.logged t ∧ computeKept s t := by
  obtain ⟨m, prod, drop, ev, pend, out, h⟩ := log_eq s 0x0701 srcHub [(24, 1, i), (32, 16, v)]
  exact ⟨by rw [h], by rw [State.logged, h], computeKept_log s _ _ _⟩

/-- A partition entry holds the writable fields of the value, and the other entries are as before. -/
theorem partitionStore_effect (s : State) (i v : Nat) :
    let t := s.updHub fun h => { h with parts := Map.set h.parts 0 i (BitVec.ofNat 128 (partMask v)) }
    t.part i % 256 = v % 256 ∧ bitsOf (t.part i) 115 31 = bitsOf v 115 31 ∧ bitsOf (t.part i) 30 8 = 0 ∧ t.part i < 2 ^ 116 ∧
      ∀ j, j ≠ i → t.part j = s.part j := by
  have hlt := partMask_lt v
  have hmod : partMask v % 2 ^ 128 = partMask v := Nat.mod_eq_of_lt (by omega)
  simp only [part_updHub_parts, if_true, hmod]
  exact ⟨partMask_mod v, bitsOf_partMask v, bitsOf_partMask_reserved v, hlt, fun j hj => if_neg hj⟩

theorem execFunctionEntryWrite_eq {f : Nat} (hf : f < 64) (val : BitVec 256) (s : State) :
    execFunctionEntryWrite f val s = .next (
      if s.queueEnabled f then s
      else s.updHub fun h => { h with funcs := Map.set h.funcs 0 f (BitVec.ofNat 256 (funcMask val.toNat)) }) := by
  simp [execFunctionEntryWrite, Nat.not_le.2 hf]

theorem functionStore_effect (s : State) (f v : Nat) :
    let t := s.updHub fun h => { h with funcs := Map.set h.funcs 0 f (BitVec.ofNat 256 (funcMask v)) }
    bitsOf (t.func f) 63 27 = bitsOf v 63 27 ∧ bitsOf (t.func f) 115 64 = bitsOf v 115 64 ∧
      bitsOf (t.func f) 179 128 = bitsOf v 179 128 ∧ ∀ j, j ≠ f → t.func j = s.func j := by
  have hlt := funcMask_lt v
  have hmod : funcMask v % 2 ^ 256 = funcMask v := Nat.mod_eq_of_lt (by omega)
  obtain ⟨hlow, hmid, hhigh⟩ := bitsOf_funcMask v
  simp only [func_updHub_funcs, if_true, hmod]
  exact ⟨hlow, hmid, hhigh, fun j hj => if_neg hj⟩

/-! ## Communicator entries (R357) -/

theorem exec_communicatorEntryWrite (i : Nat) (val : BitVec 256) (s : State) :
    exec (.communicatorEntryWrite i val) s = execCommunicatorEntryWrite i val s := rfl

/-- The writable bits of a communicator entry, below CIDX. -/
def commFields (v : Nat) : Nat := v % 2 ^ 116 - bitsOf v 61 54 * 2 ^ 54 - bitsOf v 15 13 * 2 ^ 13

/-- The entry that a write leaves: the fields of the value, and CIDX 0 with VALID, the old CIDX without. -/
def commWritten (old val : BitVec 256) : BitVec 256 :=
  BitVec.ofNat 256 (commFields val.toNat + (if val.getLsbD 63 then 0 else commCidx old) * 2 ^ 116)

theorem commFields_lt (v : Nat) : commFields v < 2 ^ 116 := by unfold commFields; omega
theorem commCidx_lt (e : BitVec 256) : commCidx e < 2 ^ 32 := by unfold commCidx bitsOf; omega

/-- The fields that a write takes over, and those that it clears, do not overlap. -/
theorem commFields_split (v : Nat) : commFields v = bitsOf v 115 63 * 2 ^ 63 + bitsOf v 62 62 * 2 ^ 62 + bitsOf v 53 16 * 2 ^ 16 + bitsOf v 12 0 := by
  unfold commFields bitsOf; omega

/-- A written entry is CIDX above the fields of the value. -/
theorem commWritten_parts (old val : BitVec 256) :
    (commWritten old val).toNat / 2 ^ 116 = (if val.getLsbD 63 then 0 else commCidx old) ∧
      (commWritten old val).toNat % 2 ^ 116 = commFields val.toNat := by
  have hold := commCidx_lt old
  have hfields := commFields_lt val.toNat
  have hcidx : (if val.getLsbD 63 then 0 else commCidx old) < 2 ^ 32 := by split <;> omega
  rw [commWritten, BitVec.toNat_ofNat]
  generalize (if val.getLsbD 63 then 0 else commCidx old) = c at hcidx ⊢
  rw [Nat.mod_eq_of_lt (by omega)]
  constructor <;> omega

/-- The fields that a write takes over (R357): VALID, ID, RANK, VF and SIZE. -/
theorem bitsOf_commFields (v : Nat) : bitsOf (commFields v) 63 63 = bitsOf v 63 63 ∧ bitsOf (commFields v) 47 32 = bitsOf v 47 32 ∧
    bitsOf (commFields v) 31 16 = bitsOf v 31 16 ∧ bitsOf (commFields v) 53 48 = bitsOf v 53 48 ∧
    bitsOf (commFields v) 12 0 = bitsOf v 12 0 := by
  have hsplit := commFields_split v
  unfold bitsOf at hsplit ⊢
  have htop : commFields v / 2 ^ 63 = v / 2 ^ 63 % 2 ^ 53 := by omega
  refine ⟨?_, ?_, ?_, ?_, ?_⟩
  · rw [htop, Nat.mod_mod_of_dvd _ (by decide)]
  all_goals omega

/-- The fields of a written entry (R357). -/
theorem commWritten_fields (old val : BitVec 256) :
    let e := commWritten old val
    commValid e = val.getLsbD 63 ∧ commId e = bitsOf val.toNat 47 32 ∧ commRank e = bitsOf val.toNat 31 16 ∧
      commVf e = bitsOf val.toNat 53 48 ∧ commSize e = bitsOf val.toNat 12 0 ∧
      commCidx e = if val.getLsbD 63 then 0 else commCidx old := by
  obtain ⟨hhigh, hlow⟩ := commWritten_parts old val
  obtain ⟨hvalid, hid, hrank, hvf, hsize⟩ := bitsOf_commFields val.toNat
  have hold := commCidx_lt old
  have hfield : ∀ hi lo, lo ≤ hi → hi < 116 →
      bitsOf (commWritten old val).toNat hi lo = bitsOf (commFields val.toNat) hi lo := fun hi lo h h' => by
    rw [← hlow, bitsOf_mod_two_pow _ h h']
  refine ⟨?_, ?_, ?_, ?_, ?_, ?_⟩
  · rw [commValid, getLsbD_eq_bitsOf, getLsbD_eq_bitsOf, hfield 63 63 (by decide) (by decide), hvalid]
  · rw [commId, hfield 47 32 (by decide) (by decide), hid]
  · rw [commRank, hfield 31 16 (by decide) (by decide), hrank]
  · rw [commVf, hfield 53 48 (by decide) (by decide), hvf]
  · rw [commSize, hfield 12 0 (by decide) (by decide), hsize]
  · rw [commCidx, bitsOf, hhigh, Nat.mod_eq_of_lt (by split <;> omega)]

/-- The write of an entry at a chip: the entry, and what this chip has reported of the old and of the new ID. -/
def Fabric.writeComm (f : Fabric) (i : Nat) (old new : BitVec 256) : Fabric :=
  { f with comms := Map.set f.comms 0 i new, reports := f.reports.filter fun r => r.id != commId old && r.id != commId new }

/-- At a chip that is no sequencer a write of a communicator entry stores the entry alone. -/
theorem execCommunicatorEntryWrite_member {i : Nat} (hi : i < 1024) (val : BitVec 256) {s : State} (hp : s.seqP ≠ s.chip)
    (hs : s.seqS ≠ s.chip) :
    execCommunicatorEntryWrite i val s = .next (s.updFab fun f => f.writeComm i (s.comm i) (commWritten (s.comm i) val)) := by
  have hno : ¬(decide (s.seqP = s.chip) || decide (s.seqS = s.chip)) = true := by simp [hp, hs]
  unfold execCommunicatorEntryWrite
  rw [if_neg (Nat.not_le.2 hi)]
  exact congrArg Host.Outcome.next (if_neg hno)

theorem comm_writeComm (s : State) (i j : Nat) (old new : BitVec 256) :
    (s.updFab fun f => f.writeComm i old new).comm j = if j = i then new else s.comm j :=
  Map.get_set _ _ _ _ _

/-! ## Ring controls (R420, R444) -/

theorem exec_pctlWrite (vf stage : Nat) (val : Word) (s : State) :
    exec (.pctlWrite vf stage val) s = execPctlWrite vf stage val s := rfl

theorem exec_lctlWrite (val : Word) (s : State) : exec (.lctlWrite val) s = execLctlWrite val s := rfl

/-- LOG2 of a ring control after a write: kept while EN is set. -/
def ringLog (old val : Word) : Nat := if old.getLsbD 15 then old.toNat % 32 else val.toNat % 32

theorem ringLog_lt (old val : Word) : ringLog old val < 32 := by unfold ringLog; split <;> omega

theorem ringCtl_toNat (old val : Word) : (ringCtl old val).toNat = ringLog old val + if val.getLsbD 15 then 2 ^ 15 else 0 := by
  have hlog := ringLog_lt old val
  have hlow : ∀ n, bitsOf n 4 0 = n % 32 := fun n => by simp [bitsOf]
  have hen : b2n (val.toNat.testBit 15) * 2 ^ 15 = if val.getLsbD 15 then 2 ^ 15 else 0 := by
    rw [BitVec.testBit_toNat]; cases val.getLsbD 15 <;> rfl
  have hval : ringCtl old val = BitVec.ofNat 32 (ringLog old val + if val.getLsbD 15 then 2 ^ 15 else 0) := by
    simp only [ringCtl, ringLog, hlow, hen]
  rw [hval, BitVec.toNat_ofNat, Nat.mod_eq_of_lt (by split <;> omega)]

/-- A ring control is refused when EN would be set with LOG2 outside its limits. -/
theorem badLog_ringCtl (old val : Word) (lo hi : Nat) :
    badLog (ringCtl old val) lo hi = true ↔ val.getLsbD 15 = true ∧ (ringLog old val < lo ∨ hi < ringLog old val) := by
  have hlog := ringLog_lt old val
  have hen : (ringCtl old val).getLsbD 15 = val.getLsbD 15 := by
    rw [BitVec.getLsbD, ringCtl_toNat, Nat.testBit_eq_decide_div_mod_eq]
    cases val.getLsbD 15 <;> simp <;> omega
  have hmod : (ringCtl old val).toNat % 32 = ringLog old val := by rw [ringCtl_toNat]; split <;> omega
  simp only [badLog, hen, hmod, Bool.and_eq_true, Bool.or_eq_true, decide_eq_true_eq]

/-- Otherwise it is stored. -/
theorem not_badLog_ringCtl (old val : Word) (lo hi : Nat) : ¬badLog (ringCtl old val) lo hi = true ↔
    val.getLsbD 15 = false ∨ (lo ≤ ringLog old val ∧ ringLog old val ≤ hi) := by
  rw [badLog_ringCtl, not_and_or, Bool.not_eq_true, not_or, Nat.not_lt, Nat.not_lt]

theorem execPctlWrite_eq {vf stage : Nat} (hv : vf < 64) (hst : stage = 1 ∨ stage = 2) (val : Word) (s : State) :
    execPctlWrite vf stage val s = .next (
      if badLog (ringCtl (s.pq vf stage).ctl val) 4 16 then s
      else s.setPq vf stage { s.pq vf stage with ctl := ringCtl (s.pq vf stage).ctl val }) := by
  have hreach : pqReach vf stage = true := by unfold pqReach; simpa [hv] using hst
  simp [execPctlWrite, hreach]

/-! ## Registers without a row of their own (R4, R377) -/

theorem exec_registerWrite (vf off bytes : Nat) (val : DWord) (s : State) :
    exec (.registerWrite vf off bytes val) s = .next (s.regWrite vf off bytes val.toNat) := rfl

/-- A write of a whole register replaces its value. -/
theorem regMerge_whole {bytes old : Nat} (base val : Nat) (hn : 0 < bytes) (ho : old < 2 ^ (8 * bytes)) :
    regMerge base bytes base bytes old val = some (val % 2 ^ (8 * bytes)) := by
  simp [regMerge, mergeBytes, hn, Nat.mod_one, Nat.div_eq_of_lt ho]

/-- A write outside a register does not reach it. -/
theorem regMerge_outside {base width off bytes : Nat} (old val : Nat) (h : off < base ∨ base + width < off + bytes) :
    regMerge base width off bytes old val = none := by
  rw [regMerge, if_neg]; simp; omega

/-- A virtual function's window reaches none of the fabric's registers (R377). -/
theorem regWrite_fabric_virtual {vf off bytes : Nat} (hv : vf ≠ 0) (ho : 0x68000 ≤ off ∧ off < 0x72000) (v : Nat) (s : State) :
    s.regWrite vf off bytes v = s := by
  obtain ⟨hlo, hhi⟩ := ho
  unfold State.regWrite
  simp [hv, hlo, hhi, show ¬off < 0x44000 by omega, show ¬off < 0x50200 by omega]

theorem regWrite_fabric {off bytes : Nat} (hb : bytes ≤ 8) (ho : 0x68000 ≤ off ∧ off < 0x72000) (v : Nat) (s : State) :
    s.regWrite 0 off bytes v = s.writeFabric off bytes v := by
  obtain ⟨hlo, hhi⟩ := ho
  unfold State.regWrite
  simp [hlo, hhi, show ¬8 < bytes by omega, show ¬off < 0x44000 by omega, show ¬off < 0x50200 by omega]

theorem regWrite_log {off bytes : Nat} (hb : bytes ≤ 8) (ho : 0xC0000 ≤ off ∧ off < 0xC1000) (v : Nat) (s : State) :
    s.regWrite 0 off bytes v = s.writeLog off bytes v := by
  obtain ⟨hlo, hhi⟩ := ho
  unfold State.regWrite
  simp [hlo, hhi, show ¬8 < bytes by omega, show ¬off < 0x44000 by omega, show ¬off < 0x50200 by omega, show ¬off < 0x72000 by omega,
    show ¬off < 0xB1000 by omega, show ¬off < 0xB2000 by omega]

theorem regWrite_pq {vf off bytes : Nat} (hv : vf < 64) (hb : bytes ≤ 8) (ho : 0xB0000 ≤ off ∧ off < 0xB1000) (v : Nat) (s : State) :
    s.regWrite vf off bytes v = s.writePq vf 1 0xB0000 off bytes v := by
  obtain ⟨hlo, hhi⟩ := ho
  unfold State.regWrite
  simp [hlo, hhi, show ¬64 ≤ vf by omega, show ¬8 < bytes by omega, show ¬off < 0x44000 by omega, show ¬off < 0x50200 by omega,
    show ¬off < 0x72000 by omega]

/-- FSEQ keeps the chip ID of the primary alone (R348). -/
theorem writeFabric_fseq (s : State) (v : Nat) :
    s.writeFabric 0x70004 4 v = s.updFab fun f => { f with fseq := BitVec.ofNat 32 (v % 4096) } := by
  have hfid := regMerge_outside (base := 0x70000) (width := 4) (off := 0x70004) (bytes := 4) s.fab.fid.toNat v (by decide)
  have hseq := regMerge_whole (bytes := 4) 0x70004 v (by decide) s.fab.fseq.isLt
  have hbits : bitsOf (v % 2 ^ (8 * 4)) 11 0 = v % 4096 := by unfold bitsOf; omega
  unfold State.writeFabric
  simp only [hfid, hseq, hbits]; rfl

/-- LBASE is written while the log is disabled alone (R444). -/
theorem writeLog_lbase (s : State) (v : Nat) :
    s.writeLog 0xC0000 8 v = if s.hub.lctl.getLsbD 15 then s else s.updHub fun h => { h with lbase := baseField (v % 2 ^ 64) } := by
  have hbase := regMerge_whole (bytes := 8) 0xC0000 v (by decide) s.hub.lbase.isLt
  unfold State.writeLog
  rw [hbase]

/-- LPROD is read-only (R444). -/
theorem writeLog_lprod (s : State) (v : Nat) : s.writeLog 0xC0010 4 v = s := by
  have hmiss : ∀ {base width} old, 0xC0010 < base ∨ base + width < 0xC0014 → regMerge base width 0xC0010 4 old v = none :=
    fun old h => regMerge_outside old v h
  unfold State.writeLog
  rw [hmiss _ (by decide), hmiss _ (by decide), hmiss _ (by decide), hmiss _ (by decide)]

theorem writeLog_lcons (s : State) (v : Nat) :
    s.writeLog 0xC0014 4 v = (s.updHub fun h => { h with lcons := BitVec.ofNat 32 (v % 2 ^ 32) }).reraise 0 4 := by
  have hbase := regMerge_outside (base := 0xC0000) (width := 8) (off := 0xC0014) (bytes := 4) s.hub.lbase.toNat v (by decide)
  have hcons := regMerge_whole (bytes := 4) 0xC0014 v (by decide) s.hub.lcons.isLt
  unfold State.writeLog
  rw [hbase, hcons]

theorem writeLog_ldrop (s : State) (v : Nat) :
    s.writeLog 0xC0018 4 v = s.updHub fun h => { h with ldrop := h.ldrop &&& ~~~(BitVec.ofNat 32 (v % 2 ^ 32)) } := by
  have hbase := regMerge_outside (base := 0xC0000) (width := 8) (off := 0xC0018) (bytes := 4) s.hub.lbase.toNat v (by decide)
  have hcons := regMerge_outside (base := 0xC0014) (width := 4) (off := 0xC0018) (bytes := 4) s.hub.lcons.toNat v (by decide)
  have hdrop := regMerge_whole (bytes := 4) (old := 0) 0xC0018 v (by decide) (by decide)
  unfold State.writeLog
  rw [hbase, hcons, hdrop]

theorem writePq_pcons (s : State) (vf v : Nat) :
    s.writePq vf 1 0xB0000 0xB0014 4 v =
      (s.setPq vf 1 { s.pq vf 1 with cons := BitVec.ofNat 16 (v % 2 ^ 32) }).reraise vf 2 := by
  have hcons16 := (s.pq vf 1).cons.isLt
  have hbase := regMerge_outside (base := 0xB0000) (width := 8) (off := 0xB0014) (bytes := 4) (s.pq vf 1).base.toNat v (by decide)
  have hcons := regMerge_whole (bytes := 4) (old := (s.pq vf 1).cons.toNat) 0xB0014 v (by decide) (by omega)
  unfold State.writePq
  simp only [hbase, hcons, Nat.reduceAdd, if_true]

/-! ## The registers of the window, each under its access code -/

theorem registerWrite_fseq (s : State) (val : DWord) : ∃ t, exec (.registerWrite 0 0x70004 4 val) s = .next t ∧ computeKept s t ∧
    t.hub = s.hub ∧ t.fab.fseq = BitVec.ofNat 32 (val.toNat % 4096) := by
  rw [exec_registerWrite, regWrite_fabric (by decide) (by decide), writeFabric_fseq]
  exact ⟨_, rfl, computeKept_updFab s _, rfl, rfl⟩

theorem registerWrite_lcons (s : State) (val : DWord) : ∃ t, exec (.registerWrite 0 0xC0014 4 val) s = .next t ∧ computeKept s t ∧
    t.hub.lcons = val.setWidth 32 ∧ t.hub.lprod = s.hub.lprod := by
  rw [exec_registerWrite, regWrite_log (by decide) (by decide), writeLog_lcons]
  obtain ⟨ev, pend, out, h⟩ := reraise_eq (s.updHub fun h => { h with lcons := BitVec.ofNat 32 (val.toNat % 2 ^ 32) }) 0 4
  refine ⟨_, rfl, computeKept_reraise _ _ _, ?_, by rw [h]; rfl⟩
  rw [h]; exact BitVec.eq_of_toNat_eq (by simp [State.updHub])

theorem registerWrite_ldrop (s : State) (val : DWord) : ∃ t, exec (.registerWrite 0 0xC0018 4 val) s = .next t ∧ computeKept s t ∧
    t.hub.ldrop = s.hub.ldrop &&& ~~~(val.setWidth 32) := by
  have hval : BitVec.ofNat 32 (val.toNat % 2 ^ 32) = val.setWidth 32 := BitVec.eq_of_toNat_eq (by simp)
  rw [exec_registerWrite, regWrite_log (by decide) (by decide), writeLog_ldrop, hval]
  exact ⟨_, rfl, computeKept_updHub s _, rfl⟩

theorem registerWrite_lprod (s : State) (val : DWord) : exec (.registerWrite 0 0xC0010 4 val) s = .next s := by
  rw [exec_registerWrite, regWrite_log (by decide) (by decide), writeLog_lprod]

theorem registerWrite_pcons {vf : Nat} (hv : vf < 64) (s : State) (val : DWord) : ∃ t,
    exec (.registerWrite vf 0xB0014 4 val) s = .next t ∧ computeKept s t ∧ (t.pq vf 1).cons = val.setWidth 16 ∧
      (t.pq vf 1).prod = (s.pq vf 1).prod := by
  rw [exec_registerWrite, regWrite_pq hv (by decide) (by decide), writePq_pcons]
  obtain ⟨ev, pend, out, h⟩ := reraise_eq (s.setPq vf 1 { s.pq vf 1 with cons := BitVec.ofNat 16 (val.toNat % 2 ^ 32) }) vf 2
  have hq : ((s.setPq vf 1 { s.pq vf 1 with cons := BitVec.ofNat 16 (val.toNat % 2 ^ 32) }).reraise vf 2).pq vf 1 =
      { s.pq vf 1 with cons := BitVec.ofNat 16 (val.toNat % 2 ^ 32) } := by
    rw [h]; exact pq_setPq_same s vf 1 _
  refine ⟨_, rfl, computeKept_reraise _ _ _, ?_, by rw [hq]⟩
  rw [hq]; exact BitVec.eq_of_toNat_eq (by simp)

theorem registerWrite_lbase (s : State) (val : DWord) : exec (.registerWrite 0 0xC0000 8 val) s =
    .next (if s.hub.lctl.getLsbD 15 then s else s.updHub fun h => { h with lbase := baseField val.toNat }) := by
  rw [exec_registerWrite, regWrite_log (by decide) (by decide), writeLog_lbase, Nat.mod_eq_of_lt val.isLt]

/-- Settles O49: it holds. Each write is rewritten by the equation of its row, and what it stores is read back field by field. -/
theorem hubRegisters : Obligations.HubRegisters := by
  unfold Obligations.HubRegisters
  refine ⟨?partition, ?function, ?communicator, ?pctl, ?lctl, ?window⟩
  case partition =>
    intro s i val hi
    simp only [exec_partitionEntryWrite, execPartitionEntryWrite_eq hi, ← partUsed_iff, ← partBad_iff]
    refine ⟨fun hu => by rw [if_pos hu], fun hu hb => ⟨_, rfl, ?_⟩, fun hu hb => ⟨_, rfl, ?_⟩⟩
    · rw [if_neg hu, if_pos hb]
      exact partitionLog_effect s i val.toNat
    · rw [if_neg hu, if_neg hb]
      exact ⟨computeKept_updHub s _, partitionStore_effect s i val.toNat⟩
  case function =>
    intro s f val hf
    simp only [exec_functionEntryWrite, execFunctionEntryWrite_eq hf]
    refine ⟨fun hq => by rw [if_pos hq], fun hq => ⟨_, rfl, ?_⟩⟩
    rw [if_neg (ne_true_of_eq_false hq)]
    exact ⟨computeKept_updHub s _, functionStore_effect s f val.toNat⟩
  case communicator =>
    intro s i val hi hp hs
    rw [exec_communicatorEntryWrite, execCommunicatorEntryWrite_member hi val hp hs]
    refine ⟨_, rfl, computeKept_updFab s _, rfl, ?_⟩
    simp only [comm_writeComm, if_true]
    obtain ⟨hvalid, hid, hrank, hvf, hsize, hcidx⟩ := commWritten_fields (s.comm i) val
    exact ⟨hvalid, hid, hrank, hvf, hsize, hcidx, fun j hj => if_neg hj⟩
  case pctl =>
    intro s vf stage val hv hst
    simp only [exec_pctlWrite, execPctlWrite_eq hv hst]
    refine ⟨fun hen hlog => ?_, fun hok => ⟨_, ringCtl (s.pq vf stage).ctl val, rfl, ?_⟩⟩
    · rw [if_pos ((badLog_ringCtl _ _ _ _).2 ⟨hen, hlog⟩)]
    · rw [if_neg ((not_badLog_ringCtl _ _ _ _).2 hok)]
      exact ⟨computeKept_setPq s _ _ _, pq_setPq_same s _ _ _, ringCtl_toNat _ _⟩
  case lctl =>
    intro s val
    rw [exec_lctlWrite, execLctlWrite]
    refine ⟨fun hen hlog => ?_, fun hok => ⟨_, rfl, ?_⟩⟩
    · rw [if_pos ((badLog_ringCtl _ _ _ _).2 ⟨hen, hlog⟩)]
    · rw [if_neg ((not_badLog_ringCtl _ _ _ _).2 hok)]
      exact ⟨computeKept_updHub s _, ringCtl_toNat _ _⟩
  case window =>
    intro s vf val hv
    refine ⟨registerWrite_fseq s val, fun h => ?_, registerWrite_lcons s val, registerWrite_ldrop s val, registerWrite_lprod s val,
      registerWrite_pcons hv s val, fun hen => ?_, fun hen => ?_⟩
    · rw [exec_registerWrite, regWrite_fabric_virtual h (by decide)]
    · rw [registerWrite_lbase, if_pos hen]
    · rw [registerWrite_lbase, if_neg (ne_true_of_eq_false hen)]
      exact ⟨_, rfl, computeKept_updHub s _, rfl⟩

end Sys2Proof.Machine
end

section
/-! PROOFS. Clock and energy: a step of the clock, what a sample adds to each counter and leaves over, and what a reading holds. -/

namespace Sys2Proof.Machine

/-! ## What power, events and the log leave alone -/

theorem computeKept.trans {s t u : State} (h : computeKept s t) (g : computeKept t u) : computeKept s u := by
  obtain ⟨hw, hl, hq, ho, he, hs, hh, ht⟩ := h
  obtain ⟨gw, gl, gq, go, ge, gs, gh, gt⟩ := g
  exact ⟨gw.trans hw, gl.trans hl, gq.trans hq, go.trans ho, ge.trans he, gs.trans hs, gh.trans hh, gt.trans ht⟩

theorem computeKept_updPower (s : State) (f : Power → Power) : computeKept s (s.updPower f) := computeKept_refl s

theorem computeKept_raiseEvent (s : State) (vf bit : Nat) : computeKept s (s.raiseEvent vf bit) := by
  obtain ⟨ev, pend, out, h⟩ := raiseEvent_eq s vf bit
  rw [h]; exact computeKept_refl s

@[simp] theorem power_raiseEvent (s : State) (vf bit : Nat) : (s.raiseEvent vf bit).power = s.power := by
  obtain ⟨ev, pend, out, h⟩ := raiseEvent_eq s vf bit
  rw [h]

@[simp] theorem peek_raiseEvent (s : State) (vf bit a : Nat) : (s.raiseEvent vf bit).peek a = s.peek a := by
  obtain ⟨ev, pend, out, h⟩ := raiseEvent_eq s vf bit
  rw [h]; rfl

@[simp] theorem hub_energy_raiseEvent (s : State) (vf bit : Nat) : (s.raiseEvent vf bit).hub.energy = s.hub.energy := by
  obtain ⟨ev, pend, out, h⟩ := raiseEvent_eq s vf bit
  rw [h]

@[simp] theorem hub_busy_raiseEvent (s : State) (vf bit : Nat) : (s.raiseEvent vf bit).hub.busy = s.hub.busy := by
  obtain ⟨ev, pend, out, h⟩ := raiseEvent_eq s vf bit
  rw [h]

@[simp] theorem power_log (s : State) (type src : Nat) (fs : List (Nat × Nat × Nat)) : (s.log type src fs).power = s.power := by
  obtain ⟨m, prod, drop, ev, pend, out, h⟩ := log_eq s type src fs
  rw [h]

theorem logged_log (s : State) (type src : Nat) (fs : List (Nat × Nat × Nat)) : s.logged (s.log type src fs) := by
  obtain ⟨m, prod, drop, ev, pend, out, h⟩ := log_eq s type src fs
  rw [State.logged, h]

@[simp] theorem evst_msix (s : State) (vf vec f : Nat) : (s.msix vf vec).evst f = s.evst f := by
  unfold State.msix
  split <;> rfl

/-- A raised event bit is set, whether or not it was before. -/
theorem evst_raiseEvent_same (s : State) (vf : Nat) {bit : Nat} (hb : bit < 32) :
    ((s.raiseEvent vf bit).evst vf).getLsbD bit = true := by
  have hset : ((s.updHub fun h => { h with evst := Map.set h.evst 0 vf (s.evst vf ||| (1#32 <<< bit)) }).evst vf).getLsbD bit = true := by
    simp [State.evst, State.updHub, hb]
  unfold State.raiseEvent
  split
  · assumption
  · dsimp only
    split
    · exact hset
    · rw [evst_msix]; exact hset

/-! ## The clock (R19 to R21) -/

theorem exec_clockStepDown (watts : Nat) (s : State) : exec (.clockStepDown watts) s = execClockStepDown watts s := rfl
theorem exec_clockStepUp (watts : Nat) (s : State) : exec (.clockStepUp watts) s = execClockStepUp watts s := rfl
theorem exec_thermalLimit (watts : Nat) (s : State) : exec (.thermalLimit watts) s = execThermalLimit watts s := rfl

@[simp] theorem mhz_measure (s : State) (watts : Nat) : (s.measure watts).power.mhz = s.power.mhz := rfl
@[simp] theorem low_measure (s : State) (watts : Nat) : (s.measure watts).power.low = s.power.low := rfl
@[simp] theorem time_measure (s : State) (watts : Nat) : (s.measure watts).time = s.time := rfl

theorem computeKept_measure (s : State) (watts : Nat) : computeKept s (s.measure watts) := computeKept_updPower s _

theorem cool_measure_of_lt {s : State} {watts t0 : Nat} (hw : watts < 2700) (hc : s.power.cool = some t0) :
    (s.measure watts).power.cool = some t0 := by
  simp [State.measure, State.updPower, hw, hc]

theorem cool_measure_of_le {s : State} {watts : Nat} (hw : 2700 ≤ watts) : (s.measure watts).power.cool = none := by
  simp [State.measure, State.updPower, Nat.not_lt.2 hw]

@[simp] theorem stepDue_measure (s : State) (watts : Nat) :
    (s.measure watts).stepDue = true ↔ s.power.lastStep + 10000 ≤ s.time := decide_eq_true_iff

/-- A measurement alone moves no clock and logs nothing. -/
theorem measure_effect (s : State) (watts : Nat) :
    (s.measure watts).power.mhz = s.power.mhz ∧ (s.measure watts).hub = s.hub ∧ computeKept s (s.measure watts) :=
  ⟨rfl, rfl, computeKept_measure s watts⟩

/-- A step of the clock after a measurement takes effect now, and is logged. -/
theorem setClock_effect (s : State) (watts mhz : Nat) :
    let t := (s.measure watts).setClock mhz watts
    t.power.mhz = mhz ∧ t.power.lastStep = s.time ∧ s.logged t ∧ computeKept s t := by
  simp only [State.setClock, power_log]
  exact ⟨rfl, rfl, logged_log ((s.measure watts).updPower _) _ _ _,
    (computeKept_measure s watts).trans ((computeKept_updPower _ _).trans (computeKept_log _ _ _ _))⟩

theorem execClockStepDown_step {s : State} {watts : Nat} (hw : 2800 < watts) (hm : 1000 < s.power.mhz)
    (hd : s.power.lastStep + 10000 ≤ s.time) :
    execClockStepDown watts s = .next ((s.measure watts).setClock (s.power.mhz - 25) watts) := by
  simp [execClockStepDown, hw, hm, hd]

theorem execClockStepDown_stay {s : State} {watts : Nat}
    (h : watts ≤ 2800 ∨ s.power.mhz ≤ 1000 ∨ ¬s.power.lastStep + 10000 ≤ s.time) :
    execClockStepDown watts s = .next (s.measure watts) := by
  refine congrArg _ (if_neg ?_)
  simp only [Bool.and_eq_true, decide_eq_true_eq, stepDue_measure]
  rw [mhz_measure]; omega

theorem execClockStepUp_step {s : State} {watts t0 : Nat} (hc : s.power.cool = some t0) (ht : t0 + 100000 ≤ s.time)
    (hw : watts < 2700) (hm : s.power.mhz < 1750) (hd : s.power.lastStep + 10000 ≤ s.time) :
    execClockStepUp watts s = .next ((s.measure watts).setClock (s.power.mhz + 25) watts) := by
  simp [execClockStepUp, cool_measure_of_lt hw hc, ht, hm, hd]

theorem execClockStepUp_stay {s : State} {watts : Nat}
    (h : 2700 ≤ watts ∨ 1750 ≤ s.power.mhz ∨ ¬s.power.lastStep + 10000 ≤ s.time) :
    execClockStepUp watts s = .next (s.measure watts) := by
  cases hc : (s.measure watts).power.cool with
  | none => simp only [execClockStepUp, hc]
  | some t =>
    have hw : ¬2700 ≤ watts := fun hw => by rw [cool_measure_of_le hw] at hc; cases hc
    simp only [execClockStepUp, hc]
    refine congrArg _ (if_neg ?_)
    simp only [Bool.and_eq_true, decide_eq_true_eq, stepDue_measure]
    rw [mhz_measure, time_measure]; omega

theorem execThermalLimit_raise {s : State} {watts t0 : Nat} (hl : s.power.low = some t0) (ht : t0 + 1000000 ≤ s.time)
    (hw : 2800 < watts) : execThermalLimit watts s = .next ((s.measure watts).raiseEvent 0 0) := by
  simp [execThermalLimit, hl, ht, hw]

/-! ## Charges and shares (R378) -/

/-- What a list of charges, each a partition and its nJ, adds to one partition. -/
def charged (xs : List (Nat × Nat)) (p : Nat) : Nat := ((xs.filter fun x => x.1 = p).map Prod.snd).sum

/-- The charges of a list, one after the other. -/
def State.chargeAll (s : State) (xs : List (Nat × Nat)) : State := xs.foldl (fun s x => s.charge x.1 x.2) s

theorem charged_cons (x : Nat × Nat) (xs : List (Nat × Nat)) (p : Nat) :
    charged (x :: xs) p = (if p = x.1 then x.2 else 0) + charged xs p := by
  by_cases h : x.1 = p
  · simp [charged, h]
  · simp [charged, h, Ne.symm h]

/-- Charges that name each partition of a list once. -/
theorem charged_map {idx : List Nat} (hn : idx.Nodup) (f : Nat → Nat) (p : Nat) :
    charged (idx.map fun i => (i, f i)) p = if p ∈ idx then f p else 0 := by
  induction idx with
  | nil => rfl
  | cons i t ih =>
    obtain ⟨hi, ht⟩ := List.nodup_cons.1 hn
    rw [List.map_cons, charged_cons, ih ht]
    by_cases hp : p = i
    · simp [hp, hi]
    · simp [hp]

theorem nJ_charge (s : State) (i n p : Nat) :
    Map.get (s.charge i n).power.nJ 0 p = Map.get s.power.nJ 0 p + if p = i then n else 0 := by
  by_cases h : p = i
  · subst h; simp [State.charge, State.updPower]
  · simp [State.charge, State.updPower, Map.get_upd_other _ _ _ _ _ h, h]

theorem nJ_chargeAll (xs : List (Nat × Nat)) (s : State) (p : Nat) :
    Map.get (s.chargeAll xs).power.nJ 0 p = Map.get s.power.nJ 0 p + charged xs p := by
  induction xs generalizing s with
  | nil => rfl
  | cons x t ih =>
    have hstep : Map.get (s.chargeAll (x :: t)).power.nJ 0 p = Map.get (s.charge x.1 x.2).power.nJ 0 p + charged t p := ih _
    rw [hstep, nJ_charge, charged_cons, Nat.add_assoc]

@[simp] theorem rest_chargeAll (xs : List (Nat × Nat)) (s : State) : (s.chargeAll xs).power.rest = s.power.rest := by
  induction xs generalizing s with
  | nil => rfl
  | cons x t ih => exact ih _

/-- Metering changes the counters and the remainders, and nothing else. -/
def Metered (s t : State) : Prop := ∃ nJ rest, t = { s with power := { s.power with nJ := nJ, rest := rest } }

theorem Metered.refl (s : State) : Metered s s := ⟨_, _, rfl⟩

theorem Metered.trans {s t u : State} (h : Metered s t) (g : Metered t u) : Metered s u := by
  obtain ⟨_, _, rfl⟩ := h
  obtain ⟨nJ, rest, rfl⟩ := g
  exact ⟨nJ, rest, rfl⟩

theorem Metered.viral {s t : State} (h : Metered s t) (d : Nat) : t.viral d = s.viral d := by
  obtain ⟨_, _, rfl⟩ := h; rfl

theorem metered_charge (s : State) (p n : Nat) : Metered s (s.charge p n) := ⟨_, _, rfl⟩

theorem metered_foldl {α : Type} {f : State → α → State} (hf : ∀ s x, Metered s (f s x)) (xs : List α) (s : State) :
    Metered s (xs.foldl f s) := by
  induction xs generalizing s with
  | nil => exact .refl s
  | cons x t ih => exact (hf s x).trans (ih _)

theorem metered_shareOut (s : State) (term energy : Nat) (ws : List (Nat × Nat)) : Metered s (s.shareOut term energy ws) :=
  (metered_foldl (fun s (x : Nat × Nat) => metered_charge s x.1 x.2) _ s).trans ⟨_, _, rfl⟩

theorem metered_chargeCore (s : State) (c : Nat × Nat) : Metered s (s.chargeCore c) := by
  unfold State.chargeCore
  split
  · exact .refl s
  · split
    · exact metered_charge s _ _
    · exact .refl s

theorem metered_shareUnit (s : State) (u : Nat × Nat) : Metered s (s.shareUnit u) := by
  unfold State.shareUnit
  split
  · exact .refl s
  · exact metered_shareOut s _ _ _

/-- The energy to be shared for a term: what was measured, and what the last sample left over. -/
def State.termEnergy (s : State) (term energy : Nat) : Nat := energy + Map.get s.power.rest 0 term

/-- A partition's share of a term by its weight, rounded down. -/
def State.shareOf (s : State) (term energy : Nat) (idx : List Nat) (w : Nat → Nat) (p : Nat) : Nat :=
  s.termEnergy term energy * w p / (idx.map w).sum

/-- A term shared out among the partitions of a list: the charges, and what is left of the term. -/
theorem shareOut_map (s : State) (term energy : Nat) (idx : List Nat) (w : Nat → Nat) :
    s.shareOut term energy (idx.map fun i => (i, w i)) =
      (s.chargeAll (idx.map fun i => (i, s.shareOf term energy idx w i))).updPower fun p =>
        { p with rest := Map.set p.rest 0 term (s.termEnergy term energy - (idx.map (s.shareOf term energy idx w)).sum) } := by
  simp only [State.shareOut, List.map_map, Function.comp_def]
  rfl

theorem nJ_shareOut {idx : List Nat} (hn : idx.Nodup) (s : State) (term energy : Nat) (w : Nat → Nat) (p : Nat) :
    Map.get (s.shareOut term energy (idx.map fun i => (i, w i))).power.nJ 0 p =
      Map.get s.power.nJ 0 p + if p ∈ idx then s.shareOf term energy idx w p else 0 := by
  rw [shareOut_map, ← charged_map hn]
  exact nJ_chargeAll _ s p

theorem rest_shareOut (s : State) (term energy : Nat) (idx : List Nat) (w : Nat → Nat) (k : Nat) :
    Map.get (s.shareOut term energy (idx.map fun i => (i, w i))).power.rest 0 k =
      if k = term then s.termEnergy term energy - (idx.map (s.shareOf term energy idx w)).sum else Map.get s.power.rest 0 k := by
  rw [shareOut_map, ← Map.get_set, ← rest_chargeAll (idx.map fun i => (i, s.shareOf term energy idx w i)) s]
  rfl

/-! ## The three terms of a sample -/

theorem nJ_chargeCore {s : State} {c : Nat × Nat} (hv : s.viral (domainOf c.1) = false) (p : Nat) :
    Map.get (s.chargeCore c).power.nJ 0 p = Map.get s.power.nJ 0 p + if s.ownerAt c.1 = some p then c.2 else 0 := by
  rw [State.chargeCore, hv, if_neg Bool.false_ne_true]
  cases s.ownerAt c.1 with
  | none => simp
  | some q => simp only [nJ_charge, Option.some_inj, eq_comm]

theorem Metered.coreEnergy {s t : State} (h : Metered s t) (cores : List (Nat × Nat)) (p : Nat) :
    t.coreEnergy cores p = s.coreEnergy cores p := by
  obtain ⟨_, _, rfl⟩ := h; rfl

theorem coreEnergy_cons (s : State) (c : Nat × Nat) (cores : List (Nat × Nat)) (p : Nat) :
    s.coreEnergy (c :: cores) p = (if s.ownerAt c.1 = some p then c.2 else 0) + s.coreEnergy cores p := by
  by_cases h : s.ownerAt c.1 = some p <;> simp [State.coreEnergy, h]

/-- With no viral domain, the cores charge each partition the energy of those that it owned. -/
theorem nJ_chargeCores (cores : List (Nat × Nat)) {s : State} (hv : ∀ d, s.viral d = false) (p : Nat) :
    Map.get (cores.foldl State.chargeCore s).power.nJ 0 p = Map.get s.power.nJ 0 p + s.coreEnergy cores p := by
  induction cores generalizing s with
  | nil => rfl
  | cons c t ih =>
    have hm := metered_chargeCore s c
    rw [List.foldl_cons, ih fun d => (hm.viral d).trans (hv d), nJ_chargeCore (hv _), hm.coreEnergy, coreEnergy_cons, Nat.add_assoc]

theorem rest_chargeCore (s : State) (c : Nat × Nat) : (s.chargeCore c).power.rest = s.power.rest := by
  unfold State.chargeCore
  split
  · rfl
  · split <;> rfl

theorem rest_chargeCores (cores : List (Nat × Nat)) (s : State) : (cores.foldl State.chargeCore s).power.rest = s.power.rest := by
  induction cores generalizing s with
  | nil => rfl
  | cons c t ih => rw [List.foldl_cons, ih, rest_chargeCore]

theorem shareUnit_eq {s : State} (hv : ∀ d, s.viral d = false) (u : Nat × Nat) :
    s.shareUnit u = s.shareOut (1 + u.1) u.2 ((List.range 8).map fun i => (i, s.bytesMoved u.1 i)) := by
  simp [State.shareUnit, hv, State.unitWeights, State.bytesMoved]

/-- The valid partitions, in ascending order. -/
def State.validParts (s : State) : List Nat := (List.range 8).filter fun i => (s.part i).testBit 31

theorem nodup_validParts (s : State) : s.validParts.Nodup := List.nodup_range.filter _

theorem mem_validParts (s : State) (p : Nat) : p ∈ s.validParts ↔ p < 8 ∧ (s.part p).testBit 31 = true := by
  simp [State.validParts]

theorem diesOf_of_mem {s : State} {p : Nat} (h : p ∈ s.validParts) : s.diesOf p = (domainsOf (s.part p % 256)).length :=
  if_pos ((mem_validParts s p).1 h)

theorem diesOf_of_not_mem {s : State} {p : Nat} (h : p ∉ s.validParts) : s.diesOf p = 0 :=
  if_neg fun hp => h ((mem_validParts s p).2 hp)

theorem dieWeights_eq (s : State) : s.dieWeights = s.validParts.map fun i => (i, s.diesOf i) :=
  List.map_congr_left fun i hi => by rw [diesOf_of_mem hi]

/-- A sum over the valid partitions is one over all, where the others count nothing. -/
theorem sum_validParts (s : State) {f : Nat → Nat} (hf : ∀ p, p ∉ s.validParts → f p = 0) :
    (s.validParts.map f).sum = ((List.range 8).map f).sum := by
  have hz : (((List.range 8).filter fun i => ¬(s.part i).testBit 31 = true).map f).sum = 0 := by
    refine List.sum_eq_zero fun x hx => ?_
    obtain ⟨i, hi, rfl⟩ := List.mem_map.1 hx
    exact hf i fun hv => by simp [((mem_validParts s i).1 hv).2] at hi
  have hsplit := List.sum_map_filter_add_sum_map_filter_not (fun i => (s.part i).testBit 31 = true) f (List.range 8)
  rw [hz, Nat.add_zero] at hsplit
  rw [← hsplit]
  simp [State.validParts]

/-- A partition's share of a shared unit's energy, by the bytes that it moved through the unit. -/
def State.unitShare (s : State) (u n p : Nat) : Nat :=
  if p < 8 then s.termEnergy (1 + u) n * s.bytesMoved u p / ((List.range 8).map (s.bytesMoved u)).sum else 0

/-- A partition's share of the idle energy, by its dies. -/
def State.idleShare (s : State) (energy p : Nat) : Nat := s.termEnergy 0 energy * s.diesOf p / s.diesAll

theorem Metered.unitShare {s t : State} (h : Metered s t) (hr : t.power.rest = s.power.rest) (u n : Nat) :
    t.unitShare u n = s.unitShare u n := by
  obtain ⟨_, rest, rfl⟩ := h
  subst hr; rfl

theorem Metered.idleShare {s t : State} (h : Metered s t) (hr : Map.get t.power.rest 0 0 = Map.get s.power.rest 0 0) (energy : Nat) :
    t.idleShare energy = s.idleShare energy := by
  obtain ⟨_, _, rfl⟩ := h
  funext p
  simp only [State.idleShare, State.termEnergy, hr]
  rfl

theorem Metered.dieWeights {s t : State} (h : Metered s t) : t.dieWeights = s.dieWeights := by
  obtain ⟨_, _, rfl⟩ := h; rfl

theorem shareUnit_effect {s : State} (hv : ∀ d, s.viral d = false) (u n : Nat) :
    let t := s.shareUnit (u, n)
    (∀ p, Map.get t.power.nJ 0 p = Map.get s.power.nJ 0 p + s.unitShare u n p) ∧
    (∀ k, Map.get t.power.rest 0 k =
      if k = 1 + u then s.termEnergy (1 + u) n - ((List.range 8).map (s.unitShare u n)).sum else Map.get s.power.rest 0 k) := by
  have hsum : (List.range 8).map (s.shareOf (1 + u) n (List.range 8) (s.bytesMoved u)) = (List.range 8).map (s.unitShare u n) :=
    List.map_congr_left fun i hi => (if_pos (List.mem_range.1 hi)).symm
  simp only [shareUnit_eq hv, nJ_shareOut List.nodup_range, rest_shareOut, hsum, List.mem_range, implies_true, and_true]
  exact fun p => rfl

theorem shareIdle_effect (s : State) (energy : Nat) :
    let t := s.shareOut 0 energy s.dieWeights
    (∀ p, Map.get t.power.nJ 0 p = Map.get s.power.nJ 0 p + s.idleShare energy p) ∧
    (∀ k, Map.get t.power.rest 0 k =
      if k = 0 then s.termEnergy 0 energy - ((List.range 8).map (s.idleShare energy)).sum else Map.get s.power.rest 0 k) := by
  have hshare : s.shareOf 0 energy s.validParts s.diesOf = s.idleShare energy := by
    funext p
    rw [State.shareOf, sum_validParts s fun _ => diesOf_of_not_mem]; rfl
  have hzero : ∀ p, p ∉ s.validParts → s.idleShare energy p = 0 := fun p hp => by
    rw [State.idleShare, diesOf_of_not_mem hp, Nat.mul_zero, Nat.zero_div]
  simp only [dieWeights_eq, nJ_shareOut (nodup_validParts s), rest_shareOut, hshare, sum_validParts s hzero, implies_true, and_true]
  intro p
  by_cases hp : p ∈ s.validParts
  · rw [if_pos hp]
  · rw [if_neg hp, hzero p hp]

/-! ## A sample -/

theorem exec_energySample (x : EnergyIn) (s : State) : exec (.energySample x) s = execEnergySample x s := rfl

/-- What the end of a sample changes besides: its time, the owners of the cores, and the bytes moved, which count from 0 again. -/
def State.sampleEnd (s : State) : State :=
  { s.updPower fun p => { p with sampled := s.time, owners := s.ownersNow } with traffic := [] }

theorem shareViral_none {s : State} (hv : ∀ d, s.viral d = false) (x : EnergyIn) (ds : List Nat) : ds.foldl (State.shareViral x) s = s := by
  induction ds with
  | nil => rfl
  | cons d t ih => rw [List.foldl_cons, State.shareViral, hv, if_neg Bool.false_ne_true, ih]

/-- A sample that is due, with no viral domain: the cores, then each shared unit, then the idle energy. -/
theorem execEnergySample_due {s : State} (x : EnergyIn) (hd : s.power.sampled + 1000 ≤ s.time) (hv : ∀ d, s.viral d = false) :
    execEnergySample x s = .next (State.sampleEnd
      ((x.shared.foldl State.shareUnit (x.cores.foldl State.chargeCore s)).shareOut 0 (s.idleEnergy x)
        s.dieWeights)) := by
  have hm : ∀ e ws, Metered s ((x.shared.foldl State.shareUnit (x.cores.foldl State.chargeCore s)).shareOut 0 e ws) := fun e ws =>
    ((metered_foldl metered_chargeCore _ s).trans (metered_foldl metered_shareUnit _ _)).trans (metered_shareOut _ _ _ _)
  simp only [execEnergySample, Nat.not_lt.2 hd, if_false]
  rw [shareViral_none fun d => ((hm _ _).viral d).trans (hv d)]
  rfl

theorem Metered.sampleEnd {s t : State} (h : Metered s t) :
    t.sampleEnd.power.sampled = s.time ∧ computeKept s t.sampleEnd ∧ t.sampleEnd.hub = s.hub ∧ t.sampleEnd.traffic = [] := by
  obtain ⟨_, _, rfl⟩ := h
  exact ⟨rfl, ⟨rfl, rfl, rfl, rfl, rfl, rfl, rfl, rfl⟩, rfl, rfl⟩

theorem idleEnergy_eq {s : State} (hv : ∀ d, s.viral d = false) (x : EnergyIn) :
    s.idleEnergy x = x.idle + ((x.cores.filter fun c => (s.ownerAt c.1).isNone).map Prod.snd).sum := by
  simp [State.idleEnergy, hv]

/-- What a sample of one shared unit adds to each counter, and what is left of the two terms. -/
theorem energySample_effect {s : State} {x : EnergyIn} {u n : Nat} (hd : s.power.sampled + 1000 ≤ s.time)
    (hv : ∀ d, s.viral d = false) (hx : x.shared = [(u, n)]) :
    ∃ t, exec (.energySample x) s = .next t ∧ t.power.sampled = s.time ∧ computeKept s t ∧ t.hub = s.hub ∧ t.traffic = [] ∧
      (∀ p, Map.get t.power.nJ 0 p = Map.get s.power.nJ 0 p + s.coreEnergy x.cores p + s.unitShare u n p +
        s.idleShare (s.idleEnergy x) p) ∧
      Map.get t.power.rest 0 0 = s.termEnergy 0 (s.idleEnergy x) - ((List.range 8).map (s.idleShare (s.idleEnergy x))).sum ∧
      Map.get t.power.rest 0 (1 + u) = s.termEnergy (1 + u) n - ((List.range 8).map (s.unitShare u n)).sum := by
  rw [exec_energySample, execEnergySample_due x hd hv, hx, List.foldl_cons, List.foldl_nil]
  have hma : Metered s (x.cores.foldl State.chargeCore s) := metered_foldl metered_chargeCore _ s
  have hna := nJ_chargeCores x.cores hv
  have hra := rest_chargeCores x.cores s
  generalize x.cores.foldl State.chargeCore s = a at hma hna hra
  have hmb : Metered s (a.shareUnit (u, n)) := hma.trans (metered_shareUnit a _)
  obtain ⟨hnb, hrb⟩ := shareUnit_effect (fun d => (hma.viral d).trans (hv d)) u n
  generalize a.shareUnit (u, n) = b at hmb hnb hrb
  have hb0 : Map.get b.power.rest 0 0 = Map.get s.power.rest 0 0 := by rw [hrb, if_neg (by omega), hra]
  obtain ⟨hnc, hrc⟩ := shareIdle_effect b (s.idleEnergy x)
  rw [hmb.dieWeights] at hnc hrc
  obtain ⟨hsampled, hkept, hhub, htraffic⟩ := (hmb.trans (metered_shareOut b 0 (s.idleEnergy x) s.dieWeights)).sampleEnd
  refine ⟨_, rfl, hsampled, hkept, hhub, htraffic, fun p => ?_, ?_, ?_⟩
  · exact (hnc p).trans (by rw [hnb, hna, hma.unitShare hra, hmb.idleShare hb0])
  · exact (hrc 0).trans (by rw [if_pos rfl, hmb.idleShare hb0, State.termEnergy, hb0]; rfl)
  · exact (hrc (1 + u)).trans (by rw [if_neg (by omega), hrb, if_pos rfl, hma.unitShare hra, State.termEnergy, hra]; rfl)

/-! ## Bytes of a record -/

theorem length_bytesOf (n v : Nat) : (bytesOf n v).length = n := by
  induction n generalizing v with
  | zero => rfl
  | succ n ih => rw [bytesOf, List.length_cons, ih]

theorem natOf_bytesOf (n v : Nat) : natOf (bytesOf n v) = v % 256 ^ n := by
  induction n generalizing v with
  | zero => rw [pow_zero, Nat.mod_one]; rfl
  | succ n ih => rw [bytesOf, natOf, ih, BitVec.toNat_ofNat, pow_succ' 256 n, Nat.mod_mul]

theorem field_cons (b : Byte) (bs : List Byte) (off n : Nat) : field (b :: bs) (off + 1) n = field bs off n := rfl

/-- The field that begins after the bytes before it. -/
theorem field_append_right {a : List Byte} {off : Nat} (h : a.length ≤ off) (b : List Byte) (n : Nat) :
    field (a ++ b) off n = field b (off - a.length) n := by
  rw [field, List.drop_append, List.drop_eq_nil_of_le h]; rfl

theorem field_append_left {a : List Byte} {off n : Nat} (h : off + n ≤ a.length) (b : List Byte) :
    field (a ++ b) off n = field a off n := by
  rw [field, List.drop_append_of_le_length (by omega), List.take_append_of_le_length (by rw [List.length_drop]; omega)]; rfl

theorem field_bytesOf (n v : Nat) : field (bytesOf n v) 0 n = v % 256 ^ n := by
  rw [field, List.drop_zero, List.take_of_length_le (length_bytesOf n v).le, natOf_bytesOf]

theorem length_fixLen (n : Nat) (bs : List Byte) : (fixLen n bs).length = n := by
  simp [fixLen]

theorem field_fixLen {bs : List Byte} {m off n : Nat} (hm : off + n ≤ m) (hb : off + n ≤ bs.length) :
    field (fixLen m bs) off n = field bs off n := by
  rw [fixLen, field, List.drop_take, List.take_take, min_eq_left (by omega)]
  exact field_append_left hb _

/-! ## Readings (R379) -/

theorem exec_energyReadingWrite (s : State) : exec .energyReadingWrite s = execEnergyReadingWrite s := rfl

/-- The part of a reading that is signed. -/
def State.readingHead (s : State) (part : Nat) : List Byte :=
  bytesOf 2 0x0E01 ++ bytesOf 1 part ++ [0] ++ bytesOf 4 s.power.boot ++ bytesOf 8 (Map.get s.power.seq 0 part)
    ++ bytesOf 8 (Map.get s.power.nJ 0 part / 1000) ++ bytesOf 8 s.power.sampled ++ List.replicate 32 0

theorem energyRecord_eq (s : State) (part : Nat) :
    s.energyRecord part = fixLen 2560 (s.readingHead part ++ signed (s.readingHead part)) := rfl

theorem length_readingHead (s : State) (part : Nat) : (s.readingHead part).length = 64 := by
  simp [State.readingHead, length_bytesOf]

theorem length_energyRecord (s : State) (part : Nat) : (s.energyRecord part).length = 2560 := length_fixLen _ _

theorem field_energyRecord (s : State) (part : Nat) {off n : Nat} (h : off + n ≤ 64) :
    field (s.energyRecord part) off n = field (s.readingHead part) off n := by
  have hlen := length_readingHead s part
  rw [energyRecord_eq, field_fixLen (by omega) (by rw [List.length_append]; omega), field_append_left (by omega)]

theorem fields_energyRecord (s : State) (part : Nat) :
    let r := s.energyRecord part
    field r 0 2 = 0x0E01 ∧ field r 2 1 = part % 256 ∧ field r 4 4 = s.power.boot % 2 ^ 32 ∧
      field r 8 8 = Map.get s.power.seq 0 part % 2 ^ 64 ∧ field r 16 8 = Map.get s.power.nJ 0 part / 1000 % 2 ^ 64 ∧
      field r 24 8 = s.power.sampled % 2 ^ 64 := by
  simp [field_energyRecord, State.readingHead, field_append_left, field_append_right, field_cons, length_bytesOf,
    field_bytesOf]

/-- Bytes that the hub writes where no home holds a line go to memory. -/
theorem hubWrite_eq_pokes {s : State} {pa : Nat} {bs : List Byte} (hd : s.dead pa = false) (hc : s.clearOf pa bs.length) :
    s.hubWrite pa bs = s.pokes pa bs := by
  have hnone : ((s.home.filterMap fun p => p.2.map fun h => h.pa).filter fun a => pa < a + 128 && a < pa + bs.length) = [] := by
    refine List.filter_eq_nil_iff.2 fun a ha => ?_
    obtain ⟨p, hp, hpa⟩ := List.mem_filterMap.1 ha
    obtain ⟨h, hh, rfl⟩ := Option.map_eq_some_iff.1 hpa
    have := hc p hp h hh
    simp only [Bool.and_eq_true, decide_eq_true_eq]; omega
  rw [State.hubWrite, hnone, List.foldl_nil, State.hubPokes, hd, if_neg Bool.false_ne_true]

theorem computeKept_pokes (s : State) (pa : Nat) (bs : List Byte) : computeKept s (s.pokes pa bs) := by
  rw [Laws.pokes_eq]; exact computeKept_refl s

theorem power_pokes (s : State) (pa : Nat) (bs : List Byte) : (s.pokes pa bs).power = s.power := by rw [Laws.pokes_eq]
theorem hub_pokes (s : State) (pa : Nat) (bs : List Byte) : (s.pokes pa bs).hub = s.hub := by rw [Laws.pokes_eq]

/-- A reading that has been written takes its SEQ, and its function's window is free again. -/
def State.readingTaken (s : State) (vf part : Nat) (rest : List (Nat × Nat × Nat)) : State :=
  (s.updPower fun p => { p with seq := Map.upd p.seq 0 part (· + 1) }).updHub fun h => { h with energy := rest, busy := h.busy.erase vf }

theorem computeKept_readingTaken (s : State) (vf part : Nat) (rest : List (Nat × Nat × Nat)) :
    computeKept s (s.readingTaken vf part rest) := computeKept_refl s

@[simp] theorem peek_readingTaken (s : State) (vf part : Nat) (rest : List (Nat × Nat × Nat)) (a : Nat) :
    (s.readingTaken vf part rest).peek a = s.peek a := rfl

@[simp] theorem seq_readingTaken (s : State) (vf part : Nat) (rest : List (Nat × Nat × Nat)) :
    Map.get (s.readingTaken vf part rest).power.seq 0 part = Map.get s.power.seq 0 part + 1 := Map.get_upd_same ..

@[simp] theorem energy_readingTaken (s : State) (vf part : Nat) (rest : List (Nat × Nat × Nat)) :
    (s.readingTaken vf part rest).hub.energy = rest := rfl

@[simp] theorem busy_readingTaken (s : State) (vf part : Nat) (rest : List (Nat × Nat × Nat)) :
    (s.readingTaken vf part rest).hub.busy = s.hub.busy.erase vf := rfl

theorem execEnergyReadingWrite_ready {s : State} {vf part dest : Nat} {rest : List (Nat × Nat × Nat)}
    (he : s.hub.energy = (vf, part, dest) :: rest) (hr : s.hub.ready.getLsbD 5 = true) :
    execEnergyReadingWrite s = .next (((s.hubWrite dest (s.energyRecord part)).readingTaken vf part rest).raiseEvent vf 5) := by
  simp only [execEnergyReadingWrite, he, hr, Bool.not_true, Bool.false_eq_true, if_false]
  rfl

/-- The oldest reading is written where it was asked for, and nowhere else. -/
theorem energyReadingWrite_effect {s : State} {vf part dest : Nat} {rest : List (Nat × Nat × Nat)}
    (he : s.hub.energy = (vf, part, dest) :: rest) (hb : s.hub.busy.Nodup) (hr : s.hub.ready.getLsbD 5 = true)
    (hd : s.dead dest = false) (hc : s.clearOf dest 2560) :
    ∃ t, exec .energyReadingWrite s = .next t ∧
      (∀ a, t.peek a = if dest ≤ a ∧ a < dest + 2560 then (s.energyRecord part).getD (a - dest) 0 else s.peek a) ∧ computeKept s t ∧
      Map.get t.power.seq 0 part = Map.get s.power.seq 0 part + 1 ∧ t.hub.energy = rest ∧ vf ∉ t.hub.busy ∧
      (t.evst vf).getLsbD 5 = true := by
  have hlen := length_energyRecord s part
  rw [exec_energyReadingWrite, execEnergyReadingWrite_ready he hr, hubWrite_eq_pokes hd (by rwa [hlen])]
  refine ⟨_, rfl, fun a => ?_, ?_, ?_, ?_, ?_, evst_raiseEvent_same _ vf (by decide)⟩
  · rw [peek_raiseEvent, peek_readingTaken, Laws.peek_pokes, hlen]
  · exact (computeKept_pokes s _ _).trans ((computeKept_readingTaken _ _ _ _).trans (computeKept_raiseEvent _ _ _))
  · rw [power_raiseEvent, seq_readingTaken, power_pokes]
  · rw [hub_energy_raiseEvent, energy_readingTaken]
  · rw [hub_busy_raiseEvent, busy_readingTaken, hub_pokes]
    exact hb.not_mem_erase

/-! ## Requests and checkpoints (R379, R380) -/

theorem exec_energyRequest (vf : Nat) (val : DWord) (s : State) : exec (.energyRequest vf val) s = execEnergyRequest vf val s := rfl
theorem exec_energyCheckpoint (s : State) : exec .energyCheckpoint s = execEnergyCheckpoint s := rfl

theorem execEnergyRequest_eq {vf : Nat} (hv : vf < 64) (val : DWord) (s : State) :
    execEnergyRequest vf val s = .next (if vf ∈ s.hub.busy then s else s.updHub fun h => { h with
      busy := h.busy ++ [vf],
      energy := h.energy ++ [(vf, if vf = 0 then bitsOf val.toNat 54 52 else s.partOf vf, bitsOf val.toNat 51 6 * 64)] }) := by
  simp [execEnergyRequest, Nat.not_le.2 hv]

/-! ## The obligation -/

/-- Settles O46: it holds. The clock moves only where the equations of its two steps say so; a sample is three charges in turn, of which
each leaves the terms of the others as they were; a reading is 2,560 bytes of which the first 64 are laid out field by field. -/
theorem clockAndEnergy : Obligations.ClockAndEnergy := by
  unfold Obligations.ClockAndEnergy
  refine ⟨?clock, ?sample, ?early, ?request, ?reading, ?checkpoint⟩
  case clock =>
    intro s watts
    simp only [exec_clockStepDown, exec_clockStepUp, exec_thermalLimit]
    refine ⟨fun hw hm hd => ?_, fun h => ?_, fun t0 hc ht hw hm hd => ?_, fun h => ?_, fun t0 hl ht hw => ?_⟩
    · exact ⟨_, execClockStepDown_step hw hm hd, setClock_effect s watts _⟩
    · exact ⟨_, execClockStepDown_stay h, measure_effect s watts⟩
    · exact ⟨_, execClockStepUp_step hc ht hw hm hd, setClock_effect s watts _⟩
    · exact ⟨_, execClockStepUp_stay h, measure_effect s watts⟩
    · refine ⟨_, execThermalLimit_raise hl ht hw, evst_raiseEvent_same _ 0 (by decide), ?_, ?_⟩
      · rw [power_raiseEvent, mhz_measure]
      · exact (computeKept_measure s watts).trans (computeKept_raiseEvent _ _ _)
  case sample =>
    intro s x u n hd hv hx _
    have h := energySample_effect hd hv hx
    rw [idleEnergy_eq hv] at h
    exact h
  case early =>
    intro s x h
    rw [exec_energySample, execEnergySample, if_pos h]
  case request =>
    intro s vf val hv
    rw [exec_energyRequest, execEnergyRequest_eq hv]
    refine ⟨fun hb => by rw [if_pos hb], fun hb => ⟨_, rfl, ?_⟩⟩
    rw [if_neg hb]
    exact ⟨List.mem_append_right _ (List.mem_singleton_self vf), computeKept_updHub s _, rfl⟩
  case reading =>
    intro s vf part dest rest he _ hb hr hd hc
    obtain ⟨t, hexec, hpeek, hkept, hseq, henergy, hbusy, hevent⟩ := energyReadingWrite_effect he hb hr hd hc
    obtain ⟨htype, hpart, hboot, hnum, hcounter, htime⟩ := fields_energyRecord s part
    exact ⟨t, s.energyRecord part, hexec, length_energyRecord s part, htype, hpart, hboot, hnum, hcounter, htime, hpeek, hkept, hseq,
      henergy, hbusy, hevent⟩
  case checkpoint =>
    intro s
    rw [exec_energyCheckpoint, execEnergyCheckpoint]
    refine ⟨fun h => by rw [if_pos h], fun h => ?_⟩
    rw [if_neg (Nat.not_lt.2 h)]
    exact ⟨_, rfl, rfl, rfl, rfl, computeKept_refl s⟩

end Sys2Proof.Machine
end

section
/-! PROOFS. Instructions that move threads: what the issuing warp's place leaves alone, and where the threads of a group come to stand. -/

namespace Sys2Proof.Machine

/-! ## Changes of the issuing warp alone -/

/-- Memory and everything outside the issuing warp are as before. -/
def State.onlyCw (s t : State) : Prop := s.memoryKept t ∧ s.outsideKept t

theorem State.onlyCw.refl (s : State) : s.onlyCw s :=
  ⟨⟨fun _ => rfl, rfl, rfl, rfl, rfl, rfl, rfl, rfl⟩,
    rfl, fun _ _ => rfl, rfl, rfl, rfl, rfl, rfl, rfl, rfl, rfl, rfl, rfl, rfl, rfl, rfl⟩

theorem State.onlyCw.trans {s t u : State} (h : s.onlyCw t) (g : t.onlyCw u) : s.onlyCw u := by
  obtain ⟨⟨hmem, hpoison, hscr, hside, hgs, hl1, hic, hhome⟩,
    hcur, hwarps, hb, hc, hl, hq, hco, ho, he, hm, hhub, hfab, hp, ht, hout⟩ := h
  obtain ⟨⟨gmem, gpoison, gscr, gside, ggs, gl1, gic, ghome⟩,
    gcur, gwarps, gb, gc, gl, gq, gco, go, ge, gm, ghub, gfab, gp, gt, gout⟩ := g
  exact ⟨⟨fun a => (gmem a).trans (hmem a), gpoison.trans hpoison, gscr.trans hscr, gside.trans hside, ggs.trans hgs, gl1.trans hl1,
      gic.trans hic, ghome.trans hhome⟩,
    gcur.trans hcur, fun k hk => (gwarps k (hcur ▸ hk)).trans (hwarps k hk), gb.trans hb, gc.trans hc, gl.trans hl, gq.trans hq,
    gco.trans hco, go.trans ho, ge.trans he, gm.trans hm, ghub.trans hhub, gfab.trans hfab, gp.trans hp, gt.trans ht, gout.trans hout⟩

theorem onlyCw_updCw (s : State) (f : Warp → Warp) : s.onlyCw (s.updCw f) :=
  ⟨⟨fun _ => rfl, rfl, rfl, rfl, rfl, rfl, rfl, rfl⟩,
    rfl, fun k hk => State.warp_updCw_other s f k hk, rfl, rfl, rfl, rfl, rfl, rfl, rfl, rfl, rfl, rfl, rfl, rfl, rfl⟩

theorem onlyCw_stamp (s : State) (n : Nat) : s.onlyCw { s with stamp := n } := State.onlyCw.refl s

@[simp] theorem cw_stamp (s : State) (n : Nat) : ({ s with stamp := n } : State).cw = s.cw := rfl

theorem onlyCw_finish (s : State) (n : Nat) : s.onlyCw (s.finish n) :=
  ((onlyCw_updCw s _).trans (onlyCw_updCw _ _)).trans (onlyCw_stamp _ _)

theorem Warp.sameButPlace.specialsKept {w x : Warp} (h : w.sameButPlace x) : w.specialsKept x := by
  unfold Warp.sameButPlace at h
  rw [h]
  exact ⟨rfl, rfl, rfl, rfl, rfl, rfl, rfl, rfl, rfl, rfl, rfl, rfl, rfl, rfl, rfl, rfl, rfl⟩

theorem Warp.specialsKept.trans {w x y : Warp} (h : w.specialsKept x) (g : x.specialsKept y) : w.specialsKept y := by
  unfold Warp.specialsKept at *
  simp only [h, g, and_self]

theorem Warp.sameButPlace.registers {w x : Warp} (h : w.sameButPlace x) :
    x.vregs = w.vregs ∧ x.sregs = w.sregs ∧ x.sc = w.sc ∧ x.kregs = w.kregs := by
  unfold Warp.sameButPlace at h
  rw [h]
  exact ⟨rfl, rfl, rfl, rfl⟩

theorem Warp.Settles.thr_pc {w x : Warp} (h : w.Settles x) (l : Nat) : (x.thr l).pc = (w.thr l).pc := by
  have hl := h.2 l
  unfold Thread.sameButState at hl
  rw [hl]

theorem Warp.Settles.thr_cl {w x : Warp} (h : w.Settles x) (l : Nat) : (x.thr l).cl = (w.thr l).cl := by
  have hl := h.2 l
  unfold Thread.sameButState at hl
  rw [hl]

theorem settleTurn_pc_cl (w : Warp) (age : Nat) (l : Nat) :
    ((w.settleTurn age).thr l).pc = (w.thr l).pc ∧ ((w.settleTurn age).thr l).cl = (w.thr l).cl := by
  rw [settleTurn_thr]
  exact ⟨(settles_settle w age).thr_pc l, (settles_settle w age).thr_cl l⟩

theorem advance_pc (t : Thread) (n : Nat) : (t.advance n).pc = t.pc + BitVec.ofNat 64 (4 * n) := by
  unfold Thread.advance
  dsimp only
  split
  · split <;> rfl
  · rfl

/-! ## Threads that part at the end of a clause (R32, R252) -/

/-- The threads of a group placed: those of `m` at a target outside any clause, the others at the next word. -/
def Warp.parted (w : Warp) (group : Mask) (tgt : DWord) (m : Mask) (stamp : Nat) : Warp :=
  let moved := group &&& m
  let split := moved != 0 && moved != group
  (w.updThrs (group &&& ~~~m) fun _ t => { t.advance 1 with age := if split then stamp else t.age }).updThrs moved
    fun _ t => { t.leave with pc := tgt, age := if split then stamp + 1 else t.age }

theorem branch_eq (s : State) (tgt : DWord) (m : Mask) :
    s.branch tgt m = (({ s.updCw (fun w => (w.parted s.cw.issue tgt m s.stamp).settleTurn (s.stamp + 2)) with
      stamp := s.stamp + 3 } : State).updCw fun w => w.endTurn (s.stamp + 3)).bump := rfl

theorem branch_cw (s : State) (tgt : DWord) (m : Mask) :
    (s.branch tgt m).cw = ((s.cw.parted s.cw.issue tgt m s.stamp).settleTurn (s.stamp + 2)).endTurn (s.stamp + 3) := by
  rw [branch_eq, State.cw_bump, State.cw_updCw, cw_stamp, State.cw_updCw]

theorem onlyCw_branch (s : State) (tgt : DWord) (m : Mask) : s.onlyCw (s.branch tgt m) := by
  rw [branch_eq]
  exact (((onlyCw_updCw s _).trans (onlyCw_stamp _ _)).trans (onlyCw_updCw _ _)).trans (onlyCw_stamp _ _)

theorem parted_place (w : Warp) (group : Mask) (tgt : DWord) (m : Mask) (stamp : Nat) : w.sameButPlace (w.parted group tgt m stamp) := by
  rw [Warp.parted]
  exact (updThrs_place _ _ _).trans (updThrs_place _ _ _)

theorem branch_place (s : State) (tgt : DWord) (m : Mask) : s.cw.sameButPlace (s.branch tgt m).cw := by
  rw [branch_cw]
  exact ((parted_place _ _ _ _ _).trans (settleTurn_place _ _)).trans (endTurn_place _ _)

theorem parted_moved {w : Warp} {group m : Mask} {l : Nat} (hl : (group &&& m).getLsbD l = true) (tgt : DWord) (stamp : Nat) :
    ((w.parted group tgt m stamp).thr l).pc = tgt ∧ ((w.parted group tgt m stamp).thr l).cl = none := by
  rw [Warp.parted, thr_updThrs, if_pos hl]
  exact ⟨rfl, rfl⟩

theorem parted_next {w : Warp} {group m : Mask} {l : Nat} (hg : group.getLsbD l = true) (hl : (group &&& m).getLsbD l = false)
    (tgt : DWord) (stamp : Nat) : ((w.parted group tgt m stamp).thr l).pc = (w.thr l).pc + 4 := by
  have hstay : (group &&& ~~~m).getLsbD l = true := by
    have hlt : l < 32 := (mem_lanesOf group l).2 hg |> fun h => List.mem_range.1 (List.mem_of_mem_filter h)
    simp only [BitVec.getLsbD_and, BitVec.getLsbD_not, hg, hlt, decide_true, Bool.true_and] at hl ⊢
    rw [hl]; rfl
  rw [Warp.parted, thr_updThrs, if_neg (by rw [hl]; exact Bool.false_ne_true), thr_updThrs, if_pos hstay]
  exact advance_pc _ 1

theorem parted_other {group : Mask} {l : Nat} (hg : group.getLsbD l = false) (w : Warp) (tgt : DWord) (m : Mask) (stamp : Nat) :
    (w.parted group tgt m stamp).thr l = w.thr l := by
  rw [Warp.parted, thr_updThrs, if_neg (by simp [hg]), thr_updThrs, if_neg (by simp [hg])]

theorem branch_thr (s : State) (tgt : DWord) (m : Mask) (l : Nat) :
    ((s.branch tgt m).cw.thr l).pc = ((s.cw.parted s.cw.issue tgt m s.stamp).thr l).pc ∧
      ((s.branch tgt m).cw.thr l).cl = ((s.cw.parted s.cw.issue tgt m s.stamp).thr l).cl := by
  rw [branch_cw, endTurn_thr]
  exact settleTurn_pc_cl _ _ l

/-! ## Words at hand (R251, R254) -/

theorem fetchLine_ahead {s : State} {va : Nat} {bs : List Byte} (hva : va < 2 ^ 52) (h : Map.find? s.cw.fetched (va / 128) = some bs) :
    s.fetchLine s.cur va = .ok s bs 0 := by
  have hw : Map.find? (s.warp s.cur).fetched (va / 128) = some bs := h
  rw [State.fetchLine, if_neg (Nat.not_le.2 hva)]
  dsimp only
  rw [hw]

theorem fetchLine_cached {s : State} {va : Nat} {c : CLine} (hva : va < 2 ^ 52) (hn : Map.find? s.cw.fetched (va / 128) = none)
    (h : Map.get s.icache none (lineKey (coreOf s.cur) (s.space s.cw).1 (s.space s.cw).2 va) = some c) :
    s.fetchLine s.cur va = .ok s c.data c.poison := by
  have hw : Map.find? (s.warp s.cur).fetched (va / 128) = none := hn
  have hi : Map.get s.icache none (lineKey (coreOf s.cur) (s.fetchWho s.cur).vf (s.fetchWho s.cur).asid va) = some c := h
  rw [State.fetchLine, if_neg (Nat.not_le.2 hva)]
  dsimp only
  rw [hw]
  dsimp only
  rw [hi]

theorem fetchWord_of_fetchLine {s : State} {slot va : Nat} {bs : List Byte} {p : BitVec 4} (h : s.fetchLine slot va = .ok s bs p)
    (hp : p.getLsbD (secOf va) = false) : s.fetchWord slot va = .ok s (BitVec.ofNat 32 (natOf ((bs.drop (va % 128)).take 4))) := by
  rw [State.fetchWord, h]
  dsimp only
  rw [hp, if_neg Bool.false_ne_true]

theorem fetchWord_atHand {s : State} {va : Nat} {w : Word} (h : s.atHand va w) : s.fetchWord s.cur va = .ok s w := by
  obtain ⟨hva, bs, rfl, hahead | ⟨hnone, c, hc, rfl, hp⟩⟩ := h
  · exact fetchWord_of_fetchLine (fetchLine_ahead hva hahead) BitVec.getLsbD_zero
  · exact fetchWord_of_fetchLine (fetchLine_cached hva hnone hc) hp

theorem testTarget_header {s : State} {tgt : DWord} {w : Word} (ht : tgt.toNat % 4 = 0) (ha : s.atHand tgt.toNat w)
    (hw : isHeader w = true) : s.testTarget tgt = .header s := by
  have hva : tgt.toNat < 2 ^ 52 := ha.1
  rw [State.testTarget, if_neg (by omega), if_neg (by omega), fetchWord_atHand ha]
  exact if_pos hw

theorem testTarget_notHeader {s : State} {tgt : DWord} (h : tgt.toNat % 4 ≠ 0 ∨ ∃ w, s.atHand tgt.toNat w ∧ isHeader w = false) :
    s.testTarget tgt = .notHeader := by
  by_cases ht : tgt.toNat % 4 ≠ 0
  · rw [State.testTarget, if_pos ht]
  · obtain ⟨w, ha, hw⟩ := h.resolve_left ht
    have hva : tgt.toNat < 2 ^ 52 := ha.1
    rw [State.testTarget, if_neg ht, if_neg (by omega), fetchWord_atHand ha]
    exact if_neg (by simp [hw])

theorem testTarget_range {s : State} {tgt : DWord} (ht : tgt.toNat % 4 = 0) (hr : 2 ^ 52 ≤ tgt.toNat) : s.testTarget tgt = .range := by
  rw [State.testTarget, if_neg (by omega), if_pos hr]

/-! ## A branch of a group (R252, R254) -/

theorem branchTest_header {s : State} {tgt : DWord} {w : Word} (ht : tgt.toNat % 4 = 0) (ha : s.atHand tgt.toNat w)
    (hw : isHeader w = true) (n : Nat) : s.branchTest tgt (n + 1) = .header s := by
  rw [State.branchTest, testTarget_header ht ha hw]

theorem branchTest_notHeader {s : State} {tgt : DWord} (h : tgt.toNat % 4 ≠ 0 ∨ ∃ w, s.atHand tgt.toNat w ∧ isHeader w = false)
    (n : Nat) : s.branchTest tgt (n + 1) = .notHeader := by
  rw [State.branchTest, testTarget_notHeader h]

theorem branchTest_range {s : State} {tgt : DWord} (ht : tgt.toNat % 4 = 0) (hr : 2 ^ 52 ≤ tgt.toNat) (n : Nat) :
    s.branchTest tgt (n + 1) = .range := by
  rw [State.branchTest, testTarget_range ht hr]

/-- The return address in s62:63, where the branch keeps it. -/
def State.linkedIf (s : State) (link : Bool) : State := if link then s.updCw fun w => w.setS64 62 (s.cw.pc + 4) else s

theorem branchTo_none {s : State} {m : Mask} (h : s.cw.issue &&& m = 0) (tgt : DWord) (link : Bool) :
    s.branchTo tgt m link = s.branch tgt 0 := by
  rw [State.branchTo]
  exact if_pos h

theorem branchTo_header {s : State} {tgt : DWord} {m : Mask} {w : Word} (hm : s.cw.issue &&& m ≠ 0) (ht : tgt.toNat % 4 = 0)
    (ha : s.atHand tgt.toNat w) (hw : isHeader w = true) (link : Bool) : s.branchTo tgt m link = (s.linkedIf link).branch tgt m := by
  rw [State.branchTo, branchTest_header ht ha hw]
  exact if_neg hm

theorem branchTo_notHeader {s : State} {tgt : DWord} {m : Mask} (hm : s.cw.issue &&& m ≠ 0)
    (h : tgt.toNat % 4 ≠ 0 ∨ ∃ w, s.atHand tgt.toNat w ∧ isHeader w = false) (link : Bool) : s.branchTo tgt m link = s.badTarget tgt := by
  rw [State.branchTo, branchTest_notHeader h]
  exact if_neg hm

theorem branchTo_range {s : State} {tgt : DWord} {m : Mask} (hm : s.cw.issue &&& m ≠ 0) (ht : tgt.toNat % 4 = 0)
    (hr : 2 ^ 52 ≤ tgt.toNat) (link : Bool) :
    s.branchTo tgt m link = s.takeTrap { s.cw.trapHere 0x0201 with lanes := s.cw.issue, addr := tgt } := by
  rw [State.branchTo, branchTest_range ht hr]
  exact if_neg hm

theorem label_eq (w : Warp) (off : BitVec 19) : w.label off = w.pc + BitVec.ofInt 64 (4 * off.toInt) := by
  have hshift : off.signExtend 64 <<< 2 = BitVec.ofInt 64 (4 * off.toInt) := by
    rw [BitVec.shiftLeft_eq_mul_twoPow, BitVec.signExtend, Int.mul_comm, BitVec.ofInt_mul]
    rfl
  rw [Warp.label, hshift]

theorem guard_of_clear {s : State} {u : Uses} (h : s.clear u) (k : State → State) : s.guard u k = k s :=
  guard_clear s u k h.1 h.2.1 h.2.2

/-- What each form of a branch does (R252): a branch of the threads that it selects to its target. -/
theorem exec_of_branchOf {i : Instr} {s : State} {tgt : DWord} {m : Mask} {link : Bool} (h : branchOf s.cw i = some (tgt, m, link))
    (hc : s.clear (branchUses i)) : ∃ sel, m = s.cw.issue &&& sel ∧ exec i s = .next (s.branchTo tgt sel link) := by
  have hall : s.cw.issue = s.cw.issue &&& BitVec.allOnes 32 := (BitVec.and_allOnes).symm
  cases i
  case bra off => cases h; exact ⟨_, hall, by rw [← label_eq]; rfl⟩
  case brc k off => cases h; exact ⟨_, rfl, by rw [← label_eq]; rfl⟩
  case brcNot k off => cases h; exact ⟨_, rfl, by rw [← label_eq]; rfl⟩
  case brs off => cases h; exact ⟨if s.cw.sc then BitVec.allOnes 32 else 0, by split; exact hall; simp, by rw [← label_eq]; rfl⟩
  case brsNot off => cases h; exact ⟨if s.cw.sc then 0 else BitVec.allOnes 32, by split; simp; exact hall, by rw [← label_eq]; rfl⟩
  case call off => cases h; exact ⟨_, hall, by rw [← label_eq]; exact congrArg Host.Outcome.next (guard_of_clear hc _)⟩
  case jmp p => cases h; exact ⟨_, hall, congrArg Host.Outcome.next (guard_of_clear hc _)⟩
  case calli p => cases h; exact ⟨_, hall, congrArg Host.Outcome.next (guard_of_clear hc _)⟩
  case ret => cases h; exact ⟨_, hall, congrArg Host.Outcome.next (guard_of_clear hc _)⟩
  all_goals cases h

/-! ## Trap entry of a warp with a handler (R387, R388) -/

theorem frameHead_length (w : Warp) (e : TrapInfo) (time : Nat) : (w.frameHead e time).length = 128 := by
  unfold Warp.frameHead
  dsimp only
  generalize w.frameHdr e = hdr
  generalize w.latv e = latches
  simp only [List.length_append, length_bytesOf, List.length_flatMap, List.map_const', List.length_range, List.sum_replicate_nat]

theorem latchBytes_length (w : Warp) (e : TrapInfo) : (w.latchBytes e).length = 576 := by
  simp [Warp.latchBytes, length_bytesOf, List.length_flatMap]

/-- The parts of a frame without lane records lie within its 2048 bytes. -/
theorem frameParts_bound {w : Warp} {e : TrapInfo} {time : Nat} (hrecs : e.recs = []) :
    ∀ p ∈ w.frameParts e time, p.1 + p.2.length ≤ 2048 := by
  intro p hp
  rw [Warp.frameParts, hrecs] at hp
  rcases List.mem_cons.1 hp with rfl | hlatch
  · simp [frameHead_length]
  · by_cases hmid : (w.frameHdr e != 0) = true
    · rw [if_pos hmid] at hlatch
      obtain rfl : p = (0x480, w.latchBytes e) := by simpa using hlatch
      simp [latchBytes_length]
    · rw [if_neg hmid] at hlatch
      simp at hlatch

/-- Only L1, the operations under way and their numbers differ. -/
def State.frameOnly (s t : State) : Prop := t = { s with nextId := t.nextId, ops := t.ops, l1 := t.l1 }

theorem State.frameOnly.trans {s t u : State} (h : s.frameOnly t) (g : t.frameOnly u) : s.frameOnly u := by
  unfold State.frameOnly at *
  rw [g, h]

theorem State.frameOnly.agree {s t : State} (h : s.frameOnly t) :
    t.cur = s.cur ∧ (∀ k, t.warp k = s.warp k) ∧ (∀ a, t.peek a = s.peek a) ∧ t.scratch = s.scratch ∧ t.gspace = s.gspace := by
  unfold State.frameOnly at h
  rw [h]
  exact ⟨rfl, fun _ => rfl, fun _ => rfl, rfl, rfl⟩

theorem frameOnly_foldl {α : Type} {f : State → α → State} (h : ∀ s x, State.frameOnly s (f s x)) (xs : List α) (s : State) :
    s.frameOnly (xs.foldl f s) := by
  induction xs generalizing s with
  | nil => rfl
  | cons x xs ih => exact (h s x).trans (ih (f s x))

theorem frameOnly_l1Store (s : State) (core vf asid va : Nat) (ws : List (Nat × List Byte)) (b : Bnd) :
    s.frameOnly (s.l1Store core vf asid va ws b) := by
  rw [State.l1Store]
  split <;> rfl

theorem frameOnly_frameToL1 (s : State) (core vf asid : Nat) (base : DWord) (parts : List (Nat × List Byte)) :
    s.frameOnly (s.frameToL1 core vf asid base parts) := by
  rw [State.frameToL1]
  exact frameOnly_foldl (fun s p => frameOnly_foldl (fun s i => frameOnly_l1Store s _ _ _ _ _ _) _ s) _ _

/-- The warp once its frame stores are sent (R388 step 2). -/
def Warp.trapEntering (w : Warp) (e : TrapInfo) (time id : Nat) : Warp :=
  { w.updThrs e.group (fun _ th => { th with st := .trapWait }) with
    trap := some ({ e with head := w.frameHead e time }, .entering [id]), issue := 0, seq := w.seq + 1,
    turn := if e.group &&& w.turnMask = 0 then w.turn else 0, turnMask := if e.group &&& w.turnMask = 0 then w.turnMask else 0,
    hold := match w.hold with | .fence _ => .none | h => h }

/-- The state with the frame of a trap on its way (R388 step 1). -/
def State.frameSent (s : State) (e : TrapInfo) : State :=
  let sp := s.space s.cw
  let parts := s.cw.frameParts e s.time
  (s.fresh.2.setOp s.nextId { s.cw.frameOp s.cur sp.1 sp.2 .frameSt (frameLanes s.cw.tframe parts) with seq := s.cw.seq + 1 }).frameToL1
    (coreOf s.cur) sp.1 sp.2 s.cw.tframe parts

theorem frameOnly_frameSent (s : State) (e : TrapInfo) : s.frameOnly (s.frameSent e) := by
  have hsent : s.frameOnly (s.fresh.2.setOp s.nextId { s.cw.frameOp s.cur (s.space s.cw).1 (s.space s.cw).2 .frameSt
    (frameLanes s.cw.tframe (s.cw.frameParts e s.time)) with seq := s.cw.seq + 1 }) := rfl
  exact hsent.trans (frameOnly_frameToL1 _ _ _ _ _ _)

theorem enterTrap_ready {s : State} {e : TrapInfo} (h : handlerReady s.cw) (hrecs : e.recs = []) :
    s.enterTrap s.cur e = (s.frameSent e).updWarp s.cur fun w => w.trapEntering e (s.frameSent e).time s.nextId := by
  obtain ⟨hvec, hframe, hal, hroom, -, -⟩ := h
  have hset : (s.cw.tvec = 0 || s.cw.tframe = 0 || s.cw.tframe.toNat % 128 ≠ 0) = false := by
    rw [decide_eq_false hvec, decide_eq_false hframe, decide_eq_false (not_not.2 hal)]
    rfl
  have hfits : ((s.cw.frameParts e s.time).any fun p => 2 ^ 52 < s.cw.tframe.toNat + p.1 + p.2.length) = false := by
    refine List.any_eq_false.2 fun p hp => ?_
    have := frameParts_bound hrecs p hp
    simp only [decide_eq_true_eq]
    omega
  rw [State.enterTrap]
  exact (if_neg (ne_true_of_eq_false hset)).trans (if_neg (ne_true_of_eq_false hfits))

theorem entersTrap_takeTrap {s : State} {code : Nat} {e : TrapInfo} (htrap : s.cw.trap = none) (hready : handlerReady s.cw)
    (hcode : e.code = BitVec.ofNat 16 code) (hpc : e.pc = s.cw.pc) (hgroup : e.group = s.cw.issue) (hrecs : e.recs = []) :
    s.entersTrap (s.takeTrap e) code { e with head := s.cw.frameHead e (s.frameSent e).time } := by
  have hqueue : s.cw.trapQueue = [] := hready.2.2.2.2.1
  have hout : s.cw.inTrap = false := by rw [Warp.inTrap, htrap]
  obtain ⟨hcur, hwarp, hpeek, hscratch, hgspace⟩ := (frameOnly_frameSent s e).agree
  have htaken : s.takeTrap e = (s.frameSent e).updWarp s.cur fun w => w.trapEntering e (s.frameSent e).time s.nextId := by
    rw [State.takeTrap, hout, hqueue, if_neg Bool.false_ne_true, if_pos rfl, enterTrap_ready hready hrecs]
  have hcw : (s.takeTrap e).cw = s.cw.trapEntering e (s.frameSent e).time s.nextId := by
    have hsame : (s.takeTrap e).cur = s.cur := by rw [htaken]; exact hcur
    rw [State.cw, hsame, htaken, State.warp_updWarp_same, hwarp, State.cw]
  rw [State.entersTrap, registersKept, hcw, Warp.trapEntering, updThrs_threads, htaken]
  exact ⟨⟨_, rfl⟩, hcode, hpc, hgroup, ⟨rfl, rfl, rfl, rfl⟩, rfl, rfl, rfl, hpeek, hscratch, hgspace, hcur⟩

/-! ## Branches, settled -/

theorem s64_setS64 (w : Warp) (r : Nat) (x : DWord) : (w.setS64 r x).s64 r = x := by
  have hne : r ≠ r + 1 := by omega
  rw [Warp.s64, Warp.setS64, Warp.s_setS_same, Warp.s_setS_other _ _ _ _ hne, Warp.s_setS_same]
  apply BitVec.eq_of_toNat_eq
  have := x.isLt
  simp only [BitVec.toNat_append, BitVec.toNat_ofNat, BitVec.toNat_setWidth]
  rw [← Nat.shiftLeft_add_eq_or_of_lt (Nat.mod_lt _ (by decide)), Nat.shiftLeft_eq]
  omega

theorem s_setS64_other {r j : Nat} (h : j ≠ r) (h' : j ≠ r + 1) (w : Warp) (x : DWord) : (w.setS64 r x).s j = w.s j := by
  rw [Warp.setS64, Warp.s_setS_other _ _ _ _ h', Warp.s_setS_other _ _ _ _ h]

theorem linkedIf_true (s : State) : s.linkedIf true = s.updCw fun w => w.setS64 62 (s.cw.pc + 4) := rfl

/-- The address of the next word is in s62:63 when the branch links, and no other register is written. -/
theorem linkedIf_kept (s : State) (link : Bool) :
    (s.linkedIf link).cw.s64 62 = (if link = true then s.cw.pc + 4 else s.cw.s64 62) ∧
      (∀ r, r ≠ 62 → r ≠ 63 → (s.linkedIf link).cw.s r = s.cw.s r) ∧ (s.linkedIf link).cw.vregs = s.cw.vregs ∧
      (s.linkedIf link).cw.sc = s.cw.sc ∧ (s.linkedIf link).cw.kregs = s.cw.kregs ∧ s.cw.specialsKept (s.linkedIf link).cw ∧
      s.onlyCw (s.linkedIf link) := by
  cases link with
  | false =>
    exact ⟨rfl, fun _ _ _ => rfl, rfl, rfl, rfl, ⟨rfl, rfl, rfl, rfl, rfl, rfl, rfl, rfl, rfl, rfl, rfl, rfl, rfl, rfl, rfl, rfl, rfl⟩,
      State.onlyCw.refl s⟩
  | true =>
    rw [linkedIf_true, State.cw_updCw]
    exact ⟨s64_setS64 _ _ _, fun r h62 h63 => s_setS64_other h62 h63 _ _, rfl, rfl, rfl,
      ⟨rfl, rfl, rfl, rfl, rfl, rfl, rfl, rfl, rfl, rfl, rfl, rfl, rfl, rfl, rfl, rfl, rfl⟩, onlyCw_updCw _ _⟩

theorem linkedIf_thr (s : State) (link : Bool) (l : Nat) : (s.linkedIf link).cw.thr l = s.cw.thr l := by
  cases link with
  | false => rfl
  | true => rw [linkedIf_true, State.cw_updCw]; rfl

theorem linkedIf_issue (s : State) (link : Bool) : (s.linkedIf link).cw.issue = s.cw.issue := by
  cases link with
  | false => rfl
  | true => rw [linkedIf_true, State.cw_updCw]; rfl

/-- A branch that is taken at no thread, or at a clause header, parts the group at the target that it names. -/
theorem exec_of_branchOf_header {i : Instr} {s : State} {tgt : DWord} {m : Mask} {link : Bool} {w : Word}
    (h : branchOf s.cw i = some (tgt, m, link)) (hc : s.clear (branchUses i))
    (ht : m = 0 ∨ (tgt.toNat % 4 = 0 ∧ s.atHand tgt.toNat w ∧ isHeader w = true)) :
    ∃ sel, m = s.cw.issue &&& sel ∧ exec i s = .next ((s.linkedIf (decide (link = true ∧ m ≠ 0))).branch tgt sel) := by
  obtain ⟨sel, hm, hexec⟩ := exec_of_branchOf h hc
  by_cases hnone : m = 0
  · refine ⟨0, by rw [hnone]; exact BitVec.and_zero.symm, ?_⟩
    rw [hexec, branchTo_none (hm.symm.trans hnone), decide_eq_false fun hlink => hlink.2 hnone]
    rfl
  · obtain ⟨hal, hhand, hheader⟩ := ht.resolve_left hnone
    refine ⟨sel, hm, ?_⟩
    have htaken : decide (link = true ∧ m ≠ 0) = link := by rw [Bool.decide_and, decide_eq_true hnone, Bool.and_true]; simp
    rw [hexec, htaken, branchTo_header (hm ▸ hnone) hal hhand hheader]

/-- Where the threads of the issuing warp stand after a branch. -/
theorem branch_places (s : State) (tgt : DWord) (sel : Mask) :
    (∀ l, s.cw.issue.getLsbD l = true → ((s.branch tgt sel).cw.thr l).pc =
        if (s.cw.issue &&& sel).getLsbD l = true then tgt else (s.cw.thr l).pc + 4) ∧
      (∀ l, (s.cw.issue &&& sel).getLsbD l = true → ((s.branch tgt sel).cw.thr l).cl = none) ∧
      (∀ l, s.cw.issue.getLsbD l = false → ((s.branch tgt sel).cw.thr l).pc = (s.cw.thr l).pc) := by
  refine ⟨fun l hl => ?_, fun l hl => ?_, fun l hl => ?_⟩
  · rw [(branch_thr s tgt sel l).1]
    split
    · next hsel => exact (parted_moved hsel tgt s.stamp).1
    · next hsel => exact parted_next hl (Bool.eq_false_iff.2 hsel) tgt s.stamp
  · rw [(branch_thr s tgt sel l).2]
    exact (parted_moved hl tgt s.stamp).2
  · rw [(branch_thr s tgt sel l).1, parted_other hl]

/-- Settles O16: the form decides the threads that it selects and the target; the branch of R252 then parts the group, and a target that
is no clause header or out of range goes to trap entry in its place. -/
theorem branches : Obligations.Branches := by
  unfold Obligations.Branches
  constructor
  · intro i s tgt m link w hform hclear htarget
    obtain ⟨sel, hm, hexec⟩ := exec_of_branchOf_header hform hclear htarget
    generalize hlk : decide (link = true ∧ m ≠ 0) = lk at hexec
    obtain ⟨hmoved, hout, hother⟩ := branch_places (s.linkedIf lk) tgt sel
    simp only [linkedIf_thr, linkedIf_issue, ← hm] at hmoved hout hother
    obtain ⟨hlink, hs, hv, hsc, hk, hspecials, honly⟩ := linkedIf_kept s lk
    have hplace := branch_place (s.linkedIf lk) tgt sel
    obtain ⟨pv, ps, psc, pk⟩ := hplace.registers
    have hreg : ∀ r, ((s.linkedIf lk).branch tgt sel).cw.s r = (s.linkedIf lk).cw.s r := fun r => by rw [Warp.s, ps, Warp.s]
    refine ⟨_, hexec, hmoved, hout, hother, ?_, fun r h62 h63 => (hreg r).trans (hs r h62 h63), pv.trans hv, psc.trans hsc, pk.trans hk, ?_, ?_⟩
    · rw [Warp.s64, hreg, hreg, ← Warp.s64, hlink, ← hlk]
      simp only [decide_eq_true_eq]
    · exact hspecials.trans hplace.specialsKept
    · exact honly.trans (onlyCw_branch _ _ _)
  · intro i s tgt m link hform hclear hm htrap hready
    obtain ⟨sel, hsel, hexec⟩ := exec_of_branchOf hform hclear
    refine ⟨fun hbad => ?_, fun hal hrange => ?_⟩
    · exact ⟨_, _, hexec.trans (congrArg _ (branchTo_notHeader (hsel ▸ hm) hbad link)),
        entersTrap_takeTrap htrap hready rfl rfl rfl rfl, rfl, rfl⟩
    · exact ⟨_, _, hexec.trans (congrArg _ (branchTo_range (hsel ▸ hm) hal hrange link)),
        entersTrap_takeTrap htrap hready rfl rfl rfl rfl, rfl, rfl⟩

end Sys2Proof.Machine
end

section
/-! PROOFS. A warp's end that frees its slot for a waiting cluster: the cluster table of the counterexample to O22. -/

namespace Sys2Proof.Machine

/-- A launch header of one cluster of one block of one warp (R333, R334). -/
def oneWarpHeader : List Byte :=
  let bytes : Map Byte := [(6, 0x10), (0x68, 1), (0x6C, 1), (0x6E, 1), (0x74, 1), (0x78, 1)]
  (List.range 128).map fun i => Map.get bytes 0 i

/-- A running launch none of whose clusters is placed yet. -/
def waitingLaunch : Launch :=
  { newLaunch 0 0 0 0 0 oneWarpHeader none with st := .running, started := true }

/-- A warp of one thread that has armed cluster barrier 0, in cluster 1. The cluster table lists 1 twice: the entry that is read holds the
arrival, and behind it stands one that is leaving, which keeps the waiting launch out of the dispatch order. When the thread exits its
arrival is taken back, the entry read becomes the default, and with that both entries go. -/
def shadowedCluster : State :=
  { State.reset with
    warps := [(0, { Warp.empty with live := true, active := true, uid := 1, block := 1, issue := 1,
                                    threads := [(0, { Thread.idle with st := .running, armC := 1 })] })],
    blocks := [(1, { Block.none with live := true, launch := 1, cluster := 1, warps := 2 })],
    clusters := [(1, { Cluster.none with bars := [(0, ⟨false, 1⟩)] }),
                 (1, { Cluster.none with live := true, launch := 1, preempt := true })],
    launches := [(1, waitingLaunch)],
    hub := { Hub.reset with ready := 0x1000000, parts := [(0, 0x80000001)] } }

/-- No cluster waits for a place before the thread exits. -/
theorem shadowedCluster_dispatchOrder : shadowedCluster.dispatchOrder = [] := List.length_eq_zero_iff.1 (by decide +kernel)

/-- When its only thread has exited the slot holds a live warp: the first of the waiting launch. -/
theorem shadowedCluster_slot_taken :
    ((Out.or (exec (.tail ⟨0, false⟩) shadowedCluster) shadowedCluster).warp 0).live = true := by decide +kernel

/-- Refutes O22: at `shadowedCluster` the slot of the warp that ends (second clause of `tail`) is not free after it. The statement is of
every state, also of one whose cluster table lists a cluster twice, so that `dispatchOrder = []` before the exit need not hold when the
block and its cluster have been brought up to date: the launch that waited then places a warp in the slot at once. -/
theorem not_exitAndSleep : ¬ Obligations.ExitAndSleep := by
  unfold Obligations.ExitAndSleep
  rintro ⟨htail, -⟩
  obtain ⟨t, hexec, hfree, -⟩ := (htail shadowedCluster ⟨0, false⟩ rfl (by decide +kernel) (by decide +kernel) rfl fun _ => rfl).2
    (by decide +kernel) (by decide +kernel) shadowedCluster_dispatchOrder
  have htaken := shadowedCluster_slot_taken
  rw [hexec] at htaken
  exact Bool.false_ne_true (hfree.symm.trans htaken)

end Sys2Proof.Machine
end

section
/-! PROOFS. A turn of a warp: what its step runs, and what becomes of the pairs. -/

namespace Sys2Proof.Machine

/-! ## A turn, and the pairs that follow it (R338) -/

theorem step_issue {s : State} {k : Nat} {rest : List Turn} (h : s.turns = .issue k :: rest) :
    step s = ({ s with turns := rest } : State).issueOf k := by
  rw [step, h]; rfl

/-- A calm step needs no trailing warp to catch up first. -/
theorem paired_calm {s t : State} {own : Nat} {f : State → Out} (hf : f s = .next t) (hc : s.calm t own) :
    s.paired (some own) f = .next (s.mirror t (some own)) := by
  have hany : ((s.pairs.filter fun p => some own ≠ some p.1).any fun p => s.disturbed t p.1) = false := by
    rw [List.any_eq_false]
    intro p hp
    rw [List.mem_filter] at hp
    have hne : p.1 ≠ own := fun h => by simp [h] at hp
    rw [hc p hp.1 hne]; exact Bool.false_ne_true
  rw [State.paired, hf]
  dsimp only
  rw [hany, if_neg Bool.false_ne_true]

theorem mirror_of_no_pairs {t : State} (h : t.pairs = []) (s : State) (own : Option Nat) : s.mirror t own = t := by
  rw [State.mirror, h, List.foldl_nil]

theorem leadSlot_solo {s : State} {k : Nat} (h : (s.warp k).role = .solo) : s.leadSlot k = k := by rw [State.leadSlot, h]
theorem leadSlot_leading {s : State} {k b : Nat} (h : (s.warp k).role = .leading b) : s.leadSlot k = k := by rw [State.leadSlot, h]
theorem leadSlot_trailing {s : State} {k a : Nat} (h : (s.warp k).role = .trailing a) : s.leadSlot k = a := by rw [State.leadSlot, h]

/-- A step of a warp with the turn: what the issue of its slot answers, and the pairs after it. -/
theorem step_of_issueSlot {s t : State} {k own : Nat} {rest : List Turn} (h : s.turns = .issue k :: rest)
    (hl : ({ s with turns := rest } : State).leadSlot k = own) (hi : ({ s with turns := rest } : State).issueSlot k = .next t)
    (hc : ({ s with turns := rest } : State).calm t own) :
    step s = .next (({ s with turns := rest } : State).mirror t (some own)) := by
  rw [step_issue h, State.issueOf, hl]
  exact paired_calm hi hc

/-! ## The issue of a slot (R33) -/

theorem issueSlot_trailing {s : State} {k a : Nat} (hm : s.mayIssueSlot k = true) (hr : (s.warp k).role = .trailing a) :
    s.issueSlot k = .next (({ s with cur := k } : State).trailStep a k) := by
  rw [State.issueSlot, if_pos hm, hr]

theorem issueSlot_own {s : State} {k : Nat} (hm : s.mayIssueSlot k = true) (hr : ∀ a, (s.warp k).role ≠ .trailing a) :
    s.issueSlot k = ({ s with cur := k } : State).issueCw := by
  rw [State.issueSlot, if_pos hm]
  split
  case h_1 a ha => exact absurd ha (hr a)
  case h_2 => rfl

theorem issueCw_inIssue {s : State} (hi : s.cw.issue ≠ 0) (hx : s.cw.xrelReplays = []) : s.issueCw = s.runGroup := by
  rw [State.issueCw, if_pos hi, hx]

/-- A group in issue, of a warp that follows no other: its turn runs what stands at its PC. -/
theorem issueSlot_runGroup {s : State} {k : Nat} (hm : s.mayIssueSlot k = true) (hi : (s.warp k).issue ≠ 0)
    (hx : (s.warp k).xrelReplays = []) (hr : ∀ a, (s.warp k).role ≠ .trailing a) :
    s.issueSlot k = ({ s with cur := k } : State).runGroup := by
  rw [issueSlot_own hm hr]
  exact issueCw_inIssue hi hx

/-! ## What stands at the PC (R160, R182) -/

theorem instrAt_of_ok {cls : BitVec 3} {last : Bool} {w0 w1 : Word} {i : Instr} (h : decodeAt cls last w0 w1 = .ok i) :
    instrAt cls last w0 w1 = i := by rw [instrAt, h]

theorem instrAt_of_error {cls : BitVec 3} {last : Bool} {w0 w1 : Word} {e : IllCause} (h : decodeAt cls last w0 w1 = .error e) :
    instrAt cls last w0 w1 = .noInstructionWord := by rw [instrAt, h]

theorem runGroup_clause {s : State} {c : Clause} (hc : s.cw.clause = some c) (hn : c.n ≠ 0) :
    s.runGroup = s.runInstr (instrAt c.cls (s.cw.isLast c) (c.word s.cw.pc) (c.word (s.cw.pc + 4))) := by
  rw [State.runGroup, hc]
  exact if_neg hn

theorem runGroup_decoded {s : State} {c : Clause} {i : Instr} (hc : s.cw.clause = some c) (hn : c.n ≠ 0) (hd : s.cw.decoded c = .ok i) :
    s.runGroup = s.runInstr i := (runGroup_clause hc hn).trans (congrArg s.runInstr (instrAt_of_ok hd))

theorem runGroup_noWord {s : State} {c : Clause} {e : IllCause} (hc : s.cw.clause = some c) (hn : c.n ≠ 0)
    (hd : s.cw.decoded c = .error e) : s.runGroup = s.runInstr .noInstructionWord :=
  (runGroup_clause hc hn).trans (congrArg s.runInstr (instrAt_of_error hd))

theorem runGroup_unread {s : State} {c : Clause} (hc : s.cw.clause = some c) (hn : c.n = 0) :
    s.runGroup = .next (s.apart (s.readClause c.hdr)) := by
  rw [State.runGroup, hc]
  exact if_pos hn

theorem runGroup_header {s y : State} {h : Word} (hc : s.cw.clause = none) (hf : s.fetchWord s.cur s.cw.pc.toNat = .ok y h) :
    s.runGroup = y.runInstr (if isHeader h then headerOf h else .noInstructionWord) := by
  rw [State.runGroup, hc]
  dsimp only
  rw [hf]

theorem runInstr_solo {s : State} (h : s.cw.role = .solo) (i : Instr) : s.runInstr i = exec i s := by rw [State.runInstr, h]

theorem runInstr_leading {s : State} {b : Nat} (h : s.cw.role = .leading b) (i : Instr) :
    s.runInstr i = .next (s.runPair i s.cur b) := by rw [State.runInstr, h]

theorem apart_solo {s : State} (h : s.cw.role = .solo) (x : State) : s.apart x = x := by rw [State.apart, h]

/-! ## The obligation -/

/-- Settles O57: it holds. The issue of a slot is the run of its group, or the trailing warp's next step; a calm step is then mirrored to
the other pairs, of which there may be none. -/
theorem stepRunsDecoded : Obligations.StepRunsDecoded := by
  unfold Obligations.StepRunsDecoded
  intro s k rest c z x w hturn hmay hissue hreplays
  have hsolo (h : w.role = .solo) (a : Nat) : w.role ≠ .trailing a := by rw [h]; exact Role.noConfusion
  have hlead (b : Nat) (h : w.role = .leading b) (a : Nat) : w.role ≠ .trailing a := by rw [h]; exact Role.noConfusion
  have hrun (h : ∀ a, w.role ≠ .trailing a) : z.issueSlot k = x.runGroup := issueSlot_runGroup hmay hissue hreplays h
  refine ⟨?solo, ?leading, ?trailing, ?noWord, ?unread, ?unreadPair, ?header⟩
  case solo =>
    intro i hc hn hd hr t ht hcalm
    have hslot : z.issueSlot k = .next t := by
      rw [hrun (hsolo hr), runGroup_decoded (s := x) hc hn hd, runInstr_solo (s := x) hr, ht]
    have hstep := step_of_issueSlot hturn (leadSlot_solo hr) hslot hcalm
    exact ⟨hstep, fun hp => by rw [hstep, mirror_of_no_pairs hp]⟩
  case leading =>
    intro i b hc hn hd hr hcalm
    have hslot : z.issueSlot k = .next (x.runPair i k b) := by
      rw [hrun (hlead b hr), runGroup_decoded (s := x) hc hn hd, runInstr_leading (s := x) hr]
    exact step_of_issueSlot hturn (leadSlot_leading hr) hslot hcalm
  case trailing =>
    intro a hr hcalm
    exact step_of_issueSlot hturn (leadSlot_trailing hr) (issueSlot_trailing hmay hr) hcalm
  case noWord =>
    intro e hc hn hd hr t ht hcalm hp
    have hslot : z.issueSlot k = .next t := by
      rw [hrun (hsolo hr), runGroup_noWord (s := x) hc hn hd, runInstr_solo (s := x) hr, ht]
    rw [step_of_issueSlot hturn (leadSlot_solo hr) hslot hcalm, mirror_of_no_pairs hp]
  case unread =>
    intro hc hn hr hcalm
    have hslot : z.issueSlot k = .next (x.readClause c.hdr) := by
      rw [hrun (hsolo hr), runGroup_unread (s := x) hc hn, apart_solo (s := x) hr]
    exact step_of_issueSlot hturn (leadSlot_solo hr) hslot hcalm
  case unreadPair =>
    intro b hc hn hr hcalm
    have hslot : z.issueSlot k = .next (x.apart (x.readClause c.hdr)) := by
      rw [hrun (hlead b hr), runGroup_unread (s := x) hc hn]
    exact step_of_issueSlot hturn (leadSlot_leading hr) hslot hcalm
  case header =>
    intro y h hc hf hr hy t ht hcalm hp
    have hslot : z.issueSlot k = .next t := by
      rw [hrun (hsolo hr), runGroup_header (s := x) hc hf, runInstr_solo hy, ht]
    rw [step_of_issueSlot hturn (leadSlot_solo hr) hslot hcalm, mirror_of_no_pairs hp]

end Sys2Proof.Machine
end

section
/-! PROOFS. Special registers: what `sysw` and `budget` write, in the form that it is stored in, and what they leave alone. -/

namespace Sys2Proof.Machine

/-! ## A change of the issuing warp and the end of its instruction -/

theorem onlyCw_updCw_finish (s : State) (f : Warp → Warp) (n : Nat) : s.onlyCw ((s.updCw f).finish n) :=
  (onlyCw_updCw s f).trans (onlyCw_finish _ n)

theorem updCw_finish_place (s : State) (f : Warp → Warp) (n : Nat) : (f s.cw).sameButPlace ((s.updCw f).finish n).cw := by
  have h := finish_place (s.updCw f) n
  rwa [State.cw_updCw] at h

theorem movesOn_finish (s : State) (n : Nat) : s.movesOn (s.finish n) n := fun l hl hs => finish_pc s n l hl hs

/-- A change of the warp that leaves its issuing group and its threads in place does not keep them from moving on. -/
theorem movesOn_updCw_finish {s : State} {f : Warp → Warp} (hissue : (f s.cw).issue = s.cw.issue)
    (hthreads : (f s.cw).threads = s.cw.threads) (n : Nat) : s.movesOn ((s.updCw f).finish n) n := by
  have hthr : ∀ l, (s.updCw f).cw.thr l = s.cw.thr l := fun l => by rw [State.cw_updCw, Warp.thr, hthreads, Warp.thr]
  intro l hl hs
  rw [finish_pc (s.updCw f) n l (by rw [State.cw_updCw, hissue]; exact hl) (by rw [hthr]; exact hs), hthr]

theorem controlKept_finish (s : State) (n : Nat) : controlKept s (s.finish n) :=
  ⟨(finish_place s n).registers, (finish_place s n).specialsKept, onlyCw_finish s n⟩

/-! ## Special registers (R67, R68, R70, R309) -/

theorem exec_sysw (idx : BitVec 8) (src : Src) (s : State) : exec (.sysw idx src) s = execSysw idx src s := rfl

theorem exec_budget (src : Src) (s : State) : exec (.budget src) s = execBudget src s := rfl

/-- What a write of special registers may change of a warp (R309). -/
def Warp.sameButSpecials (w x : Warp) : Prop :=
  x = { w with exm := x.exm, unc := x.unc, budget := x.budget, medge := x.medge, tvec := x.tvec, tframe := x.tframe }

theorem specialWritten_finish {s : State} {w : Warp} (h : s.cw.sameButSpecials w) :
    specialWritten w s ((s.updCw fun _ => w).finish 1) := by
  have hplace := updCw_finish_place s (fun _ => w) 1
  obtain ⟨hv, hs, hsc, hk⟩ := hplace.registers
  obtain ⟨hmem, hout⟩ := onlyCw_updCw_finish s (fun _ => w) 1
  unfold Warp.sameButSpecials at h
  refine ⟨hplace.specialsKept, ⟨hv.trans ?_, hs.trans ?_, hsc.trans ?_, hk.trans ?_⟩, hmem, hout,
    movesOn_updCw_finish (f := fun _ => w) ?_ ?_ 1⟩
  all_goals rw [h]

theorem clampEdge_eq_edgeOf (v : Word) : clampEdge v = edgeOf v := by
  rw [clampEdge, edgeOf, bitsOf, bitsOf, Nat.pow_zero, Nat.div_one, Nat.mul_comm (min _ 512)]
  rfl

theorem setWidth_word (v : Word) : (v.setWidth 64).setWidth 32 = v := by
  rw [BitVec.setWidth_setWidth_of_le v (by decide), BitVec.setWidth_eq]

theorem setSpr_exm (w : Warp) (v : Word) : w.setSpr 0x08 (v.setWidth 64) = some { w with exm := v } := by
  rw [Warp.setSpr, setWidth_word]

theorem setSpr_unc (w : Warp) (v : Word) : w.setSpr 0x09 (v.setWidth 64) = some { w with unc := v } := by
  rw [Warp.setSpr, setWidth_word]

theorem setSpr_budget (w : Warp) (v : Word) : w.setSpr 0x0A (v.setWidth 64) = some { w with budget := v &&& 0xFFFF0FFF } := by
  rw [Warp.setSpr, setWidth_word]
  rfl

theorem setSpr_medge (w : Warp) (v : Word) : w.setSpr 0x0D (v.setWidth 64) = some { w with medge := edgeOf v } := by
  rw [Warp.setSpr, setWidth_word, clampEdge_eq_edgeOf]

theorem setSpr_tvec (w : Warp) (v : DWord) : w.setSpr 0x0F v = some { w with tvec := v &&& 0x000FFFFFFFFFFFFC } := rfl

theorem setSpr_tframe (w : Warp) (v : DWord) : w.setSpr 0x10 v = some { w with tframe := v &&& 0x000FFFFFFFFFFFFC } := rfl

/-- The value that `sysw` writes: a pair where the register is a doubleword (R309). -/
def Warp.syswValue (w : Warp) (idx : BitVec 8) (src : Src) : DWord :=
  if sprKind idx.toNat == .dword then w.rdS64 src else (w.rdS src).setWidth 64

/-- The registers that `sysw` reads. -/
def syswUses (idx : BitVec 8) (src : Src) : Uses := Uses.none.src (if sprKind idx.toNat == .dword then 2 else 1) src

theorem execSysw_written {s : State} {idx : BitVec 8} {src : Src} {w : Warp} (hc : s.clear (syswUses idx src))
    (hw : s.cw.setSpr idx.toNat (s.cw.syswValue idx src) = some w) :
    execSysw idx src s = .next ((s.updCw fun _ => w).finish 1) := by
  refine congrArg Host.Outcome.next ((guard_of_clear hc _).trans ?_)
  rw [Warp.syswValue] at hw
  rw [hw]

theorem execSysw_refused {s : State} {idx : BitVec 8} {src : Src} (hc : s.clear (syswUses idx src))
    (hw : s.cw.setSpr idx.toNat (s.cw.syswValue idx src) = none) : execSysw idx src s = .next (s.illegal 0x0E) := by
  refine congrArg Host.Outcome.next ((guard_of_clear hc _).trans ?_)
  rw [Warp.syswValue] at hw
  rw [hw]

/-- `sysw` of a register that takes `w` as the warp's new special registers. -/
theorem sysw_effect {s : State} {idx : BitVec 8} {src : Src} {w : Warp} (hc : s.clear (syswUses idx src))
    (hw : s.cw.setSpr idx.toNat (s.cw.syswValue idx src) = some w) (hkept : s.cw.sameButSpecials w) :
    ∃ t, exec (.sysw idx src) s = .next t ∧ specialWritten w s t :=
  ⟨_, (exec_sysw idx src s).trans (execSysw_written hc hw), specialWritten_finish hkept⟩

theorem budget_effect {s : State} {src : Src} (hc : s.clear (Uses.none.src 1 src)) :
    ∃ t, exec (.budget src) s = .next t ∧ specialWritten { s.cw with budget := s.cw.rdS src &&& 0xFFFF0FFF } s t :=
  ⟨_, (exec_budget src s).trans (congrArg Host.Outcome.next (guard_of_clear hc _)),
    specialWritten_finish (w := { s.cw with budget := s.cw.rdS src &&& 0xFFFF0FFF }) rfl⟩

/-- Every register that can be written is one of six (R67, R309). -/
theorem setSpr_writable {w x : Warp} {i : Nat} {v : DWord} (h : w.setSpr i v = some x) : i ∈ [0x08, 0x09, 0x0A, 0x0D, 0x0F, 0x10] := by
  unfold Warp.setSpr at h
  split at h
  case h_7 => cases h
  all_goals decide

theorem setSpr_none {idx : BitVec 8} (h : idx ∉ [(0x08 : BitVec 8), 0x09, 0x0A, 0x0D, 0x0F, 0x10]) (w : Warp) (v : DWord) :
    w.setSpr idx.toNat v = none := by
  have hlisted : ∀ i : BitVec 8, i.toNat ∈ [0x08, 0x09, 0x0A, 0x0D, 0x0F, 0x10] → i ∈ [(0x08 : BitVec 8), 0x09, 0x0A, 0x0D, 0x0F, 0x10] := by
    decide
  exact Option.eq_none_iff_forall_ne_some.2 fun x hx => h (hlisted idx (setSpr_writable hx))

/-- Of the registers that cannot be written, those at 0x11 and 0x12 are doublewords (R67). -/
theorem syswUses_readOnly {idx : BitVec 8} (h : idx ∉ [(0x08 : BitVec 8), 0x09, 0x0A, 0x0D, 0x0F, 0x10]) (src : Src) :
    syswUses idx src = Uses.none.src (if idx = 0x11 ∨ idx = 0x12 then 2 else 1) src := by
  have hkind : ∀ i : BitVec 8, i ∉ [(0x08 : BitVec 8), 0x09, 0x0A, 0x0D, 0x0F, 0x10] →
      (if sprKind i.toNat == .dword then 2 else 1) = if i = 0x11 ∨ i = 0x12 then 2 else 1 := by decide
  rw [syswUses, hkind idx h]

/-- Settles O25: each of the six writable registers takes its value as stored, and the write of any other traps at issue. -/
theorem specialWrites : Obligations.SpecialWrites := by
  unfold Obligations.SpecialWrites
  intro s src
  refine ⟨fun hword => ⟨?exm, ?unc, ?sysw, budget_effect hword, ?medge⟩, fun hpair => ⟨?tvec, ?tframe⟩, ?refused⟩
  case exm => exact sysw_effect hword (setSpr_exm _ _) rfl
  case unc => exact sysw_effect hword (setSpr_unc _ _) rfl
  case sysw => exact sysw_effect hword (setSpr_budget _ _) rfl
  case medge => exact sysw_effect hword (setSpr_medge _ _) rfl
  case tvec => exact sysw_effect hpair (setSpr_tvec _ _) rfl
  case tframe => exact sysw_effect hpair (setSpr_tframe _ _) rfl
  case refused =>
    intro idx hidx hclear htrap hready
    rw [← syswUses_readOnly hidx] at hclear
    exact ⟨_, _, (exec_sysw idx src s).trans (execSysw_refused hclear (setSpr_none hidx _ _)),
      entersTrap_takeTrap htrap hready rfl rfl rfl rfl, rfl⟩

end Sys2Proof.Machine
end

section
/-! PROOFS. What settling makes of a thread's state, and what the dispatcher changes when it has nothing to place. -/

namespace Sys2Proof.Machine

/-! ## Tables and masks -/

/-- A table read after the keys from `lo` up to `hi` are dropped. -/
theorem Map.get_dropRange {α : Type} (m : Map α) (d : α) (lo hi k : Nat) :
    Map.get (Map.dropRange m lo hi) d k = if lo ≤ k ∧ k < hi then d else Map.get m d k := by
  rw [Map.dropRange]
  induction m with
  | nil => simp
  | cons p m ih =>
    by_cases hkeep : p.1 < lo ∨ hi ≤ p.1
    · rw [List.filter_cons_of_pos (by simpa using hkeep), Map.get_cons, Map.get_cons, ih]
      by_cases hp : p.1 = k
      · rw [if_pos hp, if_pos hp, if_neg (by omega)]
      · rw [if_neg hp, if_neg hp]
    · rw [List.filter_cons_of_neg (by simpa using hkeep), ih, Map.get_cons]
      by_cases hp : p.1 = k
      · rw [if_pos (by omega), if_pos (by omega)]
      · rw [if_neg hp]

/-- A mask's number with the bit of lane `l` added where `p` holds of it. -/
def addMaskBit (p : Nat → Bool) (l x : Nat) : Nat := if p l then x + 2 ^ l else x

/-- The number that `maskOf` forms from the first `n` lanes. -/
def laneSum (p : Nat → Bool) (n : Nat) : Nat := (List.range n).foldr (addMaskBit p) 0

theorem foldr_addMaskBit (p : Nat → Bool) (ls : List Nat) (x : Nat) : ls.foldr (addMaskBit p) x = x + ls.foldr (addMaskBit p) 0 := by
  induction ls with
  | nil => rfl
  | cons l ls ih =>
    rw [List.foldr_cons, List.foldr_cons, ih, addMaskBit, addMaskBit]
    split
    · exact Nat.add_assoc _ _ _
    · rfl

theorem laneSum_succ (p : Nat → Bool) (n : Nat) : laneSum p (n + 1) = 2 ^ n * (p n).toNat + laneSum p n := by
  have hlast : [n].foldr (addMaskBit p) 0 = 2 ^ n * (p n).toNat := by cases hp : p n <;> simp [addMaskBit, hp]
  rw [laneSum, List.range_succ, List.foldr_append, foldr_addMaskBit, hlast, laneSum]

theorem laneSum_lt (p : Nat → Bool) (n : Nat) : laneSum p n < 2 ^ n := by
  induction n with
  | zero => exact Nat.one_pos
  | succ n ih =>
    rw [laneSum_succ, Nat.pow_succ]
    have := Nat.mul_le_mul_left (2 ^ n) (Bool.toNat_le (p n))
    omega

theorem testBit_laneSum (p : Nat → Bool) (n l : Nat) : (laneSum p n).testBit l = (decide (l < n) && p l) := by
  induction n with
  | zero => simp [laneSum]
  | succ n ih =>
    rw [laneSum_succ, Nat.testBit_two_pow_mul_add _ (laneSum_lt p n), ih]
    rcases Nat.lt_trichotomy l n with h | rfl | h
    · simp [h, Nat.lt_succ_of_lt h]
    · cases p l <;> simp
    · have hl : l - n ≠ 0 := by omega
      rw [if_neg (by omega), decide_eq_false (by omega), Bool.false_and]
      exact Nat.testBit_lt_two_pow (Nat.lt_of_le_of_lt (Bool.toNat_le _) (Nat.one_lt_two_pow hl))

theorem getLsbD_maskOf (p : Nat → Bool) (l : Nat) : (maskOf p).getLsbD l = (decide (l < 32) && p l) := by
  have hsum : maskOf p = BitVec.ofNat 32 (laneSum p 32) := rfl
  rw [hsum, BitVec.getLsbD_ofNat, testBit_laneSum]
  cases decide (l < 32) <;> rfl

theorem getLsbD_lanes (w : Warp) (p : Thread → Bool) (l : Nat) : (w.lanes p).getLsbD l = (decide (l < 32) && p (w.thr l)) :=
  getLsbD_maskOf _ l

/-! ## What settling makes of a thread's state (R36, R40, R41) -/

/-- A property of a thread's state that the release of meeting points keeps. -/
structure TState.MeetsAlike (P : TState → Prop) : Prop where
  held : P .running → P .heldMr
  met : P .heldMr → P .running

theorem awake_cases (w : Warp) (l : Nat) : w.awake l = .running ∨ w.awake l = .trapped := by
  unfold Warp.awake
  split
  · split
    · exact .inr rfl
    · exact .inl rfl
  · exact .inl rfl

/-- No thread has arrived at a mask wait. -/
def Warp.noArrivals (w : Warp) : Prop := ∀ k, Map.get w.arrive 0 k = 0

theorem kRelease_noArrivals {w : Warp} (h : w.noArrivals) (age k : Nat) : w.kRelease age k = w := by
  unfold Warp.kRelease
  dsimp only
  rw [h k]
  rfl

section
variable {P : TState → Prop} {l : Nat}

theorem kRelease_keeps {w : Warp} (hrun : P .running) (htrap : P .trapped) (h : P (w.thr l).st) (age k : Nat) :
    P ((w.kRelease age k).thr l).st := by
  unfold Warp.kRelease
  dsimp only
  split
  · show P ((w.wake _ age).thr l).st
    rw [Warp.wake, thr_updThrs]
    split
    · rcases awake_cases w l with ha | ha
      · exact ha ▸ hrun
      · exact ha ▸ htrap
    · exact h
  · exact h

theorem updThrs_lanes_keeps {w : Warp} {p : Thread → Bool} {f : Nat → Thread → Thread}
    (hf : p (w.thr l) = true → P (w.thr l).st → P (f l (w.thr l)).st) (h : P (w.thr l).st) : P ((w.updThrs (w.lanes p) f).thr l).st := by
  rw [thr_updThrs, getLsbD_lanes]
  split
  · next hl => exact hf (Bool.and_eq_true_iff.1 hl).2 h
  · exact h

theorem mrHold_keeps {w : Warp} (hP : TState.MeetsAlike P) (h : P (w.thr l).st) : P (w.mrHold.thr l).st := by
  refine updThrs_lanes_keeps (fun hp hst => hP.held ?_) h
  have hrun : (w.thr l).st = .running := by
    simp only [Bool.and_eq_true, beq_iff_eq] at hp
    exact hp.1.1
  exact hrun ▸ hst

theorem mrRelease_keeps {w : Warp} (hP : TState.MeetsAlike P) (h : P (w.thr l).st) (age j : Nat) : P ((w.mrRelease age j).thr l).st := by
  unfold Warp.mrRelease
  dsimp only
  split
  · refine updThrs_lanes_keeps (fun hp hst => hP.met ?_) h
    have hheld : (w.thr l).st = .heldMr := by
      simp only [Bool.and_eq_true, beq_iff_eq] at hp
      exact hp.1
    exact hheld ▸ hst
  · exact h

theorem merge_keeps {w : Warp} (h : P (w.thr l).st) : P (w.merge.thr l).st := by
  unfold Warp.merge
  exact updThrs_lanes_keeps (fun _ hst => hst) h

/-- Settling keeps a property of a thread's state that held and released threads share, if no thread can leave a mask wait or a thread
that leaves one has the property. -/
theorem settle_keeps {w : Warp} (hP : TState.MeetsAlike P) (hk : w.noArrivals ∨ P .running ∧ P .trapped) (h : P (w.thr l).st) (age : Nat) :
    P ((w.settle age).thr l).st := by
  have hwaits : P ((((List.range 11).map (· + 1)).foldl (fun w k => w.kRelease age k) w).thr l).st := by
    rcases hk with hnone | ⟨hrun, htrap⟩
    · rw [List.foldl_fixed' fun k => kRelease_noArrivals hnone age k]
      exact h
    · exact List.foldlRecOn (motive := fun w : Warp => P (w.thr l).st) _ _ h fun w hw k _ => kRelease_keeps hrun htrap hw age k
  have hmeets : P ((w.released age).thr l).st :=
    List.foldlRecOn (motive := fun w : Warp => P (w.thr l).st) _ _ (mrHold_keeps hP hwaits) fun w hw j _ => mrRelease_keeps hP hw age j
  exact merge_keeps hmeets

theorem advance_st (t : Thread) (n : Nat) : (t.advance n).st = t.st := by
  unfold Thread.advance
  dsimp only
  split
  · split <;> rfl
  · rfl

theorem finish_keeps {s : State} (hP : TState.MeetsAlike P) (hk : s.cw.noArrivals ∨ P .running ∧ P .trapped) (h : P (s.cw.thr l).st)
    (n : Nat) : P ((s.finish n).cw.thr l).st := by
  rw [finish_cw]
  dsimp only
  rw [reissue_thr, settleTurn_thr]
  refine settle_keeps hP ?_ ?_ s.stamp
  · rw [updThrs_threads]
    exact hk
  · rw [thr_updThrs]
    split
    · split
      · exact h
      · rw [advance_st]
        exact h
    · exact h

end

theorem meetsAlike_ne_waitX (n : BitVec 2) : TState.MeetsAlike (· ≠ .waitX n) := ⟨fun _ => TState.noConfusion, fun _ => TState.noConfusion⟩

theorem meetsAlike_eq_waitX (n : BitVec 2) : TState.MeetsAlike (· = .waitX n) := ⟨TState.noConfusion, TState.noConfusion⟩

/-! ## The dispatcher with nothing to place (R331, R340, R376) -/

/-- Only clusters and the turns of functions differ. -/
def State.scheduleOnly (s t : State) : Prop := t = { s with clusters := t.clusters, slices := t.slices }

theorem State.scheduleOnly.trans {s t u : State} (h : s.scheduleOnly t) (g : t.scheduleOnly u) : s.scheduleOnly u := by
  unfold State.scheduleOnly at *
  rw [g, h]

theorem State.scheduleOnly.cw {s t : State} (h : s.scheduleOnly t) : t.cw = s.cw := by
  unfold State.scheduleOnly at h
  rw [h]
  rfl

theorem scheduleOnly_foldl {α : Type} {f : State → α → State} (h : ∀ s x, State.scheduleOnly s (f s x)) (xs : List α) (s : State) :
    s.scheduleOnly (xs.foldl f s) :=
  List.foldlRecOn xs f rfl fun t ht x _ => ht.trans (h t x)

theorem scheduleOnly_updCluster (s : State) (c : Nat) (f : Cluster → Cluster) : s.scheduleOnly (s.updCluster c f) := rfl

theorem scheduleOnly_askLeave (s : State) (cs : List Nat) : s.scheduleOnly (s.askLeave cs) :=
  scheduleOnly_foldl (fun s c => scheduleOnly_updCluster s c _) cs s

theorem scheduleOnly_askLate (s : State) : s.scheduleOnly s.askLate := scheduleOnly_foldl (fun s _ => scheduleOnly_askLeave s _) _ s

theorem scheduleOnly_pickVictim {s t : State} {ps : List (Nat × Launch)} (h : s.pickVictim ps = some t) : s.scheduleOnly t := by
  induction ps with
  | nil => cases h
  | cons p ps ih =>
    rw [State.pickVictim] at h
    split at h
    · exact ih h
    · split at h
      · cases h
        exact scheduleOnly_askLeave s _
      · split at h
        · cases h
          exact scheduleOnly_askLeave s _
        · exact ih h

theorem scheduleOnly_roomFor (s : State) (ps : List (Nat × Launch)) : s.scheduleOnly (s.roomFor ps) := by
  induction ps with
  | nil => rfl
  | cons p ps ih =>
    rw [State.roomFor]
    split
    · next h => exact scheduleOnly_pickVictim h
    · split
      · rfl
      · exact ih

theorem scheduleOnly_makeRoom (s : State) : s.scheduleOnly s.makeRoom := by
  refine scheduleOnly_foldl (fun s f => ?_) _ s
  split
  · rfl
  · exact scheduleOnly_roomFor s _

/-- The turns of functions brought up to date before launches are considered (R376). -/
def State.turnsSet (s : State) : State :=
  (List.range 8).foldl (fun s part => match s.turnFunc part with
    | some f => if (Map.get s.slices (0, 0) part).1 = f then s else { s with slices := Map.set s.slices (0, 0) part (f, s.time) }
    | none => s) s

theorem dispatch_eq (s : State) : s.dispatch = (s.turnsSet.askLate.dispatchList s.turnsSet.dispatchOrder []).makeRoom := rfl

theorem turnsSet_slices (s : State) : s.turnsSet = { s with slices := s.turnsSet.slices } := by
  refine List.foldlRecOn (motive := fun t : State => t = { s with slices := t.slices }) _ _ rfl fun t ht part _ => ?_
  split
  · split
    · exact ht
    · rw [ht]
  · exact ht

theorem dispatchOrder_turnsSet (s : State) : s.turnsSet.dispatchOrder = s.dispatchOrder := by
  rw [turnsSet_slices]
  rfl

/-- With no launch to place the dispatcher moves turns and asks clusters to leave, and nothing else. -/
theorem scheduleOnly_dispatch {s : State} (h : s.dispatchOrder = []) : s.scheduleOnly s.dispatch := by
  have hturns : s.scheduleOnly s.turnsSet := by
    rw [turnsSet_slices]
    rfl
  rw [dispatch_eq, dispatchOrder_turnsSet, h, State.dispatchList]
  exact (hturns.trans (scheduleOnly_askLate _)).trans (scheduleOnly_makeRoom _)

end Sys2Proof.Machine
end

section
/-! PROOFS. Extended blocks: `xacq`, the service of its request, and `xrel`. -/

namespace Sys2Proof.Machine

/-! ## Registers of the blocks (R61, R62) -/

theorem exec_xacq (n : BitVec 2) (s : State) : exec (.xacq n) s = execXacq n s := rfl
theorem exec_xacqServed (q : Nat) (s : State) : exec (.xacqServed q) s = execXacqServed q s := rfl
theorem exec_xrel (s : State) : exec .xrel s = execXrel s := rfl

/-- The registers `a` to `b - 1` of a warp dropped read zero and exact, the others as before. -/
theorem v_dropRange {w x : Warp} {a b : Nat} (h : x.vregs = Map.dropRange w.vregs (vkey a 0) (vkey b 0)) {l : Nat} (hl : l < 32) (q : Nat) :
    x.v q l = if a ≤ q ∧ q < b then LV.zero else w.v q l := by
  have hkey : vkey a 0 ≤ vkey q l ∧ vkey q l < vkey b 0 ↔ a ≤ q ∧ q < b := by
    unfold vkey
    omega
  rw [Warp.v, h, Map.get_dropRange, Warp.v]
  simp only [hkey]

/-! ## `xacq` (R313) -/

theorem execXacq_held {s : State} {n : BitVec 2} (h : n.toNat ≤ s.cw.xblocks) : execXacq n s = .next (s.finish 1) :=
  congrArg Host.Outcome.next (if_pos h)

theorem execXacq_taken {s : State} {n : BitVec 2} (h : s.cw.xblocks < n.toNat) (hq : Map.get s.xq [] (quadOf s.cur) = [])
    (hs : s.canSupply s.cur n.toNat = true) : execXacq n s = .next ((s.updCw fun w => w.takeBlocks n.toNat).finish 1) := by
  rw [execXacq, if_neg (Nat.not_le.2 h), if_pos (by rw [hq, hs]; rfl)]

/-- The issuing group waits for extended blocks. -/
def Warp.awaitBlocks (w : Warp) (n : BitVec 2) : Warp := w.updThrs w.issue fun _ t => { t with st := .waitX n }

theorem execXacq_waits {s : State} {n : BitVec 2} (h : s.cw.xblocks < n.toNat)
    (hw : Map.get s.xq [] (quadOf s.cur) ≠ [] ∨ s.canSupply s.cur n.toNat = false) :
    execXacq n s = .next { (s.updCw fun w => w.awaitBlocks n).finish 1 with
      xq := Map.upd s.xq [] (quadOf s.cur) fun l => l ++ [(s.cur, s.cw.issue, n.toNat)] } := by
  have hno : ¬ (decide (Map.get s.xq [] (quadOf s.cur) = []) && s.canSupply s.cur n.toNat) = true := by
    rw [Bool.and_eq_true, decide_eq_true_eq, not_and_or, Bool.not_eq_true]
    exact hw
  rw [execXacq, if_neg (Nat.not_le.2 h), if_neg hno]
  rfl

theorem awaitBlocks_place (w : Warp) (n : BitVec 2) : w.sameButPlace (w.awaitBlocks n) := updThrs_place _ _ _

theorem awaitBlocks_st {w : Warp} {l : Nat} (hl : w.issue.getLsbD l = true) (n : BitVec 2) : ((w.awaitBlocks n).thr l).st = .waitX n := by
  rw [Warp.awaitBlocks, thr_updThrs, if_pos hl]

theorem xacq_waits_effect {s : State} {n : BitVec 2} (h : s.cw.xblocks < n.toNat)
    (hw : Map.get s.xq [] (quadOf s.cur) ≠ [] ∨ s.canSupply s.cur n.toNat = false) (harr : s.cw.noArrivals) :
    ∃ t, exec (.xacq n) s = .next t ∧ controlKept s t ∧
      Map.get t.xq [] (quadOf s.cur) = Map.get s.xq [] (quadOf s.cur) ++ [(s.cur, s.cw.issue, n.toNat)] ∧
      ∀ l, s.cw.issue.getLsbD l = true → (t.cw.thr l).st = .waitX n := by
  have hplace := (awaitBlocks_place s.cw n).trans (updCw_finish_place s (fun w => w.awaitBlocks n) 1)
  refine ⟨_, (exec_xacq n s).trans (execXacq_waits h hw), ⟨hplace.registers, hplace.specialsKept, onlyCw_updCw_finish s _ 1⟩,
    Map.get_upd_same s.xq [] _ (· ++ [(s.cur, s.cw.issue, n.toNat)]), fun l hl => ?_⟩
  refine finish_keeps (P := (· = .waitX n)) (s := s.updCw fun w => w.awaitBlocks n) (meetsAlike_eq_waitX n) (.inl ?_) ?_ 1
  · rw [State.cw_updCw, Warp.awaitBlocks, updThrs_threads]
    exact harr
  · rw [State.cw_updCw]
    exact awaitBlocks_st hl n

theorem xacq_taken_effect {s : State} {n : BitVec 2} (h : s.cw.xblocks < n.toNat) (hq : Map.get s.xq [] (quadOf s.cur) = [])
    (hs : s.canSupply s.cur n.toNat = true) :
    ∃ t, exec (.xacq n) s = .next t ∧ { s.cw with xblocks := n.toNat }.specialsKept t.cw ∧ t.cw.sregs = s.cw.sregs ∧ s.movesOn t 1 ∧
      ∀ q l, l < 32 → t.cw.v q l = if 32 * (s.cw.xblocks + 1) ≤ q ∧ q < 32 * (n.toNat + 1) then LV.zero else s.cw.v q l := by
  have hplace := updCw_finish_place s (fun w => w.takeBlocks n.toNat) 1
  obtain ⟨hv, hsregs, -, -⟩ := hplace.registers
  exact ⟨_, (exec_xacq n s).trans (execXacq_taken h hq hs), hplace.specialsKept, hsregs,
    movesOn_updCw_finish (f := fun w => w.takeBlocks n.toNat) rfl rfl 1, fun q l hl => v_dropRange hv hl q⟩

/-! ## A request served (R313) -/

def TState.waitsForBlocks : TState → Bool
  | .waitX _ => true
  | _ => false

/-- A warp that waited for extended blocks goes on with `n` of them (R313). -/
def Warp.servedBlocks (w : Warp) (m : Mask) (n age : Nat) : Warp :=
  (if w.xblocks < n then w.takeBlocks n else w).wake (m &&& w.lanes fun t => t.st.waitsForBlocks) age

theorem execXacqServed_served {s : State} {q k n : Nat} {m : Mask} {rest : List (Nat × Mask × Nat)}
    (h : Map.get s.xq [] q = (k, m, n) :: rest) (hs : s.canSupply k n = true) :
    execXacqServed q s =
      .next ((({ s with xq := Map.set s.xq [] q rest } : State).updWarp k fun w => w.servedBlocks m n s.stamp).settle k) := by
  rw [execXacqServed, h]
  exact congrArg Host.Outcome.next (if_pos hs)

theorem warp_settle_same (s : State) (k : Nat) : (s.settle k).warp k = (s.warp k).settle s.stamp := by
  rw [State.settle, State.warp_bump, State.warp_updWarp_same]

/-- The warp has the blocks asked for, or the more that it had (R313). -/
theorem servedBlocks_fields (w : Warp) (m : Mask) (n age : Nat) :
    (w.servedBlocks m n age).xblocks = max w.xblocks n ∧ (w.servedBlocks m n age).sregs = w.sregs := by
  rw [Warp.servedBlocks, Warp.wake, updThrs_threads]
  split
  · next h => exact ⟨(Nat.max_eq_right (Nat.le_of_lt h)).symm, rfl⟩
  · next h => exact ⟨(Nat.max_eq_left (Nat.not_lt.1 h)).symm, rfl⟩

theorem servedBlocks_wakes {m : Mask} {l : Nat} (hl : m.getLsbD l = true) (w : Warp) (n age : Nat) (x : BitVec 2) :
    ((w.servedBlocks m n age).thr l).st ≠ .waitX x := by
  have hthr : (if w.xblocks < n then w.takeBlocks n else w).thr l = w.thr l := by split <;> rfl
  have hlane : (m &&& w.lanes fun t => t.st.waitsForBlocks).getLsbD l = (w.thr l).st.waitsForBlocks := by
    rw [BitVec.getLsbD_and, hl, getLsbD_lanes, decide_eq_true (BitVec.lt_of_getLsbD hl), Bool.true_and, Bool.true_and]
  rw [Warp.servedBlocks, Warp.wake, thr_updThrs, hlane, hthr]
  split
  · rcases awake_cases (if w.xblocks < n then w.takeBlocks n else w) l with ha | ha
    · exact ha ▸ TState.noConfusion
    · exact ha ▸ TState.noConfusion
  · next hwait =>
    intro hst
    rw [hst] at hwait
    exact hwait rfl

theorem xacqServed_effect {s : State} {q k n : Nat} {m : Mask} {rest : List (Nat × Mask × Nat)}
    (h : Map.get s.xq [] q = (k, m, n) :: rest) (hs : s.canSupply k n = true) :
    ∃ t, exec (.xacqServed q) s = .next t ∧ Map.get t.xq [] q = rest ∧ (t.warp k).xblocks = max (s.warp k).xblocks n ∧
      (t.warp k).sregs = (s.warp k).sregs ∧ ∀ l, m.getLsbD l = true → ∀ x, ((t.warp k).thr l).st ≠ .waitX x := by
  refine ⟨_, (exec_xacqServed q s).trans (execXacqServed_served h hs), Map.get_set_same _ _ _ _, ?_⟩
  rw [warp_settle_same, State.warp_updWarp_same]
  have hplace := (settles_settle ((s.warp k).servedBlocks m n s.stamp) s.stamp).place
  obtain ⟨-, -, -, -, -, -, -, -, -, hx, -⟩ := hplace.specialsKept
  obtain ⟨-, hsregs, -, -⟩ := hplace.registers
  obtain ⟨hblocks, hkept⟩ := servedBlocks_fields (s.warp k) m n s.stamp
  refine ⟨hx.trans hblocks, hsregs.trans hkept, fun l hl x => ?_⟩
  exact settle_keeps (P := (· ≠ .waitX x)) (meetsAlike_ne_waitX x) (.inr ⟨TState.noConfusion, TState.noConfusion⟩)
    (servedBlocks_wakes hl _ _ _ x) _

/-! ## `xrel` (R314) -/

def Warp.releaseBlocks (w : Warp) : Warp := { w with xblocks := 0, vregs := Map.dropRange w.vregs (vkey 32 0) (vkey 128 0) }

/-- An operation in flight will write a register of the extended blocks (R314). -/
def State.extendedWrite (s : State) : Bool :=
  s.ops.any fun p => p.2.uid = s.cw.uid && p.2.kind.returns && p.2.kind != .sld && 32 ≤ p.2.dst + p.2.dstCount - 1

theorem execXrel_released {s : State} (hw : s.extendedWrite = false) (hp : s.cw.parkedExtended = false) :
    execXrel s = .next ((s.updCw Warp.releaseBlocks).finish 1).dispatch := by
  rw [State.extendedWrite] at hw
  rw [execXrel]
  dsimp only
  rw [hw, hp]
  rfl

theorem xrel_effect {s : State} (hw : s.extendedWrite = false) (hp : s.cw.parkedExtended = false) (hd : s.dispatchOrder = []) :
    ∃ t, exec .xrel s = .next t ∧ { s.cw with xblocks := 0 }.specialsKept t.cw ∧ s.movesOn t 1 ∧ t.cw.sregs = s.cw.sregs ∧
      ∀ q l, l < 32 → t.cw.v q l = if 32 ≤ q ∧ q < 128 then LV.zero else s.cw.v q l := by
  have hplace := updCw_finish_place s Warp.releaseBlocks 1
  obtain ⟨hv, hsregs, -, -⟩ := hplace.registers
  have horder : ((s.updCw Warp.releaseBlocks).finish 1).dispatchOrder = s.dispatchOrder := rfl
  have hcw := (scheduleOnly_dispatch (horder.trans hd)).cw
  refine ⟨_, (exec_xrel s).trans (execXrel_released hw hp), ?_⟩
  rw [State.movesOn, hcw]
  exact ⟨hplace.specialsKept, movesOn_updCw_finish (f := Warp.releaseBlocks) rfl rfl 1, hsregs, fun q l hl => v_dropRange hv hl q⟩

/-- Settles O26: `xacq` finds that it has the blocks, takes them, or waits; a request at the head of its queue is served whole; `xrel`
gives the blocks up, and the dispatcher then finds nothing to place. -/
theorem extendedBlocks : Obligations.ExtendedBlocks := by
  unfold Obligations.ExtendedBlocks
  refine ⟨fun s n => ⟨fun hheld => ?_, xacq_taken_effect, xacq_waits_effect⟩, fun s q k n m rest => xacqServed_effect, fun s => xrel_effect⟩
  exact ⟨_, (exec_xacq n s).trans (execXacq_held hheld), controlKept_finish s 1, movesOn_finish s 1⟩

end Sys2Proof.Machine
end

section
/-! PROOFS. Exact numbers as rationals, and bound16: what a code stands for, and the least code not below a number (R81, R82). -/

namespace Sys2Proof.Machine

/-! ## Exact numbers -/

theorem Dy.at_real {a : Dy} {e : ℤ} (h : e ≤ a.e) : (a.at e : ℚ) * 2 ^ e = a.real := by
  have he : a.e = ((a.e - e).toNat : ℤ) + e := by omega
  rw [Dy.real, he, zpow_add₀ two_ne_zero, zpow_natCast, Dy.at, Int.cast_mul, Int.cast_natCast, Nat.cast_pow, Nat.cast_ofNat, mul_assoc]

@[simp] theorem Dy.real_add (a b : Dy) : (a.add b).real = a.real + b.real := by
  rw [← Dy.at_real (min_le_left a.e b.e), ← Dy.at_real (min_le_right a.e b.e), ← add_mul, ← Int.cast_add]
  rfl

@[simp] theorem Dy.real_mul (a b : Dy) : (a.mul b).real = a.real * b.real := by
  simp only [Dy.real, Dy.mul, Int.cast_mul, zpow_add₀ (two_ne_zero (α := ℚ))]
  ring

@[simp] theorem Dy.real_neg (a : Dy) : a.neg.real = -a.real := by simp [Dy.real, Dy.neg]

@[simp] theorem Dy.real_abs (a : Dy) : a.abs.real = |a.real| := by
  rw [Dy.real, Dy.real, abs_mul, abs_of_pos (zpow_pos (two_pos (α := ℚ)) a.e), Dy.abs, Int.cast_natCast, Nat.cast_natAbs, Int.cast_abs]

@[simp] theorem Dy.real_sub (a b : Dy) : (a.sub b).real = a.real - b.real := by rw [Dy.sub, Dy.real_add, Dy.real_neg, sub_eq_add_neg]

@[simp] theorem Dy.real_scale (a : Dy) (k : ℤ) : (a.scale k).real = a.real * 2 ^ k := by
  rw [Dy.real, Dy.real, Dy.scale, zpow_add₀ two_ne_zero, mul_assoc]

@[simp] theorem Dy.real_dyInt (n : ℤ) : (dyInt n).real = n := by simp [Dy.real, dyInt]

@[simp] theorem Dy.le_iff (a b : Dy) : a.le b = true ↔ a.real ≤ b.real := by
  rw [← Dy.at_real (min_le_left a.e b.e), ← Dy.at_real (min_le_right a.e b.e), mul_le_mul_iff_of_pos_right (zpow_pos two_pos _), Int.cast_le,
    Dy.le, decide_eq_true_eq]

@[simp] theorem Dy.lt_iff (a b : Dy) : a.lt b = true ↔ a.real < b.real := by
  rw [Dy.lt, Bool.not_eq_true', ← Bool.not_eq_true, Dy.le_iff, not_le]

@[simp] theorem Dy.same_iff (a b : Dy) : a.same b = true ↔ a.real = b.real := by
  rw [Dy.same, Bool.and_eq_true, Dy.le_iff, Dy.le_iff, le_antisymm_iff]

/-! ## Magnitudes by code -/

/-- The magnitude that code `c` stands for in a format of `fw` fraction bits whose least positive number is `2 ^ qmin`, were its exponent
unlimited (R74, R78). -/
def codeMag (fw : ℕ) (qmin : ℤ) (c : ℕ) : ℚ :=
  if c / 2 ^ fw = 0 then (c % 2 ^ fw : ℕ) * 2 ^ qmin else (2 ^ fw + (c % 2 ^ fw : ℕ)) * 2 ^ (qmin + (c / 2 ^ fw : ℕ) - 1)

/-- The code of exponent step `j` and mantissa `n`, which may reach into the next binade by its first number. -/
theorem codeMag_step {fw j n : ℕ} (qmin : ℤ) (hlow : j = 0 ∨ 2 ^ fw ≤ n) (hhigh : n ≤ 2 ^ (fw + 1)) :
    codeMag fw qmin (j * 2 ^ fw + n) = n * 2 ^ (qmin + j) := by
  have hpos : 0 < 2 ^ fw := Nat.two_pow_pos fw
  rw [pow_succ] at hhigh
  rcases Nat.lt_or_ge n (2 ^ fw) with hn | hn
  · obtain rfl : j = 0 := by omega
    simp [codeMag, Nat.div_eq_of_lt hn, Nat.mod_eq_of_lt hn]
  rcases hhigh.lt_or_eq with hlt | rfl
  · have hdiv : (j * 2 ^ fw + n) / 2 ^ fw = j + 1 := by
      rw [Nat.mul_comm, Nat.mul_add_div hpos, Nat.div_eq_of_lt_le (k := 1) (by omega) (by omega)]
    have hmod : (j * 2 ^ fw + n) % 2 ^ fw = n - 2 ^ fw := by
      rw [Nat.mul_comm, Nat.mul_add_mod, Nat.mod_eq_sub_mod hn, Nat.mod_eq_of_lt (by omega)]
    have hcast : ((n - 2 ^ fw : ℕ) : ℚ) = n - 2 ^ fw := by push_cast [Nat.cast_sub hn]; rfl
    have hexp : qmin + ((j + 1 : ℕ) : ℤ) - 1 = qmin + j := by push_cast; ring
    rw [codeMag, hdiv, hmod, if_neg (Nat.succ_ne_zero j), hexp, hcast, add_sub_cancel]
  · have hc : j * 2 ^ fw + 2 ^ fw * 2 = 2 ^ fw * (j + 2) := by ring
    have hexp : qmin + ((j + 2 : ℕ) : ℤ) - 1 = qmin + j + 1 := by push_cast; ring
    rw [codeMag, hc, Nat.mul_div_cancel_left _ hpos, Nat.mul_mod_right, if_neg (by omega), hexp, zpow_add_one₀ two_ne_zero]
    push_cast
    ring

/-- The exponent step and mantissa of a code. -/
theorem exists_step (fw c : ℕ) : ∃ j n, c = j * 2 ^ fw + n ∧ (j = 0 ∨ 2 ^ fw ≤ n) ∧ n < 2 ^ (fw + 1) := by
  have hdm := Nat.div_add_mod' c (2 ^ fw)
  have hmod := Nat.mod_lt c (Nat.two_pow_pos fw)
  rcases Nat.eq_zero_or_pos (c / 2 ^ fw) with h0 | hp
  · exact ⟨0, c % 2 ^ fw, by rw [h0] at hdm; omega, .inl rfl, by rw [pow_succ]; omega⟩
  · refine ⟨c / 2 ^ fw - 1, 2 ^ fw + c % 2 ^ fw, ?_, .inr (Nat.le_add_right _ _), by rw [pow_succ]; omega⟩
    rw [Nat.sub_mul, ← Nat.add_assoc, one_mul, Nat.sub_add_cancel (Nat.le_mul_of_pos_left _ hp), hdm]

theorem codeMag_lt_succ (fw : ℕ) (qmin : ℤ) (c : ℕ) : codeMag fw qmin c < codeMag fw qmin (c + 1) := by
  obtain ⟨j, n, rfl, hlow, hn⟩ := exists_step fw c
  rw [Nat.add_assoc, codeMag_step qmin hlow hn.le, codeMag_step qmin (hlow.imp_right (Nat.le_succ_of_le)) hn]
  exact mul_lt_mul_of_pos_right (by push_cast; linarith) (zpow_pos two_pos _)

theorem codeMag_strictMono (fw : ℕ) (qmin : ℤ) : StrictMono (codeMag fw qmin) := strictMono_nat_of_lt_succ (codeMag_lt_succ fw qmin)

@[simp] theorem codeMag_zero (fw : ℕ) (qmin : ℤ) : codeMag fw qmin 0 = 0 := by simp [codeMag]

theorem codeMag_nonneg (fw : ℕ) (qmin : ℤ) (c : ℕ) : 0 ≤ codeMag fw qmin c :=
  (codeMag_zero fw qmin).symm.le.trans ((codeMag_strictMono fw qmin).monotone c.zero_le)

/-! ## bound16 (R81, R82) -/

theorem bndVal_real (b : Bnd) : (bndVal b).map Dy.real = bndReal b := by
  unfold bndVal bndReal
  dsimp only
  split
  · rfl
  split
  · simp only [Option.map_some, Dy.real, Int.cast_natCast]; congr 1; ring
  · simp only [Option.map_some, Dy.real, Nat.cast_add, Nat.cast_ofNat, Int.cast_add, Int.cast_ofNat, Int.cast_natCast]
    have hexp : ((b.toNat / 256 : ℕ) : ℤ) - 127 = ((b.toNat / 256 : ℕ) : ℤ) - 135 + (8 : ℕ) := by ring
    rw [hexp, zpow_add₀ two_ne_zero, zpow_natCast]; congr 1; push_cast; ring

theorem bndReal_of_bndVal {b : Bnd} {v : Dy} (h : bndVal b = some v) : bndReal b = some v.real := by rw [← bndVal_real, h, Option.map_some]

theorem exists_bndVal {b : Bnd} {v : ℚ} (h : bndReal b = some v) : ∃ d, bndVal b = some d ∧ d.real = v :=
  Option.map_eq_some_iff.1 ((bndVal_real b).trans h)

theorem bndReal_eq (b : Bnd) : bndReal b = if 0xFF00 ≤ b.toNat then none else some (codeMag 8 (-134) b.toNat) := by
  have hlt := b.isLt
  unfold bndReal codeMag
  dsimp only
  norm_num only
  by_cases hinf : 65280 ≤ b.toNat
  · rw [if_pos hinf, if_pos (by omega)]
  rw [if_neg hinf, if_neg (by omega)]
  split
  · congr 1; ring
  · have hexp : ((b.toNat / 256 : ℕ) : ℤ) - 127 = -134 + ((b.toNat / 256 : ℕ) : ℤ) - 1 + (8 : ℕ) := by ring
    rw [hexp, zpow_add₀ two_ne_zero, zpow_natCast]; congr 1; push_cast; ring

theorem bndReal_ofNat {c : ℕ} (h : c < 0xFF00) : bndReal (BitVec.ofNat 16 c) = some (codeMag 8 (-134) c) := by
  have hc : (BitVec.ofNat 16 c).toNat = c := by rw [BitVec.toNat_ofNat]; omega
  rw [bndReal_eq, hc, if_neg (by omega)]

@[simp] theorem bndReal_bndInf : bndReal bndInf = none := rfl
@[simp] theorem bndReal_bndExact : bndReal bndExact = some 0 := by rw [bndReal_eq]; simp [bndExact]

theorem bndReal_nonneg {b : Bnd} {v : ℚ} (h : bndReal b = some v) : 0 ≤ v := by
  rw [bndReal_eq] at h
  split at h
  · cases h
  · rw [← Option.some.inj h]; exact codeMag_nonneg _ _ _

/-- A code passes the search of `leastBnd`. -/
def bndPasses (ge : Dy → Bool) (c : ℕ) : Bool := match bndVal (BitVec.ofNat 16 c) with
  | some v => ge v
  | none => true

theorem bndSearch_succ (ge : Dy → Bool) (n lo hi : ℕ) : bndSearch ge (n + 1) lo hi =
    if hi ≤ lo then hi else if bndPasses ge ((lo + hi) / 2) then bndSearch ge n lo ((lo + hi) / 2) else bndSearch ge n ((lo + hi) / 2 + 1) hi := by
  rfl

theorem bndSearch_passes {ge : Dy → Bool} {hi : ℕ} (h : bndPasses ge hi = true) (n lo : ℕ) : bndPasses ge (bndSearch ge n lo hi) = true := by
  induction n generalizing lo hi with
  | zero => exact h
  | succ n ih =>
    rw [bndSearch_succ]
    split
    · exact h
    split
    · next hmid => exact ih hmid lo
    · exact ih h _

theorem bndSearch_le {ge : Dy → Bool} (n : ℕ) {lo hi : ℕ} (h : lo ≤ hi) : bndSearch ge n lo hi ≤ hi := by
  induction n generalizing lo hi with
  | zero => exact le_rfl
  | succ n ih =>
    rw [bndSearch_succ]
    split
    · exact le_rfl
    split
    · exact (ih (by omega)).trans (by omega)
    · exact ih (by omega)

/-- Where passing is kept by every greater code, the search ends at the least code that passes. -/
theorem bndSearch_least {ge : Dy → Bool} (hmono : ∀ c d, c ≤ d → d ≤ 0xFF00 → bndPasses ge c = true → bndPasses ge d = true) {n lo hi : ℕ}
    (hfuel : hi - lo < 2 ^ n) (hhi : hi ≤ 0xFF00) {c : ℕ} (hlo : lo ≤ c) (hpass : bndPasses ge c = true) (hc : c ≤ hi) :
    bndSearch ge n lo hi ≤ c := by
  induction n generalizing lo hi with
  | zero => rw [bndSearch]; omega
  | succ n ih =>
    rw [pow_succ] at hfuel
    rw [bndSearch_succ]
    split
    · omega
    split
    · next hmid =>
      by_cases hcm : c ≤ (lo + hi) / 2
      · exact ih (by omega) (by omega) hlo hcm
      · exact (bndSearch_le n (by omega)).trans (by omega)
    · next hmid =>
      refine ih (by omega) hhi ?_ hc
      by_contra hcm
      exact hmid (hmono c _ (by omega) (by omega) hpass)

/-- The bound found is not below the number, or it is unbounded (R82). -/
theorem leastBnd_ge {ge : Dy → Bool} {v : ℚ} (h : bndReal (leastBnd ge) = some v) : ∃ d : Dy, d.real = v ∧ ge d = true := by
  rw [leastBnd] at h
  split at h
  · next h0 => exact ⟨dyInt 0, by rw [← Option.some.inj (bndReal_bndExact.symm.trans h)]; simp, h0⟩
  · obtain ⟨d, hd, rfl⟩ := exists_bndVal h
    have hpass : bndPasses ge (bndSearch ge 17 0 0xFF00) = true := bndSearch_passes rfl _ _
    rw [bndPasses, hd] at hpass
    exact ⟨d, rfl, hpass⟩

theorem bndUp_ge {x : Dy} {v : ℚ} (h : bndReal (bndUp x) = some v) : x.real ≤ v := by
  obtain ⟨d, rfl, hd⟩ := leastBnd_ge h
  exact (Dy.le_iff _ _).1 hd

theorem bndPasses_le_iff (x : Dy) {c : ℕ} (hc : c < 0xFF00) : bndPasses (fun v => x.le v) c = true ↔ x.real ≤ codeMag 8 (-134) c := by
  obtain ⟨d, hd, hreal⟩ := exists_bndVal (bndReal_ofNat hc)
  rw [bndPasses, hd, ← hreal]
  exact Dy.le_iff _ _

theorem bndPasses_le_mono (x : Dy) (c d : ℕ) (hcd : c ≤ d) (hd : d ≤ 0xFF00) (h : bndPasses (fun v => x.le v) c = true) :
    bndPasses (fun v => x.le v) d = true := by
  rcases hd.lt_or_eq with hlt | rfl
  · exact (bndPasses_le_iff x hlt).2 (((bndPasses_le_iff x (hcd.trans_lt hlt)).1 h).trans ((codeMag_strictMono _ _).monotone hcd))
  · rfl

/-- No code below the one found is at or above the number. -/
theorem bndUp_least {x : Dy} {c : ℕ} (hc : c < 0xFF00) (h : x.real ≤ codeMag 8 (-134) c) : (bndUp x).toNat ≤ c := by
  rw [bndUp, leastBnd]
  split
  · exact c.zero_le
  · have hle := bndSearch_least (bndPasses_le_mono x) (n := 17) (by norm_num) le_rfl c.zero_le ((bndPasses_le_iff x hc).2 h) hc.le
    rw [BitVec.toNat_ofNat]
    exact (Nat.mod_le _ _).trans hle

theorem bndUp_le_inf (x : Dy) : (bndUp x).toNat ≤ 0xFF00 := by
  rw [bndUp, leastBnd]
  split
  · exact Nat.zero_le _
  · rw [BitVec.toNat_ofNat]
    exact (Nat.mod_le _ _).trans (bndSearch_le _ (Nat.zero_le _))

/-- Settles O5: the search ends at the least code that passes, and codes and the numbers they stand for have one order. -/
theorem boundRoundsUpOnce : Obligations.BoundRoundsUpOnce := by
  unfold Obligations.BoundRoundsUpOnce
  intro x
  have hinf : ∀ (b : Bnd) (u : ℚ), bndReal b = some u → b.toNat < 0xFF00 ∧ u = codeMag 8 (-134) b.toNat := by
    intro b u hb
    rw [bndReal_eq] at hb
    split at hb
    · cases hb
    · exact ⟨by omega, (Option.some.inj hb).symm⟩
  split
  · next v hv =>
    refine ⟨bndUp_ge hv, fun b u hb hxu => ?_⟩
    obtain ⟨-, rfl⟩ := hinf _ _ hv
    obtain ⟨hlt, rfl⟩ := hinf _ _ hb
    exact (codeMag_strictMono _ _).monotone (bndUp_least hlt hxu)
  · next hnone =>
    have htop : 0xFF00 ≤ (bndUp x).toNat := by
      by_contra hlt
      rw [bndReal_eq, if_neg hlt] at hnone
      cases hnone
    refine ⟨BitVec.eq_of_toNat_eq (le_antisymm (bndUp_le_inf x) htop), fun b u hb => ?_⟩
    obtain ⟨hlt, rfl⟩ := hinf _ _ hb
    by_contra hle
    exact absurd (bndUp_least hlt (not_lt.1 hle)) (by omega)

end Sys2Proof.Machine
end

section
/-! PROOFS. Codes of the floating-point formats as rationals (R74), and why governed bounds enclose the true result (R81 to R84, R89). -/

namespace Sys2Proof.Machine

/-! ## Codes of a format (R74) -/

/-- The exponent of the least positive number of a format. -/
def FpSpec.qmin (sp : FpSpec) : ℤ := 1 - sp.bias - sp.fw

/-- The magnitude of a code, its sign bit taken off, and its sign. -/
def FpSpec.mag (sp : FpSpec) (bits : ℕ) : ℚ := codeMag sp.fw sp.qmin (bits % 2 ^ (sp.ew + sp.fw))
def FpSpec.neg (sp : FpSpec) (bits : ℕ) : Bool := bits / 2 ^ (sp.ew + sp.fw) % 2 == 1

/-- The number that a code stands for. -/
def FpSpec.real (sp : FpSpec) (bits : ℕ) : ℚ := if sp.neg bits then -sp.mag bits else sp.mag bits

/-- The widths that the formats of R74 have in common. -/
def FpSpec.widthsOk (sp : FpSpec) : Prop := 0 < sp.ew ∧ 0 < sp.fw

theorem FV.dy_real (n : Bool) (m : ℕ) (e : ℤ) : (FV.fin n m e).dy.real = if n then -((m : ℚ) * 2 ^ e) else m * 2 ^ e := by
  cases n <;> simp [FV.dy, Dy.real]

theorem code_fields (sp : FpSpec) (bits : ℕ) : bits % 2 ^ (sp.ew + sp.fw) / 2 ^ sp.fw = bits / 2 ^ sp.fw % 2 ^ sp.ew ∧
    bits % 2 ^ (sp.ew + sp.fw) % 2 ^ sp.fw = bits % 2 ^ sp.fw := by
  rw [Nat.add_comm, pow_add]
  exact ⟨Nat.mod_mul_right_div_self _ _ _, Nat.mod_mul_right_mod _ _ _⟩

/-- The code lies in the top exponent. -/
theorem top_iff (sp : FpSpec) (bits : ℕ) :
    bits / 2 ^ sp.fw % 2 ^ sp.ew = 2 ^ sp.ew - 1 ↔ (2 ^ sp.ew - 1) * 2 ^ sp.fw ≤ bits % 2 ^ (sp.ew + sp.fw) := by
  obtain ⟨hdiv, -⟩ := code_fields sp bits
  have hlt := Nat.mod_lt (bits / 2 ^ sp.fw) (Nat.two_pow_pos sp.ew)
  rw [← Nat.le_div_iff_mul_le (Nat.two_pow_pos sp.fw), hdiv]
  omega

/-- The codes above the largest finite one, by what the top exponent holds. -/
theorem maxCode_lt_iff {sp : FpSpec} (h : sp.widthsOk) (bits : ℕ) : maxCode sp < bits % 2 ^ (sp.ew + sp.fw) ↔
    bits / 2 ^ sp.fw % 2 ^ sp.ew = 2 ^ sp.ew - 1 ∧ (sp.top = .ieee ∨ sp.top = .nanOnly ∧ bits % 2 ^ sp.fw = 2 ^ sp.fw - 1) := by
  obtain ⟨hdiv, hmod⟩ := code_fields sp bits
  have hcode := Nat.div_add_mod' (bits % 2 ^ (sp.ew + sp.fw)) (2 ^ sp.fw)
  have hlt := Nat.mod_lt bits (Nat.two_pow_pos (sp.ew + sp.fw))
  have hflt := Nat.mod_lt bits (Nat.two_pow_pos sp.fw)
  have htop := top_iff sp bits
  have hew : 2 ≤ 2 ^ sp.ew := Nat.le_self_pow h.1.ne' 2
  have hfw : 2 ≤ 2 ^ sp.fw := Nat.le_self_pow h.2.ne' 2
  have hall : 2 ^ (sp.ew + sp.fw) = (2 ^ sp.ew - 1) * 2 ^ sp.fw + 2 ^ sp.fw := by
    rw [← Nat.succ_mul, Nat.succ_eq_add_one, Nat.sub_add_cancel (by omega), pow_add]
  rw [hdiv, hmod] at hcode
  unfold maxCode
  cases hk : sp.top
  case ieee =>
    have hpos : 0 < (2 ^ sp.ew - 1) * 2 ^ sp.fw := Nat.mul_pos (by omega) (by omega)
    simp only [true_or, and_true, htop]
    omega
  case nanOnly =>
    simp only [reduceCtorEq, false_or, true_and]
    constructor
    · intro hmax
      have hexp := htop.2 (by omega)
      exact ⟨hexp, by rw [hexp] at hcode; omega⟩
    · rintro ⟨hexp, hfrac⟩
      rw [hexp, hfrac] at hcode
      omega
  case none =>
    simp only [reduceCtorEq, false_or, false_and, and_false, iff_false]
    omega

/-- The codes up to the largest finite one decode to their numbers. -/
theorem decodeFp_fin {sp : FpSpec} (h : sp.widthsOk) {bits : ℕ} (hfin : bits % 2 ^ (sp.ew + sp.fw) ≤ maxCode sp) :
    ∃ m e, decodeFp sp bits = .fin (sp.neg bits) m e ∧ (m : ℚ) * 2 ^ e = sp.mag bits := by
  have hnot := (maxCode_lt_iff h bits).not.1 (not_lt.2 hfin)
  obtain ⟨hdiv, hmod⟩ := code_fields sp bits
  have hieee : ¬((bits / 2 ^ sp.fw % 2 ^ sp.ew == 2 ^ sp.ew - 1 && sp.top == .ieee) = true) := by
    simp only [Bool.and_eq_true, beq_iff_eq]; tauto
  have hnan : ¬((bits / 2 ^ sp.fw % 2 ^ sp.ew == 2 ^ sp.ew - 1 && sp.top == .nanOnly && bits % 2 ^ sp.fw == 2 ^ sp.fw - 1) = true) := by
    simp only [Bool.and_eq_true, beq_iff_eq]; tauto
  rw [FpSpec.mag, codeMag, hdiv, hmod]
  unfold decodeFp FpSpec.neg FpSpec.qmin
  dsimp only
  rw [if_neg hieee, if_neg hnan]
  split
  · exact ⟨_, _, rfl, rfl⟩
  · refine ⟨_, _, rfl, ?_⟩
    push_cast
    congr 2
    ring

/-- The codes above it do not decode to a number. -/
theorem decodeFp_isFin_iff {sp : FpSpec} (h : sp.widthsOk) (bits : ℕ) :
    (decodeFp sp bits).isFin = true ↔ bits % 2 ^ (sp.ew + sp.fw) ≤ maxCode sp := by
  refine ⟨fun hf => ?_, fun hle => ?_⟩
  · by_contra hlt
    obtain ⟨hexp, hkind⟩ := (maxCode_lt_iff h bits).1 (not_le.1 hlt)
    revert hf
    unfold decodeFp
    dsimp only
    rcases hkind with hk | ⟨hk, hfrac⟩
    · rw [hexp, hk]
      simp only [beq_self_eq_true, Bool.and_self, if_true]
      split <;> exact Bool.false_ne_true
    · rw [hexp, hk, hfrac]
      simp [FV.isFin]
  · obtain ⟨m, e, heq, -⟩ := decodeFp_fin h hle
    rw [heq]
    rfl

theorem decodeFp_real {sp : FpSpec} (h : sp.widthsOk) {bits : ℕ} (hfin : (decodeFp sp bits).isFin = true) :
    (decodeFp sp bits).dy.real = sp.real bits := by
  obtain ⟨m, e, heq, hmag⟩ := decodeFp_fin h ((decodeFp_isFin_iff h bits).1 hfin)
  rw [heq, FV.dy_real, hmag, FpSpec.real]

/-! ## FP32 words -/

theorem widthsOk_spF32 : spF32.widthsOk := ⟨by decide, by decide⟩

theorem f32_ofNat (bits : ℕ) : f32 (BitVec.ofNat 32 bits) = decodeFp spF32 bits := by
  have hdiv : bits % 2 ^ 32 / 2 ^ 31 % 2 = bits / 2 ^ 31 % 2 := by omega
  have hexp : bits % 2 ^ 32 / 2 ^ 23 % 2 ^ 8 = bits / 2 ^ 23 % 2 ^ 8 := by omega
  have hfrac : bits % 2 ^ 32 % 2 ^ 23 = bits % 2 ^ 23 := by omega
  unfold f32 decodeFp
  simp only [BitVec.toNat_ofNat, spF32, hdiv, hexp, hfrac, Nat.reduceAdd]
  rfl

theorem finiteWord_iff (w : Word) : finiteWord w ↔ (f32 w).isFin = true := by
  rw [f32, decodeFp_isFin_iff widthsOk_spF32, finiteWord, wordExp, maxCode]
  simp only [spF32]
  omega

theorem realOf_eq (w : Word) : realOf w = spF32.real w.toNat := by
  have hlt := w.isLt
  obtain ⟨hdiv, hmod⟩ := code_fields spF32 w.toNat
  have hneg : spF32.neg w.toNat = decide (2 ^ 31 ≤ w.toNat) := by
    rw [Bool.eq_iff_iff]
    simp only [FpSpec.neg, spF32, beq_iff_eq, decide_eq_true_eq]
    omega
  have hmag : spF32.mag w.toNat = if wordExp w = 0 then ((w.toNat % 2 ^ 23 : ℕ) : ℚ) * 2 ^ (-149 : ℤ)
      else (2 ^ 23 + ((w.toNat % 2 ^ 23 : ℕ) : ℚ)) * 2 ^ ((wordExp w : ℤ) - 150) := by
    rw [FpSpec.mag, codeMag, hdiv, hmod]
    simp only [FpSpec.qmin, spF32, wordExp]
    refine if_congr Iff.rfl (by norm_num) ?_
    congr 2
    push_cast
    ring
  rw [realOf, FpSpec.real, hneg, hmag]
  simp only [decide_eq_true_eq]

theorem f32_real {w : Word} (h : finiteWord w) : (f32 w).dy.real = realOf w := by
  rw [realOf_eq, f32, decodeFp_real widthsOk_spF32 ((finiteWord_iff w).1 h)]

/-! ## Sources within their bounds -/

/-- A true value within the bound of a finite source (R82, R83). -/
def Opnd.within (x : Opnd) (X : ℚ) : Prop := x.v.isFin = true ∧ ∃ b, bndReal x.b = some b ∧ |X - x.v.dy.real| ≤ b

theorem within_opF32 {x : LV} {X : ℚ} (h : Machine.within x X) : (opF32 x).within X := by
  obtain ⟨hfin, b, hb, hle⟩ := h
  exact ⟨(finiteWord_iff _).1 hfin, b, hb, by rw [opF32, f32_real hfin]; exact hle⟩

theorem within_exact {v : FV} (h : v.isFin = true) : Opnd.within ⟨v, bndExact⟩ v.dy.real :=
  ⟨h, 0, bndReal_bndExact, by rw [sub_self, abs_zero]⟩

theorem Opnd.within.bound {x : Opnd} {X : ℚ} (h : x.within X) : ∃ p, x.bound = some p ∧ |X - x.v.dy.real| ≤ p.real := by
  obtain ⟨hfin, b, hb, hle⟩ := h
  obtain ⟨p, hp, rfl⟩ := exists_bndVal hb
  exact ⟨p, by rw [Opnd.bound, if_pos hfin, hp], hle⟩

theorem Opnd.within.neg {x : Opnd} {X : ℚ} (h : x.within X) : Opnd.within ⟨x.v.neg, x.b⟩ (-X) := by
  obtain ⟨hfin, b, hb, hle⟩ := h
  obtain ⟨v, c⟩ := x
  cases v with
  | nan | inf => cases hfin
  | fin n m e =>
    refine ⟨rfl, b, hb, ?_⟩
    have hneg : (FV.fin n m e).neg.dy.real = -(FV.fin n m e).dy.real := by cases n <;> simp [FV.neg, FV.dy, Dy.real]
    rw [hneg, ← neg_sub', abs_neg]
    exact hle

theorem firstNan_none {vs : List FV} (h : ∀ v ∈ vs, v.isFin = true) : firstNan vs = none := by
  induction vs with
  | nil => rfl
  | cons v vs ih =>
    have hv := h v List.mem_cons_self
    cases v with
    | nan | inf => cases hv
    | fin n m e => exact ih fun x hx => h x (List.mem_cons_of_mem _ hx)

/-! ## Exact sums and products -/

theorem ofDy_real (nz : Bool) (a : Dy) : (FV.ofDy nz a).dy.real = a.real := by
  obtain ⟨m, e⟩ := a
  rw [FV.ofDy, FV.dy_real, Dy.real, Nat.cast_natAbs]
  rcases lt_trichotomy m 0 with h | rfl | h
  · simp [h, h.ne, abs_of_neg h]
  · simp
  · simp [h.ne', h.not_gt, abs_of_pos h]

theorem mulFV_fin {a b : FV} (ha : a.isFin = true) (hb : b.isFin = true) :
    (mulFV a b).isFin = true ∧ (mulFV a b).dy.real = a.dy.real * b.dy.real := by
  cases a with
  | nan | inf => cases ha
  | fin s m e =>
    cases b with
    | nan | inf => cases hb
    | fin t n f =>
      refine ⟨rfl, ?_⟩
      rw [mulFV, FV.dy_real, FV.dy_real, FV.dy_real, zpow_add₀ two_ne_zero]
      cases s <;> cases t <;> simp [FV.sign] <;> ring

theorem addFV_fin (rnd : Rnd) {a b : FV} (ha : a.isFin = true) (hb : b.isFin = true) :
    (addFV rnd a b).isFin = true ∧ (addFV rnd a b).dy.real = a.dy.real + b.dy.real := by
  cases a with
  | nan | inf => cases ha
  | fin s m e =>
    cases b with
    | nan | inf => cases hb
    | fin t n f => exact ⟨rfl, (ofDy_real _ _).trans (Dy.real_add _ _)⟩

/-! ## Bounds of results (R83, R84) -/

/-- A finite bound of a result: the result is finite, and the bound is no less than the propagated term and the exact error. -/
theorem resultBnd_ge {v : FV} {clamped : Bool} {prop : Option Dy} {ex : Dy} {b : ℚ} (h : bndReal (resultBnd v clamped prop ex) = some b) :
    v.isFin = true ∧ ∃ p, prop = some p ∧ p.real + |v.dy.real - ex.real| ≤ b := by
  unfold resultBnd at h
  split at h
  · simp at h
  next hfin =>
    rw [Bool.or_eq_true, Bool.not_eq_true', not_or, Bool.not_eq_false] at hfin
    cases prop with
    | none => simp at h
    | some p =>
      have hle := bndUp_ge h
      rw [Dy.real_add, Dy.real_abs, Dy.real_sub] at hle
      exact ⟨hfin.1, p, rfl, hle⟩

/-- A lane written with its result bound encloses every value that the propagated term allows about the exact result. -/
theorem encloses_resultBnd {bits : ℕ} {clamped : Bool} {p ex : Dy} {T : ℚ} (h : |T - ex.real| ≤ p.real) :
    encloses (lane32 (bits, resultBnd (decodeFp spF32 bits) clamped (some p) ex)) T := by
  intro b hb
  obtain ⟨hfin, q, hq, hle⟩ := resultBnd_ge hb
  obtain rfl := Option.some.inj hq
  have hf := f32_ofNat bits
  have hword : finiteWord (BitVec.ofNat 32 bits) := (finiteWord_iff _).2 (by rw [hf]; exact hfin)
  refine ⟨hword, ?_⟩
  calc |T - realOf (BitVec.ofNat 32 bits)| = |T - (decodeFp spF32 bits).dy.real| := by rw [← f32_real hword, hf]
    _ ≤ |T - ex.real| + |ex.real - (decodeFp spF32 bits).dy.real| := abs_sub_le _ _ _
    _ ≤ b := by rw [abs_sub_comm ex.real]; linarith

/-- The product term of R84 holds the distance of the products. -/
theorem abs_mul_sub_mul_le {x y X Y p q : ℚ} (hx : |X - x| ≤ p) (hy : |Y - y| ≤ q) : |X * Y - x * y| ≤ |x| * q + |y| * p + p * q := by
  have hsplit : X * Y - x * y = x * (Y - y) + y * (X - x) + (X - x) * (Y - y) := by ring
  have hp : 0 ≤ p := (abs_nonneg _).trans hx
  calc |X * Y - x * y| ≤ |x * (Y - y)| + |y * (X - x)| + |(X - x) * (Y - y)| := hsplit ▸ abs_add_three _ _ _
    _ ≤ |x| * q + |y| * p + p * q := by
        rw [abs_mul, abs_mul, abs_mul]
        gcongr

theorem propMul_real (x y p q : Dy) : (propMul x y p q).real = |x.real| * q.real + |y.real| * p.real + p.real * q.real := by simp [propMul]

/-- The propagated term of a governed operation holds the distance of the true result from the exact one. -/
theorem propFma_ge {a b c : Opnd} {A B C : ℚ} (rnd : Rnd) (ha : a.within A) (hb : b.within B) (hc : c.within C) :
    ∃ p, propFma a b c = some p ∧ |A * B + C - (addFV rnd (mulFV a.v b.v) c.v).dy.real| ≤ p.real := by
  obtain ⟨p, hp, hpa⟩ := ha.bound
  obtain ⟨q, hq, hqb⟩ := hb.bound
  obtain ⟨r, hr, hrc⟩ := hc.bound
  obtain ⟨hmul, hmulr⟩ := mulFV_fin ha.1 hb.1
  refine ⟨_, by rw [propFma, hp, hq, hr], ?_⟩
  rw [(addFV_fin rnd hmul hc.1).2, hmulr, Dy.real_add, propMul_real, add_sub_add_comm]
  exact (abs_add_le _ _).trans (add_le_add (abs_mul_sub_mul_le hpa hqb) hrc)

/-- A governed lane of finite sources encloses the true result at every level. -/
theorem encloses_governedLane {g : Governed} {A B C : ℚ} (v : Level) (rnd : Rnd) (hs : ∀ x ∈ g.srcs, x.isFin = true) (ha : g.a.within A)
    (hb : g.b.within B) (hc : g.c.within C) : encloses (governedLane v rnd g) (A * B + C) := by
  obtain ⟨p, hp, hle⟩ := propFma_ge rnd ha hb hc
  rw [governedLane, firstNan_none hs]
  dsimp only
  rw [hp]
  split <;> exact encloses_resultBnd hle

theorem within_one32 : one32.within 1 := by
  have h := within_exact (v := .fin false 1 0) rfl
  rwa [FV.dy_real, if_neg Bool.false_ne_true, zpow_zero, mul_one, Nat.cast_one] at h

theorem within_negZero : Opnd.within ⟨.fin true 0 0, bndExact⟩ 0 := by
  have h := within_exact (v := .fin true 0 0) rfl
  rwa [FV.dy_real, Nat.cast_zero, zero_mul, neg_zero, ite_self] at h

/-- Settles O4: the true result differs from the exact one by no more than the propagated term, and the delivered one from the exact one by
the error that the bound adds, at every level alike. -/
theorem boundsEncloseTrueValues : Obligations.BoundsEncloseTrueValues := by
  unfold Obligations.BoundsEncloseTrueValues
  intro v rnd x y z X Y Z hx hy hz
  have hx := within_opF32 hx
  have hy := within_opF32 hy
  have hz := within_opF32 hz
  have hsrcs : ∀ u ∈ [(opF32 x).v, (opF32 y).v, (opF32 z).v], u.isFin = true := by
    simp only [List.mem_cons, List.not_mem_nil, or_false, forall_eq_or_imp, forall_eq]
    exact ⟨hx.1, hy.1, hz.1⟩
  have htwo : ∀ u ∈ [(opF32 x).v, (opF32 y).v], u.isFin = true := fun u hu => hsrcs u (by simp at hu ⊢; tauto)
  refine ⟨?_, ?_, ?_, encloses_governedLane v rnd hsrcs hx hy hz⟩
  · have h := encloses_governedLane (g := govAdd (opF32 x) (opF32 y)) v rnd htwo hx within_one32 hy
    rwa [mul_one] at h
  · have h := encloses_governedLane (g := govSub (opF32 x) (opF32 y)) v rnd htwo hx within_one32 hy.neg
    rwa [mul_one, ← sub_eq_add_neg] at h
  · have h := encloses_governedLane (g := govMul (opF32 x) (opF32 y)) v rnd htwo hx hy within_negZero
    rwa [add_zero] at h

end Sys2Proof.Machine
end

section
/-! PROOFS. Compares of intervals (R87) and of computed values (R88). -/

namespace Sys2Proof.Machine

/-! ## NaN words -/

theorem f32_isNan_iff (w : Word) : (f32 w).isNan = true ↔ nanWord w := by
  unfold f32 decodeFp nanWord wordExp
  simp only [spF32, beq_self_eq_true, Bool.and_true, beq_iff_eq]
  norm_num only
  by_cases he : w.toNat / 8388608 % 256 = 255
  · rw [if_pos he]
    split <;> simp [FV.isNan, *]
  · rw [if_neg he]
    refine iff_of_false ?_ fun h => he h.1
    split
    · next hnan => simp at hnan
    · split <;> exact Bool.false_ne_true

theorem not_nanWord {w : Word} (h : finiteWord w) : ¬nanWord w := fun hn => h hn.1

/-! ## Intervals (R87) -/

/-- A number lies in an interval, the whole line where it is none. -/
def inside (I : Option (Dy × Dy)) (X : ℚ) : Prop := ∀ l h, I = some (l, h) → l.real ≤ X ∧ X ≤ h.real

theorem inside_none (X : ℚ) : inside none X := fun _ _ h => by cases h

theorem inside_some {l h : Dy} {X : ℚ} : inside (some (l, h)) X ↔ l.real ≤ X ∧ X ≤ h.real :=
  ⟨fun hX => hX l h rfl, fun hX _ _ heq => by cases heq; exact hX⟩

theorem inside_interval (x : LV) (X : ℚ) : inside (interval (opF32 x)) X ↔ inInterval x X := by
  have hfin := finiteWord_iff x.val
  unfold interval Opnd.bound inInterval opF32
  dsimp only
  by_cases hx : finiteWord x.val
  · rw [if_pos (hfin.1 hx)]
    cases hb : bndVal x.bnd with
    | none =>
      have hnone : bndReal x.bnd = none := by rw [← bndVal_real, hb, Option.map_none]
      exact iff_of_true (inside_none X) fun _ b h => by rw [hnone] at h; cases h
    | some b =>
      simp only [bndReal_of_bndVal hb, inside_some, Dy.real_sub, Dy.real_add, f32_real hx, hx, forall_true_left, Option.some.injEq,
        forall_eq', abs_le]
      constructor <;> rintro ⟨h1, h2⟩ <;> constructor <;> linarith
  · rw [if_neg (mt hfin.2 hx)]
    exact iff_of_true (inside_none X) fun h => absurd h hx

/-- The computed value lies in its interval. -/
theorem inInterval_self (x : LV) : inInterval x (realOf x.val) := fun _ b hb => by rw [sub_self, abs_zero]; exact bndReal_nonneg hb

/-- The conditions that compare two numbers, as `certainOf` lists them. -/
def orderedCond (c : Cond) : Prop := c ≠ .ord ∧ c ≠ .uno

/-- Where one side is the whole line, a condition holds for a pair and fails for a pair. -/
theorem condHolds_free_left {c : Cond} (hc : orderedCond c) (Y : ℚ) : (∃ X, condHolds c X Y) ∧ ∃ X, ¬condHolds c X Y := by
  have hs : Y < Y + 1 := lt_add_one Y
  have hp : Y - 1 < Y := sub_one_lt Y
  cases c
  case eq | ceq => exact ⟨⟨Y, rfl⟩, Y + 1, hs.ne'⟩
  case ne | cne => exact ⟨⟨Y + 1, hs.ne'⟩, Y, fun h => h rfl⟩
  case lt | clt => exact ⟨⟨Y - 1, hp⟩, Y, lt_irrefl Y⟩
  case le | cle => exact ⟨⟨Y, le_rfl⟩, Y + 1, hs.not_ge⟩
  case gt | cgt => exact ⟨⟨Y + 1, hs⟩, Y, lt_irrefl Y⟩
  case ge | cge => exact ⟨⟨Y, le_rfl⟩, Y - 1, hp.not_ge⟩
  case ord => exact absurd rfl hc.1
  case uno => exact absurd rfl hc.2

theorem condHolds_free_right {c : Cond} (hc : orderedCond c) (X : ℚ) : (∃ Y, condHolds c X Y) ∧ ∃ Y, ¬condHolds c X Y := by
  have hs : X < X + 1 := lt_add_one X
  have hp : X - 1 < X := sub_one_lt X
  cases c
  case eq | ceq => exact ⟨⟨X, rfl⟩, X + 1, hs.ne⟩
  case ne | cne => exact ⟨⟨X + 1, hs.ne⟩, X, fun h => h rfl⟩
  case lt | clt => exact ⟨⟨X + 1, hs⟩, X, lt_irrefl X⟩
  case le | cle => exact ⟨⟨X, le_rfl⟩, X - 1, hp.not_ge⟩
  case gt | cgt => exact ⟨⟨X - 1, hp⟩, X, lt_irrefl X⟩
  case ge | cge => exact ⟨⟨X, le_rfl⟩, X + 1, hs.not_ge⟩
  case ord => exact absurd rfl hc.1
  case uno => exact absurd rfl hc.2

/-- A condition holds throughout two intervals exactly when it holds at the ends that R87 names. -/
theorem everyPair_some {c : Cond} (hc : orderedCond c) {lx hx ly hy : Dy} (hX : lx.real ≤ hx.real) (hY : ly.real ≤ hy.real) :
    everyPair c (some (lx, hx)) (some (ly, hy)) = true ↔
      ∀ X Y, lx.real ≤ X ∧ X ≤ hx.real → ly.real ≤ Y ∧ Y ≤ hy.real → condHolds c X Y := by
  cases c
  case eq | ceq =>
    simp only [everyPair, condHolds, Bool.and_eq_true, Dy.same_iff]
    refine ⟨fun ⟨⟨h1, h2⟩, h3⟩ X Y hXX hYY => by linarith, fun h => ?_⟩
    have h1 := h _ _ ⟨le_rfl, hX⟩ ⟨le_rfl, hY⟩
    have h2 := h _ _ ⟨hX, le_rfl⟩ ⟨le_rfl, hY⟩
    have h3 := h _ _ ⟨le_rfl, hX⟩ ⟨hY, le_rfl⟩
    exact ⟨⟨h1.trans h2.symm, h1.symm.trans h3⟩, h1⟩
  case ne | cne =>
    simp only [everyPair, condHolds, Bool.or_eq_true, Dy.lt_iff]
    refine ⟨fun h X Y hXX hYY heq => by rcases h with h | h <;> linarith, fun h => ?_⟩
    by_contra hno
    rw [not_or, not_lt, not_lt] at hno
    exact h (max lx.real ly.real) (max lx.real ly.real) ⟨le_max_left _ _, max_le hX hno.1⟩ ⟨le_max_right _ _, max_le hno.2 hY⟩ rfl
  case lt | clt =>
    rw [everyPair, Dy.lt_iff]
    exact ⟨fun h X Y hXX hYY => hXX.2.trans_lt (h.trans_le hYY.1), fun h => h _ _ ⟨hX, le_rfl⟩ ⟨le_rfl, hY⟩⟩
  case le | cle =>
    rw [everyPair, Dy.le_iff]
    exact ⟨fun h X Y hXX hYY => hXX.2.trans (h.trans hYY.1), fun h => h _ _ ⟨hX, le_rfl⟩ ⟨le_rfl, hY⟩⟩
  case gt | cgt =>
    rw [everyPair, Dy.lt_iff]
    exact ⟨fun h X Y hXX hYY => hYY.2.trans_lt (h.trans_le hXX.1), fun h => h _ _ ⟨le_rfl, hX⟩ ⟨hY, le_rfl⟩⟩
  case ge | cge =>
    rw [everyPair, Dy.le_iff]
    exact ⟨fun h X Y hXX hYY => hYY.2.trans (h.trans hXX.1), fun h => h _ _ ⟨le_rfl, hX⟩ ⟨hY, le_rfl⟩⟩
  case ord => exact absurd rfl hc.1
  case uno => exact absurd rfl hc.2

/-- A condition holds somewhere in two intervals exactly when its opposite does not hold throughout them. -/
theorem somePair_some {c : Cond} (hc : orderedCond c) {lx hx ly hy : Dy} (hX : lx.real ≤ hx.real) (hY : ly.real ≤ hy.real) :
    somePair c (some (lx, hx)) (some (ly, hy)) = true ↔
      ∃ X Y, (lx.real ≤ X ∧ X ≤ hx.real) ∧ (ly.real ≤ Y ∧ Y ≤ hy.real) ∧ condHolds c X Y := by
  cases c
  case eq | ceq =>
    simp only [somePair, condHolds, Bool.and_eq_true, Dy.le_iff]
    refine ⟨fun h => ?_, fun ⟨X, Y, hXX, hYY, heq⟩ => ⟨by linarith, by linarith⟩⟩
    exact ⟨max lx.real ly.real, max lx.real ly.real, ⟨le_max_left _ _, max_le hX h.2⟩, ⟨le_max_right _ _, max_le h.1 hY⟩, rfl⟩
  case ne | cne =>
    have hall := everyPair_some (c := .eq) ⟨Cond.noConfusion, Cond.noConfusion⟩ hX hY
    rw [somePair, Bool.not_eq_true', ← Bool.not_eq_true]
    change ¬(everyPair .eq (some (lx, hx)) (some (ly, hy)) = true) ↔ _
    rw [hall]
    simp only [condHolds, not_forall, exists_prop]
  case lt | clt =>
    rw [somePair, Dy.lt_iff]
    exact ⟨fun h => ⟨_, _, ⟨le_rfl, hX⟩, ⟨hY, le_rfl⟩, h⟩, fun ⟨X, Y, hXX, hYY, h⟩ => hXX.1.trans_lt (lt_of_lt_of_le h hYY.2)⟩
  case le | cle =>
    rw [somePair, Dy.le_iff]
    exact ⟨fun h => ⟨_, _, ⟨le_rfl, hX⟩, ⟨hY, le_rfl⟩, h⟩, fun ⟨X, Y, hXX, hYY, h⟩ => hXX.1.trans (le_trans h hYY.2)⟩
  case gt | cgt =>
    rw [somePair, Dy.lt_iff]
    exact ⟨fun h => ⟨_, _, ⟨hX, le_rfl⟩, ⟨le_rfl, hY⟩, h⟩, fun ⟨X, Y, hXX, hYY, h⟩ => hYY.1.trans_lt (lt_of_lt_of_le h hXX.2)⟩
  case ge | cge =>
    rw [somePair, Dy.le_iff]
    exact ⟨fun h => ⟨_, _, ⟨hX, le_rfl⟩, ⟨le_rfl, hY⟩, h⟩, fun ⟨X, Y, hXX, hYY, h⟩ => hYY.1.trans (le_trans h hXX.2)⟩
  case ord => exact absurd rfl hc.1
  case uno => exact absurd rfl hc.2

theorem everyPair_iff {c : Cond} (hc : orderedCond c) {I J : Option (Dy × Dy)} (hI : ∃ X, inside I X) (hJ : ∃ Y, inside J Y) :
    everyPair c I J = true ↔ ∀ X Y, inside I X → inside J Y → condHolds c X Y := by
  obtain ⟨x, hx⟩ := hI
  obtain ⟨y, hy⟩ := hJ
  rcases I with _ | ⟨lx, ux⟩
  · obtain ⟨X, hX⟩ := (condHolds_free_left hc y).2
    exact iff_of_false Bool.false_ne_true fun h => hX (h X y (inside_none X) hy)
  rcases J with _ | ⟨ly, uy⟩
  · obtain ⟨Y, hY⟩ := (condHolds_free_right hc x).2
    exact iff_of_false Bool.false_ne_true fun h => hY (h x Y hx (inside_none Y))
  rw [inside_some] at hx hy
  simp only [everyPair_some hc (hx.1.trans hx.2) (hy.1.trans hy.2), inside_some]

theorem somePair_iff {c : Cond} (hc : orderedCond c) {I J : Option (Dy × Dy)} (hI : ∃ X, inside I X) (hJ : ∃ Y, inside J Y) :
    somePair c I J = true ↔ ∃ X Y, inside I X ∧ inside J Y ∧ condHolds c X Y := by
  obtain ⟨x, hx⟩ := hI
  obtain ⟨y, hy⟩ := hJ
  rcases I with _ | ⟨lx, ux⟩
  · obtain ⟨X, hX⟩ := (condHolds_free_left hc y).1
    exact iff_of_true rfl ⟨X, y, inside_none X, hy, hX⟩
  rcases J with _ | ⟨ly, uy⟩
  · obtain ⟨Y, hY⟩ := (condHolds_free_right hc x).1
    exact iff_of_true rfl ⟨x, Y, hx, inside_none Y, hY⟩
  rw [inside_some] at hx hy
  simp only [somePair_some hc (hx.1.trans hx.2) (hy.1.trans hy.2), inside_some]

/-! ## Computed values (R88) -/

/-- The order of two finite values, zeros of either sign being equal, is that of their numbers. -/
theorem fvLe_zero_fin {x y : FV} (hx : x.isFin = true) (hy : y.isFin = true) :
    fvLe (if x.isZero then .fin false 0 0 else x) (if y.isZero then .fin false 0 0 else y) = true ↔ x.dy.real ≤ y.dy.real := by
  have hzero : ∀ {v : FV}, v.isFin = true → ∃ s m e, (if v.isZero then .fin false 0 0 else v) = .fin s m e ∧
      (FV.fin s m e).dy.real = v.dy.real ∧ (m = 0 → s = false) := by
    intro v hv
    cases v with
    | nan | inf => cases hv
    | fin s m e =>
      by_cases hm : m = 0
      · exact ⟨false, 0, 0, by simp [FV.isZero, hm], by simp [FV.dy_real, hm], fun _ => rfl⟩
      · exact ⟨s, m, e, by simp [FV.isZero, hm], rfl, fun h => absurd h hm⟩
  obtain ⟨s, m, e, hxe, hxr, hs⟩ := hzero hx
  obtain ⟨t, n, f, hye, hyr, ht⟩ := hzero hy
  rw [hxe, hye, ← hxr, ← hyr, fvLe]
  split
  · next hmn =>
    rw [Bool.and_eq_true, decide_eq_true_eq, decide_eq_true_eq] at hmn
    obtain ⟨rfl, rfl⟩ := hmn
    simp [ht rfl, FV.dy_real]
  · exact Dy.le_iff _ _

theorem isNan_of_isFin {v : FV} (h : v.isFin = true) : v.isNan = false := by
  cases v with
  | nan | inf => cases h
  | fin => rfl

theorem plainHolds_fin {c : Cond} (hc : orderedCond c) {x y : FV} (hx : x.isFin = true) (hy : y.isFin = true) :
    plainHolds c x y = true ↔ condHolds c x.dy.real y.dy.real := by
  have hle := fvLe_zero_fin hx hy
  have hge := fvLe_zero_fin hy hx
  unfold plainHolds
  simp only [isNan_of_isFin hx, isNan_of_isFin hy, Bool.or_false, Bool.not_false, Bool.true_and]
  cases c
  case eq | ceq => simp only [condHolds, le_antisymm_iff (a := x.dy.real), hle, hge, Bool.and_eq_true]
  case ne | cne => simp only [condHolds, ne_eq, le_antisymm_iff (a := x.dy.real), hle, hge, Bool.not_eq_true', ← Bool.not_eq_true, Bool.and_eq_true]
  case lt | clt => simp only [condHolds, lt_iff_le_not_ge, hle, hge, Bool.and_eq_true, Bool.not_eq_true', ← Bool.not_eq_true]
  case le | cle => exact hle
  case gt | cgt => simp only [condHolds, gt_iff_lt, lt_iff_le_not_ge, hle, hge, Bool.and_eq_true, Bool.not_eq_true', ← Bool.not_eq_true]
  case ge | cge => exact hge
  case ord => exact absurd rfl hc.1
  case uno => exact absurd rfl hc.2

theorem plainHolds_nan {c k : Cond} (hc : certainOf c = some k) {x y : FV} (h : (x.isNan || y.isNan) = true) : plainHolds c x y = (c == .ne) := by
  unfold plainHolds
  simp only [h, Bool.not_true, Bool.false_and]
  cases c <;> cases hc <;> rfl

theorem condHolds_certainOf {c k : Cond} (h : certainOf c = some k) (X Y : ℚ) : condHolds k X Y = condHolds c X Y := by
  cases c <;> cases h <;> rfl

theorem certainOf_kinds {c k : Cond} (h : certainOf c = some k) :
    orderedCond c ∧ orderedCond k ∧ condCertain c = false ∧ condCertain k = true ∧ (c == .ord || c == .uno) = false ∧ (k == .ord || k == .uno) = false := by
  unfold orderedCond
  cases c <;> cases h <;> decide

theorem compareFV_certain {c k : Cond} (h : certainOf c = some k) (x y : Opnd) :
    compareFV k x y = (!(x.v.isNan || y.v.isNan) && everyPair k (interval x) (interval y), false) := by
  obtain ⟨-, -, -, hk, -, hk'⟩ := certainOf_kinds h
  simp [compareFV, hk, hk']

theorem compareFV_plain {c k : Cond} (h : certainOf c = some k) (x y : Opnd) : compareFV c x y = (plainHolds c x.v y.v,
    x.v.isNan || y.v.isNan || (somePair c (interval x) (interval y) && !everyPair c (interval x) (interval y))) := by
  obtain ⟨-, -, hc, -, hc', -⟩ := certainOf_kinds h
  simp [compareFV, hc, hc']

theorem exists_inside (x : LV) : ∃ X, inside (interval (opF32 x)) X := ⟨_, (inside_interval x _).2 (inInterval_self x)⟩

/-- An outcome that holds somewhere and fails somewhere differs somewhere from the computed one. -/
theorem differs_iff {P : ℚ → ℚ → Prop} {I J : ℚ → Prop} {x y : ℚ} (hx : I x) (hy : J y) :
    ((∃ X Y, I X ∧ J Y ∧ P X Y) ∧ ¬∀ X Y, I X → J Y → P X Y) ↔ ∃ X Y, I X ∧ J Y ∧ ¬(P X Y ↔ P x y) := by
  by_cases hP : P x y
  · simp only [hP, iff_true, not_forall, exists_prop, and_iff_right_iff_imp]
    exact fun _ => ⟨x, y, hx, hy, hP⟩
  · simp only [hP, iff_false, not_not, and_iff_left_iff_imp]
    exact fun _ h => hP (h x y hx hy)

/-- Settles O6: a condition holds throughout, or somewhere in, two intervals exactly when it does at the ends that R87 names, an interval
that is the whole line letting it hold and fail. -/
theorem intervalCompares : Obligations.IntervalCompares := by
  unfold Obligations.IntervalCompares
  have hnan (x y : LV) : ((opF32 x).v.isNan || (opF32 y).v.isNan) = true ↔ nanWord x.val ∨ nanWord y.val := by
    rw [Bool.or_eq_true, opF32, opF32, f32_isNan_iff, f32_isNan_iff]
  have hfin {x y : LV} (hx : finiteWord x.val) (hy : finiteWord y.val) : ((opF32 x).v.isNan || (opF32 y).v.isNan) = false := by
    rw [← Bool.not_eq_true, hnan]
    exact not_or.2 ⟨not_nanWord hx, not_nanWord hy⟩
  refine ⟨fun c k x y hck => ?_, fun c k x y hck => ?_, fun x y => ⟨rfl, rfl, hnan x y, ?_⟩⟩
  · obtain ⟨-, hk, -⟩ := certainOf_kinds hck
    rw [compareFV_certain hck]
    refine ⟨rfl, ?_⟩
    simp only [Bool.and_eq_true, Bool.not_eq_true', ← Bool.not_eq_true, hnan, not_or, and_assoc,
      everyPair_iff hk (exists_inside x) (exists_inside y), inside_interval, condHolds_certainOf hck]
  · obtain ⟨hc, -⟩ := certainOf_kinds hck
    rw [compareFV_plain hck]
    refine ⟨fun hx hy => ?_, fun h => ?_, fun hx hy => ?_⟩
    · rw [← f32_real hx, ← f32_real hy]
      exact plainHolds_fin hc ((finiteWord_iff _).1 hx) ((finiteWord_iff _).1 hy)
    · rw [plainHolds_nan hck ((hnan x y).2 h), (hnan x y).2 h, Bool.true_or]
    · rw [hfin hx hy, Bool.false_or, Bool.and_eq_true, Bool.not_eq_true', ← Bool.not_eq_true, somePair_iff hc (exists_inside x) (exists_inside y),
        everyPair_iff hc (exists_inside x) (exists_inside y)]
      simp only [inside_interval]
      exact differs_iff (inInterval_self x) (inInterval_self y)
  · change (!((opF32 x).v.isNan || (opF32 y).v.isNan)) = true ↔ _
    rw [Bool.not_eq_true', ← Bool.not_eq_true, hnan, not_or]

end Sys2Proof.Machine
end

section
/-! PROOFS. Rounding into a format: the two codes next to a number, and which of them the mode takes (R76, R78). -/

namespace Sys2Proof.Machine

/-! ## Rounding to an integer (R76) -/

/-- Whether a number `x` above the integer or code `n`, in units of the step to the next one, goes up to it, in the mode `rnd` of a value of
sign `neg`. -/
def roundsUp (rnd : Rnd) (neg : Bool) (x : ℝ) (n : ℕ) : Prop := match rnd with
  | .rne => 1 / 2 < x ∨ x = 1 / 2 ∧ n % 2 = 1
  | .rz => False
  | .rd => neg = true ∧ x ≠ 0
  | .ru => neg = false ∧ x ≠ 0

/-- `m * 2 ^ e` stands for `t` in rounding: it is `t`, or it is odd and `t` lies strictly between its neighbours (a sticky bit). -/
def standsFor (m : ℕ) (e : ℤ) (t : ℝ) : Prop := t = m * 2 ^ e ∨ m % 2 = 1 ∧ (m - 1) * 2 ^ e < t ∧ t < (m + 1) * 2 ^ e

theorem standsFor.scale {m : ℕ} {e : ℤ} {t : ℝ} (h : standsFor m e t) (k : ℤ) : standsFor m (e + k) (t * 2 ^ k) := by
  have hk : (0 : ℝ) < 2 ^ k := zpow_pos two_pos k
  unfold standsFor
  simp only [zpow_add₀ (two_ne_zero (α := ℝ)), ← mul_assoc, mul_lt_mul_iff_of_pos_right hk]
  exact h.imp_left fun h => by rw [h]

theorem standsFor.lt {m k : ℕ} {e : ℤ} {t : ℝ} (h : standsFor m e t) (hm : m < k) : t < k * 2 ^ e := by
  have he : (0 : ℝ) < 2 ^ e := zpow_pos two_pos e
  have hcast : (m : ℝ) + 1 ≤ k := by exact_mod_cast hm
  rcases h with rfl | ⟨-, -, hlt⟩
  · exact mul_lt_mul_of_pos_right (by linarith) he
  · exact hlt.trans_le (mul_le_mul_of_nonneg_right hcast he.le)

theorem standsFor.le {m k : ℕ} {e : ℤ} {t : ℝ} (h : standsFor m e t) (hk : k ≤ m) (hpar : t = m * 2 ^ e ∨ k % 2 = 0) : k * 2 ^ e ≤ t := by
  have he : (0 : ℝ) < 2 ^ e := zpow_pos two_pos e
  rcases h with rfl | ⟨hodd, hgt, -⟩
  · exact mul_le_mul_of_nonneg_right (by exact_mod_cast hk) he.le
  rcases hpar with rfl | hpar
  · exact mul_le_mul_of_nonneg_right (by exact_mod_cast hk) he.le
  · have hcast : (k : ℝ) + 1 ≤ m := by exact_mod_cast (show k + 1 ≤ m by omega)
    exact (mul_le_mul_of_nonneg_right (by linarith) he.le).trans hgt.le

/-- A remainder by `2 ^ s`, exact or odd with a sticky bit below the half, decides as the number that it stands for. -/
theorem remainder_decides {r s : ℕ} {y : ℝ} (hr : r < 2 ^ s) (h : y = r ∨ 2 ≤ s ∧ r % 2 = 1 ∧ r - 1 < y ∧ y < r + 1) :
    0 ≤ y ∧ y < 2 ^ s ∧ (2 ^ s < 2 * y ↔ 2 ^ s < 2 * r) ∧ (2 * y = 2 ^ s ↔ 2 * r = 2 ^ s) ∧ (y ≠ 0 ↔ r ≠ 0) := by
  rcases h with rfl | ⟨hs, hodd, hgt, hlt⟩
  · exact ⟨Nat.cast_nonneg r, by exact_mod_cast hr, by exact_mod_cast Iff.rfl, by exact_mod_cast Iff.rfl, Nat.cast_ne_zero⟩
  obtain ⟨k, rfl⟩ := Nat.exists_eq_add_of_le' hs
  obtain ⟨j, rfl⟩ : ∃ j, r = 2 * j + 1 := ⟨r / 2, by omega⟩
  simp only [pow_add] at hr ⊢
  have hlow : ∀ n : ℕ, n ≤ j → ((2 * n : ℕ) : ℝ) < y := fun n hn => by
    have hcast : (n : ℝ) ≤ j := by exact_mod_cast hn
    push_cast at hgt ⊢
    linarith
  have hhigh : ∀ n : ℕ, j < n → y < ((2 * n : ℕ) : ℝ) := fun n hn => by
    have hcast : (j : ℝ) + 1 ≤ n := by exact_mod_cast hn
    push_cast at hlt ⊢
    linarith
  have hhalf : (2 : ℝ) ^ k * 2 ^ 2 = 2 * (2 * (2 ^ k : ℕ) : ℕ) := by push_cast; ring
  have hpos : 0 < y := (hlow 0 (Nat.zero_le j)).trans_le' (by simp)
  refine ⟨hpos.le, ?_, ?_, ?_, by simp [hpos.ne']⟩
  · have h2 := hhigh (2 * 2 ^ k) (by omega)
    push_cast at h2
    linarith
  · rw [hhalf, mul_lt_mul_iff_of_pos_left two_pos]
    rcases Nat.lt_or_ge j (2 ^ k) with hj | hj
    · exact iff_of_false (hhigh _ hj).not_gt (by omega)
    · exact iff_of_true (hlow _ hj) (by omega)
  · rw [hhalf, mul_right_inj' two_ne_zero]
    refine iff_of_false ?_ (by omega)
    rcases Nat.lt_or_ge j (2 ^ k) with hj | hj
    · exact (hhigh _ hj).ne
    · exact (hlow _ hj).ne'

/-- Rounding a quotient by a power of two: quotient and remainder decide as the number does. -/
theorem quotient_rounds {m s : ℕ} {t : ℝ} (hs : 0 < s) (h : standsFor m (-(s : ℤ)) t) (hex : t = m * 2 ^ (-(s : ℤ)) ∨ 2 ≤ s) :
    ((m / 2 ^ s : ℕ) : ℝ) ≤ t ∧ t < (m / 2 ^ s : ℕ) + 1 ∧ (1 / 2 < t - (m / 2 ^ s : ℕ) ↔ 2 ^ s < 2 * (m % 2 ^ s)) ∧
      (t - (m / 2 ^ s : ℕ) = 1 / 2 ↔ 2 * (m % 2 ^ s) = 2 ^ s) ∧ (t - (m / 2 ^ s : ℕ) ≠ 0 ↔ m % 2 ^ s ≠ 0) := by
  have hdm := Nat.div_add_mod' m (2 ^ s)
  have hlt := Nat.mod_lt m (Nat.two_pow_pos s)
  generalize m / 2 ^ s = q at *
  generalize m % 2 ^ s = r at *
  have hS : (0 : ℝ) < 2 ^ s := pow_pos two_pos s
  have hz : (2 : ℝ) ^ (-(s : ℤ)) = (2 ^ s)⁻¹ := by rw [zpow_neg, zpow_natCast]
  have hm : (m : ℝ) = q * 2 ^ s + r := by rw [← hdm]; push_cast; ring
  have hpar : m % 2 = r % 2 := by
    obtain ⟨k, rfl⟩ := Nat.exists_eq_add_of_le' hs
    rw [← hdm, pow_succ, ← Nat.mul_assoc, Nat.add_comm, Nat.add_mul_mod_self_right]
  -- `y` is the number in units of the remainder
  obtain ⟨y, rfl⟩ : ∃ y : ℝ, t = q + y / 2 ^ s := ⟨(t - q) * 2 ^ s, by field_simp; ring⟩
  have hunit : ∀ z : ℝ, (q * 2 ^ s + z) * (2 ^ s)⁻¹ = q + z / 2 ^ s := fun z => by field_simp
  rw [standsFor, hz, hm, hpar, add_sub_assoc, add_assoc ((q : ℝ) * 2 ^ s), hunit, hunit, hunit, add_right_inj, add_lt_add_iff_left,
    add_lt_add_iff_left, div_left_inj' hS.ne', div_lt_div_iff_of_pos_right hS, div_lt_div_iff_of_pos_right hS] at h
  rw [hz, hm, hunit, add_right_inj, div_left_inj' hS.ne'] at hex
  obtain ⟨h0, h1, hhalf, htie, hne⟩ := remainder_decides (y := y) hlt (by tauto)
  rw [le_add_iff_nonneg_right, add_lt_add_iff_left, div_lt_one hS, add_sub_cancel_left, div_lt_div_iff₀ two_pos hS,
    div_eq_div_iff hS.ne' two_ne_zero, one_mul, mul_comm y, hhalf, htie, ← hne, ne_eq, div_eq_zero_iff, or_iff_left hS.ne']
  exact ⟨div_nonneg h0 hS.le, h1, Iff.rfl, Iff.rfl, Iff.rfl⟩

/-- An integer or code is one of the two next to a number, the one that the mode takes: `n` lies at or below it, by `x` steps. -/
def takes (rnd : Rnd) (neg : Bool) (x : ℝ) (n r : ℕ) : Prop := r = n ∧ ¬roundsUp rnd neg x n ∨ r = n + 1 ∧ roundsUp rnd neg x n

theorem takes_ite {rnd : Rnd} {neg b : Bool} {x : ℝ} {n : ℕ} (h : b = true ↔ roundsUp rnd neg x n) :
    takes rnd neg x n (if b then n + 1 else n) := by
  split
  · next hb => exact .inr ⟨rfl, h.1 hb⟩
  · next hb => exact .inl ⟨rfl, mt h.2 hb⟩

theorem roundInt_takes (rnd : Rnd) (neg : Bool) {m : ℕ} {e : ℤ} {t : ℝ} (h : standsFor m e t) (hex : t = m * 2 ^ e ∨ e ≤ -2) :
    ∃ n : ℕ, n ≤ t ∧ t < n + 1 ∧ takes rnd neg (t - n) n (roundInt rnd neg m e) := by
  rcases le_or_gt 0 e with he | he
  · obtain ⟨k, rfl⟩ := Int.eq_ofNat_of_zero_le he
    obtain rfl := hex.resolve_right (by omega)
    have hval : (m : ℝ) * 2 ^ ((k : ℕ) : ℤ) = (m * 2 ^ k : ℕ) := by push_cast [zpow_natCast]; rfl
    refine ⟨m * 2 ^ k, hval.ge, by rw [hval]; exact lt_add_one _, .inl ⟨by rw [roundInt, if_pos he, Int.toNat_natCast], ?_⟩⟩
    rw [hval, sub_self]
    cases rnd <;> norm_num [roundsUp]
  · obtain ⟨s, rfl⟩ : ∃ s : ℕ, e = -(s : ℤ) := ⟨(-e).toNat, by omega⟩
    obtain ⟨hle, hlt, hhalf, htie, hne⟩ := quotient_rounds (by omega) h (hex.imp_right (by omega))
    refine ⟨m / 2 ^ s, hle, hlt, ?_⟩
    rw [roundInt, if_neg (by omega), neg_neg, Int.toNat_natCast]
    refine takes_ite ?_
    cases rnd <;> simp only [roundsUp, hhalf, htie, hne, Bool.or_eq_true, Bool.and_eq_true, decide_eq_true_eq, beq_iff_eq, bne_iff_ne,
      Bool.not_eq_true', Bool.false_eq_true]

/-! ## Rounding to a code (R76, R78) -/

/-- The magnitude of a code, were the exponent unlimited. -/
def FpSpec.grid (sp : FpSpec) (c : ℕ) : ℝ := codeMag sp.fw sp.qmin c

theorem FpSpec.grid_strictMono (sp : FpSpec) : StrictMono sp.grid := Rat.cast_strictMono.comp (codeMag_strictMono _ _)

@[simp] theorem FpSpec.grid_zero (sp : FpSpec) : sp.grid 0 = 0 := by rw [FpSpec.grid, codeMag_zero, Rat.cast_zero]

theorem FpSpec.grid_nonneg (sp : FpSpec) (c : ℕ) : 0 ≤ sp.grid c := Rat.cast_nonneg.2 (codeMag_nonneg _ _ _)

theorem FpSpec.grid_step (sp : FpSpec) {j n : ℕ} (hlow : j = 0 ∨ 2 ^ sp.fw ≤ n) (hhigh : n ≤ 2 ^ (sp.fw + 1)) :
    sp.grid (j * 2 ^ sp.fw + n) = n * 2 ^ (sp.qmin + j) := by
  rw [FpSpec.grid, codeMag_step _ hlow hhigh]
  push_cast
  rfl

/-- A code is the rounding of a magnitude as though the exponent were unlimited: of the two codes next to it, the one that the mode takes. -/
def FpSpec.roundsTo (sp : FpSpec) (rnd : Rnd) (neg : Bool) (t : ℝ) (c : ℕ) : Prop :=
  ∃ n, sp.grid n ≤ t ∧ t < sp.grid (n + 1) ∧ takes rnd neg ((t - sp.grid n) / (sp.grid (n + 1) - sp.grid n)) n c

theorem roundsTo_zero (sp : FpSpec) (rnd : Rnd) (neg : Bool) : sp.roundsTo rnd neg 0 0 := by
  refine ⟨0, (sp.grid_zero).le, (sp.grid_zero).symm.trans_lt (sp.grid_strictMono Nat.one_pos), .inl ⟨rfl, ?_⟩⟩
  rw [sp.grid_zero, sub_self, zero_div]
  cases rnd <;> norm_num [roundsUp]

theorem takes_add_even {rnd : Rnd} {neg : Bool} {x : ℝ} {n r k : ℕ} (hk : k % 2 = 0) (h : takes rnd neg x n r) : takes rnd neg x (k + n) (k + r) := by
  have hpar : (k + n) % 2 = n % 2 := by omega
  have hup : roundsUp rnd neg x (k + n) ↔ roundsUp rnd neg x n := by cases rnd <;> simp only [roundsUp, hpar]
  unfold takes at *
  rw [hup]
  exact h.imp (And.imp_left (by omega)) (And.imp_left (by omega))

/-- The code that the model forms is the rounding of every magnitude that the mantissa stands for, an inexact one having two bits to spare. -/
theorem magCode_roundsTo {sp : FpSpec} (hsp : sp.widthsOk) (rnd : Rnd) (neg : Bool) {m : ℕ} {e : ℤ} {t : ℝ} (h : standsFor m e t)
    (hex : t = m * 2 ^ e ∨ 2 ^ (sp.fw + 2) ≤ m) : sp.roundsTo rnd neg t (magCode sp rnd neg m e) := by
  rw [magCode]
  split
  · next hm =>
    subst hm
    have ht : t = 0 := by
      rcases h with h | h
      · rw [h, Nat.cast_zero, zero_mul]
      · exact absurd h.1 (by decide)
    rw [ht]
    exact roundsTo_zero sp rnd neg
  next hm =>
  have hlog := Nat.log2_self_le hm
  have hlog' : m < 2 ^ (m.log2 + 1) := Nat.lt_log2_self
  change sp.roundsTo rnd neg t ((max ((m.log2 : ℤ) + e - sp.fw) sp.qmin - sp.qmin).toNat * 2 ^ sp.fw +
    roundInt rnd neg m (e - max ((m.log2 : ℤ) + e - sp.fw) sp.qmin))
  obtain ⟨j, hj⟩ : ∃ j : ℕ, max ((m.log2 : ℤ) + e - sp.fw) sp.qmin = sp.qmin + j :=
    ⟨(max ((m.log2 : ℤ) + e - sp.fw) sp.qmin - sp.qmin).toNat, by omega⟩
  have hk : sp.fw + 2 ≤ m.log2 ∨ t = m * 2 ^ e := hex.symm.imp_left fun h => (Nat.le_log2 hm).2 h
  rw [hj, add_sub_cancel_left, Int.toNat_natCast]
  have hq : (0 : ℝ) < 2 ^ (sp.qmin + j) := zpow_pos two_pos _
  -- the number in units of the last place
  obtain ⟨u, rfl⟩ : ∃ u, t = u * 2 ^ (sp.qmin + (j : ℤ)) := ⟨t / 2 ^ (sp.qmin + (j : ℤ)), (div_mul_cancel₀ _ hq.ne').symm⟩
  have hu := h.scale (-(sp.qmin + j))
  have hex' : u = m * 2 ^ (e - (sp.qmin + j)) ∨ sp.fw + 2 ≤ m.log2 := by
    refine hk.symm.imp_left fun hx => ?_
    rw [zpow_sub₀ two_ne_zero, ← mul_div_assoc, ← hx, mul_div_cancel_right₀ _ hq.ne']
  rw [zpow_neg, mul_inv_cancel_right₀ hq.ne', ← sub_eq_add_neg] at hu
  obtain ⟨n, hn, hn', htakes⟩ := roundInt_takes rnd neg hu (hex'.imp_right fun _ => by omega)
  have hhigh : n < 2 ^ (sp.fw + 1) := by
    have hlt := hu.lt hlog'
    have hle : ((2 ^ (m.log2 + 1) : ℕ) : ℝ) * 2 ^ (e - (sp.qmin + j)) ≤ (2 ^ (sp.fw + 1) : ℕ) := by
      push_cast
      rw [← zpow_natCast, ← zpow_natCast, ← zpow_add₀ two_ne_zero]
      exact zpow_le_zpow_right₀ one_le_two (by push_cast; omega)
    exact_mod_cast (hn.trans_lt hlt).trans_le hle
  have hlow : j = 0 ∨ 2 ^ sp.fw ≤ n := by
    refine (Nat.eq_zero_or_pos j).imp_right fun hpos => ?_
    have hle := hu.le hlog (hex'.imp_right fun hl => by rw [Nat.pow_mod]; simp [show m.log2 ≠ 0 by omega])
    have heq : ((2 ^ m.log2 : ℕ) : ℝ) * 2 ^ (e - (sp.qmin + j)) = (2 ^ sp.fw : ℕ) := by
      push_cast
      rw [← zpow_natCast, ← zpow_natCast, ← zpow_add₀ two_ne_zero]
      congr 1
      omega
    rw [heq] at hle
    exact Nat.lt_succ_iff.1 (by exact_mod_cast hle.trans_lt hn')
  have hgrid := sp.grid_step hlow hhigh.le
  have hgrid' := sp.grid_step (hlow.imp_right Nat.le_succ_of_le) hhigh
  have heven : j * 2 ^ sp.fw % 2 = 0 := by rw [Nat.mul_mod, Nat.pow_mod]; simp [hsp.2.ne']
  refine ⟨j * 2 ^ sp.fw + n, ?_, ?_, ?_⟩
  · rw [hgrid]; exact mul_le_mul_of_nonneg_right hn hq.le
  · rw [Nat.add_assoc, hgrid']; exact mul_lt_mul_of_pos_right (by push_cast; exact hn') hq
  · rw [Nat.add_assoc, hgrid, hgrid', ← sub_mul, ← sub_mul, Nat.cast_succ, add_sub_cancel_left, one_mul, mul_div_cancel_right₀ _ hq.ne']
    exact takes_add_even heven htakes

/-! ## What the mode makes of the two codes -/

/-- A code is the last at or below a magnitude; the first at or above it; the nearest to it, of two the even one. -/
def FpSpec.floorCode (sp : FpSpec) (t : ℝ) (c : ℕ) : Prop := ∀ d, sp.grid d ≤ t ↔ d ≤ c
def FpSpec.ceilCode (sp : FpSpec) (t : ℝ) (c : ℕ) : Prop := ∀ d, t ≤ sp.grid d ↔ c ≤ d
def FpSpec.nearCode (sp : FpSpec) (t : ℝ) (c : ℕ) : Prop := ∀ d, |t - sp.grid c| ≤ |t - sp.grid d| ∧ (|t - sp.grid c| = |t - sp.grid d| → c ≠ d → c % 2 = 0)

theorem floorCode_of_between {sp : FpSpec} {t : ℝ} {n : ℕ} (h : sp.grid n ≤ t) (h' : t < sp.grid (n + 1)) : sp.floorCode t n := fun _ =>
  ⟨fun hd => Nat.lt_succ_iff.1 (sp.grid_strictMono.lt_iff_lt.1 (hd.trans_lt h')), fun hd => (sp.grid_strictMono.monotone hd).trans h⟩

theorem ceilCode_of_between {sp : FpSpec} {t : ℝ} {n : ℕ} (h : sp.grid n < t) (h' : t ≤ sp.grid (n + 1)) : sp.ceilCode t (n + 1) := fun _ =>
  ⟨fun hd => sp.grid_strictMono.lt_iff_lt.1 (h.trans_le hd), fun hd => h'.trans (sp.grid_strictMono.monotone hd)⟩

theorem ceilCode_grid (sp : FpSpec) (n : ℕ) : sp.ceilCode (sp.grid n) n := fun _ => sp.grid_strictMono.le_iff_le

theorem roundsTo_floor {sp : FpSpec} {rnd : Rnd} {neg : Bool} {t : ℝ} {c : ℕ} (hmode : ∀ x n, ¬roundsUp rnd neg x n)
    (h : sp.roundsTo rnd neg t c) : sp.floorCode t c := by
  obtain ⟨n, hn, hn', ⟨rfl, -⟩ | ⟨-, hup⟩⟩ := h
  · exact floorCode_of_between hn hn'
  · exact absurd hup (hmode _ _)

theorem roundsTo_ceil {sp : FpSpec} {rnd : Rnd} {neg : Bool} {t : ℝ} {c : ℕ} (hmode : ∀ x n, roundsUp rnd neg x n ↔ x ≠ 0)
    (h : sp.roundsTo rnd neg t c) : sp.ceilCode t c := by
  obtain ⟨n, hn, hn', h⟩ := h
  have hne : sp.grid (n + 1) - sp.grid n ≠ 0 := (sub_pos.2 (sp.grid_strictMono n.lt_succ_self)).ne'
  rw [takes, hmode, ne_eq, div_eq_zero_iff, or_iff_left hne, sub_eq_zero, not_not] at h
  rcases h with ⟨rfl, rfl⟩ | ⟨rfl, hup⟩
  · exact ceilCode_grid sp c
  · exact ceilCode_of_between (lt_of_le_of_ne hn (Ne.symm hup)) hn'.le

/-- The half of a step, by the sum of its ends. -/
theorem half_step_iff {a b t : ℝ} (h : a < b) : (1 / 2 < (t - a) / (b - a) ↔ a + b < 2 * t) ∧ ((t - a) / (b - a) = 1 / 2 ↔ a + b = 2 * t) := by
  have hpos : 0 < b - a := sub_pos.2 h
  rw [div_lt_div_iff₀ two_pos hpos, div_eq_div_iff hpos.ne' two_ne_zero]
  constructor <;> constructor <;> intro <;> linarith

theorem roundsTo_rne {sp : FpSpec} {neg : Bool} {t : ℝ} {c : ℕ} (h : sp.roundsTo .rne neg t c) : ∃ n, sp.grid n ≤ t ∧ t < sp.grid (n + 1) ∧
    (c = n ∧ (2 * t < sp.grid n + sp.grid (n + 1) ∨ 2 * t = sp.grid n + sp.grid (n + 1) ∧ n % 2 = 0) ∨
      c = n + 1 ∧ (sp.grid n + sp.grid (n + 1) < 2 * t ∨ 2 * t = sp.grid n + sp.grid (n + 1) ∧ n % 2 = 1)) := by
  obtain ⟨n, hn, hn', h⟩ := h
  obtain ⟨hhalf, htie⟩ := half_step_iff (t := t) (hn.trans_lt hn')
  refine ⟨n, hn, hn', ?_⟩
  rw [takes, roundsUp, hhalf, htie, eq_comm (a := sp.grid n + _)] at h
  refine h.imp (And.imp_right fun hno => ?_) id
  rw [not_or, not_lt] at hno
  rcases hno.1.lt_or_eq with hlt | heq
  · exact .inl hlt
  · exact .inr ⟨heq, by have := mt (And.intro heq) hno.2; omega⟩

theorem roundsTo_near {sp : FpSpec} {neg : Bool} {t : ℝ} {c : ℕ} (hr : sp.roundsTo .rne neg t c) : sp.nearCode t c := by
  obtain ⟨n, hn, hn', h⟩ := roundsTo_rne hr
  clear hr
  intro d
  have hdist : |t - sp.grid c| = if c = n then t - sp.grid n else sp.grid (n + 1) - t := by
    rcases h with ⟨rfl, -⟩ | ⟨rfl, -⟩
    · rw [if_pos rfl, abs_of_nonneg (sub_nonneg.2 hn)]
    · rw [if_neg (by omega), abs_sub_comm, abs_of_nonneg (sub_nonneg.2 hn'.le)]
  rcases Nat.lt_or_ge n d with hd | hd
  · have hmono := sp.grid_strictMono.monotone (Nat.succ_le_of_lt hd)
    have heq : sp.grid d = sp.grid (n + 1) → d = n + 1 := fun h => sp.grid_strictMono.injective h
    rw [hdist, abs_sub_comm, abs_of_nonneg (sub_nonneg.2 (hn'.le.trans hmono))]
    rcases h with ⟨rfl, h⟩ | ⟨rfl, h⟩
    · rw [if_pos rfl]
      refine ⟨by rcases h with h | h <;> linarith, fun htie _ => ?_⟩
      rcases h with h | h
      · linarith
      · exact h.2
    · rw [if_neg (by omega)]
      exact ⟨by linarith, fun htie hne => absurd (heq (by linarith)).symm hne⟩
  · have hmono := sp.grid_strictMono.monotone hd
    have heq : sp.grid d = sp.grid n → d = n := fun h => sp.grid_strictMono.injective h
    rw [hdist, abs_of_nonneg (sub_nonneg.2 (hmono.trans hn))]
    rcases h with ⟨rfl, h⟩ | ⟨rfl, h⟩
    · rw [if_pos rfl]
      exact ⟨by linarith, fun htie hne => absurd (heq (by linarith)).symm hne⟩
    · rw [if_neg (by omega)]
      refine ⟨by rcases h with h | h <;> linarith, fun htie _ => ?_⟩
      rcases h with h | h
      · linarith
      · omega

/-- A rounding to the nearest passes a code exactly when the number passes the half of the step above it, or stands there and the code is odd. -/
theorem lt_of_roundsTo_rne {sp : FpSpec} {neg : Bool} {t : ℝ} {c : ℕ} (hr : sp.roundsTo .rne neg t c) (top : ℕ) :
    top < c ↔ sp.grid top + sp.grid (top + 1) < 2 * t ∨ sp.grid top + sp.grid (top + 1) = 2 * t ∧ top % 2 = 1 := by
  obtain ⟨n, hn, hn', h⟩ := roundsTo_rne hr
  clear hr
  have hstep := sp.grid_strictMono (Nat.lt_succ_self top)
  rcases lt_trichotomy top n with hlt | rfl | hgt
  · have hmono := sp.grid_strictMono.monotone (Nat.succ_le_of_lt hlt)
    exact iff_of_true (by omega) (.inl (by linarith))
  · rcases h with ⟨rfl, h⟩ | ⟨rfl, h⟩
    · refine iff_of_false (lt_irrefl _) (not_or.2 ?_)
      rcases h with h | h
      · exact ⟨by linarith, fun hc => by linarith [hc.1]⟩
      · exact ⟨by linarith [h.1], fun hc => by omega⟩
    · exact iff_of_true (by omega) (h.imp_right fun h => ⟨h.1.symm, h.2⟩)
  · have hmono := sp.grid_strictMono.monotone (Nat.succ_le_of_lt hgt)
    exact iff_of_false (by omega) (not_or.2 ⟨by linarith, fun hc => by linarith [hc.1]⟩)

end Sys2Proof.Machine
end

section
/-! PROOFS. The rounding of the model meets the formats of R74: overflow and rounding of every finite value (R76, R78, R79). -/

namespace Sys2Proof.Machine

/-! ## The rows of R74 -/

/-- The model's format and the row of the manual's table say the same. -/
structure FpSpec.RowOf (sp : FpSpec) (r : FmtRow) : Prop where
  ew : r.ew = sp.ew
  fw : r.fw = sp.fw
  bias : r.bias = sp.bias
  top : r.top = maxCode sp
  widths : sp.widthsOk
  normal : 2 ^ sp.fw ≤ maxCode sp
  below : maxCode sp < 2 ^ (sp.ew + sp.fw)

theorem rowOf_fpSpec {f : Fmt} {sp : FpSpec} {r : FmtRow} (hsp : fpSpec f = some sp) (hr : fmtRow f = some r) : sp.RowOf r := by
  cases f <;> cases hsp <;> cases hr <;> exact ⟨rfl, rfl, rfl, by decide, ⟨by decide, by decide⟩, by decide, by decide⟩

theorem exists_fpSpec {f : Fmt} {r : FmtRow} (hr : fmtRow f = some r) : ∃ sp, fpSpec f = some sp := by cases f <;> cases hr <;> exact ⟨_, rfl⟩

variable {sp : FpSpec} {r : FmtRow}

theorem FpSpec.RowOf.fin_iff (h : sp.RowOf r) (c : ℕ) : r.fin c ↔ c % 2 ^ (sp.ew + sp.fw) ≤ maxCode sp := by rw [FmtRow.fin, h.ew, h.fw, h.top]

theorem FpSpec.RowOf.neg_eq (h : sp.RowOf r) (c : ℕ) : r.neg c = sp.neg c := by
  rw [FmtRow.neg, FpSpec.neg, h.ew, h.fw, Bool.beq_eq_decide_eq]

theorem FpSpec.RowOf.real_eq (h : sp.RowOf r) (c : ℕ) : r.real c = sp.real c := by
  obtain ⟨hdiv, hmod⟩ := code_fields sp c
  have hpow : (2 : ℚ) ^ (sp.fw : ℤ) = 2 ^ sp.fw := zpow_natCast _ _
  have hmag : sp.mag c = if c / 2 ^ sp.fw % 2 ^ sp.ew = 0 then ((c % 2 ^ sp.fw : ℕ) : ℚ) / 2 ^ sp.fw * 2 ^ (1 - (sp.bias : ℤ))
      else (1 + ((c % 2 ^ sp.fw : ℕ) : ℚ) / 2 ^ sp.fw) * 2 ^ (((c / 2 ^ sp.fw % 2 ^ sp.ew : ℕ) : ℤ) - sp.bias) := by
    rw [FpSpec.mag, codeMag, hdiv, hmod, FpSpec.qmin]
    refine if_congr Iff.rfl ?_ ?_
    · rw [zpow_sub₀ two_ne_zero, hpow]; ring
    · have hexp : 1 - (sp.bias : ℤ) - sp.fw + (c / 2 ^ sp.fw % 2 ^ sp.ew : ℕ) - 1 = (c / 2 ^ sp.fw % 2 ^ sp.ew : ℕ) - sp.bias - sp.fw := by ring
      rw [hexp, zpow_sub₀ two_ne_zero _ (sp.fw : ℤ), hpow]
      field_simp
  rw [FmtRow.real, FpSpec.real, h.neg_eq, h.fw, h.ew, h.bias, hmag]

/-- The number of a code of either sign. -/
theorem FpSpec.RowOf.real_cast (h : sp.RowOf r) (c : ℕ) :
    (r.real c : ℝ) = if sp.neg c then -sp.grid (c % 2 ^ (sp.ew + sp.fw)) else sp.grid (c % 2 ^ (sp.ew + sp.fw)) := by
  rw [h.real_eq, FpSpec.real, FpSpec.mag, FpSpec.grid]
  split <;> push_cast <;> rfl

theorem neg_of_lt {c : ℕ} (h : c < 2 ^ (sp.ew + sp.fw)) : sp.neg c = false := by simp [FpSpec.neg, Nat.div_eq_of_lt h]

theorem signBit_add {c : ℕ} (neg : Bool) (h : c < 2 ^ (sp.ew + sp.fw)) :
    sp.neg (signBit sp neg + c) = neg ∧ (signBit sp neg + c) % 2 ^ (sp.ew + sp.fw) = c := by
  cases neg
  · rw [signBit, if_neg Bool.false_ne_true, Nat.zero_add]
    exact ⟨neg_of_lt h, Nat.mod_eq_of_lt h⟩
  · rw [signBit, if_pos rfl, Nat.add_mod_left, FpSpec.neg, Nat.add_div_left _ (Nat.two_pow_pos _), Nat.div_eq_of_lt h]
    exact ⟨rfl, Nat.mod_eq_of_lt h⟩

theorem FpSpec.RowOf.most_cast (h : sp.RowOf r) : (r.most : ℝ) = sp.grid r.top := by
  rw [FmtRow.most, h.real_cast, h.top, neg_of_lt h.below, if_neg Bool.false_ne_true, Nat.mod_eq_of_lt h.below]

theorem FpSpec.RowOf.next_cast (h : sp.RowOf r) : (r.next : ℝ) = sp.grid (r.top + 1) := by
  obtain ⟨j, n, hc, hlow, hhigh⟩ := exists_step sp.fw r.top
  have hnormal : 2 ^ sp.fw ≤ n := hlow.elim (fun hj => by subst hj; have := h.normal; rw [← h.top] at this; omega) id
  have hdiv : r.top / 2 ^ sp.fw = j + 1 := by
    rw [hc, Nat.mul_comm, Nat.mul_add_div (Nat.two_pow_pos _), Nat.div_eq_of_lt_le (k := 1) (by omega) (by rw [pow_succ] at hhigh; omega)]
  have hexp : ((j + 1 : ℕ) : ℤ) - sp.bias - sp.fw = sp.qmin + j := by rw [FpSpec.qmin]; push_cast; ring
  rw [FmtRow.next, Rat.cast_add, h.most_cast, h.fw, h.bias, hdiv, hexp, hc, Nat.add_assoc, sp.grid_step hlow hhigh.le,
    sp.grid_step (.inr (Nat.le_succ_of_le hnormal)) hhigh]
  push_cast
  ring

/-! ## Overflow and rounding (R76, R78) -/

/-- A number of sign `neg` and magnitude `t`. -/
def withSign (neg : Bool) (t : ℝ) : ℝ := if neg then -t else t

theorem abs_withSign (neg : Bool) {t : ℝ} (h : 0 ≤ t) : |withSign neg t| = t := by cases neg <;> simp [withSign, abs_of_nonneg h]

theorem withSign_lt_zero_iff {neg : Bool} {t : ℝ} (h : 0 < t) : withSign neg t < 0 ↔ neg = true := by
  cases neg
  · simpa [withSign] using h.le
  · simpa [withSign] using h

/-- What a mode makes of a magnitude of a sign: it takes the code at or below it, the one at or above it, or the nearest. -/
def FpSpec.directed (sp : FpSpec) (rnd : Rnd) (neg : Bool) (t : ℝ) (c : ℕ) : Prop := match rnd, neg with
  | .rne, _ => sp.roundsTo .rne neg t c
  | .rz, _ | .rd, false | .ru, true => sp.floorCode t c
  | .rd, true | .ru, false => sp.ceilCode t c

theorem roundsTo_directed {rnd : Rnd} {neg : Bool} {t : ℝ} {c : ℕ} (h : sp.roundsTo rnd neg t c) : sp.directed rnd neg t c := by
  cases rnd
  case rne => exact h
  case rz => exact roundsTo_floor (by simp [roundsUp]) h
  case rd =>
    cases neg
    · exact roundsTo_floor (by simp [roundsUp]) h
    · exact roundsTo_ceil (by simp [roundsUp]) h
  case ru =>
    cases neg
    · exact roundsTo_ceil (by simp [roundsUp]) h
    · exact roundsTo_floor (by simp [roundsUp]) h

theorem eq_zero_of_roundsTo_zero {rnd : Rnd} {neg : Bool} {c : ℕ} (h : sp.roundsTo rnd neg 0 c) : c = 0 := by
  obtain ⟨n, hn, -, htakes⟩ := h
  obtain rfl : n = 0 := Nat.le_zero.1 (sp.grid_strictMono.le_iff_le.1 (hn.trans sp.grid_zero.ge))
  rw [sp.grid_zero, sub_self, zero_div] at htakes
  rcases htakes with ⟨hc, -⟩ | ⟨-, hup⟩
  · exact hc
  · cases rnd <;> norm_num [roundsUp] at hup

/-- A number overflows exactly when its code passes the largest finite one. -/
theorem over_iff (hrow : sp.RowOf r) {rnd : Rnd} {neg : Bool} {t : ℝ} {c : ℕ} (ht : 0 ≤ t) (h : sp.roundsTo rnd neg t c) :
    r.over rnd (withSign neg t) ↔ r.top < c := by
  have hcases := roundsTo_directed h
  have hmost := sp.grid_nonneg r.top
  have hnext : 0 < sp.grid (r.top + 1) := hmost.trans_lt (sp.grid_strictMono r.top.lt_succ_self)
  have hfloor : sp.floorCode t c → (sp.grid (r.top + 1) ≤ t ↔ r.top < c) := fun hf => hf _
  have hceil : sp.ceilCode t c → (sp.grid r.top < t ↔ r.top < c) := fun hc => by rw [← not_le, hc, not_le]
  unfold FmtRow.over
  cases rnd
  case rne => simp only [Rat.cast_add, hrow.most_cast, hrow.next_cast, abs_withSign neg ht]; exact (lt_of_roundsTo_rne hcases r.top).symm
  case rz => simp only [hrow.next_cast, abs_withSign neg ht]; exact hfloor hcases
  case rd =>
    cases neg <;> simp only [hrow.most_cast, hrow.next_cast, withSign, if_true, Bool.false_eq_true, if_false, neg_neg]
    · rw [or_iff_right (fun hv => hv.1.not_ge ht)]; exact hfloor hcases
    · rw [or_iff_left (by linarith), and_iff_right_of_imp (fun hv => by linarith)]; exact hceil hcases
  case ru =>
    cases neg <;> simp only [hrow.most_cast, hrow.next_cast, withSign, if_true, Bool.false_eq_true, if_false, neg_neg]
    · rw [or_iff_left (by linarith)]; exact hceil hcases
    · rw [or_iff_right (by linarith)]; exact hfloor hcases

/-- What a finite code stands for: a magnitude of the grid, of either sign. -/
theorem exists_withSign (hrow : sp.RowOf r) {d : ℕ} (h : r.fin d) : ∃ neg k, k ≤ r.top ∧ (r.real d : ℝ) = withSign neg (sp.grid k) :=
  ⟨sp.neg d, d % 2 ^ (sp.ew + sp.fw), by rw [hrow.top]; exact (hrow.fin_iff d).1 h, hrow.real_cast d⟩

theorem floor_optimal {t : ℝ} {c : ℕ} (h : sp.floorCode t c) (s : Bool) (k : ℕ) :
    sp.grid c ≤ t ∧ (withSign s (sp.grid k) ≤ t → withSign s (sp.grid k) ≤ sp.grid c) := by
  refine ⟨(h c).2 le_rfl, fun hk => ?_⟩
  cases s
  · exact sp.grid_strictMono.monotone ((h k).1 hk)
  · exact (neg_nonpos.2 (sp.grid_nonneg k)).trans (sp.grid_nonneg c)

theorem ceil_optimal {t : ℝ} {c : ℕ} (ht : 0 ≤ t) (h : sp.ceilCode t c) (s : Bool) (k : ℕ) :
    t ≤ sp.grid c ∧ (t ≤ withSign s (sp.grid k) → sp.grid c ≤ withSign s (sp.grid k)) := by
  refine ⟨(h c).2 le_rfl, fun hk => ?_⟩
  cases s
  · exact sp.grid_strictMono.monotone ((h k).1 hk)
  · have hneg : -sp.grid k ≤ 0 := neg_nonpos.2 (sp.grid_nonneg k)
    have hc : c = 0 := Nat.le_zero.1 ((h 0).1 (sp.grid_zero.symm ▸ hk.trans hneg))
    rw [hc, sp.grid_zero]
    exact ht.trans hk

theorem near_optimal {t : ℝ} {c : ℕ} (ht : 0 ≤ t) (h : sp.nearCode t c) (neg s : Bool) (k : ℕ) :
    |withSign neg t - withSign neg (sp.grid c)| ≤ |withSign neg t - withSign s (sp.grid k)| ∧
      (|withSign neg t - withSign neg (sp.grid c)| = |withSign neg t - withSign s (sp.grid k)| →
        withSign neg (sp.grid c) ≠ withSign s (sp.grid k) → c % 2 = 0) := by
  have hsame : ∀ d, |withSign neg t - withSign neg (sp.grid d)| = |t - sp.grid d| := fun d => by
    cases neg
    · rfl
    · rw [withSign, withSign, if_pos rfl, if_pos rfl, ← neg_sub', abs_neg]
  rw [hsame]
  by_cases hs : s = neg
  · subst hs
    rw [hsame]
    exact ⟨(h k).1, fun htie hne => (h k).2 htie fun hck => hne (by rw [hck])⟩
  · have hopp : |withSign neg t - withSign s (sp.grid k)| = t + sp.grid k := by
      have hpos := add_nonneg ht (sp.grid_nonneg k)
      cases neg <;> cases s <;> simp only [withSign, if_true, Bool.false_eq_true, if_false, sub_neg_eq_add, not_true_eq_false] at hs ⊢
      · exact abs_of_nonneg hpos
      · rw [← neg_add', abs_neg, abs_of_nonneg hpos]
    obtain ⟨hle, heven⟩ := h 0
    rw [sp.grid_zero, sub_zero, abs_of_nonneg ht] at hle heven
    have hk := sp.grid_nonneg k
    rw [hopp]
    refine ⟨by linarith, fun htie hne => heven (by linarith) fun hc => hne ?_⟩
    have hk0 : sp.grid k = 0 := by linarith
    rw [hc, hk0, sp.grid_zero]
    cases neg <;> cases s <;> simp [withSign]

/-- A number `x` of even code or not is at least as good a rounding of `v` as `y` is (R76). -/
def roundsBest (rnd : Rnd) (even : Prop) (v x y : ℝ) : Prop := match rnd with
  | .rne => |v - x| ≤ |v - y| ∧ (|v - x| = |v - y| → x ≠ y → even)
  | .rz => |x| ≤ |v| ∧ 0 ≤ v * x ∧ (|y| ≤ |v| → 0 ≤ v * y → |y| ≤ |x|)
  | .rd => x ≤ v ∧ (y ≤ v → y ≤ x)
  | .ru => v ≤ x ∧ (v ≤ y → x ≤ y)

theorem roundsBest_withSign {rnd : Rnd} {neg : Bool} {t : ℝ} {c : ℕ} (ht : 0 ≤ t) (h : sp.roundsTo rnd neg t c) (s : Bool) (k : ℕ) :
    roundsBest rnd (c % 2 = 0) (withSign neg t) (withSign neg (sp.grid c)) (withSign s (sp.grid k)) := by
  have hdir := roundsTo_directed h
  have hc := sp.grid_nonneg c
  have hk := sp.grid_nonneg k
  have hmono : ∀ {a b : ℕ}, a ≤ b → sp.grid a ≤ sp.grid b := fun hab => sp.grid_strictMono.monotone hab
  cases rnd
  case rne => exact near_optimal ht (roundsTo_near hdir) neg s k
  case rz =>
    have hle : sp.grid c ≤ t := (hdir c).2 le_rfl
    rw [roundsBest, abs_withSign neg ht, abs_withSign neg hc, abs_withSign s hk]
    refine ⟨hle, ?_, fun hkt _ => hmono ((hdir k).1 hkt)⟩
    cases neg <;> simp only [withSign, if_true, Bool.false_eq_true, if_false, neg_mul_neg] <;> exact mul_nonneg ht hc
  case rd =>
    cases neg
    · exact floor_optimal hdir s k
    · have hopt := ceil_optimal ht hdir (!s) k
      cases s <;> simp only [withSign, Bool.not_false, Bool.not_true, if_true, Bool.false_eq_true, if_false] at hopt ⊢ <;>
        exact ⟨neg_le_neg hopt.1, fun hy => by linarith [hopt.2 (by linarith)]⟩
  case ru =>
    cases neg
    · exact ceil_optimal ht hdir s k
    · have hopt := floor_optimal hdir (!s) k
      cases s <;> simp only [withSign, Bool.not_false, Bool.not_true, if_true, Bool.false_eq_true, if_false] at hopt ⊢ <;>
        exact ⟨neg_le_neg hopt.1, fun hy => by linarith [hopt.2 (by linarith)]⟩

/-- A code that does not pass the largest finite one is the rounding of the number. -/
theorem rounded_of_roundsTo (hrow : sp.RowOf r) {rnd : Rnd} {neg : Bool} {t : ℝ} {c : ℕ} (ht : 0 ≤ t) (h : sp.roundsTo rnd neg t c) (hc : c ≤ r.top) :
    r.rounded rnd (withSign neg t) (signBit sp neg + c) := by
  have hlt : c < 2 ^ (sp.ew + sp.fw) := by have := hrow.below; rw [← hrow.top] at this; omega
  obtain ⟨hneg, hmod⟩ := signBit_add neg hlt
  have hreal : (r.real (signBit sp neg + c) : ℝ) = withSign neg (sp.grid c) := by rw [hrow.real_cast, hneg, hmod]; rfl
  have hpar : (signBit sp neg + c) % 2 = c % 2 := by
    have : 2 ^ (sp.ew + sp.fw) % 2 = 0 := by rw [Nat.pow_mod]; simp [hrow.widths.1.ne']
    cases neg
    · simp [signBit]
    · rw [signBit, if_pos rfl, Nat.add_mod, this, Nat.zero_add, Nat.mod_mod]
  refine ⟨by rw [hrow.fin_iff, hmod, ← hrow.top]; exact hc, fun hv => ?_, fun d hd => ?_⟩
  · have htpos : 0 < t := lt_of_le_of_ne ht fun h0 => hv (by rw [← h0]; cases neg <;> simp [withSign])
    rw [hrow.neg_eq, hneg, withSign_lt_zero_iff htpos]
  · obtain ⟨s, k, -, hk⟩ := exists_withSign hrow hd
    have hbest := roundsBest_withSign ht h s k
    rw [← hreal, ← hk, ← hpar] at hbest
    cases rnd <;> exact hbest

theorem overflow_bits {f : Fmt} (hsp : fpSpec f = some sp) (hr : fmtRow f = some r) (rnd : Rnd) (sat neg : Bool) :
    (overflow sp rnd sat neg).bits = r.overCode f rnd sat neg := by
  cases f <;> cases hsp <;> cases hr <;> cases rnd <;> cases sat <;> cases neg <;> rfl

/-- A finite value is correctly rounded into every format, and so is every number that it stands for with bits to spare. -/
theorem roundFp_correct {f : Fmt} (hsp : fpSpec f = some sp) (rnd : Rnd) (sat neg : Bool) {m : ℕ} {e : ℤ} {t : ℝ} (ht : 0 ≤ t)
    (h : standsFor m e t) (hex : t = m * 2 ^ e ∨ 2 ^ (sp.fw + 2) ≤ m) :
    correct f rnd sat (withSign neg t) (roundFp sp rnd sat (.fin neg m e)).bits := by
  intro r hr
  have hrow := rowOf_fpSpec hsp hr
  have hround := magCode_roundsTo hrow.widths rnd neg h hex
  have hover := over_iff hrow ht hround
  rw [hover, roundFp]
  rw [← hrow.top]
  refine ⟨fun hlt => ⟨neg, ?_, ?_⟩, fun hle => ?_⟩
  · have htpos : 0 < t := by
      refine lt_of_le_of_ne ht fun h0 => ?_
      subst h0
      rw [eq_zero_of_roundsTo_zero hround] at hlt
      exact absurd hlt (Nat.not_lt_zero _)
    rw [withSign_lt_zero_iff htpos]
  · rw [if_neg (by omega), overflow_bits hsp hr]
  · rw [if_pos (by omega)]
    exact rounded_of_roundsTo hrow ht hround (by omega)

end Sys2Proof.Machine
end

section
/-! PROOFS. Conversions: sources of every format, and the results in floating-point formats, integers and E8M0 (R79, R80, R86). -/

namespace Sys2Proof.Machine

/-! ## Sources (R74) -/

theorem decodeFp_codeReal {sp : FpSpec} {r : FmtRow} (hrow : sp.RowOf r) {bits : ℕ} (h : bits % 2 ^ (r.ew + r.fw) ≤ r.top) :
    ∃ s m e, decodeFp sp bits = .fin s m e ∧ (FV.fin s m e).dy.real = r.real bits ∧ s = r.neg bits := by
  obtain ⟨m, e, heq, -⟩ := decodeFp_fin hrow.widths ((hrow.fin_iff bits).1 h)
  refine ⟨_, m, e, heq, ?_, (hrow.neg_eq bits).symm⟩
  have hreal := decodeFp_real hrow.widths ((decodeFp_isFin_iff hrow.widths bits).2 ((hrow.fin_iff bits).1 h))
  rw [← heq, hreal, hrow.real_eq]

/-- The value of an integer code, as the manual's range gives it. -/
theorem decodeFmt_int {f : Fmt} {lo hi : ℤ} (h : intRange f = some (lo, hi)) (bits : ℕ) : decodeFmt f bits =
    .ofDy false (dyInt (if lo < 0 ∧ hi < (bits % 2 ^ fmtBits f : ℕ) then (bits % 2 ^ fmtBits f : ℕ) - 2 ^ fmtBits f else (bits % 2 ^ fmtBits f : ℕ))) := by
  have hdecode : decodeFmt f bits = .ofDy false (dyInt (decodeInt (fmtSigned f) (fmtBits f) bits)) := by cases f <;> cases h <;> rfl
  rw [hdecode, decodeInt]
  congr 2
  have hrange : (lo < 0 ↔ fmtSigned f = true) ∧ (fmtSigned f = true → hi = ((2 ^ (fmtBits f - 1) : ℕ) : ℤ) - 1) := by
    cases f <;> cases h <;> simp [fmtSigned, fmtBits]
  refine if_congr ?_ (by push_cast; rfl) rfl
  rw [Bool.and_eq_true, decide_eq_true_eq, hrange.1]
  refine and_congr_right fun hs => ?_
  rw [hrange.2 hs]
  omega

theorem codeReal_fp {st : Fmt} {r : FmtRow} (hr : fmtRow st = some r) (bits : ℕ) :
    codeReal st bits = if bits % 2 ^ (r.ew + r.fw) ≤ r.top then some (r.real bits) else none := by cases st <;> cases hr <;> rfl

theorem codeReal_int {st : Fmt} {lo hi : ℤ} (h : intRange st = some (lo, hi)) (bits : ℕ) : codeReal st bits = some
    ((if lo < 0 ∧ hi < (bits % 2 ^ fmtBits st : ℕ) then (bits % 2 ^ fmtBits st : ℕ) - 2 ^ fmtBits st else (bits % 2 ^ fmtBits st : ℕ) : ℤ) : ℚ) := by
  cases st <;> cases h <;> rfl

theorem fmt_others {f : Fmt} (hr : fmtRow f = none) (hint : intRange f = none) : f = .e8m0 ∨ f = .bnd := by
  cases f <;> simp [fmtRow, intRange] at hr hint ⊢

/-- A code that stands for a number decodes to it, and a zero keeps its sign. -/
theorem decodeFmt_codeReal {st : Fmt} {bits : ℕ} {v : ℚ} (h : codeReal st bits = some v) :
    ∃ s m e, decodeFmt st bits = .fin s m e ∧ (FV.fin s m e).dy.real = v ∧ ∀ q, fmtRow st = some q → s = q.neg bits := by
  rcases hr : fmtRow st with _ | r
  case some =>
    obtain ⟨sp, hsp⟩ := exists_fpSpec hr
    rw [codeReal_fp hr] at h
    split at h
    · next hle =>
      obtain ⟨s, m, e, heq, hreal, hs⟩ := decodeFp_codeReal (rowOf_fpSpec hsp hr) hle
      refine ⟨s, m, e, by rw [decodeFmt, hsp]; exact heq, hreal.trans (Option.some.inj h), fun q hq => ?_⟩
      rw [← Option.some.inj hq]
      exact hs
    · cases h
  rcases hint : intRange st with _ | ⟨lo, hi⟩
  case some =>
    rw [codeReal_int hint] at h
    refine ⟨_, _, _, decodeFmt_int hint bits, ?_, fun q hq => by cases hq⟩
    rw [← Option.some.inj h]
    exact (ofDy_real false _).trans (Dy.real_dyInt _)
  -- the one format left whose codes stand for numbers is E8M0
  obtain rfl | rfl := fmt_others hr hint
  case inr => cases h
  change (if bits % 256 = 255 then none else some ((2 : ℚ) ^ (((bits % 256 : ℕ) : ℤ) - 127))) = some v at h
  split at h
  · cases h
  · next hne =>
    refine ⟨false, 1, (bits % 256 : ℕ) - 127, ?_, ?_, fun q hq => by cases hq⟩
    · change (if bits % 256 = 255 then dnan else .fin false 1 ((bits % 256 : ℕ) - 127)) = _
      rw [if_neg hne]
    · rw [FV.dy_real, if_neg Bool.false_ne_true, Nat.cast_one, one_mul, Option.some.inj h]

/-! ## Results in integers (R80) -/

theorem takes_rne {x : ℚ} {neg : Bool} {n r : ℕ} (h0 : 0 ≤ x) (h1 : x < 1) (h : takes .rne neg (x : ℝ) n r) :
    |x + n - r| ≤ 1 / 2 ∧ (|x + n - r| = 1 / 2 → r % 2 = 0) := by
  have hcast : (1 / 2 : ℝ) = ((1 / 2 : ℚ) : ℝ) := by norm_num
  rw [takes, roundsUp, hcast, Rat.cast_lt, Rat.cast_inj, not_or, not_lt] at h
  rcases h with ⟨rfl, hle, hodd⟩ | ⟨rfl, hup⟩
  · rw [add_sub_cancel_right, abs_of_nonneg h0]
    exact ⟨hle, fun htie => Nat.mod_two_ne_one.1 fun hp => hodd ⟨htie, hp⟩⟩
  · have hx : x + n - (n + 1 : ℕ) = -(1 - x) := by push_cast; ring
    rw [hx, abs_neg, abs_of_nonneg (by linarith)]
    refine ⟨by rcases hup with hup | hup <;> linarith, fun htie => ?_⟩
    rcases hup with hup | hup
    · linarith
    · omega

theorem takes_floor {x : ℝ} {rnd : Rnd} {neg : Bool} {n r : ℕ} (hmode : ¬roundsUp rnd neg x n) (h : takes rnd neg x n r) : r = n :=
  h.elim And.left fun h => absurd h.2 hmode

theorem takes_ceil {x : ℚ} {rnd : Rnd} {neg : Bool} {n r : ℕ} (hmode : roundsUp rnd neg (x : ℝ) n ↔ (x : ℝ) ≠ 0) (h : takes rnd neg (x : ℝ) n r)
    (h0 : 0 ≤ x) (h1 : x < 1) : x + n ≤ r ∧ (r : ℚ) < x + n + 1 := by
  rw [takes, hmode, Rat.cast_ne_zero, not_not] at h
  rcases h with ⟨rfl, rfl⟩ | ⟨rfl, hup⟩
  · simp
  · have hpos : 0 < x := lt_of_le_of_ne h0 (Ne.symm hup)
    push_cast
    constructor <;> linarith

/-- The integer that the mode takes for a magnitude is the rounding of the number. -/
theorem roundedInt_roundInt (rnd : Rnd) (neg : Bool) (m : ℕ) (e : ℤ) :
    roundedInt rnd (FV.fin neg m e).dy.real (if neg then -(roundInt rnd neg m e : ℤ) else roundInt rnd neg m e) := by
  obtain ⟨n, hn, hn', htakes⟩ := roundInt_takes rnd neg (t := m * 2 ^ e) (.inl rfl) (.inl rfl)
  rw [FV.dy_real]
  generalize roundInt rnd neg m e = r at *
  obtain ⟨x, hx⟩ : ∃ x : ℚ, (m : ℚ) * 2 ^ e = x + n := ⟨m * 2 ^ e - n, by ring⟩
  have hxr : (m : ℝ) * 2 ^ e = x + n := by
    have hcast := congrArg (Rat.cast : ℚ → ℝ) hx
    push_cast at hcast
    exact hcast
  rw [hxr, add_sub_cancel_right] at htakes
  rw [hxr] at hn hn'
  have h0 : 0 ≤ x := by exact_mod_cast (le_add_iff_nonneg_left _).1 hn
  have h1 : x < 1 := by rw [add_comm] at hn'; exact_mod_cast lt_of_add_lt_add_left hn'
  rw [hx]
  cases rnd
  case rne =>
    obtain ⟨hle, heven⟩ := takes_rne h0 h1 htakes
    have hdist : |(if neg then -(x + n) else x + n) - ((if neg then -(r : ℤ) else r : ℤ) : ℚ)| = |x + n - r| := by
      cases neg
      · simp
      · simp only [if_true]; push_cast; rw [← neg_sub', abs_neg]
    rw [roundedInt, hdist]
    exact ⟨hle, fun htie => by have := heven htie; split <;> omega⟩
  case rz =>
    obtain rfl := takes_floor (by simp [roundsUp]) htakes
    have hr : (0 : ℚ) ≤ r := Nat.cast_nonneg r
    have hsum := add_nonneg h0 hr
    have hfloor : (r : ℚ) ≤ x + r ∧ x + r < r + 1 ∧ 0 ≤ (x + r) * r := ⟨by linarith, by linarith, mul_nonneg hsum hr⟩
    cases neg
    · simpa [roundedInt, abs_of_nonneg hsum, abs_of_nonneg hr] using hfloor
    · simp only [roundedInt, if_true, Int.cast_neg, Int.cast_natCast, abs_neg, neg_mul_neg, abs_of_nonneg hsum, abs_of_nonneg hr]
      exact hfloor
  case rd =>
    rw [roundedInt, eq_comm, Int.floor_eq_iff]
    cases neg
    · obtain rfl := takes_floor (by simp [roundsUp]) htakes
      simp; constructor <;> linarith
    · obtain ⟨hle, hlt⟩ := takes_ceil (by simp [roundsUp]) htakes h0 h1
      simp; constructor <;> linarith
  case ru =>
    rw [roundedInt, eq_comm, Int.ceil_eq_iff]
    cases neg
    · obtain ⟨hle, hlt⟩ := takes_ceil (by simp [roundsUp]) htakes h0 h1
      simp; constructor <;> linarith
    · obtain rfl := takes_floor (by simp [roundsUp]) htakes
      simp; constructor <;> linarith

/-- A conversion to an integer format is the rounding to an integer, saturated. -/
theorem toInt_fin {f : Fmt} {lo hi : ℤ} (h : intRange f = some (lo, hi)) (rnd : Rnd) (neg : Bool) (m : ℕ) (e : ℤ) :
    (toInt f rnd (.fin neg m e)).1 = max lo (min hi (if neg then -(roundInt rnd neg m e : ℤ) else roundInt rnd neg m e)) := by
  have hrange : (if fmtSigned f then -((2 ^ (fmtBits f - 1) : ℕ) : ℤ) else 0) = lo ∧
      (if fmtSigned f then ((2 ^ (fmtBits f - 1) : ℕ) : ℤ) - 1 else ((2 ^ fmtBits f : ℕ) : ℤ) - 1) = hi ∧ lo ≤ hi := by
    cases f <;> cases h <;> decide
  obtain ⟨hlo, hhi, hle⟩ := hrange
  simp only [toInt, hlo, hhi]
  generalize (if neg = true then -(roundInt rnd neg m e : ℤ) else (roundInt rnd neg m e : ℤ)) = x
  split
  · omega
  split <;> omega

theorem intCode_cast (n : ℕ) (x : ℤ) : (intCode n x : ℤ) = x % 2 ^ n := by
  rw [intCode, Int.toNat_of_nonneg (Int.emod_nonneg _ (by positivity))]
  push_cast
  rfl

/-! ## Results in E8M0 (R79) -/

/-- The powers of two next to a positive number. -/
theorem log2_bounds {m : ℕ} (hm : m ≠ 0) (e : ℤ) : (2 : ℚ) ^ ((m.log2 : ℤ) + e) ≤ m * 2 ^ e ∧ (m : ℚ) * 2 ^ e < 2 ^ ((m.log2 : ℤ) + e + 1) ∧
    ((2 : ℚ) ^ ((m.log2 : ℤ) + e) = m * 2 ^ e ↔ m = 2 ^ m.log2) ∧ (3 * (2 : ℚ) ^ ((m.log2 : ℤ) + e) ≤ 2 * (m * 2 ^ e) ↔ 3 * 2 ^ m.log2 ≤ 2 * m) := by
  have he : (0 : ℚ) < 2 ^ e := zpow_pos two_pos e
  have hpow : (2 : ℚ) ^ ((m.log2 : ℤ) + e) = (2 ^ m.log2 : ℕ) * 2 ^ e := by rw [zpow_add₀ two_ne_zero, zpow_natCast]; push_cast; rfl
  rw [zpow_add_one₀ two_ne_zero, hpow, mul_right_comm, mul_le_mul_iff_of_pos_right he, mul_lt_mul_iff_of_pos_right he, mul_left_inj' he.ne',
    ← mul_assoc, ← mul_assoc, mul_le_mul_iff_of_pos_right he]
  refine ⟨by exact_mod_cast Nat.log2_self_le hm, ?_, by rw [Nat.cast_inj, eq_comm], by exact_mod_cast Iff.rfl⟩
  have hlt : m < 2 ^ (m.log2 + 1) := Nat.lt_log2_self
  rw [pow_succ] at hlt
  exact_mod_cast hlt

/-- The power of two next below a number is nearest to it up to one and a half times itself. -/
theorem nearest_pow {v : ℚ} {k : ℤ} (hle : 2 ^ k ≤ v) (hlt : v < 2 ^ (k + 1)) {up : Bool} (hup : up = true ↔ 3 * 2 ^ k ≤ 2 * v) :
    roundedPow .rne v (k + if up then 1 else 0) := by
  intro j
  rw [zpow_add_one₀ two_ne_zero] at hlt
  have hmono : ∀ {a b : ℤ}, a ≤ b → (2 : ℚ) ^ a ≤ 2 ^ b := zpow_le_zpow_right₀ one_le_two
  have hchosen : |v - 2 ^ (k + if up then 1 else 0)| = if up then 2 * 2 ^ k - v else v - 2 ^ k := by
    cases up
    · simp [abs_of_nonneg (sub_nonneg.2 hle)]
    · simp only [if_true]
      rw [zpow_add_one₀ two_ne_zero, abs_sub_comm, mul_comm, abs_of_nonneg (by linarith)]
  rw [hchosen]
  rcases le_or_gt j k with hj | hj
  · have hjk := hmono hj
    rw [abs_of_nonneg (sub_nonneg.2 (hjk.trans hle))]
    refine ⟨?_, fun _ => hj.trans (by split <;> omega)⟩
    split
    · next h => linarith [hup.1 h]
    · linarith
  · have hjk := hmono (Int.add_one_le_of_lt hj)
    rw [zpow_add_one₀ two_ne_zero] at hjk
    rw [abs_sub_comm, abs_of_nonneg (by linarith)]
    cases up
    · have hno := not_le.1 (mt hup.2 Bool.false_ne_true)
      simp only [Bool.false_eq_true, if_false]
      exact ⟨by linarith, fun htie => by linarith⟩
    · simp only [if_true]
      refine ⟨by linarith, fun htie => ?_⟩
      by_contra hlt'
      have hjk' := hmono (Int.add_one_le_of_lt (not_le.1 hlt'))
      rw [zpow_add_one₀ two_ne_zero, zpow_add_one₀ two_ne_zero] at hjk'
      linarith [zpow_pos (two_pos (α := ℚ)) k]

/-- The power of two that E8M0 takes before it limits the range. -/
theorem toE8m0_rounded {m : ℕ} (hm : m ≠ 0) (e : ℤ) (rnd : Rnd) :
    ∃ k : ℤ, roundedPow rnd ((m : ℚ) * 2 ^ e) k ∧ (toE8m0 rnd (.fin false m e) : ℤ) = max (-127) (min 127 k) + 127 := by
  obtain ⟨hle, hlt, hpow, hhalf⟩ := log2_bounds hm e
  refine ⟨(m.log2 : ℤ) + e + if (match rnd with
    | .ru => m != 2 ^ m.log2
    | .rne => decide (3 * 2 ^ m.log2 ≤ 2 * m)
    | .rz => false
    | .rd => false) then 1 else 0, ?_, ?_⟩
  · cases rnd
    case rne => exact nearest_pow hle hlt (by rw [decide_eq_true_eq, hhalf])
    case rz => simpa [roundedPow] using ⟨hle, hlt⟩
    case rd => simpa [roundedPow] using ⟨hle, hlt⟩
    case ru =>
      by_cases hp : m = 2 ^ m.log2
      · simp only [bne, ← hp, beq_self_eq_true, Bool.not_true, Bool.false_eq_true, if_false, add_zero, roundedPow]
        rw [← hpow.2 hp]
        exact ⟨zpow_lt_zpow_right₀ one_lt_two (sub_one_lt _), le_rfl⟩
      · simp only [bne_iff_ne, ne_eq, hp, not_false_eq_true, if_true, roundedPow, add_sub_cancel_right]
        exact ⟨lt_of_le_of_ne hle (mt hpow.1 hp), hlt.le⟩
  · have hcond : (false || m == 0) = false := by simp [hm]
    rw [toE8m0, hcond, if_neg Bool.false_ne_true]
    exact Int.toNat_of_nonneg (by omega)

/-! ## Conversions -/

theorem convert_fp {dt st : Fmt} {sp : FpSpec} (hsp : fpSpec dt = some sp) {rnd : Rnd} {sat : Bool} {bits : ℕ} {b : Bnd} {s : Bool} {m : ℕ} {e : ℤ}
    (hv : decodeFmt st bits = .fin s m e) : convert dt st rnd sat bits b = ((roundFp sp rnd sat (.fin s m e)).bits,
      resultBnd (decodeFp sp (roundFp sp rnd sat (.fin s m e)).bits) false (bndVal b) (FV.fin s m e).dy) := by
  unfold convert
  simp only [hsp, hv]
  rfl

theorem convert_code {dt st : Fmt} (hsp : fpSpec dt = none) {rnd : Rnd} {sat : Bool} {bits : ℕ} {b : Bnd} : (convert dt st rnd sat bits b).1 =
    if dt = .e8m0 then toE8m0 rnd (decodeFmt st bits) else intCode (fmtBits dt) (toInt dt rnd (decodeFmt st bits)).1 := by
  unfold convert
  simp only [hsp]
  split <;> rfl

theorem FV.dy_real_cast (s : Bool) (m : ℕ) (e : ℤ) : (((FV.fin s m e).dy.real : ℚ) : ℝ) = withSign s (m * 2 ^ e) := by
  rw [FV.dy_real, withSign]
  split <;> push_cast <;> rfl

theorem FV.dy_real_eq_zero (s : Bool) (m : ℕ) (e : ℤ) : (FV.fin s m e).dy.real = 0 ↔ m = 0 := by
  have he : (2 : ℚ) ^ e ≠ 0 := (zpow_pos two_pos e).ne'
  rw [FV.dy_real]
  split <;> simp [he]

theorem FV.dy_real_pos (s : Bool) (m : ℕ) (e : ℤ) : 0 < (FV.fin s m e).dy.real ↔ s = false ∧ m ≠ 0 := by
  have he : (0 : ℚ) < 2 ^ e := zpow_pos two_pos e
  rw [FV.dy_real]
  cases s
  · simp [he, Nat.pos_iff_ne_zero]
  · simpa using mul_nonneg (Nat.cast_nonneg (α := ℚ) m) he.le

theorem roundFp_zero (sp : FpSpec) (rnd : Rnd) (sat s : Bool) (e : ℤ) : (roundFp sp rnd sat (.fin s 0 e)).bits = signBit sp s := by
  rw [roundFp, magCode, if_pos rfl, if_pos (Nat.zero_le _), Nat.add_zero]

/-- The conversions of O60. -/
theorem convert_correct (dt st : Fmt) (rnd : Rnd) (sat : Bool) (bits : ℕ) (b : Bnd) (v : ℚ) (hv : codeReal st bits = some v) :
    let c := convert dt st rnd sat bits b
    correct dt rnd sat v c.1 ∧
    (∀ r q, fmtRow dt = some r → fmtRow st = some q → v = 0 → c.1 = if q.neg bits = true then 2 ^ (r.ew + r.fw) else 0) ∧
    (∀ lo hi, intRange dt = some (lo, hi) → ∃ n : ℤ, roundedInt rnd v n ∧ (c.1 : ℤ) = max lo (min hi n) % 2 ^ fmtBits dt) ∧
    (dt = .e8m0 → (v ≤ 0 → c.1 = 0xFF) ∧
      (0 < v → ∃ k : ℤ, roundedPow rnd v k ∧ (c.1 : ℤ) = max (-127) (min 127 k) + 127)) ∧
    (∀ (X β ρ : ℚ) (r : FmtRow), fmtRow dt = some r → bndReal b = some β → |X - v| ≤ β → bndReal c.2 = some ρ →
      r.fin c.1 ∧ |X - r.real c.1| ≤ ρ) := by
  obtain ⟨s, m, e, hdec, rfl, hsign⟩ := decodeFmt_codeReal hv
  dsimp only
  refine ⟨fun r hr => ?_, fun r q hr hq hzero => ?_, fun lo hi hint => ?_, fun he8 => ?_, fun X β ρ r hr hβ hX hρ => ?_⟩
  · obtain ⟨sp, hsp⟩ := exists_fpSpec hr
    rw [convert_fp hsp hdec, FV.dy_real_cast]
    exact roundFp_correct hsp rnd sat s (by positivity) (.inl rfl) (.inl rfl) r hr
  · obtain ⟨sp, hsp⟩ := exists_fpSpec hr
    have hrow := rowOf_fpSpec hsp hr
    rw [convert_fp hsp hdec, (FV.dy_real_eq_zero s m e).1 hzero, roundFp_zero, signBit, hrow.ew, hrow.fw, hsign q hq]
  · have hsp : fpSpec dt = none ∧ dt ≠ .e8m0 := by cases dt <;> cases hint <;> exact ⟨rfl, Fmt.noConfusion⟩
    refine ⟨_, roundedInt_roundInt rnd s m e, ?_⟩
    rw [convert_code hsp.1, if_neg hsp.2, intCode_cast, hdec, toInt_fin hint]
  · subst he8
    rw [convert_code rfl, if_pos rfl, hdec]
    refine ⟨fun hle => ?_, fun hpos => ?_⟩
    · have hno := mt (FV.dy_real_pos s m e).2 hle.not_gt
      rw [toE8m0, if_pos]
      cases s <;> simp_all
    · obtain ⟨rfl, hm⟩ := (FV.dy_real_pos s m e).1 hpos
      rw [FV.dy_real, if_neg Bool.false_ne_true]
      exact toE8m0_rounded hm e rnd
  · obtain ⟨sp, hsp⟩ := exists_fpSpec hr
    have hrow := rowOf_fpSpec hsp hr
    obtain ⟨p, hp, rfl⟩ := exists_bndVal hβ
    rw [convert_fp hsp hdec] at hρ ⊢
    obtain ⟨hfin, q, hq, hle⟩ := resultBnd_ge hρ
    obtain rfl : p = q := Option.some.inj (hp.symm.trans hq)
    refine ⟨(hrow.fin_iff _).2 ((decodeFp_isFin_iff hrow.widths _).1 hfin), ?_⟩
    rw [hrow.real_eq, ← decodeFp_real hrow.widths hfin]
    refine (abs_sub_le _ (FV.fin s m e).dy.real _).trans ?_
    rw [abs_sub_comm (FV.fin s m e).dy.real]
    linarith

end Sys2Proof.Machine
end

section
/-! PROOFS. Division and square root: what the sticky bit stands for, and why their bounds enclose (R84, R85, R214). -/

namespace Sys2Proof.Machine

/-! ## Results of rounding as words -/

/-- A rounded FP32 result is a sign bit and a code below it. -/
theorem roundF32_code (rnd : Rnd) (neg : Bool) (m : ℕ) (e : ℤ) :
    ∃ c, c < 2 ^ 31 ∧ (roundFp spF32 rnd false (.fin neg m e)).bits = signBit spF32 neg + c := by
  rw [roundFp]
  split
  · next h => exact ⟨_, Nat.lt_of_le_of_lt h (by decide), rfl⟩
  · cases rnd <;> cases neg <;> exact ⟨_, by decide, rfl⟩

/-- The sign of a rounded FP32 result, and that it fills its word. -/
theorem roundF32_bits (rnd : Rnd) (neg : Bool) (m : ℕ) (e : ℤ) :
    spF32.neg (roundFp spF32 rnd false (.fin neg m e)).bits = neg ∧
      (BitVec.ofNat 32 (roundFp spF32 rnd false (.fin neg m e)).bits).toNat = (roundFp spF32 rnd false (.fin neg m e)).bits := by
  obtain ⟨c, hc, heq⟩ := roundF32_code rnd neg m e
  rw [heq]
  refine ⟨(signBit_add neg hc).1, ?_⟩
  rw [BitVec.toNat_ofNat]
  refine Nat.mod_eq_of_lt ?_
  cases neg <;> simp only [signBit, spF32, if_true, Bool.false_eq_true, if_false] <;> omega

theorem toF32_zero (rnd : Rnd) (s : Bool) (e : ℤ) : toF32 rnd (.fin s 0 e) = if s then 0x80000000 else 0 := by
  rw [toF32, roundFp_zero]
  cases s <;> rfl

theorem toF32_inf (rnd : Rnd) (s : Bool) : toF32 rnd (.inf s) = (if s then 0x80000000 else 0) ||| 0x7F800000 := by
  rw [toF32, roundFp]
  cases s <;> decide

theorem nanLane_dnan : nanLane dnan = ⟨0x7FC00000, bndInf⟩ := rfl

/-! ## Words and their values -/

/-- The value that a finite word decodes to. -/
theorem f32_fin {w : Word} (h : finiteWord w) : ∃ m e, f32 w = .fin (w.getLsbD 31) m e ∧ (FV.fin (w.getLsbD 31) m e).dy.real = realOf w := by
  have hneg : spF32.neg w.toNat = w.getLsbD 31 := by
    rw [Bool.eq_iff_iff, FpSpec.neg, beq_iff_eq, BitVec.getLsbD, Nat.testBit_eq_decide_div_mod_eq, decide_eq_true_eq]
    rfl
  obtain ⟨m, e, heq, -⟩ := decodeFp_fin widthsOk_spF32 ((decodeFp_isFin_iff widthsOk_spF32 _).1 ((finiteWord_iff w).1 h))
  rw [hneg] at heq
  exact ⟨m, e, heq, by rw [← heq]; exact f32_real h⟩

theorem signBits_xor (x y : Word) : (x ^^^ y) &&& 0x80000000 = if x.getLsbD 31 != y.getLsbD 31 then 0x80000000 else 0 := by
  ext i hi
  have hbit : (0x80000000 : Word)[i] = decide (i = 31) := by
    rw [← BitVec.getLsbD_eq_getElem]
    revert i
    decide
  have hif : ∀ b : Bool, (if b then 0x80000000 else 0 : Word)[i] = (b && decide (i = 31)) := fun b => by
    cases b
    · exact BitVec.getElem_zero hi
    · exact hbit
  rw [BitVec.getElem_and, hbit, BitVec.getElem_xor, hif]
  by_cases h31 : i = 31
  · subst h31
    rfl
  · rw [decide_eq_false h31, Bool.and_false, Bool.and_false]

/-- A word that stands for zero is a sign bit alone. -/
theorem word_of_realOf_zero {w : Word} (h0 : realOf w = 0) : w = if w.getLsbD 31 then 0x80000000 else 0 := by
  have hmag : spF32.mag w.toNat = 0 := by
    rw [realOf_eq, FpSpec.real] at h0
    split at h0
    · exact neg_eq_zero.1 h0
    · exact h0
  have hcode : w.toNat % 2 ^ 31 = 0 := (codeMag_strictMono _ _).injective (hmag.trans (codeMag_zero _ _).symm)
  have hlt := w.isLt
  have hbit : w.getLsbD 31 = decide (w.toNat / 2 ^ 31 % 2 = 1) := by rw [BitVec.getLsbD, Nat.testBit_eq_decide_div_mod_eq]
  refine BitVec.eq_of_toNat_eq ?_
  rw [hbit]
  by_cases hs : w.toNat / 2 ^ 31 % 2 = 1
  · rw [decide_eq_true hs, if_pos rfl]
    change w.toNat = 2 ^ 31
    omega
  · rw [decide_eq_false hs, if_neg Bool.false_ne_true]
    change w.toNat = 0
    omega

/-! ## Division (R84, R85) -/

/-- A quotient cut off below, with a bit that says whether anything was cut off, stands for the quotient. -/
theorem quotient_standsFor {m n k : ℕ} (hn : n ≠ 0) (e : ℤ) :
    standsFor (2 * (m * 2 ^ k / n) + if m * 2 ^ k % n = 0 then 0 else 1) (e - k - 1) ((m : ℝ) / n * 2 ^ e) := by
  have hdm := Nat.div_add_mod (m * 2 ^ k) n
  have hlt := Nat.mod_lt (m * 2 ^ k) (Nat.pos_of_ne_zero hn)
  generalize m * 2 ^ k / n = q at *
  generalize hr : m * 2 ^ k % n = r at *
  have hn' : (0 : ℝ) < n := by exact_mod_cast Nat.pos_of_ne_zero hn
  have hk : (0 : ℝ) < 2 ^ k := by positivity
  have he : (0 : ℝ) < 2 ^ e := zpow_pos two_pos e
  have hreal : (m : ℝ) * 2 ^ k = n * q + r := by exact_mod_cast hdm.symm
  have hval : (m : ℝ) / n = (q + r / n) / 2 ^ k := by field_simp; linarith
  have hexp : (2 : ℝ) ^ (e - k - 1) = 2 ^ e / 2 ^ k / 2 := by rw [zpow_sub_one₀ two_ne_zero, zpow_sub₀ two_ne_zero, zpow_natCast]; rfl
  have hunit : (0 : ℝ) < 2 ^ e / 2 ^ k := div_pos he hk
  rw [standsFor, hexp, hval]
  have hshape : ((q : ℝ) + r / n) / 2 ^ k * 2 ^ e = (q + r / n) * (2 ^ e / 2 ^ k) := by ring
  rw [hshape]
  split
  · next h0 =>
    left
    rw [h0]
    push_cast
    ring
  · next h0 =>
    right
    have hfrac : (0 : ℝ) < r / n ∧ (r : ℝ) / n < 1 := by
      have hr0 : (0 : ℝ) < r := by exact_mod_cast Nat.pos_of_ne_zero h0
      exact ⟨div_pos hr0 hn', (div_lt_one hn').2 (by exact_mod_cast hlt)⟩
    refine ⟨by omega, ?_, ?_⟩
    · have : ((2 * q + 1 : ℕ) - 1 : ℝ) * (2 ^ e / 2 ^ k / 2) = q * (2 ^ e / 2 ^ k) := by push_cast; ring
      rw [this]
      exact mul_lt_mul_of_pos_right (by linarith) hunit
    · have : ((2 * q + 1 : ℕ) + 1 : ℝ) * (2 ^ e / 2 ^ k / 2) = (q + 1) * (2 ^ e / 2 ^ k) := by push_cast; ring
      rw [this]
      exact mul_lt_mul_of_pos_right (by linarith) hunit

/-- The mantissa of an inexact quotient has bits to spare. -/
theorem quotient_bits {m n : ℕ} (hm : m ≠ 0) (hn : n ≠ 0) : 2 ^ 63 ≤ m * 2 ^ (64 + n.log2) / n := by
  have hlog : n < 2 ^ (n.log2 + 1) := Nat.lt_log2_self
  rw [Nat.le_div_iff_mul_le (Nat.pos_of_ne_zero hn)]
  calc 2 ^ 63 * n ≤ 2 ^ 63 * 2 ^ (n.log2 + 1) := Nat.mul_le_mul_left _ hlog.le
    _ = 1 * 2 ^ (64 + n.log2) := by rw [← pow_add, one_mul]; congr 1; omega
    _ ≤ m * 2 ^ (64 + n.log2) := Nat.mul_le_mul_right _ (Nat.pos_of_ne_zero hm)

/-- The rounded quotient of two finite values, its divisor not zero. -/
def divRounded (rnd : Rnd) (s : Bool) (m n : ℕ) (e f : ℤ) : Rounded :=
  roundFp spF32 rnd false (.fin s (2 * (m * 2 ^ (64 + n.log2) / n) + if m * 2 ^ (64 + n.log2) % n = 0 then 0 else 1)
    (e - f - (64 + n.log2 : ℕ) - 1))

theorem divRounded_correct (rnd : Rnd) (s : Bool) {m n : ℕ} (hn : n ≠ 0) (e f : ℤ) :
    correct .f32 rnd false (withSign s ((m * 2 ^ e) / (n * 2 ^ f))) (divRounded rnd s m n e f).bits := by
  have hval : (m : ℝ) * 2 ^ e / (n * 2 ^ f) = m / n * 2 ^ (e - f) := by rw [zpow_sub₀ two_ne_zero]; field_simp
  have hst := quotient_standsFor (m := m) (k := 64 + n.log2) hn (e - f)
  rw [hval]
  refine roundFp_correct rfl rnd false s (by positivity) hst ?_
  rcases Nat.eq_zero_or_pos m with rfl | hm
  · left; simp
  · right
    have := quotient_bits hm.ne' hn
    change 2 ^ 25 ≤ _
    omega

/-- A number `d` of the quotient's sign is within a bound that covers the propagated term and its own error (R84). -/
theorem abs_div_sub_le {x y X Y p q c d : ℚ} (hx : |X - x| ≤ p) (hy : |Y - y| ≤ q) (hq : q < |y|) (hd : |x / y - d| = |(|x| / |y| - |d|)|)
    (hc : |(|d| * |y| - |x|)| * (|y| - q) + |x| * q + |y| * p ≤ c * (|y| * (|y| - q))) : |X / Y - d| ≤ c := by
  have hypos : 0 < |y| := ((abs_nonneg _).trans hy).trans_lt hq
  have hgap : 0 < |y| - q := sub_pos.2 hq
  have hden : 0 < |y| * (|y| - q) := mul_pos hypos hgap
  have hY : |y| - q ≤ |Y| := by
    have := abs_sub_abs_le_abs_sub y Y
    rw [abs_sub_comm] at this
    linarith
  have hYpos : 0 < |Y| := hgap.trans_le hY
  have herr : |x / y - d| = |(|d| * |y| - |x|)| * (|y| - q) / (|y| * (|y| - q)) := by
    have : |x| / |y| - |d| = -((|d| * |y| - |x|) / |y|) := by field_simp; ring
    rw [hd, this, abs_neg, abs_div, abs_abs, mul_div_mul_right _ _ hgap.ne']
  have hprop : |X / Y - x / y| ≤ (|x| * q + |y| * p) / (|y| * (|y| - q)) := by
    have hY0 : Y ≠ 0 := abs_pos.1 hYpos
    have hy0 : y ≠ 0 := abs_pos.1 hypos
    have hsplit : X / Y - x / y = (y * (X - x) - x * (Y - y)) / (y * Y) := by field_simp; ring
    rw [hsplit, abs_div, abs_mul y Y]
    have hnum : |y * (X - x) - x * (Y - y)| ≤ |x| * q + |y| * p := by
      refine (abs_sub _ _).trans ?_
      rw [abs_mul, abs_mul, add_comm]
      gcongr
    exact div_le_div₀ ((abs_nonneg _).trans hnum) hnum hden (mul_le_mul_of_nonneg_left hY hypos.le)
  calc |X / Y - d| ≤ |X / Y - x / y| + |x / y - d| := abs_sub_le _ _ _
    _ ≤ (|(|d| * |y| - |x|)| * (|y| - q) + |x| * q + |y| * p) / (|y| * (|y| - q)) := by
        rw [herr, add_assoc, add_div, add_comm]
        exact add_le_add_right hprop _
    _ ≤ c := (div_le_iff₀ hden).2 hc

/-- The magnitudes of a dividend and a divisor, as the bound of a quotient uses them. -/
def divBound (d : Dy) (x y : Opnd) (X Y : Dy) : Bnd := match x.bound, y.bound with
  | some bx, some bd => if Y.le bd then bndInf else
      leastBnd fun c => ((((d.abs.mul Y).sub X).abs.mul (Y.sub bd)).add (X.mul bd) |>.add (Y.mul bx)).le (c.mul (Y.mul (Y.sub bd)))
  | _, _ => bndInf

theorem divLane_fin {x y : Opnd} {s t : Bool} {m n : ℕ} {e f : ℤ} (hx : x.v = .fin s m e) (hy : y.v = .fin t n f) (hn : n ≠ 0) (rnd : Rnd) :
    divLane rnd x y = ⟨BitVec.ofNat 32 (divRounded rnd (s != t) m n e f).bits,
      if !(decodeFp spF32 (divRounded rnd (s != t) m n e f).bits).isFin || (divRounded rnd (s != t) m n e f).clamped then bndInf
      else divBound (decodeFp spF32 (divRounded rnd (s != t) m n e f).bits).dy x y ⟨m, e⟩ ⟨n, f⟩⟩ := by
  have hfirst : firstNan [x.v, y.v] = none := by rw [hx, hy]; rfl
  unfold divLane divBound divRounded
  rw [hfirst, hx, hy]
  cases x.bound <;> cases y.bound <;> simp only [if_neg hn, FV.sign] <;> congr

theorem divLane_bnd {x y : Opnd} {s t : Bool} {m n : ℕ} {e f : ℤ} (hx : x.v = .fin s m e) (hy : y.v = .fin t n f) (hn : n ≠ 0) (rnd : Rnd) {b : ℚ}
    (hb : bndReal (divLane rnd x y).bnd = some b) : (decodeFp spF32 (divRounded rnd (s != t) m n e f).bits).isFin = true ∧
      bndReal (divBound (decodeFp spF32 (divRounded rnd (s != t) m n e f).bits).dy x y ⟨m, e⟩ ⟨n, f⟩) = some b := by
  rw [divLane_fin hx hy hn] at hb
  dsimp only at hb
  split at hb
  · rw [bndReal_bndInf] at hb
    cases hb
  · next hfin =>
    rw [Bool.or_eq_true, Bool.not_eq_true', not_or, Bool.not_eq_false] at hfin
    exact ⟨hfin.1, hb⟩

theorem divLane_zero {x y : Opnd} {s t : Bool} {m : ℕ} {e f : ℤ} (hx : x.v = .fin s m e) (hy : y.v = .fin t 0 f) (rnd : Rnd) :
    divLane rnd x y = if m = 0 then nanLane dnan else ⟨toF32 rnd (.inf (s != t)), bndInf⟩ := by
  have hfirst : firstNan [x.v, y.v] = none := by rw [hx, hy]; rfl
  unfold divLane
  rw [hfirst, hx, hy]
  simp only [if_true, FV.sign]

theorem divLane_correct {x y : Opnd} {s t : Bool} {m n : ℕ} {e f : ℤ} (hx : x.v = .fin s m e) (hy : y.v = .fin t n f) (hn : n ≠ 0) (rnd : Rnd) :
    correct .f32 rnd false ((x.v.dy.real / y.v.dy.real : ℚ) : ℝ) (divLane rnd x y).val.toNat := by
  have hval : ((x.v.dy.real / y.v.dy.real : ℚ) : ℝ) = withSign (s != t) ((m * 2 ^ e) / (n * 2 ^ f)) := by
    rw [hx, hy, Rat.cast_div, FV.dy_real_cast, FV.dy_real_cast]
    cases s <;> cases t <;> simp [withSign, neg_div, div_neg]
  rw [hval, divLane_fin hx hy hn rnd, divRounded, (roundF32_bits _ _ _ _).2]
  exact divRounded_correct rnd _ hn e f

theorem divLane_encloses {x y : Opnd} {s t : Bool} {m n : ℕ} {e f : ℤ} (hx : x.v = .fin s m e) (hy : y.v = .fin t n f) (hn : n ≠ 0) (rnd : Rnd)
    {X Y : ℚ} (hX : x.within X) (hY : y.within Y) : encloses (divLane rnd x y) (X / Y) := by
  intro b hb
  obtain ⟨hfin, hb⟩ := divLane_bnd hx hy hn rnd hb
  have hval : (divLane rnd x y).val = BitVec.ofNat 32 (divRounded rnd (s != t) m n e f).bits := by rw [divLane_fin hx hy hn]
  have hneg : spF32.neg (divRounded rnd (s != t) m n e f).bits = (s != t) := (roundF32_bits _ _ _ _).1
  have hdec : f32 (divLane rnd x y).val = decodeFp spF32 (divRounded rnd (s != t) m n e f).bits := by rw [hval, f32_ofNat]
  have hword : finiteWord (divLane rnd x y).val := (finiteWord_iff _).2 (by rw [hdec]; exact hfin)
  refine ⟨hword, ?_⟩
  rw [← f32_real hword, hdec]
  have hreal := decodeFp_real widthsOk_spF32 hfin
  generalize (divRounded rnd (s != t) m n e f).bits = bits at *
  obtain ⟨p, hp, hXp⟩ := hX.bound
  obtain ⟨q, hq, hYq⟩ := hY.bound
  rw [divBound, hp, hq] at hb
  dsimp only at hb
  split at hb
  · simp at hb
  next hlt =>
  obtain ⟨c, rfl, hc⟩ := leastBnd_ge hb
  have hmx : (⟨m, e⟩ : Dy).real = |x.v.dy.real| := by
    rw [hx, FV.dy_real, Dy.real]
    cases s <;> simp [abs_of_pos (zpow_pos (two_pos (α := ℚ)) e)]
  have hmy : (⟨n, f⟩ : Dy).real = |y.v.dy.real| := by
    rw [hy, FV.dy_real, Dy.real]
    cases t <;> simp [abs_of_pos (zpow_pos (two_pos (α := ℚ)) f)]
  rw [Dy.le_iff, not_le, hmy] at hlt
  simp only [Dy.le_iff, Dy.real_add, Dy.real_mul, Dy.real_sub, Dy.real_abs, hmx, hmy] at hc
  refine abs_div_sub_le hXp hYq hlt ?_ hc
  -- the quotient and the delivered number have one sign
  have hmag : 0 ≤ spF32.mag bits := codeMag_nonneg _ _ _
  rw [hreal, FpSpec.real, hneg, hx, hy, FV.dy_real, FV.dy_real]
  have he : (0 : ℚ) ≤ m * 2 ^ e := by positivity
  have hf : (0 : ℚ) ≤ n * 2 ^ f := by positivity
  cases s <;> cases t <;> simp [abs_of_nonneg he, abs_of_nonneg hf, abs_of_nonneg hmag, neg_div, div_neg] <;>
    rw [← abs_neg] <;> ring_nf

end Sys2Proof.Machine
end

section
/-! PROOFS. Square root: Newton's method, the sticky bit, and the bound decided by squaring (R84, R85, R214). -/

namespace Sys2Proof.Machine

/-! ## The integer square root -/

/-- A step of Newton's method from above stays at or above the root and halves the distance to it. -/
theorem newton_step {n x : ℕ} (hx : 0 < x) :
    n.sqrt ≤ (x + n / x) / 2 ∧ (n.sqrt < x → (x + n / x) / 2 - n.sqrt ≤ (x - n.sqrt) / 2) := by
  have hsq : n.sqrt * n.sqrt ≤ n := Nat.sqrt_le n
  have hlt : n < (n.sqrt + 1) * (n.sqrt + 1) := Nat.lt_succ_sqrt n
  generalize n.sqrt = s at *
  constructor
  · have hdiv : 2 * s - x ≤ n / x := by
      rw [Nat.le_div_iff_mul_le hx]
      rcases Nat.le_total (2 * s) x with h | h
      · simp [Nat.sub_eq_zero_of_le h]
      · refine le_trans ?_ hsq
        zify [h]
        nlinarith [sq_nonneg ((s : ℤ) - x)]
    omega
  · intro hgt
    have hdiv : n / x ≤ s := by
      refine Nat.lt_succ_iff.1 ((Nat.div_lt_iff_lt_mul hx).2 (hlt.trans_le ?_))
      exact Nat.mul_le_mul_left _ hgt
    omega

theorem isqrtLoop_eq {n : ℕ} (hn : n ≠ 0) (k : ℕ) {x : ℕ} (hle : n.sqrt ≤ x) (hdist : x - n.sqrt < 2 ^ k) : isqrtLoop n k x = n.sqrt := by
  have hpos : 0 < n.sqrt := Nat.sqrt_pos.2 (Nat.pos_of_ne_zero hn)
  induction k generalizing x with
  | zero => rw [isqrtLoop]; omega
  | succ k ih =>
    obtain ⟨hge, hhalf⟩ := newton_step (hpos.trans_le hle)
    rw [isqrtLoop]
    rw [pow_succ] at hdist
    split
    · next hlt => exact ih hge (by have := hhalf (hge.trans_lt hlt); omega)
    · next hno =>
      by_contra hne
      have := hhalf (by omega)
      omega

theorem isqrt_eq (n : ℕ) : isqrt n = n.sqrt := by
  rw [isqrt]
  split
  · next h0 => rw [h0, Nat.sqrt_zero]
  next hn =>
  have hlog : n < 2 ^ (n.log2 + 1) := Nat.lt_log2_self
  have hsqrt : n.sqrt < 2 ^ (n.log2 / 2 + 1) := by
    rw [Nat.sqrt_lt, ← pow_add]
    exact hlog.trans_le (Nat.pow_le_pow_right two_pos (by omega))
  exact isqrtLoop_eq hn _ hsqrt.le
    ((Nat.sub_le _ _).trans_lt (Nat.pow_lt_pow_right one_lt_two (by omega)))

/-! ## The rounded root (R214) -/

/-- An integer root cut off below, with a bit that says whether anything was cut off, stands for the root. -/
theorem root_standsFor (n : ℕ) (g : ℤ) : standsFor (2 * n.sqrt + if n.sqrt * n.sqrt = n then 0 else 1) (g - 1) (√n * 2 ^ g) := by
  have hg : (0 : ℝ) < 2 ^ g := zpow_pos two_pos g
  have hexp : (2 : ℝ) ^ (g - 1) = 2 ^ g / 2 := by rw [zpow_sub_one₀ two_ne_zero]; rfl
  have hle : (n.sqrt : ℝ) ≤ √n := Real.nat_sqrt_le_real_sqrt
  have hlt : √(n : ℝ) < n.sqrt + 1 := Real.real_sqrt_lt_nat_sqrt_succ
  rw [standsFor, hexp]
  split
  · next heq =>
    left
    have hroot : √(n : ℝ) = n.sqrt := by
      have hcast : (n : ℝ) = n.sqrt * n.sqrt := by exact_mod_cast heq.symm
      rw [hcast, Real.sqrt_mul_self (Nat.cast_nonneg _)]
    rw [hroot]
    push_cast
    ring
  · next hne =>
    right
    have hgt : (n.sqrt : ℝ) < √n := by
      refine lt_of_le_of_ne hle fun heq => hne ?_
      have hcast : ((n.sqrt * n.sqrt : ℕ) : ℝ) = n := by rw [Nat.cast_mul, heq, Real.mul_self_sqrt (Nat.cast_nonneg _)]
      exact_mod_cast hcast
    refine ⟨by omega, ?_, ?_⟩
    · have : ((2 * n.sqrt + 1 : ℕ) - 1 : ℝ) * (2 ^ g / 2) = n.sqrt * 2 ^ g := by push_cast; ring
      rw [this]
      exact mul_lt_mul_of_pos_right hgt hg
    · have : ((2 * n.sqrt + 1 : ℕ) + 1 : ℝ) * (2 ^ g / 2) = (n.sqrt + 1) * 2 ^ g := by push_cast; ring
      rw [this]
      exact mul_lt_mul_of_pos_right hlt hg

/-- The rounded root of a positive value, from a mantissa of 128 more bits at an even exponent. -/
def sqrtRounded (rnd : Rnd) (m : ℕ) (e : ℤ) : Rounded :=
  let n := m * 2 ^ (128 + (e % 2).toNat)
  roundFp spF32 rnd false (.fin false (2 * isqrt n + if isqrt n * isqrt n = n then 0 else 1) ((e - (128 + (e % 2).toNat : ℕ)) / 2 - 1))

/-- The magnitude of the root, in the form that is rounded. -/
theorem sqrtRounded_standsFor {m : ℕ} (hm : m ≠ 0) (e : ℤ) : ∃ k g,
    standsFor k g (√((m : ℝ) * 2 ^ e)) ∧ 2 ^ (spF32.fw + 2) ≤ k ∧ ∀ rnd, sqrtRounded rnd m e = roundFp spF32 rnd false (.fin false k g) := by
  obtain ⟨j, hj⟩ : ∃ j : ℕ, 128 + (e % 2).toNat = j := ⟨_, rfl⟩
  obtain ⟨g, hg⟩ : ∃ g : ℤ, e - j = 2 * g := ⟨(e - j) / 2, by omega⟩
  have hdiv : (e - j) / 2 = g := by omega
  have hval : √((m : ℝ) * 2 ^ e) = √((m * 2 ^ j : ℕ) : ℝ) * 2 ^ g := by
    have he : e = (j : ℤ) + (g + g) := by omega
    have hpos : (0 : ℝ) ≤ 2 ^ g := (zpow_pos two_pos g).le
    rw [he, zpow_add₀ two_ne_zero, zpow_add₀ two_ne_zero, ← mul_assoc, Real.sqrt_mul (by positivity), Real.sqrt_mul_self hpos]
    push_cast
    rfl
  refine ⟨_, _, hval ▸ root_standsFor (m * 2 ^ j) g, ?_, fun rnd => ?_⟩
  · have hroot : 2 ^ 64 ≤ (m * 2 ^ j).sqrt := by
      rw [Nat.le_sqrt, ← pow_add]
      exact (Nat.pow_le_pow_right two_pos (by omega)).trans (Nat.le_mul_of_pos_left _ (Nat.pos_of_ne_zero hm))
    change 2 ^ 25 ≤ _
    omega
  · rw [sqrtRounded]
    simp only [hj, hdiv, isqrt_eq]

theorem code_le_of_roundsTo {sp : FpSpec} {rnd : Rnd} {neg : Bool} {t : ℝ} {c k : ℕ} (h : sp.roundsTo rnd neg t c) (ht : t ≤ sp.grid k) : c ≤ k := by
  obtain ⟨n, hn, hn', htakes⟩ := h
  have hnk : n ≤ k := sp.grid_strictMono.le_iff_le.1 (hn.trans ht)
  rcases htakes with ⟨rfl, -⟩ | ⟨rfl, hup⟩
  · exact hnk
  · refine Nat.succ_le_of_lt (lt_of_le_of_ne hnk ?_)
    rintro rfl
    rw [le_antisymm ht hn, sub_self, zero_div] at hup
    cases rnd <;> norm_num [roundsUp] at hup

/-! ## The bound (R84) -/

/-- The test by squaring is sound. -/
theorem geRoot_sound {p q x : Dy} (hx : 0 ≤ x.real) (h : geRoot p q x = true) : 0 ≤ (p.real : ℝ) + q.real * √(x.real : ℝ) := by
  have hsq : √(x.real : ℝ) * √(x.real : ℝ) = x.real := Real.mul_self_sqrt (by exact_mod_cast hx)
  have hroot : 0 ≤ √(x.real : ℝ) := Real.sqrt_nonneg _
  generalize √(x.real : ℝ) = r at *
  have hpn : p.lt (dyInt 0) = true ↔ (p.real : ℝ) < 0 := by rw [Dy.lt_iff, Dy.real_dyInt]; exact_mod_cast Iff.rfl
  have hqn : q.lt (dyInt 0) = true ↔ (q.real : ℝ) < 0 := by rw [Dy.lt_iff, Dy.real_dyInt]; exact_mod_cast Iff.rfl
  rw [geRoot] at h
  dsimp only at h
  by_cases hp : p.lt (dyInt 0) = true <;> by_cases hq : q.lt (dyInt 0) = true <;>
    simp only [hp, hq, Bool.not_true, Bool.not_false, Bool.and_self, Bool.and_false, Bool.and_true, if_true, Bool.false_eq_true, if_false,
      Dy.le_iff, Dy.real_mul] at h
  · have hle : ((-p.real : ℝ)) ^ 2 ≤ (q.real * r) ^ 2 := by
      have hcast : (p.real : ℝ) * p.real ≤ q.real * q.real * x.real := by exact_mod_cast h
      rw [← hsq] at hcast
      linarith
    have := (abs_le.1 (abs_le_of_sq_le_sq hle (mul_nonneg (not_lt.1 (mt hqn.2 hq)) hroot))).2
    linarith
  · have hle : (-(q.real * r) : ℝ) ^ 2 ≤ (p.real : ℝ) ^ 2 := by
      have hcast : (q.real : ℝ) * q.real * x.real ≤ p.real * p.real := by exact_mod_cast h
      rw [← hsq] at hcast
      linarith
    have := (abs_le.1 (abs_le_of_sq_le_sq hle (not_lt.1 (mt hpn.2 hp)))).2
    linarith
  · exact add_nonneg (not_lt.1 (mt hpn.2 hp)) (mul_nonneg (not_lt.1 (mt hqn.2 hq)) hroot)

/-- The propagated term of a root: the root of the bound, and the bound over the root. -/
theorem abs_sqrt_sub_le {x X b : ℝ} (hx : 0 < x) (hX : 0 ≤ X) (h : |X - x| ≤ b) : |√X - √x| ≤ √b ∧ |√X - √x| ≤ b / √x := by
  have hr : 0 < √x := Real.sqrt_pos.2 hx
  have hR : 0 ≤ √X := Real.sqrt_nonneg X
  have hsum : 0 < √X + √x := by linarith
  have hprod : |√X - √x| * (√X + √x) = |X - x| := by
    have hval : (√X - √x) * (√X + √x) = X - x := by
      have h1 := Real.mul_self_sqrt hX
      have h2 := Real.mul_self_sqrt hx.le
      linarith
    rw [← hval, abs_mul, abs_of_pos hsum]
  have habs := abs_nonneg (√X - √x)
  have hdist : |√X - √x| ≤ √X + √x := abs_le.2 ⟨by linarith, by linarith⟩
  constructor
  · refine Real.le_sqrt_of_sq_le ((?_ : _ ≤ _).trans h)
    rw [← hprod, sq]
    exact mul_le_mul_of_nonneg_left hdist habs
  · rw [le_div_iff₀ hr]
    refine le_trans ?_ (hprod.le.trans h)
    exact mul_le_mul_of_nonneg_left (by linarith) habs

/-- What is left of a candidate bound for the propagated term, `t` less or plus the root, covers that term. -/
def rootCovers (below : Bool) (t X b : Dy) : Bool :=
  if X.le b then
    (let sgn : Dy := if below then dyInt (-1) else dyInt 1
     geRoot t sgn X && geRoot (((t.mul t).add X).sub b) (((sgn.mul t)).scale 1) X)
  else geRoot (t.mul X) ((if below then b.add X else b.sub X).neg) X

theorem rootCovers_sound {below : Bool} {t x b : Dy} (hx : 0 < x.real) (h : rootCovers below t x b = true) :
    √(b.real : ℝ) ≤ t.real + (if below then -1 else 1) * √(x.real : ℝ) ∨
      (b.real : ℝ) / √(x.real : ℝ) ≤ t.real + (if below then -1 else 1) * √(x.real : ℝ) := by
  have hxr : (0 : ℝ) < x.real := by exact_mod_cast hx
  have hr : 0 < √(x.real : ℝ) := Real.sqrt_pos.2 hxr
  have hsq : √(x.real : ℝ) * √(x.real : ℝ) = x.real := Real.mul_self_sqrt hxr.le
  rw [rootCovers] at h
  split at h
  · left
    rw [Bool.and_eq_true] at h
    have h1 := geRoot_sound hx.le h.1
    have h2 := geRoot_sound hx.le h.2
    generalize √(x.real : ℝ) = r at *
    refine Real.sqrt_le_iff.2 ?_
    cases below <;> simp only [if_true, Bool.false_eq_true, if_false, Dy.real_add, Dy.real_sub, Dy.real_mul, Dy.real_scale, Dy.real_dyInt] at * <;>
      push_cast at h1 h2 <;> exact ⟨h1, by nlinarith⟩
  · right
    have h1 := geRoot_sound hx.le h
    generalize √(x.real : ℝ) = r at *
    rw [div_le_iff₀ hr]
    cases below <;> simp only [if_true, Bool.false_eq_true, if_false, Dy.real_add, Dy.real_sub, Dy.real_mul, Dy.real_neg] at * <;>
      push_cast at h1 <;> rw [← hsq] at h1 <;> refine le_of_mul_le_mul_right ?_ hr <;> nlinarith

/-- The test of a candidate bound `c` of a root that was delivered as `d`. -/
def rootTest (d X b c : Dy) : Bool :=
  let below := (d.mul d).le X
  rootCovers below (if below then c.add d else c.sub d) X b

/-- A bound that passes the test holds the error of the root and the propagated term. -/
theorem rootTest_sound {d c x b : Dy} {X : ℝ} (hx : 0 < x.real) (hX : 0 ≤ X) (hXb : |X - (x.real : ℝ)| ≤ b.real) (hd : 0 ≤ d.real)
    (h : rootTest d x b c = true) : |√X - (d.real : ℝ)| ≤ c.real := by
  have hxr : (0 : ℝ) < x.real := by exact_mod_cast hx
  have hdr : (0 : ℝ) ≤ d.real := by exact_mod_cast hd
  obtain ⟨hp1, hp2⟩ := abs_sqrt_sub_le hxr hX hXb
  have hbelow : (d.mul d).le x = true ↔ (d.real : ℝ) ≤ √(x.real : ℝ) := by
    rw [Dy.le_iff, Dy.real_mul, Real.le_sqrt hdr hxr.le, sq]
    exact_mod_cast Iff.rfl
  have hprop := (rootCovers_sound hx h).elim hp1.trans hp2.trans
  refine (abs_sub_le _ √(x.real : ℝ) _).trans ?_
  by_cases hb : (d.mul d).le x = true
  · rw [abs_of_nonneg (sub_nonneg.2 (hbelow.1 hb))]
    simp only [hb, if_true, Dy.real_add] at hprop
    push_cast at hprop
    linarith
  · rw [abs_sub_comm √(x.real : ℝ), abs_of_nonneg (sub_nonneg.2 (not_le.1 (mt hbelow.2 hb)).le)]
    simp only [hb, Bool.false_eq_true, if_false, Dy.real_sub] at hprop
    push_cast at hprop
    linarith

/-! ## `fsqrt` -/

theorem sqrtLane_zero {x : Opnd} {s : Bool} {e : ℤ} (hx : x.v = .fin s 0 e) (rnd : Rnd) :
    sqrtLane rnd x = ⟨toF32 rnd (.fin s 0 0), match bndVal x.b with
      | none => bndInf
      | some b => leastBnd fun c => b.le (c.mul c)⟩ := by
  rw [sqrtLane, hx]
  rfl

theorem sqrtLane_neg {x : Opnd} {m : ℕ} {e : ℤ} (hx : x.v = .fin true m e) (hm : m ≠ 0) (rnd : Rnd) : sqrtLane rnd x = nanLane dnan := by
  rw [sqrtLane, hx]
  exact if_neg hm

theorem sqrtLane_pos {x : Opnd} {m : ℕ} {e : ℤ} (hx : x.v = .fin false m e) (hm : m ≠ 0) (rnd : Rnd) :
    (sqrtLane rnd x).val = BitVec.ofNat 32 (sqrtRounded rnd m e).bits ∧ ∀ b, bndReal (sqrtLane rnd x).bnd = some b →
      ∃ xb, bndVal x.b = some xb ∧ bndReal (leastBnd (rootTest (decodeFp spF32 (sqrtRounded rnd m e).bits).dy ⟨m, e⟩ xb)) = some b := by
  unfold sqrtLane
  rw [hx]
  simp only [if_neg hm, Bool.false_eq_true, if_false]
  refine ⟨rfl, fun b hb => ?_⟩
  cases hxb : bndVal x.b with
  | none =>
    rw [hxb] at hb
    exact absurd ((bndReal_bndInf).symm.trans hb) (Option.some_ne_none b).symm
  | some xb => rw [hxb] at hb; exact ⟨xb, rfl, hb⟩

theorem sqrtLane_correct {x : Opnd} {m : ℕ} {e : ℤ} (hx : x.v = .fin false m e) (hm : m ≠ 0) (rnd : Rnd) :
    correct .f32 rnd false √((m : ℝ) * 2 ^ e) (sqrtLane rnd x).val.toNat := by
  obtain ⟨k, g, hst, hbits, heq⟩ := sqrtRounded_standsFor hm e
  rw [(sqrtLane_pos hx hm rnd).1, heq, (roundF32_bits _ _ _ _).2]
  exact roundFp_correct rfl rnd false false (Real.sqrt_nonneg _) hst (.inr hbits)

/-- The root of a finite value does not overflow. -/
theorem sqrtRounded_fin {m : ℕ} {e : ℤ} (hm : m ≠ 0) (hle : (m : ℝ) * 2 ^ e ≤ spF32.grid (maxCode spF32)) (rnd : Rnd) :
    (decodeFp spF32 (sqrtRounded rnd m e).bits).isFin = true := by
  obtain ⟨k, g, hst, hbits, heq⟩ := sqrtRounded_standsFor hm e
  have hround := magCode_roundsTo widthsOk_spF32 rnd false hst (.inr hbits)
  have hone : 1 ≤ spF32.grid (maxCode spF32) := by
    have h1 : spF32.grid 0x3F800000 = 1 := by
      have hstep := spF32.grid_step (j := 126) (n := 2 ^ 23) (.inr le_rfl) (by decide)
      norm_num [spF32, FpSpec.qmin] at hstep
      exact hstep
    rw [← h1]
    exact spF32.grid_strictMono.monotone (by decide)
  have htop : √((m : ℝ) * 2 ^ e) ≤ spF32.grid (maxCode spF32) := by
    refine Real.sqrt_le_iff.2 ⟨by linarith, hle.trans ?_⟩
    nlinarith
  have hcode := code_le_of_roundsTo hround htop
  rw [heq, decodeFp_isFin_iff widthsOk_spF32, roundFp, if_pos hcode]
  exact (signBit_add false (Nat.lt_of_le_of_lt hcode (by decide))).2.le.trans hcode

theorem sqrtLane_encloses {x : Opnd} {m : ℕ} {e : ℤ} (hx : x.v = .fin false m e) (hm : m ≠ 0) (hle : (m : ℝ) * 2 ^ e ≤ spF32.grid (maxCode spF32))
    (rnd : Rnd) {X b : ℚ} (hX : x.within X) (hX0 : 0 ≤ X) (hb : bndReal (sqrtLane rnd x).bnd = some b) :
    finiteWord (sqrtLane rnd x).val ∧ |√(X : ℝ) - (realOf (sqrtLane rnd x).val : ℝ)| ≤ b := by
  obtain ⟨hval, hbnd⟩ := sqrtLane_pos hx hm rnd
  obtain ⟨xb, hxb, hb⟩ := hbnd b hb
  have hfin := sqrtRounded_fin hm hle rnd
  have hdec : f32 (sqrtLane rnd x).val = decodeFp spF32 (sqrtRounded rnd m e).bits := by rw [hval, f32_ofNat]
  have hword : finiteWord (sqrtLane rnd x).val := (finiteWord_iff _).2 (by rw [hdec]; exact hfin)
  refine ⟨hword, ?_⟩
  rw [← f32_real hword, hdec]
  obtain ⟨p, hp, hXp⟩ := hX.bound
  have hxreal : x.v.dy.real = (⟨m, e⟩ : Dy).real := by rw [hx]; rfl
  obtain rfl : xb = p := by
    rw [Opnd.bound, if_pos hX.1, hxb] at hp
    exact Option.some.inj hp
  obtain ⟨c, rfl, hc⟩ := leastBnd_ge hb
  rw [hxreal] at hXp
  refine rootTest_sound ?_ (by exact_mod_cast hX0) (by exact_mod_cast hXp) ?_ hc
  · rw [← hxreal, hx, FV.dy_real_pos]
    exact ⟨rfl, hm⟩
  · obtain ⟨k, g, -, -, heq⟩ := sqrtRounded_standsFor hm e
    rw [decodeFp_real widthsOk_spF32 hfin, FpSpec.real, heq, (roundF32_bits _ _ _ _).1, if_neg Bool.false_ne_true]
    exact codeMag_nonneg _ _ _

/-! ## The obligation -/

theorem finite_mag_le {w : Word} {s : Bool} {m : ℕ} {e : ℤ} (h : finiteWord w) (hw : f32 w = .fin s m e) :
    (m : ℝ) * 2 ^ e ≤ spF32.grid (maxCode spF32) := by
  have hcode := (decodeFp_isFin_iff widthsOk_spF32 _).1 ((finiteWord_iff w).1 h)
  obtain ⟨m', e', heq, hmag⟩ := decodeFp_fin widthsOk_spF32 hcode
  obtain ⟨-, rfl, rfl⟩ : spF32.neg w.toNat = s ∧ m' = m ∧ e' = e := by
    rw [f32, heq] at hw
    injection hw with h1 h2 h3
    exact ⟨h1, h2, h3⟩
  have hcast : (m' : ℝ) * 2 ^ e' = spF32.grid (w.toNat % 2 ^ (spF32.ew + spF32.fw)) := by
    rw [FpSpec.grid, ← FpSpec.mag, ← hmag]
    push_cast
    rfl
  rw [hcast]
  exact spF32.grid_strictMono.monotone hcode

/-- Division of two finite words. -/
theorem fdiv_correct (rnd : Rnd) (x y : LV) (hx : finiteWord x.val) (hy : finiteWord y.val) :
    let d := divLane rnd (opF32 x) (opF32 y)
    (realOf y.val ≠ 0 → correct .f32 rnd false (realOf x.val / realOf y.val : ℚ) d.val.toNat ∧
      (realOf x.val = 0 → d.val = (x.val ^^^ y.val) &&& 0x80000000) ∧
      ∀ X Y : ℚ, within x X → within y Y → encloses d (X / Y)) ∧
    (realOf y.val = 0 → d.bnd = bndInf ∧
      d.val = if realOf x.val = 0 then 0x7FC00000 else ((x.val ^^^ y.val) &&& 0x80000000) ||| 0x7F800000) := by
  obtain ⟨m, e, hxv, hxr⟩ := f32_fin hx
  obtain ⟨n, f, hyv, hyr⟩ := f32_fin hy
  have hm : realOf x.val = 0 ↔ m = 0 := by rw [← hxr, FV.dy_real_eq_zero]
  have hn : realOf y.val = 0 ↔ n = 0 := by rw [← hyr, FV.dy_real_eq_zero]
  have hxo : (opF32 x).v = .fin (x.val.getLsbD 31) m e := hxv
  have hyo : (opF32 y).v = .fin (y.val.getLsbD 31) n f := hyv
  simp only [hm, hn, signBits_xor, ne_eq]
  refine ⟨fun hn0 => ⟨?_, fun hm0 => ?_, fun X Y hX hY => ?_⟩, fun hn0 => ?_⟩
  · have h := divLane_correct hxo hyo hn0 rnd
    rwa [hxo, hyo, hxr, hyr] at h
  · subst hm0
    rw [divLane_fin hxo hyo hn0, divRounded, Nat.zero_mul, Nat.zero_div, Nat.zero_mod, if_pos rfl, Nat.mul_zero, Nat.add_zero]
    exact toF32_zero rnd _ _
  · exact divLane_encloses hxo hyo hn0 rnd (within_opF32 hX) (within_opF32 hY)
  · subst hn0
    rw [divLane_zero hxo hyo, nanLane_dnan, toF32_inf]
    split <;> exact ⟨rfl, rfl⟩

theorem frcp_correct (rnd : Rnd) (y : LV) (hy : finiteWord y.val) (hy0 : realOf y.val ≠ 0) :
    let d := divLane rnd one32 (opF32 y)
    correct .f32 rnd false (1 / realOf y.val : ℚ) d.val.toNat ∧ ∀ Y : ℚ, within y Y → encloses d (1 / Y) := by
  obtain ⟨n, f, hyv, hyr⟩ := f32_fin hy
  have hn : n ≠ 0 := by rwa [← hyr, ne_eq, FV.dy_real_eq_zero] at hy0
  have hyo : (opF32 y).v = .fin (y.val.getLsbD 31) n f := hyv
  have hone : one32.v.dy.real = 1 := by rw [one32, FV.dy_real]; norm_num
  refine ⟨?_, fun Y hY => divLane_encloses (x := one32) rfl hyo hn rnd within_one32 (within_opF32 hY)⟩
  have h := divLane_correct (x := one32) rfl hyo hn rnd
  rwa [hone, hyo, hyr] at h

theorem fsqrt_correct (rnd : Rnd) (x : LV) (hx : finiteWord x.val) :
    let d := sqrtLane rnd (opF32 x)
    (realOf x.val < 0 → d = ⟨0x7FC00000, bndInf⟩) ∧
    (realOf x.val = 0 → d.val = x.val) ∧
    (0 ≤ realOf x.val → correct .f32 rnd false (Real.sqrt (realOf x.val)) d.val.toNat ∧
      ∀ (X b : ℚ), within x X → 0 ≤ X → bndReal d.bnd = some b → finiteWord d.val ∧ |Real.sqrt X - (realOf d.val : ℝ)| ≤ b) := by
  obtain ⟨m, e, hxv, hxr⟩ := f32_fin hx
  have hxo : (opF32 x).v = .fin (x.val.getLsbD 31) m e := hxv
  dsimp only
  rcases eq_or_ne m 0 with rfl | hm
  · -- a zero: the root is the word itself, and the bound's square is no less than the source's bound
    have hr0 : realOf x.val = 0 := by rw [← hxr, FV.dy_real_eq_zero]
    have hval : (sqrtLane rnd (opF32 x)).val = x.val := by
      rw [sqrtLane_zero hxo]
      exact (toF32_zero rnd _ _).trans (word_of_realOf_zero hr0).symm
    rw [hval, hr0]
    refine ⟨fun h => absurd h (lt_irrefl _), fun _ => rfl, fun _ => ⟨?_, fun X b hX hX0 hb => ⟨hx, ?_⟩⟩⟩
    · have hcode : x.val.toNat = (roundFp spF32 rnd false (.fin (x.val.getLsbD 31) 0 0)).bits := by
        rw [← (roundF32_bits _ _ _ _).2, ← toF32, toF32_zero, ← word_of_realOf_zero hr0]
      have hroot : √((0 : ℚ) : ℝ) = withSign (x.val.getLsbD 31) 0 := by simp [withSign]
      rw [hcode, hroot]
      exact roundFp_correct rfl rnd false _ le_rfl (.inl (by simp)) (.inl (by simp))
    · obtain ⟨-, p, hp, hXp⟩ := hX
      obtain ⟨q, hq, rfl⟩ := exists_bndVal hp
      rw [sqrtLane_zero hxo, show bndVal (opF32 x).b = some q from hq] at hb
      obtain ⟨c, rfl, hc⟩ := leastBnd_ge hb
      rw [Dy.le_iff, Dy.real_mul] at hc
      rw [hr0, sub_zero, abs_of_nonneg hX0] at hXp
      have hc0 : (0 : ℝ) ≤ c.real := by exact_mod_cast bndReal_nonneg hb
      rw [Rat.cast_zero, sub_zero, abs_of_nonneg (Real.sqrt_nonneg _)]
      exact Real.sqrt_le_iff.2 ⟨hc0, by rw [sq]; exact_mod_cast hXp.trans hc⟩
  · have hne : realOf x.val ≠ 0 := by rwa [← hxr, ne_eq, FV.dy_real_eq_zero]
    have hpos := FV.dy_real_pos (x.val.getLsbD 31) m e
    rw [hxr] at hpos
    cases hs : x.val.getLsbD 31 with
    | false =>
      rw [hs] at hxo hpos
      have hcast : ((realOf x.val : ℚ) : ℝ) = m * 2 ^ e := by rw [← hxr, hs, FV.dy_real_cast]; rfl
      refine ⟨fun h => absurd (hpos.2 ⟨rfl, hm⟩) h.not_gt, fun h => absurd h hne, fun _ => ⟨?_, fun X b hX hX0 hb => ?_⟩⟩
      · rw [hcast]
        exact sqrtLane_correct hxo hm rnd
      · exact sqrtLane_encloses hxo hm (finite_mag_le hx hxv) rnd (within_opF32 hX) hX0 hb
    | true =>
      rw [hs] at hxo hpos
      refine ⟨fun _ => (sqrtLane_neg hxo hm rnd).trans nanLane_dnan, fun h => absurd h hne, fun h => ?_⟩
      exact absurd (hpos.1 (lt_of_le_of_ne h hne.symm)).1 Bool.noConfusion

/-- Settles O60: rounding takes one of the two codes next to a number, which the sticky bits of quotient and root do not change; each bound
is found by a test that is sound for it. -/
theorem correctRounding : Obligations.CorrectRounding := by
  unfold Obligations.CorrectRounding
  exact ⟨convert_correct, fdiv_correct, fsqrt_correct, frcp_correct⟩

end Sys2Proof.Machine
end

section
/-! PROOFS. One column of a matrix product without scales (R95), and the digit counts of a row (R93). -/

namespace Sys2Proof.Machine

/-! ## Exact sums and products of finite numbers -/

theorem firstNan_pair {a b : FV} (ha : a.isNan = false) (hb : b.isNan = false) : firstNan [a, b] = none := by
  cases a <;> cases ha <;> cases b <;> cases hb <;> rfl

theorem mulN_fin {a b : FV} (ha : a.isFin = true) (hb : b.isFin = true) : (mulN a b).isFin = true ∧ (mulN a b).dy.real = a.dy.real * b.dy.real := by
  rw [mulN, firstNan_pair (isNan_of_isFin ha) (isNan_of_isFin hb)]
  exact mulFV_fin ha hb

theorem addN_fin {a b : FV} (ha : a.isFin = true) (hb : b.isFin = true) : (addN a b).isFin = true ∧ (addN a b).dy.real = a.dy.real + b.dy.real := by
  rw [addN, firstNan_pair (isNan_of_isFin ha) (isNan_of_isFin hb)]
  exact addFV_fin .rne ha hb

theorem foldl_addN_fin {vs : List FV} {v : FV} (hv : v.isFin = true) (h : ∀ x ∈ vs, x.isFin = true) :
    (vs.foldl addN v).isFin = true ∧ (vs.foldl addN v).dy.real = v.dy.real + (vs.map fun x => x.dy.real).sum := by
  induction vs generalizing v with
  | nil => exact ⟨hv, by simp⟩
  | cons x vs ih =>
    obtain ⟨hfin, hreal⟩ := addN_fin hv (h x List.mem_cons_self)
    obtain ⟨hfin', hreal'⟩ := ih hfin fun y hy => h y (List.mem_cons_of_mem _ hy)
    exact ⟨hfin', by rw [List.foldl_cons, hreal', hreal, List.map_cons, List.sum_cons, add_assoc]⟩

theorem sumN_fin {vs : List FV} (h : ∀ x ∈ vs, x.isFin = true) : (sumN vs).isFin = true ∧ (sumN vs).dy.real = (vs.map fun x => x.dy.real).sum := by
  cases vs with
  | nil => exact ⟨rfl, by rw [sumN, FV.dy_real]; simp⟩
  | cons v vs => exact foldl_addN_fin (h v List.mem_cons_self) fun x hx => h x (List.mem_cons_of_mem _ hx)

/-- 1 as a factor, a scale and a row's or bank's own multiplier. -/
def oneFV : FV := .fin false 1 0

theorem mulN_one {a : FV} (ha : a.isFin = true) : (mulN a oneFV).isFin = true ∧ (mulN a oneFV).dy.real = a.dy.real := by
  obtain ⟨hfin, hreal⟩ := mulN_fin (b := oneFV) ha rfl
  refine ⟨hfin, hreal.trans ?_⟩
  rw [oneFV, FV.dy_real]
  norm_num

/-! ## One block against one column (R95) -/

/-- Elements of one B scale block are one part. -/
theorem parts_single {l : List (FV × FV × FV × ℕ)} (hne : l ≠ []) (h : ∀ y ∈ l, y.2.2.2 = 0) : parts l = [l] := by
  induction l with
  | nil => exact absurd rfl hne
  | cons x t ih =>
    cases t with
    | nil => rfl
    | cons y t =>
      rw [parts, ih (List.cons_ne_nil _ _) fun z hz => h z (List.mem_cons_of_mem _ hz)]
      exact if_pos ((h y (by simp)).trans (h x List.mem_cons_self).symm)

theorem sumN_single (v : FV) : sumN [v] = v := rfl

/-- The value of one part without scales. -/
theorem part_unscaled {l : List (FV × FV × FV × ℕ)} (hne : l ≠ []) (h : ∀ y ∈ l, y.2.2.1 = oneFV)
    (hfin : ∀ y ∈ l, (mulN y.1 y.2.1).isFin = true) :
    let p := mulN (mulN (sumN (l.map fun x => mulN x.1 x.2.1)) oneFV) (match (generalizing := false) l with | x :: _ => x.2.2.1 | [] => .fin false 1 0)
    p.isFin = true ∧ p.dy.real = (l.map fun x => (mulN x.1 x.2.1).dy.real).sum := by
  have hscale : (match (generalizing := false) l with | x :: _ => x.2.2.1 | [] => .fin false 1 0) = oneFV := by
    cases l with
    | nil => rfl
    | cons x t => exact h x List.mem_cons_self
  have hall : ∀ y ∈ l.map fun z => mulN z.1 z.2.1, y.isFin = true := fun y hy => by
    obtain ⟨z, hz, rfl⟩ := List.mem_map.1 hy
    exact hfin z hz
  obtain ⟨hsum, hsumr⟩ := sumN_fin hall
  obtain ⟨hone, honer⟩ := mulN_one hsum
  obtain ⟨hone', honer'⟩ := mulN_one hone
  dsimp only
  rw [hscale]
  exact ⟨hone', by rw [honer', honer, hsumr, List.map_map]; rfl⟩

theorem run_unscaled {v : BView} {j n : ℕ} (hblk : v.blk = none) (hscale : ∀ k, k < n → v.scale k j = oneFV) :
    v.run j 0 n = (List.range n).map fun k => (v.elem k j, oneFV, 0) := by
  rw [BView.run, hblk]
  refine List.map_congr_left fun k hk => ?_
  rw [Nat.zero_add, hscale k (List.mem_range.1 hk)]

theorem zip_range_map {α β : Type} (l : List α) (d : α) (g : ℕ → β) :
    l.zip ((List.range l.length).map g) = (List.range l.length).map fun k => (l.getD k d, g k) := by
  refine List.ext_getElem (by simp) fun k hk _ => ?_
  have hkl : k < l.length := by simp at hk; omega
  simp [hkl]

/-- The value of a block of finite numbers without scales is the sum of its products. -/
theorem blockSum_unscaled {v : BView} {a : List FV} {f : Fed} {j : ℕ} (ha : ∀ x ∈ a, x.isFin = true) (hf : ∀ x ∈ f.vals, x.isFin = true)
    (hlen : f.vals.length = a.length) (hpos : 0 < a.length) (hblk : v.blk = none)
    (helem : ∀ k, k < a.length → (v.elem k j).isFin = true ∧ v.scale k j = oneFV) :
    (blockSum a f oneFV (v.run j 0 a.length)).isFin = true ∧
      (blockSum a f oneFV (v.run j 0 a.length)).dy.real = ∑ k ∈ Finset.range a.length, (f.vals.getD k oneFV).dy.real * (v.elem k j).dy.real := by
  have hrun := run_unscaled hblk fun k hk => (helem k hk).2
  have hzip := zip_range_map f.vals oneFV fun k => (v.elem k j, oneFV, 0)
  rw [hlen] at hzip
  have hmem : ∀ k < a.length, (f.vals.getD k oneFV).isFin = true := fun k hk => by
    rw [List.getD_eq_getElem _ _ (hlen ▸ hk)]
    exact hf _ (List.getElem_mem _)
  have hguard : (a.any (fun v => !v.isFin) || oneFV.isNan || (v.run j 0 a.length).any fun b => b.2.1.isNan) = false := by
    rw [hrun, Bool.or_eq_false_iff, Bool.or_eq_false_iff, List.any_eq_false, List.any_eq_false]
    refine ⟨⟨fun x hx => by simp [ha x hx], rfl⟩, fun b hb => ?_⟩
    obtain ⟨k, -, rfl⟩ := List.mem_map.1 hb
    exact Bool.false_ne_true
  rw [blockSum, hguard, if_neg Bool.false_ne_true, hrun, hzip, parts_single, List.map_singleton, sumN_single]
  · obtain ⟨hfin, hreal⟩ := part_unscaled (l := (List.range a.length).map fun k => (f.vals.getD k oneFV, v.elem k j, oneFV, 0)) (by simpa using hpos.ne')
      (fun y hy => by obtain ⟨k, -, rfl⟩ := List.mem_map.1 hy; rfl)
      (fun y hy => by
        obtain ⟨k, hk, rfl⟩ := List.mem_map.1 hy
        exact (mulN_fin (hmem k (List.mem_range.1 hk)) (helem k (List.mem_range.1 hk)).1).1)
    refine ⟨hfin, hreal.trans ?_⟩
    have hsum : ∀ g : ℕ → ℚ, ((List.range a.length).map g).sum = ∑ k ∈ Finset.range a.length, g k := fun _ => rfl
    rw [List.map_map, hsum]
    exact Finset.sum_congr rfl fun k hk => (mulN_fin (hmem k (Finset.mem_range.1 hk)) (helem k (Finset.mem_range.1 hk)).1).2
  · simpa using hpos.ne'
  · intro y hy
    obtain ⟨k, -, rfl⟩ := List.mem_map.1 hy
    rfl

/-- The rounding of a finite number to FP32 is no NaN. -/
theorem toF32_fin_not_nan (rnd : Rnd) {v : FV} (h : v.isFin = true) : (f32 (toF32 rnd v)).isNan = false := by
  cases v with
  | nan | inf => cases h
  | fin s m e =>
    rw [toF32, f32_ofNat, roundFp]
    split
    · next hle =>
      have hcode := (signBit_add (sp := spF32) s (Nat.lt_of_le_of_lt hle (by decide))).2
      exact isNan_of_isFin ((decodeFp_isFin_iff widthsOk_spF32 _).2 (hcode.le.trans hle))
    · cases rnd <;> cases s <;> decide

/-- The block of O32 gives its column the two roundings of R95. -/
theorem accumulate_unscaled (d j : ℕ) (v : BView) (a : List FV) (f : Fed) (bA bB : Option Dy) (old : Word) (ha : ∀ x ∈ a, x.isFin = true)
    (hf : ∀ x ∈ f.vals, x.isFin = true) (hlen : f.vals.length = a.length) (hpos : 0 < a.length) (hblk : v.blk = none) (htB : v.tB = oneFV)
    (helem : ∀ k, k < a.length → (v.elem k j).isFin = true ∧ v.scale k j = oneFV) (hold : finiteWord old) :
    ∃ total : FV, total.isFin = true ∧ total.dy.real = ∑ k ∈ Finset.range a.length, (f.vals.getD k oneFV).dy.real * (v.elem k j).dy.real ∧
      (accumulate d oneFV v bA bB [⟨a, f, oneFV, 0⟩] old j).1 = toF32 .rne (addFV .rne (f32 old) (f32 (toF32 .rne total))) := by
  obtain ⟨hsum, hsumr⟩ := blockSum_unscaled ha hf hlen hpos hblk helem
  obtain ⟨hA, hAr⟩ := mulN_one hsum
  obtain ⟨hB, hBr⟩ := mulN_one hA
  refine ⟨_, hB, hBr.trans (hAr.trans hsumr), ?_⟩
  rw [accumulate, htB]
  simp only [List.map_cons, List.map_nil, sumN_single]
  rw [addN, firstNan_pair (isNan_of_isFin ((finiteWord_iff old).1 hold)) (toF32_fin_not_nan .rne hB)]

/-! ## Digit counts (R93) -/

theorem governDigits_mem (int : Bool) (blk gstep n : ℕ) (r : ARow) (tA : FV) (v : BView) (dmax : ℕ) (ds : List ℕ) :
    governDigits int blk gstep n r tA v dmax ds = dmax ∨ governDigits int blk gstep n r tA v dmax ds ∈ ds := by
  induction ds with
  | nil => exact .inl rfl
  | cons d t ih =>
    rw [governDigits]
    split
    · exact .inr List.mem_cons_self
    · exact ih.imp_right (List.mem_cons_of_mem _)

theorem digitLimits_eq (f : Fmt) : digitLimits f = (if f = .e2m1 then 1 else 2, if f = .e2m1 then 1 else if f = .s8 ∨ f = .n8 then 2 else 4) := by
  cases f <;> rfl

/-- Settles O32: sums and products of finite numbers are exact, and without scales every other factor is 1; the digit count is chosen
between the limits. -/
theorem matrixArithmetic : Obligations.MatrixArithmetic := by
  unfold Obligations.MatrixArithmetic
  refine ⟨fun d j v a f bA bB old => accumulate_unscaled d j v a f bA bB old, fun f blk dcap gstep n r tA v => ?_⟩
  have hle : (digitLimits f).1 ≤ (digitLimits f).2 := by cases f <;> decide
  have hlimits := digitLimits_eq f
  rw [Prod.ext_iff] at hlimits
  dsimp only at hlimits ⊢
  rw [← hlimits.1, ← hlimits.2, digitsOf]
  dsimp only
  generalize (digitLimits f).1 = lo at *
  generalize (digitLimits f).2 = hi at *
  refine ⟨fun hcap => if_pos hcap, fun hcap hg => ?_, ?_⟩
  · rw [if_neg (not_not.2 hcap), hg]
    rfl
  split
  · omega
  split
  · omega
  · rcases governDigits_mem (fmtInt f) blk gstep n r tA v hi ((List.range (hi + 1 - lo)).map (lo + ·)) with h | h
    · omega
    · obtain ⟨k, hk, hk'⟩ := List.mem_map.1 h
      rw [List.mem_range] at hk
      omega

end Sys2Proof.Machine
end

section
/-! PROOFS. The bit functions of a word: the model's form of each and the form of R197 and R198. -/

namespace Sys2Proof.Machine

/-! ## Shifts, minima and maxima (R197) -/

theorem toInt_neg_iff (a : Word) : a.toInt < 0 ↔ a.msb = true := by
  rw [BitVec.msb_eq_toInt, decide_eq_true_iff]

theorem shl32_eq (a b : Word) : shl32 a b = if 32 ≤ b.toNat then 0 else a <<< b.toNat := by
  rw [shl32]
  simp only [← Nat.not_lt, ite_not]

theorem shr32_eq (a b : Word) : shr32 a b = if 32 ≤ b.toNat then 0 else a >>> b.toNat := by
  rw [shr32]
  split
  case isTrue h => exact BitVec.ushiftRight_eq_zero h
  case isFalse => rfl

theorem sar32_eq (a b : Word) :
    sar32 a b = if 32 ≤ b.toNat then (if a.toInt < 0 then 0xFFFFFFFF else 0) else BitVec.ofInt 32 (a.toInt / 2 ^ b.toNat) := by
  rw [sar32]
  split
  case isTrue h =>
    have hsign : a.sshiftRight b.toNat = if a.msb then BitVec.allOnes 32 else 0 := by
      apply BitVec.eq_of_getLsbD_eq
      intro i hi
      rw [BitVec.getLsbD_sshiftRight, if_neg (by omega)]
      cases a.msb <;> simp [hi, -BitVec.reduceAllOnes]
    rw [hsign]
    simp only [toInt_neg_iff]
    rfl
  case isFalse => rw [BitVec.sshiftRight, Int.shiftRight_eq_div_pow]; norm_cast

theorem minS_eq (a b : Word) : minS a b = pick (a.toInt ≤ b.toInt) a b := by
  rw [minS, pick, BitVec.sle_eq_decide]

theorem minN_eq (a b : Word) : minN a b = pick (a.toNat ≤ b.toNat) a b := by
  rw [minN, pick, BitVec.ule_eq_decide]

theorem maxS_eq (a b : Word) : maxS a b = pick (b.toInt ≤ a.toInt) a b := by
  rw [maxS, pick, BitVec.sle_eq_decide]
  rcases lt_trichotomy a.toInt b.toInt with h | h | h
  · simp [h.le, not_le.2 h]
  · simp [BitVec.eq_of_toInt_eq h]
  · simp [h.le, not_le.2 h]

theorem maxN_eq (a b : Word) : maxN a b = pick (b.toNat ≤ a.toNat) a b := by
  rw [maxN, pick, BitVec.ule_eq_decide]
  rcases lt_trichotomy a.toNat b.toNat with h | h | h
  · simp [h.le, not_le.2 h]
  · simp [BitVec.eq_of_toNat_eq h]
  · simp [h.le, not_le.2 h]

/-! ## Sums modulo 2^32 -/

theorem add_eq_ofNat {n : Nat} (a b : BitVec n) : a + b = BitVec.ofNat n (a.toNat + b.toNat) := by
  rw [BitVec.ofNat_add, BitVec.ofNat_toNat, BitVec.ofNat_toNat, BitVec.setWidth_eq, BitVec.setWidth_eq]

theorem mul_eq_ofNat {n : Nat} (a b : BitVec n) : a * b = BitVec.ofNat n (a.toNat * b.toNat) := by
  rw [BitVec.ofNat_mul, BitVec.ofNat_toNat, BitVec.ofNat_toNat, BitVec.setWidth_eq, BitVec.setWidth_eq]

theorem sub_eq_ofInt {n : Nat} (a b : BitVec n) : a - b = BitVec.ofInt n (a.toInt - b.toInt) := by
  apply BitVec.eq_of_toInt_eq
  rw [BitVec.toInt_sub, BitVec.toInt_ofInt]

theorem ofNat_add_eq {n : Nat} (x : Nat) (c : BitVec n) : BitVec.ofNat n x + c = BitVec.ofNat n (x + c.toNat) := by
  rw [BitVec.ofNat_add, BitVec.ofNat_toNat, BitVec.setWidth_eq]

theorem ofInt_add_eq {n : Nat} (x : Int) (c : BitVec n) : BitVec.ofInt n x + c = BitVec.ofInt n (x + c.toInt) := by
  rw [BitVec.ofInt_add, BitVec.ofInt_toInt]

theorem mulAdd_eq (a b c : Word) : a * b + c = BitVec.ofNat 32 (a.toNat * b.toNat + c.toNat) := by
  rw [mul_eq_ofNat, ofNat_add_eq]

theorem mulhiS_add_eq (a b c : Word) : mulhiS a b + c = BitVec.ofInt 32 (a.toInt * b.toInt / 2 ^ 32 + c.toInt) := ofInt_add_eq _ _

theorem mulhiN_add_eq (a b c : Word) : mulhiN a b + c = BitVec.ofNat 32 (a.toNat * b.toNat / 2 ^ 32 + c.toNat) := ofNat_add_eq _ _

theorem lea_eq (a : DWord) (b c : Word) : lea a b c = BitVec.ofInt 64 (a.toInt + b.toInt * 2 ^ (c.toNat % 64)) := by
  have hshift : b.signExtend 64 <<< (c.toNat % 64) = BitVec.ofInt 64 (b.toInt * 2 ^ (c.toNat % 64)) := by
    have hpow : BitVec.twoPow 64 (c.toNat % 64) = BitVec.ofInt 64 (2 ^ (c.toNat % 64)) := by
      apply BitVec.eq_of_toNat_eq
      rw [BitVec.toNat_twoPow, BitVec.toNat_ofInt]
      norm_cast
    rw [BitVec.signExtend, BitVec.shiftLeft_eq_mul_twoPow, hpow, ← BitVec.ofInt_mul]
  rw [lea, hshift, BitVec.add_comm, ofInt_add_eq, Int.add_comm]

/-! ## Counts of bits (R197) -/

theorem popcUpTo_eq (a : Word) (n : Nat) : popcUpTo a n = ((List.range n).filter fun i => a.getLsbD i).length := by
  induction n with
  | zero => rfl
  | succ n ih =>
    rw [popcUpTo, ih, List.range_succ, List.filter_append, List.length_append]
    cases h : a.getLsbD n <;> simp [h]

theorem clzFrom_eq (a : Word) (n : Nat) :
    clzFrom a n = (((List.range n).map fun i => a.getLsbD (n - 1 - i)).takeWhile fun b => !b).length := by
  induction n with
  | zero => rfl
  | succ n ih =>
    have hshift : ((List.range n).map Nat.succ).map (fun i => a.getLsbD (n + 1 - 1 - i)) = (List.range n).map fun i => a.getLsbD (n - 1 - i) := by
      rw [List.map_map]
      exact List.map_congr_left fun i _ => congrArg a.getLsbD (by simp only [Nat.succ_eq_add_one]; omega)
    rw [clzFrom, List.range_succ_eq_map, List.map_cons, hshift, List.takeWhile_cons, ih]
    cases h : a.getLsbD n <;> simp [h]

theorem bitReverse_eq (a : Word) : bitReverse a = maskOf fun i => a.getLsbD (31 - i) := by
  apply BitVec.eq_of_getLsbD_eq
  intro i hi
  rw [bitReverse, BitVec.getLsbD_reverse, getLsbD_maskOf, BitVec.getMsbD]

/-! ## Bit fields (R198) -/

theorem fieldOff_add_fieldLen (f : Word) : fieldOff f + fieldLen f ≤ 32 := by
  have hoff : fieldOff f < 32 := Nat.mod_lt _ (by decide)
  unfold fieldLen
  omega

/-- The bits of a field, below any bits of another word. -/
theorem testBit_field (x n o i : Nat) : (x / 2 ^ o % 2 ^ n).testBit i = (decide (i < n) && x.testBit (o + i)) := by
  rw [Nat.testBit_mod_two_pow, Nat.testBit_div_two_pow, Nat.add_comm]

/-- A field extended with ones: its bits at the bottom, and ones above them. -/
theorem ofInt_sub_two_pow {v n : Nat} (hn : n ≤ 32) : BitVec.ofInt 32 ((v : Int) - 2 ^ n) = BitVec.ofNat 32 (2 ^ n * (2 ^ (32 - n) - 1) + v) := by
  have hwhole : 2 ^ n * (2 ^ (32 - n) - 1) + 2 ^ n = 2 ^ 32 := by
    rw [← Nat.mul_succ, Nat.succ_eq_add_one, Nat.sub_add_cancel Nat.one_le_two_pow, ← Nat.pow_add, Nat.add_sub_cancel' hn]
  have hcast : ((2 ^ n * (2 ^ (32 - n) - 1) + v : Nat) : Int) = (v - 2 ^ n : Int) + 2 ^ 32 := by
    have := congrArg (Nat.cast (R := Int)) hwhole
    push_cast at this ⊢
    linarith
  rw [← BitVec.ofInt_natCast, hcast]
  apply BitVec.eq_of_toNat_eq
  rw [BitVec.toNat_ofInt, BitVec.toNat_ofInt]
  simp

theorem bfe_eq (signed : Bool) (x f : Word) : bfe signed x f = fieldOf signed x f := by
  have hlen := fieldOff_add_fieldLen f
  have hfield : fieldOf signed x f = maskOf fun i => if i < fieldLen f then x.getLsbD (fieldOff f + i)
      else signed && fieldLen f != 0 && x.getLsbD (fieldOff f + fieldLen f - 1) := rfl
  have hv := Nat.mod_lt (x.toNat / 2 ^ fieldOff f) (Nat.two_pow_pos (fieldLen f))
  rw [hfield, bfe]
  apply BitVec.eq_of_getLsbD_eq
  intro i hi
  rw [getLsbD_maskOf]
  by_cases h0 : fieldLen f = 0
  · simp [h0]
  · have hlast : fieldOff f + (fieldLen f - 1) = fieldOff f + fieldLen f - 1 := by omega
    have hne : (fieldLen f != 0) = true := bne_iff_ne.2 h0
    rw [if_neg h0]
    dsimp only
    rw [testBit_field, hlast, hne, Bool.and_true]
    split
    case isTrue hs =>
      simp only [Bool.and_eq_true, decide_eq_true_eq] at hs
      obtain ⟨hsigned, -, hbit⟩ := hs
      rw [ofInt_sub_two_pow (by omega), BitVec.getLsbD_ofNat, Nat.testBit_two_pow_mul_add _ hv, testBit_field, Nat.testBit_two_pow_sub_one,
        hsigned]
      by_cases hin : i < fieldLen f
      · simp [hin, hi, BitVec.getLsbD]
      · have habove : i - fieldLen f < 32 - fieldLen f := by omega
        simp [hin, hi, BitVec.getLsbD, hbit, habove]
    case isFalse hs =>
      have hpos : fieldLen f - 1 < fieldLen f := by omega
      rw [Bool.not_eq_true, decide_eq_true hpos, Bool.true_and] at hs
      rw [BitVec.getLsbD_ofNat, testBit_field]
      by_cases hin : i < fieldLen f
      · simp [hin, BitVec.getLsbD]
      · simp [hin, hi, BitVec.getLsbD, hs]

theorem fieldMask_eq (f : Word) : BitVec.ofNat 32 ((2 ^ fieldLen f - 1) * 2 ^ fieldOff f) = fieldMask f := by
  have hmask : fieldMask f = maskOf fun i => decide (fieldOff f ≤ i ∧ i < fieldOff f + fieldLen f) := by
    unfold fieldMask maskOf
    simp only [decide_eq_true_eq]
  rw [hmask]
  apply BitVec.eq_of_getLsbD_eq
  intro i hi
  rw [getLsbD_maskOf, BitVec.getLsbD_ofNat, Nat.testBit_mul_two_pow, Nat.testBit_two_pow_sub_one]
  simp only [hi, decide_true, Bool.true_and, ← Bool.decide_and]
  exact decide_eq_decide.2 (by omega)

theorem bfi_eq (ins base f : Word) : bfi ins base f = merged (fieldMask f) (ins <<< fieldOff f) base := by
  rw [merged, ← fieldMask_eq]; rfl

/-! ## Byte products -/

theorem byteS_eq (a : Word) (i : Nat) : byteS a i = signedByte a i := by
  rw [byteS, signedByte, BitVec.toInt_eq_toNat_cond, BitVec.extractLsb'_toNat, Nat.shiftRight_eq_div_pow, Nat.pow_mul]
  have hbase : (2 ^ 8) ^ i = 256 ^ i := by norm_num
  rw [hbase]
  split <;> split <;> omega

theorem dot4_eq (a b c : Word) : dot4 a b c = BitVec.ofInt 32 (c.toInt +
    (signedByte a 0 * signedByte b 0 + signedByte a 1 * signedByte b 1 + signedByte a 2 * signedByte b 2 + signedByte a 3 * signedByte b 3)) := by
  rw [dot4, BitVec.add_comm, ofInt_add_eq, Int.add_comm]
  simp only [byteS_eq]

end Sys2Proof.Machine
end

section
/-! PROOFS. The shared forms of the vector instructions: what they write, what they capture, and what they leave alone
(R60, R65, R192, R195, R196), and src0 under a cross-lane pattern (R205). -/

namespace Sys2Proof.Machine

/-! ## Registers and threads that are left alone -/

/-- What a vector instruction changes of a warp before its group moves on: vector registers and latches. -/
def Warp.sameButVector (w x : Warp) : Prop := x = { w with vregs := x.vregs, threads := x.threads }

theorem Warp.sameButVector.refl (w : Warp) : w.sameButVector w := rfl

theorem Warp.sameButVector.trans {w x y : Warp} (h : w.sameButVector x) (g : x.sameButVector y) : w.sameButVector y := by
  unfold Warp.sameButVector at *; rw [g, h]

theorem Warp.sameButVector.specialsKept {w x : Warp} (h : w.sameButVector x) : w.specialsKept x := by
  unfold Warp.sameButVector at h
  rw [h]
  exact ⟨rfl, rfl, rfl, rfl, rfl, rfl, rfl, rfl, rfl, rfl, rfl, rfl, rfl, rfl, rfl, rfl, rfl⟩

theorem writeV_sameButVector (w : Warp) (m : Mask) (r : Nat) (f : Nat → LV) : w.sameButVector (w.writeV m r f) := by
  unfold Warp.sameButVector; rw [writeV_fields]

theorem write64_sameButVector (w : Warp) (m : Mask) (r : Nat) (f : Nat → DWord × Bnd) : w.sameButVector (w.write64 m r f) := by
  unfold Warp.sameButVector; rw [write64_fields]

theorem capture_sameButVector (w : Warp) (cap : BitVec 2) (e : Mask) (f : Nat → LV) : w.sameButVector (w.capture cap e f) := by
  unfold Warp.sameButVector; rw [capture_fields]

@[simp] theorem thr_writeV (w : Warp) (m : Mask) (r : Nat) (f : Nat → LV) (l : Nat) : (w.writeV m r f).thr l = w.thr l := by
  rw [writeV_fields]; rfl

@[simp] theorem thr_write64 (w : Warp) (m : Mask) (r : Nat) (f : Nat → DWord × Bnd) (l : Nat) : (w.write64 m r f).thr l = w.thr l := by
  rw [write64_fields]; rfl

@[simp] theorem v_capture (w : Warp) (cap : BitVec 2) (e : Mask) (f : Nat → LV) (q l : Nat) : (w.capture cap e f).v q l = w.v q l := by
  rw [capture_fields]; rfl

/-! ## Captures (R65, R196) -/

@[simp] theorem setLatch_pc (t : Thread) (i : Nat) (x : Latch) : (t.setLatch i x).pc = t.pc := by
  unfold Thread.setLatch; split <;> rfl

@[simp] theorem setLatch_cl (t : Thread) (i : Nat) (x : Latch) : (t.setLatch i x).cl = t.cl := by
  unfold Thread.setLatch; split <;> rfl

@[simp] theorem setLatch_stays (t : Thread) (i : Nat) (x : Latch) : (t.setLatch i x).stays = t.stays := by
  unfold Thread.setLatch; split <;> rfl

theorem latch_setLatch_same (t : Thread) {i : Nat} (x : Latch) (h : 1 ≤ i ∧ i ≤ 3) : (t.setLatch i x).latch i = x := by
  obtain ⟨h1, h3⟩ := h
  interval_cases i <;> rfl

theorem latch_setLatch_other (t : Thread) {i k : Nat} (x : Latch) (h : 1 ≤ k ∧ k ≤ 3) (hk : k ≠ i) : (t.setLatch i x).latch k = t.latch k := by
  obtain ⟨h1, h3⟩ := h
  unfold Thread.setLatch
  split
  case h_4 => rfl
  all_goals interval_cases k <;> trivial

/-- The latch that a capture sets in one thread of the issuing group. -/
def captureOf (e : Mask) (f : Nat → LV) (l : Nat) : Latch :=
  let x := if e.getLsbD l then f l else LV.zero
  ⟨x.val, x.bnd, true⟩

theorem thr_capture {w : Warp} {cap : BitVec 2} (hcap : cap ≠ 0) (e : Mask) (f : Nat → LV) (l : Nat) :
    (w.capture cap e f).thr l = if w.issue.getLsbD l then (w.thr l).setLatch cap.toNat (captureOf e f l) else w.thr l := by
  rw [Warp.capture, if_neg hcap, thr_updThrs]
  rfl

theorem capture_pc_stays (w : Warp) (cap : BitVec 2) (e : Mask) (f : Nat → LV) (l : Nat) :
    ((w.capture cap e f).thr l).pc = (w.thr l).pc ∧ ((w.capture cap e f).thr l).stays = (w.thr l).stays := by
  by_cases hcap : cap = 0
  · rw [Warp.capture, if_pos hcap]; exact ⟨rfl, rfl⟩
  · rw [thr_capture hcap]
    split
    · exact ⟨setLatch_pc _ _ _, setLatch_stays _ _ _⟩
    · exact ⟨rfl, rfl⟩

/-- A thread that moves on within its clause keeps its latches. -/
theorem latch_advance {t : Thread} {n : Nat} {c : Clause} (hcl : t.cl = some c) (hpc : (t.pc + BitVec.ofNat 64 (4 * n)).toNat < c.stop.toNat)
    (k : Nat) : (t.advance n).latch k = t.latch k := by
  unfold Thread.advance
  simp only [hcl]
  rw [if_neg (by omega)]
  rfl

theorem latch_settle (w : Warp) (age l k : Nat) : ((w.settle age).thr l).latch k = (w.thr l).latch k := by
  have h := (settles_settle w age).2 l
  unfold Thread.sameButState at h
  rw [h]
  rfl

theorem latch_finish {s : State} {n l : Nat} {c : Clause} (hl : s.cw.issue.getLsbD l = true) (hs : (s.cw.thr l).stays = false)
    (hcl : (s.cw.thr l).cl = some c) (hpc : ((s.cw.thr l).pc + BitVec.ofNat 64 (4 * n)).toNat < c.stop.toNat) (k : Nat) :
    ((s.finish n).cw.thr l).latch k = (s.cw.thr l).latch k := by
  rw [finish_cw]
  dsimp only
  rw [reissue_thr, settleTurn_thr, latch_settle, thr_updThrs, if_pos hl, hs]
  exact latch_advance hcl hpc k

/-! ## The results of a vector instruction (R60, R192, R196) -/

theorem vectorKept_finish {s : State} {f : Warp → Warp} (h : s.cw.sameButVector (f s.cw))
    (hthr : ∀ l, ((f s.cw).thr l).pc = (s.cw.thr l).pc ∧ ((f s.cw).thr l).stays = (s.cw.thr l).stays) (n : Nat) :
    vectorKept s ((s.updCw f).finish n) n := by
  have hplace := updCw_finish_place s f n
  obtain ⟨-, hsregs, hsc, hkregs⟩ := hplace.registers
  obtain ⟨hmem, hout⟩ := onlyCw_updCw_finish s f n
  have hspecial := h.specialsKept.trans hplace.specialsKept
  unfold Warp.sameButVector at h
  refine ⟨hsregs.trans ?_, hsc.trans ?_, hkregs.trans ?_, ⟨hspecial, hmem, hout⟩, fun l hl hs => ?_⟩
  case refine_4 =>
    obtain ⟨hpc, hstays⟩ := hthr l
    have hissue : (f s.cw).issue = s.cw.issue := by rw [h]
    rw [finish_pc (s.updCw f) n l (by rw [State.cw_updCw, hissue]; exact hl) (by rw [State.cw_updCw, hstays]; exact hs), State.cw_updCw, hpc]
  all_goals rw [h]

theorem v_updCw_finish (s : State) (f : Warp → Warp) (n q l : Nat) : ((s.updCw f).finish n).cw.v q l = (f s.cw).v q l := by
  obtain ⟨hv, -, -, -⟩ := (updCw_finish_place s f n).registers
  rw [Warp.v, Warp.v, hv]

theorem vbin_result {s : State} {d : VReg} {xs : List Src} (f : Warp → Nat → LV) (h : s.clear ((Uses.none.srcs xs).dstV d.toNat 1)) :
    vectorKept s (s.vbin d xs f) 1 ∧ ∀ q l, l < 32 → (s.vbin d xs f).cw.v q l =
      if q = d.toNat ∧ (s.cw.issue &&& s.cw.exm).getLsbD l then f s.cw l else s.cw.v q l := by
  rw [State.vbin, guard_of_clear h]
  refine ⟨vectorKept_finish (writeV_sameButVector _ _ _ _) (fun l => by rw [thr_writeV]; exact ⟨rfl, rfl⟩) 1, fun q l hl => ?_⟩
  rw [v_updCw_finish, v_writeV _ _ _ _ _ _ hl]
  rfl

/-- The registers that a VWIDE instruction writes, before its capture. -/
def Warp.wideWrite (w : Warp) (m : Wide) (f : Nat → LV) : Warp := if m.nw then w else w.writeV (w.effP m.pred) m.d.toNat f

/-- What a VWIDE instruction makes of the warp: its write, then its capture (R196). -/
def Warp.wideStep (w : Warp) (m : Wide) (f : Nat → LV) : Warp := (w.wideWrite m f).capture m.cap (w.effP m.pred) f

theorem vwide_eq {s : State} {m : Wide} {xs : List Src} (f : Mask → Warp → Nat → LV) (h : s.clear (wideNames m 1 xs)) :
    s.vwide m xs f = (s.updCw fun w => w.wideStep m (f (w.effP m.pred) w)).finish 2 := by
  rw [State.vwide]
  exact guard_of_clear h _

theorem wideWrite_sameButVector (w : Warp) (m : Wide) (f : Nat → LV) : w.sameButVector (w.wideWrite m f) := by
  unfold Warp.wideWrite
  split
  · exact .refl w
  · exact writeV_sameButVector _ _ _ _

theorem thr_wideWrite (w : Warp) (m : Wide) (f : Nat → LV) (l : Nat) : (w.wideWrite m f).thr l = w.thr l := by
  unfold Warp.wideWrite
  split
  · rfl
  · exact thr_writeV _ _ _ _ _

theorem issue_wideStep (w : Warp) (m : Wide) (f : Nat → LV) : (w.wideStep m f).issue = w.issue := by
  have h := (wideWrite_sameButVector w m f).trans (capture_sameButVector _ m.cap (w.effP m.pred) f)
  unfold Warp.sameButVector at h
  rw [Warp.wideStep, h]

theorem thr_wideStep {w : Warp} {m : Wide} (hcap : m.cap ≠ 0) (f : Nat → LV) {l : Nat} (hl : w.issue.getLsbD l = true) :
    (w.wideStep m f).thr l = (w.thr l).setLatch m.cap.toNat (captureOf (w.effP m.pred) f l) := by
  have hissue : (w.wideWrite m f).issue = w.issue := by
    have h := wideWrite_sameButVector w m f
    unfold Warp.sameButVector at h
    rw [h]
  rw [Warp.wideStep, thr_capture hcap, hissue, if_pos hl, thr_wideWrite]

theorem vwide_result {s : State} {m : Wide} {xs : List Src} (f : Mask → Warp → Nat → LV) (h : s.clear (wideNames m 1 xs)) :
    vectorKept s (s.vwide m xs f) 2 ∧ wideDone m (f (s.cw.effP m.pred) s.cw) s.cw (s.vwide m xs f).cw := by
  rw [vwide_eq f h]
  refine ⟨vectorKept_finish ((wideWrite_sameButVector _ _ _).trans (capture_sameButVector _ _ _ _)) (fun l => ?_) 2, fun q l hl => ?_⟩
  · have hcap := capture_pc_stays (s.cw.wideWrite m (f (s.cw.effP m.pred) s.cw)) m.cap (s.cw.effP m.pred) (f (s.cw.effP m.pred) s.cw) l
    rwa [thr_wideWrite] at hcap
  · rw [v_updCw_finish, Warp.wideStep, v_capture, Warp.wideWrite]
    cases hnw : m.nw
    case true => simp
    case false => simp [v_writeV _ _ _ _ _ _ hl]

theorem vwide_captured {s : State} {m : Wide} {xs : List Src} (f : Mask → Warp → Nat → LV) (h : s.clear (wideNames m 1 xs))
    (hcap : m.cap ≠ 0) : captured m (f (s.cw.effP m.pred) s.cw) s.cw (s.vwide m xs f).cw := by
  intro l c _ hl hs hcl hpc
  have hrange : 1 ≤ m.cap.toNat ∧ m.cap.toNat ≤ 3 := by
    have hne : m.cap.toNat ≠ 0 := fun h0 => hcap (BitVec.eq_of_toNat_eq h0)
    have := m.cap.isLt
    omega
  have hthr := thr_wideStep hcap (f (s.cw.effP m.pred) s.cw) hl
  have hkeep := latch_finish (s := s.updCw fun w => w.wideStep m (f (w.effP m.pred) w)) (n := 2) (l := l) (c := c)
    (by rw [State.cw_updCw, issue_wideStep]; exact hl) (by rw [State.cw_updCw, hthr, setLatch_stays]; exact hs)
    (by rw [State.cw_updCw, hthr, setLatch_cl]; exact hcl) (by rw [State.cw_updCw, hthr, setLatch_pc]; exact hpc)
  rw [State.cw_updCw, hthr] at hkeep
  rw [vwide_eq f h]
  refine ⟨?_, fun k hk hne => (hkeep k).trans (latch_setLatch_other _ _ hk hne)⟩
  rw [hkeep, latch_setLatch_same _ _ hrange, captureOf]
  split <;> rfl

/-! ## Pairs (R60) -/

theorem v_setV (w : Warp) (r a : Nat) (x : LV) (q l : Nat) (hl : l < 32) (ha : a < 32) :
    (w.setV r a x).v q l = if q = r ∧ l = a then x else w.v q l := by
  split
  case isTrue h => obtain ⟨rfl, rfl⟩ := h; exact Warp.v_setV_same _ _ _ _
  case isFalse h => exact Warp.v_setV_other _ _ _ _ _ _ fun hk => h (vkey_inj _ _ _ _ hl ha hk)

/-- A pair written in one lane. -/
def Warp.setPair (w : Warp) (r l : Nat) (x : DWord × Bnd) : Warp :=
  (w.setV r l ⟨x.1.setWidth 32, x.2⟩).setV (r + 1) l ⟨BitVec.ofNat 32 (x.1.toNat / 2 ^ 32), x.2⟩

theorem v_setPair (w : Warp) (r a : Nat) (x : DWord × Bnd) (q l : Nat) (hl : l < 32) (ha : a < 32) :
    (w.setPair r a x).v q l = if q = r ∧ l = a then ⟨x.1.extractLsb' 0 32, x.2⟩
      else if q = r + 1 ∧ l = a then ⟨x.1.extractLsb' 32 32, x.2⟩ else w.v q l := by
  have hlow : x.1.setWidth 32 = x.1.extractLsb' 0 32 := BitVec.setWidth_eq_extractLsb' (by decide)
  have hhigh : BitVec.ofNat 32 (x.1.toNat / 2 ^ 32) = x.1.extractLsb' 32 32 := by
    rw [BitVec.extractLsb', Nat.shiftRight_eq_div_pow]
  rw [Warp.setPair, v_setV _ _ _ _ _ _ hl ha, v_setV _ _ _ _ _ _ hl ha, hlow, hhigh]
  by_cases hq : q = r
  · have hne : ¬(q = r + 1 ∧ l = a) := fun h => by omega
    rw [if_neg hne, if_neg hne]
  · have hne : ¬(q = r ∧ l = a) := fun h => hq h.1
    rw [if_neg hne, if_neg hne]

theorem v_foldl_setPair (r : Nat) (f : Nat → DWord × Bnd) (q l : Nat) (hl : l < 32) (ls : List Nat) (hls : ∀ a ∈ ls, a < 32) (w : Warp) :
    (ls.foldl (fun w l => w.setPair r l (f l)) w).v q l = if l ∈ ls then (w.setPair r l (f l)).v q l else w.v q l := by
  induction ls generalizing w with
  | nil => rfl
  | cons a ls ih =>
    have ha := hls a List.mem_cons_self
    rw [List.foldl_cons, ih (fun b hb => hls b (List.mem_cons_of_mem _ hb))]
    simp only [v_setPair _ _ _ _ _ _ hl ha, v_setPair _ _ _ _ _ _ hl hl, List.mem_cons]
    by_cases hla : l = a
    · subst hla
      by_cases hlow : q = r
      · simp [hlow]
      · by_cases hhigh : q = r + 1 <;> simp [hlow, hhigh]
    · simp [hla]

theorem lt_of_mem_lanesOf {m : Mask} {l : Nat} (h : l ∈ lanesOf m) : l < 32 := List.mem_range.1 (List.mem_filter.1 h).1

theorem v_write64 (w : Warp) (m : Mask) (r : Nat) (f : Nat → DWord × Bnd) (q l : Nat) (hl : l < 32) :
    (w.write64 m r f).v q l =
      if q = r ∧ m.getLsbD l then ⟨(f l).1.extractLsb' 0 32, (f l).2⟩
      else if q = r + 1 ∧ m.getLsbD l then ⟨(f l).1.extractLsb' 32 32, (f l).2⟩ else w.v q l := by
  have hfold : w.write64 m r f = (lanesOf m).foldl (fun w l => w.setPair r l (f l)) w := rfl
  rw [hfold, v_foldl_setPair r f q l hl _ fun a => lt_of_mem_lanesOf, v_setPair _ _ _ _ _ _ hl hl]
  simp only [mem_lanesOf]
  by_cases hm : m.getLsbD l = true
  · simp [hm]
  · simp [hm]

theorem wide64_result {s : State} {m : Wide} {xs : List (Nat × Src)} {us : Uses} (f : Warp → Nat → DWord × Bnd)
    (hus : xs.foldl (fun u x => u.src x.1 x.2) Uses.none = us) (hnw : m.nw = false) (h : s.clear (us.dstV m.d.toNat 2)) :
    ∃ t, s.wide64 m xs f = .next t ∧ vectorKept s t 2 ∧ ∀ q l, l < 32 → t.cw.v q l =
      if q = m.d.toNat ∧ (s.cw.effP m.pred).getLsbD l then ⟨(f s.cw l).1.extractLsb' 0 32, (f s.cw l).2⟩
      else if q = m.d.toNat + 1 ∧ (s.cw.effP m.pred).getLsbD l then ⟨(f s.cw l).1.extractLsb' 32 32, (f s.cw l).2⟩
      else s.cw.v q l := by
  subst hus
  have heq : s.wide64 m xs f = .next ((s.updCw fun w => w.write64 (w.effP m.pred) m.d.toNat (f w)).finish 2) := by
    simp only [State.wide64, hnw, Bool.false_eq_true, if_false, guard_of_clear h]
  refine ⟨_, heq, vectorKept_finish (write64_sameButVector _ _ _ _) (fun l => by rw [thr_write64]; exact ⟨rfl, rfl⟩) 2, fun q l hl => ?_⟩
  rw [v_updCw_finish, v_write64 _ _ _ _ _ _ hl]

/-! ## Patterns (R205) -/

/-- The lane of the model is the lane of R205's table where that lies in 0 to 31. -/
theorem xlLane_eq (xl : Fin 16) (l : Fin 32) : xlLane xl l =
    if 0 ≤ patternLane xl l ∧ patternLane xl l < 32 then some (patternLane xl l).toNat else none := by
  revert xl l
  decide

theorem rdX_eq_across (w : Warp) (as_ : ReadAs) (xl : BitVec 4) (e : Mask) (x : Src) {l : Nat} (hl : l < 32) :
    w.rdX as_ xl e x l = across xl e (w.rd as_ x) l := by
  have hlane : xlLane xl.toNat l = _ := xlLane_eq ⟨xl.toNat, xl.isLt⟩ ⟨l, hl⟩
  rw [Warp.rdX, across]
  split
  case isTrue => rfl
  case isFalse =>
    rw [hlane]
    by_cases hin : 0 ≤ patternLane xl.toNat l ∧ patternLane xl.toNat l < 32
    · simp [hin]
    · rw [if_neg hin, if_neg fun h => hin ⟨h.1, h.2.1⟩]

end Sys2Proof.Machine
end

section
/-! PROOFS. The vector arithmetic instructions: the lane function of each integer, move and floating-point form (R86, R192 to R206). -/

namespace Sys2Proof.Machine

/-! ## Integer VBIN instructions (R197) -/

theorem bndInt_eq_intBound {xs : List LV} {bs : List Bnd} (h : xs.map (·.bnd) = bs) : bndInt bs = intBound xs := by
  rw [intBound, bndInt, ← h, List.all_map]
  rfl

theorem intLV_eq (v : Word) (xs : List LV) : intLV v xs = ⟨v, intBound xs⟩ := by
  rw [intLV, bndInt_eq_intBound rfl]

/-- An integer VBIN instruction whose function agrees with the one that its mnemonic names (`hg` as the table gives it). -/
theorem vbinInt_eq {s : State} {d : VReg} {a b : Src} {f f' g : Word → Word → Word} (hg : some g = some f) (h : ∀ x y, f' x y = g x y) :
    s.vbinInt d a b f' =
      .next (s.vbin d [a, b] fun w l => ⟨f (w.rd .word a l).val (w.rd .word b l).val, intBound [w.rd .word a l, w.rd .word b l]⟩) := by
  cases hg
  simp only [State.vbinInt, intLV_eq, h]

theorem exec_vbinTwo {i : Instr} {d : VReg} {a b : Src} {f : Word → Word → Word} (hi : vbinTwo i = some (d, a, b)) (hf : binary i = some f)
    (s : State) : exec i s = .next (s.vbin d [a, b] fun w l =>
      ⟨f (w.rd .word a l).val (w.rd .word b l).val, intBound [w.rd .word a l, w.rd .word b l]⟩) := by
  unfold vbinTwo at hi
  split at hi
  case h_14 => cases hi
  all_goals obtain ⟨rfl, rfl, rfl⟩ := hi
  case h_1 => exact vbinInt_eq hf add_eq_ofNat
  case h_2 => exact vbinInt_eq hf sub_eq_ofInt
  case h_3 => exact vbinInt_eq hf mul_eq_ofNat
  case h_4 | h_5 | h_6 => exact vbinInt_eq hf fun _ _ => rfl
  case h_7 => exact vbinInt_eq hf shl32_eq
  case h_8 => exact vbinInt_eq hf shr32_eq
  case h_9 => exact vbinInt_eq hf sar32_eq
  case h_10 => exact vbinInt_eq hf minS_eq
  case h_11 => exact vbinInt_eq hf minN_eq
  case h_12 => exact vbinInt_eq hf maxS_eq
  case h_13 => exact vbinInt_eq hf maxN_eq

/-! ## Integer VWIDE instructions (R195 to R198, R205) -/

/-- An instruction is a VWIDE instruction whose lanes hold `f` (R196). -/
def runsWide (i : Instr) (s : State) (m : Wide) (xs : List Src) (f : Nat → LV) : Prop :=
  ∃ F : Mask → Warp → Nat → LV, exec i s = .next (s.vwide m xs F) ∧ ∀ l, l < 32 → F (s.cw.effP m.pred) s.cw l = f l

theorem runsWide.result {i : Instr} {s : State} {m : Wide} {xs : List Src} {f : Nat → LV} (h : runsWide i s m xs f)
    (hclear : s.clear (wideNames m 1 xs)) : ∃ t, exec i s = .next t ∧ vectorKept s t 2 ∧ wideDone m f s.cw t.cw := by
  obtain ⟨F, hexec, hF⟩ := h
  obtain ⟨hkept, hdone⟩ := vwide_result F hclear
  exact ⟨_, hexec, hkept, fun q l hl => by rw [hdone q l hl, hF l hl]⟩

theorem runsWide.captured {i : Instr} {s : State} {m : Wide} {xs : List Src} {f : Nat → LV} (h : runsWide i s m xs f)
    (hcap : m.cap ≠ 0) (hclear : s.clear (wideNames m 1 xs)) : ∃ t, exec i s = .next t ∧ captured m f s.cw t.cw := by
  obtain ⟨F, hexec, hF⟩ := h
  refine ⟨_, hexec, fun l c hl hissue hs hcl hpc => ?_⟩
  rw [← hF l hl]
  exact vwide_captured F hclear hcap l c hl hissue hs hcl hpc

/-- src0 of a VWIDE instruction in a lane (R205). -/
abbrev src0Of (w : Warp) (m : Wide) (a : Src) (l : Nat) : LV := across m.xl (w.effP m.pred) (w.rd .word a) l

theorem wideInt1_runs {s : State} {i : Instr} {m : Wide} {a : Src} {f f' g : Word → Word} (hg : some g = some f) (h : ∀ x, f' x = g x)
    (hexec : exec i s = s.wideInt1 m a f') :
    runsWide i s m [a] fun l => ⟨f (src0Of s.cw m a l).val, intBound [src0Of s.cw m a l]⟩ := by
  cases hg
  refine ⟨_, hexec, fun l hl => ?_⟩
  simp only [intLV_eq, h, rdX_eq_across _ _ _ _ _ hl]

theorem wideInt2_runs {s : State} {i : Instr} {m : Wide} {a b : Src} {f f' g : Word → Word → Word} (hg : some g = some f)
    (h : ∀ x y, f' x y = g x y) (hexec : exec i s = s.wideInt2 m a b f') :
    runsWide i s m [a, b] fun l =>
      ⟨f (src0Of s.cw m a l).val (s.cw.rd .word b l).val, intBound [src0Of s.cw m a l, s.cw.rd .word b l]⟩ := by
  cases hg
  refine ⟨_, hexec, fun l hl => ?_⟩
  simp only [intLV_eq, h, rdX_eq_across _ _ _ _ _ hl]

theorem wideInt3_runs {s : State} {i : Instr} {m : Wide} {a b c : Src} {f f' : Word → Word → Word → Word} (h : ∀ x y z, f' x y z = f x y z)
    (hexec : exec i s = s.wideInt3 m a b c f') :
    runsWide i s m [a, b, c] fun l => ⟨f (src0Of s.cw m a l).val (s.cw.rd .word b l).val (s.cw.rd .word c l).val,
      intBound [src0Of s.cw m a l, s.cw.rd .word b l, s.cw.rd .word c l]⟩ := by
  refine ⟨_, hexec, fun l hl => ?_⟩
  simp only [intLV_eq, h, rdX_eq_across _ _ _ _ _ hl]

theorem wideTwo_runs {i : Instr} {m : Wide} {a b : Src} {f : Word → Word → Word} (hi : wideTwo i = some (m, a, b)) (hf : binary i = some f)
    (s : State) : runsWide i s m [a, b] fun l =>
      ⟨f (src0Of s.cw m a l).val (s.cw.rd .word b l).val, intBound [src0Of s.cw m a l, s.cw.rd .word b l]⟩ := by
  unfold wideTwo at hi
  split at hi
  case h_16 => cases hi
  all_goals obtain ⟨rfl, rfl, rfl⟩ := hi
  case h_1 => exact wideInt2_runs hf add_eq_ofNat rfl
  case h_2 => exact wideInt2_runs hf sub_eq_ofInt rfl
  case h_3 => exact wideInt2_runs hf mul_eq_ofNat rfl
  case h_4 => exact wideInt2_runs hf (fun _ _ => rfl) rfl
  case h_5 => exact wideInt2_runs hf (fun _ _ => rfl) rfl
  case h_6 => exact wideInt2_runs hf (fun _ _ => rfl) rfl
  case h_7 => exact wideInt2_runs hf shl32_eq rfl
  case h_8 => exact wideInt2_runs hf shr32_eq rfl
  case h_9 => exact wideInt2_runs hf sar32_eq rfl
  case h_10 => exact wideInt2_runs hf minS_eq rfl
  case h_11 => exact wideInt2_runs hf minN_eq rfl
  case h_12 => exact wideInt2_runs hf maxS_eq rfl
  case h_13 => exact wideInt2_runs hf maxN_eq rfl
  case h_14 => exact wideInt2_runs hf (bfe_eq false) rfl
  case h_15 => exact wideInt2_runs hf (bfe_eq true) rfl

theorem wideOne_runs {i : Instr} {m : Wide} {a : Src} {f : Word → Word} (hi : wideOne i = some (m, a)) (hf : unary i = some f)
    (s : State) : runsWide i s m [a] fun l => ⟨f (src0Of s.cw m a l).val, intBound [src0Of s.cw m a l]⟩ := by
  unfold wideOne at hi
  split at hi
  case h_4 => cases hi
  all_goals obtain ⟨rfl, rfl⟩ := hi
  case h_1 => exact wideInt1_runs hf (fun x => congrArg (BitVec.ofNat 32) (popcUpTo_eq x 32)) rfl
  case h_2 => exact wideInt1_runs hf (fun x => congrArg (BitVec.ofNat 32) (clzFrom_eq x 32)) rfl
  case h_3 => exact wideInt1_runs hf bitReverse_eq rfl

theorem wideThree_runs {i : Instr} {m : Wide} {a b c : Src} {f : Word → Word → Word → Word} (hi : wideThree i = some (m, a, b, c, f))
    (s : State) : runsWide i s m [a, b, c] fun l => ⟨f (src0Of s.cw m a l).val (s.cw.rd .word b l).val (s.cw.rd .word c l).val,
      intBound [src0Of s.cw m a l, s.cw.rd .word b l, s.cw.rd .word c l]⟩ := by
  unfold wideThree at hi
  split at hi
  case h_6 => cases hi
  all_goals obtain ⟨rfl, rfl, rfl, rfl, rfl⟩ := hi
  case h_1 => exact wideInt3_runs mulAdd_eq rfl
  case h_2 => exact wideInt3_runs mulhiS_add_eq rfl
  case h_3 => exact wideInt3_runs mulhiN_add_eq rfl
  case h_4 => exact wideInt3_runs bfi_eq rfl
  case h_5 => exact wideInt3_runs dot4_eq rfl

theorem wMovB32_runs (m : Wide) (a : Src) (s : State) : runsWide (.wMovB32 m a) s m [a] (src0Of s.cw m a) :=
  ⟨fun e w => w.rdX .word m.xl e a, rfl, fun _ hl => rdX_eq_across _ _ _ _ _ hl⟩

theorem wideInt_runs {s : State} {i : Instr} {m : Wide} {xs : List Src} {f : Nat → LV} (h : wideInt s.cw i = some (m, xs, f)) :
    runsWide i s m xs f := by
  unfold wideInt at h
  dsimp only at h
  split at h
  case h_1 =>
    rename_i hi hf
    obtain ⟨rfl, rfl, rfl⟩ := h
    exact wideTwo_runs hi hf s
  case h_2 =>
    rename_i hi hf _
    obtain ⟨rfl, rfl, rfl⟩ := h
    exact wideOne_runs hi hf s
  case h_3 =>
    rename_i hi _ _
    obtain ⟨rfl, rfl, rfl⟩ := h
    exact wideThree_runs hi s
  case h_4 =>
    split at h
    case h_1 =>
      obtain ⟨rfl, rfl, rfl⟩ := h
      exact wMovB32_runs _ _ s
    case h_2 => cases h

/-! ## VWIDE instructions with a 64-bit result (R60, R197) -/

/-- An instruction is a VWIDE instruction whose lanes hold the pairs of `f`, with the bound of the sources `bs`. -/
def runsPair (i : Instr) (s : State) (m : Wide) (us : Uses) (f : Nat → DWord) (bs : Nat → List LV) : Prop :=
  ∃ (xs : List (Nat × Src)) (F : Warp → Nat → DWord × Bnd), exec i s = s.wide64 m xs F ∧
    xs.foldl (fun u x => u.src x.1 x.2) Uses.none = us ∧ ∀ l, F s.cw l = (f l, intBound (bs l))

theorem widePair_runs {s : State} {i : Instr} {m : Wide} {us : Uses} {f : Nat → DWord} {bs : Nat → List LV}
    (h : widePair s.cw i = some (m, us, f, bs)) : runsPair i s m us f bs := by
  unfold widePair at h
  split at h
  case h_5 => cases h
  all_goals
    obtain ⟨rfl, rfl, rfl, rfl⟩ := h
    refine ⟨_, _, rfl, rfl, fun l => Prod.ext ?_ (bndInt_eq_intBound rfl)⟩
  case h_1 => exact ofNat_add_eq _ _
  case h_2 => exact ofInt_add_eq _ _
  case h_3 => exact lea_eq _ _ _
  case h_4 => exact add_eq_ofNat _ _

/-! ## Floating-point instructions (R90, R201 to R204) -/

theorem exec_vbinFloat {s : State} {i : Instr} {d : VReg} {xs : List Src} {f : Nat → LV} (h : vbinFloat s.cw i = some (d, xs, f)) :
    ∃ F : Warp → Nat → LV, exec i s = .next (s.vbin d xs F) ∧ F s.cw = f := by
  unfold vbinFloat at h
  split at h
  case h_10 => cases h
  all_goals
    obtain ⟨rfl, rfl, rfl⟩ := h
    exact ⟨_, rfl, rfl⟩

theorem wideFloat_runs {s : State} {i : Instr} {m : Wide} {xs : List Src} {f : Nat → LV} (h : wideFloat s.cw i = some (m, xs, f)) :
    runsWide i s m xs f := by
  unfold wideFloat at h
  split at h
  case h_16 => cases h
  all_goals
    obtain ⟨rfl, rfl, rfl⟩ := h
    exact ⟨_, rfl, fun _ _ => rfl⟩

/-! ## The statements -/

/-- Settles O2: a vector instruction writes and captures what its shared form says, and the function of each mnemonic agrees with the
table's. -/
theorem vectorResults : Obligations.VectorResults := by
  unfold Obligations.VectorResults
  refine ⟨⟨fun i s d a b f hi hf hclear => ?_, fun s d a hclear => ?_⟩, fun i s m xs f hi hclear => (wideInt_runs hi).result hclear,
    fun i s m us f bs hi hnw _ hclear => ?_, fun i s m xs f hi hcap hclear => ?_⟩
  case refine_1 =>
    obtain ⟨hkept, hv⟩ := vbin_result (fun w l => ⟨f (w.rd .word a l).val (w.rd .word b l).val, intBound [w.rd .word a l, w.rd .word b l]⟩) hclear
    exact ⟨_, exec_vbinTwo hi hf s, hkept, hv⟩
  case refine_2 =>
    obtain ⟨hkept, hv⟩ := vbin_result (fun w l => w.rd .word a l) hclear
    exact ⟨_, rfl, hkept, hv⟩
  case refine_3 =>
    obtain ⟨xs, F, hexec, hus, hF⟩ := widePair_runs hi
    obtain ⟨t, ht, hkept, hv⟩ := wide64_result F hus hnw hclear
    exact ⟨t, hexec.trans ht, hkept, fun q l hl => by rw [hv q l hl, hF]⟩
  case refine_4 =>
    have hruns : runsWide i s m xs f := hi.elim wideInt_runs wideFloat_runs
    exact hruns.captured hcap hclear

/-- Settles O3: each floating-point form is a shared form with the lane function that the table names. -/
theorem vectorFloat : Obligations.VectorFloat := by
  unfold Obligations.VectorFloat
  refine ⟨fun i s d xs f hi hclear => ?_, fun i s m xs f hi hclear => (wideFloat_runs hi).result hclear,
    fun w as_ xl e r l hl => rdX_eq_across w as_ xl e (.v r) hl⟩
  obtain ⟨F, hexec, rfl⟩ := exec_vbinFloat hi
  obtain ⟨hkept, hv⟩ := vbin_result F hclear
  exact ⟨_, hexec, hkept, hv⟩

end Sys2Proof.Machine
end

section
/-! PROOFS. Bytes and words, and the bytes and the side array of a scratchpad slice under writes (R98, R99, R136, R236). -/

namespace Sys2Proof.Machine

/-! ## Bytes and words -/

theorem toNat_append_byte {n : Nat} (x : BitVec n) (b : Byte) : (x ++ b).toNat = b.toNat + 256 * x.toNat := by
  rw [BitVec.toNat_append, ← Nat.shiftLeft_add_eq_or_of_lt b.isLt, Nat.shiftLeft_eq]
  omega

/-- The word of four bytes, the first the lowest (R1). -/
theorem ofNat_natOf_four (b0 b1 b2 b3 : Byte) : BitVec.ofNat 32 (natOf [b0, b1, b2, b3]) = b3 ++ b2 ++ b1 ++ b0 := by
  apply BitVec.eq_of_toNat_eq
  simp only [toNat_append_byte, BitVec.toNat_ofNat, natOf]
  omega

theorem ofNat_natOf_two (b0 b1 : Byte) : BitVec.ofNat 16 (natOf [b0, b1]) = b1 ++ b0 := by
  apply BitVec.eq_of_toNat_eq
  simp only [toNat_append_byte, BitVec.toNat_ofNat, natOf]
  omega

theorem getD_bytesOf (n v i : Nat) (h : i < n) : (bytesOf n v).getD i 0 = BitVec.ofNat 8 (v / 256 ^ i) := by
  induction n generalizing v i with
  | zero => omega
  | succ n ih =>
    cases i with
    | zero => simp [bytesOf]
    | succ i => rw [bytesOf, List.getD_cons_succ, ih _ _ (by omega), Nat.div_div_eq_div_mul, Nat.pow_succ']

@[simp] theorem length_wordBytes (ws : List Word) : (wordBytes ws).length = 4 * ws.length := by
  induction ws with
  | nil => rfl
  | cons w ws ih =>
    have hcons : wordBytes (w :: ws) = bytesOf 4 w.toNat ++ wordBytes ws := rfl
    rw [hcons, List.length_append, length_bytesOf, ih, List.length_cons]
    omega

/-- A byte of a list of words, low word first (R1). -/
theorem getD_wordBytes (ws : List Word) (i : Nat) (h : i < 4 * ws.length) : (wordBytes ws).getD i 0 = byteAt ws i := by
  induction ws generalizing i with
  | nil => simp at h
  | cons w ws ih =>
    have hcons : wordBytes (w :: ws) = bytesOf 4 w.toNat ++ wordBytes ws := rfl
    have hlen := length_bytesOf 4 w.toNat
    rw [hcons, byteAt]
    by_cases hi : i < 4
    · have hword : i / 4 = 0 := by omega
      rw [List.getD_append _ _ _ _ (by omega), getD_bytesOf _ _ _ hi, hword, Nat.mod_eq_of_lt hi, List.getD_cons_zero, BitVec.extractLsb',
        Nat.shiftRight_eq_div_pow, Nat.pow_mul]
    · rw [List.length_cons] at h
      have hword : i / 4 = (i - 4) / 4 + 1 := by omega
      have hbyte : i % 4 = (i - 4) % 4 := by omega
      rw [List.getD_append_right _ _ _ _ (by omega), hlen, ih _ (by omega), byteAt, hword, hbyte, List.getD_cons_succ]

/-! ## Bytes of a slice -/

/-- What a write into scratchpad changes of the state: its bytes and its side array. -/
def State.sameButSpad (s t : State) : Prop := t = { s with scratch := t.scratch, side := t.side }

theorem State.sameButSpad.refl (s : State) : s.sameButSpad s := rfl

theorem State.sameButSpad.trans {s t u : State} (h : s.sameButSpad t) (g : t.sameButSpad u) : s.sameButSpad u := by
  unfold State.sameButSpad at *; rw [g, h]

theorem spKey_add (b j off i : Nat) : spKey b j (off + i) = spKey b j off + i := by
  unfold spKey; omega

theorem sameButSpad_spPoke (s : State) (b j off : Nat) (bs : List Byte) : s.sameButSpad (s.spPoke b j off bs) := by
  induction bs generalizing s off with
  | nil => exact .refl s
  | cons x bs ih =>
    have hset : s.sameButSpad { s with scratch := Map.set s.scratch 0 (spKey b j off) x } := rfl
    exact hset.trans (ih _ _)

theorem side_spPoke (s : State) (b j off : Nat) (bs : List Byte) : (s.spPoke b j off bs).side = s.side := by
  induction bs generalizing s off with
  | nil => rfl
  | cons x bs ih => exact ih _ _

/-- A byte of scratchpad after a write of several: the one written there, or the old one. -/
theorem get_spPoke (bs : List Byte) (s : State) (b j off k : Nat) : Map.get (s.spPoke b j off bs).scratch 0 k =
    if spKey b j off ≤ k ∧ k < spKey b j off + bs.length then bs.getD (k - spKey b j off) 0 else Map.get s.scratch 0 k := by
  induction bs generalizing s off with
  | nil => simp [State.spPoke]
  | cons x bs ih =>
    have hkey := spKey_add b j off 1
    have hlen : (x :: bs).length = bs.length + 1 := rfl
    rw [State.spPoke, ih, Map.get_set, hkey, hlen]
    rcases Nat.lt_trichotomy k (spKey b j off) with h | h | h
    · rw [if_neg (by omega), if_neg (by omega), if_neg (by omega)]
    · rw [if_neg (by omega), if_pos h, if_pos (by omega), h, Nat.sub_self, List.getD_cons_zero]
    · have hsub : k - spKey b j off = k - (spKey b j off + 1) + 1 := by omega
      by_cases hin : k < spKey b j off + (bs.length + 1)
      · rw [if_pos (by omega), if_pos (by omega), hsub, List.getD_cons_succ]
      · rw [if_neg (by omega), if_neg (by omega), if_neg (by omega)]

/-- The writes of `spStore` to the bytes, in order (R136). -/
def State.spPokes (s : State) (b j : Nat) (ws : List (Nat × List Byte × Bnd)) : State := ws.foldl (fun s w => s.spPoke b j w.1 w.2.1) s

theorem sameButSpad_spPokes (s : State) (b j : Nat) (ws : List (Nat × List Byte × Bnd)) : s.sameButSpad (s.spPokes b j ws) := by
  induction ws generalizing s with
  | nil => exact .refl s
  | cons w ws ih => exact (sameButSpad_spPoke s b j w.1 w.2.1).trans (ih _)

theorem side_spPokes (s : State) (b j : Nat) (ws : List (Nat × List Byte × Bnd)) : (s.spPokes b j ws).side = s.side := by
  induction ws generalizing s with
  | nil => rfl
  | cons w ws ih => exact (ih _).trans (side_spPoke s b j w.1 w.2.1)

/-- What a write makes of one sector of the side array (R98, R99, R432). -/
def State.spSector (s : State) (b j : Nat) (ws : List (Nat × List Byte × Bnd)) (sec : Nat) : State :=
  let here := ws.filter fun w => w.1 / 32 = sec
  let cover := covers (here.map fun w => (w.1 % 32, w.2.1)) 0
  let old := s.spSide b j (32 * sec)
  let new := here.foldl (fun x w => bndMax x w.2.2) 0
  s.setSide b j (32 * sec) (sectorBnd old.1 new cover, old.2 && !cover)

theorem spStore_eq (s : State) (b j : Nat) (ws : List (Nat × List Byte × Bnd)) :
    s.spStore b j ws = ((ws.map fun w => w.1 / 32).eraseDups).foldl (fun s sec => s.spSector b j ws sec) (s.spPokes b j ws) := rfl

theorem sameButSpad_spSector (s : State) (b j : Nat) (ws : List (Nat × List Byte × Bnd)) (sec : Nat) :
    s.sameButSpad (s.spSector b j ws sec) := rfl

theorem sectors_keep (b j : Nat) (ws : List (Nat × List Byte × Bnd)) (secs : List Nat) (s : State) :
    s.sameButSpad (secs.foldl (fun s sec => s.spSector b j ws sec) s) ∧
      (secs.foldl (fun s sec => s.spSector b j ws sec) s).scratch = s.scratch := by
  induction secs generalizing s with
  | nil => exact ⟨.refl s, rfl⟩
  | cons sec secs ih =>
    obtain ⟨hsame, hscratch⟩ := ih (s.spSector b j ws sec)
    exact ⟨(sameButSpad_spSector s b j ws sec).trans hsame, hscratch⟩

theorem sameButSpad_spStore (s : State) (b j : Nat) (ws : List (Nat × List Byte × Bnd)) : s.sameButSpad (s.spStore b j ws) := by
  rw [spStore_eq]
  exact (sameButSpad_spPokes s b j ws).trans (sectors_keep b j ws _ _).1

theorem scratch_spStore (s : State) (b j : Nat) (ws : List (Nat × List Byte × Bnd)) : (s.spStore b j ws).scratch = (s.spPokes b j ws).scratch := by
  rw [spStore_eq]
  exact (sectors_keep b j ws _ _).2

/-- A sector without poison stays so through a write. -/
theorem poison_spStore {s : State} {b j off : Nat} (ws : List (Nat × List Byte × Bnd)) (h : (s.spSide b j off).2 = false) :
    ((s.spStore b j ws).spSide b j off).2 = false := by
  rw [spStore_eq]
  generalize (ws.map fun w => w.1 / 32).eraseDups = secs
  have h0 : ((s.spPokes b j ws).spSide b j off).2 = false := by rwa [State.spSide, side_spPokes]
  generalize s.spPokes b j ws = u at h0
  induction secs generalizing u with
  | nil => exact h0
  | cons sec secs ih =>
    refine ih _ ?_
    unfold State.spSector State.setSide
    rw [State.spSide, Map.get_set]
    split
    case isTrue hkey =>
      have hsame : u.spSide b j (32 * sec) = u.spSide b j off := by rw [State.spSide, State.spSide, hkey]
      simp [hsame, h0]
    case isFalse => exact h0

end Sys2Proof.Machine
end

section
/-! PROOFS. Scratchpad instructions: the lanes performed at once, the write-back, and what the instruction leaves alone (R98, R99, R136,
R229, R236, R237). -/

namespace Sys2Proof.Machine

/-! ## The write-back of a load-class operation (R232) -/

theorem v_writeRun (xs : List Word) (b : Bnd) (dst a q l n : Nat) (hl : l < 32) (ha : a < 32) (w : Warp) :
    ((List.range n).foldl (fun w i => w.setV (dst + i) a ⟨xs.getD i 0, b⟩) w).v q l =
      if l = a ∧ dst ≤ q ∧ q < dst + n then ⟨xs.getD (q - dst) 0, b⟩ else w.v q l := by
  induction n with
  | zero => rw [if_neg (by omega)]; rfl
  | succ n ih =>
    rw [List.range_succ, List.foldl_append, List.foldl_cons, List.foldl_nil, v_setV _ _ _ _ _ _ hl ha, ih]
    by_cases hq : q = dst + n ∧ l = a
    · obtain ⟨rfl, rfl⟩ := hq
      rw [if_pos ⟨rfl, rfl⟩, if_pos (by omega), Nat.add_sub_cancel_left]
    · rw [if_neg hq]
      by_cases hin : l = a ∧ dst ≤ q ∧ q < dst + n
      · rw [if_pos hin, if_pos (by omega)]
      · rw [if_neg hin, if_neg (by omega)]

theorem v_writeLane (w : Warp) (o : MemOp) (a q l : Nat) (hl : l < 32) (ha : a < 32) : (w.writeLane o a).v q l =
    if l = a ∧ o.dst ≤ q ∧ q < o.dst + (o.lane a).res.length then ⟨(o.lane a).res.getD (q - o.dst) 0, (o.lane a).rbnd⟩ else w.v q l :=
  v_writeRun _ _ _ _ _ _ _ hl ha w

/-- A table of lanes numbered by a list. -/
theorem get_map_lanes (G : Nat → Lane) {ls : List Nat} {l : Nat} (h : l ∈ ls) : Map.get (ls.map fun l => (l, G l)) Lane.none l = G l := by
  induction ls with
  | nil => cases h
  | cons a ls ih =>
    rw [List.map_cons, Map.get_cons]
    split
    case isTrue heq => exact congrArg G heq
    case isFalse hne => exact ih ((List.mem_cons.1 h).resolve_left fun e => hne e.symm)

theorem writeBack_of_done {o : MemOp} {ls : List Nat} {G : Nat → Lane} (hkind : o.kind ≠ .sld) (hlanes : o.lanes = ls.map fun l => (l, G l))
    (hdone : ∀ l ∈ ls, (G l).st = .done) (w : Warp) : w.writeBack o = ls.foldl (fun w l => w.writeLane o l) w := by
  have hall : (o.lanes.filter fun p => p.2.st == .done) = ls.map fun l => (l, G l) := by
    rw [hlanes, List.filter_eq_self]
    intro p hp
    obtain ⟨l, hl, rfl⟩ := List.mem_map.1 hp
    simp [hdone l hl]
  rw [Warp.writeBack, if_neg (by simpa using hkind), hall, List.foldl_map]

theorem v_writeBack {o : MemOp} {ls : List Nat} {G : Nat → Lane} (hkind : o.kind ≠ .sld) (hlanes : o.lanes = ls.map fun l => (l, G l))
    (hdone : ∀ l ∈ ls, (G l).st = .done) (hls : ∀ l ∈ ls, l < 32) (w : Warp) (q l : Nat) (hl : l < 32) :
    (w.writeBack o).v q l = if l ∈ ls ∧ o.dst ≤ q ∧ q < o.dst + (G l).res.length then ⟨(G l).res.getD (q - o.dst) 0, (G l).rbnd⟩
      else w.v q l := by
  have hlane : ∀ l ∈ ls, o.lane l = G l := fun l h => by rw [MemOp.lane, hlanes, get_map_lanes G h]
  have key : ∀ (ms : List Nat) (w : Warp), (∀ m ∈ ms, m ∈ ls) → (ms.foldl (fun w l => w.writeLane o l) w).v q l =
      if l ∈ ms ∧ o.dst ≤ q ∧ q < o.dst + (G l).res.length then ⟨(G l).res.getD (q - o.dst) 0, (G l).rbnd⟩ else w.v q l := by
    intro ms
    induction ms with
    | nil => intro w _; simp
    | cons a ms ih =>
      intro w hms
      have ha := hms a List.mem_cons_self
      rw [List.foldl_cons, ih _ fun m hm => hms m (List.mem_cons_of_mem _ hm), v_writeLane _ _ _ _ _ hl (hls a ha), hlane a ha]
      by_cases hla : l = a
      · subst hla
        by_cases hin : o.dst ≤ q ∧ q < o.dst + (G l).res.length <;> simp [hin]
      · simp [hla]
  rw [writeBack_of_done hkind hlanes hdone]
  exact key ls w fun _ h => h

/-- What a write-back into vector registers changes of a warp. -/
def Warp.sameButVregs (w x : Warp) : Prop := x = { w with vregs := x.vregs }

theorem Warp.sameButVregs.refl (w : Warp) : w.sameButVregs w := rfl

theorem Warp.sameButVregs.trans {w x y : Warp} (h : w.sameButVregs x) (g : x.sameButVregs y) : w.sameButVregs y := by
  unfold Warp.sameButVregs at *; rw [g, h]

theorem setV_sameButVregs (w : Warp) (r l : Nat) (x : LV) : w.sameButVregs (w.setV r l x) := rfl

theorem foldl_sameButVregs {α : Type} {f : Warp → α → Warp} (hf : ∀ (w : Warp) x, w.sameButVregs (f w x)) (xs : List α) (w : Warp) :
    w.sameButVregs (xs.foldl f w) := by
  induction xs generalizing w with
  | nil => exact .refl w
  | cons x xs ih => exact (hf w x).trans (ih _)

theorem writeBack_sameButVregs {o : MemOp} (hkind : o.kind ≠ .sld) (w : Warp) : w.sameButVregs (w.writeBack o) := by
  rw [Warp.writeBack, if_neg (by simpa using hkind)]
  exact foldl_sameButVregs (fun w p => foldl_sameButVregs (fun w i => setV_sameButVregs w _ _ _) _ w) _ w

/-! ## The issue of a scratchpad instruction -/

/-- A lane of a SPAD instruction as it leaves the warp. -/
def Warp.spadSent (w : Warp) (x : SpadOp) (d a : VReg) (imm : BitVec 9) (l : Nat) : Lane :=
  let p := w.spadData x d l
  { Lane.none with st := .sent, addr := w.spadOff a imm l, data := p.1, bnd := p.2, bnds := w.memBnds d.toNat x.regs l }

/-- The operation of a SPAD instruction as it leaves the warp. -/
def State.spadOp (s : State) (x : SpadOp) (d a : VReg) (imm : BitVec 9) : MemOp :=
  { s.spadRec x d with lanes := (lanesOf s.cw.eff).map fun l => (l, s.cw.spadSent x d a imm l) }

theorem memLanes_eq_eff {w : Warp} (h : ∀ l, (w.thr l).replay = none) : w.memLanes = w.eff := by
  rw [Warp.memLanes, h]; rfl

theorem lockLanes_nil {s : State} (h : (s.core (coreOf s.cur)).locks = []) (global : Bool) (vf asid block : Nat) (write : Bool)
    (ls : List (Nat × Nat × Nat)) : s.lockLanes global vf asid block write ls = [] := by
  rw [State.lockLanes, h, List.filterMap_eq_nil_iff]
  exact fun _ _ => rfl

theorem deliverFull_room {s : State} (h : s.cw.deferred.length < 4) (k : State → State) : s.deliverFull k = k s := by
  rw [State.deliverFull, if_neg (by omega)]

/-- A SPAD instruction that may issue takes its effect. -/
theorem spad_issues {s : State} {x : SpadOp} {d a : VReg} (imm : BitVec 9) (hfree : s.spadFree (spadUses x d a))
    (hrel : x.kind.writes = true → s.relPending s.cur = false) (hroom : x.kind = .st → s.cw.deferred.length < 4) :
    s.spad x d a imm = .next (s.spadGo x (s.spadOp x d a imm)) := by
  obtain ⟨hclear, hacq, hlocks, hreplay⟩ := hfree
  have hint : s.interlocked (spadUses x d a) = false := hclear.1
  have hwait : (x.kind.writes && s.relPending s.cur) = false := by
    cases hw : x.kind.writes
    · rfl
    · simpa using hrel hw
  have hfull : ∀ k : State → State, (if x.kind == .st then s.deliverFull else fun k => k s) k = k s := by
    intro k
    split
    case isTrue hst => exact deliverFull_room (hroom (by simpa using hst)) k
    case isFalse => rfl
  rw [State.spad, hint, hacq, hwait, Bool.false_or, Bool.false_or, if_neg Bool.false_ne_true, hfull, guard_of_clear hclear]
  dsimp only
  rw [lockLanes_nil hlocks, memLanes_eq_eff hreplay]
  rfl

/-! ## What a scratchpad instruction leaves alone -/

theorem State.outsideKept.trans {s t u : State} (h : s.outsideKept t) (g : t.outsideKept u) : s.outsideKept u := by
  obtain ⟨hcur, hwarps, hb, hc, hl, hq, hco, ho, he, hm, hhub, hfab, hp, ht, hout⟩ := h
  obtain ⟨gcur, gwarps, gb, gc, gl, gq, gco, go, ge, gm, ghub, gfab, gp, gt, gout⟩ := g
  exact ⟨gcur.trans hcur, fun k hk => (gwarps k (hcur ▸ hk)).trans (hwarps k hk), gb.trans hb, gc.trans hc, gl.trans hl, gq.trans hq,
    gco.trans hco, go.trans ho, ge.trans he, gm.trans hm, ghub.trans hhub, gfab.trans hfab, gp.trans hp, gt.trans ht, gout.trans hout⟩

theorem State.sameButSpad.cw {s u : State} (h : s.sameButSpad u) : u.cw = s.cw := by
  unfold State.sameButSpad at h; rw [h]; rfl

theorem State.sameButSpad.outside {s u : State} (h : s.sameButSpad u) : s.outsideKept u := by
  unfold State.sameButSpad at h
  rw [h]
  exact ⟨rfl, fun _ _ => rfl, rfl, rfl, rfl, rfl, rfl, rfl, rfl, rfl, rfl, rfl, rfl, rfl, rfl⟩

theorem State.sameButSpad.memory {s u : State} (h : s.sameButSpad u) : (∀ a, u.peek a = s.peek a) ∧ u.gspace = s.gspace := by
  unfold State.sameButSpad at h
  rw [h]
  exact ⟨fun _ => rfl, rfl⟩

/-- The end of an instruction that has changed scratchpad, and of the issuing warp vector registers alone. -/
theorem spadKept_finish {s v : State} (hout : s.outsideKept v) (hmem : (∀ a, v.peek a = s.peek a) ∧ v.gspace = s.gspace)
    (hcw : s.cw.sameButVregs v.cw) : spadKept s (v.finish 1) := by
  have hplace := finish_place v 1
  obtain ⟨-, hsregs, hsc, hkregs⟩ := hplace.registers
  obtain ⟨hmem', hout'⟩ := onlyCw_finish v 1
  obtain ⟨hpeek', -, -, -, hgspace', -⟩ := hmem'
  obtain ⟨hpeek, hgspace⟩ := hmem
  have hspecial : s.cw.specialsKept v.cw := by
    rw [hcw]
    exact ⟨rfl, rfl, rfl, rfl, rfl, rfl, rfl, rfl, rfl, rfl, rfl, rfl, rfl, rfl, rfl, rfl, rfl⟩
  have hthr : ∀ l, v.cw.thr l = s.cw.thr l := fun l => by rw [hcw]; rfl
  have hissue : v.cw.issue = s.cw.issue := by rw [hcw]
  refine ⟨hsregs.trans (by rw [hcw]), hsc.trans (by rw [hcw]), hkregs.trans (by rw [hcw]), hspecial.trans hplace.specialsKept,
    fun a => (hpeek' a).trans (hpeek a), hgspace'.trans hgspace, hout.trans hout', fun l hl hs => ?_⟩
  rw [finish_pc v 1 l (by rwa [hissue]) (by rwa [hthr]), hthr]

theorem spadKept_store {s u : State} (hsame : s.sameButSpad u) : spadKept s (u.finish 1) :=
  spadKept_finish hsame.outside hsame.memory (by rw [hsame.cw]; exact .refl _)

theorem spadKept_load {s u : State} (hsame : s.sameButSpad u) {f : Warp → Warp} (hf : s.cw.sameButVregs (f s.cw)) :
    spadKept s ((u.updCw f).finish 1) :=
  spadKept_finish (hsame.outside.trans (onlyCw_updCw u f).2) hsame.memory (by rw [State.cw_updCw, hsame.cw]; exact hf)

/-! ## Lanes performed at once -/

end Sys2Proof.Machine
end

section
/-! PROOFS. Scratchpad instructions: the lanes performed at once, of loads, stores and atomics (R98, R99, R136, R229, R236, R237). -/

namespace Sys2Proof.Machine

/-! ## One lane -/

/-- A lane's offset is aligned and inside the block's slice. -/
def State.spadFits (s : State) (b : Nat) (x : SpadOp) (l : Lane) : Prop :=
  l.addr.toNat % x.size = 0 ∧ l.addr.toNat + x.size ≤ s.sliceOf b

/-- A load lane served (R236). -/
def State.spadLoaded (s : State) (b j : Nat) (x : SpadOp) (l : Lane) : Lane :=
  { l with st := .done, res := spadWords x (s.spRead b j l.addr.toNat x.size), rbnd := (s.spSide b j l.addr.toNat).1 }

theorem spadLane_st {s : State} {b : Nat} {x : SpadOp} {l : Lane} (j : Nat) (hfit : s.spadFits b x l) (hkind : x.kind = .st) :
    s.spadLane b j x l = (s, { l with st := .done }) := by
  obtain ⟨halign, hslice⟩ := hfit
  simp [State.spadLane, halign, Nat.not_lt.2 hslice, hkind]

theorem spadLane_ld {s : State} {b j : Nat} {x : SpadOp} {l : Lane} (hfit : s.spadFits b x l) (hkind : x.kind = .ld)
    (hclean : (s.spSide b j l.addr.toNat).2 = false) : s.spadLane b j x l = (s, s.spadLoaded b j x l) := by
  obtain ⟨halign, hslice⟩ := hfit
  simp [State.spadLane, State.spadLoaded, halign, Nat.not_lt.2 hslice, hkind, hclean]

/-- The bytes and the bound that an atomic lane stores (R229). -/
def State.spadNew (s : State) (b j : Nat) (x : SpadOp) (l : Lane) : List Byte × Bnd :=
  rmw x.kind x.aop 4 (s.spRead b j l.addr.toNat 4) l.data (s.spSide b j l.addr.toNat).1 l.bnd

theorem spadLane_rmw {s : State} {b j : Nat} {x : SpadOp} {l : Lane} (hfit : s.spadFits b x l) (hst : x.kind ≠ .st) (hld : x.kind ≠ .ld)
    (hsize : x.size = 4) (hclean : (s.spSide b j l.addr.toNat).2 = false) : s.spadLane b j x l =
      (s.spStore b j [(l.addr.toNat, (s.spadNew b j x l).1, (s.spadNew b j x l).2)],
        { l with st := .done, res := wordsOf 1 (s.spRead b j l.addr.toNat 4), rbnd := (s.spSide b j l.addr.toNat).1 }) := by
  obtain ⟨halign, hslice⟩ := hfit
  rw [hsize] at halign hslice
  simp [State.spadLane, State.spadNew, halign, Nat.not_lt.2 hslice, hst, hld, hsize, hclean]

/-! ## The lanes in order (R136) -/

theorem spadLanes_cons {s u t : State} {b j p : Nat} {x : SpadOp} {l l' : Lane} {ls r : Map Lane} (h : s.spadLane b j x l = (u, l'))
    (g : u.spadLanes b j x ls = (t, r)) : s.spadLanes b j x ((p, l) :: ls) = (t, (p, l') :: r) := by
  rw [State.spadLanes, h]
  dsimp only
  rw [g]

/-- Lanes that each leave the state as it is. -/
theorem spadLanes_unchanged {s : State} {b j : Nat} {x : SpadOp} {F G : Nat → Lane} {ls : List Nat}
    (h : ∀ l ∈ ls, s.spadLane b j x (F l) = (s, G l)) :
    s.spadLanes b j x (ls.map fun l => (l, F l)) = (s, ls.map fun l => (l, G l)) := by
  induction ls with
  | nil => rfl
  | cons a ls ih =>
    exact spadLanes_cons (h a List.mem_cons_self) (ih fun l hl => h l (List.mem_cons_of_mem _ hl))

/-- Two lanes touch different words. -/
def wordsApart (x y : Nat) : Prop := x + 4 ≤ y ∨ y + 4 ≤ x

theorem get_spStore_one (s : State) (b j off : Nat) (bs : List Byte) (bnd : Bnd) (k : Nat) :
    Map.get (s.spStore b j [(off, bs, bnd)]).scratch 0 k =
      if spKey b j off ≤ k ∧ k < spKey b j off + bs.length then bs.getD (k - spKey b j off) 0 else Map.get s.scratch 0 k := by
  rw [scratch_spStore]
  exact get_spPoke bs s b j off k

theorem spByte_spStore_one (s : State) (b j off : Nat) (bs : List Byte) (bnd : Bnd) (a : Nat) :
    (s.spStore b j [(off, bs, bnd)]).spByte b j a = if off ≤ a ∧ a < off + bs.length then bs.getD (a - off) 0 else s.spByte b j a := by
  have hkey : ∀ o, spKey b j o = spKey b j 0 + o := fun o => by rw [← spKey_add, Nat.zero_add]
  have hsub : spKey b j a - spKey b j off = a - off := by rw [hkey a, hkey off]; omega
  have hiff : (spKey b j off ≤ spKey b j a ∧ spKey b j a < spKey b j off + bs.length) ↔ (off ≤ a ∧ a < off + bs.length) := by
    rw [hkey a, hkey off]; omega
  rw [State.spByte, get_spStore_one]
  simp only [hsub, hiff]
  rfl

theorem spRead_spStore_apart {s : State} {b j off a : Nat} {bs : List Byte} (bnd : Bnd) (hlen : bs.length = 4) (h : wordsApart off a) :
    (s.spStore b j [(off, bs, bnd)]).spRead b j a 4 = s.spRead b j a 4 := by
  refine List.map_congr_left fun i hi => ?_
  have hi4 := List.mem_range.1 hi
  rw [spByte_spStore_one, if_neg]
  rcases h with h | h <;> omega

theorem spRead_spStore_same {s : State} {b j off : Nat} {bs : List Byte} (bnd : Bnd) :
    (s.spStore b j [(off, bs, bnd)]).spRead b j off bs.length = bs := by
  apply List.ext_getElem
  · simp [State.spRead]
  · intro i h _
    have hi : i < bs.length := by simpa [State.spRead] using h
    simp only [State.spRead, List.getElem_map, List.getElem_range, spByte_spStore_one]
    rw [if_pos (by omega), Nat.add_sub_cancel_left, List.getD_eq_getElem _ _ hi]

theorem governedLane_val (rnd : Rnd) (g : Governed) : (governedLane .p0 rnd g).val =
    (firstNan g.srcs).elim (BitVec.ofNat 32 (roundFp spF32 rnd false (g.exact rnd)).bits) (toF32 .rne) := by
  unfold governedLane
  cases firstNan g.srcs <;> rfl

theorem selectLane_val (xs : List Opnd) (pick : FV) :
    (selectLane xs pick).val = (firstNan (xs.map Opnd.v)).elim (toF32 .rne pick) (toF32 .rne) := by
  unfold selectLane
  cases firstNan (xs.map Opnd.v) <;> rfl

theorem addElem_fst (sp : FpSpec) (rnd : Rnd) (x y : Opnd) : (addElem sp rnd x y).1 =
    (firstNan [x.v, y.v]).elim (roundFp sp rnd false (addFV rnd x.v y.v)).bits fun v => (roundFp sp rnd false v).bits := by
  unfold addElem elemResult
  cases firstNan [x.v, y.v] <;> rfl

/-- The new value of an atomic does not depend on the bounds (R100). -/
theorem aopNew_fst (op : Aop) (n old v : Nat) (bo bv bo' bv' : Bnd) : (aopNew op n old v bo bv).1 = (aopNew op n old v bo' bv').1 := by
  cases op
  case faddF32 =>
    simp only [aopNew, addLane, governedLane_val]
    rfl
  case fminF32 =>
    simp only [aopNew, fminLane, selectLane_val]
    rfl
  case fmaxF32 =>
    simp only [aopNew, fmaxLane, selectLane_val]
    rfl
  case faddBf16x2 =>
    simp only [aopNew, packLane, addElem_fst]
    rfl
  all_goals rfl

/-- The bytes that a lane of an atomic leaves at its offset (R229). -/
def aopBytes (x : SpadOp) (old : List Byte) (data : List Word) : List Byte :=
  if x.kind = .cas then (if natOf old = natWords (data.take 1) then lowBytes 4 (data.drop 1) else old)
  else bytesOf 4 (aopNew x.aop 32 (natOf old) (natWords data) 0 0).1

theorem spadNew_fst (s : State) (b j : Nat) (x : SpadOp) (l : Lane) :
    (s.spadNew b j x l).1 = aopBytes x (s.spRead b j l.addr.toNat 4) l.data := by
  rw [State.spadNew, rmw.eq_def, aopBytes]
  split
  case h_1 hkind =>
    rw [if_pos hkind]
    exact apply_ite Prod.fst _ _ _
  case h_2 hkind =>
    rw [if_neg hkind]
    exact congrArg (bytesOf 4) (aopNew_fst _ _ _ _ _ _ _ _)

theorem length_aopBytes {x : SpadOp} {old : List Byte} {data : List Word} (hold : old.length = 4) (hdata : x.kind = .cas → 2 ≤ data.length) :
    (aopBytes x old data).length = 4 := by
  unfold aopBytes
  split
  case isTrue hkind =>
    have := hdata hkind
    split
    · rw [lowBytes, List.length_take, length_wordBytes, List.length_drop]
      omega
    · exact hold
  case isFalse => exact length_bytesOf _ _

@[simp] theorem length_spRead (s : State) (b j off n : Nat) : (s.spRead b j off n).length = n := by
  simp [State.spRead]

/-- What atomic lanes do: each returns the old word of its offset and leaves the new one there, and no other byte changes. -/
def atomicsDone (s t : State) (b j : Nat) (x : SpadOp) (F G : Nat → Lane) (ls : List Nat) : Prop :=
  s.sameButSpad t ∧
  (∀ k, (∀ l ∈ ls, ∀ i, i < 4 → k ≠ spKey b j ((F l).addr.toNat + i)) → Map.get t.scratch 0 k = Map.get s.scratch 0 k) ∧
  ∀ l ∈ ls, (G l).st = .done ∧ (G l).res = wordsOf 1 (s.spRead b j (F l).addr.toNat 4) ∧
    t.spRead b j (F l).addr.toNat 4 = aopBytes x (s.spRead b j (F l).addr.toNat 4) (F l).data

/-- A lane of an atomic served. -/
def State.spadSwapped (s : State) (b j : Nat) (l : Lane) : Lane :=
  { l with st := .done, res := wordsOf 1 (s.spRead b j l.addr.toNat 4), rbnd := (s.spSide b j l.addr.toNat).1 }

/-- The first lane performed, then the others. -/
theorem atomicsDone_cons {s u t : State} {b j a : Nat} {x : SpadOp} {F G : Nat → Lane} {ls : List Nat} (ha : a ∉ ls)
    (hu : s.spStore b j [((F a).addr.toNat, (s.spadNew b j x (F a)).1, (s.spadNew b j x (F a)).2)] = u)
    (hlen : (s.spadNew b j x (F a)).1.length = 4) (hapart : ∀ l ∈ ls, wordsApart (F a).addr.toNat (F l).addr.toNat)
    (h : atomicsDone u t b j x F G ls) :
    atomicsDone s t b j x F (fun l => if l = a then s.spadSwapped b j (F a) else G l) (a :: ls) := by
  obtain ⟨hsame, hframe, hdone⟩ := h
  have hread : ∀ l ∈ ls, u.spRead b j (F l).addr.toNat 4 = s.spRead b j (F l).addr.toNat 4 := fun l hl => by
    rw [← hu]
    exact spRead_spStore_apart _ hlen (hapart l hl)
  refine ⟨State.sameButSpad.trans (hu ▸ sameButSpad_spStore s b j _) hsame, fun k hk => ?_, fun l hl => ?_⟩
  · have hu' : Map.get u.scratch 0 k = Map.get s.scratch 0 k := by
      rw [← hu, get_spStore_one, if_neg]
      rintro ⟨hlow, hhigh⟩
      have hkey := hk a List.mem_cons_self (k - spKey b j (F a).addr.toNat) (by omega)
      rw [spKey_add] at hkey
      omega
    exact (hframe k fun l hl => hk l (List.mem_cons_of_mem _ hl)).trans hu'
  · by_cases hla : l = a
    · subst hla
      have hkept : t.spRead b j (F l).addr.toNat 4 = u.spRead b j (F l).addr.toNat 4 := by
        refine List.map_congr_left fun i hi => hframe _ fun m hm n hn => ?_
        have hi4 := List.mem_range.1 hi
        have hwords := hapart m hm
        rw [spKey_add, spKey_add, ← Nat.zero_add (F l).addr.toNat, ← Nat.zero_add (F m).addr.toNat, spKey_add, spKey_add]
        rcases hwords with h | h <;> omega
      have hsame := spRead_spStore_same (s := s) (b := b) (j := j) (off := (F l).addr.toNat) (bs := (s.spadNew b j x (F l)).1)
        (s.spadNew b j x (F l)).2
      rw [hu, hlen, ← hkept, spadNew_fst] at hsame
      simp only [if_true]
      exact ⟨rfl, rfl, hsame⟩
    · have hl' : l ∈ ls := (List.mem_cons.1 hl).resolve_left hla
      obtain ⟨hst, hres, hnew⟩ := hdone l hl'
      rw [hread l hl'] at hres hnew
      simp only [if_neg hla]
      exact ⟨hst, hres, hnew⟩

theorem spadLanes_rmw {b j : Nat} {x : SpadOp} {F : Nat → Lane} (hst : x.kind ≠ .st) (hld : x.kind ≠ .ld) (hsize : x.size = 4) {ls : List Nat}
    {s : State} (hnodup : ls.Nodup) (hfit : ∀ l ∈ ls, s.spadFits b x (F l)) (hclean : ∀ l ∈ ls, (s.spSide b j (F l).addr.toNat).2 = false)
    (hdata : x.kind = .cas → ∀ l ∈ ls, 2 ≤ (F l).data.length)
    (hapart : ∀ l ∈ ls, ∀ k ∈ ls, l ≠ k → wordsApart (F l).addr.toNat (F k).addr.toNat) :
    ∃ t G, s.spadLanes b j x (ls.map fun l => (l, F l)) = (t, ls.map fun l => (l, G l)) ∧ atomicsDone s t b j x F G ls := by
  induction ls generalizing s with
  | nil => exact ⟨s, F, rfl, .refl s, fun _ _ => rfl, fun l hl => by cases hl⟩
  | cons a ls ih =>
    obtain ⟨ha, hnodup'⟩ := List.nodup_cons.1 hnodup
    have hhead : a ∈ a :: ls := List.mem_cons_self
    have hmem : ∀ l ∈ ls, l ∈ a :: ls := fun l hl => List.mem_cons_of_mem _ hl
    have hne : ∀ l ∈ ls, a ≠ l := fun l hl e => ha (e ▸ hl)
    have hstep := spadLane_rmw (hfit a hhead) hst hld hsize (hclean a hhead)
    have hlen : (s.spadNew b j x (F a)).1.length = 4 := by
      rw [spadNew_fst]
      exact length_aopBytes (length_spRead _ _ _ _ _) fun hc => hdata hc a hhead
    generalize hu : s.spStore b j [((F a).addr.toNat, (s.spadNew b j x (F a)).1, (s.spadNew b j x (F a)).2)] = u at hstep
    have hsame : s.sameButSpad u := hu ▸ sameButSpad_spStore s b j _
    have hslice : u.sliceOf b = s.sliceOf b := by rw [hsame]; rfl
    obtain ⟨t, G, hrun, hdone⟩ := ih (s := u) hnodup'
      (fun l hl => ⟨(hfit l (hmem l hl)).1, hslice ▸ (hfit l (hmem l hl)).2⟩)
      (fun l hl => hu ▸ poison_spStore _ (hclean l (hmem l hl))) (fun hc l hl => hdata hc l (hmem l hl))
      (fun l hl k hk => hapart l (hmem l hl) k (hmem k hk))
    refine ⟨t, _, ?_, atomicsDone_cons ha hu hlen (fun l hl => hapart a hhead l (hmem l hl) (hne l hl)) hdone⟩
    have hrest : (ls.map fun l => (l, if l = a then s.spadSwapped b j (F a) else G l)) = ls.map fun l => (l, G l) :=
      List.map_congr_left fun l hl => by rw [if_neg (hne l hl).symm]
    rw [List.map_cons, List.map_cons, hrest, if_pos rfl]
    exact spadLanes_cons hstep hrun

end Sys2Proof.Machine
end

section
/-! PROOFS. The statement of the scratchpad instructions (R98, R99, R136, R229, R236, R237). -/

namespace Sys2Proof.Machine

/-! ## Lanes as they leave the warp -/

theorem spadSent_addr {w : Warp} (h : ∀ l, (w.thr l).replay = none) (x : SpadOp) (d a : VReg) (imm : BitVec 9) (l : Nat) :
    (w.spadSent x d a imm l).addr.toNat = spadAt w a imm l := by
  have hoff : (w.spadSent x d a imm l).addr = (w.v a.toNat l).val.setWidth 64 + BitVec.ofNat 64 (4 * imm.toNat) := by
    simp [Warp.spadSent, Warp.spadOff, h]
  have hval := (w.v a.toNat l).val.isLt
  have himm := imm.isLt
  rw [hoff, spadAt, BitVec.toNat_add, BitVec.toNat_setWidth, BitVec.toNat_ofNat]
  omega

theorem spadSent_data {w : Warp} (h : ∀ l, (w.thr l).replay = none) {x : SpadOp} (hld : x.kind ≠ .ld) (d a : VReg) (imm : BitVec 9) (l : Nat) :
    (w.spadSent x d a imm l).data = laneWords w d.toNat x.regs l := by
  simp [Warp.spadSent, Warp.spadData, Warp.memData, laneWords, h, hld]

/-- The lanes of a SPAD instruction whose offsets are good. -/
theorem spadSent_good {s : State} {x : SpadOp} {a : VReg} {imm : BitVec 9} {clean : Bool} (h : ∀ l, (s.cw.thr l).replay = none)
    (hgood : s.spadGood x.size a imm clean) (d : VReg) {l : Nat} (hl : l ∈ lanesOf s.cw.eff) :
    s.spadFits s.cw.block x (s.cw.spadSent x d a imm l) ∧
      (clean = true → (s.spSide s.cw.block (s.coreInBlock s.cw) (s.cw.spadSent x d a imm l).addr.toNat).2 = false) := by
  obtain ⟨halign, hslice, hclean⟩ := hgood l (lt_of_mem_lanesOf hl) ((mem_lanesOf _ _).1 hl)
  rw [State.spadFits, spadSent_addr h]
  exact ⟨⟨halign, hslice⟩, hclean⟩

theorem faults_of_done {o : MemOp} {ls : List Nat} {G : Nat → Lane} (hlanes : o.lanes = ls.map fun l => (l, G l))
    (hdone : ∀ l ∈ ls, (G l).st = .done) : o.faults = [] := by
  rw [MemOp.faults, hlanes, List.filterMap_eq_nil_iff]
  intro p hp
  obtain ⟨l, hl, rfl⟩ := List.mem_map.1 hp
  simp [hdone l hl]

/-! ## The effect of an instruction that returns (R232) -/

/-- The operation of a SPAD instruction with its lanes served. -/
def spadServed (s u : State) (x : SpadOp) (d : VReg) (G : Nat → Lane) : MemOp :=
  let o : MemOp := { s.spadRec x d with lanes := (lanesOf s.cw.eff).map fun l => (l, G l) }
  { o with written := o.elem ||| u.cw.replayElem }

/-- A load or an atomic whose lanes are all served writes its destinations, and its group moves on. -/
theorem spad_returns {s u : State} {x : SpadOp} {d a : VReg} {imm : BitVec 9} {G : Nat → Lane} (hst : x.kind ≠ .st) (hsld : x.kind ≠ .sld)
    (hissue : s.spad x d a imm = .next (s.spadGo x (s.spadOp x d a imm))) (hsame : s.sameButSpad u)
    (hlanes : s.spadLanes s.cw.block (s.coreInBlock s.cw) x (s.spadOp x d a imm).lanes = (u, (lanesOf s.cw.eff).map fun l => (l, G l)))
    (hdone : ∀ l ∈ lanesOf s.cw.eff, (G l).st = .done) :
    ∃ t, s.spad x d a imm = .next t ∧ spadKept s t ∧ t.scratch = u.scratch ∧ t.side = u.side ∧
      ∀ q l, l < 32 → t.cw.v q l = if s.cw.eff.getLsbD l = true ∧ d.toNat ≤ q ∧ q < d.toNat + (G l).res.length
        then ⟨(G l).res.getD (q - d.toNat) 0, (G l).rbnd⟩ else s.cw.v q l := by
  have hsld' : (spadServed s u x d G).kind ≠ .sld := hsld
  have hf : s.cw.sameButVregs (s.cw.writeBack (spadServed s u x d G)) := writeBack_sameButVregs hsld' _
  have hgo : s.spadGo x (s.spadOp x d a imm) = (u.updCw fun w => w.writeBack (spadServed s u x d G)).finish 1 := by
    rw [State.spadGo]
    dsimp only
    rw [hlanes, if_neg (by simpa using hst)]
    dsimp only
    rw [State.settleLoad, if_pos]
    · rfl
    · exact faults_of_done rfl hdone
  refine ⟨_, by rw [hissue, hgo], spadKept_load hsame (f := fun w => w.writeBack (spadServed s u x d G)) hf, rfl, rfl, fun q l hl => ?_⟩
  rw [v_updCw_finish, hsame.cw, v_writeBack hsld' rfl hdone (fun l => lt_of_mem_lanesOf) _ _ _ hl]
  simp only [mem_lanesOf]
  rfl

/-! ## Loads (R99, R236) -/

/-- The word that a load of a size delivers in its `i`-th register (R236). -/
def State.loadedWord (s : State) (size : Nat) (sg : Bool) (off i : Nat) : Word :=
  if size = 1 then (if sg then (s.spHere off).signExtend 32 else (s.spHere off).setWidth 32)
  else if size = 2 then
    (if sg then (s.spHere (off + 1) ++ s.spHere off).signExtend 32 else (s.spHere (off + 1) ++ s.spHere off).setWidth 32)
  else s.spHere4 (off + 4 * i)

/-- The sizes of loads: 1 and 2 bytes extended with zeros or the sign, and whole words. -/
def loadSize (size : Nat) (sg : Bool) : Prop := size = 1 ∨ size = 2 ∨ (sg = false ∧ (size = 4 ∨ size = 8 ∨ size = 16))

/-- The bytes of a slice read by the warp, as bytes of its core. -/
abbrev State.spReadHere (s : State) (off n : Nat) : List Byte := s.spRead s.cw.block (s.coreInBlock s.cw) off n

theorem word_spReadHere (s : State) {off n i : Nat} (h : 4 * i + 4 ≤ n) :
    BitVec.ofNat 32 (natOf (((s.spReadHere off n).drop (4 * i)).take 4)) = s.spHere4 (off + 4 * i) := by
  have hfour : ((s.spReadHere off n).drop (4 * i)).take 4 =
      [s.spHere (off + 4 * i), s.spHere (off + 4 * i + 1), s.spHere (off + 4 * i + 2), s.spHere (off + 4 * i + 3)] := by
    obtain ⟨m, hm⟩ : ∃ m, n - 4 * i = m + 4 := ⟨n - 4 * i - 4, by omega⟩
    rw [State.spReadHere, State.spRead, ← List.map_drop, ← List.map_take, List.range_eq_range', List.drop_range', hm]
    simp [List.range', State.spHere, Nat.add_assoc]
  rw [hfour, ofNat_natOf_four, State.spHere4]

theorem getD_wordsOf (n : Nat) (bs : List Byte) {i : Nat} (h : i < n) :
    (wordsOf n bs).getD i 0 = BitVec.ofNat 32 (natOf ((bs.drop (4 * i)).take 4)) := by
  rw [wordsOf, List.getD_eq_getElem _ _ (by simpa using h), List.getElem_map, List.getElem_range]

theorem getD_spadWords {s : State} {size : Nat} {sg : Bool} (h : loadSize size sg) (off : Nat) {i : Nat} (hi : i < (size + 3) / 4) :
    (spadWords (spadLd size sg) (s.spReadHere off size)).getD i 0 = s.loadedWord size sg off i := by
  rcases h with rfl | rfl | ⟨rfl, hsize⟩
  · obtain rfl : i = 0 := by omega
    have hbyte : s.spReadHere off 1 = [s.spHere off] := rfl
    have h8 : BitVec.ofNat 8 (natOf [s.spHere off]) = s.spHere off := by simp [natOf]
    have h32 : BitVec.ofNat 32 (natOf [s.spHere off]) = (s.spHere off).setWidth 32 := by
      rw [← BitVec.ofNat_toNat]; rfl
    rw [hbyte, spadWords, State.loadedWord]
    cases sg
    · exact h32
    · exact congrArg (BitVec.signExtend 32) h8
  · obtain rfl : i = 0 := by omega
    have hbytes : s.spReadHere off 2 = [s.spHere off, s.spHere (off + 1)] := rfl
    have h16 := ofNat_natOf_two (s.spHere off) (s.spHere (off + 1))
    have h32 : BitVec.ofNat 32 (natOf [s.spHere off, s.spHere (off + 1)]) = (s.spHere (off + 1) ++ s.spHere off).setWidth 32 := by
      rw [← h16]
      apply BitVec.eq_of_toNat_eq
      have := (s.spHere off).isLt
      have := (s.spHere (off + 1)).isLt
      simp only [BitVec.toNat_setWidth, BitVec.toNat_ofNat, natOf]
      omega
    rw [hbytes, spadWords, State.loadedWord]
    cases sg
    · exact h32
    · exact congrArg (BitVec.signExtend 32) h16
  · have hword : s.loadedWord size false off i = s.spHere4 (off + 4 * i) := by
      rw [State.loadedWord, if_neg (by omega), if_neg (by omega)]
    rw [hword, ← word_spReadHere s (off := off) (n := size) (by omega)]
    exact getD_wordsOf _ _ hi

theorem length_spadWords {size : Nat} {sg : Bool} (h : loadSize size sg) (bs : List Byte) :
    (spadWords (spadLd size sg) bs).length = (size + 3) / 4 := by
  cases sg
  case false => simp [spadWords, spadLd, wordsOf]
  case true =>
    rcases h with rfl | rfl | ⟨h, -⟩
    · rfl
    · rfl
    · cases h

theorem spadLd_result {s : State} {size : Nat} {sg : Bool} {d a : VReg} {imm : BitVec 9} (hsize : loadSize size sg)
    (hfree : s.spadFree (spadUses (spadLd size sg) d a)) (hgood : s.spadGood size a imm true) :
    ∃ t, s.spad (spadLd size sg) d a imm = .next t ∧ spadKept s t ∧ t.scratch = s.scratch ∧ t.side = s.side ∧
      ∀ q l, l < 32 → t.cw.v q l = if s.cw.eff.getLsbD l = true ∧ d.toNat ≤ q ∧ q < d.toNat + (size + 3) / 4
        then ⟨s.loadedWord size sg (spadAt s.cw a imm l) (q - d.toNat),
          (s.spSide s.cw.block (s.coreInBlock s.cw) (spadAt s.cw a imm l)).1⟩ else s.cw.v q l := by
  have hreplay := hfree.2.2.2
  have hst : (spadLd size sg).kind ≠ .st := by simp [spadLd]
  have hsld : (spadLd size sg).kind ≠ .sld := by simp [spadLd]
  have hwrites : (spadLd size sg).kind.writes = false := rfl
  have hissue := spad_issues imm hfree (fun hw => absurd hw (by simp [hwrites])) (fun hk => absurd hk hst)
  have hlane : ∀ l ∈ lanesOf s.cw.eff, s.spadLane s.cw.block (s.coreInBlock s.cw) (spadLd size sg) (s.cw.spadSent (spadLd size sg) d a imm l) =
      (s, s.spadLoaded s.cw.block (s.coreInBlock s.cw) (spadLd size sg) (s.cw.spadSent (spadLd size sg) d a imm l)) := fun l hl => by
    obtain ⟨hfit, hclean⟩ := spadSent_good (x := spadLd size sg) hreplay hgood d hl
    exact spadLane_ld hfit rfl (hclean rfl)
  obtain ⟨t, ht, hkept, hscratch, hside, hv⟩ := spad_returns hst hsld hissue (.refl s) (spadLanes_unchanged hlane)
    (fun _ _ => rfl)
  refine ⟨t, ht, hkept, hscratch, hside, fun q l hl => ?_⟩
  rw [hv q l hl, State.spadLoaded, spadSent_addr hreplay]
  dsimp only
  have hlen : (spadWords (spadLd size sg) (s.spReadHere (spadAt s.cw a imm l) size)).length = (size + 3) / 4 := length_spadWords hsize _
  have hsz : (spadLd size sg).size = size := rfl
  rw [hsz, hlen]
  split
  case isTrue hin => rw [getD_spadWords hsize _ (by omega)]
  case isFalse => rfl

/-! ## Stores (R98, R99, R136, R236) -/

/-- The writes of a store: each effective lane's bytes at its offset. -/
def Warp.spadWrites (w : Warp) (x : SpadOp) (d a : VReg) (imm : BitVec 9) : List (Nat × List Byte × Bnd) :=
  (lanesOf w.eff).map fun l => (spadAt w a imm l, lowBytes x.size (laneWords w d.toNat x.regs l), (w.spadSent x d a imm l).bnd)

theorem spadGo_store {s : State} {x : SpadOp} {d a : VReg} {imm : BitVec 9} (hkind : x.kind = .st) (hreplay : ∀ l, (s.cw.thr l).replay = none)
    (hgood : s.spadGood x.size a imm false) :
    s.spadGo x (s.spadOp x d a imm) = (s.spStore s.cw.block (s.coreInBlock s.cw) (s.cw.spadWrites x d a imm)).finish 1 := by
  have hld : x.kind ≠ .ld := by simp [hkind]
  have hlanes := spadLanes_unchanged (j := s.coreInBlock s.cw) (F := fun l => s.cw.spadSent x d a imm l)
    (G := fun l => { s.cw.spadSent x d a imm l with st := .done })
    fun l hl => spadLane_st (s.coreInBlock s.cw) (spadSent_good hreplay hgood d hl).1 hkind
  have hdone : ((lanesOf s.cw.eff).map fun l => (l, { s.cw.spadSent x d a imm l with st := LaneSt.done })).filter
      (fun p => p.2.st == .done) = (lanesOf s.cw.eff).map fun l => (l, { s.cw.spadSent x d a imm l with st := LaneSt.done }) := by
    rw [List.filter_eq_self]
    intro p hp
    obtain ⟨l, -, rfl⟩ := List.mem_map.1 hp
    rfl
  have hwrites : ((lanesOf s.cw.eff).map fun l => (l, { s.cw.spadSent x d a imm l with st := LaneSt.done })).map
      (fun p => (p.2.addr.toNat, lowBytes x.size p.2.data, p.2.bnd)) = s.cw.spadWrites x d a imm := by
    rw [List.map_map, Warp.spadWrites]
    refine List.map_congr_left fun l _ => ?_
    simp only [Function.comp_apply, spadSent_addr hreplay, spadSent_data hreplay hld]
  have hop : (s.spadOp x d a imm).lanes = (lanesOf s.cw.eff).map fun l => (l, s.cw.spadSent x d a imm l) := rfl
  rw [State.spadGo]
  dsimp only
  rw [hop, hlanes]
  dsimp only
  rw [hdone, hwrites, if_pos (by simpa using hkind), if_pos]
  exact faults_of_done rfl fun _ _ => rfl

theorem get_spPokes_other {s : State} {b j k : Nat} {ws : List (Nat × List Byte × Bnd)}
    (h : ∀ w ∈ ws, ¬(spKey b j w.1 ≤ k ∧ k < spKey b j w.1 + w.2.1.length)) :
    Map.get (s.spPokes b j ws).scratch 0 k = Map.get s.scratch 0 k := by
  induction ws generalizing s with
  | nil => rfl
  | cons w ws ih =>
    have hcons : s.spPokes b j (w :: ws) = (s.spPoke b j w.1 w.2.1).spPokes b j ws := rfl
    rw [hcons, ih fun v hv => h v (List.mem_cons_of_mem _ hv), get_spPoke, if_neg (h w List.mem_cons_self)]

/-- Of the writes that cover a byte, the last one stands (R136). -/
theorem get_spPokes_last {s : State} {b j k : Nat} {pre post : List (Nat × List Byte × Bnd)} {w : Nat × List Byte × Bnd}
    (hw : spKey b j w.1 ≤ k ∧ k < spKey b j w.1 + w.2.1.length)
    (hpost : ∀ v ∈ post, ¬(spKey b j v.1 ≤ k ∧ k < spKey b j v.1 + v.2.1.length)) :
    Map.get (s.spPokes b j (pre ++ w :: post)).scratch 0 k = w.2.1.getD (k - spKey b j w.1) 0 := by
  have happend : s.spPokes b j (pre ++ w :: post) = ((s.spPokes b j pre).spPoke b j w.1 w.2.1).spPokes b j post := by
    rw [State.spPokes, List.foldl_append]
    rfl
  rw [happend, get_spPokes_other hpost, get_spPoke, if_pos hw]

/-- The lanes of a mask above one of them stand after it. -/
theorem lanesOf_split {m : Mask} {l : Nat} (h : l ∈ lanesOf m) : ∃ pre post, lanesOf m = pre ++ l :: post ∧ ∀ k ∈ post, l < k := by
  obtain ⟨pre, post, hsplit⟩ := List.append_of_mem h
  have hsorted : (lanesOf m).Pairwise (· < ·) := List.pairwise_lt_range.filter _
  rw [hsplit, List.pairwise_append] at hsorted
  exact ⟨pre, post, hsplit, (List.pairwise_cons.1 hsorted.2.1).1⟩

theorem length_lowBytes {n : Nat} {ws : List Word} (h : n ≤ 4 * ws.length) : (lowBytes n ws).length = n := by
  rw [lowBytes, List.length_take, length_wordBytes, Nat.min_eq_left h]

theorem getD_lowBytes {n i : Nat} {ws : List Word} (h : n ≤ 4 * ws.length) (hi : i < n) : (lowBytes n ws).getD i 0 = byteAt ws i := by
  rw [← getD_wordBytes ws i (by omega), lowBytes, List.getD_eq_getElem?_getD, List.getElem?_take_of_lt hi, ← List.getD_eq_getElem?_getD]

theorem length_laneWords (w : Warp) (vdata n l : Nat) : (laneWords w vdata n l).length = n := by
  simp [laneWords]

theorem spadSt_result {s : State} {size : Nat} {d a : VReg} {imm : BitVec 9} (hfree : s.spadFree (spadUses (spadSt size) d a))
    (hroom : s.cw.deferred.length < 4) (hrel : s.relPending s.cur = false) (hgood : s.spadGood size a imm false) :
    ∃ t, s.spad (spadSt size) d a imm = .next t ∧ spadKept s t ∧ t.cw.vregs = s.cw.vregs ∧ s.spadFrame t size a imm ∧
      ∀ l k, l < 32 → s.cw.eff.getLsbD l = true → k < size →
        (∀ j, l < j → j < 32 → s.cw.eff.getLsbD j = true → ∀ n, n < size → spadAt s.cw a imm j + n ≠ spadAt s.cw a imm l + k) →
        t.spByte s.cw.block (s.coreInBlock s.cw) (spadAt s.cw a imm l + k) = byteAt (laneWords s.cw d.toNat ((size + 3) / 4) l) k := by
  have hreplay := hfree.2.2.2
  have hissue := spad_issues imm hfree (fun _ => hrel) (fun _ => hroom)
  have hgo := spadGo_store (x := spadSt size) (d := d) rfl hreplay hgood
  have hfits : ∀ l, size ≤ 4 * (laneWords s.cw d.toNat ((size + 3) / 4) l).length := fun l => by rw [length_laneWords]; omega
  have hlen : ∀ l, (lowBytes size (laneWords s.cw d.toNat ((size + 3) / 4) l)).length = size := fun l => length_lowBytes (hfits l)
  generalize hu : s.spStore s.cw.block (s.coreInBlock s.cw) (s.cw.spadWrites (spadSt size) d a imm) = u at hgo
  have hsame : s.sameButSpad u := hu ▸ sameButSpad_spStore _ _ _ _
  have hscratch : (u.finish 1).scratch = (s.spPokes s.cw.block (s.coreInBlock s.cw) (s.cw.spadWrites (spadSt size) d a imm)).scratch :=
    hu ▸ scratch_spStore _ _ _ _
  refine ⟨u.finish 1, by rw [hissue, hgo], spadKept_store hsame, ?_, fun k hk => ?_, fun l k hl heff hk hlast => ?_⟩
  · obtain ⟨hv, -, -, -⟩ := (finish_place u 1).registers
    rw [hv, hsame.cw]
  · rw [hscratch]
    refine get_spPokes_other fun w hw hin => ?_
    obtain ⟨l, hl, rfl⟩ := List.mem_map.1 hw
    obtain ⟨hlow, hhigh⟩ := hin
    have hend : k < spKey s.cw.block (s.coreInBlock s.cw) (spadAt s.cw a imm l) + size := (hlen l) ▸ hhigh
    have hlow' : spKey s.cw.block (s.coreInBlock s.cw) (spadAt s.cw a imm l) ≤ k := hlow
    refine hk l (k - spKey s.cw.block (s.coreInBlock s.cw) (spadAt s.cw a imm l)) (lt_of_mem_lanesOf hl) ((mem_lanesOf _ _).1 hl) (by omega) ?_
    rw [spKey_add]
    omega
  · obtain ⟨pre, post, hsplit, hpost⟩ := lanesOf_split ((mem_lanesOf _ _).2 heff)
    have hmem : ∀ j ∈ post, j < 32 ∧ s.cw.eff.getLsbD j = true := fun j hj => by
      have hj' : j ∈ lanesOf s.cw.eff := hsplit ▸ List.mem_append_right pre (List.mem_cons_of_mem l hj)
      exact ⟨lt_of_mem_lanesOf hj', (mem_lanesOf _ _).1 hj'⟩
    have hkey := spKey_add s.cw.block (s.coreInBlock s.cw) (spadAt s.cw a imm l) k
    rw [State.spByte, hscratch, Warp.spadWrites, hsplit, List.map_append, List.map_cons, get_spPokes_last, hkey, Nat.add_sub_cancel_left]
    · exact getD_lowBytes (hfits l) hk
    · rw [hkey]
      exact ⟨Nat.le_add_right _ _, Nat.add_lt_add_left (lt_of_lt_of_eq hk (hlen l).symm) _⟩
    · intro v hv hin
      obtain ⟨j, hj, rfl⟩ := List.mem_map.1 hv
      obtain ⟨hj32, hjeff⟩ := hmem j hj
      obtain ⟨hlow, hhigh⟩ := hin
      have hend : spKey s.cw.block (s.coreInBlock s.cw) (spadAt s.cw a imm l + k) <
        spKey s.cw.block (s.coreInBlock s.cw) (spadAt s.cw a imm j) + size := (hlen j) ▸ hhigh
      have hlow' : spKey s.cw.block (s.coreInBlock s.cw) (spadAt s.cw a imm j) ≤ spKey s.cw.block (s.coreInBlock s.cw) (spadAt s.cw a imm l + k) := hlow
      have hzero : ∀ o, spKey s.cw.block (s.coreInBlock s.cw) o = spKey s.cw.block (s.coreInBlock s.cw) 0 + o := fun o => by
        rw [← spKey_add, Nat.zero_add]
      rw [hzero (_ + k), hzero (spadAt s.cw a imm j)] at hend hlow'
      exact hlast j (hpost j hj) hj32 hjeff (spadAt s.cw a imm l + k - spadAt s.cw a imm j) (by omega) (by omega)

/-! ## Atomics (R136, R229, R237) -/

/-- The operations of a scratchpad atomic: one word is read and written, from the operand words of its kind. -/
def atomicOp (x : SpadOp) : Prop := x.size = 4 ∧ (x.kind = .atom ∧ x.regs = 1 ∨ x.kind = .cas ∧ x.regs = 2)

theorem spadAtomic_result {s : State} {x : SpadOp} {d a : VReg} {imm : BitVec 9} (hop : atomicOp x) (hfree : s.spadFree (spadUses x d a))
    (hrel : s.relPending s.cur = false) (hgood : s.spadGood 4 a imm true) (hapart : s.spadApart 4 a imm) :
    ∃ t, s.spad x d a imm = .next t ∧ spadKept s t ∧ s.spadFrame t 4 a imm ∧
      (∀ q l, l < 32 → ¬(q = d.toNat ∧ s.cw.eff.getLsbD l = true) → t.cw.v q l = s.cw.v q l) ∧
      ∀ l, l < 32 → s.cw.eff.getLsbD l = true →
        (t.cw.v d.toNat l).val = s.spHere4 (spadAt s.cw a imm l) ∧
        t.spRead s.cw.block (s.coreInBlock s.cw) (spadAt s.cw a imm l) 4 =
          aopBytes x (s.spReadHere (spadAt s.cw a imm l) 4) (laneWords s.cw d.toNat x.regs l) := by
  have hreplay := hfree.2.2.2
  obtain ⟨hsize, hkinds⟩ := hop
  have hst : x.kind ≠ .st := by rcases hkinds with ⟨h, -⟩ | ⟨h, -⟩ <;> simp [h]
  have hld : x.kind ≠ .ld := by rcases hkinds with ⟨h, -⟩ | ⟨h, -⟩ <;> simp [h]
  have hsld : x.kind ≠ .sld := by rcases hkinds with ⟨h, -⟩ | ⟨h, -⟩ <;> simp [h]
  have hissue := spad_issues imm hfree (fun _ => hrel) (fun hk => absurd hk hst)
  have hgood' : s.spadGood x.size a imm true := hsize ▸ hgood
  have haddr := spadSent_addr hreplay x d a imm
  obtain ⟨u, G, hlanes, hsame, hframe, hdone⟩ := spadLanes_rmw (j := s.coreInBlock s.cw) (F := fun l => s.cw.spadSent x d a imm l)
    hst hld hsize (nodup_lanesOf s.cw.eff) (fun l hl => (spadSent_good hreplay hgood' d hl).1)
    (fun l hl => (spadSent_good hreplay hgood' d hl).2 rfl)
    (fun hc l _ => by
      rw [spadSent_data hreplay hld, length_laneWords]
      rcases hkinds with ⟨h, -⟩ | ⟨-, h⟩
      · simp [h] at hc
      · exact h.ge)
    (fun l hl k hk hne => by
      rw [haddr, haddr]
      exact hapart l k (lt_of_mem_lanesOf hl) (lt_of_mem_lanesOf hk) hne ((mem_lanesOf _ _).1 hl) ((mem_lanesOf _ _).1 hk))
  simp only [haddr, spadSent_data hreplay hld] at hframe hdone
  obtain ⟨t, ht, hkept, hscratch, -, hv⟩ := spad_returns hst hsld hissue hsame hlanes fun l hl => (hdone l hl).1
  have hres : ∀ l, s.cw.eff.getLsbD l = true → (G l).res = wordsOf 1 (s.spReadHere (spadAt s.cw a imm l) 4) := fun l hl =>
    (hdone l ((mem_lanesOf _ _).2 hl)).2.1
  refine ⟨t, ht, hkept, fun k hk => ?_, fun q l hl hne => ?_, fun l hl heff => ⟨?_, ?_⟩⟩
  · rw [hscratch]
    exact hframe k fun l hl i hi => hk l i (lt_of_mem_lanesOf hl) ((mem_lanesOf _ _).1 hl) hi
  · rw [hv q l hl, if_neg]
    rintro ⟨heff, hlow, hhigh⟩
    rw [hres l heff] at hhigh
    have hone : (wordsOf 1 (s.spReadHere (spadAt s.cw a imm l) 4)).length = 1 := by simp [wordsOf]
    exact hne ⟨by omega, heff⟩
  · have hone : (wordsOf 1 (s.spReadHere (spadAt s.cw a imm l) 4)).length = 1 := by simp [wordsOf]
    rw [hv _ l hl, hres l heff, if_pos ⟨heff, le_refl _, by omega⟩, Nat.sub_self, getD_wordsOf _ _ Nat.one_pos]
    exact word_spReadHere s (by omega)
  · have hread := (hdone l ((mem_lanesOf _ _).2 heff)).2.2
    have hsame' : t.spRead s.cw.block (s.coreInBlock s.cw) (spadAt s.cw a imm l) 4 =
        u.spRead s.cw.block (s.coreInBlock s.cw) (spadAt s.cw a imm l) 4 := by
      unfold State.spRead State.spByte
      rw [hscratch]
    rw [hsame', hread]

theorem bytesOf_natOf (bs : List Byte) : bytesOf bs.length (natOf bs) = bs := by
  induction bs with
  | nil => rfl
  | cons b bs ih =>
    have hb := b.isLt
    have hhead : BitVec.ofNat 8 (b.toNat + 256 * natOf bs) = b := by
      apply BitVec.eq_of_toNat_eq
      rw [BitVec.toNat_ofNat]
      omega
    have htail : (b.toNat + 256 * natOf bs) / 256 = natOf bs := by omega
    rw [List.length_cons, natOf, bytesOf, hhead, htail, ih]

theorem natOf_spReadHere (s : State) (off : Nat) : natOf (s.spReadHere off 4) = (s.spHere4 off).toNat := by
  have hbytes : s.spReadHere off 4 = [s.spHere off, s.spHere (off + 1), s.spHere (off + 2), s.spHere (off + 3)] := rfl
  simp only [hbytes, State.spHere4, toNat_append_byte, natOf]
  omega

theorem natWords_one (w : Word) : natWords [w] = w.toNat := by
  have hbytes : wordBytes [w] = bytesOf 4 w.toNat := List.append_nil _
  rw [natWords, hbytes, natOf_bytesOf, Nat.mod_eq_of_lt (lt_of_lt_of_eq w.isLt (by norm_num))]

theorem aopBytes_atom (s : State) (op : Aop) (w : Warp) (off r l : Nat) :
    aopBytes (spadAtom op) (s.spReadHere off 4) (laneWords w r 1 l) =
      bytesOf 4 (aopNew op 32 (s.spHere4 off).toNat (w.v r l).val.toNat 0 0).1 := by
  have hword : laneWords w r 1 l = [(w.v r l).val] := rfl
  rw [aopBytes, if_neg (by simp [spadAtom]), natOf_spReadHere, hword, natWords_one]
  rfl

theorem aopBytes_cas (s : State) (w : Warp) (off r l : Nat) :
    aopBytes spadCas (s.spReadHere off 4) (laneWords w r 2 l) =
      bytesOf 4 (if s.spHere4 off = (w.v r l).val then (w.v (r + 1) l).val else s.spHere4 off).toNat := by
  have htake : (laneWords w r 2 l).take 1 = [(w.v r l).val] := rfl
  have hdrop : lowBytes 4 ((laneWords w r 2 l).drop 1) = bytesOf 4 (w.v (r + 1) l).val.toNat := rfl
  have hold : bytesOf 4 (s.spHere4 off).toNat = s.spReadHere off 4 := by
    rw [← natOf_spReadHere]
    exact bytesOf_natOf (s.spReadHere off 4)
  rw [aopBytes, if_pos (by rfl), natOf_spReadHere, htake, natWords_one, hdrop]
  by_cases heq : s.spHere4 off = (w.v r l).val
  · rw [if_pos (congrArg _ heq), if_pos heq]
  · rw [if_neg fun h => heq (BitVec.eq_of_toNat_eq h), if_neg heq, hold]

/-! ## The instructions (R175) -/

theorem exec_spadLoad {i : Instr} {size : Nat} {sg : Bool} {d a : VReg} {imm : BitVec 9} (h : spadLoad i = some (size, sg, d, a, imm))
    (s : State) : exec i s = s.spad (spadLd size sg) d a imm ∧ loadSize size sg := by
  unfold spadLoad at h
  split at h
  case h_8 => cases h
  all_goals
    obtain ⟨rfl, rfl, rfl, rfl, rfl⟩ := h
    exact ⟨rfl, by simp [loadSize]⟩

theorem exec_spadStore {i : Instr} {size : Nat} {d a : VReg} {imm : BitVec 9} (h : spadStore i = some (size, d, a, imm)) (s : State) :
    exec i s = s.spad (spadSt size) d a imm := by
  unfold spadStore at h
  split at h
  case h_6 => cases h
  all_goals
    obtain ⟨rfl, rfl, rfl, rfl⟩ := h
    rfl

theorem exec_spadAtomic {i : Instr} {op : Aop} {d a : VReg} {imm : BitVec 9} (h : spadAtomic i = some (op, d, a, imm)) (s : State) :
    exec i s = s.spad (spadAtom op) d a imm := by
  unfold spadAtomic at h
  split at h
  case h_10 => cases h
  all_goals
    obtain ⟨rfl, rfl, rfl, rfl⟩ := h
    rfl

/-- Settles O15: each lane acts at once on the bytes at its offset; stores stand in lane order, and lanes of an atomic that touch
different words do not meet. -/
theorem scratchpadAccess : Obligations.ScratchpadAccess := by
  unfold Obligations.ScratchpadAccess
  refine ⟨fun i s size sg d a imm hi hfree hgood => ?_, fun i s size d a imm hi hfree hroom hrel hgood => ?_,
    fun i s op d a imm hi hfree hrel hgood hapart => ?_, fun s d a imm hfree hrel hgood hapart => ?_⟩
  · obtain ⟨hexec, hsize⟩ := exec_spadLoad hi s
    obtain ⟨t, ht, hkept, hscratch, hside, hv⟩ := spadLd_result hsize hfree hgood
    refine ⟨t, hexec.trans ht, hkept, hscratch, hside, fun q l hl => ?_⟩
    rw [hv q l hl, State.loadedWord]
    dsimp only
    simp only [← apply_ite (fun w : Word => (⟨w, (s.spSide s.cw.block (s.coreInBlock s.cw) (spadAt s.cw a imm l)).1⟩ : LV))]
  · rw [exec_spadStore hi]
    exact spadSt_result hfree hroom hrel hgood
  · rw [exec_spadAtomic hi]
    obtain ⟨t, ht, hkept, hframe, hother, hlane⟩ := spadAtomic_result (x := spadAtom op) ⟨rfl, .inl ⟨rfl, rfl⟩⟩ hfree hrel hgood hapart
    refine ⟨t, ht, hkept, hframe, hother, fun l hl heff => ⟨(hlane l hl heff).1, (hlane l hl heff).2.trans ?_⟩⟩
    exact aopBytes_atom s op s.cw _ _ l
  · obtain ⟨t, ht, hkept, hframe, hother, hlane⟩ := spadAtomic_result (x := spadCas) ⟨rfl, .inr ⟨rfl, rfl⟩⟩ hfree hrel hgood hapart
    refine ⟨t, ht, hkept, hframe, hother, fun l hl heff => ⟨(hlane l hl heff).1, (hlane l hl heff).2.trans ?_⟩⟩
    exact aopBytes_cas s s.cw _ _ l

end Sys2Proof.Machine
end

section
/-! PROOFS. An operation in flight when one of its lanes has been performed: the lane put back, and the group let go when all lanes have
settled (R232, R387). -/

namespace Sys2Proof.Machine

/-! ## What a step in flight leaves alone -/

theorem inFlightKept.refl (s : State) : inFlightKept s s := ⟨fun _ => ⟨rfl, rfl, rfl, rfl⟩, rfl, rfl, rfl⟩

theorem inFlightKept.trans {s t u : State} (h : inFlightKept s t) (g : inFlightKept t u) : inFlightKept s u := by
  obtain ⟨hw, hscratch, hgspace, htime⟩ := h
  obtain ⟨gw, gscratch, ggspace, gtime⟩ := g
  refine ⟨fun k => ?_, gscratch.trans hscratch, ggspace.trans hgspace, gtime.trans htime⟩
  obtain ⟨hv, hs, hk, hc⟩ := hw k
  obtain ⟨gv, gs, gk, gc⟩ := gw k
  exact ⟨gv.trans hv, gs.trans hs, gk.trans hk, gc.trans hc⟩

theorem inFlightKept_of_warps {s t : State} (hw : t.warps = s.warps) (hscratch : t.scratch = s.scratch) (hgspace : t.gspace = s.gspace)
    (htime : t.time = s.time) : inFlightKept s t :=
  ⟨fun k => by rw [State.warp, hw]; exact ⟨rfl, rfl, rfl, rfl⟩, hscratch, hgspace, htime⟩

/-- The vector, scalar and mask registers and the counters of a warp are as before. -/
def Warp.registersKept (w x : Warp) : Prop := x.vregs = w.vregs ∧ x.sregs = w.sregs ∧ x.kregs = w.kregs ∧ x.ctr = w.ctr

theorem Warp.sameButPlace.registersKept {w x : Warp} (h : w.sameButPlace x) : w.registersKept x := by
  unfold Warp.sameButPlace at h
  rw [h]
  exact ⟨rfl, rfl, rfl, rfl⟩

/-- A change of one warp that keeps its registers and counters. -/
theorem inFlightKept_updWarp (s : State) (k : Nat) {f : Warp → Warp} (hf : (s.warp k).registersKept (f (s.warp k))) :
    inFlightKept s (s.updWarp k f) := by
  refine ⟨fun j => ?_, rfl, rfl, rfl⟩
  by_cases hj : j = k
  · subst hj
    rw [State.warp_updWarp_same]
    exact hf
  · rw [State.warp_updWarp_other _ _ _ _ hj]
    exact ⟨rfl, rfl, rfl, rfl⟩

theorem inFlightKept_finish (s : State) (n : Nat) : inFlightKept s (s.finish n) := by
  refine ⟨fun k => ?_, rfl, rfl, rfl⟩
  by_cases hk : k = s.cur
  · subst hk
    exact (finish_place s n).registersKept
  · rw [finish_warp_other s n k hk]
    exact ⟨rfl, rfl, rfl, rfl⟩

/-! ## Lanes of an operation -/

@[simp] theorem lane_setLane_same (o : MemOp) (p : Nat) (l : Lane) : (o.setLane p l).lane p = l := by
  simp [MemOp.lane, MemOp.setLane]

theorem lane_setLane_other (o : MemOp) {p q : Nat} (l : Lane) (h : q ≠ p) : (o.setLane p l).lane q = o.lane q := by
  simp [MemOp.lane, MemOp.setLane, Map.get_set_other _ _ _ _ _ h]

theorem faults_eq_nil_iff (o : MemOp) : o.faults = [] ↔ ∀ p ∈ o.lanes, ∀ c, p.2.st ≠ .fault c := by
  rw [MemOp.faults, List.filterMap_eq_nil_iff]
  refine forall₂_congr fun p _ => ?_
  cases p.2.st <;> simp

/-- An entry after a write of a table is the one written or one of before. -/
theorem mem_set {α : Type} [DecidableEq α] {m : Map α} {d v : α} {k : Nat} {p : Nat × α} (h : p ∈ Map.set m d k v) : p = (k, v) ∨ p ∈ m := by
  induction m with
  | nil =>
    rw [Map.set] at h
    split at h
    · cases h
    · exact .inl (List.mem_singleton.1 h)
  | cons q t ih =>
    obtain ⟨j, a⟩ := q
    have htail : p ∈ Map.set t d k v → p = (k, v) ∨ p ∈ (j, a) :: t := fun h => (ih h).imp_right (List.mem_cons_of_mem _)
    rw [Map.set] at h
    split at h
    · split at h
      · exact htail h
      · rcases List.mem_cons.1 h with h | h
        · exact .inl h
        · exact .inr (List.mem_cons_of_mem _ h)
    · split at h
      · exact (List.mem_cons.1 h).imp_right id
      · rcases List.mem_cons.1 h with h | h
        · exact .inr (h ▸ List.mem_cons_self)
        · exact htail h

theorem faults_setLane {o : MemOp} {p : Nat} {l : Lane} (h : o.faults = []) (hl : l.st = .done) : (o.setLane p l).faults = [] := by
  rw [faults_eq_nil_iff] at h ⊢
  intro q hq c
  rcases mem_set hq with rfl | hq
  · simp [hl]
  · exact h q hq c

theorem leave_of_done {l : Lane} (h : l.st = .done) : l.leave = l := by
  rw [Lane.leave, h]

/-- The operation with its faulted lanes gone. -/
def MemOp.left (o : MemOp) : MemOp := { o with lanes := o.lanes.map fun p => (p.1, p.2.leave) }

theorem lane_left (o : MemOp) (p : Nat) : o.left.lane p = (o.lane p).leave := by
  rw [MemOp.lane, MemOp.lane, MemOp.left]
  generalize o.lanes = ls
  induction ls with
  | nil => rfl
  | cons q ls ih =>
    rw [List.map_cons, Map.get_cons, Map.get_cons]
    split
    · rfl
    · exact ih

/-! ## The group let go (R387) -/

/-- What follows a performed lane changes no memory and no line. -/
def State.lineMemory (s t : State) : Prop := t.home = s.home ∧ t.mem = s.mem

/-- A warp that its operation no longer holds. -/
def Warp.letGo (w : Warp) (o : MemOp) : Warp := { w.updThrs 0xFFFFFFFF (fun _ t => t.recordElem o.inst o.written) with hold := .none }

theorem letGo_registersKept (w : Warp) (o : MemOp) : w.registersKept (w.letGo o) := by
  have h := (updThrs_place w 0xFFFFFFFF fun _ t => t.recordElem o.inst o.written).registersKept
  unfold Warp.letGo
  generalize w.updThrs 0xFFFFFFFF (fun _ t => t.recordElem o.inst o.written) = x at h
  exact h

/-- The group of an operation whose lanes have all settled, without a fault, goes on. -/
def State.letGo (s : State) (id : Nat) (o : MemOp) : State :=
  let u := (s.updWarp o.slot fun w => w.letGo o).setOp id o.left
  { ({ u with cur := o.slot } : State).finish 2 with cur := u.cur }

theorem resolve_eq {s : State} {id : Nat} {o : MemOp} (hop : s.op? id = some o) (hfaults : o.faults = []) :
    s.resolve id = s ∨ s.resolve id = s.letGo id o := by
  unfold State.resolve
  simp only [hop]
  split
  case isTrue => exact .inl rfl
  case isFalse =>
    right
    rw [State.settleLoad, if_pos hfaults]
    rfl

theorem letGo_keeps (s : State) (id : Nat) (o : MemOp) :
    inFlightKept s (s.letGo id o) ∧ s.lineMemory (s.letGo id o) ∧ (s.letGo id o).op? id = some o.left := by
  have hwarp := inFlightKept_updWarp s o.slot (f := fun w => w.letGo o) (letGo_registersKept _ o)
  unfold State.letGo
  generalize hu : s.updWarp o.slot (fun w => w.letGo o) = u at hwarp
  have hmem : s.lineMemory u := hu ▸ ⟨rfl, rfl⟩
  have hset : inFlightKept u { u.setOp id o.left with cur := o.slot } := inFlightKept_of_warps rfl rfl rfl rfl
  have hfinish := inFlightKept_finish { u.setOp id o.left with cur := o.slot } 2
  exact ⟨(hwarp.trans hset).trans hfinish, hmem, State.op?_setOp_same u id o.left⟩

/-- A lane put back as done: it stands so, and nothing but warps and operations has changed. -/
theorem putLane_done {s : State} {id part : Nat} {o : MemOp} {l : Lane} (hop : s.op? id = some o) (hkind : o.kind ≠ .pf)
    (hfaults : o.faults = []) (hl : l.st = .done) :
    inFlightKept s (s.putLane id part l) ∧ s.lineMemory (s.putLane id part l) ∧
      ∃ o', (s.putLane id part l).op? id = some o' ∧ o'.lane part = l := by
  have hpf : ((o.setLane part l).kind == .pf && (o.setLane part l).settled) = false := by
    rw [Bool.and_eq_false_iff]
    exact .inl (by simpa [MemOp.setLane] using hkind)
  let o' : MemOp := { o.setLane part l with written := (o.setLane part l).written ||| (o.setLane part l).elem }
  have hput : s.putLane id part l = (s.setOp id o').resolve id := by
    rw [State.putLane, hop]
    dsimp only
    rw [hpf, if_neg Bool.false_ne_true]
  have hlane : o'.lane part = l := lane_setLane_same o part l
  have hset : inFlightKept s (s.setOp id o') := inFlightKept_of_warps rfl rfl rfl rfl
  rw [hput]
  rcases resolve_eq (State.op?_setOp_same s id o') (faults_setLane hfaults hl) with h | h
  · rw [h]
    exact ⟨hset, ⟨rfl, rfl⟩, o', State.op?_setOp_same s id o', hlane⟩
  · obtain ⟨hkept, hmem, hop'⟩ := letGo_keeps (s.setOp id o') id o'
    rw [h]
    exact ⟨hset.trans hkept, hmem, o'.left, hop', by rw [lane_left, hlane, leave_of_done hl]⟩

end Sys2Proof.Machine
end

section
/-! PROOFS. A lane of a memory operation at its home or at the fabric port: how the request reaches its service, and what loads leave
alone (R97, R107, R129, R146, R227). -/

namespace Sys2Proof.Machine

/-! ## Traffic and L1 -/

/-- Nothing but the counts of bytes moved has changed. -/
def State.sameButTraffic (s t : State) : Prop := t = { s with traffic := t.traffic }

theorem State.sameButTraffic.trans {s t u : State} (h : s.sameButTraffic t) (g : t.sameButTraffic u) : s.sameButTraffic u := by
  unfold State.sameButTraffic at *; rw [g, h]

theorem sameButTraffic_moved (s : State) (vf unit n : Nat) : s.sameButTraffic (s.moved vf unit n) := rfl

theorem sameButTraffic_bridged (s : State) (vf dom home n : Nat) : s.sameButTraffic (s.bridged vf dom home n) := by
  unfold State.bridged
  split
  · rfl
  · exact sameButTraffic_moved _ _ _ _

theorem sameButTraffic_served (s : State) (vf dom unit n : Nat) : s.sameButTraffic (s.served vf dom unit n) := by
  unfold State.served
  dsimp only
  split
  · exact (sameButTraffic_bridged _ _ _ _ _).trans (sameButTraffic_moved _ _ _ _)
  · exact sameButTraffic_bridged _ _ _ _ _

/-- Nothing but L1 caches has changed. -/
def State.sameButL1 (s t : State) : Prop := t = { s with l1 := t.l1 }

theorem State.sameButL1.trans {s t u : State} (h : s.sameButL1 t) (g : t.sameButL1 u) : s.sameButL1 u := by
  unfold State.sameButL1 at *; rw [g, h]

theorem sameButL1_l1Bits (s : State) (core vf asid va : Nat) (ws : BitWrites) (b : Bnd) (cover : Bool) :
    s.sameButL1 (s.l1Bits core vf asid va ws b cover) := by
  unfold State.l1Bits
  split <;> rfl

theorem sameButL1_l1Store (s : State) (core vf asid va : Nat) (ws : List (Nat × List Byte)) (b : Bnd) :
    s.sameButL1 (s.l1Store core vf asid va ws b) := by
  unfold State.l1Store
  split <;> rfl

theorem sameButL1_l1Lay (s : State) (o : MemOp) (f : Lane → Bool) : s.sameButL1 (s.l1Lay o f) := by
  unfold State.l1Lay
  refine List.foldlRecOn _ _ (motive := fun t => s.sameButL1 t) rfl fun t ht p _ => ht.trans ?_
  dsimp only
  split
  · rfl
  · split
    · exact sameButL1_l1Bits _ _ _ _ _ _ _ _
    · exact sameButL1_l1Store _ _ _ _ _ _ _

theorem sameButL1_overlay (s : State) (core vf asid va : Nat) : s.sameButL1 (s.overlay core vf asid va) := by
  unfold State.overlay
  exact List.foldlRecOn _ _ (motive := fun t => s.sameButL1 t) rfl fun t ht p _ => ht.trans (sameButL1_l1Lay _ _ _)

/-! ## L1 refilled (R107, R354) -/

/-- Nothing but L1 caches and the snoop filter of one line has changed. -/
def State.refilled (s t : State) (key : Nat) : Prop :=
  t = { s with l1 := t.l1, home := t.home } ∧ s.linesKept t key ∧
    (∀ h, s.hline key = some h → ∃ h', t.hline key = some h' ∧ h'.line = h.line ∧ h'.dirty = h.dirty) ∧
    (s.hline key = none → t.home = s.home)

theorem refilled_of_sameButL1 {s t : State} (h : s.sameButL1 t) (key : Nat) : s.refilled t key := by
  unfold State.sameButL1 at h
  have hhome : t.home = s.home := by rw [h]
  have hline : ∀ k, t.hline k = s.hline k := fun k => by rw [State.hline, hhome]; rfl
  refine ⟨by rw [h], fun k _ => hline k, fun x hx => ⟨x, (hline key).trans hx, rfl, rfl⟩, fun _ => hhome⟩

theorem State.sameButL1.refl (s : State) : s.sameButL1 s := rfl

theorem State.refilled.refl (s : State) (key : Nat) : s.refilled s key := refilled_of_sameButL1 (.refl s) key

theorem State.refilled.trans {s t u : State} {key : Nat} (h : s.refilled t key) (g : t.refilled u key) : s.refilled u key := by
  obtain ⟨h1, h2, h3, h4⟩ := h
  obtain ⟨g1, g2, g3, g4⟩ := g
  refine ⟨by rw [g1, h1], fun k hk => (g2 k hk).trans (h2 k hk), fun x hx => ?_, fun hn => ?_⟩
  · obtain ⟨y, hy, hyl, hyd⟩ := h3 x hx
    obtain ⟨z, hz, hzl, hzd⟩ := g3 y hy
    exact ⟨z, hz, hzl.trans hyl, hzd.trans hyd⟩
  · have hhome := h4 hn
    have ht : t.hline key = none := by rw [State.hline, hhome]; exact hn
    exact (g4 ht).trans hhome

theorem linesKept_setHline (s : State) (key : Nat) (x : Option HLine) : s.linesKept (s.setHline key x) key :=
  fun _ hk => Map.get_set_other _ _ _ _ _ hk

@[simp] theorem hline_setHline_same (s : State) (key : Nat) (x : Option HLine) : (s.setHline key x).hline key = x :=
  Map.get_set_same _ _ _ _

theorem refilled_addSharer (s : State) (key core : Nat) : s.refilled (s.addSharer key core) key := by
  unfold State.addSharer
  split
  case isFalse => exact .refl s key
  case isTrue =>
    split
    case h_2 => exact .refl s key
    case h_1 x hx =>
      refine ⟨rfl, linesKept_setHline _ _ _, fun h hh => ⟨_, hline_setHline_same _ _ _, ?_⟩, fun hn => ?_⟩
      · rw [hx] at hh
        cases hh
        exact ⟨rfl, rfl⟩
      · rw [hx] at hn
        cases hn

theorem refilled_refill (s : State) (o : MemOp) (x : Site) (va : Nat) : s.refilled (s.refill o x va) x.key := by
  unfold State.refill
  split
  case h_2 => exact .refl s _
  case h_1 c _ =>
    have hfill : s.sameButL1 (s.fillL1 o va c) := rfl
    exact ((refilled_of_sameButL1 hfill _).trans (refilled_addSharer _ _ _)).trans (refilled_of_sameButL1 (sameButL1_overlay _ _ _ _ _) _)

/-! ## The request at its home (R110, R133, R146) -/

theorem homeRequest_lane {s : State} {id : Nat} {o : MemOp} (h : s.op? id = some o) (part : Nat) :
    exec (.homeRequest id part) s = .next (s.serveLane id part) := by
  have hexec : exec (.homeRequest id part) s = execHomeRequest id part s := rfl
  rw [hexec, execHomeRequest, h]

theorem serveLane_line {s u : State} {id part key : Nat} {o : MemOp} (h : s.laneReady id part o)
    (ht : s.touch o.who (o.lane part).addr.toNat o.need = .ok u key) : s.serveLane id part = u.atSite o id part 0 (.line key) := by
  obtain ⟨hop, hpart, hst, hhalves, hheld, -, hahead, -⟩ := h
  have hmod : part % 1048576 = part := Nat.mod_eq_of_lt hpart
  have hdiv : part / 1048576 = 0 := Nat.div_eq_of_lt hpart
  simp [State.serveLane, hop, hmod, hdiv, hst, hheld, hahead, ht]

theorem serveLane_port {s : State} {id part : Nat} {o : MemOp} {p : PortAt} {r : Region} (h : s.laneReady id part o)
    (ht : s.touch o.who (o.lane part).addr.toNat o.need = .port p) (hr : s.region o.vf o.asid (o.lane part).addr.toNat = some r) :
    s.serveLane id part =
      s.atSite o id part 0 (.port (lineKey (r.home (o.lane part).addr.toNat o.who.dom o.hint) o.vf o.asid (o.lane part).addr.toNat) p) := by
  obtain ⟨hop, hpart, hst, hhalves, hheld, -, hahead, -⟩ := h
  have hmod : part % 1048576 = part := Nat.mod_eq_of_lt hpart
  have hdiv : part / 1048576 = 0 := Nat.div_eq_of_lt hpart
  simp [State.serveLane, hop, hmod, hdiv, hst, hheld, hahead, ht, hr]

/-- The traffic that a request to a site makes (R13, R378). -/
def State.onItsWay (s : State) (o : MemOp) (part : Nat) : Site → State
  | .line k => s.served o.vf o.who.dom (keyUnit k) (o.size part)
  | .port _ _ => s.bridged o.vf o.who.dom 8 (o.size part)

theorem atSite_performs {s : State} {id part : Nat} {o : MemOp} {x : Site} (h : s.laneReady id part o) (hlost : s.siteLost x = false)
    (hasks : o.asksLine = false) (hmark : o.promotes (s.siteMark x) x.key = none) :
    s.atSite o id part 0 x = (s.onItsWay o part x).perform o id part 0 x := by
  obtain ⟨-, -, -, -, -, -, -, hheld⟩ := h
  simp only [State.atSite, hheld, hlost, hasks, Bool.or_false, Bool.false_eq_true, if_false, hmark]
  cases x <;> rfl

theorem atHome_performs {s : State} {id part key : Nat} {o : MemOp} {h : HLine} (hat : s.atHome id part o key h) (hasks : o.asksLine = false) :
    exec (.homeRequest id part) s = .next ((s.onItsWay o part (.line key)).perform o id part 0 (.line key)) := by
  obtain ⟨hready, htouch, hline, hmark⟩ := hat
  have hsite : o.promotes (s.siteMark (.line key)) key = none := by
    rw [State.siteMark, State.lineMark, hline]
    dsimp only
    split
    · rfl
    · exact hmark
  rw [homeRequest_lane hready.1, serveLane_line hready htouch, atSite_performs hready rfl hasks hsite]

theorem enterHome_port {s : State} {key pa va : Nat} {spa : Option Nat} {t : TlbEntry} {p : PortAt}
    (h : s.enterHome key pa va spa t = .port p) : p.pa = pa + va % 128 := by
  unfold State.enterHome at h
  dsimp only at h
  split at h
  · cases h; rfl
  · split at h
    · cases h
    · cases h; rfl

theorem placePa_mod (r : Region) (unit pa : Nat) : placePa r unit pa % 32 = pa % 32 := by
  unfold placePa
  split <;> omega

theorem shadowPa_no_port {s : State} {w : Who} {r : Region} {va : Nat} {x : Touch} (h : s.shadowPa w r va = .error x) (p : PortAt) : x ≠ .port p := by
  rintro rfl
  unfold State.shadowPa at h
  split at h
  · cases h
  dsimp only at h
  split at h
  · cases h
  split at h
  · cases h
  split at h
  · cases h
  split at h
  · cases h
  split at h
  · cases h
  split at h
  · cases h
  split at h <;> cases h

theorem fill_port {s : State} {w : Who} {r : Region} {unit va : Nat} {need : Need} {t : TlbEntry} {p : PortAt}
    (h : s.fill w r unit va need t = .port p) : p.pa % 32 = va % 32 := by
  have hpa : ∀ spa, s.enterHome (lineKey unit w.vf w.asid va) (placePa r unit (t.paPage * 4096) + va % 4096 / 128 * 128) va spa t = .port p →
      p.pa % 32 = va % 32 := fun spa he => by
    have := placePa_mod r unit (t.paPage * 4096)
    rw [enterHome_port he]
    omega
  unfold State.fill at h
  dsimp only at h
  split at h
  · cases h
  split at h
  · cases h
  split at h
  · cases h
  split at h
  · cases h
  split at h
  · exact hpa _ h
  split at h
  · exact hpa _ h
  · rename_i hx
    exact absurd h (shadowPa_no_port hx p)

/-- An access that goes to the port finds its home without the line, and lies in memory at its offset in its page. -/
theorem touch_port {s : State} {w : Who} {va : Nat} {need : Need} {p : PortAt} (h : s.touch w va need = .port p) :
    ∃ r, s.region w.vf w.asid va = some r ∧ s.hline (lineKey (r.home va w.dom w.hint) w.vf w.asid va) = none ∧ p.pa % 32 = va % 32 := by
  unfold State.touch at h
  split at h
  · cases h
  rename_i r hr
  dsimp only at h
  refine ⟨r, hr, ?_⟩
  split at h
  · cases h
  split at h
  · cases h
  split at h
  · split at h
    · cases h
    split at h
    · cases h
    split at h
    · cases h
    split at h <;> cases h
  rename_i hn
  split at h
  · cases h
  exact ⟨hn, fill_port h⟩

theorem atPort_performs {s : State} {id part : Nat} {o : MemOp} {p : PortAt} (hat : s.atPort id part o p) (hasks : o.asksLine = false) :
    ∃ key, s.hline key = none ∧
      exec (.homeRequest id part) s = .next ((s.onItsWay o part (.port key p)).perform o id part 0 (.port key p)) := by
  obtain ⟨hready, htouch, haway, hmark⟩ := hat
  obtain ⟨r, hregion, hnone, -⟩ := touch_port htouch
  let key := lineKey (r.home (o.lane part).addr.toNat o.who.dom o.hint) o.vf o.asid (o.lane part).addr.toNat
  have hsite : o.promotes (s.siteMark (.port key p)) key = none := hmark r hregion
  have hlost : s.siteLost (.port key p) = false := haway
  exact ⟨key, hnone, by rw [homeRequest_lane hready.1, serveLane_port hready htouch hregion, atSite_performs hready hlost hasks hsite]⟩

end Sys2Proof.Machine
end

section
/-! PROOFS. Loads at their home and at the fabric port (R97, R129, R137, R227). -/

namespace Sys2Proof.Machine

/-! ## A whole access in one step (R137) -/

/-- The kinds that move the bytes of their width. -/
theorem size_eq_bytes {o : MemOp} (h : o.kind = .ld ∨ o.kind = .sld ∨ o.kind = .st) (p : Nat) : o.size p = o.width.bytes := by
  rcases h with h | h | h <;> rw [MemOp.size, h]

theorem width_of_splits {o : MemOp} (h : o.splits = true) : o.width = .b128 := by
  simp only [MemOp.splits, Bool.and_eq_true, beq_iff_eq] at h
  exact h.1

/-- A request for what remains of an untouched lane asks for all its bytes. -/
theorem span_whole {o : MemOp} {part : Nat} (hkind : o.kind = .ld ∨ o.kind = .sld ∨ o.kind = .st) (hhalves : (o.lane part).halves = 0) :
    o.span part 0 = (0, o.width.bytes) := by
  unfold MemOp.span
  cases hs : o.splits
  case false => simp [size_eq_bytes hkind]
  case true => simp [hhalves, width_of_splits hs, Width.bytes]

theorem spanHalves_whole {w : Width} (h : w = .b128) : spanHalves (0, w.bytes) = 3 := by
  subst h
  rfl

/-- A lane all of whose bytes have been performed is done. -/
theorem took_whole {o : MemOp} (l : Lane) {split : Bool} (hsplit : split = true → o.splits = true) :
    l.took split (0, o.width.bytes) = { l with st := .done, halves := 3 } := by
  unfold Lane.took
  dsimp only
  rw [if_pos]
  cases split
  case false => rfl
  case true =>
    rw [spanHalves_whole (width_of_splits (hsplit rfl)), Bool.not_true, Bool.false_or, decide_eq_true_eq]
    exact BitVec.or_allOnes

theorem gain_whole {o : MemOp} (l : Lane) {split : Bool} (hsplit : split = true → o.splits = true) (bs : List Byte) :
    l.gain o.width split (0, o.width.bytes) bs = loadWords o.width bs := by
  unfold Lane.gain
  rw [if_neg]
  intro h
  rw [Bool.and_eq_true, decide_eq_true_eq] at h
  obtain ⟨hs, h8⟩ := h
  rw [width_of_splits (hsplit hs)] at h8
  cases h8

/-! ## Loads -/

/-- A load lane served with bytes and a bound. -/
def Lane.loaded (l : Lane) (w : Width) (bs : List Byte) (b : Bnd) : Lane := { l with st := .done, halves := 3, res := loadWords w bs, rbnd := b }

theorem serveRead_done {u : State} {o : MemOp} {id part : Nat} {x : Site} {bs : List Byte} {b : Bnd} (hkind : o.kind = .ld ∨ o.kind = .sld)
    (hhalves : (o.lane part).halves = 0) (hread : u.siteRead x (o.lane part).addr.toNat 0 o.width.bytes = (bs, b, false))
    (hsld : o.kind = .sld → b = 0) : u.serveRead o id part 0 x =
      ((u.siteMoved x o.width.bytes).refill o x (o.lane part).addr.toNat).putLane id part ((o.lane part).loaded o.width bs b) := by
  have hkinds : o.kind = .ld ∨ o.kind = .sld ∨ o.kind = .st := by tauto
  have hframe : (o.kind == .frameLd) = false := by rcases hkind with h | h <;> rw [h] <;> rfl
  have hbreach : (o.kind == .sld && b != 0) = false := by
    rcases hkind with h | h
    · rw [h]; rfl
    · rw [hsld h]; simp
  have hsplit : (o.splits && !u.siteBounded x) = true → o.splits = true := fun h => (Bool.and_eq_true_iff.1 h).1
  have hspan : (if (o.splits && !u.siteBounded x) = true then o.span part 0 else (0, o.size part)) = (0, o.width.bytes) := by
    rw [span_whole hkinds hhalves, size_eq_bytes hkinds, ite_self]
  unfold State.serveRead
  simp only [hspan, hread, hframe, hbreach, took_whole _ hsplit, gain_whole _ hsplit, Bool.false_and, Bool.false_eq_true, if_false]
  rfl

theorem perform_load {u : State} {o : MemOp} {id part : Nat} {x : Site} (hkind : o.kind = .ld ∨ o.kind = .sld) :
    u.perform o id part 0 x = u.serveRead o id part 0 x := by
  have hatomic : o.kind.atomic = false := by rcases hkind with h | h <;> rw [h] <;> rfl
  have hwrites : o.kind.writes = false := by rcases hkind with h | h <;> rw [h] <;> rfl
  have hrefuse : o.hostRefuses x = false := by cases x <;> simp [MemOp.hostRefuses, hatomic]
  simp [State.perform, hrefuse, hatomic, hwrites]

theorem asksLine_load {o : MemOp} (hkind : o.kind = .ld ∨ o.kind = .sld) : o.asksLine = false := by
  have hatomic : o.kind.atomic = false := by rcases hkind with h | h <;> rw [h] <;> rfl
  rw [MemOp.asksLine, hatomic, Bool.false_and]

theorem sameButTraffic_siteMoved (s : State) (x : Site) (n : Nat) : s.sameButTraffic (s.siteMoved x n) := by
  cases x
  · rfl
  · exact sameButTraffic_moved _ _ _ _

theorem sameButTraffic_onItsWay (s : State) (o : MemOp) (part : Nat) (x : Site) : s.sameButTraffic (s.onItsWay o part x) := by
  cases x
  · exact sameButTraffic_served _ _ _ _ _
  · exact sameButTraffic_bridged _ _ _ _ _

/-- Home lines after an access that only reads: the line of the access keeps its contents, and the others are untouched. -/
def State.lineRead (s t : State) (key : Nat) : Prop :=
  s.linesKept t key ∧ (∀ h, s.hline key = some h → ∃ h', t.hline key = some h' ∧ h'.line = h.line ∧ h'.dirty = h.dirty) ∧
    (s.hline key = none → t.home = s.home)

theorem State.refilled.lineRead {s u v t : State} {key : Nat} (htraffic : s.sameButTraffic u) (h : u.refilled v key) (ht : t.home = v.home) :
    s.lineRead t key := by
  obtain ⟨-, hothers, hline, hnone⟩ := h
  have hu : ∀ k, u.hline k = s.hline k := fun k => by rw [htraffic]; rfl
  have hv : ∀ k, t.hline k = v.hline k := fun k => by rw [State.hline, State.hline, ht]
  have huhome : u.home = s.home := by rw [htraffic]
  refine ⟨fun k hk => (hv k).trans ((hothers k hk).trans (hu k)), fun x hx => ?_, fun hn => ?_⟩
  · obtain ⟨y, hy, hyline⟩ := hline x ((hu key).trans hx)
    exact ⟨y, (hv key).trans hy, hyline⟩
  · rw [ht, hnone ((hu key).trans hn), huhome]

/-- What a refill leaves alone besides home lines. -/
theorem State.refilled.rest {u v : State} {key : Nat} (h : u.refilled v key) : inFlightKept u v ∧ v.mem = u.mem ∧ v.ops = u.ops := by
  obtain ⟨heq, -⟩ := h
  exact ⟨inFlightKept_of_warps (by rw [heq]) (by rw [heq]) (by rw [heq]) (by rw [heq]), by rw [heq], by rw [heq]⟩

theorem State.sameButTraffic.rest {s u : State} (h : s.sameButTraffic u) : inFlightKept s u ∧ u.mem = s.mem ∧ u.ops = s.ops :=
  ⟨inFlightKept_of_warps (by rw [h]) (by rw [h]) (by rw [h]) (by rw [h]), by rw [h], by rw [h]⟩

/-- A load performed: its lane is done, and of the state only traffic, L1 caches, the snoop filter of the line, warps that go on and
operations have changed. -/
theorem load_performed {s u : State} {o : MemOp} {id part : Nat} {x : Site} {bs : List Byte} {b : Bnd} (hready : s.laneReady id part o)
    (htraffic : s.sameButTraffic u) (hkind : o.kind = .ld ∨ o.kind = .sld)
    (hread : u.siteRead x (o.lane part).addr.toNat 0 o.width.bytes = (bs, b, false)) (hsld : o.kind = .sld → b = 0) :
    ∃ t, u.perform o id part 0 x = t ∧ s.lineRead t x.key ∧ inFlightKept s t ∧ (∀ a, t.peek a = s.peek a) ∧
      laneDone t id part fun l => l.rbnd = b ∧ l.res = loadWords o.width bs := by
  obtain ⟨hop, -, -, hhalves, -, hfaults, -, -⟩ := hready
  have hmoved := htraffic.trans (sameButTraffic_siteMoved u x o.width.bytes)
  have hrefill := refilled_refill (u.siteMoved x o.width.bytes) o x (o.lane part).addr.toNat
  have hperform : u.perform o id part 0 x = _ := (perform_load hkind).trans (serveRead_done hkind hhalves hread hsld)
  generalize u.siteMoved x o.width.bytes = w at hmoved hrefill hperform
  generalize w.refill o x (o.lane part).addr.toNat = v at hrefill hperform
  obtain ⟨hkept1, hmem1, hops1⟩ := hmoved.rest
  obtain ⟨hkept2, hmem2, hops2⟩ := hrefill.rest
  have hop' : v.op? id = some o := by rw [State.op?, hops2, hops1]; exact hop
  have hld : o.kind ≠ .pf := by rcases hkind with h | h <;> rw [h] <;> decide
  obtain ⟨hkept3, ⟨hhome, hmem3⟩, o', ho', hlane⟩ := putLane_done (part := part) (l := (o.lane part).loaded o.width bs b) hop' hld hfaults rfl
  refine ⟨_, hperform, hrefill.lineRead hmoved hhome, (hkept1.trans hkept2).trans hkept3, fun a => ?_, o', ho', ?_⟩
  · rw [State.peek, hmem3, hmem2, hmem1]
    rfl
  · rw [hlane]
    exact ⟨rfl, rfl, rfl⟩

/-- Settles O33: the lane takes the bytes and the bound that the site reads, and L1 is refilled. -/
theorem loadsAtHome : Obligations.LoadsAtHome := by
  unfold Obligations.LoadsAtHome
  refine ⟨fun s id part key o h hat hkind hclean hsld => ?_, fun s id part p o hat hkind hclean hsld => ?_⟩
  · have hexec := atHome_performs hat (asksLine_load hkind)
    obtain ⟨hready, -, hline, -⟩ := hat
    have htraffic := sameButTraffic_onItsWay s o part (.line key)
    have hread : (s.onItsWay o part (.line key)).siteRead (.line key) (o.lane part).addr.toNat 0 o.width.bytes =
        ((h.line.data.drop ((o.lane part).addr.toNat % 128)).take o.width.bytes, h.line.bnd (secOf (o.lane part).addr.toNat), false) := by
      have hline' : (s.onItsWay o part (.line key)).hline key = some h := by rw [htraffic]; exact hline
      rw [State.siteRead, State.homeRead, hline']
      exact congrArg₂ Prod.mk rfl (congrArg₂ Prod.mk rfl hclean)
    obtain ⟨t, ht, ⟨hothers, hsame, -⟩, hkept, hpeek, hdone⟩ := load_performed hready htraffic hkind hread hsld
    obtain ⟨h', hh', hl, hd⟩ := hsame h hline
    exact ⟨t, h', by rw [hexec, ht], hh', hl, hd, hothers, hkept, hpeek, hdone⟩
  · obtain ⟨key, hnone, hexec⟩ := atPort_performs hat (asksLine_load hkind)
    obtain ⟨hready, -⟩ := hat
    have htraffic := sameButTraffic_onItsWay s o part (.port key p)
    have hread : (s.onItsWay o part (.port key p)).siteRead (.port key p) (o.lane part).addr.toNat 0 o.width.bytes =
        ((List.range o.width.bytes).map fun i => s.peek (p.pa + i), s.boundAt p, false) := by
      rw [htraffic]
      exact congrArg₂ Prod.mk rfl (congrArg₂ Prod.mk rfl hclean)
    obtain ⟨t, ht, ⟨-, -, hhome⟩, hkept, hpeek, hdone⟩ := load_performed hready htraffic hkind hread hsld
    exact ⟨t, by rw [hexec, ht], hkept, hhome hnone, hpeek, hdone⟩

end Sys2Proof.Machine
end

section
/-! PROOFS. Stores and atomics at their home (R97, R98, R100, R111, R134, R229, R432). -/

namespace Sys2Proof.Machine

/-! ## A home line written -/

theorem foldl_of_unchanged {α β : Type} {f : β → α → β} {xs : List α} {s : β} (h : ∀ x ∈ xs, f s x = s) : xs.foldl f s = s := by
  induction xs with
  | nil => rfl
  | cons x xs ih => rw [List.foldl_cons, h x List.mem_cons_self, ih fun y hy => h y (List.mem_cons_of_mem _ hy)]

/-- Without a waypoint no write copies a granule (R435). -/
theorem copyGranules_none {s : State} (h : s.noWaypoint) (vf asid va pa : Nat) (spa : Option Nat) : s.copyGranules vf asid va pa spa = s := by
  refine foldl_of_unchanged fun p hp => if_neg ?_
  rw [State.marked, h p hp]
  simp

/-- Nothing but one home line has changed, which is now `h`. -/
def State.lineNow (s t : State) (key : Nat) (h : HLine) : Prop := t = { s with home := t.home } ∧ s.linesKept t key ∧ t.hline key = some h

theorem lineNow_setHline (s : State) (key : Nat) (h : HLine) : s.lineNow (s.setHline key (some h)) key h :=
  ⟨rfl, linesKept_setHline _ _ _, hline_setHline_same _ _ _⟩

theorem State.lineNow.trans {s t u : State} {key : Nat} {h h' : HLine} (a : s.lineNow t key h) (b : t.lineNow u key h') : s.lineNow u key h' := by
  obtain ⟨a1, a2, -⟩ := a
  obtain ⟨b1, b2, b3⟩ := b
  exact ⟨by rw [b1, a1], fun k hk => (b2 k hk).trans (a2 k hk), b3⟩

/-- A home line after writes of a sector, apart from its snoop filter and its mark. -/
def HLine.written (h : HLine) (key va : Nat) (ws : List (Nat × List Byte)) (b : Bnd) : HLine :=
  { h with line := h.line.store (secOf va) ws b, dirty := h.dirty ||| (1#4 <<< secOf va), pool := if keyUnit key = 8 then .owned else h.pool }

theorem lineNow_homeStore {s : State} {key : Nat} {h : HLine} (hway : s.noWaypoint) (hline : s.hline key = some h) (va : Nat)
    (ws : List (Nat × List Byte)) (b : Bnd) : s.lineNow (s.homeStore key va ws b) key (h.written key va ws b) := by
  have hstore : s.homeStore key va ws b = s.setHline key (some (h.written key va ws b)) := by
    rw [State.homeStore, hline]
    dsimp only
    rw [State.copyLine, copyGranules_none hway]
    rfl
  rw [hstore]
  exact lineNow_setHline _ _ _

/-- Line, bounds and dirty sectors are those of another home line, poison apart. -/
def HLine.sameData (h h' : HLine) : Prop :=
  h'.line.data = h.line.data ∧ h'.line.bnds = h.line.bnds ∧ h'.line.bounded = h.line.bounded ∧ h'.dirty = h.dirty

theorem lineNow_setSiteMark {s : State} {key : Nat} {h : HLine} (hline : s.hline key = some h) (m : Option Nat) :
    ∃ h', s.lineNow (s.setSiteMark (.line key) m) key h' ∧ h.sameData h' := by
  refine ⟨{ h with mark := m }, ?_, rfl, rfl, rfl, rfl⟩
  rw [State.setSiteMark, hline]
  exact lineNow_setHline _ _ _

theorem lineNow_siteClean {s : State} {key : Nat} {h : HLine} (hline : s.hline key = some h) (va : Nat) :
    ∃ h', s.lineNow (s.siteClean (.line key) va) key h' ∧ h.sameData h' := by
  refine ⟨{ h with line := { h.line with poison := h.line.poison &&& ~~~(1#4 <<< secOf va) } }, ?_, rfl, rfl, rfl, rfl⟩
  rw [State.siteClean, hline]
  exact lineNow_setHline _ _ _

/-- The bound of a sector after a write of it on a bounded page (R98). -/
theorem bnd_store {c : CLine} (hbnds : c.bnds.length = 4) (hbounded : c.bounded = true) {sec : Nat} (hsec : sec < 4) (ws : List (Nat × List Byte)) (b : Bnd) :
    (c.store sec ws b).bnd sec = boundAfter (c.bnd sec) b (covers ws sec) := by
  have hset : sec < (c.bnds.set sec (sectorBnd (c.bnds.getD sec 0) b (covers ws sec))).length := by rw [List.length_set, hbnds]; exact hsec
  simp only [CLine.bnd, CLine.store, hbounded, if_true]
  rw [List.getD_eq_getElem _ _ hset, List.getElem_set_self]
  rfl

/-! ## Lanes of a store performed together (R98) -/

/-- Lanes of an operation after a step on each. -/
def MemOp.stepLanes (o : MemOp) (f : Lane → Lane) (ps : List Nat) : MemOp := ps.foldl (fun o p => o.setLane p (f (o.lane p))) o

theorem stepLanes_stays_done {f : Lane → Lane} (hf : ∀ l, (f l).st = .done) {ps : List Nat} {o : MemOp} {p : Nat} (h : (o.lane p).st = .done) :
    ((o.stepLanes f ps).lane p).st = .done := by
  induction ps generalizing o with
  | nil => exact h
  | cons q ps ih =>
    refine ih (o := o.setLane q (f (o.lane q))) ?_
    by_cases hpq : p = q
    · subst hpq
      rw [lane_setLane_same]
      exact hf _
    · rw [lane_setLane_other _ _ hpq]
      exact h

theorem stepLanes_done {f : Lane → Lane} (hf : ∀ l, (f l).st = .done) {ps : List Nat} {p : Nat} (h : p ∈ ps) (o : MemOp) :
    ((o.stepLanes f ps).lane p).st = .done := by
  induction ps generalizing o with
  | nil => cases h
  | cons q ps ih =>
    rcases List.mem_cons.1 h with rfl | h
    · exact stepLanes_stays_done (o := o.setLane p (f (o.lane p))) hf (by rw [lane_setLane_same]; exact hf _)
    · exact ih h _

/-! ## Stores at a home line -/

/-- The lanes that a store performs in one step: on a bounded page those of the sector that have come to the home (R98). -/
def MemOp.together (o : MemOp) (bounded : Bool) (part : Nat) : List Nat :=
  if bounded then o.sameSector part (fun l => l.st == .sent || l.st == .arrived) else [part]

theorem perform_store {u : State} {o : MemOp} {id part : Nat} {x : Site} (hkind : o.kind = .st) :
    u.perform o id part 0 x = u.serveStore o id part 0 x := by
  have hatomic : o.kind.atomic = false := by rw [hkind]; rfl
  have hwrites : o.kind.writes = true := by rw [hkind]; rfl
  have hrefuse : o.hostRefuses x = false := by cases x <;> simp [MemOp.hostRefuses, hatomic]
  simp [State.perform, hrefuse, hatomic, hwrites]

theorem serveStore_waits {u : State} {o : MemOp} {id part : Nat} {x : Site} (hbounded : u.siteBounded x = true) (hdue : o.sectorDue part = true) :
    u.serveStore o id part 0 x = u := by
  simp [State.serveStore, hbounded, hdue]

/-- The promotion mark, the poison and the lanes of a store once its bytes are written. -/
def State.storeEnds (s : State) (o' : MemOp) (id : Nat) (x : Site) (clean : Bool) (va : Nat) : State :=
  let s := s.setSiteMark x (o'.newMark x.key (s.siteMark x))
  (if clean then s.siteClean x va else s).setOp id o'

/-- The bytes of a store written where its line is. -/
def State.storeBytes (s : State) (o : MemOp) (part : Nat) (x : Site) : State :=
  let va := (o.lane part).addr.toNat
  let ps := o.together (s.siteBounded x) part
  if s.siteBounded x then
    match x with
    | .line k => s.homeStore k va (o.sectorWrites ps) (o.sectorBnd ps)
    | .port k p => s.portBits (keyVf k) (keyAsid k) va p (o.allWrites ps) (o.sectorBnd ps) (o.coversSector part Lane.writes) false
  else s.siteStore x va 0 (o.bytes part) (o.lane part).bnd

/-- A lane all of whose bytes are written. -/
def Lane.stored (l : Lane) : Lane := { l with st := .done, halves := 3 }

theorem take_bytes (o : MemOp) (part : Nat) : (o.bytes part).take (o.size part) = o.bytes part := by
  rw [MemOp.bytes, lowBytes, List.take_take, min_self]

/-- A store performed: its bytes are written and its lanes done. -/
theorem serveStore_eq {u : State} {o : MemOp} {id part : Nat} {x : Site} (hkind : o.kind = .st) (hhalves : (o.lane part).halves = 0)
    (hdue : u.siteBounded x = true → o.sectorDue part = false) :
    ∃ clean, u.serveStore o id part 0 x =
      (u.storeBytes o part x).storeEnds (o.stepLanes Lane.stored (o.together (u.siteBounded x) part)) id x clean (o.lane part).addr.toNat := by
  have hkinds : o.kind = .ld ∨ o.kind = .sld ∨ o.kind = .st := .inr (.inr hkind)
  have hbits : (o.kind == .matSt) = false := by rw [hkind]; rfl
  have hsplit : (o.splits && !u.siteBounded x) = true → o.splits = true := fun h => (Bool.and_eq_true_iff.1 h).1
  have hspan : (if (o.splits && !u.siteBounded x) = true then o.span part 0 else (0, o.size part)) = (0, o.size part) := by
    rw [span_whole hkinds hhalves, size_eq_bytes hkinds, ite_self]
  have hwait : (u.siteBounded x && o.sectorDue part) = false := by
    cases hb : u.siteBounded x
    · rfl
    · exact hdue hb
  have htook : ∀ l : Lane, l.took (o.splits && !u.siteBounded x) (0, o.size part) = l.stored := fun l => by
    rw [size_eq_bytes hkinds]
    exact took_whole l hsplit
  refine ⟨!u.siteBounded x && (o.stepLanes Lane.stored (o.together (u.siteBounded x) part)).coversSector part (fun l => l.st == .done), ?_⟩
  unfold State.serveStore State.storeBytes
  simp only [hspan, hbits, hwait, htook, List.drop_zero, take_bytes, Bool.false_eq_true, if_false, Bool.false_or]
  generalize u.siteBounded x = bounded
  cases x <;> cases bounded <;> rfl

theorem siteBounded_line {u : State} {key : Nat} {h : HLine} (hline : u.hline key = some h) : u.siteBounded (.line key) = h.line.bounded := by
  rw [State.siteBounded, hline]
  rfl

/-- The bound of the bytes that a store writes. -/
def MemOp.storeBnd (o : MemOp) (bounded : Bool) (part : Nat) : Bnd := if bounded then o.sectorBnd (o.together bounded part) else (o.lane part).bnd

theorem storeBytes_line {u : State} {o : MemOp} {part key : Nat} {h : HLine} (hway : u.noWaypoint) (hline : u.hline key = some h) :
    u.lineNow (u.storeBytes o part (.line key)) key (h.written key (o.lane part).addr.toNat (o.sectorWrites (o.together h.line.bounded part))
      (o.storeBnd h.line.bounded part)) := by
  rw [State.storeBytes, siteBounded_line hline]
  split
  case isTrue hb =>
    rw [MemOp.storeBnd, if_pos hb]
    exact lineNow_homeStore hway hline _ _ _
  case isFalse hb =>
    rw [MemOp.storeBnd, if_neg hb, MemOp.together, if_neg hb]
    exact lineNow_homeStore hway hline _ _ _

theorem HLine.sameData.trans {h h' h'' : HLine} (a : h.sameData h') (b : h'.sameData h'') : h.sameData h'' := by
  obtain ⟨a1, a2, a3, a4⟩ := a
  obtain ⟨b1, b2, b3, b4⟩ := b
  exact ⟨b1.trans a1, b2.trans a2, b3.trans a3, b4.trans a4⟩

theorem HLine.sameData.bnd {h h' : HLine} (a : h.sameData h') (sec : Nat) : h'.line.bnd sec = h.line.bnd sec := by
  obtain ⟨-, hbnds, hbounded, -⟩ := a
  rw [CLine.bnd, CLine.bnd, hbnds, hbounded]

theorem storeEnds_line {u : State} {key : Nat} {h : HLine} (hline : u.hline key = some h) (o' : MemOp) (id : Nat) (clean : Bool) (va : Nat) :
    ∃ v h', u.storeEnds o' id (.line key) clean va = v.setOp id o' ∧ u.lineNow v key h' ∧ h.sameData h' := by
  obtain ⟨h1, hmark, hsame⟩ := lineNow_setSiteMark hline (o'.newMark key (u.siteMark (.line key)))
  cases clean
  case false => exact ⟨_, h1, rfl, hmark, hsame⟩
  case true =>
    obtain ⟨h2, hclean, hsame2⟩ := lineNow_siteClean hmark.2.2 va
    exact ⟨_, h2, rfl, hmark.trans hclean, hsame.trans hsame2⟩

/-- What a write of a home line leaves alone. -/
theorem State.lineNow.rest {u v : State} {key : Nat} {h : HLine} (a : u.lineNow v key h) : inFlightKept u v ∧ v.mem = u.mem ∧ v.ops = u.ops := by
  obtain ⟨heq, -⟩ := a
  exact ⟨inFlightKept_of_warps (by rw [heq]) (by rw [heq]) (by rw [heq]) (by rw [heq]), by rw [heq], by rw [heq]⟩

theorem noWaypoint_traffic {s u : State} (h : s.sameButTraffic u) (hway : s.noWaypoint) : u.noWaypoint := by
  unfold State.noWaypoint
  rw [h]
  exact hway

theorem hline_traffic {s u : State} (h : s.sameButTraffic u) (k : Nat) : u.hline k = s.hline k := by
  rw [h]
  rfl

theorem asksLine_store {o : MemOp} (hkind : o.kind = .st) : o.asksLine = false := by
  have hatomic : o.kind.atomic = false := by rw [hkind]; rfl
  rw [MemOp.asksLine, hatomic, Bool.false_and]

theorem foldl_sectorWrites (o : MemOp) (ps : List Nat) (d : List Byte) :
    (o.sectorWrites ps).foldl (fun d w => splice d w.1 w.2) d = ps.foldl (fun d p => splice d ((o.lane p).addr.toNat % 128) (o.bytes p)) d := by
  rw [MemOp.sectorWrites, List.foldl_map]

theorem secOf_lt (va : Nat) : secOf va < 4 := by
  unfold secOf
  omega

/-- While a lane of its bounded sector is still on its way, a store waits. -/
theorem store_waits {s : State} {id part key : Nat} {o : MemOp} {h : HLine} (hat : s.atHome id part o key h) (hkind : o.kind = .st)
    (hbounded : h.line.bounded = true) (hdue : o.sectorDue part = true) : ∃ t, exec (.homeRequest id part) s = .next t ∧ s.sameButTraffic t := by
  have hexec := atHome_performs hat (asksLine_store hkind)
  obtain ⟨-, -, hline, -⟩ := hat
  have htraffic := sameButTraffic_onItsWay s o part (.line key)
  have hsite := (siteBounded_line ((hline_traffic htraffic key).trans hline)).trans hbounded
  rw [perform_store hkind, serveStore_waits hsite hdue] at hexec
  exact ⟨_, hexec, htraffic⟩

/-- A store performed at its line. -/
theorem store_line {s : State} {id part key : Nat} {o : MemOp} {h : HLine} (hat : s.atHome id part o key h) (hkind : o.kind = .st)
    (hway : s.noWaypoint) (hbnds : h.line.bnds.length = 4) (hdue : ¬(h.line.bounded = true ∧ o.sectorDue part = true)) :
    ∃ t h', exec (.homeRequest id part) s = .next t ∧ t.hline key = some h' ∧ s.linesKept t key ∧ inFlightKept s t ∧
      (∀ a, t.peek a = s.peek a) ∧ h'.dirty = h.dirty ||| (1#4 <<< secOf (o.lane part).addr.toNat) ∧
      h'.line.data = (o.together h.line.bounded part).foldl (fun d p => splice d ((o.lane p).addr.toNat % 128) (o.bytes p)) h.line.data ∧
      (h.line.bounded = true → h'.line.bnd (secOf (o.lane part).addr.toNat) = boundAfter (h.line.bnd (secOf (o.lane part).addr.toNat))
        (o.sectorBnd (o.together h.line.bounded part)) (covers (o.sectorWrites (o.together h.line.bounded part)) (secOf (o.lane part).addr.toNat))) ∧
      ∀ p ∈ o.together h.line.bounded part, laneDone t id p fun _ => True := by
  have hexec := atHome_performs hat (asksLine_store hkind)
  obtain ⟨⟨hop, -, -, hhalves, -⟩, -, hline, -⟩ := hat
  have htraffic := sameButTraffic_onItsWay s o part (.line key)
  have hline' := (hline_traffic htraffic key).trans hline
  have hbounded := siteBounded_line hline'
  obtain ⟨clean, hserve⟩ := serveStore_eq (id := id) hkind hhalves (x := .line key) (u := s.onItsWay o part (.line key)) fun hb => by
    rw [hbounded] at hb
    exact Bool.eq_false_iff.2 fun hd => hdue ⟨hb, hd⟩
  have hbytes := storeBytes_line (o := o) (part := part) (noWaypoint_traffic htraffic hway) hline'
  rw [perform_store hkind, hserve, hbounded] at hexec
  obtain ⟨v, h', hends, hnow, hsame⟩ := storeEnds_line hbytes.2.2 (o.stepLanes Lane.stored (o.together h.line.bounded part)) id clean
    (o.lane part).addr.toNat
  rw [hends] at hexec
  have hlines := hbytes.trans hnow
  obtain ⟨hkept1, hmem1, -⟩ := htraffic.rest
  obtain ⟨hkept2, hmem2, -⟩ := hlines.rest
  obtain ⟨-, hothers, hnew⟩ := hlines
  refine ⟨_, h', hexec, hnew, fun k hk => (hothers k hk).trans (hline_traffic htraffic k),
    hkept1.trans (hkept2.trans (inFlightKept_of_warps rfl rfl rfl rfl)), fun a => ?_, hsame.2.2.2, ?_, fun hb => ?_, fun p hp => ?_⟩
  · have hmem : (v.setOp id (o.stepLanes Lane.stored (o.together h.line.bounded part))).mem = s.mem := hmem2.trans hmem1
    rw [State.peek, hmem]
    rfl
  · rw [hsame.1]
    exact foldl_sectorWrites _ _ _
  · rw [hsame.bnd, MemOp.storeBnd, if_pos hb]
    exact bnd_store hbnds hb (secOf_lt _) _ _
  · exact ⟨_, State.op?_setOp_same _ _ _, stepLanes_done (fun _ => rfl) hp o, trivial⟩

end Sys2Proof.Machine
end

section
/-! PROOFS. Writes at the fabric port: the bytes in physical memory and the bound of their sector in its shadow halfword (R97, R98, R345). -/

namespace Sys2Proof.Machine

/-! ## Memory alone -/

/-- Nothing but physical memory with its poison, the counts of bytes moved and the marks of lines that no home holds has changed. -/
def State.sameButMemory (s t : State) : Prop := t = { s with mem := t.mem, traffic := t.traffic, poison := t.poison, portMarks := t.portMarks }

theorem State.sameButMemory.trans {s t u : State} (h : s.sameButMemory t) (g : t.sameButMemory u) : s.sameButMemory u := by
  unfold State.sameButMemory at *; rw [g, h]

theorem State.sameButMemory.rest {s t : State} (h : s.sameButMemory t) : inFlightKept s t ∧ t.home = s.home ∧ t.hub = s.hub ∧ t.ops = s.ops :=
  ⟨inFlightKept_of_warps (by rw [h]) (by rw [h]) (by rw [h]) (by rw [h]), by rw [h], by rw [h], by rw [h]⟩

theorem sameButMemory_pokes (s : State) (pa : Nat) (bs : List Byte) : s.sameButMemory (s.pokes pa bs) := by
  unfold State.sameButMemory
  rw [Laws.pokes_eq]

theorem sameButMemory_moved (s : State) (vf unit n : Nat) : s.sameButMemory (s.moved vf unit n) := rfl

theorem sameButMemory_pokeBits (s : State) (ws : BitWrites) : s.sameButMemory (s.pokeBits ws) := by
  unfold State.pokeBits
  exact List.foldlRecOn _ _ (motive := fun t => s.sameButMemory t) rfl fun t ht w _ => ht.trans rfl

/-! ## Bytes written -/

theorem putBits_all (old v : Byte) : putBits old v 0xFF = v := by
  have hones : (0xFF : Byte) = BitVec.allOnes 8 := rfl
  rw [putBits, hones, BitVec.and_allOnes]
  simp

/-- A byte after writes of whole bytes. -/
def writtenByte (ws : BitWrites) (a : Nat) (x : Byte) : Byte := ws.foldl (fun x w => if a = w.1 then w.2.1 else x) x

theorem peek_pokeBits {ws : BitWrites} (hws : ∀ w ∈ ws, w.2.2 = 0xFF) (s : State) (a : Nat) : (s.pokeBits ws).peek a = writtenByte ws a (s.peek a) := by
  induction ws generalizing s with
  | nil => rfl
  | cons w ws ih =>
    have hpoke : (s.poke w.1 (putBits (s.peek w.1) w.2.1 w.2.2)).peek a = if a = w.1 then w.2.1 else s.peek a := by
      rw [hws w List.mem_cons_self, putBits_all, Laws.peek_poke]
    rw [writtenByte, List.foldl_cons, ← hpoke]
    exact ih (fun x hx => hws x (List.mem_cons_of_mem _ hx)) _

theorem writtenByte_of_away {ws : BitWrites} {a : Nat} (h : ∀ w ∈ ws, a ≠ w.1) (x : Byte) : writtenByte ws a x = x :=
  foldl_of_unchanged fun w hw => if_neg (h w hw)

/-- Consecutive bytes written. -/
def byteRun (base n : Nat) (bs : List Byte) : BitWrites := (List.range n).map fun i => (base + i, bs.getD i 0, 0xFF)

theorem writtenByte_byteRun (base n : Nat) (bs : List Byte) (a : Nat) (x : Byte) :
    writtenByte (byteRun base n bs) a x = if base ≤ a ∧ a < base + n then bs.getD (a - base) 0 else x := by
  unfold writtenByte byteRun
  rw [List.foldl_map]
  induction n with
  | zero => simp
  | succ n ih =>
    rw [List.range_succ, List.foldl_append, ih]
    rcases Nat.lt_trichotomy a (base + n) with h | rfl | h
    · have hiff : (base ≤ a ∧ a < base + (n + 1)) ↔ (base ≤ a ∧ a < base + n) := by omega
      simp [hiff, Nat.ne_of_lt h]
    · simp
    · have h1 : ¬(base ≤ a ∧ a < base + (n + 1)) := by omega
      have h2 : ¬(base ≤ a ∧ a < base + n) := by omega
      simp [h1, h2, Nat.ne_of_gt h]

/-! ## The bound in its shadow halfword -/

/-- No home holds a line of some consecutive bytes. -/
def State.homeless (s : State) (a n : Nat) : Prop := ∀ q ∈ s.home, ∀ h, q.2 = some h → h.pa + 128 ≤ a ∨ a + n ≤ h.pa

theorem freshest_homeless {s : State} {a n : Nat} (h : s.homeless a n) (hn : 0 < n) : s.freshest a n = s.peeks a n := by
  have hnone : (s.home.findSome? fun p => p.2.bind fun h => if h.pa = a / 128 * 128 then some (h.line.get (a % 128) n) else none) = none := by
    refine List.findSome?_eq_none_iff.2 fun q hq => Option.bind_eq_none_iff.2 fun x hx => if_neg ?_
    have := h q hq x hx
    omega
  rw [State.freshest, hnone]

theorem hubWrite_homeless {s : State} {a : Nat} {bs : List Byte} (h : s.homeless a bs.length) (hdead : s.dead a = false) :
    s.hubWrite a bs = s.pokes a bs := by
  have hnil : ((s.home.filterMap fun p => p.2.map fun h => h.pa).filter fun x => a < x + 128 && x < a + bs.length) = [] := by
    refine List.filter_eq_nil_iff.2 fun x hx => ?_
    obtain ⟨q, hq, hqx⟩ := List.mem_filterMap.1 hx
    obtain ⟨y, hy, rfl⟩ := Option.map_eq_some_iff.1 hqx
    have := h q hq y hy
    simp only [Bool.and_eq_true, decide_eq_true_eq]
    omega
  rw [State.hubWrite, hnil, List.foldl_nil, State.hubPokes, hdead, if_neg Bool.false_ne_true]

/-- The halfword of a number, in memory. -/
theorem peeks_pokes_two (s : State) (a v : Nat) : (s.pokes a (bytesOf 2 v)).peeks a 2 = bytesOf 2 v := by
  have hlen : (bytesOf 2 v).length = 2 := length_bytesOf 2 v
  refine List.ext_getElem (by simp [State.peeks, hlen]) fun i hi _ => ?_
  have hi2 : i < 2 := by simpa [State.peeks] using hi
  have hin : a ≤ a + i ∧ a + i < a + (bytesOf 2 v).length := by omega
  simp only [State.peeks, List.getElem_map, List.getElem_range, Laws.peek_pokes, hin, and_self, if_true, Nat.add_sub_cancel_left]
  exact List.getD_eq_getElem _ _ _

theorem halfword_bytesOf (b : Bnd) : BitVec.ofNat 16 (natOf (bytesOf 2 b.toNat)) = b := by
  rw [natOf_bytesOf]
  have := b.isLt
  exact BitVec.eq_of_toNat_eq (by simp; omega)

/-! ## The port (R345) -/

theorem dead_hub {s t : State} (h : t.hub = s.hub) (a : Nat) : t.dead a = s.dead a := by
  unfold State.dead State.absent State.viralPa State.poolLost State.viral State.poolDecoder
  rw [h]

/-- The shadow halfword of a sector at the port. -/
theorem shadow_homeless {s : State} {p : PortAt} {a : Nat} (hready : s.shadowReady p) (ha : p.spa = some a) : s.homeless (a + 2 * p.sec) 2 := by
  intro q hq h hh
  have hpa := (hready a ha).1 q hq h hh
  have hsec : p.sec < 4 := by unfold PortAt.sec; omega
  omega

theorem boundAt_homeless {t : State} {p : PortAt} {a : Nat} (ha : p.spa = some a) (h : t.homeless (a + 2 * p.sec) 2) :
    t.boundAt p = bndNorm (BitVec.ofNat 16 (natOf (t.peeks (a + 2 * p.sec) 2))) := by
  unfold State.boundAt State.shadowBnd
  rw [ha]
  dsimp only
  rw [freshest_homeless h Nat.two_pos]

theorem boundAt_congr {s t : State} {p : PortAt} (hhome : t.home = s.home) (h : ∀ b, p.shadowByte b → t.peek b = s.peek b) (hready : s.shadowReady p) :
    t.boundAt p = s.boundAt p := by
  cases ha : p.spa with
  | none =>
    unfold State.boundAt State.shadowBnd
    rw [ha]
  | some a =>
    have hs := shadow_homeless hready ha
    have ht : t.homeless (a + 2 * p.sec) 2 := by rw [State.homeless, hhome]; exact hs
    have hpeeks : t.peeks (a + 2 * p.sec) 2 = s.peeks (a + 2 * p.sec) 2 :=
      List.map_congr_left fun i hi => h _ ⟨a, ha, Nat.le_add_right _ _, Nat.add_lt_add_left (List.mem_range.1 hi) _⟩
    rw [boundAt_homeless ha hs, boundAt_homeless ha ht, hpeeks]

/-- A bound written at the port, in a state whose memory alone has changed: the sector has it, and no byte but those of its shadow halfword
has changed. -/
theorem portBnd_written {s u : State} {p : PortAt} (hready : s.shadowReady p) (hmem : s.sameButMemory u) (b : Bnd) (cover : Bool) :
    s.sameButMemory (u.portBnd p b cover) ∧ (∀ a, ¬p.shadowByte a → (u.portBnd p b cover).peek a = u.peek a) ∧
      (p.spa.isSome = true → (u.portBnd p b cover).boundAt p = bndNorm (boundAfter (u.boundAt p) b cover)) := by
  cases ha : p.spa with
  | none =>
    have hkeep : u.portBnd p b cover = u := by
      unfold State.portBnd
      rw [ha]
    rw [hkeep]
    exact ⟨hmem, fun _ _ => rfl, fun h => absurd h Bool.false_ne_true⟩
  | some a =>
    obtain ⟨-, hhome, hhub, -⟩ := hmem.rest
    have hfree : ∀ t : State, t.home = s.home → t.homeless (a + 2 * p.sec) 2 := fun t ht => by
      rw [State.homeless, ht]
      exact shadow_homeless hready ha
    have halive : u.dead (a + 2 * p.sec) = false := by
      rw [dead_hub hhub]
      exact (hready a ha).2.2 p.sec (by unfold PortAt.sec; omega)
    have hpoke : u.portBnd p b cover = u.pokes (a + 2 * p.sec) (bytesOf 2 (boundAfter (u.boundAt p) b cover).toNat) := by
      have hwrite := hubWrite_homeless (bs := bytesOf 2 (boundAfter (u.boundAt p) b cover).toNat) ((length_bytesOf 2 _).symm ▸ hfree u hhome) halive
      unfold State.portBnd
      rw [ha]
      unfold State.boundAt at hwrite ⊢
      rw [ha] at hwrite ⊢
      exact hwrite
    rw [hpoke]
    have hpokes := hmem.trans (sameButMemory_pokes u (a + 2 * p.sec) (bytesOf 2 (boundAfter (u.boundAt p) b cover).toNat))
    obtain ⟨-, hhome', -, -⟩ := hpokes.rest
    refine ⟨hpokes, fun x hx => ?_, fun _ => ?_⟩
    · rw [Laws.peek_pokes, length_bytesOf, if_neg fun h => hx ⟨a, ha, h.1, h.2⟩]
    · rw [boundAt_homeless ha (hfree _ hhome'), peeks_pokes_two, halfword_bytesOf]

/-- Addresses that lie about the line of an access. -/
def PortAt.near (p : PortAt) (a : Nat) : Prop := p.pa / 128 * 128 ≤ a ∧ a < p.pa / 128 * 128 + 256

theorem near_not_shadow {s : State} {p : PortAt} {a : Nat} (hready : s.shadowReady p) (h : p.near a) : ¬p.shadowByte a := by
  rintro ⟨b, hb, hlo, hhi⟩
  have haway := (hready b hb).2.1
  have hsec : p.sec < 4 := by unfold PortAt.sec; omega
  obtain ⟨h1, h2⟩ := h
  omega

/-- Writes of a sector moved from its virtual address to where it lies in memory. -/
def portWrites (ws : BitWrites) (va pa : Nat) : BitWrites := ws.map fun w => (w.1 - va / 32 * 32 + pa / 32 * 32, w.2)

/-- Whole bytes of one sector written at the port: they stand in memory, and the sector has its bound. -/
theorem portBits_written {s : State} {p : PortAt} {ws : BitWrites} {va : Nat} (hway : s.noWaypoint) (hready : s.shadowReady p)
    (hbytes : ∀ w ∈ ws, w.2.2 = 0xFF) (hnear : ∀ w ∈ portWrites ws va p.pa, p.near w.1) (vf asid : Nat) (b : Bnd) (cover poison : Bool) :
    ∃ t, s.portBits vf asid va p ws b cover poison = t ∧ s.sameButMemory t ∧
      (∀ a, ¬p.shadowByte a → t.peek a = writtenByte (portWrites ws va p.pa) a (s.peek a)) ∧
      (p.spa.isSome = true → t.boundAt p = bndNorm (boundAfter (s.boundAt p) b cover)) := by
  have hwhole : ∀ w ∈ portWrites ws va p.pa, w.2.2 = 0xFF := List.forall_mem_map.2 hbytes
  let m := s.moved vf (unitOf p.pa) ws.length
  let u := m.pokeBits (portWrites ws va p.pa)
  have hu : s.sameButMemory u := (sameButMemory_moved s vf (unitOf p.pa) ws.length).trans (sameButMemory_pokeBits m _)
  have hpeek : ∀ a, u.peek a = writtenByte (portWrites ws va p.pa) a (s.peek a) := fun a => peek_pokeBits hwhole m a
  have hbound : u.boundAt p = s.boundAt p := boundAt_congr hu.rest.2.1 (fun a ha => (hpeek a).trans
    (writtenByte_of_away (fun w hw he => near_not_shadow hready (hnear w hw) (he ▸ ha)) _)) hready
  obtain ⟨hsame, hkept, hnew⟩ := portBnd_written hready hu b cover
  have heq : s.portBits vf asid va p ws b cover poison =
      if (poison || cover) = true then { u.portBnd p b cover with poison := Map.set (u.portBnd p b cover).poison false (p.pa / 32) poison }
      else u.portBnd p b cover := by
    have hcopy : m.copyGranules vf asid va p.pa p.spa = m := copyGranules_none (s := m) hway _ _ _ _ _
    unfold State.portBits
    dsimp only
    rw [hcopy]
    rfl
  rw [hbound] at hnew
  refine ⟨_, heq, ?_⟩
  split
  · exact ⟨hsame.trans rfl, fun a ha => (hkept a ha).trans (hpeek a), hnew⟩
  · exact ⟨hsame, fun a ha => (hkept a ha).trans (hpeek a), hnew⟩

end Sys2Proof.Machine
end

section
/-! PROOFS. Stores at their home and at the fabric port (R97, R98, R345): what holds of them, and a table of lanes that lists one twice. -/

namespace Sys2Proof.Machine

/-! ## The bytes of a store at the port -/

theorem portWrites_byteRun {base va : Nat} (h : va / 32 * 32 ≤ base) (pa n : Nat) (bs : List Byte) :
    portWrites (byteRun base n bs) va pa = byteRun (base - va / 32 * 32 + pa / 32 * 32) n bs := by
  rw [portWrites, byteRun, List.map_map]
  refine List.map_congr_left fun i _ => Prod.ext ?_ rfl
  show base + i - va / 32 * 32 + pa / 32 * 32 = base - va / 32 * 32 + pa / 32 * 32 + i
  omega

/-- Where the bytes of a lane in the sector of an access at the port lie in memory. -/
def PortAt.laneAt (p : PortAt) (o : MemOp) (q : Nat) : Nat := p.pa / 32 * 32 + (o.lane q).addr.toNat % 32

/-- Lanes that touch the sector of another. -/
def MemOp.inSector (o : MemOp) (part : Nat) (ps : List Nat) : Prop := ∀ q ∈ ps, (o.lane q).addr.toNat / 32 = (o.lane part).addr.toNat / 32

theorem allWrites_store {o : MemOp} (hkind : o.kind = .st) (ps : List Nat) :
    o.allWrites ps = ps.flatMap fun q => byteRun (o.lane q).addr.toNat (o.size q) (o.bytes q) := by
  have hbits : (o.kind == .matSt) = false := by rw [hkind]; rfl
  rw [MemOp.allWrites, hbits]
  rfl

theorem portWrites_allWrites {o : MemOp} {part : Nat} {ps : List Nat} (hkind : o.kind = .st) (hsector : o.inSector part ps) (p : PortAt) :
    portWrites (o.allWrites ps) (o.lane part).addr.toNat p.pa = ps.flatMap fun q => byteRun (p.laneAt o q) (o.size q) (o.bytes q) := by
  rw [allWrites_store hkind, portWrites, List.map_flatMap]
  refine List.flatMap_congr fun q hq => ?_
  have hq := hsector q hq
  have hbase : (o.lane q).addr.toNat - (o.lane part).addr.toNat / 32 * 32 + p.pa / 32 * 32 = p.laneAt o q := by
    unfold PortAt.laneAt
    omega
  exact (portWrites_byteRun (by omega) _ _ _).trans (by rw [hbase])

/-- A byte after the bytes of lanes have been written at the port. -/
theorem writtenByte_lanes (o : MemOp) (p : PortAt) (ps : List Nat) (a : Nat) (x : Byte) :
    writtenByte (ps.flatMap fun q => byteRun (p.laneAt o q) (o.size q) (o.bytes q)) a x =
      ps.foldl (fun x q => if p.laneAt o q ≤ a ∧ a < p.laneAt o q + o.size q then (o.bytes q).getD (a - p.laneAt o q) 0 else x) x := by
  rw [writtenByte, List.foldl_flatMap]
  exact List.foldl_ext _ _ _ fun y q _ => writtenByte_byteRun _ _ _ _ _

theorem bytes_le (w : Width) : w.bytes ≤ 16 := by cases w <;> decide

theorem mem_byteRun {base n : Nat} {bs : List Byte} {w : Nat × Byte × Byte} (h : w ∈ byteRun base n bs) :
    base ≤ w.1 ∧ w.1 < base + n ∧ w.2.2 = 0xFF := by
  obtain ⟨i, hi, rfl⟩ := List.mem_map.1 h
  exact ⟨Nat.le_add_right _ _, Nat.add_lt_add_left (List.mem_range.1 hi) _, rfl⟩

theorem near_of_lane {p : PortAt} {o : MemOp} {q a : Nat} (hkind : o.kind = .st) (hlo : p.laneAt o q ≤ a) (hhi : a < p.laneAt o q + o.size q) :
    p.near a := by
  have hsize := bytes_le o.width
  rw [size_eq_bytes (.inr (.inr hkind))] at hhi
  unfold PortAt.laneAt at hlo hhi
  unfold PortAt.near
  omega

/-- A store at the port writes its sector's bytes as one piece. -/
theorem storeBytes_port {u : State} {o : MemOp} {part key : Nat} {p : PortAt} (hkind : o.kind = .st) (hlen : (o.bytes part).length = o.size part) :
    u.storeBytes o part (.port key p) = u.portBits (keyVf key) (keyAsid key) (o.lane part).addr.toNat p (o.allWrites (o.together p.spa.isSome part))
      (o.storeBnd p.spa.isSome part) (p.spa.isSome && o.coversSector part Lane.writes) false := by
  have hbounded : u.siteBounded (.port key p) = p.spa.isSome := rfl
  rw [State.storeBytes, hbounded]
  cases p.spa.isSome
  case true => rfl
  case false =>
    have hone : o.together false part = [part] := rfl
    rw [allWrites_store hkind, hone, List.flatMap_singleton, ← hlen]
    rfl

theorem storeEnds_port (u : State) (o' : MemOp) (id key : Nat) (p : PortAt) (clean : Bool) (va : Nat) :
    ∃ v, u.storeEnds o' id (.port key p) clean va = v.setOp id o' ∧ u.sameButMemory v ∧ v.mem = u.mem ∧ v.boundAt p = u.boundAt p := by
  cases clean <;> exact ⟨_, rfl, rfl, rfl, rfl⟩

/-- A store performed at the port, its lanes standing in one sector, as they do in a table in its canonical form (`inSector_together`). -/
theorem store_port {s : State} {id part : Nat} {p : PortAt} {o : MemOp} (hat : s.atPort id part o p) (hkind : o.kind = .st) (hway : s.noWaypoint)
    (hready : s.shadowReady p) (hdue : p.spa.isSome = true → o.sectorDue part = false) (hlen : (o.bytes part).length = o.size part)
    (hsector : o.inSector part (o.together p.spa.isSome part)) :
    ∃ t, exec (.homeRequest id part) s = .next t ∧ inFlightKept s t ∧ t.home = s.home ∧
      (∀ q ∈ o.together p.spa.isSome part, laneDone t id q fun _ => True) ∧
      (∀ a, ¬p.shadowByte a → t.peek a = (o.together p.spa.isSome part).foldl
        (fun x q => if p.laneAt o q ≤ a ∧ a < p.laneAt o q + o.size q then (o.bytes q).getD (a - p.laneAt o q) 0 else x) (s.peek a)) ∧
      (p.spa.isSome = true → t.boundAt p =
        bndNorm (boundAfter (s.boundAt p) (o.sectorBnd (o.together p.spa.isSome part)) (o.coversSector part Lane.writes))) := by
  obtain ⟨key, -, hexec⟩ := atPort_performs hat (asksLine_store hkind)
  obtain ⟨⟨-, -, -, hhalves, -⟩, -⟩ := hat
  have htraffic := sameButTraffic_onItsWay s o part (.port key p)
  obtain ⟨clean, hserve⟩ := serveStore_eq (id := id) hkind hhalves (x := .port key p) (u := s.onItsWay o part (.port key p)) hdue
  rw [perform_store hkind, hserve, storeBytes_port hkind hlen] at hexec
  have hwhole : ∀ w ∈ o.allWrites (o.together p.spa.isSome part), w.2.2 = 0xFF := fun w hw => by
    rw [allWrites_store hkind] at hw
    obtain ⟨q, -, hw⟩ := List.mem_flatMap.1 hw
    exact (mem_byteRun hw).2.2
  have hnear : ∀ w ∈ portWrites (o.allWrites (o.together p.spa.isSome part)) (o.lane part).addr.toNat p.pa, p.near w.1 := fun w hw => by
    rw [portWrites_allWrites hkind hsector] at hw
    obtain ⟨q, -, hw⟩ := List.mem_flatMap.1 hw
    exact near_of_lane hkind (mem_byteRun hw).1 (mem_byteRun hw).2.1
  have hready' : (s.onItsWay o part (.port key p)).shadowReady p := by
    rw [htraffic]
    exact hready
  obtain ⟨u, hu, hsame, hpeek, hbound⟩ := portBits_written (noWaypoint_traffic htraffic hway) hready' hwhole hnear (keyVf key) (keyAsid key)
    (o.storeBnd p.spa.isSome part) (p.spa.isSome && o.coversSector part Lane.writes) false
  rw [hu] at hexec
  obtain ⟨v, hends, hsame', hmem, hbound'⟩ := storeEnds_port u (o.stepLanes Lane.stored (o.together p.spa.isSome part)) id key p clean
    (o.lane part).addr.toNat
  obtain ⟨hkept1, -, -⟩ := htraffic.rest
  obtain ⟨hkept2, hhome, -, -⟩ := (hsame.trans hsame').rest
  have hsites : ∀ a, (s.onItsWay o part (.port key p)).peek a = s.peek a ∧ (s.onItsWay o part (.port key p)).boundAt p = s.boundAt p := by
    rw [htraffic]
    exact fun _ => ⟨rfl, rfl⟩
  refine ⟨_, hexec.trans (congrArg _ hends), hkept1.trans (hkept2.trans (inFlightKept_of_warps rfl rfl rfl rfl)), ?_,
    fun q hq => ?_, fun a ha => ?_, fun hb => ?_⟩
  · exact hhome.trans (by rw [htraffic])
  · exact ⟨_, State.op?_setOp_same _ _ _, stepLanes_done (fun _ => rfl) hq o, trivial⟩
  · have hv : v.peek a = u.peek a := by rw [State.peek, hmem]; rfl
    rw [← writtenByte_lanes, ← portWrites_allWrites hkind hsector, ← (hsites a).1, ← hpeek a ha, ← hv]
    rfl
  · have h := hbound hb
    rw [(hsites 0).2, MemOp.storeBnd, if_pos hb, hb, Bool.true_and] at h
    rw [hb, ← h, ← hbound']
    rfl

/-- Each entry of a table in its canonical form is what a read of the table finds. -/
theorem get_of_mem {α : Type} [DecidableEq α] {m : Map α} {d : α} (hwf : Map.wf m d = true) {p : Nat × α} (hp : p ∈ m) : Map.get m d p.1 = p.2 := by
  induction m with
  | nil => cases hp
  | cons q m ih =>
    obtain ⟨k, a⟩ := q
    obtain ⟨-, habove, hwf⟩ := (Map.wf_cons _ _ _ _).1 hwf
    rw [Map.get_cons]
    rcases List.mem_cons.1 hp with rfl | hp
    · exact if_pos rfl
    · rw [if_neg (habove p hp).ne]
      exact ih hwf hp

/-- In a table of lanes in its canonical form, the lanes that a store performs in one step stand in one sector. -/
theorem inSector_together {o : MemOp} (hwf : Map.wf o.lanes Lane.none = true) (bounded : Bool) (part : Nat) : o.inSector part (o.together bounded part) := by
  intro q hq
  cases bounded
  case false => rw [List.mem_singleton.1 hq]
  case true =>
    obtain ⟨x, hx, rfl⟩ := List.mem_map.1 hq
    obtain ⟨hmem, hx⟩ := List.mem_filter.1 hx
    rw [MemOp.lane, get_of_mem hwf hmem]
    exact of_decide_eq_true (Bool.and_eq_true_iff.1 hx).2

/-! ## A table of lanes that lists one twice -/

/-- A lane on its way with one word to store. -/
def Lane.storing (addr : DWord) (w : Word) : Lane := { Lane.none with st := .sent, addr, data := [w] }

/-- A store of which lane 1 is listed twice: first at 0x120, where a read of the table finds it, then in the sector of lane 0. -/
def listedTwice : MemOp :=
  ⟨.st, 0, 1, 0, 1, 1, 0, 0, 0x1004, 0, 0, true, .b32, .dev, .plain, .iadd, false, 0, 2, 0, 0, none,
    [(0, .storing 0x100 0), (1, .storing 0x120 1), (1, .storing 0x100 1)], 0, 10, false, (0, 0), 0⟩

/-- Its page is bounded and in a hub host range; its shadow lies in the same page. -/
def storingTwice : State :=
  { State.reset with
      ops := [(10, listedTwice)], plts := [(0, [0, 0x8001680000000000, 0x8000000000000000])],
      tlb := [⟨0, 0, 0, 0, 0, 2 ^ 39, true, true, true, true⟩], hub := { Hub.reset with ready := 0xFFFFFFFFFF } }

def storingAt : PortAt := ⟨2 ^ 51 + 0x100, some (2 ^ 51 + 16), true⟩

/-- An access goes to the port at a place. -/
def Touch.goesTo (x : Touch) (p : PortAt) : Bool := match x with
  | .port q => decide (q = p)
  | _ => false

theorem Touch.goesTo_iff {x : Touch} {p : PortAt} : x.goesTo p = true ↔ x = .port p := by
  cases x <;> simp [Touch.goesTo]

theorem storingTwice_atPort : storingTwice.atPort 10 0 listedTwice storingAt :=
  ⟨by unfold State.laneReady; decide +kernel, Touch.goesTo_iff.1 (by decide +kernel), by decide +kernel, fun _ _ => rfl⟩

theorem storingTwice_shadowReady : storingTwice.shadowReady storingAt := by
  rintro a ⟨⟩
  refine ⟨fun q hq => absurd hq List.not_mem_nil, by decide, by decide +kernel⟩

/-- Once its store is performed, the first byte of the sector is that of lane 0: the word of lane 1 went to the sector after it. -/
theorem storingTwice_first {t : State} (h : exec (.homeRequest 10 0) storingTwice = .next t) : t.peek (2 ^ 51 + 0x100) = 0 := by
  have hfirst : (storingTwice.serveLane 10 0).peek (2 ^ 51 + 0x100) = 0 := by decide +kernel
  rw [homeRequest_lane (o := listedTwice) rfl] at h
  cases h
  exact hfirst

/-- Refutes O34: a table of lanes that lists a lane twice names it in a sector (`MemOp.sameSector`) where a read of the table does not find
it, and at the port the lane's bytes then go to another sector than the statement's. -/
theorem not_storesAtHome : ¬ Obligations.StoresAtHome := by
  unfold Obligations.StoresAtHome
  rintro ⟨-, hport⟩
  obtain ⟨t, hexec, -, -, -, hpeek, -⟩ := hport storingTwice 10 0 storingAt listedTwice storingTwice_atPort rfl
    (fun _ h => absurd h List.not_mem_nil) storingTwice_shadowReady (fun _ => by decide +kernel) (by decide +kernel)
  have hone := hpeek (2 ^ 51 + 0x100) (by rintro ⟨a, ⟨⟩, hlo, hhi⟩; exact absurd hhi (by decide))
  rw [storingTwice_first hexec] at hone
  exact absurd hone (by decide +kernel)

end Sys2Proof.Machine
end

section
/-! PROOFS. Atomics at their home and at the fabric port (R100, R134, R229, R352). -/

namespace Sys2Proof.Machine

theorem State.sameButTraffic.refl (s : State) : s.sameButTraffic s := rfl

/-! ## One read-modify-write -/

/-- The bytes that an atomic writes, and the bound of the new value. -/
def MemOp.modify (o : MemOp) (part : Nat) (old : List Byte) (b : Bnd) : List Byte × Bnd :=
  rmw o.kind o.aop o.width.bytes old (o.lane part).data b (o.lane part).bnd

/-- An atomic lane that has read some bytes and their bound. -/
def Lane.exchanged (l : Lane) (w : Width) (old : List Byte) (b : Bnd) : Lane := { l with st := .done, res := loadWords w old, rbnd := b }

/-- The line of an atomic written and marked. -/
def State.atomicStored (s : State) (o : MemOp) (part : Nat) (x : Site) (old : List Byte) (b : Bnd) : State :=
  (s.siteStore x (o.lane part).addr.toNat 0 (o.modify part old b).1 (o.modify part old b).2).setSiteMark x (o.newMark x.key (s.siteMark x))

theorem serveAtomic_eq {u : State} {o : MemOp} {id part : Nat} {x : Site} {old : List Byte} {b : Bnd}
    (hread : u.siteRead x (o.lane part).addr.toNat 0 o.width.bytes = (old, b, false)) : u.serveAtomic o id part x =
      ((u.atomicStored o part x old b).refresh o x (o.lane part).addr.toNat).putLane id part ((o.lane part).exchanged o.width old b) := by
  unfold State.serveAtomic
  simp only [hread, Bool.false_eq_true, if_false]
  rfl

theorem perform_atomic {u : State} {o : MemOp} {id part : Nat} {x : Site} (hrefuse : o.hostRefuses x = false) (hatomic : o.kind.atomic = true)
    (hwide : o.scope.wide = true) : u.perform o id part 0 x = u.serveAtomic o id part x := by
  simp [State.perform, hrefuse, hatomic, hwide]

theorem asksLine_wide {o : MemOp} (hwide : o.scope.wide = true) : o.asksLine = false := by
  rw [MemOp.asksLine, hwide, Bool.not_true, Bool.and_false]

theorem refilled_refresh (s : State) (o : MemOp) (x : Site) (va : Nat) : s.refilled (s.refresh o x va) x.key := by
  unfold State.refresh
  split
  · exact refilled_refill _ _ _ _
  · exact .refl _ _

theorem atomic_ne_pf {k : MemKind} (h : k.atomic = true) : k ≠ .pf := by
  rintro rfl
  cases h

/-- An atomic whose bytes are written: L1 follows, and the lane is done with the old value. -/
theorem refresh_putLane {v : State} {o : MemOp} {id part : Nat} {x : Site} {l : Lane} (hop : v.op? id = some o) (hatomic : o.kind.atomic = true)
    (hfaults : o.faults = []) (hl : l.st = .done) (va : Nat) :
    let t := (v.refresh o x va).putLane id part l
    inFlightKept v t ∧ t.mem = v.mem ∧ v.lineRead t x.key ∧ laneDone t id part fun l' => l' = l := by
  intro t
  have hrefresh := refilled_refresh v o x va
  obtain ⟨hkept, hmem, hops⟩ := hrefresh.rest
  have hop' : (v.refresh o x va).op? id = some o := by rw [State.op?, hops]; exact hop
  obtain ⟨hkept', ⟨hhome, hmem'⟩, o', ho', hlane⟩ := putLane_done (part := part) hop' (atomic_ne_pf hatomic) hfaults hl
  exact ⟨hkept.trans hkept', hmem'.trans hmem, hrefresh.lineRead (.refl v) hhome, o', ho', by rw [hlane]; exact ⟨hl, rfl⟩⟩

theorem atomicStored_line {u : State} {o : MemOp} {part key : Nat} {h : HLine} (hway : u.noWaypoint) (hline : u.hline key = some h)
    (old : List Byte) (b : Bnd) : ∃ h', u.lineNow (u.atomicStored o part (.line key) old b) key h' ∧
      h'.line.data = splice h.line.data ((o.lane part).addr.toNat % 128) (o.modify part old b).1 ∧
      h'.dirty = h.dirty ||| (1#4 <<< secOf (o.lane part).addr.toNat) := by
  have hstore := lineNow_homeStore hway hline (o.lane part).addr.toNat [((o.lane part).addr.toNat % 128, (o.modify part old b).1)] (o.modify part old b).2
  obtain ⟨h', hmark, hdata, -, -, hdirty⟩ := lineNow_setSiteMark hstore.2.2 (o.newMark key (u.siteMark (.line key)))
  exact ⟨h', hstore.trans hmark, hdata, hdirty⟩

/-- An atomic performed at its line. -/
theorem atomic_line {s : State} {id part key : Nat} {o : MemOp} {h : HLine} (hat : s.atHome id part o key h) (hatomic : o.kind.atomic = true)
    (hwide : o.scope.wide = true) (hway : s.noWaypoint) (hclean : h.line.poisoned (secOf (o.lane part).addr.toNat) = false) {old : List Byte}
    (hold : old = (h.line.data.drop ((o.lane part).addr.toNat % 128)).take o.width.bytes) {b : Bnd}
    (hb : b = h.line.bnd (secOf (o.lane part).addr.toNat)) :
    ∃ t h', exec (.homeRequest id part) s = .next t ∧ t.hline key = some h' ∧
      h'.line.data = splice h.line.data ((o.lane part).addr.toNat % 128) (o.modify part old b).1 ∧
      h'.dirty = h.dirty ||| (1#4 <<< secOf (o.lane part).addr.toNat) ∧ s.linesKept t key ∧ inFlightKept s t ∧ (∀ a, t.peek a = s.peek a) ∧
      laneDone t id part fun l => l.res = loadWords o.width old ∧ l.rbnd = b := by
  have hexec := atHome_performs hat (asksLine_wide hwide)
  obtain ⟨⟨hop, -, -, -, -, hfaults, -, -⟩, -, hline, -⟩ := hat
  have htraffic := sameButTraffic_onItsWay s o part (.line key)
  have hline' := (hline_traffic htraffic key).trans hline
  have hway' := noWaypoint_traffic htraffic hway
  generalize s.onItsWay o part (.line key) = u at hexec htraffic hline' hway'
  have hread : u.siteRead (.line key) (o.lane part).addr.toNat 0 o.width.bytes = (old, b, false) := by
    rw [State.siteRead, State.homeRead, hline', hold, hb]
    exact congrArg₂ Prod.mk rfl (congrArg₂ Prod.mk rfl hclean)
  have hrefuse : o.hostRefuses (.line key) = false := rfl
  rw [perform_atomic hrefuse hatomic hwide, serveAtomic_eq hread] at hexec
  obtain ⟨h1, hlines, hdata, hdirty⟩ := atomicStored_line (o := o) (part := part) hway' hline' old b
  obtain ⟨hkept1, hmem1, hops1⟩ := htraffic.rest
  obtain ⟨hkept2, hmem2, hops2⟩ := hlines.rest
  obtain ⟨-, hothers, hnew⟩ := hlines
  generalize u.atomicStored o part (.line key) old b = v at hexec hkept2 hmem2 hops2 hothers hnew
  have hop' : v.op? id = some o := by rw [State.op?, hops2, hops1]; exact hop
  obtain ⟨hkept3, hmem3, ⟨hothers', hsame, -⟩, o', ho', hdone, hlane⟩ :=
    refresh_putLane (part := part) (x := .line key) (l := (o.lane part).exchanged o.width old b) hop' hatomic hfaults rfl (o.lane part).addr.toNat
  obtain ⟨h2, hh2, hl2, hd2⟩ := hsame h1 hnew
  refine ⟨_, h2, hexec, hh2, by rw [hl2, hdata], by rw [hd2, hdirty],
    fun k hk => (hothers' k hk).trans ((hothers k hk).trans (hline_traffic htraffic k)), hkept1.trans (hkept2.trans hkept3), fun a => ?_, o', ho', hdone, ?_⟩
  · rw [State.peek, hmem3, hmem2, hmem1]
    rfl
  · rw [hlane]
    exact ⟨rfl, rfl⟩

/-! ## At the port -/

theorem shadowReady_congr {s t : State} {p : PortAt} (hhome : t.home = s.home) (hhub : t.hub = s.hub) (h : s.shadowReady p) : t.shadowReady p := by
  intro a ha
  obtain ⟨hlines, haway, halive⟩ := h a ha
  exact ⟨by rw [hhome]; exact hlines, haway, fun i hi => (dead_hub hhub _).trans (halive i hi)⟩

theorem length_rmw_le (kind : MemKind) (op : Aop) {n : Nat} {old : List Byte} (hold : old.length = n) (data : List Word) (bo bv : Bnd) :
    (rmw kind op n old data bo bv).1.length ≤ n := by
  have hlow : ∀ ws, (lowBytes n ws).length ≤ n := fun ws => List.length_take_le _ _
  have hbytes : ∀ v, (bytesOf n v).length ≤ n := fun v => (length_bytesOf n v).le
  unfold rmw
  cases kind
  case cas =>
    dsimp only
    split
    · exact hlow _
    · exact hold.le
  all_goals exact hbytes _

theorem hostRefuses_port {o : MemOp} {key : Nat} {p : PortAt} (h : o.scope ≠ .sys ∨ paKind p.pa ≠ .host ∨ o.pcieOk = true) :
    o.hostRefuses (.port key p) = false := by
  unfold MemOp.hostRefuses
  rcases h with h | h | h <;> simp [h]

/-- The bytes of an atomic at the port stand where its access lies. -/
theorem portWrites_at {p : PortAt} {va : Nat} (h : p.pa % 32 = va % 32) (n : Nat) (bs : List Byte) :
    portWrites (byteRun va n bs) va p.pa = byteRun p.pa n bs := by
  have hbase : va - va / 32 * 32 + p.pa / 32 * 32 = p.pa := by omega
  rw [portWrites_byteRun (by omega), hbase]

theorem atomicStored_port {u : State} {o : MemOp} {part key : Nat} {p : PortAt} (hway : u.noWaypoint) (hready : u.shadowReady p)
    (hplace : p.pa % 32 = (o.lane part).addr.toNat % 32) {old : List Byte} (hold : old.length = o.width.bytes) (b : Bnd) :
    ∃ t, u.atomicStored o part (.port key p) old b = t ∧ u.sameButMemory t ∧
      (∀ a, ¬p.shadowByte a → t.peek a = if p.pa ≤ a ∧ a < p.pa + (o.modify part old b).1.length then
        (o.modify part old b).1.getD (a - p.pa) 0 else u.peek a) ∧
      (p.spa.isSome = true → t.boundAt p = bndNorm (boundAfter (u.boundAt p) (o.modify part old b).2 false)) := by
  have hlen : (o.modify part old b).1.length ≤ 16 := (length_rmw_le _ _ hold _ _ _).trans (bytes_le _)
  let ws := byteRun (o.lane part).addr.toNat (o.modify part old b).1.length (o.modify part old b).1
  have hws : portWrites ws (o.lane part).addr.toNat p.pa = byteRun p.pa (o.modify part old b).1.length (o.modify part old b).1 :=
    portWrites_at hplace _ _
  have hnear : ∀ w ∈ portWrites ws (o.lane part).addr.toNat p.pa, p.near w.1 := fun w hw => by
    rw [hws] at hw
    obtain ⟨hlo, hhi, -⟩ := mem_byteRun hw
    unfold PortAt.near
    omega
  obtain ⟨v, hv, hsame, hpeek, hbound⟩ := portBits_written hway hready (ws := ws) (fun w hw => (mem_byteRun hw).2.2) hnear (keyVf key)
    (keyAsid key) (o.modify part old b).2 false false
  refine ⟨_, rfl, ?_⟩
  have hstored : u.atomicStored o part (.port key p) old b = v.setSiteMark (.port key p) (o.newMark key (u.siteMark (.port key p))) :=
    congrArg (fun v : State => v.setSiteMark (.port key p) (o.newMark key (u.siteMark (.port key p)))) hv
  rw [hstored]
  refine ⟨hsame.trans rfl, fun a ha => ?_, hbound⟩
  rw [← writtenByte_byteRun, ← hws, ← hpeek a ha]
  rfl

/-- An atomic performed at the port. -/
theorem atomic_port {s : State} {id part : Nat} {p : PortAt} {o : MemOp} (hat : s.atPort id part o p) (hatomic : o.kind.atomic = true)
    (hwide : o.scope.wide = true) (hway : s.noWaypoint) (hready : s.shadowReady p) (hclean : s.paPoison p.pa = false)
    (hhost : o.scope ≠ .sys ∨ paKind p.pa ≠ .host ∨ o.pcieOk = true) {old : List Byte} (hold : old = s.peeks p.pa o.width.bytes) :
    ∃ t, exec (.homeRequest id part) s = .next t ∧ inFlightKept s t ∧ t.home = s.home ∧
      (laneDone t id part fun l => l.res = loadWords o.width old ∧ l.rbnd = s.boundAt p) ∧
      (∀ a, ¬p.shadowByte a → t.peek a = if p.pa ≤ a ∧ a < p.pa + (o.modify part old (s.boundAt p)).1.length then
        (o.modify part old (s.boundAt p)).1.getD (a - p.pa) 0 else s.peek a) ∧
      (p.spa.isSome = true → t.boundAt p = bndNorm (boundAfter (s.boundAt p) (o.modify part old (s.boundAt p)).2 false)) := by
  obtain ⟨key, hnone, hexec⟩ := atPort_performs hat (asksLine_wide hwide)
  obtain ⟨⟨hop, -, -, -, -, hfaults, -, -⟩, htouch, -⟩ := hat
  obtain ⟨-, -, -, hplace⟩ := touch_port htouch
  have htraffic := sameButTraffic_onItsWay s o part (.port key p)
  generalize s.onItsWay o part (.port key p) = u at hexec htraffic
  have hway' := noWaypoint_traffic htraffic hway
  have hu : u.shadowReady p ∧ u.boundAt p = s.boundAt p ∧ (∀ a, u.peek a = s.peek a) ∧ u.home = s.home := by
    rw [htraffic]
    exact ⟨hready, rfl, fun _ => rfl, rfl⟩
  obtain ⟨hready', hbound', hpeek', hhome'⟩ := hu
  have hread : u.siteRead (.port key p) (o.lane part).addr.toNat 0 o.width.bytes = (old, s.boundAt p, false) := by
    rw [htraffic, hold]
    exact congrArg₂ Prod.mk rfl (congrArg₂ Prod.mk rfl hclean)
  rw [perform_atomic (hostRefuses_port hhost) hatomic hwide, serveAtomic_eq hread] at hexec
  obtain ⟨v, hv, hsame, hpeek, hbound⟩ := atomicStored_port (o := o) (part := part) (key := key) hway' hready' hplace (old := old)
    (by rw [hold, State.peeks, List.length_map, List.length_range]) (s.boundAt p)
  rw [hv] at hexec
  obtain ⟨hkept1, -, hops1⟩ := htraffic.rest
  obtain ⟨hkept2, hhome2, hhub2, hops2⟩ := hsame.rest
  have hop' : v.op? id = some o := by rw [State.op?, hops2, hops1]; exact hop
  obtain ⟨hkept3, hmem3, ⟨-, -, hhome3⟩, o', ho', hdone, hlane⟩ :=
    refresh_putLane (part := part) (x := .port key p) (l := (o.lane part).exchanged o.width old (s.boundAt p)) hop' hatomic hfaults rfl
      (o.lane part).addr.toNat
  have hhome : v.home = s.home := hhome2.trans hhome'
  have hhome4 := hhome3 (by rw [State.hline, hhome]; exact hnone)
  have hpeek3 : ∀ a, ((v.refresh o (.port key p) (o.lane part).addr.toNat).putLane id part ((o.lane part).exchanged o.width old (s.boundAt p))).peek a =
      v.peek a := fun a => by rw [State.peek, hmem3]; rfl
  have hready3 : v.shadowReady p := shadowReady_congr hhome2 hhub2 hready'
  refine ⟨_, hexec, hkept1.trans (hkept2.trans hkept3), hhome4.trans hhome, ⟨o', ho', hdone, ?_⟩, fun a ha => ?_, fun hb => ?_⟩
  · rw [hlane]
    exact ⟨rfl, rfl⟩
  · rw [hpeek3, hpeek a ha, hpeek']
  · rw [boundAt_congr hhome4 (fun a _ => hpeek3 a) hready3, hbound hb, hbound']

/-- Settles O35: one read-modify-write at the line or at the port, after which L1 follows. -/
theorem atomicsAtHome : Obligations.AtomicsAtHome := by
  unfold Obligations.AtomicsAtHome
  exact ⟨fun s id part key o h hat hatomic hwide hway hclean => atomic_line hat hatomic hwide hway hclean rfl rfl,
    fun s id part p o hat hatomic hwide hway hready hclean hhost => atomic_port hat hatomic hwide hway hready hclean hhost rfl⟩

end Sys2Proof.Machine
end

section
/-! PROOFS. Transfers of a copy: whole bytes written as bits, in a slice or in a line (R98, R99, R287, R293). -/

namespace Sys2Proof.Machine

/-! ## Whole bytes as bits -/

/-- The bits of a byte that a run of whole bytes writes. -/
theorem mask_byteRun (base n : Nat) (bs : List Byte) (a : Nat) :
    ((byteRun base n bs).filter fun w => decide (w.1 = a)).foldl (fun m w => m ||| w.2.2) 0 = if base ≤ a ∧ a < base + n then 0xFF else 0 := by
  rw [List.foldl_filter, byteRun, List.foldl_map]
  induction n with
  | zero => simp
  | succ n ih =>
    rw [List.range_succ, List.foldl_append, ih]
    rcases Nat.lt_trichotomy a (base + n) with h | rfl | h
    · have hiff : (base ≤ a ∧ a < base + (n + 1)) ↔ (base ≤ a ∧ a < base + n) := by omega
      have hne : base + n ≠ a := by omega
      simp [hiff, hne]
    · simp
    · have h1 : ¬(base ≤ a ∧ a < base + (n + 1)) := by omega
      have h2 : ¬(base ≤ a ∧ a < base + n) := by omega
      have hne : base + n ≠ a := by omega
      simp [h1, h2, hne]

/-- Bytes of one sector cover it when they are 32 (R98). -/
theorem coversBits_byteRun {base n : Nat} (hn : 0 < n) (hsector : base / 32 = (base + n - 1) / 32) (bs : List Byte) :
    coversBits (byteRun base n bs) (base / 32 * 32) = decide (n = 32) := by
  have hbyte : ∀ i, (((byteRun base n bs).filter fun w => decide (w.1 = base / 32 * 32 + i)).foldl (fun m w => m ||| w.2.2) 0 == 0xFF#8) = true ↔
      base ≤ base / 32 * 32 + i ∧ base / 32 * 32 + i < base + n := fun i => by
    rw [mask_byteRun]
    split
    case isTrue h => simp [h]
    case isFalse h => simp [h]
  rw [Bool.eq_iff_iff, decide_eq_true_eq, coversBits, List.all_eq_true]
  simp only [List.mem_range, hbyte]
  constructor
  · intro h
    have h0 := h 0 (by omega)
    have h31 := h 31 (by omega)
    omega
  · intro h i hi
    omega

/-- A byte of a line after writes of whole bytes. -/
theorem getD_applyBits {base : Nat} {ws : BitWrites} {bs : List Byte} (hws : ∀ w ∈ ws, w.2.2 = 0xFF ∧ base ≤ w.1) {i : Nat} (hi : i < bs.length) :
    (applyBits base bs ws).getD i 0 = writtenByte ws (base + i) (bs.getD i 0) := by
  induction ws generalizing bs with
  | nil => rfl
  | cons w ws ih =>
    obtain ⟨hmask, hlo⟩ := hws w List.mem_cons_self
    have hset : (bs.set (w.1 - base) (putBits (bs.getD (w.1 - base) 0) w.2.1 w.2.2)).getD i 0 = if base + i = w.1 then w.2.1 else bs.getD i 0 := by
      rw [hmask, putBits_all, List.getD_eq_getElem?_getD, List.getElem?_set]
      by_cases h : base + i = w.1
      · have hat : w.1 - base = i := by omega
        simp [h, hat, hi]
      · have hat : w.1 - base ≠ i := by omega
        rw [if_neg h, if_neg hat, List.getD_eq_getElem?_getD]
    rw [writtenByte, List.foldl_cons, ← hset]
    exact ih (fun x hx => hws x (List.mem_cons_of_mem _ hx)) (by rw [List.length_set]; exact hi)

/-! ## Bits of a slice -/

/-- The bytes of a slice after writes of bits. -/
def State.spBits (s : State) (b j : Nat) (ws : BitWrites) : State :=
  ws.foldl (fun s w => { s with scratch := Map.set s.scratch 0 (spKey b j w.1) (putBits (s.spByte b j w.1) w.2.1 w.2.2) }) s

theorem sameButSpad_spBits (s : State) (b j : Nat) (ws : BitWrites) : s.sameButSpad (s.spBits b j ws) := by
  unfold State.spBits
  exact List.foldlRecOn _ _ (motive := fun t => s.sameButSpad t) (.refl s) fun t ht w _ => ht.trans rfl

/-- Writes of a slice at their keys. -/
def spWrites (b j : Nat) (ws : BitWrites) : BitWrites := ws.map fun w => (spKey b j w.1, w.2)

theorem spWrites_byteRun (b j off n : Nat) (bs : List Byte) : spWrites b j (byteRun off n bs) = byteRun (spKey b j off) n bs := by
  rw [spWrites, byteRun, List.map_map]
  exact List.map_congr_left fun i _ => Prod.ext (spKey_add b j off i) rfl

theorem get_spBits {ws : BitWrites} (hws : ∀ w ∈ ws, w.2.2 = 0xFF) (s : State) (b j k : Nat) :
    Map.get (s.spBits b j ws).scratch 0 k = writtenByte (spWrites b j ws) k (Map.get s.scratch 0 k) := by
  induction ws generalizing s with
  | nil => rfl
  | cons w ws ih =>
    have hset : Map.get (Map.set s.scratch 0 (spKey b j w.1) (putBits (s.spByte b j w.1) w.2.1 w.2.2)) 0 k =
        if k = spKey b j w.1 then w.2.1 else Map.get s.scratch 0 k := by
      rw [hws w List.mem_cons_self, putBits_all, Map.get_set]
    rw [spWrites, List.map_cons, writtenByte, List.foldl_cons, ← hset]
    exact ih (fun x hx => hws x (List.mem_cons_of_mem _ hx)) _

theorem head_byteRun {base n : Nat} (hn : 0 < n) (bs : List Byte) : ((byteRun base n bs).headD (0, 0, 0)).1 = base := by
  obtain ⟨n, rfl⟩ := Nat.exists_eq_succ_of_ne_zero hn.ne'
  rw [byteRun, List.range_succ_eq_map]
  rfl

theorem spSide_sector (s : State) (b j off : Nat) : s.spSide b j (off / 32 * 32) = s.spSide b j off := by
  have hkey : sideKey b j (off / 32 * 32) = sideKey b j off := by
    unfold sideKey
    omega
  rw [State.spSide, State.spSide, hkey]

/-- A run of bytes of one sector written into a slice: its bytes, and the bound of its sector (R98, R99). -/
theorem spadBits_run {s : State} {off n : Nat} (hn : 0 < n) (hsector : off / 32 = (off + n - 1) / 32) (b j : Nat) (bs : List Byte) (bnd : Bnd)
    (poison : Bool) :
    ∃ t, s.spadBits b j (byteRun off n bs) bnd poison = t ∧ s.sameButSpad t ∧ (∀ k, Map.get t.scratch 0 k =
      if spKey b j off ≤ k ∧ k < spKey b j off + n then bs.getD (k - spKey b j off) 0 else Map.get s.scratch 0 k) ∧
      (t.spSide b j off).1 = boundAfter (s.spSide b j off).1 bnd (n = 32) := by
  have hbits : s.spadBits b j (byteRun off n bs) bnd poison = (s.spBits b j (byteRun off n bs)).setSide b j (off / 32 * 32)
      (sectorBnd (s.spSide b j (off / 32 * 32)).1 bnd (decide (n = 32)), poison || ((s.spSide b j (off / 32 * 32)).2 && !decide (n = 32))) := by
    rw [State.spadBits, head_byteRun hn, coversBits_byteRun hn hsector]
    rfl
  have hsame := sameButSpad_spBits s b j (byteRun off n bs)
  refine ⟨_, hbits, hsame.trans rfl, fun k => ?_, ?_⟩
  · rw [← writtenByte_byteRun, ← spWrites_byteRun, ← get_spBits fun w hw => (mem_byteRun hw).2.2]
    rfl
  · rw [← spSide_sector, State.setSide, State.spSide, Map.get_set_same, spSide_sector]
    rfl

end Sys2Proof.Machine
end

section
/-! PROOFS. A transfer of `cpy.b` served at its home, in either direction (R98, R99, R110, R287, R293). -/

namespace Sys2Proof.Machine

/-! ## The service of a transfer -/

theorem homeRequest_xfer {s : State} {op : Nat} {e : EngOp} (hop : s.op? op = none) (he : s.eng? op = some e) (hkind : e.kind.collective = false)
    (part : Nat) : exec (.homeRequest op part) s = .next (s.serveXfer op part) := by
  have hexec : exec (.homeRequest op part) s = execHomeRequest op part s := rfl
  rw [hexec, execHomeRequest, hop, he]
  dsimp only
  rw [hkind, if_neg Bool.false_ne_true]

/-- A transfer that was read and written where nothing stands in its way is done. -/
theorem serveXfer_done {s u : State} {op part : Nat} {e : EngOp} (he : s.eng? op = some e) (hopen : e.open_ part = true)
    (hheld : s.xferHeld e op part = false) (hlost : s.xferLost e part = false) (htry : s.tryXfer e part = .ok u [] 0 false) :
    s.serveXfer op part = u.setEng op (e.doneXfer part) := by
  simp [State.serveXfer, he, hopen, htry, hheld, hlost, EngOp.keep]

theorem xfer_doneXfer {e : EngOp} {part : Nat} (hopen : e.open_ part = true) : ((e.doneXfer part).xfer part).done = true := by
  have hlt : part < e.xfers.length := by
    unfold EngOp.open_ at hopen
    simp only [Bool.and_eq_true, decide_eq_true_eq] at hopen
    exact hopen.1.1.2
  rw [EngOp.doneXfer, EngOp.xfer, List.getD_eq_getElem _ _ (by rw [List.length_set]; exact hlt), List.getElem_set_self]

theorem eng?_setEng (s : State) (op k : Nat) (x : EngOp) : (s.setEng op x).eng? k = if k = op then some x else s.eng? k :=
  Map.find?_put _ _ _ _

/-- A step that leaves engine operations, memory operations, warps and time alone, and then marks a transfer done. -/
theorem engsKept_setEng {s u : State} (hengs : u.engs = s.engs) (hops : u.ops = s.ops) (hwarps : u.warps = s.warps) (htime : u.time = s.time)
    (op : Nat) (x : EngOp) : engsKept s (u.setEng op x) op := by
  refine ⟨fun k hk => ?_, hops, fun k => congrArg (fun m => (Map.get m Warp.empty k).vregs) hwarps, htime⟩
  rw [eng?_setEng, if_neg hk, State.eng?, hengs]
  rfl

theorem writes_whole {p : Piece} (h : p.nib = none) (bs : List Byte) : p.writes bs = byteRun p.dst p.len bs := by
  rw [Piece.writes, h]
  rfl

/-- A piece read from a home line. -/
theorem gather_line {s : State} {e : EngOp} {p : Piece} {key : Nat} {h : HLine} (hkind : e.kind = .cpyBIn) (hnib : p.nib = none)
    (hzero : p.zero = false) (hline : s.hline key = some h) (hreach : s.reach e p.src .read = .line s key) :
    s.gather e [p] = .ok (s.served e.vf e.who.dom (keyUnit key) p.len) (byteRun p.dst p.len ((h.line.data.drop (p.src % 128)).take p.len))
      (bndMax (h.line.bnd (secOf p.src)) 0) (h.line.poisoned (secOf p.src)) := by
  have hcol : e.kind.collective = false := by rw [hkind]; rfl
  have hin : e.kind.inward = true := by rw [hkind]; rfl
  simp only [State.gather, hzero, hcol, hin, Bool.false_and, Bool.true_or, Bool.false_eq_true, if_false, if_true, State.readGlobal, hreach,
    State.homeRead, hline, writes_whole hnib, List.append_nil, Bool.or_false]
  rfl

/-- A piece read from a slice. -/
theorem gather_slice {s : State} {e : EngOp} {p : Piece} (hkind : e.kind = .cpyBOut) (hst : e.st = .active) (hnib : p.nib = none)
    (hzero : p.zero = false) : s.gather e [p] = .ok s (byteRun p.dst p.len (s.spRead e.block (s.engCore e) p.src p.len))
      (bndMax (s.spSide e.block (s.engCore e) p.src).1 0) (s.spSide e.block (s.engCore e) p.src).2 := by
  have hcol : e.kind.collective = false := by rw [hkind]; rfl
  have hin : e.kind.inward = false := by rw [hkind]; rfl
  have hdesc : (e.st == .descriptor) = false := by rw [hst]; rfl
  simp only [State.gather, hzero, hcol, hin, hdesc, Bool.false_and, Bool.or_self, Bool.false_eq_true, if_false, State.readSpad,
    writes_whole hnib, List.append_nil, Bool.or_false]

/-! ## From a line to a slice -/

/-- The keys of consecutive bytes of a slice. -/
theorem spKey_run (b j off n k : Nat) : (∃ i, i < n ∧ k = spKey b j (off + i)) ↔ spKey b j off ≤ k ∧ k < spKey b j off + n := by
  constructor
  · rintro ⟨i, hi, rfl⟩
    rw [spKey_add]
    omega
  · rintro ⟨hlo, hhi⟩
    exact ⟨k - spKey b j off, by omega, by rw [spKey_add]; omega⟩

/-- A byte of a run cut from a list. -/
theorem getD_run (bs : List Byte) (off : Nat) {n i : Nat} (h : i < n) : ((bs.drop off).take n).getD i 0 = bs.getD (off + i) 0 := by
  rw [List.getD_eq_getElem?_getD, List.getElem?_take, if_pos h, List.getElem?_drop, List.getD_eq_getElem?_getD]

theorem tryXfer_in {s : State} {e : EngOp} {part key : Nat} {p : Piece} {h : HLine} (hkind : e.kind = .cpyBIn) (hst : e.st = .active)
    (hpieces : (e.xfer part).pieces = [p]) (hnib : p.nib = none) (hzero : p.zero = false) (hline : s.hline key = some h)
    (hreach : s.reach e p.src .read = .line s key) :
    s.tryXfer e part = .ok ((s.served e.vf e.who.dom (keyUnit key) p.len).spadBits e.block ((s.served e.vf e.who.dom (keyUnit key) p.len).engCore e)
      (byteRun p.dst p.len ((h.line.data.drop (p.src % 128)).take p.len)) (bndMax (h.line.bnd (secOf p.src)) 0)
      (h.line.poisoned (secOf p.src))) [] 0 false := by
  have hdesc : (e.st == .descriptor) = false := by rw [hst]; rfl
  rw [State.tryXfer, hpieces, gather_line hkind hnib hzero hline hreach]
  dsimp only
  rw [State.deliverXfer, hdesc, if_neg Bool.false_ne_true, State.engDest, hkind]

/-- A piece of `cpy.b` into a slice. -/
theorem copy_in {s : State} {op part key : Nat} {e : EngOp} {p : Piece} {h : HLine} (hop : s.op? op = none) (he : s.eng? op = some e)
    (hopen : e.open_ part = true) (hst : e.st = .active) (hpieces : (e.xfer part).pieces = [p]) (hnib : p.nib = none) (hzero : p.zero = false)
    (hlen : 0 < p.len) (hline : s.hline key = some h) (hheld : s.xferHeld e op part = false) (hlost : s.xferLost e part = false)
    (hdst : p.dst / 32 = (p.dst + p.len - 1) / 32) (hkind : e.kind = .cpyBIn) (hreach : s.reach e p.src .read = .line s key) :
    ∃ t, exec (.homeRequest op part) s = .next t ∧ (∃ x, t.eng? op = some x ∧ (x.xfer part).done = true) ∧ t.home = s.home ∧
      (∀ a, t.peek a = s.peek a) ∧ engsKept s t op ∧
      (∀ k, Map.get t.scratch 0 k =
        if ∃ i, i < p.len ∧ k = spKey e.block (s.engCore e) (p.dst + i) then
          h.line.data.getD (p.src % 128 + (k - spKey e.block (s.engCore e) p.dst)) 0
        else Map.get s.scratch 0 k) ∧
      (t.spSide e.block (s.engCore e) p.dst).1 =
        boundAfter (s.spSide e.block (s.engCore e) p.dst).1 (bndMax (h.line.bnd (secOf p.src)) 0) (p.len = 32) := by
  have hcol : e.kind.collective = false := by rw [hkind]; rfl
  have hexec := homeRequest_xfer hop he hcol part
  have htry := tryXfer_in hkind hst hpieces hnib hzero hline hreach
  have htraffic : s.sameButTraffic (s.served e.vf e.who.dom (keyUnit key) p.len) := sameButTraffic_served _ _ _ _ _
  have hcore : (s.served e.vf e.who.dom (keyUnit key) p.len).engCore e = s.engCore e := by
    rw [htraffic]
    rfl
  rw [hcore] at htry
  obtain ⟨u, hu, hsame, hbytes, hside⟩ := spadBits_run (s := s.served e.vf e.who.dom (keyUnit key) p.len) hlen hdst e.block (s.engCore e)
    ((h.line.data.drop (p.src % 128)).take p.len) (bndMax (h.line.bnd (secOf p.src)) 0) (h.line.poisoned (secOf p.src))
  rw [hu] at htry
  rw [serveXfer_done he hopen hheld hlost htry] at hexec
  generalize s.served e.vf e.who.dom (keyUnit key) p.len = w at htraffic hsame hbytes hside
  have hrest : u.engs = s.engs ∧ u.ops = s.ops ∧ u.warps = s.warps ∧ u.time = s.time ∧ u.home = s.home ∧ u.mem = s.mem := by
    rw [hsame, htraffic]
    exact ⟨rfl, rfl, rfl, rfl, rfl, rfl⟩
  obtain ⟨hengs, hops, hwarps, htime, hhome, hmem⟩ := hrest
  refine ⟨_, hexec, ⟨_, by rw [eng?_setEng, if_pos rfl], xfer_doneXfer hopen⟩, hhome, fun a => congrArg (fun m => Map.get m 0 a) hmem,
    engsKept_setEng hengs hops hwarps htime _ _, fun k => ?_, ?_⟩
  · have hold : Map.get w.scratch 0 k = Map.get s.scratch 0 k := by rw [htraffic]
    have hscratch := hbytes k
    rw [hold] at hscratch
    refine hscratch.trans (ite_congr (propext (spKey_run _ _ _ _ _).symm) (fun hin => ?_) fun _ => rfl)
    obtain ⟨i, hi, rfl⟩ := hin
    rw [spKey_add, Nat.add_sub_cancel_left]
    exact getD_run _ _ hi
  · have hold : w.spSide e.block (s.engCore e) p.dst = s.spSide e.block (s.engCore e) p.dst := by
      rw [htraffic]
      rfl
    rw [← hold]
    exact hside

/-! ## From a slice to a line -/

theorem tryXfer_out {s : State} {e : EngOp} {part key : Nat} {p : Piece} (hkind : e.kind = .cpyBOut) (hst : e.st = .active)
    (hpieces : (e.xfer part).pieces = [p]) (hnib : p.nib = none) (hzero : p.zero = false) (hlen : 0 < p.len)
    (hdst : p.dst / 32 = (p.dst + p.len - 1) / 32) (hreach : s.reach e p.dst .write = .line s key) :
    ∃ u, s.sameButTraffic u ∧ s.tryXfer e part = .ok (u.homeBits key p.dst
      (byteRun p.dst p.len (s.spRead e.block (s.engCore e) p.src p.len)) (bndMax (s.spSide e.block (s.engCore e) p.src).1 0)
      (decide (p.len = 32)) (s.spSide e.block (s.engCore e) p.src).2) [] 0 false := by
  have hdesc : (e.st == .descriptor) = false := by rw [hst]; rfl
  refine ⟨_, sameButTraffic_served s e.vf e.who.dom (keyUnit key) (byteRun p.dst p.len (s.spRead e.block (s.engCore e) p.src p.len)).length, ?_⟩
  rw [State.tryXfer, hpieces, gather_slice hkind hst hnib hzero]
  dsimp only
  rw [State.deliverXfer, hdesc, if_neg Bool.false_ne_true, hkind]
  dsimp only
  rw [State.globalBits, head_byteRun hlen, hreach]
  dsimp only
  rw [coversBits_byteRun hlen hdst]

/-- A home line after bits of a sector were written. -/
def HLine.bitsWritten (h : HLine) (key va : Nat) (ws : BitWrites) (b : Bnd) (cover poison : Bool) : HLine :=
  { h with line := h.line.putBits va ws b cover poison, dirty := h.dirty ||| (1#4 <<< secOf va), pool := if keyUnit key = 8 then .owned else h.pool }

theorem lineNow_homeBits {s : State} {key : Nat} {h : HLine} (hway : s.noWaypoint) (hline : s.hline key = some h) (va : Nat) (ws : BitWrites)
    (b : Bnd) (cover poison : Bool) : s.lineNow (s.homeBits key va ws b cover poison) key (h.bitsWritten key va ws b cover poison) := by
  have hstore : s.homeBits key va ws b cover poison = s.setHline key (some (h.bitsWritten key va ws b cover poison)) := by
    rw [State.homeBits, hline]
    dsimp only
    rw [State.copyLine, copyGranules_none hway]
    rfl
  rw [hstore]
  exact lineNow_setHline _ _ _

/-- The bound of a sector after bits of it were written on a bounded page (R98). -/
theorem bnd_putBits {c : CLine} (hbnds : c.bnds.length = 4) (hbounded : c.bounded = true) (va : Nat) (ws : BitWrites) (b : Bnd)
    (cover poison : Bool) : (c.putBits va ws b cover poison).bnd (secOf va) = boundAfter (c.bnd (secOf va)) b cover := by
  have hset : secOf va < (c.bnds.set (secOf va) (sectorBnd (c.bnds.getD (secOf va) 0) b cover)).length := by
    rw [List.length_set, hbnds]
    exact secOf_lt va
  have hput : (c.putBits va ws b cover poison).bnds = c.bnds.set (secOf va) (sectorBnd (c.bnds.getD (secOf va) 0) b cover) := if_pos hbounded
  have hsame : (c.putBits va ws b cover poison).bounded = true := hbounded
  rw [CLine.bnd, CLine.bnd, hsame, hbounded, if_pos rfl, if_pos rfl, hput, List.getD_eq_getElem _ _ hset, List.getElem_set_self]
  rfl

/-- A byte of a line after a run of bytes of one sector was written. -/
theorem getD_putBits_run {c : CLine} {va n : Nat} (hlen : c.data.length = 128) (bs : List Byte) (b : Bnd) (cover poison : Bool) {i : Nat} (hi : i < 128) :
    (c.putBits va (byteRun va n bs) b cover poison).data.getD i 0 =
      if va % 128 ≤ i ∧ i < va % 128 + n then bs.getD (i - va % 128) 0 else c.data.getD i 0 := by
  have hwhole : ∀ w ∈ byteRun va n bs, w.2.2 = 0xFF ∧ va / 128 * 128 ≤ w.1 := fun w hw => by
    obtain ⟨hlo, -, hmask⟩ := mem_byteRun hw
    exact ⟨hmask, by omega⟩
  have hput : (c.putBits va (byteRun va n bs) b cover poison).data = applyBits (va / 128 * 128) c.data (byteRun va n bs) := rfl
  rw [hput, getD_applyBits hwhole (by rw [hlen]; exact hi), writtenByte_byteRun]
  have hat : va / 128 * 128 + i - va = i - va % 128 := by omega
  have hiff : (va ≤ va / 128 * 128 + i ∧ va / 128 * 128 + i < va + n) ↔ (va % 128 ≤ i ∧ i < va % 128 + n) := by omega
  exact ite_congr (propext hiff) (fun _ => by rw [hat]) fun _ => rfl

theorem getD_spRead (s : State) (b j off : Nat) {n i : Nat} (h : i < n) : (s.spRead b j off n).getD i 0 = s.spByte b j (off + i) := by
  rw [State.spRead, List.getD_eq_getElem _ _ (by rw [List.length_map, List.length_range]; exact h), List.getElem_map, List.getElem_range]

/-- A piece of `cpy.b` out of a slice. -/
theorem copy_out {s : State} {op part key : Nat} {e : EngOp} {p : Piece} {h : HLine} (hop : s.op? op = none) (he : s.eng? op = some e)
    (hopen : e.open_ part = true) (hst : e.st = .active) (hpieces : (e.xfer part).pieces = [p]) (hnib : p.nib = none) (hzero : p.zero = false)
    (hlen : 0 < p.len) (hline : s.hline key = some h) (hheld : s.xferHeld e op part = false) (hlost : s.xferLost e part = false)
    (hdst : p.dst / 32 = (p.dst + p.len - 1) / 32) (hdata : h.line.data.length = 128) (hbnds : h.line.bnds.length = 4)
    (hkind : e.kind = .cpyBOut) (hreach : s.reach e p.dst .write = .line s key) (hway : s.noWaypoint) :
    ∃ t h', exec (.homeRequest op part) s = .next t ∧ (∃ x, t.eng? op = some x ∧ (x.xfer part).done = true) ∧ t.scratch = s.scratch ∧
      (∀ a, t.peek a = s.peek a) ∧ engsKept s t op ∧ t.hline key = some h' ∧ s.linesKept t key ∧
      h'.dirty = h.dirty ||| (1#4 <<< secOf p.dst) ∧
      (∀ i, i < 128 → h'.line.data.getD i 0 =
        if p.dst % 128 ≤ i ∧ i < p.dst % 128 + p.len then s.spByte e.block (s.engCore e) (p.src + (i - p.dst % 128)) else h.line.data.getD i 0) ∧
      (h.line.bounded = true → h'.line.bnd (secOf p.dst) =
        boundAfter (h.line.bnd (secOf p.dst)) (bndMax (s.spSide e.block (s.engCore e) p.src).1 0) (p.len = 32)) := by
  have hcol : e.kind.collective = false := by rw [hkind]; rfl
  have hexec := homeRequest_xfer hop he hcol part
  obtain ⟨u, htraffic, htry⟩ := tryXfer_out hkind hst hpieces hnib hzero hlen hdst hreach
  rw [serveXfer_done he hopen hheld hlost htry] at hexec
  have hnow := lineNow_homeBits (noWaypoint_traffic htraffic hway) ((hline_traffic htraffic key).trans hline) p.dst
    (byteRun p.dst p.len (s.spRead e.block (s.engCore e) p.src p.len)) (bndMax (s.spSide e.block (s.engCore e) p.src).1 0)
    (decide (p.len = 32)) (s.spSide e.block (s.engCore e) p.src).2
  obtain ⟨heq, hothers, hnew⟩ := hnow
  generalize u.homeBits key p.dst (byteRun p.dst p.len (s.spRead e.block (s.engCore e) p.src p.len))
    (bndMax (s.spSide e.block (s.engCore e) p.src).1 0) (decide (p.len = 32)) (s.spSide e.block (s.engCore e) p.src).2 = v at hexec heq hothers hnew
  have hrest : v.engs = s.engs ∧ v.ops = s.ops ∧ v.warps = s.warps ∧ v.time = s.time ∧ v.scratch = s.scratch ∧ v.mem = s.mem := by
    rw [heq, htraffic]
    exact ⟨rfl, rfl, rfl, rfl, rfl, rfl⟩
  obtain ⟨hengs, hops, hwarps, htime, hscratch, hmem⟩ := hrest
  refine ⟨_, _, hexec, ⟨_, by rw [eng?_setEng, if_pos rfl], xfer_doneXfer hopen⟩, hscratch, fun a => congrArg (fun m => Map.get m 0 a) hmem,
    engsKept_setEng hengs hops hwarps htime _ _, hnew, fun k hk => (hothers k hk).trans (hline_traffic htraffic k), rfl, fun i hi => ?_, fun hb => ?_⟩
  · refine (getD_putBits_run hdata _ _ _ _ hi).trans (ite_congr rfl (fun hin => ?_) fun _ => rfl)
    exact getD_spRead _ _ _ _ (by omega)
  · exact bnd_putBits hbnds hb _ _ _ _ _

/-- Settles O40: a piece is read on one side and written as whole bytes of one sector on the other. -/
theorem copyTransfers : Obligations.CopyTransfers := by
  unfold Obligations.CopyTransfers
  intro s op part key e p h hop he hopen hst hpieces hnib hzero hlen hline hheld hlost _ hdst hdata hbnds j
  exact ⟨copy_in hop he hopen hst hpieces hnib hzero hlen hline hheld hlost hdst,
    copy_out hop he hopen hst hpieces hnib hzero hlen hline hheld hlost hdst hdata hbnds⟩

end Sys2Proof.Machine
end

section
/-! PROOFS. The canonical form of memory (O58, R119): every function of the model that yields a state keeps it. There is one lemma for each,
in the order of the definitions, so that a proof follows its function's branches and names the lemmas of what it calls. -/

namespace Sys2Proof.Machine

/-! ## The form, of a state and of what a function of the model may answer with -/

/-- Memory is in its canonical form. -/
def State.MemWf (s : State) : Prop := Memory.wf s.mem = true

def OptMemWf : Option State → Prop
  | some t => t.MemWf
  | none => True

def OptFstMemWf {α : Type} : Option (State × α) → Prop
  | some p => p.1.MemWf
  | none => True

def Out.MemWf : Out → Prop
  | .next t => t.MemWf
  | _ => True

def Touch.MemWf : Touch → Prop
  | .ok t _ => t.MemWf
  | _ => True

def Fetched.MemWf : Fetched → Prop
  | .ok t _ _ => t.MemWf
  | _ => True

def FetchedWord.MemWf : FetchedWord → Prop
  | .ok t _ => t.MemWf
  | _ => True

def FetchedClause.MemWf : FetchedClause → Prop
  | .ok t _ => t.MemWf
  | _ => True

def Target.MemWf : Target → Prop
  | .header t => t.MemWf
  | _ => True

def Resume.MemWf : Resume → Prop
  | .inside t _ => t.MemWf
  | .header t => t.MemWf
  | _ => True

def HdrClause.MemWf : HdrClause → Prop
  | .ok t _ => t.MemWf
  | _ => True

def Gather.MemWf : Gather → Prop
  | .ok t _ _ _ => t.MemWf
  | _ => True

def Reach.MemWf : Reach → Prop
  | .line t _ => t.MemWf
  | _ => True

def Paged.MemWf : Paged → Prop
  | .group t _ => t.MemWf
  | _ => True

def Table.MemWf : Table → Prop
  | .ok t => t.MemWf
  | _ => True

/-- Every step of a list keeps the form. -/
def StepsMemWf (fs : List (State → Out)) : Prop := ∀ f ∈ fs, ∀ s : State, s.MemWf → Out.MemWf (f s)

/-! ## The state in an answer -/

section
variable {s t : State}

theorem OptMemWf.some {o : Option State} (h : OptMemWf o) (e : o = .some t) : t.MemWf := by
  subst e
  exact h

theorem OptFstMemWf.some {α : Type} {o : Option (State × α)} {p : State × α} (h : OptFstMemWf o) (e : o = .some p) : p.1.MemWf := by
  subst e
  exact h

theorem OptFstMemWf.pair {α : Type} {o : Option (State × α)} {a : α} (h : OptFstMemWf o) (e : o = .some (t, a)) : t.MemWf := by
  subst e
  exact h

theorem State.MemWf.of_fst {α : Type} {p : State × α} {a : α} (h : p.1.MemWf) (e : p = (s, a)) : s.MemWf := by
  subst e
  exact h

theorem Out.MemWf.next {o : Out} (h : o.MemWf) (e : o = .next t) : t.MemWf := by
  subst e
  exact h

theorem Touch.MemWf.ok {x : Touch} {k : Nat} (h : x.MemWf) (e : x = .ok t k) : t.MemWf := by
  subst e
  exact h

theorem Fetched.MemWf.ok {x : Fetched} {bs : List Byte} {p : BitVec 4} (h : x.MemWf) (e : x = .ok t bs p) : t.MemWf := by
  subst e
  exact h

theorem FetchedWord.MemWf.ok {x : FetchedWord} {w : Word} (h : x.MemWf) (e : x = .ok t w) : t.MemWf := by
  subst e
  exact h

theorem FetchedClause.MemWf.ok {x : FetchedClause} {ws : List Word} (h : x.MemWf) (e : x = .ok t ws) : t.MemWf := by
  subst e
  exact h

theorem Target.MemWf.header {x : Target} (h : x.MemWf) (e : x = .header t) : t.MemWf := by
  subst e
  exact h

theorem Resume.MemWf.inside {x : Resume} {c : Clause} (h : x.MemWf) (e : x = .inside t c) : t.MemWf := by
  subst e
  exact h

theorem Resume.MemWf.header {x : Resume} (h : x.MemWf) (e : x = .header t) : t.MemWf := by
  subst e
  exact h

theorem HdrClause.MemWf.ok {x : HdrClause} {c : Clause} (h : x.MemWf) (e : x = .ok t c) : t.MemWf := by
  subst e
  exact h

theorem Gather.MemWf.ok {x : Gather} {ws : BitWrites} {b : Bnd} {p : Bool} (h : x.MemWf) (e : x = .ok t ws b p) : t.MemWf := by
  subst e
  exact h

theorem Reach.MemWf.line {x : Reach} {k : Nat} (h : x.MemWf) (e : x = .line t k) : t.MemWf := by
  subst e
  exact h

theorem Paged.MemWf.group {x : Paged} {k : Nat} (h : x.MemWf) (e : x = .group t k) : t.MemWf := by
  subst e
  exact h

theorem Table.MemWf.ok {x : Table} (h : x.MemWf) (e : x = .ok t) : t.MemWf := by
  subst e
  exact h

theorem State.MemWf.of_firstSome {f : Nat → Option State} (hf : ∀ n, OptMemWf (f n)) {ns : List Nat} (e : firstSome f ns = some t) :
    t.MemWf := by
  induction ns with
  | nil => cases e
  | cons n ns ih =>
    unfold firstSome at e
    split at e
    · next u hu =>
      cases e
      exact (hf n).some hu
    · exact ih e

/-! ## Choices, repetitions and answers built from answers -/

theorem State.MemWf.of_mem (e : t.mem = s.mem) (h : s.MemWf) : t.MemWf := by
  unfold State.MemWf
  rw [e]
  exact h

theorem State.MemWf.withCur {c : Nat} (hs : s.MemWf) : ({ s with cur := c } : State).MemWf := hs

theorem State.MemWf.ite {c : Prop} [Decidable c] (hs : s.MemWf) (ht : t.MemWf) : (if c then s else t).MemWf := by
  split <;> assumption

theorem OptMemWf.ite {c : Prop} [Decidable c] {o o' : Option State} (h : OptMemWf o) (h' : OptMemWf o') :
    OptMemWf (if c then o else o') := by
  split <;> assumption

theorem Out.MemWf.ite {c : Prop} [Decidable c] {o o' : Out} (h : o.MemWf) (h' : o'.MemWf) : (if c then o else o').MemWf := by
  split <;> assumption

theorem State.MemWf.foldl {α : Type} {f : State → α → State} {xs : List α} (hs : s.MemWf) (hf : ∀ s x, s.MemWf → (f s x).MemWf) :
    (xs.foldl f s).MemWf :=
  Laws.wf_foldl f hf xs s hs

theorem OptMemWf.getD {o : Option State} (h : OptMemWf o) (hs : s.MemWf) : (o.getD s).MemWf := by
  cases o with
  | none => exact hs
  | some t => exact h

theorem Out.MemWf.or {o : Out} (h : o.MemWf) (hs : s.MemWf) : (o.or s).MemWf := by
  cases o with
  | next t => exact h
  | _ => exact hs

end

theorem OptMemWf.map {o : Option State} {f : State → State} (h : OptMemWf o) (hf : ∀ s, s.MemWf → (f s).MemWf) : OptMemWf (o.map f) := by
  cases o with
  | none => trivial
  | some t => exact hf t h

theorem OptMemWf.of_map {α : Type} {o : Option α} {f : α → State} (hf : ∀ a, (f a).MemWf) : OptMemWf (o.map f) := by
  cases o with
  | none => trivial
  | some a => exact hf a

theorem OptFstMemWf.map {α : Type} {o : Option (State × α)} {f : State × α → State} (h : OptFstMemWf o)
    (hf : ∀ p, p.1.MemWf → (f p).MemWf) : OptMemWf (o.map f) := by
  cases o with
  | none => trivial
  | some p => exact hf p h

theorem OptFstMemWf.mapFst {α β : Type} {o : Option (State × α)} {f : State × α → State × β} (h : OptFstMemWf o)
    (hf : ∀ p, p.1.MemWf → (f p).1.MemWf) : OptFstMemWf (o.map f) := by
  cases o with
  | none => trivial
  | some p => exact hf p h

/-! ## Lists of steps -/

section
variable {fs gs : List (State → Out)}

theorem StepsMemWf.nil : StepsMemWf [] := fun _ h => absurd h List.not_mem_nil

theorem StepsMemWf.cons {f : State → Out} (hf : ∀ s : State, s.MemWf → Out.MemWf (f s)) (h : StepsMemWf fs) : StepsMemWf (f :: fs) :=
  List.forall_mem_cons.2 ⟨hf, h⟩

theorem StepsMemWf.append (hf : StepsMemWf fs) (hg : StepsMemWf gs) : StepsMemWf (fs ++ gs) := List.forall_mem_append.2 ⟨hf, hg⟩

theorem StepsMemWf.map {α : Type} {g : α → State → Out} {xs : List α} (h : ∀ a, ∀ s : State, s.MemWf → Out.MemWf (g a s)) :
    StepsMemWf (xs.map g) :=
  List.forall_mem_map.2 fun a _ => h a

theorem StepsMemWf.flatMap {α : Type} {g : α → List (State → Out)} {xs : List α} (h : ∀ a, StepsMemWf (g a)) :
    StepsMemWf (xs.flatMap g) := by
  intro f hf
  obtain ⟨a, -, ha⟩ := List.mem_flatMap.1 hf
  exact h a f ha

theorem StepsMemWf.ite {c : Prop} [Decidable c] (hf : StepsMemWf fs) (hg : StepsMemWf gs) : StepsMemWf (if c then fs else gs) := by
  split <;> assumption

theorem StepsMemWf.take {n : Nat} (h : StepsMemWf fs) : StepsMemWf (fs.take n) := fun f hf => h f (List.mem_of_mem_take hf)

theorem StepsMemWf.firstChange {f : State → Out} {s : State} (h : StepsMemWf fs) (e : firstChange s fs = some f) :
    ∀ t : State, t.MemWf → Out.MemWf (f t) := by
  induction fs with
  | nil => cases e
  | cons g gs ih =>
    unfold Machine.firstChange at e
    split at e
    · exact ih (fun f hf => h f (List.mem_cons_of_mem _ hf)) e
    · cases e
      exact h f List.mem_cons_self

end

section

variable {s : State}

/-! ## Warps and threads -/

theorem State.MemWf.setWarp {k : Nat} {w : Warp} (hs : s.MemWf) : (s.setWarp k w).MemWf := hs

theorem State.MemWf.updWarp {k : Nat} {f : Warp → Warp} (hs : s.MemWf) : (s.updWarp k f).MemWf := hs.setWarp

theorem State.MemWf.updCw {f : Warp → Warp} (hs : s.MemWf) : (s.updCw f).MemWf := hs.updWarp

theorem State.MemWf.updCore {c : Nat} {f : Core → Core} (hs : s.MemWf) : (s.updCore c f).MemWf := hs

theorem State.MemWf.updBlock {b : Nat} {f : Block → Block} (hs : s.MemWf) : (s.updBlock b f).MemWf := hs

theorem State.MemWf.updCluster {c : Nat} {f : Cluster → Cluster} (hs : s.MemWf) : (s.updCluster c f).MemWf := hs

theorem State.MemWf.setLaunch {l : Nat} {x : Launch} (hs : s.MemWf) : (s.setLaunch l x).MemWf := hs

theorem State.MemWf.updLaunch {l : Nat} {f : Launch → Launch} (hs : s.MemWf) : (s.updLaunch l f).MemWf := by
  unfold State.updLaunch
  split
  · exact hs.setLaunch
  · exact hs

theorem State.MemWf.setOp {o : Nat} {x : MemOp} (hs : s.MemWf) : (s.setOp o x).MemWf := hs

theorem State.MemWf.dropOp {o : Nat} (hs : s.MemWf) : (s.dropOp o).MemWf := hs

theorem State.MemWf.setEng {o : Nat} {x : EngOp} (hs : s.MemWf) : (s.setEng o x).MemWf := hs

theorem State.MemWf.dropEng {o : Nat} (hs : s.MemWf) : (s.dropEng o).MemWf := hs

theorem State.MemWf.dropMat {o : Nat} (hs : s.MemWf) : (s.dropMat o).MemWf := hs

/-! ## Physical memory (R119, R345) -/

theorem State.MemWf.pokes {pa : Nat} {n : List Byte} (hs : s.MemWf) : (s.pokes pa n).MemWf := Laws.wf_pokes _ _ _ hs

theorem State.MemWf.hubPokes {pa : Nat} {bs : List Byte} (hs : s.MemWf) : (s.hubPokes pa bs).MemWf := Laws.wf_hubPokes _ _ _ hs

/-! ## Partitions and the bytes that they move (R374, R375, R378) -/

theorem State.MemWf.moved {vf unit n : Nat} (hs : s.MemWf) : (s.moved vf unit n).MemWf := hs

theorem State.MemWf.bridged {vf dom home n : Nat} (hs : s.MemWf) : (s.bridged vf dom home n).MemWf := hs.ite hs.moved

theorem State.MemWf.served {vf dom unit n : Nat} (hs : s.MemWf) : (s.served vf dom unit n).MemWf := hs.bridged.moved.ite hs.bridged

/-! ## Numbers of operations, ages and time -/

theorem State.MemWf.bump (hs : s.MemWf) : s.bump.MemWf := hs

theorem State.MemWf.send {m : Msg} (hs : s.MemWf) : (s.send m).MemWf := hs

/-! ## Host events (R385) -/

theorem State.MemWf.updHub {f : Hub → Hub} (hs : s.MemWf) : (s.updHub f).MemWf := hs

theorem State.MemWf.setMsixWord {vf i : Nat} {w : Word} (hs : s.MemWf) : (s.setMsixWord vf i w).MemWf := hs.updHub

theorem State.MemWf.msix {vf vec : Nat} (hs : s.MemWf) : (s.msix vf vec).MemWf := hs.updHub.ite hs.send

theorem State.MemWf.raiseEvent {vf bit : Nat} (hs : s.MemWf) : (s.raiseEvent vf bit).MemWf := Laws.wf_raiseEvent _ _ _ hs

theorem State.MemWf.setPq {vf stage : Nat} {q : PageQueue} (hs : s.MemWf) : (s.setPq vf stage q).MemWf := hs

/-! ## The event log -/

theorem State.MemWf.logOne {keep : Bool} {type src time : Nat} {data : List Byte}
    (hs : s.MemWf) : (s.logOne keep type src time data).MemWf :=
  Laws.wf_logOne _ _ _ _ _ _ hs

theorem State.MemWf.logGroup {time : Nat} {rs : List (Nat × Nat × List Byte)} (hs : s.MemWf) : (s.logGroup time rs).MemWf :=
  ((hs.foldl fun _ _ h => h.logOne).raiseEvent).ite (hs.foldl fun _ _ h => h.logOne)

theorem State.MemWf.log {type src : Nat} {fs : List (Nat × Nat × Nat)} (hs : s.MemWf) : (s.log type src fs).MemWf := Laws.wf_log _ _ _ _ hs

/-! ## The bytes of the tables that a walk reads (R378) -/

theorem State.MemWf.walkedBy {unit vf asid va : Nat} (hs : s.MemWf) : (s.walkedBy unit vf asid va).MemWf :=
  hs.foldl fun _ _ h => h.moved.bridged

theorem State.MemWf.tlbPut {t : TlbEntry} (hs : s.MemWf) : (s.tlbPut t).MemWf := hs

/-! ## Homes -/

theorem State.MemWf.setHline {key : Nat} {h : Option HLine} (hs : s.MemWf) : (s.setHline key h).MemWf := hs

/-! ## Leaving a home, and room in the caches (R9 to R11, R111, R146, R354) -/

theorem State.MemWf.setL1 {core vf asid va : Nat} {c : Option CLine} (hs : s.MemWf) : (s.setL1 core vf asid va c).MemWf := hs

theorem State.MemWf.writeBack {key : Nat} (hs : s.MemWf) : (s.writeBack key).MemWf := Laws.wf_writeBack _ _ hs

theorem State.MemWf.dropSharers {key : Nat} (hs : s.MemWf) : (s.dropSharers key).MemWf := by
  unfold State.dropSharers
  split
  · exact hs.foldl fun _ _ h => h.setL1
  · exact hs

theorem State.MemWf.poolDrop {key : Nat} (hs : s.MemWf) : (s.poolDrop key).MemWf := hs.ite hs.dropSharers.setHline

theorem State.MemWf.promote {key core : Nat} (hs : s.MemWf) : (s.promote key core).2.MemWf := by
  unfold State.promote
  split <;> exact hs

theorem State.MemWf.evictHome {key : Nat} (hs : s.MemWf) : (s.evictHome key).MemWf := by
  unfold State.evictHome
  split
  · exact hs.promote
  · exact hs.writeBack.poolDrop

theorem State.MemWf.roomHome {key : Nat} (hs : s.MemWf) : OptMemWf (s.roomHome key) := by
  unfold State.roomHome
  dsimp only
  split
  · exact hs
  · exact .of_map fun _ => hs.evictHome

theorem State.MemWf.dropAlias {key pa : Nat} (hs : s.MemWf) : (s.dropAlias key pa).MemWf :=
  (hs.foldl fun _ _ h => h.writeBack.poolDrop).ite hs

theorem State.MemWf.flushPa {spa : Nat} (hs : s.MemWf) : (s.flushPa spa).MemWf := hs.foldl fun _ _ h => h.writeBack.poolDrop

theorem State.MemWf.hubWrite {pa : Nat} {bs : List Byte} (hs : s.MemWf) : (s.hubWrite pa bs).MemWf :=
  (hs.foldl fun _ _ h => h.flushPa).hubPokes

theorem State.MemWf.putHome {key : Nat} {h : HLine} (hs : s.MemWf) : (s.putHome key h).MemWf := hs

theorem State.MemWf.shadowPa {w : Who} {r : Region} {va : Nat} : ∀ x, s.shadowPa w r va = .error x → x.MemWf := by
  intro x e
  unfold State.shadowPa at e
  dsimp only at e
  repeat' split at e
  all_goals cases e <;> trivial

theorem State.MemWf.enterHome {key pa va : Nat} {spa : Option Nat} {t : TlbEntry} (hs : s.MemWf) : (s.enterHome key pa va spa t).MemWf := by
  unfold State.enterHome
  dsimp only
  split
  · trivial
  split
  · refine ((State.MemWf.dropAlias ?_).roomHome.some ‹_›).putHome
    split
    · exact hs.flushPa
    · exact hs
  · trivial

theorem State.MemWf.fill {w : Who} {r : Region} {unit va : Nat} {need : Need} {t : TlbEntry}
    (hs : s.MemWf) : (s.fill w r unit va need t).MemWf := by
  unfold State.fill
  dsimp only
  split
  · trivial
  split
  · trivial
  split
  · trivial
  split
  · trivial
  split
  · exact hs.enterHome
  split
  · exact hs.enterHome
  · exact State.MemWf.shadowPa _ ‹_›

theorem State.MemWf.touch {w : Who} {va : Nat} {need : Need} (hs : s.MemWf) : (s.touch w va need).MemWf := by
  unfold State.touch
  dsimp only
  split
  · trivial
  split
  · trivial
  split
  · trivial
  split
  · split
    · trivial
    split
    · exact hs
    split
    · trivial
    split
    · exact hs.setHline
    · trivial
  split
  · trivial
  · exact hs.fill

/-! ## Partitions and their save pools (R374, R341, R435) -/

theorem State.MemWf.cleanPage {page : Nat} (hs : s.MemWf) : (s.cleanPage page).MemWf := hs.foldl fun _ _ h => h.writeBack

theorem State.MemWf.loseWaypoint {lid : Nat} (hs : s.MemWf) : (s.loseWaypoint lid).MemWf := by
  unfold State.loseWaypoint
  split
  · exact hs
  · exact hs.log

theorem State.MemWf.copyGranules {vf asid va pa : Nat} {spa : Option Nat} (hs : s.MemWf) : (s.copyGranules vf asid va pa spa).MemWf := by
  refine hs.foldl fun _ _ h => ?_
  dsimp only
  split
  · split
    · exact h.cleanPage
    · exact h.cleanPage.loseWaypoint
  · exact h

theorem State.MemWf.copyLine {key va : Nat} {h : HLine} (hs : s.MemWf) : (s.copyLine key va h).MemWf := hs.copyGranules

theorem State.MemWf.homeStore {key va : Nat} {ws : List (Nat × List Byte)} {b : Bnd} (hs : s.MemWf) : (s.homeStore key va ws b).MemWf := by
  unfold State.homeStore
  split
  · exact hs.copyLine.setHline
  · exact hs

/-! ## Writes of bits: nibbles of copies and of `mat.st` (R280, R292) -/

theorem State.MemWf.homeBits {key va : Nat} {ws : BitWrites} {b : Bnd} {cover poison : Bool}
    (hs : s.MemWf) : (s.homeBits key va ws b cover poison).MemWf := by
  unfold State.homeBits
  split
  · exact hs.copyLine.setHline
  · exact hs

theorem State.MemWf.pokeBits {ws : BitWrites} (hs : s.MemWf) : (s.pokeBits ws).MemWf := Laws.wf_pokeBits _ _ hs

/-! ## Lines that no cache below L1 holds (R116, R345) -/

theorem State.MemWf.portBnd {p : PortAt} {b : Bnd} {cover : Bool} (hs : s.MemWf) : (s.portBnd p b cover).MemWf := by
  unfold State.portBnd
  split
  · exact hs.hubWrite
  · exact hs

theorem State.MemWf.portBits {vf asid va : Nat} {p : PortAt} {ws : BitWrites} {b : Bnd} {cover poison : Bool}
    (hs : s.MemWf) : (s.portBits vf asid va p ws b cover poison).MemWf :=
  .ite (.of_mem rfl (.portBnd (.pokeBits (.copyGranules (.moved hs))))) (.portBnd (.pokeBits (.copyGranules (.moved hs))))

theorem State.MemWf.portStore {vf asid va : Nat} {p : PortAt} {bs : List Byte} {b : Bnd} {cover : Bool}
    (hs : s.MemWf) : (s.portStore vf asid va p bs b cover).MemWf :=
  hs.portBits

theorem State.MemWf.homePoison {key va : Nat} (hs : s.MemWf) : (s.homePoison key va).MemWf := by
  unfold State.homePoison
  split
  · exact hs.setHline
  · exact hs

/-! ## L1 and the instruction caches (R107 to R109) -/

theorem State.MemWf.dropL1 {core : Nat} (hs : s.MemWf) : (s.dropL1 core).MemWf := hs

theorem State.MemWf.dropL1Range {core vf asid lo hi : Nat} (hs : s.MemWf) : (s.dropL1Range core vf asid lo hi).MemWf := hs

theorem State.MemWf.dropIRange {core vf asid lo hi : Nat} (hs : s.MemWf) : (s.dropIRange core vf asid lo hi).MemWf := hs

theorem State.MemWf.l1Store {core vf asid va : Nat} {ws : List (Nat × List Byte)} {b : Bnd}
    (hs : s.MemWf) : (s.l1Store core vf asid va ws b).MemWf := by
  unfold State.l1Store
  split
  · exact hs.setL1
  · exact hs

theorem State.MemWf.l1Bits {core vf asid va : Nat} {ws : BitWrites} {b : Bnd} {cover : Bool}
    (hs : s.MemWf) : (s.l1Bits core vf asid va ws b cover).MemWf := by
  unfold State.l1Bits
  split
  · exact hs.setL1
  · exact hs

theorem State.MemWf.addSharer {key core : Nat} (hs : s.MemWf) : (s.addSharer key core).MemWf := by
  unfold State.addSharer
  split
  · split
    · exact hs.setHline
    · exact hs
  · exact hs

/-! ## Reads and writes of the command processors (R325, R328, R329) -/

theorem State.MemWf.touchCp {vf asid va : Nat} {need : Need} {n : Nat} (hs : s.MemWf) : (s.touchCp vf asid va need n).MemWf := by
  induction n generalizing s with
  | zero => trivial
  | succ n ih =>
    unfold State.touchCp
    split
    · split
      · exact ih hs.walkedBy.tlbPut
      · trivial
    · exact hs.touch

theorem State.MemWf.cpReadLine {vf asid va n : Nat} (hs : s.MemWf) : OptFstMemWf (s.cpReadLine vf asid va n) := by
  unfold State.cpReadLine
  split
  · next ht =>
    dsimp only
    split
    · trivial
    · exact (hs.touchCp.ok ht).served
  · split
    · trivial
    · exact hs.moved
  · trivial

theorem State.MemWf.cpPa {vf asid va : Nat} {write : Bool} (hs : s.MemWf) : OptFstMemWf (s.cpPa vf asid va write) := by
  unfold State.cpPa
  dsimp only
  split
  · split
    · split
      · trivial
      · exact hs.walkedBy.moved
    split
    · trivial
    · exact hs.walkedBy.moved
  · trivial

theorem State.MemWf.cpReadRaw {vf asid va n : Nat} (hs : s.MemWf) : OptFstMemWf (s.cpReadRaw vf asid va n) := by
  induction n generalizing s va with
  | zero => exact hs
  | succ n ih =>
    unfold State.cpReadRaw
    split
    · trivial
    next ht =>
    split
    · trivial
    · exact (ih (hs.cpPa.pair ht)).mapFst fun _ h => h

theorem State.MemWf.cpRead {vf asid va n : Nat} (hs : s.MemWf) : OptFstMemWf (s.cpRead vf asid va n) := by
  induction n generalizing s va with
  | zero => exact hs
  | succ n ih =>
    unfold State.cpRead
    split
    · trivial
    next ht =>
    split
    · trivial
    next hu => exact (ih (hs.cpReadLine.pair ht)).pair hu

theorem State.MemWf.cpWrite {vf asid va : Nat} {bs : List Byte} (hs : s.MemWf) : OptMemWf (s.cpWrite vf asid va bs) := by
  unfold State.cpWrite
  split
  · exact ((hs.touchCp.ok ‹_›).served).homeStore
  · split
    · trivial
    · exact hs.portStore
  · trivial

theorem State.MemWf.cpWriteRaw {vf asid va : Nat} {bs : List Byte} (hs : s.MemWf) : OptMemWf (s.cpWriteRaw vf asid va bs) :=
  hs.cpPa.map fun _ h => h.pokes

/-! ## Placement (R332, R333) -/

theorem State.MemWf.setSplit {core : Nat} (hs : s.MemWf) : (s.setSplit core).MemWf := hs.updCore.dropL1.ite hs

theorem State.MemWf.seat {slot : Nat} {w : Warp} {act : Bool} (hs : s.MemWf) : (s.seat slot w act).MemWf := hs.bump

theorem State.MemWf.seatWarps {l : Launch} {cores : List Nat} {mk : Nat → Nat → Nat → Warp} {n : List Nat}
    (hs : s.MemWf) : (s.seatWarps l cores mk n).MemWf := by
  induction n generalizing s with
  | nil => exact hs
  | cons x xs ih => exact ih (.ite (.seat (.seat hs)) (.seat hs))

theorem State.MemWf.placeBlock {l : Launch} {lid cid bid bidx group : Nat} {xb : Nat → Nat} {ok : Nat → Nat → Bool} {bars :
    Map Barrier} {mk : Nat → Nat → Nat → Warp} (hs : s.MemWf) :
    OptMemWf (s.placeBlock l lid cid bid bidx group xb ok bars mk) := by
  unfold State.placeBlock
  dsimp only
  split
  · trivial
  · exact .seatWarps (.foldl (.foldl hs fun _ _ h => .setSplit h) fun _ _ h => .dropL1 h)

theorem State.MemWf.placeNew {l : Launch} {lid cid group n : Nat} (hs : s.MemWf) : OptMemWf (s.placeNew l lid cid group n) := by
  induction n with
  | zero => exact hs
  | succ n ih =>
    unfold State.placeNew
    split
    · trivial
    next t ht =>
    have ht' : t.MemWf := ih.some ht
    have h : ({ t with nextId := t.nextId + 1 } : State).MemWf := ht'
    dsimp only
    split
    · trivial
    · exact (h.placeBlock.some ‹_›).updCluster

theorem State.MemWf.placeCluster {l : Launch} {lid number group : Nat} (hs : s.MemWf) : OptMemWf (s.placeCluster l lid number group) := by
  unfold State.placeCluster
  split
  · trivial
  · exact State.MemWf.placeNew hs

/-! ## Placing a saved cluster again (R342, R264) -/

theorem State.MemWf.restoreCore {bid : Nat} {sb : SavedBlock} {core j : Nat} (hs : s.MemWf) : (s.restoreCore bid sb core j).MemWf :=
  hs.updCore.dropL1

theorem State.MemWf.xRequeue {slot : Nat} (hs : s.MemWf) : (s.xRequeue slot).MemWf := hs

theorem State.MemWf.resumeBlock {l : Launch} {group bid : Nat} {sb : SavedBlock}
    (hs : s.MemWf) : OptMemWf (s.resumeBlock l group bid sb) := by
  unfold State.resumeBlock
  dsimp only
  split
  · trivial
  · exact (((hs.placeBlock.some ‹_›).updBlock).foldl fun _ _ h => h.restoreCore).foldl fun _ _ h => h.xRequeue

theorem State.MemWf.resumeBlocks {l : Launch} {group : Nat} {n : List (Nat × SavedBlock)}
    (hs : s.MemWf) : OptMemWf (s.resumeBlocks l group n) := by
  induction n generalizing s with
  | nil => exact hs
  | cons x xs ih =>
    unfold State.resumeBlocks
    split
    · trivial
    · exact ih (hs.resumeBlock.some ‹_›)

theorem State.MemWf.resumeCluster {l : Launch} {cid group : Nat} (hs : s.MemWf) : OptMemWf (s.resumeCluster l cid group) := by
  unfold State.resumeCluster
  split
  · trivial
  · exact hs.resumeBlocks.map fun _ h => h.updCluster

/-! ## Dispatch (R331, R376) -/

/-- The end of the list. (The equations of `resumeAll` and `placeAll` are stated by hand: the group order, a list of 48, is kept opaque, or
Lean evaluates it.) -/
theorem State.resumeAll_nil {lid : Nat} {l : Launch} : s.resumeAll lid l [] = (s, true) := by
  generalize hF : @State.resumeAll = F
  delta State.resumeAll State.resumeAll._f at hF
  generalize @State.groupOrder = order at hF ⊢
  subst hF
  rfl

theorem State.resumeAll_cons {lid : Nat} {l : Launch} {c : Nat} {cs : List Nat} :
    s.resumeAll lid l (c :: cs) = match firstSome (s.resumeCluster l c) s.groupOrder with
      | some t => (t.updLaunch lid fun x => if x.started then x else { x with placedAt := t.time }).resumeAll lid l cs
      | none => (s, false) := by
  generalize hF : @State.resumeAll = F
  delta State.resumeAll State.resumeAll._f at hF
  generalize @State.groupOrder = order at hF ⊢
  subst hF
  rfl


theorem State.MemWf.resumeAll {lid : Nat} {l : Launch} {n : List Nat} (hs : s.MemWf) : (s.resumeAll lid l n).1.MemWf := by
  induction n generalizing s with
  | nil =>
    rw [State.resumeAll_nil]
    exact hs
  | cons x xs ih =>
    rw [State.resumeAll_cons]
    split
    · exact ih (State.MemWf.of_firstSome (fun _ => hs.resumeCluster) ‹_›).updLaunch
    · exact hs

/-- The number of the cluster that is placed next. -/
def State.nextNumber (s : State) (lid : Nat) (l : Launch) : Nat := match s.launch? lid with
  | some x => x.nextCl
  | none => l.grid

theorem State.placeAll_zero {lid : Nat} {l : Launch} : s.placeAll lid l 0 = (s, true) := by
  generalize hF : @State.placeAll = F
  delta State.placeAll State.placeAll._f at hF
  generalize @State.groupOrder = order at hF ⊢
  subst hF
  rfl

theorem State.placeAll_succ {lid : Nat} {l : Launch} {n : Nat} :
    s.placeAll lid l (n + 1) = if l.grid ≤ s.nextNumber lid l then (s, true)
      else match firstSome (s.placeCluster l lid (s.nextNumber lid l)) s.groupOrder with
      | some t => (t.updLaunch lid fun x =>
          { x with nextCl := x.nextCl + 1, started := x.started || !x.gang, placedAt := t.time }).placeAll lid l n
      | none => (s, false) := by
  generalize hF : @State.placeAll = F
  delta State.placeAll State.placeAll._f at hF
  generalize @State.groupOrder = order at hF ⊢
  subst hF
  rfl


theorem State.MemWf.placeAll {lid : Nat} {l : Launch} {n : Nat} (hs : s.MemWf) : (s.placeAll lid l n).1.MemWf := by
  induction n generalizing s with
  | zero =>
    rw [State.placeAll_zero]
    exact hs
  | succ n ih =>
    rw [State.placeAll_succ]
    split
    · exact hs
    split
    · exact ih (State.MemWf.of_firstSome (fun _ => hs.placeCluster) ‹_›).updLaunch
    · exact hs

theorem State.MemWf.dispatchOne {lid : Nat} {l : Launch} (hs : s.MemWf) : (s.dispatchOne lid l).1.MemWf := by
  unfold State.dispatchOne
  split
  · exact hs.ite (hs.resumeAll.of_fst ‹_›)
  split
  · exact ((hs.resumeAll.of_fst ‹_›).placeAll).of_fst ‹_›
  · exact hs.ite (((hs.resumeAll.of_fst ‹_›).placeAll).of_fst ‹_›)

theorem State.MemWf.dispatchList {n : List (Nat × Launch)} {m : List (Nat × Nat)} (hs : s.MemWf) : (s.dispatchList n m).MemWf := by
  induction n generalizing s m with
  | nil => exact hs
  | cons x xs ih =>
    unfold State.dispatchList
    split
    · exact ih hs
    · exact ih hs.dispatchOne

/-! ## Choosing what to pre-empt (R340) -/

theorem State.MemWf.askLeave {cs : List Nat} (hs : s.MemWf) : (s.askLeave cs).MemWf := hs.foldl fun _ _ h => h.updCluster

theorem State.MemWf.pickVictim {n : List (Nat × Launch)} (hs : s.MemWf) : OptMemWf (s.pickVictim n) := by
  induction n generalizing s with
  | nil => trivial
  | cons x xs ih =>
    unfold State.pickVictim
    dsimp only
    split
    · exact ih hs
    split
    · exact hs.askLeave
    split
    · exact hs.askLeave
    · exact ih hs

theorem State.MemWf.roomFor {n : List (Nat × Launch)} (hs : s.MemWf) : (s.roomFor n).MemWf := by
  induction n generalizing s with
  | nil => exact hs
  | cons x xs ih =>
    unfold State.roomFor
    split
    · exact hs.pickVictim.some ‹_›
    · exact hs.ite (ih hs)

theorem State.MemWf.makeRoom (hs : s.MemWf) : s.makeRoom.MemWf := hs.foldl fun _ _ h => h.ite h.roomFor

theorem State.MemWf.askLate (hs : s.MemWf) : s.askLate.MemWf := hs.foldl fun _ _ h => h.askLeave

theorem State.MemWf.dispatch (hs : s.MemWf) : s.dispatch.MemWf := by
  unfold State.dispatch
  refine State.MemWf.makeRoom ?_
  refine State.MemWf.dispatchList ?_
  refine State.MemWf.askLate ?_
  refine hs.foldl fun _ _ h => ?_
  split
  · exact h.ite h
  · exact h

/-! ## Completion of a launch (R324, R327, R328) -/

theorem State.MemWf.signal {l : Launch} {code : Nat} (hs : s.MemWf) : (s.signal l code).MemWf := by
  unfold State.signal
  split
  · exact hs
  dsimp only
  split
  · exact (hs.cpWriteRaw.ite hs.cpWrite).some ‹_›
  · exact hs

theorem State.MemWf.freeEntry {lid : Nat} {l : Launch} (hs : s.MemWf) : (s.freeEntry lid l).MemWf := hs

theorem State.MemWf.lateSignals (hs : s.MemWf) : s.lateSignals.MemWf := by
  unfold State.lateSignals
  refine hs.updHub.foldl fun _ _ h => ?_
  split
  · exact h
  · exact h.updHub.ite h.signal.freeEntry

theorem State.MemWf.complete {lid code : Nat} (hs : s.MemWf) : (s.complete lid code).MemWf := by
  unfold State.complete
  split
  · exact hs
  extract_lets closed t u v w
  have ht : t.MemWf := .ite hs.updHub hs.signal
  have hv : v.MemWf := State.MemWf.setLaunch ht
  have hw : w.MemWf := .ite hv hv.freeEntry
  exact State.MemWf.ite hw.updHub hw

/-! ## The end of warps, blocks and grids (R49 to R53) -/

theorem State.MemWf.gridCheck {lid : Nat} (hs : s.MemWf) : (s.gridCheck lid).MemWf := by
  unfold State.gridCheck
  split
  · exact hs
  · exact hs.complete.dispatch.ite hs

theorem State.MemWf.freeBlock {bid : Nat} (hs : s.MemWf) : (s.freeBlock bid).MemWf :=
  .foldl (.of_mem rfl (.foldl hs fun _ _ h => .updCore h)) fun _ _ h => .ite h (.updCore h)

theorem State.MemWf.clusterCheck {cid : Nat} (hs : s.MemWf) : (s.clusterCheck cid).MemWf := .ite (.gridCheck (.updLaunch hs)) hs

theorem State.MemWf.blockCheck {bid : Nat} (hs : s.MemWf) : (s.blockCheck bid).MemWf := hs.freeBlock.clusterCheck.dispatch.ite hs

theorem State.MemWf.reap {uid : Nat} (hs : s.MemWf) : (s.reap uid).MemWf := by
  unfold State.reap
  split
  · exact hs
  split
  · exact hs
  · exact hs.updCore.blockCheck

theorem State.MemWf.endWarp {slot : Nat} (hs : s.MemWf) : (s.endWarp slot).MemWf := by
  unfold State.endWarp
  extract_lets w s1 s2 s3 s4 s5
  have h1 : s1.MemWf := .ite hs.updLaunch hs
  have h2 : s2.MemWf := .ite h1.updCore h1.updCore
  exact (State.MemWf.blockCheck (s := s5) h2).dispatch

/-! ## Abort (R395, R437, R448, R451) -/

theorem State.MemWf.endBlocks {lid : Nat} (hs : s.MemWf) : (s.endBlocks lid).MemWf :=
  .foldl (.foldl (.of_mem rfl (.foldl (.foldl hs fun _ _ h => .setWarp h) fun _ _ h => .foldl h fun _ _ h => .setL1 h)) fun _ _ h =>
    .freeBlock h) fun _ _ h => h

theorem State.MemWf.abortLaunch {lid : Nat} (hs : s.MemWf) : (s.abortLaunch lid).MemWf := hs.endBlocks.complete.dispatch

/-! ## Readiness, meeting points and mask waits -/

theorem State.MemWf.settle {slot : Nat} (hs : s.MemWf) : (s.settle slot).MemWf := hs.updWarp.bump

/-! ## Advancing through a clause -/

theorem State.MemWf.finish {n : Nat} (hs : s.MemWf) : (s.finish n).MemWf := hs.updCw.updCw.bump

theorem State.MemWf.branch {tgt : DWord} {to_ : Mask} (hs : s.MemWf) : (s.branch tgt to_).MemWf := .bump (.updCw hs)

/-! ## Barriers (R240 to R244) -/

theorem State.MemWf.barAcquire {slot : Nat} {grp : Bool} (hs : s.MemWf) : (s.barAcquire slot grp).MemWf := hs.dropL1.ite hs.updWarp

theorem State.MemWf.barRelease {cluster grp : Bool} {n : Nat} {slots : List Nat}
    (hs : s.MemWf) : (s.barRelease cluster grp n slots).MemWf :=
  (hs.foldl fun _ _ h => h.ite h.updWarp.barAcquire).bump

theorem State.MemWf.barCheck {bid n : Nat} (hs : s.MemWf) : (s.barCheck bid n).MemWf := hs.updBlock.barRelease.ite hs

theorem State.MemWf.cbarCheck {cid n : Nat} (hs : s.MemWf) : (s.cbarCheck cid n).MemWf := hs.updCluster.barRelease.ite hs

theorem State.MemWf.exitThreads {slot : Nat} {m : Mask} (hs : s.MemWf) : (s.exitThreads slot m).MemWf :=
  (((hs.updBlock.updCluster.ite hs).updWarp).foldl fun _ _ h => h.barCheck.cbarCheck).settle

/-! ## Unhandled traps (R395) -/

theorem State.MemWf.unhandled {slot : Nat} {t : TrapInfo} {reason : Nat} (hs : s.MemWf) : (s.unhandled slot t reason).MemWf := by
  unfold State.unhandled
  dsimp only
  split
  · exact hs
  · exact hs.logGroup.abortLaunch

/-! ## Taking a trap (R387, R388) -/

theorem State.MemWf.frameToL1 {core vf asid : Nat} {base : DWord} {parts : List (Nat × List Byte)}
    (hs : s.MemWf) : (s.frameToL1 core vf asid base parts).MemWf :=
  hs.foldl fun _ _ h => h.foldl fun _ _ h => h.l1Store

theorem State.MemWf.enterTrap {slot : Nat} {t : TrapInfo} (hs : s.MemWf) : (s.enterTrap slot t).MemWf :=
  .ite (.unhandled hs) (.ite (.unhandled hs) (.updWarp (.frameToL1 (.setOp hs))))

theorem State.MemWf.nextTrap {slot : Nat} (hs : s.MemWf) : (s.nextTrap slot).MemWf := by
  unfold State.nextTrap
  dsimp only
  split
  · exact hs.unhandled
  split
  · exact hs
  · exact hs.ite hs.updWarp.enterTrap

theorem State.MemWf.takeTrap {t : TrapInfo} (hs : s.MemWf) : (s.takeTrap t).MemWf := hs.unhandled.ite (hs.enterTrap.ite hs.updCw.nextTrap)

theorem State.MemWf.queueTrap {slot : Nat} {t : TrapInfo} (hs : s.MemWf) : (s.queueTrap slot t).MemWf := hs.updWarp.ite hs.enterTrap

theorem State.MemWf.illegal {cause : Nat} (hs : s.MemWf) : (s.illegal cause).MemWf := hs.takeTrap

theorem State.MemWf.badTarget {tgt : DWord} (hs : s.MemWf) : (s.badTarget tgt).MemWf := hs.takeTrap

/-! ## Deferred faults (R394, R429) -/

theorem State.MemWf.deliver {counters : Option (BitVec 6)} {k : State → State} {iw0 : Word}
    (hs : s.MemWf) (hk : ∀ x0, x0.MemWf → (k x0).MemWf) : (s.deliver counters k iw0).MemWf := by
  unfold State.deliver
  split
  · exact hk _ hs
  split
  · exact hk _ hs
  · exact hs.updCw.enterTrap

theorem State.MemWf.deliverFull {k : State → State} (hs : s.MemWf) (hk : ∀ x0, x0.MemWf → (k x0).MemWf) : (s.deliverFull k).MemWf :=
  (hs.deliver (fun _ h => hk _ h)).ite (hk _ hs)

theorem State.MemWf.defer {slot uid launch : Nat} {d : Deferred} (hs : s.MemWf) : (s.defer slot uid launch d).MemWf :=
  hs.updWarp.ite hs.updLaunch

/-! ## Leaving trap mode (R388, R391) -/

theorem State.MemWf.leaveTrap {slot : Nat} {resume : Bool} (hs : s.MemWf) : (s.leaveTrap slot resume).MemWf := by
  unfold State.leaveTrap
  dsimp only
  split
  · exact hs
  · exact .updWarp (.setOp hs)

/-! ## Checks at issue -/

theorem State.MemWf.guard {u : Uses} {k : State → State} (hs : s.MemWf) (hk : ∀ x0, x0.MemWf → (k x0).MemWf) : (s.guard u k).MemWf :=
  hs.ite (hs.illegal.ite (hs.illegal.ite (hk _ hs)))

/-! ## Results -/

theorem State.MemWf.vbin {d : VReg} {xs : List Src} {f : Warp → Nat → LV} (hs : s.MemWf) : (s.vbin d xs f).MemWf :=
  hs.guard (fun _ h => h.updCw.finish)

theorem State.MemWf.vwide {m : Wide} {xs : List Src} {f : Mask → Warp → Nat → LV} (hs : s.MemWf) : (s.vwide m xs f).MemWf :=
  hs.guard (fun _ h => h.updCw.finish)

theorem State.MemWf.vx {p : Pred} {d : VReg} {xs : List Src} {f : Mask → Warp → Nat → LV} (hs : s.MemWf) : (s.vx p d xs f).MemWf :=
  hs.guard (fun _ h => h.updCw.finish)

theorem State.MemWf.sbin {d : SReg} {u : Uses} {f : Warp → Word} (hs : s.MemWf) : (s.sbin d u f).MemWf :=
  hs.guard (fun _ h => h.updCw.finish)

theorem State.MemWf.sbin64 {d : SReg} {u : Uses} {f : Warp → DWord} (hs : s.MemWf) : (s.sbin64 d u f).MemWf :=
  hs.guard (fun _ h => h.updCw.finish)

theorem State.MemWf.setSc {u : Uses} {f : Warp → Bool} (hs : s.MemWf) : (s.setSc u f).MemWf := hs.guard (fun _ h => h.updCw.finish)

theorem State.MemWf.compare {d : KReg} {u : Uses} {f : Warp → Nat → Bool × Bool} (hs : s.MemWf) : (s.compare d u f).MemWf :=
  hs.guard (fun _ h => h.updCw.settle.takeTrap.ite h.updCw.finish)

theorem State.MemWf.writeK {d : KReg} {u : Uses} {f : Warp → Mask} (hs : s.MemWf) : (s.writeK d u f).MemWf :=
  hs.guard (fun _ h => h.updCw.finish)

theorem State.MemWf.vcmp {d : KReg} {cond : Cond} {as_ : ReadAs} {g : LV → Opnd} {a b : Src}
    (hs : s.MemWf) : Out.MemWf (s.vcmp d cond as_ g a b) :=
  hs.compare

/-! ## Reading instruction lines -/

theorem State.MemWf.fillI {core : Nat} {w : Who} {va : Nat} {c : CLine} (hs : s.MemWf) : (s.fillI core w va c).MemWf := hs

theorem State.MemWf.fetchLine {slot va : Nat} (hs : s.MemWf) : (s.fetchLine slot va).MemWf := by
  unfold State.fetchLine
  dsimp only
  split
  · trivial
  split
  · exact hs
  split
  · exact hs
  split
  · trivial
  split
  · split
    · exact (hs.touch.ok ‹_›).fillI
    · trivial
  · split
    · trivial
    split
    · exact hs.fillI
    · exact hs
  · trivial
  · trivial
  · trivial

theorem State.MemWf.fetchWord {slot va : Nat} (hs : s.MemWf) : (s.fetchWord slot va).MemWf := by
  unfold State.fetchWord
  split
  · split
    · trivial
    · exact hs.fetchLine.ok ‹_›
  · trivial
  · trivial

theorem State.MemWf.fetchClause {slot va n : Nat} (hs : s.MemWf) : (s.fetchClause slot va n).MemWf := by
  induction n generalizing s va with
  | zero => exact hs
  | succ n ih =>
    unfold State.fetchClause
    split
    · trivial
    · trivial
    split
    · split
      · trivial
      · trivial
      split
      · exact (ih ((hs.fetchWord.ok ‹_›).fetchWord.ok ‹_›)).ok ‹_›
      · exact ih ((hs.fetchWord.ok ‹_›).fetchWord.ok ‹_›)
    split
    · exact (ih (hs.fetchWord.ok ‹_›)).ok ‹_›
    · exact ih (hs.fetchWord.ok ‹_›)

theorem State.MemWf.fetchWalk {kind : MemKind} {va : Nat} (hs : s.MemWf) : (s.fetchWalk kind va).MemWf := .updCw (.setOp hs)

theorem State.MemWf.fetchFault {code va : Nat} {iw0 info : Word} (hs : s.MemWf) : (s.fetchFault code va iw0 info).MemWf := hs.takeTrap

/-! ## Branch and `meet` targets (R161, R254, R392) -/

theorem State.MemWf.testTarget {tgt : DWord} (hs : s.MemWf) : (s.testTarget tgt).MemWf := by
  unfold State.testTarget
  split
  · trivial
  split
  · trivial
  split
  · split
    · exact hs.fetchWord.ok ‹_›
    · trivial
  · trivial
  · trivial

/-! ## Page requests (R418 to R422) -/

theorem State.MemWf.pageFault {f : WalkFault} {access vf asid va : Nat} (hs : s.MemWf) : (s.pageFault f access vf asid va).MemWf := by
  unfold State.pageFault
  dsimp only
  split
  · trivial
  split
  · exact hs
  split
  · trivial
  show State.MemWf (if _ then _ else _)
  split
  · exact State.MemWf.raiseEvent hs.hubPokes
  · exact State.MemWf.raiseEvent hs.hubPokes

/-! ## Range locks (R153, R412) -/

theorem State.MemWf.lockTrap {hits : List (Nat × Nat × Nat)} {info : Word} (hs : s.MemWf) : (s.lockTrap hits info).MemWf := hs.takeTrap

/-! ## Sectors of a store instruction (R98) -/

theorem State.MemWf.l1Lay {o : MemOp} {f : Lane → Bool} (hs : s.MemWf) : (s.l1Lay o f).MemWf :=
  hs.foldl fun _ _ h => h.ite (h.l1Bits.ite h.l1Store)

theorem State.MemWf.l1Update {o : MemOp} (hs : s.MemWf) : (s.l1Update o).MemWf := hs.l1Lay

/-! ## Group space (R102, R134) -/

theorem State.MemWf.gsWrite {cid off : Nat} {n : List Byte} (hs : s.MemWf) : (s.gsWrite cid off n).MemWf := by
  induction n generalizing s off with
  | nil => exact hs
  | cons x xs ih => exact ih hs

theorem State.MemWf.gsLane {cid : Nat} {o : MemOp} {p half : Nat} (hs : s.MemWf) : (s.gsLane cid o p half).1.MemWf := by
  unfold State.gsLane
  split
  · exact hs
  · exact hs.gsWrite
  · exact hs.gsWrite

/-! ## Parking and resolving a load-class operation (R387, R419) -/

theorem State.MemWf.settleLoad {o : MemOp} {n : Nat} (hs : s.MemWf) : (s.settleLoad o n).MemWf :=
  hs.finish.ite (hs.updCw.finish.unhandled.ite hs.updCw.finish.queueTrap)

theorem State.MemWf.resolve {id : Nat} (hs : s.MemWf) : (s.resolve id).MemWf := by
  unfold State.resolve
  split
  · exact hs
  · exact .ite hs (.of_mem rfl (.settleLoad hs))

/-! ## Issue -/

theorem State.MemWf.gsServe {cid : Nat} {o : MemOp} {n : List Nat} (hs : s.MemWf) : (s.gsServe cid o n).1.MemWf := by
  induction n generalizing s o with
  | nil => exact hs
  | cons x xs ih =>
    unfold State.gsServe
    split
    · exact ih hs.gsLane
    · exact ih hs

theorem State.MemWf.l1Atomic {o : MemOp} {p : Nat} {place : Nat × Nat} (hs : s.MemWf) : (s.l1Atomic o p place).1.MemWf := by
  unfold State.l1Atomic
  dsimp only
  split
  · split
    · exact hs
    split
    · exact hs
    · exact .setOp (.of_mem rfl (.l1Store hs))
  · exact hs

theorem State.MemWf.l1Atomics {o : MemOp} {n : List Nat} (hs : s.MemWf) : (s.l1Atomics o n).1.MemWf := by
  induction n generalizing s o with
  | nil => exact hs
  | cons x xs ih =>
    unfold State.l1Atomics
    split
    · exact ih hs.l1Atomic
    · exact ih hs

theorem State.MemWf.l1Performs {o : MemOp} {id : Nat} {n : List Nat} (hs : s.MemWf) : (s.l1Performs o id n).1.MemWf := by
  induction n generalizing s o with
  | nil => exact hs
  | cons x xs ih => exact ih hs.l1Atomic

theorem State.MemWf.launchOp {o : MemOp} {lines : List Nat} (hs : s.MemWf) : (s.launchOp o lines).MemWf := by
  unfold State.launchOp
  split
  next id t ht =>
  have h : t.MemWf := by
    cases ht
    exact hs
  extract_lets drain held u o' v w x
  have hv : v.MemWf := h.updCore.setOp
  have hx : x.MemWf := .updCw (.ite hv.l1Update hv)
  exact State.MemWf.ite hx.resolve hx.finish

theorem State.MemWf.gmemPoint {kind : MemKind} {g : Gmem} {k : State → State}
    (hs : s.MemWf) (hk : ∀ x0, x0.MemWf → (k x0).MemWf) : (s.gmemPoint kind g k).MemWf :=
  (hs.deliver (fun _ h => hk _ h)).ite ((hs.deliverFull (fun _ h => hk _ h)).ite (hk _ hs))

theorem State.MemWf.issueEmpty {kind : MemKind} {g : Gmem} (hs : s.MemWf) : (s.issueEmpty kind g).MemWf := by
  unfold State.issueEmpty
  exact hs.finish.ite hs.launchOp

theorem State.MemWf.issueGmem {kind : MemKind} {group : Bool} {g : Gmem} (hs : s.MemWf) : (s.issueGmem kind group g).MemWf := by
  unfold State.issueGmem
  extract_lets w m cid p o hits bad info lines need log t
  have ht : t.MemWf := hs.updCore
  split
  · exact hs.issueEmpty
  split
  · exact hs
  split
  · exact hs
  split
  · exact hs.lockTrap
  split
  · exact hs.takeTrap
  split
  · exact ht
  split
  next hu =>
  refine State.MemWf.launchOp (State.MemWf.of_fst ?_ hu)
  split
  · exact ht.gsServe
  split
  · exact ht.l1Atomics
  · exact ht

/-! ## Service at the home (R110, R129, R134, R146, R147, R432) -/

theorem State.MemWf.overlay {core vf asid va : Nat} (hs : s.MemWf) : (s.overlay core vf asid va).MemWf := hs.foldl fun _ _ h => h.l1Lay

theorem State.MemWf.fillL1 {o : MemOp} {va : Nat} {c : CLine} (hs : s.MemWf) : (s.fillL1 o va c).MemWf := hs

/-! ## Where an access is performed -/

theorem State.MemWf.siteStore {x : Site} {va off : Nat} {bs : List Byte} {b : Bnd} (hs : s.MemWf) : (s.siteStore x va off bs b).MemWf := by
  unfold State.siteStore
  split
  · exact hs.homeStore
  · exact hs.portStore

theorem State.MemWf.siteClean {x : Site} {va : Nat} (hs : s.MemWf) : (s.siteClean x va).MemWf := by
  unfold State.siteClean
  split
  · split
    · exact hs.setHline
    · exact hs
  · exact hs

theorem State.MemWf.setSiteMark {x : Site} {m : Option Nat} (hs : s.MemWf) : (s.setSiteMark x m).MemWf := by
  unfold State.setSiteMark
  split
  · split
    · exact hs.setHline
    · exact hs
  · exact hs

theorem State.MemWf.siteMoved {x : Site} {n : Nat} (hs : s.MemWf) : (s.siteMoved x n).MemWf := by
  unfold State.siteMoved
  split
  · exact hs
  · exact hs.moved

theorem State.MemWf.refill {o : MemOp} {x : Site} {va : Nat} (hs : s.MemWf) : (s.refill o x va).MemWf := by
  unfold State.refill
  split
  · exact hs.fillL1.addSharer.overlay
  · exact hs

theorem State.MemWf.refresh {o : MemOp} {x : Site} {va : Nat} (hs : s.MemWf) : (s.refresh o x va).MemWf := hs.refill.ite hs

theorem State.MemWf.putLane {id part : Nat} {l : Lane} (hs : s.MemWf) : (s.putLane id part l).MemWf := by
  unfold State.putLane
  split
  · exact hs
  · exact hs.dropOp.reap.ite hs.setOp.resolve

theorem State.MemWf.frameFault {o : MemOp} {cause : BitVec 8} {addr : DWord} (hs : s.MemWf) : (s.frameFault o cause addr).MemWf := by
  unfold State.frameFault
  split
  · exact hs.unhandled
  · exact hs.unhandled
  · exact hs

theorem State.MemWf.dropOwnL1 {o : MemOp} (hs : s.MemWf) : (s.dropOwnL1 o).MemWf := hs.foldl fun _ _ h => h.setL1

theorem State.MemWf.faultLane {o : MemOp} {id part : Nat} {cause : BitVec 8} (hs : s.MemWf) : (s.faultLane o id part cause).MemWf := by
  unfold State.faultLane
  split
  · exact .putLane hs
  · exact .frameFault (.dropOwnL1 (.dropOp hs))
  · exact .frameFault (.dropOp hs)
  · exact .of_mem rfl (.fetchFault hs)
  · exact .of_mem rfl (.takeTrap hs)
  · exact .putLane (.ite (.setL1 hs) hs)

theorem State.MemWf.serveRead {o : MemOp} {id part half : Nat} {x : Site} (hs : s.MemWf) : (s.serveRead o id part half x).MemWf :=
  ((hs.siteMoved.ite hs.siteMoved.refill).faultLane).ite (((hs.siteMoved.ite hs.siteMoved.refill).putLane).ite ((hs.siteMoved.ite
    hs.siteMoved.refill).putLane))

theorem State.MemWf.serveStore {o : MemOp} {id part half : Nat} {x : Site} (hs : s.MemWf) : (s.serveStore o id part half x).MemWf := by
  unfold State.serveStore
  dsimp only
  split
  · exact hs
  refine State.MemWf.setOp ?_
  split
  · split
    · split
      · refine State.MemWf.siteClean ?_
        refine State.MemWf.setSiteMark ?_
        split
        · exact hs.homeBits.ite hs.homeStore
        · exact hs.portBits.ite hs.siteStore
      refine State.MemWf.setSiteMark ?_
      split
      · exact hs.homeBits.ite hs.homeStore
      · exact hs.portBits.ite hs.siteStore
    split
    · refine State.MemWf.siteClean ?_
      refine State.MemWf.setSiteMark ?_
      split
      · exact hs.homeBits.ite hs.siteStore
      · exact hs.portBits.ite hs.siteStore
    refine State.MemWf.setSiteMark ?_
    split
    · exact hs.homeBits.ite hs.siteStore
    · exact hs.portBits.ite hs.siteStore
  split
  · split
    · refine State.MemWf.siteClean ?_
      refine State.MemWf.setSiteMark ?_
      split
      · exact hs.homeBits.ite hs.homeStore
      · exact hs.portBits.ite hs.siteStore
    refine State.MemWf.setSiteMark ?_
    split
    · exact hs.homeBits.ite hs.homeStore
    · exact hs.portBits.ite hs.siteStore
  split
  · refine State.MemWf.siteClean ?_
    refine State.MemWf.setSiteMark ?_
    split
    · exact hs.homeBits.ite hs.siteStore
    · exact hs.portBits.ite hs.siteStore
  refine State.MemWf.setSiteMark ?_
  split
  · exact hs.homeBits.ite hs.siteStore
  · exact hs.portBits.ite hs.siteStore

theorem State.MemWf.serveAtomic {o : MemOp} {id part : Nat} {x : Site} (hs : s.MemWf) : (s.serveAtomic o id part x).MemWf :=
  hs.faultLane.ite hs.siteStore.setSiteMark.refresh.putLane

theorem State.MemWf.fillAtomic {o : MemOp} {id part : Nat} {x : Site} {c : CLine} (hs : s.MemWf) : (s.fillAtomic o id part x c).MemWf :=
  hs.fillL1.addSharer.l1Performs.fillL1.overlay.setOp.resolve

theorem State.MemWf.perform {o : MemOp} {id part half : Nat} {x : Site} (hs : s.MemWf) : (s.perform o id part half x).MemWf := by
  unfold State.perform
  split
  · exact hs.faultLane
  split
  · split
    · exact hs.fillAtomic
    · exact hs.serveAtomic
  · exact hs.serveStore.ite hs.serveRead

theorem State.MemWf.atSite {o : MemOp} {id part half : Nat} {x : Site} (hs : s.MemWf) : (s.atSite o id part half x).MemWf := by
  unfold State.atSite
  split
  · exact hs
  split
  · refine State.MemWf.setOp ?_
    split <;> exact hs
  refine State.MemWf.perform ?_
  split
  · exact hs.served
  · exact hs.bridged

theorem State.MemWf.groupRest {o : MemOp} {id part half : Nat} (hs : s.MemWf) : (s.groupRest o id part half).MemWf := by
  unfold State.groupRest
  extract_lets due
  split
  · exact State.MemWf.putLane hs.gsLane
  · exact hs

theorem State.MemWf.serveLane {id req : Nat} (hs : s.MemWf) : (s.serveLane id req).MemWf := by
  unfold State.serveLane
  dsimp only
  split
  · exact hs
  split
  · exact hs.groupRest
  split
  · exact hs
  split
  · exact hs
  split
  · exact hs.setOp
  · exact hs.faultLane
  · exact hs.faultLane
  · split
    · exact hs.atSite
    · exact hs
  · exact (hs.touch.ok ‹_›).atSite

/-! ## Walks of a lane (R117, R418) -/

theorem State.MemWf.pageLane {o : MemOp} {id part stage group : Nat} (hs : s.MemWf) : (s.pageLane o id part stage group).MemWf := by
  unfold State.pageLane
  split
  · exact hs.putLane
  · exact hs.dropOp.updWarp
  · exact hs.dropOp.updWarp
  · exact hs.updWarp.putLane.ite hs.setOp

theorem State.MemWf.htuLane {o : MemOp} {id part : Nat} {f : WalkFault} {access va : Nat}
    (hs : s.MemWf) : (s.htuLane o id part f access va).MemWf := by
  unfold State.htuLane
  split
  · exact hs
  · exact hs
  · exact .ite (.putLane hs) (.setOp hs)

theorem State.MemWf.walked {o : MemOp} {id part : Nat} (hs : s.MemWf) : (s.walked o id part).MemWf := by
  unfold State.walked
  split
  · exact hs.dropOp.updWarp
  · exact hs.dropOp.updWarp
  · exact hs.setOp

theorem State.MemWf.walkFails {o : MemOp} {id part va : Nat} {shadow : Bool} {f : WalkFault}
    (hs : s.MemWf) : (s.walkFails o id part va shadow f).MemWf := by
  unfold State.walkFails
  split
  · exact hs.putLane
  split
  · exact hs.faultLane
  split
  · exact hs.faultLane
  split
  · exact (hs.pageFault.group ‹_›).pageLane
  · exact hs.htuLane
  · exact hs.faultLane

theorem State.MemWf.walkLane {id part : Nat} (hs : s.MemWf) : (s.walkLane id part).MemWf := by
  unfold State.walkLane
  dsimp only
  split
  · exact hs
  split
  · exact hs
  split
  · split
    · exact hs.walkedBy.tlbPut.faultLane.ite hs.walkedBy.tlbPut.walked
    · exact hs.walkedBy.walkFails
  · exact hs.faultLane
  · exact hs.faultLane
  · exact hs.ite hs.walked
  · exact hs.ite hs.walked

/-! ## Return and acknowledgement (R232) -/

theorem State.MemWf.acquire {slot core : Nat} {scope : Scope} (hs : s.MemWf) : (s.acquire slot core scope).MemWf :=
  hs.dropL1.ite (hs.updWarp.ite hs)

theorem State.MemWf.forOp {slot uid : Nat} {f : Warp → Warp} (hs : s.MemWf) : (s.forOp slot uid f).MemWf := hs.updWarp.ite hs

theorem State.MemWf.endStore {id : Nat} {o : MemOp} (hs : s.MemWf) : (s.endStore id o).MemWf :=
  (hs.dropOp.forOp.ite hs.dropOp.forOp.defer).reap

/-! ## Bytes and side array -/

theorem State.MemWf.spPoke {b j off : Nat} {n : List Byte} (hs : s.MemWf) : (s.spPoke b j off n).MemWf := by
  induction n generalizing s off with
  | nil => exact hs
  | cons x xs ih => exact ih hs

theorem State.MemWf.setSide {b j off : Nat} {x : Bnd × Bool} (hs : s.MemWf) : (s.setSide b j off x).MemWf := hs

theorem State.MemWf.spStore {b j : Nat} {ws : List (Nat × List Byte × Bnd)} (hs : s.MemWf) : (s.spStore b j ws).MemWf :=
  (hs.foldl fun _ _ h => h.spPoke).foldl fun _ _ h => h.setSide

/-! ## SPAD instructions -/

theorem State.MemWf.spadLane {b j : Nat} {x : SpadOp} {l : Lane} (hs : s.MemWf) : (s.spadLane b j x l).1.MemWf := by
  unfold State.spadLane
  dsimp only
  split
  · exact hs
  split
  · exact hs
  split
  · exact hs
  split
  · exact hs
  split
  · exact hs
  · exact hs.spStore

theorem State.MemWf.spadLanes {b j : Nat} {x : SpadOp} {n : Map Lane} (hs : s.MemWf) : (s.spadLanes b j x n).1.MemWf := by
  induction n generalizing s with
  | nil => exact hs
  | cons x xs ih => exact ih hs.spadLane

theorem State.MemWf.spadGo {x : SpadOp} {o : MemOp} (hs : s.MemWf) : (s.spadGo x o).MemWf :=
  ((hs.spadLanes.spStore.ite hs.spadLanes.spStore.defer).finish).ite hs.spadLanes.updCw.settleLoad

theorem State.MemWf.spad {x : SpadOp} {d a : VReg} {imm : BitVec 9} (hs : s.MemWf) : Out.MemWf (s.spad x d a imm) := by
  unfold State.spad
  split
  · exact hs
  split
  · exact hs.deliverFull (fun _ h => h.guard (fun _ h => h.lockTrap.ite h.spadGo))
  · exact hs.guard (fun _ h => h.lockTrap.ite h.spadGo)

/-! ## Transaction-barrier objects (R245 to R247) -/

theorem State.MemWf.txbWrite {b j off : Nat} {t : Txb} (hs : s.MemWf) : (s.txbWrite b j off t).MemWf := hs.spStore

theorem State.MemWf.txbRelease {b j off : Nat} (hs : s.MemWf) : (s.txbRelease b j off).MemWf := (hs.foldl fun _ _ h => h.ite h.updWarp).bump

theorem State.MemWf.txbUpdate {b j off : Nat} {t : Txb} (hs : s.MemWf) : (s.txbUpdate b j off t).MemWf :=
  hs.txbWrite.txbRelease.ite hs.txbWrite

theorem State.MemWf.txbCredit {b j off n : Nat} (hs : s.MemWf) : OptMemWf (s.txbCredit b j off n) := by
  unfold State.txbCredit
  dsimp only
  split
  · trivial
  · exact hs.txbUpdate

/-! ## At issue -/

theorem State.MemWf.cpyFault {cause addr : Nat} (hs : s.MemWf) : (s.cpyFault cause addr).MemWf := hs.takeTrap

theorem State.MemWf.lock {rs : List (Nat × LockRange)} (hs : s.MemWf) : (s.lock rs).MemWf := hs.foldl fun _ _ h => h.updCore

theorem State.MemWf.unlock {id : Nat} (hs : s.MemWf) : (s.unlock id).MemWf := hs

theorem State.MemWf.issueEng {e : EngOp} {rs : List (Nat × LockRange)} (hs : s.MemWf) : (s.issueEng e rs).MemWf :=
  .ite hs (.finish (.updCw (.setEng (.of_mem rfl (.lock hs)))))

theorem State.MemWf.engGate {u : Uses} {dc : BitVec 3} {k : State → State}
    (hs : s.MemWf) (hk : ∀ x0, x0.MemWf → (k x0).MemWf) : (s.engGate u dc k).MemWf :=
  hs.ite (hs.deliverFull (fun _ h => h.guard (fun _ h => hk _ h)))

/-! ## Transfers -/

theorem State.MemWf.reach {e : EngOp} {va : Nat} {need : Need} (hs : s.MemWf) : (s.reach e va need).MemWf := by
  unfold State.reach
  split
  · trivial
  split
  · exact hs.touch.ok ‹_›
  · trivial
  · trivial
  · trivial
  · trivial

theorem State.MemWf.readGlobal {e : EngOp} {p : Piece} (hs : s.MemWf) : (s.readGlobal e p).MemWf := by
  unfold State.readGlobal
  split
  · exact (hs.reach.line ‹_›).served
  · exact hs.moved.bridged
  · trivial
  · trivial

theorem State.MemWf.readSpad {b j : Nat} {p : Piece} (hs : s.MemWf) : (s.readSpad b j p).MemWf := hs

theorem State.MemWf.gather {e : EngOp} {n : List Piece} (hs : s.MemWf) : (s.gather e n).MemWf := by
  induction n generalizing s with
  | nil => exact hs
  | cons x xs ih =>
    unfold State.gather
    dsimp only
    split
    · next s' _ _ _ heq =>
      have hs' : s'.MemWf := by
        refine Gather.MemWf.ok ?_ heq
        split
        · exact hs
        split
        · exact hs
        split
        · exact hs.readGlobal
        · exact hs.readSpad
      split
      · exact (ih hs').ok ‹_›
      · exact ih hs'
    split
    · exact hs
    split
    · exact hs
    split
    · exact hs.readGlobal
    · exact hs.readSpad

theorem State.MemWf.spadBits {b j : Nat} {ws : BitWrites} {bnd : Bnd} {poison : Bool}
    (hs : s.MemWf) : (s.spadBits b j ws bnd poison).MemWf :=
  .setSide (.foldl hs fun _ _ h => h)

theorem State.MemWf.globalBits {e : EngOp} {ws : BitWrites} {bnd : Bnd} {poison : Bool}
    (hs : s.MemWf) : (s.globalBits e ws bnd poison).MemWf := by
  unfold State.globalBits
  dsimp only
  split
  · exact ((hs.reach.line ‹_›).served).homeBits
  · exact hs.bridged.portBits
  · trivial
  · trivial

/-! ## Reductions (R296, R301) -/

theorem State.MemWf.reduceInto {e : EngOp} {ty : Fmt} {rop : Rop} {ps : List Piece} {ws : BitWrites} {poison : Bool}
    (hs : s.MemWf) : (s.reduceInto e ty rop ps ws poison).MemWf := by
  unfold State.reduceInto
  dsimp only
  split
  · exact ((hs.reach.line ‹_›).served).homeBits
  · exact hs.bridged.portBits
  · trivial
  · trivial

/-! ## Service of a transfer -/

theorem State.MemWf.deliverXfer {e : EngOp} {ps : List Piece} {ws : BitWrites} {b : Bnd} {poison : Bool}
    (hs : s.MemWf) : (s.deliverXfer e ps ws b poison).MemWf := by
  unfold State.deliverXfer
  split
  · exact hs
  split
  · exact hs.globalBits
  · exact hs.globalBits
  · exact hs.globalBits
  · exact hs.reduceInto
  · exact hs
  · exact hs
  · split
    · exact State.MemWf.spadBits hs
    · trivial
  · exact State.MemWf.spadBits hs

theorem State.MemWf.tryXfer {e : EngOp} {part : Nat} (hs : s.MemWf) : (s.tryXfer e part).MemWf := by
  unfold State.tryXfer
  split
  · exact (hs.gather.ok ‹_›).deliverXfer
  · exact hs.gather

theorem State.MemWf.engFault {id : Nat} {e : EngOp} {part code addr : Nat} (hs : s.MemWf) : (s.engFault id e part code addr).MemWf := by
  unfold State.engFault
  split <;> exact hs.setEng

theorem State.MemWf.serveXfer {id part : Nat} (hs : s.MemWf) : (s.serveXfer id part).MemWf := by
  unfold State.serveXfer
  split
  · exact hs
  split
  · exact hs
  split
  · exact hs.ite (hs.engFault.ite ((hs.tryXfer.ok ‹_›).setEng))
  · exact hs
  · exact hs.engFault

theorem State.MemWf.walkXfer {id part : Nat} (hs : s.MemWf) : (s.walkXfer id part).MemWf := by
  unfold State.walkXfer
  dsimp only
  split
  · exact hs
  split
  · exact hs
  split
  · split
    · split
      · exact hs.walkedBy.tlbPut.engFault.ite hs.walkedBy.tlbPut
      · exact hs.walkedBy.tlbPut
    split
    · exact hs.walkedBy.setEng
    split
    · exact hs.walkedBy.engFault
    split
    · exact hs.walkedBy.engFault
    split
    · exact (hs.walkedBy.pageFault.group ‹_›).setEng
    · exact hs.walkedBy.setEng
    · exact hs.walkedBy.engFault
  · exact hs

/-! ## Completion (R154, R287, R289, R414) -/

theorem State.MemWf.dropOutput {e : EngOp} {rs : List (Nat × Nat)} {core : Nat} (hs : s.MemWf) : (s.dropOutput e rs core).MemWf :=
  hs.foldl fun _ _ h => h.dropL1Range

theorem State.MemWf.creditEng {e : EngOp} (hs : s.MemWf) : (s.creditEng e).1.MemWf := by
  unfold State.creditEng
  split
  · exact hs
  split
  · exact hs
  · exact ((hs.txbCredit.some ‹_›).dropL1).ite (hs.txbCredit.some ‹_›)

theorem State.MemWf.endEng {id : Nat} {e : EngOp} (hs : s.MemWf) : (s.endEng id e).MemWf := by
  unfold State.endEng
  refine State.MemWf.reap ?_
  split
  · refine State.MemWf.defer ?_
    refine State.MemWf.forOp ?_
    split
    · exact hs.dropEng.unlock.dropOutput.dropOutput.ite hs.dropEng.unlock.dropOutput
    · exact (hs.dropEng.unlock.dropOutput.dropOutput.ite hs.dropEng.unlock.dropOutput).creditEng
  refine State.MemWf.forOp ?_
  split
  · exact hs.dropEng.unlock.dropOutput.dropOutput.ite hs.dropEng.unlock.dropOutput
  · exact (hs.dropEng.unlock.dropOutput.dropOutput.ite hs.dropEng.unlock.dropOutput).creditEng

/-! ## Clause headers -/

theorem State.MemWf.execClauseHeader {n : BitVec 4} {cls : BitVec 3} {wait : BitVec 6} {yieldHint : Bool}
    (hs : s.MemWf) : Out.MemWf (execClauseHeader n cls wait yieldHint s) := by
  unfold Machine.execClauseHeader
  split
  · exact hs.fetchWalk
  · exact hs.fetchFault
  · exact (hs.fetchClause.ok ‹_›).ite ((hs.fetchClause.ok ‹_›).deliver (fun _ h => h.updCw))

theorem State.MemWf.notHeader {w0 : Word} (hs : s.MemWf) : (s.notHeader w0).MemWf := by
  unfold State.notHeader
  dsimp only
  split
  · exact hs.unhandled.ite hs.takeTrap
  · exact hs.takeTrap

theorem State.MemWf.execNoInstructionWord (hs : s.MemWf) : Out.MemWf (execNoInstructionWord s) := by
  unfold Machine.execNoInstructionWord
  split
  · split
    · exact hs
    · exact hs.illegal
  split
  · exact (hs.fetchWord.ok ‹_›).ite ((hs.fetchWord.ok ‹_›).notHeader)
  · exact hs

theorem State.MemWf.execGroupTurnLimit (hs : s.MemWf) : Out.MemWf (execGroupTurnLimit s) := hs.updCw.bump.ite hs

/-! ## Targets -/

theorem State.MemWf.walkNow {slot va : Nat} (hs : s.MemWf) : OptMemWf (s.walkNow slot va) := by
  unfold State.walkNow
  dsimp only
  split
  · split
    · exact hs.tlbPut
    · trivial
  · trivial

theorem State.MemWf.branchTest {tgt : DWord} {n : Nat} (hs : s.MemWf) : (s.branchTest tgt n).MemWf := by
  induction n generalizing s with
  | zero => trivial
  | succ n ih =>
    unfold State.branchTest
    split
    · split
      · exact ih (hs.walkNow.some ‹_›)
      · trivial
    · exact hs.testTarget

theorem State.MemWf.branchTo {tgt : DWord} {m : Mask} {link : Bool} (hs : s.MemWf) : (s.branchTo tgt m link).MemWf := by
  unfold State.branchTo
  dsimp only
  split
  · exact hs.branch
  split
  · exact (((hs.branchTest.header ‹_›).updCw).ite (hs.branchTest.header ‹_›)).branch
  · exact hs.badTarget
  · exact hs.takeTrap
  · exact (hs.updCw.ite hs).branch
  · exact (hs.updCw.ite hs).branch

/-! ## Branches (R252) -/

theorem State.MemWf.execCall {off : BitVec 19} (hs : s.MemWf) : Out.MemWf (execCall off s) := hs.guard (fun _ h => h.branchTo)

theorem State.MemWf.execJmp {p : BitVec 5} (hs : s.MemWf) : Out.MemWf (execJmp p s) := hs.guard (fun _ h => h.branchTo)

theorem State.MemWf.execCalli {p : BitVec 5} (hs : s.MemWf) : Out.MemWf (execCalli p s) := hs.guard (fun _ h => h.branchTo)

theorem State.MemWf.execRet (hs : s.MemWf) : Out.MemWf (execRet s) := hs.guard (fun _ h => h.branchTo)

theorem State.MemWf.execMeet {off : BitVec 19} (hs : s.MemWf) : Out.MemWf (execMeet off s) := by
  unfold Machine.execMeet
  dsimp only
  split
  · exact ((hs.testTarget.header ‹_›).updCw).finish
  · exact hs.badTarget
  · exact hs.takeTrap
  · exact hs.fetchWalk
  · exact hs.takeTrap

/-! ## `nop`, `yield`, `tail`, software traps -/

theorem State.MemWf.afterExit {slot : Nat} (hs : s.MemWf) : (s.afterExit slot).MemWf := by
  unfold State.afterExit
  exact hs.endWarp.ite (hs.leaveTrap.ite hs)

theorem State.MemWf.execTail {p : Pred} (hs : s.MemWf) : Out.MemWf (execTail p s) :=
  hs.deliver (fun _ h => h.ite h.exitThreads.finish.afterExit)

theorem State.MemWf.softTrap {cls : Nat} {code : BitVec 16} (hs : s.MemWf) : (s.softTrap cls code).MemWf := hs.takeTrap

/-! ## Trap entry and return -/

theorem State.MemWf.execTrapHandlerEntry {slot : Nat} (hs : s.MemWf) : Out.MemWf (execTrapHandlerEntry slot s) := by
  unfold Machine.execTrapHandlerEntry
  split
  · exact (((hs.foldl fun _ _ h => h.dropOp).updWarp).bump).ite hs
  · exact hs

theorem State.MemWf.execRte (hs : s.MemWf) : Out.MemWf (execRte s) := hs.illegal.ite (hs.unhandled.ite hs.leaveTrap)

theorem State.MemWf.clauseRead {hdr : DWord} (hs : s.MemWf) : (s.clauseRead hdr).MemWf := by
  unfold State.clauseRead
  split
  · trivial
  · trivial
  split
  · trivial
  split
  · exact ((hs.fetchWord.ok ‹_›).fetchClause).ok ‹_›
  · trivial
  · trivial

theorem State.MemWf.clauseAt {hdr : DWord} {n : Nat} (hs : s.MemWf) : (s.clauseAt hdr n).MemWf := by
  induction n generalizing s with
  | zero => trivial
  | succ n ih =>
    unfold State.clauseAt
    split
    · split
      · exact ih (hs.walkNow.some ‹_›)
      · trivial
    · exact hs.clauseRead

theorem State.MemWf.resumeAt {hdr npc : DWord} (hs : s.MemWf) : (s.resumeAt hdr npc).MemWf := by
  unfold State.resumeAt
  dsimp only
  split
  · split
    · exact hs.branchTest.header ‹_›
    · exact hs
    · exact hs
    · trivial
  split
  · split
    · exact hs.clauseAt.ok ‹_›
    split
    · exact hs.branchTest.header ‹_›
    · exact hs
    · exact hs
    · trivial
  · split
    · exact hs.branchTest.header ‹_›
    · exact hs
    · exact hs
    · trivial
  · exact hs

theorem State.MemWf.readClause {hdr : DWord} (hs : s.MemWf) : (s.readClause hdr).MemWf := by
  unfold State.readClause
  split
  · exact (hs.clauseRead.ok ‹_›).updCw
  · exact hs.updCw
  · exact hs.fetchWalk
  · exact hs.fetchFault

theorem State.MemWf.frameBack {o : MemOp} {id : Nat} (hs : s.MemWf) : (s.frameBack o id).MemWf := by
  unfold State.frameBack
  split
  · split
    · exact hs
    have ht : ({ s.dropOp id with cur := o.slot } : State).MemWf := hs
    refine State.MemWf.withCur (.nextTrap (.settle ?_))
    split
    · exact ht.updCw
    dsimp only
    split
    · exact (ht.resumeAt.inside ‹_›).updCw
    · exact (ht.resumeAt.header ‹_›).updCw
    · exact ht.unhandled
  · exact hs

/-! ## Special registers (R67, R308, R309) -/

theorem State.MemWf.sprToV {i r : Nat} {wide : Bool} (hs : s.MemWf) : (s.sprToV i r wide).MemWf := hs.guard (fun _ h => h.updCw.finish)

theorem State.MemWf.sprToS {i r : Nat} {wide : Bool} (hs : s.MemWf) : (s.sprToS i r wide).MemWf := hs.guard (fun _ h => h.updCw.finish)

theorem State.MemWf.execSysr {dst : Src} {idx : BitVec 8} (hs : s.MemWf) : Out.MemWf (execSysr dst idx s) := by
  unfold Machine.execSysr
  dsimp only
  split
  · exact hs.sprToS
  · exact hs.sprToV
  · exact hs.sprToV
  · exact hs.sprToS
  · exact hs.sprToV
  · exact hs.sprToV
  · exact hs.guard (fun _ h => h.illegal)

theorem State.MemWf.execSysw {idx : BitVec 8} {src : Src} (hs : s.MemWf) : Out.MemWf (execSysw idx src s) := by
  unfold Machine.execSysw
  refine hs.guard (fun _ h => ?_)
  split
  · exact h.updCw.finish
  · exact h.illegal

theorem State.MemWf.execBudget {a : Src} (hs : s.MemWf) : Out.MemWf (execBudget a s) := hs.guard (fun _ h => h.updCw.finish)

/-! ## Sleep (R311) -/

theorem State.MemWf.execSleep {a : Src} (hs : s.MemWf) : Out.MemWf (execSleep a s) := hs.guard (fun _ h => h.finish.ite h.updCw.finish)

theorem State.MemWf.sleepEnd {slot lane : Nat} (hs : s.MemWf) : (s.sleepEnd slot lane).MemWf := by
  unfold State.sleepEnd
  split
  · exact hs.updWarp.settle.ite hs
  · exact hs

theorem State.MemWf.execSleepWake {slot lane : Nat} (hs : s.MemWf) : Out.MemWf (execSleepWake slot lane s) := hs.sleepEnd

theorem State.MemWf.sleepOver (hs : s.MemWf) : s.sleepOver.MemWf := hs.foldl fun _ _ h => h.sleepEnd.ite h

/-! ## Extended blocks (R313, R314) -/

theorem State.MemWf.execXacq {n : BitVec 2} (hs : s.MemWf) : Out.MemWf (execXacq n s) := by
  unfold Machine.execXacq
  extract_lets k q m slot t
  have ht : t.MemWf := State.MemWf.finish (.updCw hs)
  exact State.MemWf.ite hs.finish (State.MemWf.ite (.finish (.updCw hs)) ht)

theorem State.MemWf.execXacqServed {quadrant : Nat} (hs : s.MemWf) : Out.MemWf (execXacqServed quadrant s) := by
  unfold Machine.execXacqServed
  split
  · exact hs
  · exact State.MemWf.ite (.settle (.updWarp hs)) hs

theorem State.MemWf.execXrel (hs : s.MemWf) : Out.MemWf (execXrel s) := hs.ite hs.updCw.finish.dispatch

/-! ## The active set (R335 to R337) -/

theorem State.MemWf.activate {slot : Nat} (hs : s.MemWf) : (s.activate slot).MemWf := hs.foldl fun _ _ h => h.updWarp

theorem State.MemWf.retire {slot : Nat} (hs : s.MemWf) : (s.retire slot).MemWf := hs.foldl fun _ _ h => h.updWarp

theorem State.MemWf.swap {out inn : Nat} (hs : s.MemWf) : (s.swap out inn).MemWf := by
  unfold State.swap
  dsimp only
  split
  · exact .activate (.of_mem rfl (.retire hs))
  split
  · exact .ite (.activate (.retire (.of_mem rfl (.retire hs)))) hs
  · exact hs

theorem State.MemWf.execWarpSwapOut {out inn : Nat} (hs : s.MemWf) : Out.MemWf (execWarpSwapOut out inn s) := hs.swap.ite hs

theorem State.MemWf.execWarpSwapIn {inn out : Nat} (hs : s.MemWf) : Out.MemWf (execWarpSwapIn inn out s) := hs.swap.ite hs

/-! ## Checks at issue (R286) -/

theorem State.MemWf.checked {cs : List Check} {k : State → State}
    (hs : s.MemWf) (hk : ∀ x0, x0.MemWf → (k x0).MemWf) : (s.checked cs k).MemWf := by
  unfold State.checked
  split
  · exact hs.cpyFault
  · exact hk _ hs

/-! ## The forms -/

theorem State.MemWf.cpyT {kind : EngKind} {c : Done} {sa sb sc : SReg} (hs : s.MemWf) : Out.MemWf (s.cpyT kind c sa sb sc) :=
  hs.engGate (fun _ h => h.checked (fun _ h => h.issueEng))

theorem State.MemWf.cpyLine {kind : EngKind} {c : Done} {sa sb sc : SReg} {align : Nat}
    (hs : s.MemWf) : Out.MemWf (s.cpyLine kind c sa sb sc align) :=
  hs.engGate (fun _ h => h.checked (fun _ h => h.issueEng))

theorem State.MemWf.execCpyP {c : Done} {sa sb sc sd : SReg} (hs : s.MemWf) : Out.MemWf (execCpyP c sa sb sc sd s) :=
  hs.engGate (fun _ h => h.checked (fun _ h => h.issueEng))

theorem State.MemWf.execCpyPf {sa sc : SReg} (hs : s.MemWf) : Out.MemWf (execCpyPf sa sc s) := hs.engGate (fun _ h => h.issueEng)

theorem State.MemWf.execCpyG {c : Done} {sa sb sc : SReg} {vi : VReg} (hs : s.MemWf) : Out.MemWf (execCpyG c sa sb sc vi s) :=
  hs.engGate (fun _ h => h.checked (fun _ h => h.issueEng))

/-! ## Tensor windows (R290 to R292) -/

theorem State.MemWf.setRanges {id : Nat} {e : EngOp} {sp gl : Nat × Nat} {out : Bool} (hs : s.MemWf) : (s.setRanges id e sp gl out).MemWf :=
  hs.unlock.lock

theorem State.MemWf.execTensorDescriptorRead {op : Nat} (hs : s.MemWf) : Out.MemWf (execTensorDescriptorRead op s) := by
  unfold Machine.execTensorDescriptorRead
  split
  · exact hs
  · exact hs.ite (hs.setEng.ite (hs.setEng.ite (hs.ite hs.setRanges.setEng)))

/-! ## `launch` (R312) -/

theorem State.MemWf.execLaunch {p : BitVec 5} {dc : BitVec 3} (hs : s.MemWf) : Out.MemWf (execLaunch p dc s) := by
  refine State.MemWf.engGate hs fun s hs => ?_
  refine State.MemWf.checked hs fun s hs => ?_
  exact State.MemWf.finish (.updCw (.setEng (.updLaunch hs)))

theorem State.MemWf.gmem {kind : MemKind} {group : Bool} {g : Gmem} (hs : s.MemWf) : Out.MemWf (s.gmem kind group g) :=
  hs.ite (hs.gmemPoint (fun _ h => h.guard (fun _ h => h.issueGmem)))

theorem State.MemWf.execSld {g : Gmem} (hs : s.MemWf) : Out.MemWf (execSld g s) :=
  hs.guard (fun _ h => h.ite (h.ite (h.takeTrap.ite h.launchOp)))

theorem State.MemWf.execPf {g : Gmem} (hs : s.MemWf) : Out.MemWf (execPf g s) := by
  refine State.MemWf.guard hs fun s hs => ?_
  refine State.MemWf.ite hs (State.MemWf.finish (State.MemWf.ite hs ?_))
  exact State.MemWf.setOp hs

/-! ## Rows, windows and order -/

theorem State.MemWf.updMyCore {f : Core → Core} (hs : s.MemWf) : (s.updMyCore f).MemWf := hs.updCore

theorem State.MemWf.rowOp {roff : BitVec 2} {k : State → Mask → Nat → State}
    (hs : s.MemWf) (hk : ∀ x0 x1 x2, x0.MemWf → (k x0 x1 x2).MemWf) : (s.rowOp roff k).MemWf :=
  hs.takeTrap.ite (hk _ _ _ hs)

theorem State.MemWf.rowMove {u : Uses} {roff : BitVec 2} {k : State → Mask → Nat → State}
    (hs : s.MemWf) (hk : ∀ x0 x1 x2, x0.MemWf → (k x0 x1 x2).MemWf) : (s.rowMove u roff k).MemWf :=
  hs.ite (hs.guard (fun _ h => h.rowOp (fun _ _ _ h => h.ite (hk _ _ _ h))))

theorem State.MemWf.rowPoison {e : Mask} {row0 : Nat} {k : State → State}
    (hs : s.MemWf) (hk : ∀ x0, x0.MemWf → (k x0).MemWf) : (s.rowPoison e row0 k).MemWf :=
  hs.takeTrap.ite (hk _ hs)

theorem State.MemWf.execMatZero {roff : BitVec 2} (hs : s.MemWf) : Out.MemWf (execMatZero roff s) :=
  hs.rowMove (fun _ _ _ h => h.updMyCore.finish)

theorem State.MemWf.execMatRd {d : VReg} {roff : BitVec 2} {col : BitVec 9} (hs : s.MemWf) : Out.MemWf (execMatRd d roff col s) :=
  hs.rowMove (fun _ _ _ h => h.rowPoison (fun _ h => h.updCw.finish))

theorem State.MemWf.execMatWr {a : VReg} {roff : BitVec 2} {col : BitVec 9} (hs : s.MemWf) : Out.MemWf (execMatWr a roff col s) :=
  hs.rowMove (fun _ _ _ h => h.updMyCore.finish)

theorem State.MemWf.execMatRbnd {d : VReg} {roff : BitVec 2} (hs : s.MemWf) : Out.MemWf (execMatRbnd d roff s) :=
  hs.rowMove (fun _ _ _ h => h.rowPoison (fun _ h => h.updCw.finish))

/-! ## Setting up (R265, R266, R275) -/

theorem State.MemWf.setWindow {slot lo hi : Nat} (hs : s.MemWf) : (s.setWindow slot lo hi).MemWf := by
  unfold State.setWindow
  dsimp only
  split
  · exact hs.updWarp.updWarp
  · exact hs.updWarp

theorem State.MemWf.execMatAlloc {n : BitVec 8} (hs : s.MemWf) : Out.MemWf (execMatAlloc n s) := by
  unfold Machine.execMatAlloc
  dsimp only
  split
  · exact hs
  split
  · exact hs.takeTrap
  split
  · exact hs.takeTrap
  split
  · exact hs
  · exact (hs.updMyCore.foldl fun _ _ h => h.setWindow).finish

theorem State.MemWf.execMatFree (hs : s.MemWf) : Out.MemWf (execMatFree s) := hs.ite ((hs.updMyCore.foldl fun _ _ h => h.setWindow).finish)

theorem State.MemWf.execMatEdge {k : BitVec 9} {n : BitVec 10} (hs : s.MemWf) : Out.MemWf (execMatEdge k n s) := hs.ite hs.updCw.finish

theorem State.MemWf.execMatBank {bank : Bool} (hs : s.MemWf) : Out.MemWf (execMatBank bank s) := hs.ite hs.updCw.finish

/-! ## Specifiers -/

theorem State.MemWf.matGate {u : Uses} {more : Spec → Uses} {m : MatSpec} {use : MatUse} {sa : Nat} {dc : BitVec 3} {k :
    State → Word → Spec → State}
    (hs : s.MemWf) (hk : ∀ x0 x1 x2, x0.MemWf → (k x0 x1 x2).MemWf) : (s.matGate u more m use sa dc k).MemWf :=
  hs.ite (hs.guard (fun _ h => h.guard (fun _ h => h.illegal.ite (hk _ _ _ h))))

theorem State.MemWf.nextMat (hs : s.MemWf) : (s.nextMat).2.MemWf := hs.updMyCore

/-! ## `mat.ldb` (R276) -/

theorem State.MemWf.execMatLdb {sa : SReg} {sh : BShape} {bank : Bool} {spec : MatSpec} {dc : BitVec 3}
    (hs : s.MemWf) : Out.MemWf (execMatLdb sa sh bank spec dc s) :=
  hs.matGate (fun _ _ _ h => h.ite h.nextMat.issueEng)

theorem State.MemWf.execMatLdbBankWrite {op : Nat} (hs : s.MemWf) : Out.MemWf (execMatLdbBankWrite op s) := by
  unfold Machine.execMatLdbBankWrite
  split
  · split
    · exact hs.endEng.ite (hs.updCore.endEng.ite hs)
    · exact hs
  · exact hs

/-! ## `mat.mma` and `mat.mmar` (R277) -/

theorem State.MemWf.issueMat {m : MatOp} (hs : s.MemWf) : (s.issueMat m).MemWf := .finish (.updCw hs)

theorem State.MemWf.execMatMma {sa : SReg} {roff : BitVec 2} {spec : MatSpec} {dc : BitVec 3}
    (hs : s.MemWf) : Out.MemWf (execMatMma sa roff spec dc s) :=
  hs.matGate (fun _ _ _ h => h.rowOp (fun _ _ _ h => h.takeTrap.ite (h.takeTrap.ite h.issueMat)))

theorem State.MemWf.execMatMmar {va : VReg} {roff : BitVec 2} {spec : MatSpec} {dc : BitVec 3}
    (hs : s.MemWf) : Out.MemWf (execMatMmar va roff spec dc s) :=
  hs.matGate (fun _ _ _ h => h.rowOp (fun _ _ _ h => h.issueMat))

theorem State.MemWf.accumulateRow {m : MatOp} {residue : Bool} {l : Nat} (hs : s.MemWf) : (s.accumulateRow m residue l).MemWf := hs.updCore

theorem State.MemWf.residueRecord {m : MatOp} {op l : Nat} (hs : s.MemWf) : (s.residueRecord m op l).MemWf := by
  unfold State.residueRecord
  split
  · exact hs.log
  · exact hs

theorem State.MemWf.execMatMmaComplete {op : Nat} {residueBad : Mask} (hs : s.MemWf) : Out.MemWf (execMatMmaComplete op residueBad s) := by
  unfold Machine.execMatMmaComplete
  split
  · exact hs.ite (((((hs.foldl fun _ _ h => h.accumulateRow).foldl fun _ _ h => h.residueRecord).dropMat).forOp).reap)
  · exact hs

/-! ## `mat.st` (R280, R281) -/

theorem State.MemWf.execMatSt {sa : SReg} {roff : BitVec 2} {spec : MatSpec} {dc : BitVec 3}
    (hs : s.MemWf) : Out.MemWf (execMatSt sa roff spec dc s) := by
  refine State.MemWf.ite hs (hs.deliverFull fun s hs => hs.matGate fun s _ _ hs => hs.rowOp fun s _ _ hs =>
    State.MemWf.ite hs (hs.rowPoison fun s hs => ?_))
  refine State.MemWf.ite hs.lockTrap ?_
  exact State.MemWf.finish (.updCw (.l1Update (.setOp hs)))

theorem State.MemWf.execMatStComplete {op : Nat} (hs : s.MemWf) : Out.MemWf (execMatStComplete op s) := by
  unfold Machine.execMatStComplete
  split
  · exact hs.endStore.ite hs
  · exact hs

theorem State.MemWf.updFab {f : Fabric → Fabric} (hs : s.MemWf) : (s.updFab f).MemWf := hs

theorem State.MemWf.updPort {p : Nat} {f : Port → Port} (hs : s.MemWf) : (s.updPort p f).MemWf := hs.updFab

theorem State.MemWf.dropFlit {arrival : Nat} {f : Flit} (hs : s.MemWf) : (s.dropFlit arrival f).MemWf := hs.log

theorem State.MemWf.launchFlit {p : Nat} {f : Flit} (hs : s.MemWf) : (s.launchFlit p f).MemWf := hs.updPort.send

theorem State.MemWf.drainPort {p n : Nat} (hs : s.MemWf) : (s.drainPort p n).MemWf := by
  induction n generalizing s with
  | zero => exact hs
  | succ n ih =>
    unfold State.drainPort
    dsimp only
    split
    · exact hs
    split
    · exact hs
    · exact ih hs.updPort.launchFlit

theorem State.MemWf.forward {arrival : Nat} {f : Flit} (hs : s.MemWf) : (s.forward arrival f).MemWf := by
  unfold State.forward
  split
  · exact hs.dropFlit
  · exact hs.dropFlit.ite hs.updPort.drainPort

theorem State.MemWf.post {dest vc : Nat} {payload : List Byte} (hs : s.MemWf) : (s.post dest vc payload).MemWf :=
  hs.log.ite (hs.updFab.ite hs.forward)

theorem State.MemWf.askResend {p : Nat} (hs : s.MemWf) : (s.askResend p).MemWf := hs.updPort.send

theorem State.MemWf.acceptFlit {port : Nat} {f : Flit} (hs : s.MemWf) : (s.acceptFlit port f).MemWf :=
  hs.ite (((hs.ite hs.updPort).askResend).ite ((hs.ite hs.askResend).ite (hs.updPort.drainPort.updFab.ite hs.updPort.drainPort.forward)))

theorem State.MemWf.resendFrom {p : Nat} {fs : List Flit} (hs : s.MemWf) : (s.resendFrom p fs).MemWf := hs.foldl fun _ _ h => h.send

theorem State.MemWf.execResendRequest {port seq : Nat} (hs : s.MemWf) : Out.MemWf (execResendRequest port seq s) := hs.ite hs.resendFrom

theorem State.MemWf.widthRecord {p : Nat} (hs : s.MemWf) : (s.widthRecord p).MemWf := hs.log

theorem State.MemWf.execLinkRetrain {port : Nat} {trained : LinkWidth} (hs : s.MemWf) : Out.MemWf (execLinkRetrain port trained s) :=
  hs.ite (((hs.updPort.widthRecord.ite hs.updPort).resendFrom).drainPort)

theorem State.MemWf.clearReady {bit : Nat} (hs : s.MemWf) : (s.clearReady bit).MemWf := hs.updHub.raiseEvent.ite hs

theorem State.MemWf.execLinkDown {port : Nat} (hs : s.MemWf) : Out.MemWf (execLinkDown port s) := by
  unfold Machine.execLinkDown
  dsimp only
  split
  · exact hs
  split
  · exact hs.updPort
  · exact hs.ite ((hs.updPort.clearReady.updPort.foldl fun _ _ h => h.dropFlit).widthRecord)

theorem State.MemWf.execStopGoSignal {port vc : Nat} {go : Bool} (hs : s.MemWf) : Out.MemWf (execStopGoSignal port vc go s) :=
  hs.ite hs.updPort.drainPort

/-! ## Messages (R359, R455) -/

theorem State.MemWf.hear {src : Nat} {bs : List Byte} {k : State → State}
    (hs : s.MemWf) (hk : ∀ x0, x0.MemWf → (k x0).MemWf) : (s.hear src bs k).MemWf :=
  (hk _ hs.updFab).ite hs

theorem State.MemWf.postAll {chips : List Nat} {bs : List Byte} (hs : s.MemWf) : (s.postAll chips bs).MemWf := hs.foldl fun _ _ h => h.post

/-! ## `col` at issue (R299, R300) -/

theorem State.MemWf.copyArg {cause : Nat} (hs : s.MemWf) : (s.copyArg cause).MemWf := hs.takeTrap

theorem State.MemWf.colIssue {kind : BitVec 4} {dc : BitVec 3} {sa sb sc sd : SReg} {root : Option SReg} {ty : Fmt} {rop : Rop}
    (hs : s.MemWf) : Out.MemWf (s.colIssue kind dc sa sb sc sd root ty rop) :=
  hs.engGate (fun _ h => h.checked (fun _ h => h.copyArg.ite (h.copyArg.ite h.issueEng)))

/-! ## The collective engine: fields of a `col` -/

theorem State.MemWf.updIssued {op : Nat} {f : Issued → Issued} (hs : s.MemWf) : (s.updIssued op f).MemWf := hs.updFab

/-! ## The end of a part (R302, R363) -/

theorem State.MemWf.colStatus {op status : Nat} (hs : s.MemWf) : (s.colStatus op status).MemWf := by
  unfold State.colStatus
  split
  · exact hs
  · exact hs.forOp.endEng

theorem State.MemWf.colEnd {i : Issued} {status : Nat} (hs : s.MemWf) : (s.colEnd i status).MemWf := by
  unfold State.colEnd
  split
  · exact hs.updFab.colStatus
  · exact hs.updFab.colStatus.updFab.post

theorem State.MemWf.askCancel {i : Issued} {status : Nat} (hs : s.MemWf) : (s.askCancel i status).MemWf := by
  unfold State.askCancel
  split
  · exact hs
  · exact hs.updIssued.post

/-! ## Running in milepost order (R363, R364) -/

theorem State.MemWf.tellMembers {vf : Nat} {i : Issued} {bs : Nat → List (List Byte)} (hs : s.MemWf) : (s.tellMembers vf i bs).MemWf :=
  hs.foldl fun _ _ h => h.ite (h.foldl fun _ _ h => h.moved.post)

theorem State.MemWf.setWaits {op : Nat} {w : Bool} (hs : s.MemWf) : (s.setWaits op w).MemWf := hs.updIssued

theorem State.MemWf.colRun {n : Notice} {i : Issued} {e : EngOp} (hs : s.MemWf) : (s.colRun n i e).MemWf := by
  unfold State.colRun
  dsimp only
  split
  · exact hs
  split
  · exact hs.askCancel
  split
  · exact hs.askCancel
  split
  · exact hs.setEng
  · exact hs.setEng.setWaits.tellMembers.ite hs
  · split
    · exact hs
    · exact hs.setEng.setWaits
  · exact hs.updIssued.setWaits.tellMembers.ite hs
  · exact hs

theorem State.MemWf.colAdvance {n : Nat} (hs : s.MemWf) : (s.colAdvance n).MemWf := by
  induction n generalizing s with
  | zero => exact hs
  | succ n ih =>
    unfold State.colAdvance
    have h : ((s.fab.issued.foldl (fun s i => if (s.eng? i.op).isNone && !i.asked then s.askCancel i 4 else s) s).updFab fun f =>
        { f with inbox := f.inbox.filter fun x => !f.reports.any fun r => isData r.milepost r.id r.call x }).MemWf :=
      (hs.foldl fun _ _ h => h.askCancel.ite h).updFab
    dsimp only
    split
    · exact h
    split
    · exact h
    split
    · exact h
    · exact ih h.colRun

theorem State.MemWf.execCollectivePartComplete {milepost : Nat} (hs : s.MemWf) : Out.MemWf (execCollectivePartComplete milepost s) := by
  unfold Machine.execCollectivePartComplete
  split
  · exact hs
  split
  · exact hs
  split
  · exact hs
  · exact hs.colEnd.colAdvance.ite hs

/-! ## A `col` reaches the engine (R302, R357, R360) -/

theorem State.MemWf.colArrive {id : Nat} {e : EngOp} (hs : s.MemWf) : (s.colArrive id e).MemWf := by
  unfold State.colArrive
  dsimp only
  split
  · exact hs
  split
  · exact hs.colStatus
  split
  · exact hs.updFab.updLaunch.setEng.updFab.post
  split
  · exact hs.updFab.updLaunch.setEng.updFab.colEnd.colAdvance
  · exact hs.updFab.updLaunch.setEng.updFab.colAdvance

/-! ## The primary sequencer (R360 to R362) -/

theorem State.MemWf.updSeq {f : Sequencer → Sequencer} (hs : s.MemWf) : (s.updSeq f).MemWf := hs.updFab

theorem State.MemWf.notify {g : Grant} (hs : s.MemWf) : (s.notify g).MemWf := hs.postAll

theorem State.MemWf.grant {m : ColMsg} {ms : List Nat} (hs : s.MemWf) : (s.grant m ms).MemWf := hs.updSeq.notify.ite hs.updSeq.post

theorem State.MemWf.dropRequest {w : Nat × ColMsg} (hs : s.MemWf) : (s.dropRequest w).MemWf := hs.updSeq

theorem State.MemWf.pump {n : List (Nat × ColMsg)} (hs : s.MemWf) : (s.pump n).MemWf := by
  induction n generalizing s with
  | nil => exact hs
  | cons x xs ih =>
    unfold State.pump
    split
    · exact ih hs
    split
    · exact hs
    split
    · exact ih hs.dropRequest.post
    · exact (ih hs.dropRequest).ite ((ih hs).ite (ih hs.grant))

theorem State.MemWf.onRequest {src : Nat} {m : ColMsg} (hs : s.MemWf) : (s.onRequest src m).MemWf := hs.ite hs.updSeq.pump

theorem State.MemWf.execRequest {src : Nat} {m : ColMsg} (hs : s.MemWf) : Out.MemWf (execRequest src m s) :=
  hs.hear (fun _ h => h.onRequest)

theorem State.MemWf.onReplicate {src : Nat} {m : ColMsg} (hs : s.MemWf) : (s.onReplicate src m).MemWf := hs.ite hs.updSeq.post

theorem State.MemWf.execReplicate {src : Nat} {m : ColMsg} (hs : s.MemWf) : Out.MemWf (execReplicate src m s) :=
  hs.hear (fun _ h => h.onReplicate)

theorem State.MemWf.onReplicateAck {src milepost : Nat} (hs : s.MemWf) : (s.onReplicateAck src milepost).MemWf := by
  unfold State.onReplicateAck
  split
  · exact hs
  split
  · exact hs
  · exact hs.updSeq.notify.pump

theorem State.MemWf.execReplicateAck {src milepost : Nat} (hs : s.MemWf) : Out.MemWf (execReplicateAck src milepost s) :=
  hs.hear (fun _ h => h.onReplicateAck)

theorem State.MemWf.onReport {src milepost : Nat} (hs : s.MemWf) : (s.onReport src milepost).MemWf := hs.ite hs.updSeq.pump

theorem State.MemWf.execReport {src milepost status : Nat} (hs : s.MemWf) : Out.MemWf (execReport src milepost status s) :=
  hs.hear (fun _ h => h.onReport)

/-! ## The milepost agent (R361, R357, R456) -/

theorem State.MemWf.onNotice {src : Nat} {m : ColMsg} (hs : s.MemWf) : (s.onNotice src m).MemWf := by
  unfold State.onNotice
  split
  · exact hs
  split
  · exact hs.post
  · exact hs.ite hs.updFab.colAdvance

theorem State.MemWf.execNotice {src : Nat} {m : ColMsg} (hs : s.MemWf) : Out.MemWf (execNotice src m s) := hs.hear (fun _ h => h.onNotice)

theorem State.MemWf.onUnknown {src : Nat} {m : ColMsg} (hs : s.MemWf) : (s.onUnknown src m).MemWf := by
  unfold State.onUnknown
  split
  · exact hs
  split
  · exact hs
  · exact hs.colEnd

theorem State.MemWf.execUnknown {src : Nat} {m : ColMsg} (hs : s.MemWf) : Out.MemWf (execUnknown src m s) :=
  hs.hear (fun _ h => h.onUnknown)

/-! ## Failover (R455 to R457) -/

theorem State.MemWf.execHeartbeatSend (hs : s.MemWf) : Out.MemWf (execHeartbeatSend s) := hs.ite hs.updSeq.post

theorem State.MemWf.onHeartbeat {src oldest : Nat} (hs : s.MemWf) : (s.onHeartbeat src oldest).MemWf := hs.ite hs.updSeq

theorem State.MemWf.execHeartbeat {src oldest : Nat} (hs : s.MemWf) : Out.MemWf (execHeartbeat src oldest s) :=
  hs.hear (fun _ h => h.onHeartbeat)

theorem State.MemWf.execSequencerTakeover (hs : s.MemWf) : Out.MemWf (execSequencerTakeover s) :=
  hs.ite (hs.log.updFab.postAll.foldl fun _ _ h => h.notify)

theorem State.MemWf.onTakeover {newPrimary : Nat} (hs : s.MemWf) : (s.onTakeover newPrimary).MemWf :=
  (hs.updFab.foldl fun _ _ h => h.post).foldl fun _ _ h => h.post

theorem State.MemWf.execTakeover {src newPrimary first : Nat} (hs : s.MemWf) : Out.MemWf (execTakeover src newPrimary first s) :=
  hs.hear (fun _ h => h.onTakeover)

/-! ## Cancellation (R458, R459) -/

theorem State.MemWf.onCancel {milepost status : Nat} (hs : s.MemWf) : (s.onCancel milepost status).MemWf := by
  unfold State.onCancel
  split
  · exact hs
  split
  · exact hs
  · exact hs.updSeq.postAll

theorem State.MemWf.execCancel {src milepost status : Nat} (hs : s.MemWf) : Out.MemWf (execCancel src milepost status s) :=
  hs.hear (fun _ h => h.onCancel)

theorem State.MemWf.onCancelled {src milepost status : Nat} (hs : s.MemWf) : (s.onCancelled src milepost status).MemWf := by
  unfold State.onCancelled
  split
  · exact hs
  split
  · exact hs.colEnd.colAdvance
  · exact hs.updFab.colAdvance

theorem State.MemWf.execCancelled {src milepost status : Nat} (hs : s.MemWf) : Out.MemWf (execCancelled src milepost status s) :=
  hs.hear (fun _ h => h.onCancelled)

theorem State.MemWf.execCollectiveTimeout {milepost : Nat} (hs : s.MemWf) : Out.MemWf (execCollectiveTimeout milepost s) := by
  unfold Machine.execCollectiveTimeout
  split
  · exact hs
  split
  · exact hs
  · exact hs.askCancel.ite hs

/-! ## The sequencer channel and the data channel -/

theorem State.MemWf.handle {src : Nat} {bs : List Byte} (hs : s.MemWf) : (s.handle src bs).MemWf := by
  unfold State.handle
  refine hs.hear (fun _ h => ?_)
  split
  · exact h.onRequest
  · exact h.onNotice
  · exact h.onUnknown
  · exact h.onReport
  · exact h.onReplicate
  · exact h.onHeartbeat
  · exact h.onTakeover
  · exact h.onCancel
  · exact h.onCancelled
  · exact h.onReplicateAck
  · exact h

theorem State.MemWf.execFlitReceive {port : Nat} {f : Flit} (hs : s.MemWf) : Out.MemWf (execFlitReceive port f s) :=
  hs.acceptFlit.colAdvance

theorem State.MemWf.execCommunicatorEntryWrite {i : Nat} {val : BitVec 256}
    (hs : s.MemWf) : Out.MemWf (execCommunicatorEntryWrite i val s) :=
  hs.ite (hs.updFab.updSeq.pump.ite hs.updFab)

/-! ## Homes and walks -/

theorem State.MemWf.execHomeRequest {op part : Nat} (hs : s.MemWf) : Out.MemWf (execHomeRequest op part s) := by
  unfold Machine.execHomeRequest
  split
  · exact hs.serveLane
  split
  · exact hs.serveXfer.colAdvance.ite hs.serveXfer
  · exact hs

theorem State.MemWf.execPageTableWalk {op part : Nat} (hs : s.MemWf) : Out.MemWf (execPageTableWalk op part s) :=
  hs.walkLane.ite hs.walkXfer

theorem State.MemWf.peerFails {op part until_ : Nat} (hs : s.MemWf) : (s.peerFails op part until_).MemWf := by
  unfold State.peerFails
  dsimp only
  split
  · split
    · exact hs
    split
    · exact hs.faultLane.ite hs
    · exact hs
  split
  · exact hs
  split
  · exact hs.engFault.ite hs
  · exact hs

theorem State.MemWf.execPeerRequestTimeout {op part : Nat} (hs : s.MemWf) : Out.MemWf (execPeerRequestTimeout op part s) :=
  hs.ite hs.peerFails

/-! ## Return and acknowledgement (R232) -/

theorem State.MemWf.execLoadReturn {op : Nat} (hs : s.MemWf) : Out.MemWf (execLoadReturn op s) := by
  unfold Machine.execLoadReturn
  split
  · exact hs
  · exact hs.ite (hs.frameBack.ite (hs.ite ((hs.dropOp.forOp.acquire.ite hs.dropOp.forOp).reap)))

theorem State.MemWf.execStoreAcknowledge {op : Nat} (hs : s.MemWf) : Out.MemWf (execStoreAcknowledge op s) := by
  unfold Machine.execStoreAcknowledge
  split
  · exact hs
  · exact hs.endStore.ite hs

theorem State.MemWf.execReleaseDrainComplete {op : Nat} (hs : s.MemWf) : Out.MemWf (execReleaseDrainComplete op s) := by
  unfold Machine.execReleaseDrainComplete
  split
  · exact hs
  split
  · exact hs
  split
  · exact hs
  show State.MemWf (if _ then _ else _)
  split
  · exact State.MemWf.l1Update hs
  · exact hs

/-! ## Promotion (R147, R151) -/

theorem State.MemWf.execPromoteRequest {pid : Nat} (hs : s.MemWf) : Out.MemWf (execPromoteRequest pid s) := by
  unfold Machine.execPromoteRequest
  split
  · exact hs
  · exact hs.ite hs

theorem State.MemWf.setLaneSt {id part : Nat} {st : LaneSt} (hs : s.MemWf) : (s.setLaneSt id part st).MemWf := by
  unfold State.setLaneSt
  split
  · exact hs.setOp
  · exact hs

theorem State.MemWf.execPromoteDone {pid : Nat} (hs : s.MemWf) : Out.MemWf (execPromoteDone pid s) := by
  unfold Machine.execPromoteDone
  dsimp only
  split
  · exact hs
  split
  · exact hs
  refine State.MemWf.foldl ?_ fun _ _ h => ?_
  · refine State.MemWf.foldl ?_ fun _ _ h => ?_
    · split
      · exact .setHline hs
      · exact hs
    · exact .setLaneSt h
  · exact .serveLane h

/-! ## Page answers (R423 to R428, R430) -/

theorem State.MemWf.badAnswer {vf stage g status : Nat} (hs : s.MemWf) : (s.badAnswer vf stage g status).MemWf := hs.log

theorem State.MemWf.closeGroup {vf stage g : Nat} (hs : s.MemWf) : (s.closeGroup vf stage g).MemWf := hs

theorem State.MemWf.mapPaged {vf stage g : Nat} {f : Lane → Lane} (hs : s.MemWf) : (s.mapPaged vf stage g f).MemWf := hs

theorem State.MemWf.mapWarps {f : Warp → Warp} (hs : s.MemWf) : (s.mapWarps f).MemWf := hs

theorem State.MemWf.freeXfer {x : Nat × Nat} (hs : s.MemWf) : (s.freeXfer x).MemWf := by
  unfold State.freeXfer
  split
  · exact hs.setEng
  · exact hs

theorem State.MemWf.pageOk {vf stage group : Nat} (hs : s.MemWf) : (s.pageOk vf stage group).MemWf :=
  (hs.closeGroup.mapWarps.mapPaged.foldl fun _ _ h => h.freeXfer).bump

theorem State.MemWf.execPrspSuccess {vf stage group : Nat} (hs : s.MemWf) : Out.MemWf (execPrspSuccess vf stage group s) :=
  hs.pageOk.ite hs.badAnswer

theorem State.MemWf.trapWaiting {slot : Nat} {t : TrapInfo} (hs : s.MemWf) : (s.trapWaiting slot t).MemWf :=
  hs.ite (hs.unhandled.ite hs.queueTrap)

theorem State.MemWf.dropHeld {vf stage g : Nat} (hs : s.MemWf) : (s.dropHeld vf stage g).MemWf :=
  hs.foldl fun _ _ h => h.foldl fun _ _ h => h.setL1.ite h

theorem State.MemWf.failXfer {stage : Nat} {x : Nat × Nat} (hs : s.MemWf) : (State.failXfer stage s x).MemWf := by
  unfold State.failXfer
  split
  · exact hs
  · exact hs.engFault

theorem State.MemWf.failFrames {vf stage g : Nat} (hs : s.MemWf) : (s.failFrames vf stage g).MemWf := by
  unfold State.failFrames
  refine hs.foldl fun _ _ h => ?_
  split
  · exact h.faultLane
  · exact h

theorem State.MemWf.pageFail {vf stage g : Nat} (hs : s.MemWf) : (s.pageFail vf stage g).MemWf :=
  .colAdvance (.foldl (.of_mem rfl (.foldl (.mapPaged (.dropHeld (.failFrames (.closeGroup hs)))) fun _ _ h => .failXfer h)) fun _ _ h =>
    .trapWaiting h)

/-! ## Faults that wait for a group (R420) -/

theorem State.MemWf.htuOne {x : HtuWait} {rest : List HtuWait} (hs : s.MemWf) : OptMemWf (s.htuOne x rest) := by
  unfold State.htuOne
  extract_lets t
  have ht : t.MemWf := hs
  split
  · exact ht
  split
  · exact (ht.pageFault.group ‹_›).mapWarps
  · trivial
  · exact State.MemWf.foldl (by exact hs) fun _ _ h => h.trapWaiting

theorem State.MemWf.htuFrom {n m : List HtuWait} (hs : s.MemWf) : (s.htuFrom n m).MemWf := by
  induction m generalizing n with
  | nil => exact hs
  | cons x xs ih =>
    unfold State.htuFrom
    split
    · exact hs.htuOne.some ‹_›
    · exact ih

theorem State.MemWf.htuTry (hs : s.MemWf) : s.htuTry.MemWf := hs.htuFrom

theorem State.MemWf.execPrspFailure {vf stage group : Nat} (hs : s.MemWf) : Out.MemWf (execPrspFailure vf stage group s) :=
  hs.pageFail.ite hs.badAnswer

/-! ## Engine operations (R152, R154) -/

theorem State.MemWf.execEngineStart {op : Nat} (hs : s.MemWf) : Out.MemWf (execEngineStart op s) := by
  unfold Machine.execEngineStart
  dsimp only
  split
  · exact hs
  split
  · exact hs
  split
  · exact hs.setEng
  · exact hs.setEng
  · exact hs.setEng
  · exact hs.setEng
  · exact hs.colArrive
  · exact hs.setEng

theorem State.MemWf.execEngineOperationComplete {op : Nat} (hs : s.MemWf) : Out.MemWf (execEngineOperationComplete op s) := by
  unfold Machine.execEngineOperationComplete
  split
  · exact hs
  · exact hs.endEng.ite hs

/-! ## Queue registers (R322, R377) -/

theorem State.MemWf.setQueue {k : Nat} {q : Queue} (hs : s.MemWf) : (s.setQueue k q).MemWf := hs

theorem State.MemWf.execQrsv {vf cp q : Nat} (hs : s.MemWf) : Out.MemWf (execQrsv vf cp q s) :=
  hs.ite (hs.send.ite (hs.send.ite hs.setQueue.send))

theorem State.MemWf.execQdb {vf cp q : Nat} (hs : s.MemWf) : Out.MemWf (execQdb vf cp q s) := hs.ite hs.setQueue

theorem State.MemWf.execQctlWrite {vf cp q : Nat} {val : Word} (hs : s.MemWf) : Out.MemWf (execQctlWrite vf cp q val s) :=
  hs.ite hs.setQueue

/-! ## Slots (R323, R324) -/

theorem State.MemWf.takeSlot {k : Nat} (hs : s.MemWf) : (s.takeSlot k).MemWf := hs.flushPa.hubPokes.moved.setQueue

theorem State.MemWf.haltQueue {k : Nat} (hs : s.MemWf) : (s.haltQueue k).MemWf := hs.setQueue.raiseEvent

theorem State.MemWf.execLaunchSlot {cp q : Nat} (hs : s.MemWf) : Out.MemWf (execLaunchSlot cp q s) := by
  unfold Machine.execLaunchSlot
  dsimp only
  split
  · exact hs
  split
  · exact State.MemWf.updLaunch hs
  split
  · exact State.MemWf.ite hs hs.takeSlot
  split
  · exact hs
  split
  · exact hs.takeSlot.haltQueue
  · exact State.MemWf.setLaunch (.setQueue (.takeSlot hs))

/-! ## Checks of a header (R327) -/

theorem State.MemWf.loadTable {lid : Nat} {l : Launch} (hs : s.MemWf) : (s.loadTable lid l).MemWf := by
  unfold State.loadTable
  dsimp only
  split
  · exact hs
  split
  · trivial
  split
  · trivial
  split
  · trivial
  split
  · trivial
  · exact hs.cpReadRaw.some ‹_›

theorem State.MemWf.readWset {l : Launch} {va n : Nat} (hs : s.MemWf) : (s.readWset l va n).1.MemWf := by
  induction n generalizing s va with
  | zero => exact hs
  | succ n ih =>
    unfold State.readWset
    split
    · exact hs
    split
    · exact hs
    dsimp only
    split
    · exact hs.cpRead.some ‹_›
    split
    · exact hs.cpRead.some ‹_›
    split
    · exact (ih (hs.cpRead.some ‹_›)).of_fst ‹_›
    · exact ih (hs.cpRead.some ‹_›)

/-! ## Ready (R329, R331, R435) -/

theorem State.MemWf.reject {lid code : Nat} (hs : s.MemWf) : (s.reject lid code).MemWf := hs.complete.dispatch

theorem State.MemWf.markSet {lid : Nat} (hs : s.MemWf) : (s.markSet lid).MemWf := by
  unfold State.markSet
  split
  · exact hs
  · exact hs.foldl fun _ _ h => h.writeBack

theorem State.MemWf.makeReady {lid : Nat} (hs : s.MemWf) : (s.makeReady lid).MemWf := hs.markSet.updLaunch.bump.dispatch

theorem State.MemWf.checkTable {lid : Nat} {l : Launch} (hs : s.MemWf) : (s.checkTable lid l).MemWf := by
  unfold State.checkTable
  split
  · exact hs.setLaunch
  · exact hs.reject
  · next t ht =>
    have read : (if l.wsetVa = 0 then (t, .ok []) else t.readWset l l.wsetVa 257 : State × Except Nat (List (Nat × Nat))).1.MemWf := by
      split
      · exact hs.loadTable.ok ht
      · exact (hs.loadTable.ok ht).readWset
    split
    · exact (read.of_fst ‹_›).setLaunch.ite (read.of_fst ‹_›).reject
    dsimp only
    split
    · exact (read.of_fst ‹_›).reject
    · exact (read.of_fst ‹_›).setLaunch.makeReady.ite (read.of_fst ‹_›).setLaunch

theorem State.MemWf.checkHeader {lid : Nat} {l : Launch} (hs : s.MemWf) : (s.checkHeader lid l).MemWf :=
  hs.reject.ite (hs.reject.ite (hs.reject.ite (hs.reject.ite (hs.setLaunch.ite hs.checkTable))))

theorem State.MemWf.readHeader {l : Launch} (hs : s.MemWf) : OptFstMemWf (s.readHeader l) := by
  unfold State.readHeader
  split
  · exact hs.cpReadRaw
  · exact hs.cpRead

theorem State.MemWf.execLaunchHeaderRead {launch : Nat} (hs : s.MemWf) : Out.MemWf (execLaunchHeaderRead launch s) := by
  unfold Machine.execLaunchHeaderRead
  split
  · exact hs
  split
  · exact hs
  split
  · exact .checkHeader hs
  split
  · exact hs
  split
  · exact .reject hs
  · exact .checkHeader (.setLaunch (hs.readHeader.some ‹_›))

theorem State.MemWf.waitEvent {l : Launch} {i : Nat} (hs : s.MemWf) : (s.waitEvent l i).1.MemWf := by
  unfold State.waitEvent
  split
  · exact hs
  split
  · exact hs
  split
  · exact hs
  · split <;> exact hs.cpRead.some ‹_›

theorem State.MemWf.waitEvents {l : Launch} {n : List Nat} (hs : s.MemWf) : (s.waitEvents l n).1.MemWf := by
  induction n generalizing s with
  | nil => exact hs
  | cons x xs ih =>
    unfold State.waitEvents
    split
    · exact ih (hs.waitEvent.of_fst ‹_›)
    · split
      · exact (ih (hs.waitEvent.of_fst ‹_›)).of_fst ‹_›
      · exact ih (hs.waitEvent.of_fst ‹_›)
    · exact hs.waitEvent

theorem State.MemWf.execWaitEventCheck {launch : Nat} (hs : s.MemWf) : Out.MemWf (execWaitEventCheck launch s) := by
  unfold Machine.execWaitEventCheck
  split
  · exact hs
  split
  · exact hs
  split
  · exact (hs.waitEvents.of_fst ‹_›).makeReady
  · exact hs
  · exact (hs.waitEvents.of_fst ‹_›).reject

theorem State.MemWf.execGangStart {launch : Nat} (hs : s.MemWf) : Out.MemWf (execGangStart launch s) := by
  unfold Machine.execGangStart
  split
  · exact hs
  · exact hs.ite (hs.setLaunch.log.ite hs.setLaunch)

/-! ## `launch` (R312) -/

theorem State.MemWf.execLaunchEntryAppend {op : Nat} (hs : s.MemWf) : Out.MemWf (execLaunchEntryAppend op s) := by
  unfold Machine.execLaunchEntryAppend
  dsimp only
  split
  · exact hs
  split
  · exact hs
  split
  · exact hs.endEng
  split
  · exact hs
  split
  · exact hs
  split
  · exact State.MemWf.ite hs hs.signal.endEng
  split
  · exact hs
  · exact State.MemWf.endEng hs

/-! ## Range invalidation (R121, R122) -/

theorem State.MemWf.invHome {key : Nat} (hs : s.MemWf) : (s.invHome key).MemWf := by
  unfold State.invHome
  split
  · exact hs.promote
  · exact hs.writeBack.dropSharers.setHline

theorem State.MemWf.invStep {i : RangeInv} (hs : s.MemWf) : (s.invStep i).MemWf := hs.foldl fun _ _ h => h.invHome

theorem State.MemWf.execRangeInvalidationEntry {cp q : Nat} (hs : s.MemWf) : Out.MemWf (execRangeInvalidationEntry cp q s) := by
  unfold Machine.execRangeInvalidationEntry
  extract_lets k x bs t i j u
  have ht : t.MemWf := hs.takeSlot
  exact State.MemWf.ite hs (State.MemWf.ite ht (.invStep ht))

theorem State.MemWf.invDone {i : RangeInv} {v : Nat} (hs : s.MemWf) : (s.invDone i v).MemWf := by
  unfold State.invDone
  dsimp only
  split
  · exact hs.ite hs
  split
  · refine ((State.MemWf.cpWriteRaw ?_).ite (State.MemWf.cpWrite ?_)).some ‹_› <;> exact hs.ite hs
  · exact hs.ite hs

theorem State.MemWf.execRangeInvalidationDone {cp q : Nat} (hs : s.MemWf) : Out.MemWf (execRangeInvalidationDone cp q s) := by
  unfold Machine.execRangeInvalidationDone
  split
  · exact hs
  · exact hs.invDone.ite (hs.invStep.ite (hs.ite hs.invStep.invDone))

/-! ## Pre-emption (R340, R341, R376) -/

theorem State.MemWf.leaveCores {bid : Nat} (hs : s.MemWf) : (s.leaveCores bid).MemWf :=
  .foldl (.updBlock (.foldl (.of_mem rfl (.foldl hs fun _ _ h => .setWarp h)) fun _ _ h => .updCore h)) fun _ _ h => .ite h (.updCore h)

theorem State.MemWf.writeContext {vf used bid n : Nat} (hs : s.MemWf) : (s.writeContext vf used bid n).MemWf := hs.hubPokes.moved

theorem State.MemWf.writeContexts {vf : Nat} {n : List (Nat × SavedBlock)} {m : Nat} (hs : s.MemWf) : (s.writeContexts vf n m).MemWf := by
  induction n generalizing s m with
  | nil => exact hs
  | cons x xs ih => exact ih hs.writeContext

theorem State.MemWf.saveCluster {vf cid : Nat} (hs : s.MemWf) : (s.saveCluster vf cid).MemWf :=
  .dispatch (.updCluster (.of_mem rfl (.foldl (.writeContexts hs) fun _ _ h => .leaveCores h)))

theorem State.MemWf.extendSlice {lid : Nat} {l : Launch} (hs : s.MemWf) : (s.extendSlice lid l).MemWf := hs.updLaunch

theorem State.MemWf.execPreemptSave {cluster : Nat} (hs : s.MemWf) : Out.MemWf (execPreemptSave cluster s) := by
  unfold Machine.execPreemptSave
  dsimp only
  split
  · exact hs
  · exact hs.ite ((hs.foldl fun _ _ h => h.saveCluster).ite ((hs.foldl fun _ _ h => h.updCluster).ite ((hs.foldl fun _ _ h =>
    h.updCluster).extendSlice)))

theorem State.MemWf.execTimeSliceExpiry {part : Nat} (hs : s.MemWf) : Out.MemWf (execTimeSliceExpiry part s) := by
  unfold Machine.execTimeSliceExpiry
  split
  next f start _ =>
  extract_lets slice t u
  have hu : u.MemWf := hs.foldl fun _ _ h => h.askLeave
  refine State.MemWf.ite hs (State.MemWf.ite hs.askLate (State.MemWf.ite ?_ hu.dispatch))
  exact hs.foldl fun _ _ h => .ite h h.extendSlice

/-! ## Ending a launch by request (R451) -/

theorem State.MemWf.abortTry (hs : s.MemWf) : s.abortTry.MemWf := by
  unfold State.abortTry
  split
  · exact hs
  · exact hs.ite ((hs.foldl fun _ _ h => h.askCancel.ite h).abortLaunch)

theorem State.MemWf.execLaunchAbort {vf : Nat} {val : Word} (hs : s.MemWf) : Out.MemWf (execLaunchAbort vf val s) := by
  unfold Machine.execLaunchAbort
  dsimp only
  split
  · exact hs
  split
  · exact hs
  split
  · exact hs
  · exact hs.ite hs.updHub.abortTry

/-! ## Control registers with rules of their own -/

theorem State.MemWf.execPctlWrite {vf stage : Nat} {val : Word} (hs : s.MemWf) : Out.MemWf (execPctlWrite vf stage val s) := hs.ite hs.setPq

theorem State.MemWf.execLctlWrite {val : Word} (hs : s.MemWf) : Out.MemWf (execLctlWrite val s) := hs.ite hs.updHub

theorem State.MemWf.reraise {vf bit : Nat} (hs : s.MemWf) : (s.reraise vf bit).MemWf := hs.raiseEvent.ite hs

theorem State.MemWf.clearEvent {vf bit : Nat} (hs : s.MemWf) : (s.clearEvent vf bit).MemWf := hs.updHub.reraise

theorem State.MemWf.execEvstClear {vf : Nat} {val : Word} (hs : s.MemWf) : Out.MemWf (execEvstClear vf val s) :=
  hs.ite (hs.foldl fun _ _ h => h.clearEvent.ite h)

theorem State.MemWf.execEvmaskWrite {vf : Nat} {val : Word} (hs : s.MemWf) : Out.MemWf (execEvmaskWrite vf val s) :=
  hs.ite (hs.updHub.foldl fun _ _ h => h.msix.ite h)

/-! ## Partition and function entries (R374, R375) -/

theorem State.MemWf.execPartitionEntryWrite {i : Nat} {val : BitVec 128} (hs : s.MemWf) : Out.MemWf (execPartitionEntryWrite i val s) :=
  hs.ite (hs.ite (hs.log.ite hs.updHub))

theorem State.MemWf.execFunctionEntryWrite {f : Nat} {val : BitVec 256} (hs : s.MemWf) : Out.MemWf (execFunctionEntryWrite f val s) :=
  hs.ite hs.updHub

/-! ## Writes of registers without a row of their own (R4) -/

/-- Whole functions are compared here: applied to its operands, the kernel would count down from 0x40000. -/

theorem State.MemWf.writeQbase {vf off bytes val : Nat} (hs : s.MemWf) : (s.writeQbase vf off bytes val).MemWf := by
  generalize h : @State.writeQbase = f
  delta State.writeQbase at h
  subst h
  dsimp only
  split
  · exact State.MemWf.ite hs.setQueue hs
  · exact hs

theorem State.MemWf.writeAperture {off bytes val : Nat} (hs : s.MemWf) : (s.writeAperture off bytes val).MemWf := by
  unfold State.writeAperture
  dsimp only
  split
  · exact hs.updHub
  · exact hs

theorem State.MemWf.writeFabric {off bytes val : Nat} (hs : s.MemWf) : (s.writeFabric off bytes val).MemWf := by
  unfold State.writeFabric
  split
  · exact hs.foldl fun _ _ h => h.updFab
  split
  · exact hs.updFab
  split
  · exact hs.updFab
  split
  · exact hs.updFab
  · exact hs

theorem State.MemWf.writePq {vf stage base off bytes val : Nat} (hs : s.MemWf) : (s.writePq vf stage base off bytes val).MemWf := by
  unfold State.writePq
  dsimp only
  split
  · exact hs.ite hs.setPq
  split
  · exact hs.setPq.reraise
  split
  · exact hs.badAnswer.ite hs
  · exact hs

theorem State.MemWf.writeLog {off bytes val : Nat} (hs : s.MemWf) : (s.writeLog off bytes val).MemWf := by
  unfold State.writeLog
  split
  · exact hs.ite hs.updHub
  split
  · exact hs.updHub.reraise
  split
  · exact hs.updHub
  split
  · exact hs.updHub
  · exact hs

theorem State.MemWf.writeMsix {vf i val : Nat} (hs : s.MemWf) : (s.writeMsix vf i val).MemWf :=
  hs.setMsixWord.updHub.send.ite hs.setMsixWord

theorem State.MemWf.writeMsixAll {vf off bytes val : Nat} (hs : s.MemWf) : (s.writeMsixAll vf off bytes val).MemWf :=
  (hs.foldl fun _ _ h => h.writeMsix).ite hs

theorem State.MemWf.regWrite {vf off bytes v : Nat} (hs : s.MemWf) : (s.regWrite vf off bytes v).MemWf :=
  hs.ite <| hs.writeQbase.ite <| (hs.writeAperture.ite hs).ite <| (hs.writeFabric.ite hs).ite <| hs.writePq.ite <| (hs.writePq.ite hs).ite
    <|
    (hs.writeLog.ite hs).ite <| hs.writeMsixAll.ite hs

/-! ## Readiness (R383, R460) -/

theorem State.MemWf.colAbortAll (hs : s.MemWf) : s.colAbortAll.MemWf := (hs.foldl fun _ _ h => h.colEnd).foldl fun _ _ h => h.colStatus

theorem State.MemWf.execReadinessBitClears {bit : Nat} (hs : s.MemWf) : Out.MemWf (execReadinessBitClears bit s) :=
  hs.ite (hs.clearReady.colAbortAll.ite hs.clearReady)

/-! ## Apertures (R349, R350) -/

theorem State.MemWf.apLook {vf asid : Nat} {k : ApertureKind} {p : Nat × Nat} (hs : s.MemWf) : OptFstMemWf (s.apLook vf asid k p) := by
  unfold State.apLook
  split
  · next t key ht =>
    have h : t.MemWf := hs.touchCp.ok ht
    dsimp only
    split
    · exact h.served
    · trivial
  · dsimp only
    split
    · exact hs.moved
    · trivial
  · trivial

theorem State.MemWf.apReach {vf asid : Nat} {k : ApertureKind} {n : List (Nat × Nat)}
    (hs : s.MemWf) : OptFstMemWf (s.apReach vf asid k n) := by
  induction n generalizing s with
  | nil => exact hs
  | cons x xs ih =>
    unfold State.apReach
    split
    · trivial
    next ht => exact (ih (hs.apLook.pair ht)).mapFst fun _ h => h

theorem State.MemWf.apWrite {vf asid : Nat} {n : List (Nat × Nat)} {m : List Byte} (hs : s.MemWf) : (s.apWrite vf asid n m).MemWf := by
  induction n generalizing s m with
  | nil => exact hs
  | cons x xs ih =>
    unfold State.apWrite
    dsimp only
    refine ih ?_
    split
    · exact (hs.touchCp.ok ‹_›).homeStore
    · exact hs.portStore
    · exact hs

theorem State.MemWf.apDo {vf asid va : Nat} {k : ApertureKind} {old : List Byte} (hs : s.MemWf) : (s.apDo vf asid va k old).1.MemWf := by
  unfold State.apDo
  split
  · exact hs
  · exact hs.apWrite
  split
  · exact (hs.touchCp.ok ‹_›).homeStore
  · exact hs.portStore
  · exact hs

theorem State.MemWf.apServe {a : ApertureAcc} (hs : s.MemWf) : OptMemWf (s.apServe a) := by
  unfold State.apServe
  dsimp only
  split
  · trivial
  split
  · exact hs.send
  split
  · trivial
  split
  · exact hs.send
  split
  · trivial
  · exact ((hs.apReach.some ‹_›).apDo).send

theorem State.MemWf.apServeAll (hs : s.MemWf) : s.apServeAll.MemWf := hs.updHub.foldl fun _ _ h => h.apServe.getD h.updHub

theorem State.MemWf.execApertureAccess {a : ApertureAcc} (hs : s.MemWf) : Out.MemWf (execApertureAccess a s) :=
  hs.ite (hs.apServe.getD hs.updHub)

/-! ## The pool tier (R354, R355, R439 to R441) -/

theorem State.MemWf.execBisnpinv {pa : Nat} (hs : s.MemWf) : Out.MemWf (execBisnpinv pa s) :=
  (hs.foldl fun _ _ h => h.writeBack.poolDrop).send

theorem State.MemWf.execBisnpdata {pa : Nat} (hs : s.MemWf) : Out.MemWf (execBisnpdata pa s) := (hs.foldl fun _ _ h => h.writeBack).send

theorem State.MemWf.setPoolReg {p : Nat} {v : DWord} (hs : s.MemWf) : (s.setPoolReg p v).MemWf := hs.updHub

theorem State.MemWf.poisonLine {key : Nat} (hs : s.MemWf) : (s.poisonLine key).MemWf := by
  unfold State.poisonLine
  split
  · exact hs.setHline
  · exact hs

theorem State.MemWf.dropPoolFetch (hs : s.MemWf) : s.dropPoolFetch.MemWf := hs

theorem State.MemWf.execPoolRangeLost {port dec : Nat} (hs : s.MemWf) : Out.MemWf (execPoolRangeLost port dec s) :=
  hs.ite ((((hs.foldl fun _ _ h => h.dropSharers.poisonLine.ite h.poolDrop).dropPoolFetch).setPoolReg).log)

theorem State.MemWf.execPoolLostClear {port : Nat} {val : DWord} (hs : s.MemWf) : Out.MemWf (execPoolLostClear port val s) :=
  hs.ite hs.setPoolReg

theorem State.MemWf.execPoolRangeReachable {port : Nat} {r : HdmRange} (hs : s.MemWf) : Out.MemWf (execPoolRangeReachable port r s) :=
  hs.ite hs.updHub.setPoolReg

theorem State.MemWf.updPower {f : Power → Power} (hs : s.MemWf) : (s.updPower f).MemWf := hs

/-! ## The arithmetic clock (R19 to R21) -/

theorem State.MemWf.measure {watts : Nat} (hs : s.MemWf) : (s.measure watts).MemWf := hs.updPower

theorem State.MemWf.setClock {mhz watts : Nat} (hs : s.MemWf) : (s.setClock mhz watts).MemWf := hs.updPower.log

theorem State.MemWf.execClockStepDown {watts : Nat} (hs : s.MemWf) : Out.MemWf (execClockStepDown watts s) :=
  hs.measure.setClock.ite hs.measure

theorem State.MemWf.execClockStepUp {watts : Nat} (hs : s.MemWf) : Out.MemWf (execClockStepUp watts s) := by
  unfold Machine.execClockStepUp
  dsimp only
  split
  · exact hs.measure
  · exact hs.measure.setClock.ite hs.measure

theorem State.MemWf.execThermalLimit {watts : Nat} (hs : s.MemWf) : Out.MemWf (execThermalLimit watts s) := by
  unfold Machine.execThermalLimit
  dsimp only
  split
  · exact hs.measure
  · exact hs.measure.raiseEvent.ite hs.measure

/-! ## Energy (R378 to R380) -/

theorem State.MemWf.charge {part nJ : Nat} (hs : s.MemWf) : (s.charge part nJ).MemWf := hs.updPower

theorem State.MemWf.shareOut {term energy : Nat} {ws : List (Nat × Nat)} (hs : s.MemWf) : (s.shareOut term energy ws).MemWf :=
  (hs.foldl fun _ _ h => h.charge).updPower

theorem State.MemWf.chargeCore {c : Nat × Nat} (hs : s.MemWf) : (s.chargeCore c).MemWf := by
  unfold State.chargeCore
  split
  · exact hs
  split
  · exact hs.charge
  · exact hs

theorem State.MemWf.shareUnit {u : Nat × Nat} (hs : s.MemWf) : (s.shareUnit u).MemWf := hs.ite hs.shareOut

theorem State.MemWf.shareViral {e : EnergyIn} {d : Nat} (hs : s.MemWf) : (State.shareViral e s d).MemWf := hs.shareOut.ite hs

theorem State.MemWf.execEnergySample {sample : EnergyIn} (hs : s.MemWf) : Out.MemWf (execEnergySample sample s) := by
  unfold Machine.execEnergySample
  generalize List.range 8 = partitions
  extract_lets idle t u
  have ht : t.MemWf := ((hs.foldl fun _ _ h => h.chargeCore).foldl fun _ _ h => h.shareUnit).shareOut
  have hu : u.MemWf := ht.foldl fun _ _ h => h.shareViral
  exact State.MemWf.ite hs hu

theorem State.MemWf.execEnergyRequest {vf : Nat} {val : DWord} (hs : s.MemWf) : Out.MemWf (execEnergyRequest vf val s) := hs.ite hs.updHub

theorem State.MemWf.execEnergyReadingWrite (hs : s.MemWf) : Out.MemWf (execEnergyReadingWrite s) := by
  unfold Machine.execEnergyReadingWrite
  split
  · exact hs
  · exact hs.ite hs.hubWrite.updPower.updHub.raiseEvent

theorem State.MemWf.execEnergyCheckpoint (hs : s.MemWf) : Out.MemWf (execEnergyCheckpoint s) := hs.ite hs.updPower.send

/-! ## Resets (R380) -/

theorem State.MemWf.afterReset {f : Power → Power} (hs : s.MemWf) : (s.afterReset f).MemWf := hs

/-! ## Secure boot and attestation (R381, R382) -/

theorem State.MemWf.setting {off val : Nat} (hs : s.MemWf) : (s.setting off val).MemWf := by
  unfold State.setting
  refine Out.MemWf.or ?_ hs
  split
  · exact hs.execQctlWrite
  split
  · exact hs.execCommunicatorEntryWrite
  split
  · exact hs.execPartitionEntryWrite
  split
  · exact hs.execFunctionEntryWrite
  split
  · exact hs.execPctlWrite
  split
  · exact hs.execPctlWrite
  split
  · exact hs.execLctlWrite
  split
  · exact hs.execEvmaskWrite
  · exact hs.regWrite

theorem State.MemWf.timeCheck (hs : s.MemWf) : s.timeCheck.MemWf := hs.updHub.ite hs

theorem State.MemWf.loadRecord {r : ConfigRecord} (hs : s.MemWf) : (s.loadRecord r).MemWf :=
  ((hs.foldl fun _ _ h => h.setting).updPower).ite hs.log

/-! ## Attestation -/

theorem State.MemWf.attest (hs : s.MemWf) : s.attest.MemWf := (hs.updPower.foldl fun _ _ h => h.hubWrite).ite hs

theorem State.MemWf.execAttestationRequest {nonce : List Byte} {dest : Nat}
    (hs : s.MemWf) : Out.MemWf (execAttestationRequest nonce dest s) :=
  hs.updPower.attest

theorem State.MemWf.execHubFunctionUsable {bit : Nat} (hs : s.MemWf) : Out.MemWf (execHubFunctionUsable bit s) :=
  hs.timeCheck.ite (hs.ite (hs.updHub.updPort.ite hs.updHub.apServeAll.lateSignals.attest))

/-! ## Power-up -/

theorem State.MemWf.execPowerUpBoot {flash : BootFlash} (hs : s.MemWf) : Out.MemWf (execPowerUpBoot flash s) := by
  unfold Machine.execPowerUpBoot
  dsimp only
  split
  · exact hs
  split
  · exact hs.updPower.updHub.attest
  · exact ((hs.updPower.updHub.updPower.foldl fun _ _ h => h.loadRecord).timeCheck).attest

/-! ## The time base (R384) -/

theorem State.MemWf.tick {ns : Nat} (hs : s.MemWf) : (s.tick ns).MemWf := .timeCheck (.sleepOver hs)

theorem State.MemWf.execTimeExchange {ahead : Bool} {offsetNs : Nat} (hs : s.MemWf) : Out.MemWf (execTimeExchange ahead offsetNs s) := by
  unfold Machine.execTimeExchange
  split
  · exact hs
  · exact hs.send.ite (hs.post.ite (hs.post.updPower.timeCheck.ite hs.post.updPower.clearReady))

theorem State.MemWf.answerTime (hs : s.MemWf) : s.answerTime.MemWf := (hs.updFab.foldl fun _ _ h => h.post).ite hs.updFab

/-! ## Rollback (R436, R437, R450) -/

theorem State.MemWf.dropSet {l : Launch} (hs : s.MemWf) : (s.dropSet l).MemWf := hs

theorem State.MemWf.restoreSet {lid : Nat} (hs : s.MemWf) : (s.restoreSet lid).MemWf := Laws.wf_restoreSet _ _ hs

theorem State.MemWf.rollRecord {l : Launch} {cause : Nat} (hs : s.MemWf) : (s.rollRecord l cause).MemWf := hs.log

theorem State.MemWf.replaceLaunch {lid : Nat} {l : Launch} (hs : s.MemWf) : (s.replaceLaunch lid l).MemWf :=
  hs.reject.ite (hs.reject.ite hs.makeReady)

theorem State.MemWf.rollBack {lid : Nat} {l : Launch} {cause : Nat} (hs : s.MemWf) : (s.rollBack lid l cause).MemWf :=
  hs.endBlocks.dropSet.restoreSet.setLaunch.rollRecord.replaceLaunch

theorem State.MemWf.rollTry {lid : Nat} (hs : s.MemWf) : (s.rollTry lid).MemWf := by
  unfold State.rollTry
  split
  · exact hs
  split
  · exact hs
  · exact hs.ite (hs.setLaunch.abortLaunch.ite (hs.rollBack.ite hs))

theorem State.MemWf.startRoll {lid cause : Nat} (hs : s.MemWf) : (s.startRoll lid cause).MemWf := hs.updLaunch.rollTry

theorem State.MemWf.undoLaunch {lid cause : Nat} (hs : s.MemWf) : (s.undoLaunch lid cause).MemWf := by
  unfold State.undoLaunch
  split
  · exact hs
  · exact hs.startRoll.ite hs.abortLaunch

/-! ## Uncorrectable and corrected errors (R431, R433, R462) -/

theorem State.MemWf.poisonRecord {structure_ domain asid addr : Nat} (hs : s.MemWf) : (s.poisonRecord structure_ domain asid addr).MemWf :=
  hs.log

theorem State.MemWf.poisonHome {structure_ unit asid va : Nat} (hs : s.MemWf) : (s.poisonHome structure_ unit asid va).MemWf := by
  unfold State.poisonHome
  split
  · exact hs
  · exact hs.homePoison.poisonRecord

theorem State.MemWf.poisonL1 {core asid va : Nat} (hs : s.MemWf) : (s.poisonL1 core asid va).MemWf := by
  unfold State.poisonL1
  split
  · exact hs
  · exact .poisonRecord hs

theorem State.MemWf.execUncorrectableError {site : EccSite} (hs : s.MemWf) : Out.MemWf (execUncorrectableError site s) := by
  cases site with
  | hbm d pa => exact State.MemWf.ite (.poisonRecord hs) hs
  | l2 d asid va => exact State.MemWf.ite (.poisonHome hs) hs
  | poolCache asid va => exact hs.poisonHome
  | l1 core asid va => exact hs.poisonL1
  | scratchpad core bid off => exact State.MemWf.ite hs (.poisonRecord hs)

theorem State.MemWf.execCorrectedErrorRecord {kind domain count : Nat}
    (hs : s.MemWf) : Out.MemWf (execCorrectedErrorRecord kind domain count s) :=
  hs.ite hs.updHub.log

/-! ## The loss of a die (R438, R446 to R450) -/

theorem State.MemWf.loseData {d : Nat} (hs : s.MemWf) : (s.loseData d).MemWf := Laws.wf_loseData _ _ hs

theorem State.MemWf.promoLost {x : Nat × Nat} (hs : s.MemWf) : (s.promoLost x).MemWf := by
  unfold State.promoLost
  split
  · exact hs
  · exact hs.faultLane.ite hs.setLaneSt.serveLane

theorem State.MemWf.loseMarks {d : Nat} (hs : s.MemWf) : (s.loseMarks d).MemWf := .foldl hs fun _ _ h => .promoLost h

theorem State.MemWf.cancelBlocks {bs : List Nat} (hs : s.MemWf) : (s.cancelBlocks bs).MemWf := hs.foldl fun _ _ h => h.askCancel.ite h

theorem State.MemWf.dropBlocks {bs : List Nat} (hs : s.MemWf) : (s.dropBlocks bs).MemWf :=
  .foldl (.of_mem rfl (.foldl (.cancelBlocks hs) fun _ _ h => .setWarp h)) fun _ _ h => .freeBlock h

theorem State.MemWf.releasePeers {lid : Nat} (hs : s.MemWf) : (s.releasePeers lid).MemWf :=
  .foldl (.of_mem rfl (.foldl hs fun _ _ h => .updWarp h)) fun _ _ h => .trapWaiting h

theorem State.MemWf.loseBlocks {lid d : Nat} (hs : s.MemWf) : (s.loseBlocks lid d).MemWf :=
  ((hs.updLaunch.dropBlocks.foldl fun _ _ h => h.clusterCheck).releasePeers).dispatch

theorem State.MemWf.affect {d lid : Nat} (hs : s.MemWf) : (State.affect d s lid).MemWf := by
  unfold State.affect
  split
  · exact hs
  · exact hs.dropBlocks.startRoll.ite hs.updLaunch.loseBlocks

theorem State.MemWf.dieLost {d cause : Nat} (hs : s.MemWf) : (s.dieLost d cause).MemWf :=
  hs.updHub.clearReady.log.loseData.loseMarks.foldl fun _ _ h => h.affect

theorem State.MemWf.execDieFatalError {domain cause : Nat} (hs : s.MemWf) : Out.MemWf (execDieFatalError domain cause s) :=
  hs.dieLost.ite hs

theorem State.MemWf.execPromoteAckTimeout {pid : Nat} (hs : s.MemWf) : Out.MemWf (execPromoteAckTimeout pid s) := by
  unfold Machine.execPromoteAckTimeout
  split
  · exact hs
  · exact hs.ite hs.dieLost

theorem State.MemWf.execStateDumpComplete {domain len : Nat} (hs : s.MemWf) : Out.MemWf (execStateDumpComplete domain len s) :=
  hs.ite hs.hubWrite.updHub.log

/-! ## Copying what changed -/

theorem State.MemWf.sync {a b : Nat} (hs : s.MemWf) : (s.sync a b).MemWf := hs.updWarp.ite hs

/-! ## A step that was no instruction of a pair (R338) -/

theorem State.MemWf.mirrorPair {s' : State} {a b : Nat} (hs' : s'.MemWf) : (s.mirrorPair s' a b).MemWf :=
  hs'.ite (hs'.setWarp.ite (hs'.setWarp.setWarp.ite (hs'.setWarp.ite hs'.setWarp)))

theorem State.MemWf.mirror {s' : State} {own : Option Nat} (hs' : s'.MemWf) : (s.mirror s' own).MemWf :=
  hs'.foldl fun _ _ h => h.ite h.mirrorPair

/-! ## Outcomes (R406, R408, R462) -/

theorem State.MemWf.pairRecord {a : Nat} {lanes : Mask} {hdr : DWord} {outcome : Nat}
    (hs : s.MemWf) : (s.pairRecord a lanes hdr outcome).MemWf := by
  unfold State.pairRecord
  split
  · exact hs
  · exact hs.log

theorem State.MemWf.undoPair {a b : Nat} {r : PairRec} (hs : s.MemWf) : (s.undoPair a b r).MemWf := hs.setWarp.setWarp

theorem State.MemWf.retry {a b : Nat} {r : PairRec} {lanes : Mask} (hs : s.MemWf) : (s.retry a b r lanes).MemWf := hs.undoPair.sync

theorem State.MemWf.pairFail {a b : Nat} {lanes : Mask} {r : PairRec} {cause : Nat} (hs : s.MemWf) : (s.pairFail a b lanes r cause).MemWf :=
  hs.pairRecord.undoLaunch.ite (hs.pairRecord.undoPair.updWarp.updWarp.takeTrap.updWarp.ite hs.pairRecord.undoPair.updWarp.updWarp.takeTrap)

/-! ## An error in state without poison (R433) -/

theorem State.MemWf.strike {a b : Nat} (hs : s.MemWf) : (s.strike a b).MemWf := by
  unfold State.strike
  split
  · exact hs.retry
  · exact hs.updWarp

theorem State.MemWf.execUncorrectableStateError {launch kind slot : Nat}
    (hs : s.MemWf) : Out.MemWf (execUncorrectableStateError launch kind slot s) := by
  unfold Machine.execUncorrectableStateError
  dsimp only
  split
  · exact hs
  split
  · exact hs
  split
  · exact hs.log.strike.ite hs.log.undoLaunch
  · exact hs.log.undoLaunch

theorem State.MemWf.sbin2 {d : SReg} {a b : Src} {f : Word → Word → Word} (hs : s.MemWf) : Out.MemWf (s.sbin2 d a b f) := hs.sbin

theorem State.MemWf.sbin2w {d : SReg} {a b : Src} {f : DWord → DWord → DWord} (hs : s.MemWf) : Out.MemWf (s.sbin2w d a b f) := hs.sbin64

theorem State.MemWf.sbinShift {d : SReg} {a b : Src} {f : DWord → Word → DWord} (hs : s.MemWf) : Out.MemWf (s.sbinShift d a b f) :=
  hs.sbin64

theorem State.MemWf.sbin1 {d : SReg} {a : Src} {f : Word → Word} (hs : s.MemWf) : Out.MemWf (s.sbin1 d a f) := hs.sbin

theorem State.MemWf.scmp {a b : Src} {f : Word → Word → Bool} (hs : s.MemWf) : Out.MemWf (s.scmp a b f) := hs.setSc

theorem State.MemWf.scmp64 {a b : Src} {f : DWord → DWord → Bool} (hs : s.MemWf) : Out.MemWf (s.scmp64 a b f) := hs.setSc

theorem State.MemWf.simm {d : SReg} {f : Word → Word} (hs : s.MemWf) : Out.MemWf (s.simm d f) := hs.sbin

theorem State.MemWf.simmCmp {d : SReg} {f : Word → Bool} (hs : s.MemWf) : Out.MemWf (s.simmCmp d f) := hs.setSc

/-! ## Block and cluster barriers -/

theorem State.MemWf.misuse {cause : Nat} {m : Mask} {at_ : DWord} (hs : s.MemWf) : (s.misuse cause m at_).MemWf := hs.takeTrap

theorem State.MemWf.arrive {cluster : Bool} {n : Nat} {m : Mask} (hs : s.MemWf) : (s.arrive cluster n m).MemWf :=
  hs.updCw.updCluster.ite hs.updCw.updBlock

theorem State.MemWf.barDone {cluster : Bool} {n : Nat} (hs : s.MemWf) : (s.barDone cluster n).MemWf := hs.cbarCheck.ite hs.barCheck

theorem State.MemWf.barPoint {cluster arrives : Bool} {k : State → State}
    (hs : s.MemWf) (hk : ∀ x0, x0.MemWf → (k x0).MemWf) : (s.barPoint cluster arrives k).MemWf :=
  hs.deliver (fun _ h => h.ite (hk _ h))

theorem State.MemWf.barArrive {cluster : Bool} {p : Pred} {id : BitVec 4} (hs : s.MemWf) : Out.MemWf (s.barArrive cluster p id) :=
  hs.barPoint (fun _ h => h.misuse.ite ((h.arrive.ite h.arrive.barDone).finish))

theorem State.MemWf.barWait {cluster : Bool} {n : Nat} {m : Mask} (hs : s.MemWf) : (s.barWait cluster n m).MemWf :=
  hs.updCw.ite hs.updCw.barAcquire

theorem State.MemWf.barWaits {cluster : Bool} {p : Pred} {id : BitVec 4} (hs : s.MemWf) : Out.MemWf (s.barWaits cluster p id) :=
  hs.barPoint (fun _ h => h.misuse.ite h.barWait.finish)

theorem State.MemWf.execBarSync {p : Pred} {id : BitVec 4} (hs : s.MemWf) : Out.MemWf (execBarSync p id s) :=
  hs.barPoint (fun _ h => h.misuse.ite (h.arrive.updCw.finish.ite h.arrive.updCw.finish.barCheck))

/-! ## Transaction barriers -/

theorem State.MemWf.txbFault {cause : Nat} {m : Mask} {off : DWord} {write : Bool} (hs : s.MemWf) : (s.txbFault cause m off write).MemWf :=
  hs.takeTrap

theorem State.MemWf.txbOp {p : Pred} {sa : SReg} {more : List Nat} {write : Bool} {k : State → Nat → Nat → Nat → Mask → State}
    (hs : s.MemWf) (hk : ∀ x0 x1 x2 x3 x4, x0.MemWf → (k x0 x1 x2 x3 x4).MemWf) : (s.txbOp p sa more write k).MemWf :=
  hs.ite (hs.guard (fun _ h => h.finish.ite (h.txbFault.ite (h.txbFault.ite (h.takeTrap.ite (hk _ _ _ _ _ h))))))

theorem State.MemWf.execTxbInit {p : Pred} {sa sb : SReg} (hs : s.MemWf) : Out.MemWf (execTxbInit p sa sb s) :=
  hs.txbOp (fun _ _ _ _ _ h => h.txbWrite.finish)

theorem State.MemWf.execTxbExp {p : Pred} {sa sb : SReg} (hs : s.MemWf) : Out.MemWf (execTxbExp p sa sb s) :=
  hs.txbOp (fun _ _ _ _ _ h => h.takeTrap.ite h.txbUpdate.finish)

theorem State.MemWf.execTxbArv {p : Pred} {sa : SReg} (hs : s.MemWf) : Out.MemWf (execTxbArv p sa s) :=
  hs.deliver (fun _ h => h.txbOp (fun _ _ _ _ _ h => h.misuse.ite h.txbUpdate.finish))

theorem State.MemWf.execTxbWt {p : Pred} {sa sb : SReg} (hs : s.MemWf) : Out.MemWf (execTxbWt p sa sb s) :=
  hs.deliver (fun _ h => h.txbOp (fun _ _ _ _ _ h => h.barAcquire.finish.ite h.updCw.finish))

/-! ## Mask synchronisation -/

theorem State.MemWf.execKjoin {p : Pred} {k : KReg} (hs : s.MemWf) : Out.MemWf (execKjoin p k s) := hs.updCw.finish

theorem State.MemWf.execKleave {p : Pred} {k : KReg} (hs : s.MemWf) : Out.MemWf (execKleave p k s) := hs.updCw.finish

theorem State.MemWf.execKwait {p : Pred} {k : KReg} (hs : s.MemWf) : Out.MemWf (execKwait p k s) := hs.updCw.finish

/-! ## Fences and waits -/

theorem State.MemWf.execFence {order : Order} {scope : Scope} (hs : s.MemWf) : Out.MemWf (execFence order scope s) :=
  hs.deliver (fun _ h => h.ite (h.updCw.ite (h.updCw.ite ((h.updCw.acquire.ite h.updCw).finish))))

theorem State.MemWf.execWaitd {mask : BitVec 6} (hs : s.MemWf) : Out.MemWf (execWaitd mask s) := hs.ite (hs.deliver (fun _ h => h.finish))

/-! ## Instruction caches -/

theorem State.MemWf.execIcinv {dev : Bool} {p : BitVec 5} {len : SReg} (hs : s.MemWf) : Out.MemWf (execIcinv dev p len s) :=
  hs.guard (fun _ h => h.finish.ite h.updCw.finish)

theorem State.MemWf.icDrop {core vf asid : Nat} {va : DWord} {len : Word} (hs : s.MemWf) : (s.icDrop core vf asid va len).MemWf :=
  hs.dropIRange

theorem State.MemWf.execIcinvComplete {slot : Nat} (hs : s.MemWf) : Out.MemWf (execIcinvComplete slot s) := by
  unfold Machine.execIcinvComplete
  split
  · exact ((hs.foldl fun _ _ h => h.icDrop).ite hs.icDrop).updWarp
  · exact hs

theorem State.MemWf.execIsync (hs : s.MemWf) : Out.MemWf (execIsync s) := hs.updCw.finish

/-! ## Shared forms -/

theorem State.MemWf.vbinInt {d : VReg} {a b : Src} {f : Word → Word → Word} (hs : s.MemWf) : Out.MemWf (s.vbinInt d a b f) := hs.vbin

theorem State.MemWf.wideInt2 {m : Wide} {a b : Src} {f : Word → Word → Word} (hs : s.MemWf) : Out.MemWf (s.wideInt2 m a b f) := hs.vwide

theorem State.MemWf.wideInt3 {m : Wide} {a b c : Src} {f : Word → Word → Word → Word} (hs : s.MemWf) : Out.MemWf (s.wideInt3 m a b c f) :=
  hs.vwide

theorem State.MemWf.wideInt1 {m : Wide} {a : Src} {f : Word → Word} (hs : s.MemWf) : Out.MemWf (s.wideInt1 m a f) := hs.vwide

theorem State.MemWf.wide64 {m : Wide} {xs : List (Nat × Src)} {f : Warp → Nat → DWord × Bnd} (hs : s.MemWf) : Out.MemWf (s.wide64 m xs f) :=
  hs.guard (fun _ h => h.updCw.finish)

theorem State.MemWf.vbinGov {d : VReg} {a b : Src} {f : Opnd → Opnd → Governed} (hs : s.MemWf) : Out.MemWf (s.vbinGov d a b f) := hs.vbin

theorem State.MemWf.wideGov2 {m : Wide} {a b : Src} {f : Opnd → Opnd → Governed} (hs : s.MemWf) : Out.MemWf (s.wideGov2 m a b f) := hs.vwide

theorem State.MemWf.vbinPacked {d : VReg} {as_ : ReadAs} {sp : FpSpec} {a b : Src} {f : Opnd → Opnd → Nat × Bnd}
    (hs : s.MemWf) : Out.MemWf (s.vbinPacked d as_ sp a b f) :=
  hs.vbin

theorem State.MemWf.widePacked2 {m : Wide} {as_ : ReadAs} {sp : FpSpec} {a b : Src} {f : Opnd → Opnd → Nat × Bnd}
    (hs : s.MemWf) : Out.MemWf (s.widePacked2 m as_ sp a b f) :=
  hs.vwide

theorem State.MemWf.widePacked3 {m : Wide} {as_ : ReadAs} {sp : FpSpec} {a b c : Src}
    (hs : s.MemWf) : Out.MemWf (s.widePacked3 m as_ sp a b c) :=
  hs.vwide

theorem State.MemWf.wideDot2 {m : Wide} {as_ : ReadAs} {sp : FpSpec} {a b c : Src} (hs : s.MemWf) : Out.MemWf (s.wideDot2 m as_ sp a b c) :=
  hs.vwide

theorem State.MemWf.vbinF {d : VReg} {a b : Src} {f : Opnd → Opnd → LV} (hs : s.MemWf) : Out.MemWf (s.vbinF d a b f) := hs.vbin

theorem State.MemWf.wideF {m : Wide} {a b : Src} {f : Opnd → Opnd → LV} (hs : s.MemWf) : Out.MemWf (s.wideF m a b f) := hs.vwide

/-! ## Further VWIDE operations -/

theorem State.MemWf.wideMadW {m : Wide} {signed : Bool} {a b c : Src} (hs : s.MemWf) : Out.MemWf (s.wideMadW m signed a b c) := hs.wide64

/-! ## Conversions (R212, R213) -/

theorem State.MemWf.execCvt {p : Pred} {d : VReg} {a : Src} {dt st : Fmt} {rnd : Rnd} {sat : Bool} {el : BitVec 3}
    (hs : s.MemWf) : Out.MemWf (execCvt p d a dt st rnd sat el s) :=
  hs.guard (fun _ h => h.updCw.finish)

/-! ## Functions (R214 to R216) -/

theorem State.MemWf.vx1 {p : Pred} {d : VReg} {a : Src} {f : LV → LV} (hs : s.MemWf) : Out.MemWf (s.vx1 p d a f) := hs.vx

theorem State.MemWf.vxApprox {p : Pred} {d : VReg} {a : Src} {f : Word → Opnd → LV} (hs : s.MemWf) : Out.MemWf (s.vxApprox p d a f) :=
  hs.vx1

/-! ## Cross-lane moves (R206, R217) -/

theorem State.MemWf.shuffle {p : Pred} {d : VReg} {a b : Src} {own : Bool} {src : Nat → Nat → Option Nat}
    (hs : s.MemWf) : Out.MemWf (s.shuffle p d a b own src) :=
  hs.vx

/-! ## Selection and bounds (R219 to R221) -/

theorem State.MemWf.execBchk {p : Pred} {a : Src} {st : Fmt} (hs : s.MemWf) : Out.MemWf (execBchk p a st s) :=
  hs.guard (fun _ h => h.finish.ite h.takeTrap)

theorem State.MemWf.exec {i : Instr} (hs : s.MemWf) : Out.MemWf (exec i s) := by
  delta Machine.exec
  cases i <;> dsimp only
  case clauseHeader => exact hs.execClauseHeader
  case sIaddB32 | sIsubB32 | sImulB32 | imulhiS32 | imulhiN32 | sAnd | sOr | sXor | andn | sShl | sShrN32 | sShrS32 | sIminS32 |
    sIminN32 | sImaxS32 | sImaxN32 | sBfeN32 | sBfeS32 => exact hs.sbin2
  case sIaddB64 | isubB64 => exact hs.sbin2w
  case shlB64 | shrN64 | shrS64 => exact hs.sbinShift
  case sBfiB32 | selB32 | movk | kmovToS => exact hs.sbin
  case cmpEqB32 | cmpNeB32 | cmpLtS32 | cmpLeS32 | cmpLtN32 | cmpLeN32 => exact hs.scmp
  case cmpEqB64 | cmpNeB64 => exact hs.scmp64
  case sPopc | sClz | ctz => exact hs.sbin1
  case movhi | iaddk | mulk => exact hs.simm
  case cmpkEq | cmpkLtS32 | cmpkLtN32 => exact hs.simmCmp
  case vIaddB32 | vIsubB32 | vImulB32 | vAnd | vOr | vXor | vShl | vShrN32 | vShrS32 | vIminS32 | vIminN32 | vImaxS32 |
    vImaxN32 => exact hs.vbinInt
  case vFaddF32 | vFsubF32 | vFmulF32 => exact hs.vbinGov
  case vFminF32 | vFmaxF32 => exact hs.vbinF
  case vMovB32 => exact hs.vbin
  case vFaddF16x2 | vFmulF16x2 | vFaddBf16x2 | vFmulBf16x2 => exact hs.vbinPacked
  case wIaddB32 | wIsubB32 | wImulB32 | wAnd | wOr | wXor | wShl | wShrN32 | wShrS32 | wIminS32 | wIminN32 | wImaxS32 |
    wImaxN32 | wBfeN32 | wBfeS32 => exact hs.wideInt2
  case wFaddF32 | wFsubF32 | wFmulF32 => exact hs.wideGov2
  case wFminF32 | wFmaxF32 => exact hs.wideF
  case wMovB32 | ffmaF32 | fclampF32 => exact hs.vwide
  case wFaddF16x2 | wFmulF16x2 | wFaddBf16x2 | wFmulBf16x2 => exact hs.widePacked2
  case ffmaF16x2 | ffmaBf16x2 => exact hs.widePacked3
  case imad | imadhiS32 | imadhiN32 | wBfiB32 | dot4S8 => exact hs.wideInt3
  case imadwN32 | imadwS32 => exact hs.wideMadW
  case leaB64 | wIaddB64 => exact hs.wide64
  case dot2F16 | dot2Bf16 => exact hs.wideDot2
  case wPopc | wClz | brev => exact hs.wideInt1
  case cmpF32 | cmpF16 | cmpBf16 | cmpS32 | cmpN32 => exact hs.vcmp
  case cmpB64 => exact hs.compare
  case kand | kor | kxor | kandn | knot | kmovK | kmovFromS | voteBallot | voteAny | voteAll => exact hs.writeK
  case cvt => exact hs.execCvt
  case cvtpk | fdiv | fscale | bcast | redux | scan | msel | bwr => exact hs.vx
  case frcp | fsqrt | frnd | fclass | brd | bclr => exact hs.vx1
  case frsq | fexp2 | flog2 | fsin | fcos | ftanh => exact hs.vxApprox
  case shflIdx | shflUp | shflDown | shflXor => exact hs.shuffle
  case bchk => exact hs.execBchk
  case ld | st | atom | red | cas | gld | gst | gatom | gcas => exact hs.gmem
  case pf => exact hs.execPf
  case sld => exact hs.execSld
  case ldsB32 | ldsB64 | ldsB128 | stsB32 | stsB64 | stsB128 | ldsN8 | ldsS8 | ldsN16 | ldsS16 | stsB8 | stsB16 | satomIadd |
    satomIminS | satomImaxS | satomCas | satomXchg | satomFaddF32 | satomIminN | satomImaxN | satomOr | satomAnd => exact hs.spad
  case bra | brc | brcNot | brs | brsNot => exact hs.branchTo
  case call => exact hs.execCall
  case jmp => exact hs.execJmp
  case calli => exact hs.execCalli
  case meet => exact hs.execMeet
  case barArv | cbarArv => exact hs.barArrive
  case barWt | cbarWt => exact hs.barWaits
  case barSync => exact hs.execBarSync
  case txbInit => exact hs.execTxbInit
  case txbExp => exact hs.execTxbExp
  case txbArv => exact hs.execTxbArv
  case txbWt => exact hs.execTxbWt
  case kjoin => exact hs.execKjoin
  case kleave => exact hs.execKleave
  case kwait => exact hs.execKwait
  case fence => exact hs.execFence
  case waitd => exact hs.execWaitd
  case icinv => exact hs.execIcinv
  case tail => exact hs.execTail
  case trap | bkpt => exact hs.softTrap
  case sysr => exact hs.execSysr
  case sysw => exact hs.execSysw
  case time => exact hs.sprToS
  case sleep => exact hs.execSleep
  case budget => exact hs.execBudget
  case launch => exact hs.execLaunch
  case xacq => exact hs.execXacq
  case matAlloc => exact hs.execMatAlloc
  case matEdge => exact hs.execMatEdge
  case matLdb => exact hs.execMatLdb
  case matMma => exact hs.execMatMma
  case matMmar => exact hs.execMatMmar
  case matZero => exact hs.execMatZero
  case matRd => exact hs.execMatRd
  case matWr => exact hs.execMatWr
  case matSt => exact hs.execMatSt
  case matRbnd => exact hs.execMatRbnd
  case matBank => exact hs.execMatBank
  case cpyTIn | cpyTOut => exact hs.cpyT
  case cpyBIn | cpyBOut | cpyRed => exact hs.cpyLine
  case cpyP => exact hs.execCpyP
  case cpyPf => exact hs.execCpyPf
  case cpyG => exact hs.execCpyG
  case colAr | colAg | colRs | colA2a | colBc => exact hs.colIssue
  case noInstructionWord => exact hs.execNoInstructionWord
  case ret => exact hs.execRet
  case isync => exact hs.execIsync
  case nop | yield => exact hs.finish
  case rte => exact hs.execRte
  case xrel => exact hs.execXrel
  case matFree => exact hs.execMatFree
  case groupTurnLimit => exact hs.execGroupTurnLimit
  case warpSwapOut => exact hs.execWarpSwapOut
  case warpSwapIn => exact hs.execWarpSwapIn
  case sleepWake => exact hs.execSleepWake
  case loadReturn => exact hs.execLoadReturn
  case storeAcknowledge => exact hs.execStoreAcknowledge
  case releaseDrainComplete => exact hs.execReleaseDrainComplete
  case homeRequest => exact hs.execHomeRequest
  case pageTableWalk => exact hs.execPageTableWalk
  case promoteRequest => exact hs.execPromoteRequest
  case promoteDone => exact hs.execPromoteDone
  case prspSuccess => exact hs.execPrspSuccess
  case prspFailure => exact hs.execPrspFailure
  case trapHandlerEntry => exact hs.execTrapHandlerEntry
  case engineStart => exact hs.execEngineStart
  case tensorDescriptorRead => exact hs.execTensorDescriptorRead
  case engineOperationComplete => exact hs.execEngineOperationComplete
  case matLdbBankWrite => exact hs.execMatLdbBankWrite
  case matMmaComplete => exact hs.execMatMmaComplete
  case matStComplete => exact hs.execMatStComplete
  case icinvComplete => exact hs.execIcinvComplete
  case xacqServed => exact hs.execXacqServed
  case launchEntryAppend => exact hs.execLaunchEntryAppend
  case collectivePartComplete => exact hs.execCollectivePartComplete
  case qrsv => exact hs.execQrsv
  case qdb => exact hs.execQdb
  case qctlWrite => exact hs.execQctlWrite
  case launchSlot => exact hs.execLaunchSlot
  case rangeInvalidationEntry => exact hs.execRangeInvalidationEntry
  case rangeInvalidationDone => exact hs.execRangeInvalidationDone
  case launchHeaderRead => exact hs.execLaunchHeaderRead
  case waitEventCheck => exact hs.execWaitEventCheck
  case gangStart => exact hs.execGangStart
  case preemptSave => exact hs.execPreemptSave
  case timeSliceExpiry => exact hs.execTimeSliceExpiry
  case launchAbort => exact hs.execLaunchAbort
  case clockStepDown => exact hs.execClockStepDown
  case clockStepUp => exact hs.execClockStepUp
  case thermalLimit => exact hs.execThermalLimit
  case energySample => exact hs.execEnergySample
  case energyRequest => exact hs.execEnergyRequest
  case energyReadingWrite => exact hs.execEnergyReadingWrite
  case energyCheckpoint => exact hs.execEnergyCheckpoint
  case packageReset | alwaysOnPowerLoss => exact hs.afterReset
  case powerUpBoot => exact hs.execPowerUpBoot
  case attestationRequest => exact hs.execAttestationRequest
  case timeExchange => exact hs.execTimeExchange
  case evstClear => exact hs.execEvstClear
  case evmaskWrite => exact hs.execEvmaskWrite
  case flitReceive => exact hs.execFlitReceive
  case resendRequest => exact hs.execResendRequest
  case linkRetrain => exact hs.execLinkRetrain
  case linkDown => exact hs.execLinkDown
  case peerRequestTimeout => exact hs.execPeerRequestTimeout
  case apertureAccess => exact hs.execApertureAccess
  case bisnpinv => exact hs.execBisnpinv
  case bisnpdata => exact hs.execBisnpdata
  case poolRangeLost => exact hs.execPoolRangeLost
  case poolLostClear => exact hs.execPoolLostClear
  case request => exact hs.execRequest
  case replicate => exact hs.execReplicate
  case replicateAck => exact hs.execReplicateAck
  case notice => exact hs.execNotice
  case unknown => exact hs.execUnknown
  case report => exact hs.execReport
  case heartbeatSend => exact hs.execHeartbeatSend
  case heartbeat => exact hs.execHeartbeat
  case sequencerTakeover => exact hs.execSequencerTakeover
  case takeover => exact hs.execTakeover
  case cancel => exact hs.execCancel
  case cancelled => exact hs.execCancelled
  case collectiveTimeout => exact hs.execCollectiveTimeout
  case dieFatalError => exact hs.execDieFatalError
  case promoteAckTimeout => exact hs.execPromoteAckTimeout
  case stateDumpComplete => exact hs.execStateDumpComplete
  case uncorrectableError => exact hs.execUncorrectableError
  case uncorrectableStateError => exact hs.execUncorrectableStateError
  case partitionEntryWrite => exact hs.execPartitionEntryWrite
  case functionEntryWrite => exact hs.execFunctionEntryWrite
  case communicatorEntryWrite => exact hs.execCommunicatorEntryWrite
  case pctlWrite => exact hs.execPctlWrite
  case lctlWrite => exact hs.execLctlWrite
  case registerWrite => exact hs.regWrite
  case hubFunctionUsable => exact hs.execHubFunctionUsable
  case readinessBitClears => exact hs.execReadinessBitClears
  case poolRangeReachable => exact hs.execPoolRangeReachable
  case stopGoSignal => exact hs.execStopGoSignal
  case correctedErrorRecord => exact hs.execCorrectedErrorRecord

theorem State.MemWf.after {i : Instr} (hs : s.MemWf) : (s.after i).MemWf := hs.exec.or hs

/-! ## Records -/

theorem State.MemWf.settleRec {a : Nat} {r : PairRec} (hs : s.MemWf) : (s.settleRec a r).MemWf := by
  unfold State.settleRec
  split
  · exact hs.ite hs.pairRecord
  · exact hs.updCore
  · exact hs

theorem State.MemWf.rebuild {a b : Nat} {r : PairRec} (hs : s.MemWf) : (s.rebuild a b r).MemWf := by
  unfold State.rebuild
  split
  · exact hs
  · exact hs.updWarp
  · exact hs.updWarp

theorem State.MemWf.closeRec {a b : Nat} {r : PairRec} (hs : s.MemWf) : (s.closeRec a b r).MemWf :=
  hs.updWarp.ite hs.updWarp.settleRec.updWarp.rebuild

theorem State.MemWf.pairRecords {a b : Nat} {w t : Warp} {act : Option Acted} (hs : s.MemWf) : (s.pairRecords a b w t act).MemWf :=
  (hs.updWarp.ite hs).ite (hs.updWarp.ite hs.updWarp.closeRec)

/-! ## The leading warp ahead (R338, R339) -/

theorem State.MemWf.leadEnter {i : Instr} {a : Nat} {wait : BitVec 6} (hs : s.MemWf) : OptMemWf (s.leadEnter i a wait) := by
  unfold State.leadEnter
  dsimp only
  split
  · trivial
  split
  · trivial
  split
  · exact hs.after
  split
  · split
    · exact State.MemWf.setWarp hs.after
    · trivial
  · trivial

theorem State.MemWf.leadOn {i : Instr} {a : Nat} {r : PairRec} (hs : s.MemWf) : OptMemWf (s.leadOn i a r) := by
  unfold State.leadOn
  dsimp only
  split
  · trivial
  split
  · split
    · trivial
    · exact .of_map fun _ => hs.finish.updWarp
  split
  · split
    · trivial
    split
    · exact hs.after.updWarp
    split
    · exact hs.after.updWarp
    · trivial
  split
  · trivial
  · exact hs.after.updWarp

theorem State.MemWf.lead {i : Instr} {a : Nat} (hs : s.MemWf) : OptMemWf (s.lead i a) := by
  unfold State.lead
  dsimp only
  split
  · trivial
  split
  · split
    · exact hs.leadEnter
    · trivial
  · exact hs.leadOn.ite trivial

/-! ## The trailing warp behind -/

theorem State.MemWf.takeValues {a b : Nat} {n : List LagStep} (hs : s.MemWf) : (s.takeValues a b n).MemWf := by
  induction n generalizing s with
  | nil => exact hs.updWarp
  | cons x xs ih =>
    unfold State.takeValues
    split
    · exact ih hs.updWarp.setWarp
    · exact hs.updWarp

theorem State.MemWf.trailDone {a b : Nat} {k : LagStep} {t : Warp} {act : List Acted} {enter : Bool}
    (hs : s.MemWf) : (s.trailDone a b k t act enter).MemWf :=
  hs.updWarp.takeValues.updWarp.sync

theorem State.MemWf.rejoin {a b : Nat} (hs : s.MemWf) : (s.rejoin a b).MemWf := by
  unfold State.rejoin
  split
  · exact hs.retry
  · exact hs.takeValues.updWarp

theorem State.MemWf.trailEffect {a b : Nat} {k : LagStep} {e : Effect} (hs : s.MemWf) : (s.trailEffect a b k e).MemWf := by
  unfold State.trailEffect
  dsimp only
  split
  · split
    · exact State.MemWf.withCur hs.retry
    split
    · exact hs
    split
    · exact hs.rejoin
    · refine State.MemWf.withCur (.trailDone (.setWarp (.setWarp (.after ?_))))
      exact hs
  · exact hs.retry
  · exact hs

theorem State.MemWf.trailStep {a b : Nat} (hs : s.MemWf) : (s.trailStep a b).MemWf := by
  unfold State.trailStep
  split
  · exact hs
  split
  · exact (hs.ite hs.setWarp).trailDone
  · exact (hs.ite hs.setWarp).trailDone
  · exact (hs.ite hs.setWarp).trailDone
  · exact hs.takeValues
  · exact hs.trailEffect

theorem State.MemWf.drain {a b n : Nat} (hs : s.MemWf) : (s.drain a b n).MemWf := by
  induction n generalizing s with
  | zero => exact hs.rejoin
  | succ n ih => exact hs.ite (hs.rejoin.ite (ih hs.trailStep))

theorem State.MemWf.paired {own : Option Nat} {f : State → Out}
    (hs : s.MemWf) (hf : ∀ x, x.MemWf → (f x).MemWf) : Out.MemWf (s.paired own f) := by
  unfold State.paired
  dsimp only
  split
  · split
    · split
      · exact ((hf _ (hs.foldl fun _ _ h => h.drain)).next ‹_›).mirror
      · exact hf _ (hs.foldl fun _ _ h => h.drain)
    · exact ((hf _ hs).next ‹_›).mirror
  · exact hf _ hs

/-! ## Instructions that both warps make together -/

theorem State.MemWf.endPair {a b : Nat} (hs : s.MemWf) : (s.endPair a b).MemWf := hs.endWarp.ite hs

theorem State.MemWf.endTogether {a b : Nat} {i : Instr} (hs : s.MemWf) : (s.endTogether a b i).MemWf :=
  ((hs.foldl fun _ _ h => h.settleRec).after).endPair

theorem State.MemWf.pairDone {x : State} {a b : Nat} {u : Warp} {act : Option Acted}
    (hx : x.MemWf) : (s.pairDone x a b u act).MemWf :=
  hx.setWarp.pairRecords

theorem State.MemWf.pairReplay {a b : Nat} {i : Instr} {es : List Acted} {bad : Mask → State}
    (hs : s.MemWf) (hbad : ∀ m, (bad m).MemWf) : (s.pairReplay a b i es bad).MemWf :=
  (hbad _).ite (hs.updWarp.finish.pairDone)

theorem State.MemWf.together {a b : Nat} {i : Instr} {bad : Mask → State}
    (hs : s.MemWf) (hbad : ∀ m, (bad m).MemWf) : (s.together a b i bad).MemWf := by
  unfold State.together
  dsimp only
  split
  · exact hs.pairReplay (fun _ => hbad _)
  · exact hs.ite (hs.endTogether.ite ((hs.after.pairDone.ite ((hbad _).ite ((hbad _).ite (hbad _)))).ite (hs.after.pairDone.ite
    hs.after.pairDone)))

/-! ## The vote (R407) -/

theorem State.MemWf.mismatchAgain {a b : Nat} {lanes : Mask} (hs : s.MemWf) : (s.mismatchAgain a b lanes).MemWf := hs.retry.ite hs.pairFail

theorem State.MemWf.vote {i : Instr} {a b l : Nat} {lanes : Mask} {r : PairRec} (hs : s.MemWf) : (s.vote i a b l lanes r).MemWf := by
  unfold State.vote
  extract_lets w t only spare z decided
  have h {t : State} {leading : Bool} {outcome : Nat} (ht : t.MemWf) : (decided t leading outcome).MemWf :=
    State.MemWf.together (State.MemWf.pairRecord ht.updWarp) fun _ => State.MemWf.mismatchAgain (State.MemWf.pairRecord ht.updWarp)
  exact State.MemWf.ite (h hs.setWarp) (State.MemWf.ite (h hs.setWarp) hs.pairFail)

theorem State.MemWf.mismatch {a b : Nat} {i : Instr} {lanes : Mask} (hs : s.MemWf) : (s.mismatch a b i lanes).MemWf :=
  hs.retry.ite (hs.pairFail.ite hs.vote)

/-! ## An instruction of a pair -/

theorem State.MemWf.runPair {i : Instr} {a b : Nat} (hs : s.MemWf) : (s.runPair i a b).MemWf := by
  unfold State.runPair
  split
  · exact hs.after.sync
  split
  · exact hs.lead.some ‹_›
  · exact (hs.together (fun _ => hs.mismatch)).ite hs.trailStep

theorem State.MemWf.apart {x : State} (hs : s.MemWf) (hx : x.MemWf) : (s.apart x).MemWf := by
  unfold State.apart
  split
  · exact hs.trailStep.ite (hx.mirrorPair)
  · exact hx

theorem State.MemWf.runInstr {i : Instr} (hs : s.MemWf) : Out.MemWf (s.runInstr i) := by
  unfold State.runInstr
  split
  · exact hs.runPair
  · exact hs.exec

/-! ## Issue (R33, R160, R335, R343) -/

theorem State.MemWf.runGroup (hs : s.MemWf) : Out.MemWf s.runGroup := by
  unfold State.runGroup
  split
  · split
    · exact hs.apart hs.readClause
    · exact hs.runInstr
  split
  · exact (hs.fetchWord.ok ‹_›).runInstr
  · exact hs.apart hs.fetchWalk
  · exact hs.apart hs.fetchFault

theorem State.MemWf.tryGroups {n : List Mask} (hs : s.MemWf) : Out.MemWf (s.tryGroups n) := by
  induction n generalizing s with
  | nil => exact hs
  | cons x xs ih =>
    unfold State.tryGroups
    dsimp only
    split
    · split
      · exact ih hs
      · exact hs.updCw.runGroup.next ‹_›
    · exact hs.updCw.runGroup

theorem State.MemWf.issueCw (hs : s.MemWf) : Out.MemWf s.issueCw := by
  unfold State.issueCw
  split
  · split
    · exact hs.runGroup
    · exact hs.tryGroups
  split
  · exact hs.runInstr
  · exact hs.tryGroups

theorem State.MemWf.issueSlot {k : Nat} (hs : s.MemWf) : Out.MemWf (s.issueSlot k) := by
  unfold State.issueSlot
  split
  · split
    · exact .trailStep hs
    · exact State.MemWf.issueCw hs
  · exact hs

theorem State.MemWf.issueOf {k : Nat} (hs : s.MemWf) : Out.MemWf (s.issueOf k) := hs.paired (fun _ h => h.issueSlot)

/-! ## The active set (R335, R337) -/

theorem State.MemWf.noteReady (hs : s.MemWf) : s.noteReady.MemWf := hs.foldl fun _ _ h => h.updWarp.ite h

theorem State.MemWf.pass {ns : Nat} (hs : s.MemWf) : (s.pass ns).MemWf := by
  unfold State.pass
  exact hs.noteReady.tick

theorem State.MemWf.fillSet {quad : Nat} (hs : s.MemWf) : (s.fillSet quad).MemWf := by
  unfold State.fillSet
  split
  · exact hs
  · exact hs.activate.ite hs

theorem StepsMemWf.swapSteps {quad : Nat} : StepsMemWf (s.swapSteps quad) := by
  refine .flatMap fun inn => .flatMap fun out => .cons ?_ (.cons ?_ .nil)
  · exact fun _ h => h.execWarpSwapOut
  · exact fun _ h => h.execWarpSwapIn

/-! ## Steps that the machine takes by itself -/

theorem StepsMemWf.opSteps : StepsMemWf s.opSteps := by
  refine .append (.append (.flatMap fun q => .append (.append (.map ?_) (.map ?_)) (.cons ?_ (.cons ?_ (.cons ?_ (.cons ?_ .nil)))))
    (.flatMap fun p => .cons ?_ (.cons ?_ .nil))) (.ite .nil (.cons ?_ .nil))
  · exact fun _ _ h => h.execHomeRequest
  · exact fun _ _ h => h.execPageTableWalk
  · exact fun _ h => h.execLoadReturn
  · exact fun _ h => h.execStoreAcknowledge
  · exact fun _ h => h.execMatStComplete
  · exact fun _ h => h.execReleaseDrainComplete
  · exact fun _ h => h.execPromoteRequest
  · exact fun _ h => h.execPromoteDone
  · exact fun _ h => h.htuTry

theorem StepsMemWf.engSteps : StepsMemWf s.engSteps := by
  refine .append (.flatMap fun q => .append (.append (.cons ?_ (.map ?_)) (.map ?_)) (.cons ?_ (.cons ?_ (.cons ?_ (.cons ?_ .nil)))))
    (.map ?_)
  · exact fun _ h => h.execEngineStart
  · exact fun _ _ h => h.execHomeRequest
  · exact fun _ _ h => h.execPageTableWalk
  · exact fun _ h => h.execTensorDescriptorRead
  · exact fun _ h => h.execMatLdbBankWrite
  · exact fun _ h => h.execLaunchEntryAppend
  · exact fun _ h => h.execEngineOperationComplete
  · exact fun _ _ h => h.execMatMmaComplete

theorem StepsMemWf.warpSteps : StepsMemWf s.warpSteps := by
  refine .append (.flatMap fun p => .append (.cons ?_ (.cons ?_ (.cons ?_ .nil))) (.map ?_)) (.map ?_)
  · exact fun _ h => h.execTrapHandlerEntry
  · exact fun _ h => h.nextTrap
  · exact fun _ h => h.execIcinvComplete
  · exact fun _ _ h => h.execSleepWake
  · exact fun _ _ h => h.execXacqServed

theorem StepsMemWf.launchSteps : StepsMemWf s.launchSteps := by
  refine .append (.append (.append (.append (.flatMap fun q => .cons ?_ (.cons ?_ (.cons ?_ .nil)))
    (.flatMap fun l => .cons ?_ (.cons ?_ (.cons ?_ (.cons ?_ .nil))))) (.map ?_)) (.map ?_)) (.cons ?_ .nil)
  · exact fun _ h => h.execLaunchSlot
  · exact fun _ h => h.execRangeInvalidationEntry
  · exact fun _ h => h.execRangeInvalidationDone
  · exact fun _ h => h.execLaunchHeaderRead
  · exact fun _ h => h.execWaitEventCheck
  · exact fun _ h => h.execGangStart
  · exact fun _ h => h.rollTry
  · exact fun _ _ h => h.execPreemptSave
  · exact fun _ _ h => h.execTimeSliceExpiry
  · exact fun _ h => h.abortTry

theorem StepsMemWf.hubSteps : StepsMemWf s.hubSteps := by
  refine .append (.append (.append (.append (.append (.append (.append (.append (.append (.take (.map ?_)) (.cons ?_ .nil)) (.map ?_))
    (.map ?_))
    (.map ?_)) (.cons ?_ (.cons ?_ .nil))) (.ite (.cons ?_ (.cons ?_ .nil)) .nil)) (.ite .nil (.cons ?_ .nil))) (.ite (.cons ?_ .nil) .nil))
    (.flatMap fun q => .cons ?_ .swapSteps)
  · exact fun _ _ h => h.handle
  · exact fun _ h => h.colAdvance
  · exact fun _ _ h => h.execCollectivePartComplete
  · exact fun _ _ h => h.execCollectiveTimeout
  · exact fun _ _ h => h.execPromoteAckTimeout
  · exact fun _ h => h.execEnergyReadingWrite
  · exact fun _ h => h.execEnergyCheckpoint
  · exact fun _ h => h.execHeartbeatSend
  · exact fun _ h => h.execSequencerTakeover
  · exact fun _ h => h.apServeAll
  · exact fun _ h => h.answerTime
  · exact fun _ h => h.fillSet

theorem State.work_keeps_memWf {f : State → Out} (e : s.work = some f) : ∀ t : State, t.MemWf → Out.MemWf (f t) :=
  (StepsMemWf.append (.append (.append (.append .opSteps .engSteps) .warpSteps) .launchSteps) .hubSteps).firstChange e

/-! ## The order of issue without turns (R336) -/

theorem State.MemWf.issueAny {n : List Nat} (hs : s.MemWf) : Out.MemWf (s.issueAny n) := by
  induction n generalizing s with
  | nil => exact hs.pass
  | cons x xs ih =>
    unfold State.issueAny
    split
    · split
      · exact ih hs
      · exact (hs.issueOf.next ‹_›).pass
    · exact hs.issueOf

/-! ## Turns -/

theorem State.MemWf.prefetch {slot va : Nat} (hs : s.MemWf) : (s.prefetch slot va).MemWf := by
  unfold State.prefetch
  split
  · exact hs
  split
  · exact (hs.fetchLine.ok ‹_›).updWarp
  · exact hs

theorem State.MemWf.turn {n : Turn} (hs : s.MemWf) : Out.MemWf (s.turn n) := by
  cases n with
  | event i => exact Out.MemWf.ite (hs.paired (f := Machine.exec i) fun _ h => h.exec) hs
  | issue k => exact hs.issueOf
  | issueTorn k half =>
    have h : Out.MemWf (({ s with torn := half } : State).issueOf k) := State.MemWf.issueOf hs
    show Out.MemWf (match ({ s with torn := half } : State).issueOf k with
      | .next x => .next { x with torn := 0 }
      | o => o)
    split
    · next t ht =>
      have h' : t.MemWf := h.next ht
      exact h'
    · exact h
  | peerError op part => exact hs.paired (f := fun s => .next (s.peerFails op part s.time)) fun _ h => h.peerFails
  | tick ns => exact hs.pass
  | evictL1 key => exact hs
  | evictI key => exact hs
  | evictHome key => exact hs.evictHome
  | dropWalk i => exact hs
  | prefetch slot va => exact hs.prefetch
  | outside pa bs => exact hs.pokes.ite hs
  | upset slot key bits => exact hs.updWarp
  | read vf off => exact Out.MemWf.ite hs.execQrsv hs.send

theorem State.MemWf.run (hs : s.MemWf) : Out.MemWf s.run := by
  unfold State.run
  split
  · exact hs.paired fun _ h => State.work_keeps_memWf ‹_› _ h
  · exact hs.issueAny

theorem State.MemWf.step (hs : s.MemWf) : Out.MemWf (step s) := by
  unfold Machine.step
  split
  · exact State.MemWf.turn hs
  · exact hs.run

end

/-! ## The obligation -/

/-- Settles O58: a step is a turn, a step that the machine takes by itself or an issue, and each of them keeps the form. -/
theorem memoryForm : Obligations.MemoryForm := fun _ _ h hstep => (State.MemWf.step h).next hstep

end Sys2Proof.Machine
end

section
/-! PROOFS. A load at a bad address that carries a release: the counterexample to O13. -/

namespace Sys2Proof.Machine

/-- `ld` of a word at s4:5 + 1, at scope `dev`, with release order: R224 gives a load no such order, and the decoder yields none. -/
def releasingLoad : Gmem := ⟨2, 2, 2, 0, 1, .b32, .dev, .rel, .iadd, false, false, true, 0⟩

/-- A store of warp 0 on its way to its home. -/
def sentStore : MemOp :=
  { kind := .st, slot := 0, uid := 1, core := 0, launch := 0, block := 0, vf := 0, asid := 0, pc := 0, iw0 := 0, iw1 := 0, two := true,
    width := .b32, scope := .dev, order := .plain, aop := .iadd, rp := false, hint := 0, dst := 0, dc := 0, seq := 0, held := none,
    lanes := [(0, { Lane.none with st := .sent })], written := 0, inTrap := false }

/-- A warp of one thread with a trap handler, whose store is not acknowledged yet. -/
def storeUnderWay : State :=
  { State.reset with
    warps := [(0, { Warp.empty with live := true, active := true, uid := 1, issue := 1, exm := 1, tvec := 128, tframe := 4096,
                                    threads := [(0, { Thread.idle with st := .running })] })],
    ops := [(1, sentStore)], nextId := 2 }

/-- The load waits for the store with its lane faulted: no trap is entered. -/
theorem releasingLoad_waits : (Out.or (exec (.ld releasingLoad) storeUnderWay) storeUnderWay).cw.trap = none := by decide +kernel

theorem storeUnderWay_replay (l : Nat) : (storeUnderWay.cw.thr l).replay = none := by
  match l with
  | 0 => rfl
  | _ + 1 => rfl

theorem storeUnderWay_gmemFree : storeUnderWay.gmemFree .ld false releasingLoad := by
  unfold State.gmemFree State.clear
  exact ⟨by decide +kernel, rfl, by decide +kernel, by decide +kernel, rfl, rfl, by decide +kernel, fun h => absurd h Bool.false_ne_true,
    storeUnderWay_replay⟩

/-- Refutes O13: at `storeUnderWay` the misaligned load enters no trap. The first clause is of every `g`, also of one with the release order
that R224 does not give to loads; such a load is held until the drain set of its warp is acknowledged, and traps only then. -/
theorem not_addressTraps : ¬ Obligations.AddressTraps := by
  unfold Obligations.AddressTraps
  rintro ⟨hload, -⟩
  obtain ⟨t, e, ops, hexec, htrap, -⟩ := hload storeUnderWay releasingLoad 0 (by decide) storeUnderWay_gmemFree (by decide +kernel) rfl rfl
    (by unfold handlerReady; decide +kernel) (.inr (by decide +kernel))
  have hwaits := releasingLoad_waits
  rw [hexec] at hwaits
  cases hwaits.symm.trans htrap

end Sys2Proof.Machine
end

section
/-! PROOFS. Group-space accesses: the bytes of group space under writes, the lanes performed in the cluster's unit, and the operation that
leaves the core (R102, R134, R136, R223). -/

namespace Sys2Proof.Machine

/-! ## Bytes of group space -/

/-- What a write into group space changes of the state: its bytes. -/
def State.sameButGs (s t : State) : Prop := t = { s with gspace := t.gspace }

theorem State.sameButGs.refl (s : State) : s.sameButGs s := rfl

theorem State.sameButGs.trans {s t u : State} (h : s.sameButGs t) (g : t.sameButGs u) : s.sameButGs u := by
  unfold State.sameButGs at *; rw [g, h]

theorem gsKey_add (cid off i : Nat) : gsKey cid (off + i) = gsKey cid off + i := by
  unfold gsKey; omega

theorem sameButGs_gsWrite (s : State) (cid off : Nat) (bs : List Byte) : s.sameButGs (s.gsWrite cid off bs) := by
  induction bs generalizing s off with
  | nil => exact .refl s
  | cons b bs ih =>
    have hset : s.sameButGs { s with gspace := Map.set s.gspace 0 (gsKey cid off) b } := rfl
    exact hset.trans (ih _ _)

/-- A byte of group space after a write of several: the one written there, or the old one. -/
theorem get_gsWrite (bs : List Byte) (s : State) (cid off k : Nat) : Map.get (s.gsWrite cid off bs).gspace 0 k =
    if gsKey cid off ≤ k ∧ k < gsKey cid off + bs.length then bs.getD (k - gsKey cid off) 0 else Map.get s.gspace 0 k := by
  induction bs generalizing s off with
  | nil => simp [State.gsWrite]
  | cons b bs ih =>
    have hkey := gsKey_add cid off 1
    have hlen : (b :: bs).length = bs.length + 1 := rfl
    rw [State.gsWrite, ih, Map.get_set, hkey, hlen]
    rcases Nat.lt_trichotomy k (gsKey cid off) with h | h | h
    · rw [if_neg (by omega), if_neg (by omega), if_neg (by omega)]
    · rw [if_neg (by omega), if_pos h, if_pos (by omega), h, Nat.sub_self, List.getD_cons_zero]
    · have hsub : k - gsKey cid off = k - (gsKey cid off + 1) + 1 := by omega
      by_cases hin : k < gsKey cid off + (bs.length + 1)
      · rw [if_pos (by omega), if_pos (by omega), hsub, List.getD_cons_succ]
      · rw [if_neg (by omega), if_neg (by omega), if_neg (by omega)]

theorem gsRead_congr {s t : State} {cid off n : Nat}
    (h : ∀ i, i < n → Map.get t.gspace 0 (gsKey cid (off + i)) = Map.get s.gspace 0 (gsKey cid (off + i))) :
    t.gsRead cid off n = s.gsRead cid off n :=
  List.map_congr_left fun i hi => h i (List.mem_range.1 hi)

theorem gsRead_gsWrite_same (s : State) (cid off : Nat) (bs : List Byte) : (s.gsWrite cid off bs).gsRead cid off bs.length = bs := by
  apply List.ext_getElem
  · simp [State.gsRead]
  · intro i h _
    have hi : i < bs.length := by simpa [State.gsRead] using h
    simp only [State.gsRead, List.getElem_map, List.getElem_range, get_gsWrite, gsKey_add]
    rw [if_pos (by omega), Nat.add_sub_cancel_left, List.getD_eq_getElem _ _ hi]

@[simp] theorem length_gsRead (s : State) (cid off n : Nat) : (s.gsRead cid off n).length = n := by simp [State.gsRead]

/-! ## One lane in the cluster's unit (R134, R136) -/

/-- The kinds of access that group space has (R223). -/
def groupKind (k : MemKind) : Prop := k = .ld ∨ k = .st ∨ k = .atom ∨ k = .cas

/-- The bytes that stand at a lane's offset when it has been performed on `old`. -/
def MemOp.gsNew (o : MemOp) (l : Lane) (old : List Byte) : List Byte :=
  if o.kind = .ld then old else if o.kind = .st then lowBytes o.width.bytes l.data
  else (rmw o.kind o.aop o.width.bytes old l.data 0 l.bnd).1

/-- A lane that its core has sent whole, with its operand words. -/
def MemOp.gsSent (o : MemOp) (l : Lane) : Prop := l.st = .sent ∧ l.halves = 0 ∧ l.data.length = o.kind.operands o.width

theorem bytes_le_regs (w : Width) : w.bytes ≤ 4 * w.regs := by cases w <;> decide

theorem length_gsNew {o : MemOp} {l : Lane} {old : List Byte} (hkind : groupKind o.kind) (hsent : o.gsSent l)
    (hold : old.length = o.width.bytes) : (o.gsNew l old).length = o.width.bytes := by
  have hregs := bytes_le_regs o.width
  obtain ⟨-, -, hdata⟩ := hsent
  unfold MemOp.gsNew
  rcases hkind with hk | hk | hk | hk <;> simp only [hk, MemKind.operands] at hdata ⊢
  · exact hold
  · exact length_lowBytes (by omega)
  · exact length_bytesOf _ _
  · have hfit : o.width.bytes ≤ 4 * (l.data.drop (o.width.bytes / 4)).length := by
      rw [List.length_drop]
      omega
    simp only [rmw, reduceCtorEq, if_false]
    split
    · exact length_lowBytes hfit
    · exact hold

/-- Group space after a lane is performed: a load leaves the state as it is. -/
def State.gsPut (s : State) (cid : Nat) (o : MemOp) (l : Lane) : State :=
  if o.kind = .ld then s else s.gsWrite cid l.addr.toNat (o.gsNew l (s.gsRead cid l.addr.toNat o.width.bytes))

/-- A lane performed: what a later step reads of it. -/
structure State.gsDone (s : State) (cid : Nat) (o : MemOp) (l l' : Lane) : Prop where
  st : l'.st = .done
  bnd : l'.bnd = l.bnd
  res : o.kind.returns = true → l'.res = loadWords o.width (s.gsRead cid l.addr.toNat o.width.bytes)

/-- The schedule tears only an access of 128 bits (R137). -/
theorem span_of_half {o : MemOp} {half : Nat} (h : o.width = .b128 → half = 0) (p : Nat) : o.span p half = o.span p 0 := by
  unfold MemOp.span
  cases hs : o.splits
  case false => rfl
  case true => rw [h (width_of_splits hs)]

theorem tookGroup_whole (o : MemOp) (l : Lane) : l.tookGroup o.splits (0, o.width.bytes) = { l with st := .done, halves := 3 } := by
  rw [Lane.tookGroup, took_whole l id]
  rfl

theorem gsLane_whole {s : State} {cid p half : Nat} {o : MemOp} (hkind : groupKind o.kind) (hhalves : (o.lane p).halves = 0)
    (hhalf : o.width = .b128 → half = 0) :
    ∃ l', s.gsLane cid o p half = (s.gsPut cid o (o.lane p), l') ∧ s.gsDone cid o (o.lane p) l' := by
  rcases hkind with hk | hk | hk | hk
  · refine ⟨{ o.lane p with st := .done, halves := 3, res := loadWords o.width (s.gsRead cid (o.lane p).addr.toNat o.width.bytes), rbnd := 0 },
      ?_, rfl, rfl, fun _ => rfl⟩
    simp only [State.gsLane, State.gsPut, hk, span_of_half hhalf, span_whole (.inl hk) hhalves, tookGroup_whole, gain_whole _ id,
      Nat.add_zero, if_true]
  · refine ⟨{ o.lane p with st := .done, halves := 3 }, ?_, rfl, rfl, fun h => by simp [hk, MemKind.returns] at h⟩
    have hbytes : ((o.bytes p).drop 0).take o.width.bytes = lowBytes o.width.bytes (o.lane p).data := by
      simp [MemOp.bytes, MemOp.size, hk, lowBytes]
    simp only [State.gsLane, State.gsPut, MemOp.gsNew, hk, span_of_half hhalf, span_whole (.inr (.inr hk)) hhalves, tookGroup_whole,
      hbytes, Nat.add_zero, reduceCtorEq, if_false, if_true]
  all_goals
    refine ⟨{ o.lane p with st := .done, res := loadWords o.width (s.gsRead cid (o.lane p).addr.toNat o.width.bytes), rbnd := 0 },
      ?_, rfl, rfl, fun _ => rfl⟩
    simp only [State.gsLane, State.gsPut, MemOp.gsNew, hk, reduceCtorEq, if_false]

/-! ## The lanes in order (R136) -/

theorem sameButGs_gsPut (s : State) (cid : Nat) (o : MemOp) (l : Lane) : s.sameButGs (s.gsPut cid o l) := by
  unfold State.gsPut
  split
  · exact .refl s
  · exact sameButGs_gsWrite _ _ _ _

/-- The bytes of group space that a lane touches. -/
def gsCovers (cid n : Nat) (l : Lane) (k : Nat) : Prop := gsKey cid l.addr.toNat ≤ k ∧ k < gsKey cid l.addr.toNat + n

section
variable {s : State} {cid : Nat} {o : MemOp} {l : Lane}

theorem get_gsPut_other (hkind : groupKind o.kind) (hsent : o.gsSent l) {k : Nat}
    (hk : o.kind = .ld ∨ ¬gsCovers cid o.width.bytes l k) : Map.get (s.gsPut cid o l).gspace 0 k = Map.get s.gspace 0 k := by
  unfold State.gsPut
  split
  case isTrue => rfl
  case isFalse hld =>
    rw [get_gsWrite, length_gsNew hkind hsent (length_gsRead _ _ _ _)]
    exact if_neg (hk.resolve_left hld)

theorem gsRead_gsPut_same (hkind : groupKind o.kind) (hsent : o.gsSent l) :
    (s.gsPut cid o l).gsRead cid l.addr.toNat o.width.bytes = o.gsNew l (s.gsRead cid l.addr.toNat o.width.bytes) := by
  have hlen := length_gsNew (old := s.gsRead cid l.addr.toNat o.width.bytes) hkind hsent (length_gsRead _ _ _ _)
  unfold State.gsPut
  split
  case isTrue hld => rw [MemOp.gsNew, if_pos hld]
  case isFalse =>
    have hsame := gsRead_gsWrite_same s cid l.addr.toNat (o.gsNew l (s.gsRead cid l.addr.toNat o.width.bytes))
    rwa [hlen] at hsame

end

/-- Two lanes touch different bytes. -/
def lanesApart (n : Nat) (l j : Lane) : Prop := l.addr.toNat + n ≤ j.addr.toNat ∨ j.addr.toNat + n ≤ l.addr.toNat

theorem not_gsCovers_of_apart {cid n i : Nat} {l j : Lane} (h : lanesApart n l j) (hi : i < n) :
    ¬gsCovers cid n l (gsKey cid (j.addr.toNat + i)) := by
  unfold gsCovers gsKey
  rcases h with h | h <;> omega

/-- The lanes `ls` of an operation performed: each on the bytes that stood at its offset in `s`. -/
structure State.gsServed (s : State) (cid : Nat) (o : MemOp) (ls : List Nat) (u : State) (o' : MemOp) : Prop where
  same : s.sameButGs u
  fields : o' = { o with lanes := o'.lanes }
  others : ∀ l, l ∉ ls → o'.lane l = o.lane l
  settled : ∀ q ∈ o'.lanes, q.2.st = .done ∨ q ∈ o.lanes
  frame : ∀ k, (o.kind = .ld ∨ ∀ l ∈ ls, ¬gsCovers cid o.width.bytes (o.lane l) k) → Map.get u.gspace 0 k = Map.get s.gspace 0 k
  done : ∀ l ∈ ls, s.gsDone cid o (o.lane l) (o'.lane l)
  written : ∀ l ∈ ls, u.gsRead cid (o.lane l).addr.toNat o.width.bytes =
    o.gsNew (o.lane l) (s.gsRead cid (o.lane l).addr.toNat o.width.bytes)

/-- Lanes that touch different bytes, performed in order. -/
theorem gsServe_lanes {cid half : Nat} (ls : List Nat) : ∀ {s : State} {o : MemOp},
    s.torn = half → groupKind o.kind → (o.width = .b128 → half = 0) →
    ls.Nodup → (∀ l ∈ ls, o.gsSent (o.lane l)) → (∀ l ∈ ls, ∀ j ∈ ls, l ≠ j → lanesApart o.width.bytes (o.lane l) (o.lane j)) →
    ∃ u o', s.gsServe cid o ls = (u, o') ∧ s.gsServed cid o ls u o' := by
  induction ls with
  | nil =>
    intro s o _ _ _ _ _ _
    exact ⟨s, o, rfl, .refl s, rfl, fun _ _ => rfl, fun _ h => .inr h, fun _ _ => rfl, fun _ h => absurd h List.not_mem_nil,
      fun _ h => absurd h List.not_mem_nil⟩
  | cons p ls ih =>
    intro s o htorn hkind hhalf hnodup hsent hapart
    obtain ⟨hp, hnodup⟩ := List.nodup_cons.1 hnodup
    have hsentp := hsent p List.mem_cons_self
    obtain ⟨l', hlane, hdone⟩ := gsLane_whole (s := s) (cid := cid) hkind hsentp.2.1 hhalf
    have hrest : ∀ l ∈ ls, (o.setLane p l').lane l = o.lane l := fun l hl => lane_setLane_other o l' fun h => hp (h ▸ hl)
    have hput := sameButGs_gsPut s cid o (o.lane p)
    obtain ⟨u, o', hserve, hserved⟩ := ih (s := s.gsPut cid o (o.lane p)) (o := o.setLane p l')
      (by rw [hput]; exact htorn) hkind hhalf hnodup (fun l hl => by rw [hrest l hl]; exact hsent l (List.mem_cons_of_mem _ hl))
      (fun l hl j hj hne => by
        rw [hrest l hl, hrest j hj]
        exact hapart l (List.mem_cons_of_mem _ hl) j (List.mem_cons_of_mem _ hj) hne)
    have hkept : ∀ l ∈ ls, (s.gsPut cid o (o.lane p)).gsRead cid (o.lane l).addr.toNat o.width.bytes =
        s.gsRead cid (o.lane l).addr.toNat o.width.bytes := fun l hl => gsRead_congr fun i hi => get_gsPut_other hkind hsentp
      (.inr (not_gsCovers_of_apart (hapart p List.mem_cons_self l (List.mem_cons_of_mem _ hl) fun h => hp (h ▸ hl)) hi))
    have hp' : o'.lane p = l' := by rw [hserved.others p hp, lane_setLane_same]
    refine ⟨u, o', ?_, hput.trans hserved.same, by rw [hserved.fields]; rfl, fun l hl => ?_, fun q hq => ?_, fun k hk => ?_, fun l hl => ?_,
      fun l hl => ?_⟩
    · rw [State.gsServe, hsentp.1, beq_self_eq_true, if_pos rfl, htorn, hlane]
      exact hserve
    · obtain ⟨hlp, hl⟩ := not_or.1 (mt List.mem_cons.2 hl)
      rw [hserved.others l hl, lane_setLane_other o l' hlp]
    · rcases hserved.settled q hq with h | h
      · exact .inl h
      · rcases mem_set h with rfl | h
        · exact .inl hdone.st
        · exact .inr h
    · refine (hserved.frame k (hk.imp_right fun h l hl => ?_)).trans
        (get_gsPut_other hkind hsentp (hk.imp_right fun h => h p List.mem_cons_self))
      rw [hrest l hl]
      exact h l (List.mem_cons_of_mem _ hl)
    · rcases List.mem_cons.1 hl with rfl | hl
      · exact hp' ▸ hdone
      · have hdone := hserved.done l hl
        rw [hrest l hl] at hdone
        exact ⟨hdone.st, hdone.bnd, fun h => (hdone.res h).trans (congrArg (loadWords o.width) (hkept l hl))⟩
    · rcases List.mem_cons.1 hl with rfl | hl
      · rw [← gsRead_gsPut_same hkind hsentp]
        refine gsRead_congr fun i hi => hserved.frame _ (.inr fun j hj => ?_)
        rw [hrest j hj]
        exact not_gsCovers_of_apart (hapart j (List.mem_cons_of_mem _ hj) l List.mem_cons_self fun h => hp (h ▸ hj)) hi
      · have hread := hserved.written l hl
        rw [hrest l hl] at hread
        exact hread.trans (congrArg (o.gsNew (o.lane l)) (hkept l hl))

end Sys2Proof.Machine
end

section
/-! PROOFS. A GMEM instruction at issue: its lanes, the operation that leaves the core, and the settling of O14 (R225, R226, R232, R392). -/

namespace Sys2Proof.Machine

/-! ## The operation leaves the core (R232) -/

theorem ctr_inc (w : Warp) (dc : BitVec 3) (i : Nat) : (w.inc dc).d i = if i = dc.toNat ∧ i < 6 then w.d i + 1 else w.d i := by
  unfold Warp.inc Warp.d
  by_cases hdc : dc.toNat < 6
  · rw [if_pos hdc]
    by_cases hi : i = dc.toNat
    · subst hi
      rw [if_pos ⟨rfl, hdc⟩]
      exact Map.get_upd_same _ _ _ _
    · rw [if_neg fun h => hi h.1]
      exact Map.get_upd_other _ _ _ _ _ hi
  · rw [if_neg hdc, if_neg]
    rintro ⟨rfl, h⟩
    exact hdc h

theorem vregs_inc (w : Warp) (dc : BitVec 3) : (w.inc dc).vregs = w.vregs := by
  unfold Warp.inc
  split <;> rfl

/-- What an operation does as it leaves the core, when its lanes are settled already and none has faulted. -/
structure State.launched (s t : State) (o : MemOp) : Prop where
  op : ∃ o', t.op? s.nextId = some o' ∧ o'.kind = o.kind ∧ ∀ l, (o.lane l).st = .done → o'.lane l = o.lane l
  counted : countedUp s t o.dc
  vregs : t.cw.vregs = s.cw.vregs
  mem : t.mem = s.mem
  scratch : t.scratch = s.scratch
  gspace : t.gspace = s.gspace

/-- What follows the launch changes no register and no memory. -/
theorem State.launched.keep {s t u : State} {o o' : MemOp} (h : s.launched t o) (hkept : inFlightKept t u) (hmem : t.lineMemory u)
    (hcur : u.cur = t.cur) (hop : u.op? s.nextId = some o') (hkind : o'.kind = o.kind)
    (hlanes : ∀ l, (o.lane l).st = .done → o'.lane l = o.lane l) : s.launched u o := by
  obtain ⟨hw, hscratch, hgspace, -⟩ := hkept
  obtain ⟨hv, -, -, hctr⟩ := hw t.cur
  have hcw : u.cw = u.warp t.cur := by rw [State.cw, hcur]
  have hcount : ∀ i, u.cw.d i = t.cw.d i := fun i => by rw [hcw, Warp.d, hctr]; rfl
  exact ⟨⟨o', hop, hkind, hlanes⟩, fun i => (hcount i).trans (h.counted i), (congrArg _ hcw).trans (hv.trans h.vregs), hmem.2.trans h.mem,
    hscratch.trans h.scratch, hgspace.trans h.gspace⟩

theorem launchOp_launched {s : State} {o : MemOp} (lines : List Nat) (hfaults : o.faults = []) : s.launched (s.launchOp o lines) o := by
  unfold State.launchOp
  split
  next id t ht =>
  cases ht
  extract_lets drain held u o' v w x
  have hv : v.op? s.nextId = some o' := State.op?_setOp_same _ _ _
  have hw : v.sameButL1 w := by
    show v.sameButL1 (if _ then _ else _)
    split
    · exact sameButL1_l1Lay _ _ _
    · exact .refl _
  have hcw : w.cw = s.cw := by rw [hw]; rfl
  have hop : x.op? s.nextId = some o' := by
    have hops : x.ops = v.ops := (show x.ops = w.ops from rfl).trans (by rw [hw])
    rw [State.op?, hops]
    exact hv
  have hx : s.launched x o := by
    refine ⟨⟨o', hop, rfl, fun _ _ => rfl⟩, fun i => ?_, ?_, (show x.mem = w.mem from rfl).trans (by rw [hw]; rfl),
      (show x.scratch = w.scratch from rfl).trans (by rw [hw]; rfl), (show x.gspace = w.gspace from rfl).trans (by rw [hw]; rfl)⟩
    · rw [State.cw_updCw, hcw]
      exact ctr_inc s.cw o.dc i
    · rw [State.cw_updCw, hcw]
      exact vregs_inc s.cw o.dc
  split
  case isTrue =>
    rcases resolve_eq hop hfaults with h | h
    · rwa [h]
    · obtain ⟨hkept, hmem, hleft⟩ := letGo_keeps x s.nextId o'
      rw [h]
      exact hx.keep hkept hmem rfl hleft rfl fun l hl => (lane_left o' l).trans (leave_of_done hl)
  case isFalse => exact hx.keep (inFlightKept_finish x 2) ⟨rfl, rfl⟩ rfl hop rfl fun _ _ => rfl

/-! ## The lanes as issued (R225, R226) -/

theorem memAddr_group {w : Warp} {l : Nat} (h : (w.thr l).replay = none) (g : Gmem) : w.memAddr g true l = laneAddr w g true l := by
  have hbase : ∀ x : DWord, 0 + x = x := BitVec.zero_add
  simp only [Warp.memAddr, h, laneAddr, if_true, hbase, BitVec.ofNat_toNat]
  rfl

theorem memData_words {w : Warp} {l : Nat} (h : (w.thr l).replay = none) (cas : Bool) (vdata n : Nat) :
    (w.memData cas vdata n l).1 = laneWords w vdata n l := by
  simp [Warp.memData, h, laneWords]

/-- The cluster of the issuing warp's block. -/
def State.hereCluster (s : State) : Nat := (s.block s.cw.block).cluster

/-- A group-space operation as its lanes are checked. -/
def State.groupOp (s : State) (kind : MemKind) (g : Gmem) : MemOp :=
  { s.gmemOp kind g with lanes := (lanesOf s.cw.eff).map fun l => (l, s.issueLane true s.hereCluster (s.gmemOp kind g) g l) }

theorem lane_groupOp {s : State} (kind : MemKind) (g : Gmem) {l : Nat} (hl : l ∈ lanesOf s.cw.eff) :
    (s.groupOp kind g).lane l = s.issueLane true s.hereCluster (s.gmemOp kind g) g l :=
  get_map_lanes _ hl

theorem mem_groupOp {s : State} {kind : MemKind} {g : Gmem} {q : Nat × Lane} (hq : q ∈ (s.groupOp kind g).lanes) :
    q.1 ∈ lanesOf s.cw.eff ∧ q.2 = (s.groupOp kind g).lane q.1 := by
  obtain ⟨l, hl, rfl⟩ := List.mem_map.1 hq
  exact ⟨hl, (lane_groupOp kind g hl).symm⟩

theorem groupOp_lane {s : State} {kind : MemKind} {g : Gmem} {l : Nat} (hl : l ∈ lanesOf s.cw.eff) (hreplay : (s.cw.thr l).replay = none)
    (hgood : s.goodAddr true g (laneAddr s.cw g true l)) :
    (s.groupOp kind g).gsSent ((s.groupOp kind g).lane l) ∧ ((s.groupOp kind g).lane l).addr = laneAddr s.cw g true l ∧
      ((s.groupOp kind g).lane l).data = laneWords s.cw g.vdata.toNat (kind.operands g.width) l := by
  have haddr := memAddr_group hreplay g
  have hdata := memData_words hreplay (kind == .cas) g.vdata.toNat (kind.operands g.width)
  obtain ⟨halign, hinside⟩ := hgood
  rw [if_pos rfl] at hinside
  have hcheck : s.coreCheck true s.hereCluster (s.gmemOp kind g) (laneAddr s.cw g true l) = .sent := by
    have halign' : (laneAddr s.cw g true l).toNat % (s.gmemOp kind g).width.bytes = 0 := halign
    have hinside' : ¬(s.cluster s.hereCluster).gspace ≤ (laneAddr s.cw g true l).toNat := Nat.not_le.2 hinside
    simp [State.coreCheck, halign', hinside']
  rw [lane_groupOp kind g hl]
  exact ⟨⟨(congrArg _ haddr).trans hcheck, rfl, (congrArg _ hdata).trans (length_laneWords _ _ _ _)⟩, haddr, hdata⟩

/-! ## The issue (R392) -/

/-- Nothing but the cores has changed. -/
def State.sameButCores (s t : State) : Prop := t = { s with cores := t.cores }

theorem gmemPoint_clear {s : State} (h : s.cw.deferred = []) (kind : MemKind) (g : Gmem) (k : State → State) : s.gmemPoint kind g k = k s := by
  have hdeliver : s.deliver none k = k s := by simp [State.deliver, Warp.pendingFor, h]
  have hfull : s.deliverFull k = k s := deliverFull_room (by simp [h]) k
  unfold State.gmemPoint
  split
  · exact hdeliver
  · split
    · exact hfull
    · rfl

theorem chkLanes_eq_zero {s : State} {g : Gmem} (h : s.chkPass g) : (if g.chk then s.chkLanes g s.cw.eff else 0) = 0 := by
  rcases h with h | h
  · simp [h]
  · have hzero : s.chkLanes g s.cw.eff = 0 := by
      apply BitVec.eq_of_getLsbD_eq
      intro l hl
      cases heff : s.cw.eff.getLsbD l
      · simp [State.chkLanes, heff]
      · have hpass : ((List.range g.width.regs).any fun i => !budgetPass s.cw.budget (opF32 (s.cw.v (g.vdata.toNat + i) l))) = false := by
          rw [List.any_eq_false]
          intro i hi
          simp [h l i hl heff (List.mem_range.1 hi)]
        simp [State.chkLanes, getLsbD_maskOf, hpass]
    simp [hzero]

theorem forcePromote_room {s : State} {need : Nat} {log : List PromEntry} (h : log.length + need ≤ 64) : s.forcePromote need log 64 = log := by
  cases log with
  | nil => rfl
  | cons e log => exact if_pos h

/-- The operation in group space of a GMEM instruction that may issue. -/
theorem gmem_group {s : State} {kind : MemKind} {g : Gmem} (hfree : s.gmemFree kind true g) (hchk : kind = .st → s.chkPass g)
    (heff : s.cw.eff ≠ 0) : ∃ u, s.sameButCores u ∧ s.gmem kind true g =
      .next ((u.gsServe s.hereCluster (s.groupOp kind g) (lanesOf s.cw.eff)).1.launchOp
        (u.gsServe s.hereCluster (s.groupOp kind g) (lanesOf s.cw.eff)).2 []) := by
  obtain ⟨hclear, hctr, hacq, hrel, hdeferred, hlocks, hlog, hgroup, hreplay⟩ := hfree
  obtain ⟨hhalf, -, hdrain⟩ := hgroup rfl
  have hwaits : s.gmemWaits kind true g = false := by simp [State.gmemWaits, hclear.1, hctr, hacq, hrel]
  have hbad : (if g.chk && kind == .st then s.chkLanes g s.cw.eff else 0) = 0 := by
    cases hst : kind == .st
    · rw [Bool.and_false, if_neg Bool.false_ne_true]
    · rw [Bool.and_true]
      exact chkLanes_eq_zero (hchk (beq_iff_eq.1 hst))
  have hwait : (s.groupHalf || (g.order.releases && g.scope.wide && !s.allAcked (s.drainSet s.cur))) = false := by
    rw [hhalf, Bool.false_or]
    cases hr : g.order.releases
    · rfl
    cases hw : g.scope.wide
    · rfl
    rw [hdrain hr hw]
    rfl
  rw [State.gmem, hwaits, if_neg Bool.false_ne_true, gmemPoint_clear hdeferred, guard_of_clear hclear]
  unfold State.issueGmem
  extract_lets w m cid p o hits bad info lines need log u
  have hm : m = s.cw.eff := memLanes_eq_eff hreplay
  have ho : o = s.groupOp kind g := by
    show ({ p with lanes := (lanesOf m).map _ } : MemOp) = _
    rw [hm]
    rfl
  have hhits : hits = [] := lockLanes_nil hlocks _ _ _ _ _ _
  have hbad' : bad = 0 := by
    show (if g.chk && kind == .st then s.chkLanes g m else 0) = 0
    rw [hm]
    exact hbad
  have hroom : ¬64 < log.length + need := by
    have hneed : need = 0 := rfl
    have hshort : log = (s.core (coreOf s.cur)).log := forcePromote_room (le_trans hlog (by decide))
    rw [hneed, hshort]
    omega
  have hready : (true && (s.groupHalf || (o.order.releases && o.scope.wide && !s.allAcked (s.drainSet s.cur)))) = false := hwait
  have hlanes : o.lanes.map Prod.fst = lanesOf s.cw.eff := by
    rw [ho, State.groupOp, List.map_map]
    exact List.map_id _
  refine ⟨u, rfl, ?_⟩
  rw [if_neg (hm ▸ heff), if_neg (Bool.eq_false_iff.1 hready), if_neg (by simp), if_neg (by simp [hhits]), if_neg (by simp [hbad']),
    if_neg hroom, if_pos rfl, hlanes, ho]
  rfl

/-- The lanes of a GMEM instruction are good, and touch different bytes. -/
structure State.groupLanes (s : State) (g : Gmem) : Prop where
  good : ∀ l ∈ lanesOf s.cw.eff, s.goodAddr true g (laneAddr s.cw g true l)
  apart : ∀ l ∈ lanesOf s.cw.eff, ∀ j ∈ lanesOf s.cw.eff, l ≠ j →
    (laneAddr s.cw g true l).toNat + g.width.bytes ≤ (laneAddr s.cw g true j).toNat ∨
      (laneAddr s.cw g true j).toNat + g.width.bytes ≤ (laneAddr s.cw g true l).toNat

/-- A group-space access that may issue is performed and leaves its core. -/
theorem gmem_group_served {s : State} {kind : MemKind} {g : Gmem} (hkind : groupKind kind) (hfree : s.gmemFree kind true g)
    (hchk : kind = .st → s.chkPass g) (heff : s.cw.eff ≠ 0) (hlanes : s.groupLanes g) :
    ∃ u v o, s.sameButCores u ∧ u.gsServed s.hereCluster (s.groupOp kind g) (lanesOf s.cw.eff) v o ∧ o.faults = [] ∧
      s.gmem kind true g = .next (v.launchOp o []) := by
  obtain ⟨u, hcores, hissue⟩ := gmem_group hfree hchk heff
  obtain ⟨-, -, -, -, -, -, -, hgroup, hreplay⟩ := hfree
  obtain ⟨-, htorn, -⟩ := hgroup rfl
  have hlane := fun l hl => groupOp_lane (kind := kind) hl (hreplay l) (hlanes.good l hl)
  obtain ⟨v, o, hserve, hserved⟩ := gsServe_lanes (cid := s.hereCluster) (lanesOf s.cw.eff) (s := u) (o := s.groupOp kind g) (half := s.torn)
    (by rw [hcores]) hkind htorn (nodup_lanesOf _) (fun l hl => (hlane l hl).1) (fun l hl j hj hne => by
      unfold lanesApart
      rw [(hlane l hl).2.1, (hlane j hj).2.1]
      exact hlanes.apart l hl j hj hne)
  refine ⟨u, v, o, hcores, hserved, ?_, by rw [hissue, hserve]⟩
  rw [faults_eq_nil_iff]
  intro q hq c
  rcases hserved.settled q hq with h | h
  · simp [h]
  · obtain ⟨hmem, hq⟩ := mem_groupOp h
    simp [hq, (hlane q.1 hmem).1.1]

/-- Settles O14: each lane acts at once on the bytes at its offset, and lanes that touch different bytes do not meet. -/
theorem groupSpaceAccess : Obligations.GroupSpaceAccess := by
  unfold Obligations.GroupSpaceAccess
  intro x hx s g hfree hchk heff hgood hapart cid n
  have hkind : groupKind x.2 := by
    simp only [List.mem_cons, List.not_mem_nil, or_false] at hx
    obtain rfl | rfl | rfl | rfl := hx <;> simp [groupKind]
  have hexec : exec (x.1 g) s = s.gmem x.2 true g := by
    simp only [List.mem_cons, List.not_mem_nil, or_false] at hx
    obtain rfl | rfl | rfl | rfl := hx <;> rfl
  have heach : ∀ l ∈ lanesOf s.cw.eff, l < 32 ∧ s.cw.eff.getLsbD l = true := fun l h => ⟨lt_of_mem_lanesOf h, (mem_lanesOf _ _).1 h⟩
  have hgroup : s.groupLanes g := ⟨fun l hl => hgood l (heach l hl).1 (heach l hl).2,
    fun l hl j hj hne => hapart l j (heach l hl).1 (heach j hj).1 hne (heach l hl).2 (heach j hj).2⟩
  obtain ⟨u, v, o, hcores, hserved, hfaults, hissue⟩ := gmem_group_served hkind hfree hchk heff hgroup
  obtain ⟨-, -, -, -, -, -, -, -, hreplay⟩ := hfree
  have hlane := fun l hl => groupOp_lane (kind := x.2) hl (hreplay l) (hgroup.good l hl)
  have hlaunch := launchOp_launched (s := v) [] hfaults
  have hsame : v = { s with cores := v.cores, gspace := v.gspace } := by
    have hgs := hserved.same
    unfold State.sameButGs at hgs
    unfold State.sameButCores at hcores
    rw [hgs, hcores]
  have hcw : v.cw = s.cw := by
    rw [hsame]
    rfl
  have hnext : v.nextId = s.nextId := by rw [hsame]
  have hstart : u.gspace = s.gspace := by rw [hcores]
  have hold : ∀ off, u.gsRead s.hereCluster off n = s.gsRead s.hereCluster off n := fun off => gsRead_congr fun i _ => by rw [hstart]
  have hwidth : (s.groupOp x.2 g).width.bytes = n := rfl
  have hofields : o.kind = x.2 ∧ o.dc = g.dc := by
    rw [hserved.fields]
    exact ⟨rfl, rfl⟩
  obtain ⟨o', hop, hkind', hlanes⟩ := hlaunch.op
  refine ⟨v.launchOp o [], o', ?_, ?_, hkind'.trans hofields.1, ?_, ?_, ?_, ?_, fun l hl heff' => ?_, fun k hk => ?_⟩
  · rw [hexec, hissue]
  · rwa [hnext] at hop
  · exact fun i => (hlaunch.counted i).trans (by rw [hcw, hofields.2])
  · exact hlaunch.vregs.trans (by rw [hcw])
  · exact fun a => congrArg (fun m => Map.get m 0 a) (hlaunch.mem.trans (by rw [hsame]))
  · exact hlaunch.scratch.trans (by rw [hsame])
  · have hmem := (mem_lanesOf _ _).2 heff'
    obtain ⟨-, haddr, hdata⟩ := hlane l hmem
    have hdone := hserved.done l hmem
    have hwritten := hserved.written l hmem
    have hread : (v.launchOp o []).gsRead s.hereCluster (laneAddr s.cw g true l).toNat n = v.gsRead s.hereCluster (laneAddr s.cw g true l).toNat n :=
      gsRead_congr fun i _ => by rw [hlaunch.gspace]
    rw [haddr, hwidth, hold, MemOp.gsNew, hdata, ← hdone.bnd] at hwritten
    rw [hlanes l hdone.st]
    refine ⟨fun hr => (hdone.res hr).trans ?_, hread.trans hwritten⟩
    rw [haddr, hwidth, hold]
    rfl
  · rw [hlaunch.gspace, hserved.frame k (hk.imp_right fun h l hl hin => ?_), hstart]
    obtain ⟨hlow, hhigh⟩ := hin
    rw [(hlane l hl).2.1] at hlow hhigh
    have hkey : k - gsKey s.hereCluster (laneAddr s.cw g true l).toNat < n := Nat.sub_lt_left_of_lt_add hlow hhigh
    refine h l _ (heach l hl).1 (heach l hl).2 hkey ?_
    rw [gsKey_add]
    exact (Nat.add_sub_cancel' hlow).symm

end Sys2Proof.Machine
end

section
/-! PROOFS. A failed page answer and the trap that it causes: the counterexample to O37. -/

namespace Sys2Proof.Machine

/-- The outstanding group of the page at 0, of stage 1 and index 5, for function 0. -/
def firstPage : PageGroup := ⟨0, 1, 5, 0, 0, true, []⟩

/-- What a thread of a load keeps that waits for it. -/
def firstPageLoad : Parked := ⟨0x100, [], 0, 0, some (0, 1, 5), 0, 0, []⟩

/-- A warp of one thread, parked for the group, with a trap handler. -/
def parkedThread : State :=
  { State.reset with
    warps := [(0, { Warp.empty with live := true, active := true, uid := 1, tvec := 128, tframe := 4096,
                                    threads := [(0, { Thread.idle with st := .parked firstPageLoad })] })],
    groups := [firstPage] }

/-- The trap of the parked thread, as the answer finds it. -/
def parkedThreadTrap : TrapInfo := (parkedThread.warp 0).parkedTrap 1 1 5

theorem parkedThread_pageTraps : parkedThread.pageTraps 0 1 5 = [(0, parkedThreadTrap)] := by decide +kernel

/-- The frame's head that a trap holds. -/
def State.trapHead (s : State) (k : Nat) : Option (List Byte) := (s.warp k).trap.map fun x => x.1.head

/-- The trap that is entered holds the head of its frame. -/
theorem parkedThread_trapHead : (Out.or (exec (.prspFailure 0 1 5) parkedThread) parkedThread).trapHead 0 ≠ some parkedThreadTrap.head := by
  decide +kernel

/-- Refutes O37: at `parkedThread` the failed answer enters the trap that the parked thread causes (second clause of the failed answer), but
the trap that the warp then holds is not `e` itself: entry has noted in it the bytes at the head of its frame (R388, R389), a field that is
still empty in the traps of `pageTraps`. -/
theorem not_translation : ¬ Obligations.Translation := by
  unfold Obligations.Translation
  rintro ⟨-, -, hfailure, -⟩
  obtain ⟨-, htraps⟩ := hfailure parkedThread 0 1 5 (by decide +kernel) rfl rfl (fun q hq => absurd hq List.not_mem_nil) rfl (by decide +kernel)
  obtain ⟨t, ops, hexec, -, htrap, -⟩ := htraps 0 parkedThreadTrap parkedThread_pageTraps (by decide +kernel) (by decide +kernel) rfl
    (by unfold handlerReady; decide +kernel)
  refine parkedThread_trapHead ?_
  rw [hexec]
  show (t.warp 0).trap.map _ = _
  rw [htrap]
  rfl

end Sys2Proof.Machine
end

section
/-! PROOFS. A line that a core holds without a bound while its home holds it bounded: the counterexample to O45. -/

namespace Sys2Proof.Machine

/-- A line of a cache, all zero. -/
def zeroLine (bounded : Bool) : CLine := ⟨true, true, false, List.replicate 128 0, [0, 0, 0, 0], 0, bounded⟩

/-- Line 32 of address space 0 of function 0, at home 0 and in the L1 of core 0. -/
def farLine : Nat := lineKey 0 0 0 4096

/-- A range invalidation of 4 KiB at 0 stands at HEAD of queue 0, at 0x1000. The line at 0x1000 of VA lies outside the range and its bound
shadow inside; its home holds it bounded, with core 0 among its sharers, and core 0 holds it without bounds. -/
def unevenLine : State :=
  { State.reset with
    queues := [(0, { Queue.reset with base := 0x1000, ctl := 0x8004, rung := true })], mem := [(0x1000, 2), (0x1011, 0x10)],
    plts := [(0, [0, 0x8001680000000000, 0x8000000000000000])],
    hub := { Hub.reset with ready := 0xFFFFFFFFFF, parts := [(0, 0x80000001)], funcs := [(0, BitVec.ofNat 256 (0x10000 * 2 ^ 64 + 2 ^ 31))] },
    home := [(farLine, some ⟨zeroLine true, 0, 0, 0, none, .shared, [0], []⟩)], l1 := [(farLine, some (zeroLine false))] }
/-- The line's home goes by its shadow, and the copy of core 0 goes with it. -/
theorem unevenLine_dropped :
    Map.get (Out.or (exec (.rangeInvalidationEntry 0 0) unevenLine) unevenLine).l1 none farLine = none := by decide +kernel

theorem unevenLine_slotReady : unevenLine.slotReady 0 0 := by
  unfold State.slotReady
  decide +kernel

theorem unevenLine_uncached : unevenLine.uncached (unevenLine.queue (qkey 0 0)).slotPa := by
  intro key h hh
  rw [State.hline, unevenLine, Map.get_cons] at hh
  split at hh
  · cases hh
    decide +kernel
  · cases hh

/-- Refutes O45: at `unevenLine` the copy of core 0 lies outside the range and is without bounds, yet it leaves L1 (first clause). The
statement is of every state, also of one in which a core holds a line without bounds whose home holds it bounded: the home's line is one
of the range by its shadow, and every copy that the snoop filter names goes with it. -/
theorem not_rangeInvalidation : ¬ Obligations.RangeInvalidation := by
  unfold Obligations.RangeInvalidation
  rintro ⟨hentry, -⟩
  obtain ⟨t, hexec, -, -, -, -, hlines⟩ := hentry unevenLine 0 0 unevenLine_slotReady (by decide +kernel)
  obtain ⟨-, -, -, hkept⟩ := hlines (by decide +kernel)
  obtain ⟨hl1, -⟩ := hkept unevenLine_uncached farLine (by decide +kernel)
  have hdropped := unevenLine_dropped
  rw [hexec] at hdropped
  have hheld : Map.get unevenLine.l1 none farLine = some (zeroLine false) := rfl
  have hstays := hl1 fun c hc => by
    cases hheld.symm.trans hc
    rfl
  cases (hdropped.symm.trans hstays).trans hheld

end Sys2Proof.Machine
end

section
/-! PROOFS. A thread that runs while an arrival set of `kwait` names it: the counterexample to O19. -/

namespace Sys2Proof.Machine

/-- A warp whose only thread is armed for the open phase of block barrier 0. The arrival set of k1 names the thread, although it runs, and
k1 itself is empty, so that the set is complete. -/
def namedWhileRunning : State :=
  { State.reset with
    warps := [(0, { Warp.empty with live := true, active := true, uid := 1, issue := 1, arrive := [(1, 1)],
                                    threads := [(0, { Thread.idle with st := .running, armB := 1 })] })] }

theorem namedWhileRunning_lane (l : Nat) (hl : namedWhileRunning.cw.issue.getLsbD l = true) : l = 0 := by
  rw [show namedWhileRunning.cw.issue = 1#32 from rfl, BitVec.getLsbD_one] at hl
  simpa using hl

theorem namedWhileRunning_barrierFree : namedWhileRunning.barrierFree false false :=
  ⟨rfl, rfl, fun l hl => by rw [namedWhileRunning_lane l hl]; exact .inl rfl, by decide +kernel, nofun, nofun⟩

/-- The thread that has begun to wait is let go at once by the release of the arrival set (R40). -/
theorem namedWhileRunning_goes_on :
    ((Out.or (exec (.barWt ⟨0, false⟩ 0) namedWhileRunning) namedWhileRunning).cw.thr 0).st = .running := by decide +kernel

/-- Refutes O19: at `namedWhileRunning` the thread does not wait, though the phase that it is armed for is open (clause of the waits). The
statement is of every state, also of one in which the arrival set of a mask register names a thread that is not held in `kwait`: when the
warp settles at the end of the instruction, the set is released, and the thread that waits at the barrier runs on with it. -/
theorem not_barriers : ¬ Obligations.Barriers := by
  unfold Obligations.Barriers
  rintro ⟨-, hwaits, -⟩
  obtain ⟨t, hexec, -, -, -, -, hthreads⟩ := hwaits false namedWhileRunning ⟨0, false⟩ 0 namedWhileRunning_barrierFree
    fun l hl => by rw [namedWhileRunning_lane l hl]; rfl
  have hwait := hthreads 0 rfl
  rw [if_pos (by decide +kernel)] at hwait
  have hruns := namedWhileRunning_goes_on
  rw [show exec (.barWt ⟨0, false⟩ 0) namedWhileRunning = .next t from hexec] at hruns
  cases hruns.symm.trans hwait.1

end Sys2Proof.Machine
end

section
/-! PROOFS. Fences, counter waits and instruction caches (R130 to R132, R238, R239, R250, R251), and what an acquire does (R131). -/

namespace Sys2Proof.Machine

/-! ## Delivery points and acquires -/

/-- A delivery point with no fault to deliver takes effect (R394). -/
theorem deliver_of_none {s : State} (h : s.cw.deferred = []) (counters : Option (BitVec 6)) (k : State → State) (iw0 : Word) :
    s.deliver counters k iw0 = k s := by
  simp [State.deliver, Warp.pendingFor, h]

/-- An acquire empties the L1 of its core, marks the drain point of its warp, or does nothing (R131). -/
theorem acquire_cases (s : State) (slot core : Nat) (c : Scope) :
    (c.wide = true ∧ s.acquire slot core c = s.dropL1 core) ∨
      (c.wide = false ∧ (s.acquire slot core c = s.updWarp slot (fun w => { w with acqMark := s.nextId }) ∨ s.acquire slot core c = s)) := by
  unfold State.acquire
  split
  · next h => exact .inl ⟨h, rfl⟩
  · next h =>
    refine .inr ⟨Bool.eq_false_iff.2 h, ?_⟩
    split
    · exact .inl rfl
    · exact .inr rfl

/-- The keys of a core's lines lie between that of its first line and that of the next core's (R131). -/
theorem lineKey_of_core (core : Nat) {vf asid va : Nat} (hvf : vf < 64) (hasid : asid < 2 ^ 16) (hva : va < 2 ^ 52) :
    lineKey core 0 0 0 ≤ lineKey core vf asid va ∧ lineKey core vf asid va < lineKey (core + 1) 0 0 0 := by
  unfold lineKey
  omega

theorem l1Line_dropL1 (s : State) (core : Nat) {vf asid va : Nat} (hvf : vf < 64) (hasid : asid < 2 ^ 16) (hva : va < 2 ^ 52) :
    (s.dropL1 core).l1Line core vf asid va = none :=
  (Map.get_dropRange _ _ _ _ _).trans (if_pos (lineKey_of_core core hvf hasid hva))

theorem l1Line_acquire {c : Scope} (hc : c.wide = true) (s : State) (slot core : Nat) {vf asid va : Nat} (hvf : vf < 64)
    (hasid : asid < 2 ^ 16) (hva : va < 2 ^ 52) : (s.acquire slot core c).l1Line core vf asid va = none := by
  rcases acquire_cases s slot core c with ⟨-, h⟩ | ⟨hnarrow, -⟩
  · rw [h]
    exact l1Line_dropL1 s core hvf hasid hva
  · exact absurd (hnarrow.symm.trans hc) Bool.false_ne_true

/-! ## What a synchronising instruction leaves alone -/

theorem syncKept.trans {s t u : State} (h : syncKept s t) (g : syncKept t u) : syncKept s u := by
  obtain ⟨⟨hv, hs, hsc, hk⟩, hexm, hunc, hbudget, hctr, hpeek, hgs, hops, hcur, htime⟩ := h
  obtain ⟨⟨gv, gs, gsc, gk⟩, gexm, gunc, gbudget, gctr, gpeek, ggs, gops, gcur, gtime⟩ := g
  exact ⟨⟨gv.trans hv, gs.trans hs, gsc.trans hsc, gk.trans hk⟩, gexm.trans hexm, gunc.trans hunc, gbudget.trans hbudget, gctr.trans hctr,
    fun a => (gpeek a).trans (hpeek a), ggs.trans hgs, gops.trans hops, gcur.trans hcur, gtime.trans htime⟩

/-- What leaves alone everything but the places of threads leaves alone what a synchronising instruction does. -/
theorem controlKept.syncKept {s t : State} (h : controlKept s t) : syncKept s t := by
  obtain ⟨hregs, ⟨hexm, hunc, hbudget, -, -, -, -, -, -, -, hctr, -⟩, ⟨hpeek, -, -, -, hgs, -⟩,
    hcur, -, -, -, -, -, -, hops, -, -, -, -, -, htime, -⟩ := h
  exact ⟨hregs, hexm, hunc, hbudget, hctr, hpeek, hgs, hops, hcur, htime⟩

/-- A change of a warp in what it waits with alone: its hold, its drain point, and the words fetched ahead. -/
def Warp.sameButWaits (w x : Warp) : Prop := x = { w with hold := x.hold, acqMark := x.acqMark, fetched := x.fetched }

theorem syncKept_updCw {s : State} {f : Warp → Warp} (h : s.cw.sameButWaits (f s.cw)) : syncKept s (s.updCw f) := by
  have hcw := (State.cw_updCw s f).trans h
  refine ⟨?_, ?_, ?_, ?_, ?_, fun _ => rfl, rfl, rfl, rfl, rfl⟩ <;> simp [registersKept, hcw]

/-- The issuing group and its threads stand where they stood. -/
def State.placesKept (s t : State) : Prop := t.cw.issue = s.cw.issue ∧ ∀ l, t.cw.thr l = s.cw.thr l

theorem State.placesKept.trans {s t u : State} (h : s.placesKept t) (g : t.placesKept u) : s.placesKept u :=
  ⟨g.1.trans h.1, fun l => (g.2 l).trans (h.2 l)⟩

/-- The group moves on although something else of its warp has changed before. -/
theorem State.placesKept.movesOn_finish {s t : State} (h : s.placesKept t) (n : Nat) : s.movesOn (t.finish n) n := by
  obtain ⟨hissue, hthr⟩ := h
  intro l hl hstays
  rw [← hthr l] at hstays ⊢
  exact finish_pc t n l (hissue ▸ hl) hstays

theorem placesKept_updCw {s : State} {f : Warp → Warp} (h : s.cw.sameButWaits (f s.cw)) : s.placesKept (s.updCw f) := by
  have hcw := (State.cw_updCw s f).trans h
  constructor <;> simp [Warp.thr, hcw]

/-- What an acquire of the issuing warp leaves alone. -/
theorem acquire_kept (s : State) (core : Nat) (c : Scope) :
    syncKept s (s.acquire s.cur core c) ∧ s.placesKept (s.acquire s.cur core c) ∧ (s.acquire s.cur core c).scratch = s.scratch := by
  rcases acquire_cases s s.cur core c with ⟨-, h⟩ | ⟨-, h | h⟩ <;> rw [h]
  · exact ⟨⟨⟨rfl, rfl, rfl, rfl⟩, rfl, rfl, rfl, rfl, fun _ => rfl, rfl, rfl, rfl, rfl⟩, ⟨rfl, fun _ => rfl⟩, rfl⟩
  · exact ⟨syncKept_updCw rfl, placesKept_updCw rfl, rfl⟩
  · exact ⟨⟨⟨rfl, rfl, rfl, rfl⟩, rfl, rfl, rfl, rfl, fun _ => rfl, rfl, rfl, rfl, rfl⟩, ⟨rfl, fun _ => rfl⟩, rfl⟩

/-! ## `fence` (R132, R238) -/

/-- The state in which a fence that need not wait ends its instruction. -/
def State.fenced (s : State) (o : Order) (c : Scope) : State :=
  let t := s.updCw fun w => { w with hold := .none }
  if o.acquires then t.acquire t.cur (coreOf t.cur) c else t

theorem execFence_passes {s : State} {o : Order} {c : Scope} (hdef : s.cw.deferred = []) (hhold : s.cw.hold = .none)
    (hacq : s.acqPending s.cur = false) (hnarrow : o.releases = true → c.wide = false → s.relPending s.cur = false)
    (hdrain : o.releases = true → c.wide = true → s.allAcked (s.drainSet s.cur) = true)
    (hloads : o.acquires = true → c ≠ .wp → s.loadsOut s.cur = []) : execFence o c s = .next ((s.fenced o c).finish 1) := by
  have hfirst : ¬(s.acqPending s.cur || (o.releases && s.relPending s.cur && !c.wide)) = true := by
    rw [hacq]
    cases hr : o.releases <;> cases hw : c.wide <;> simp
    exact hnarrow hr hw
  have hsecond : ¬(o.releases && c.wide && !s.allAcked (s.drainSet s.cur)) = true := by
    cases hr : o.releases <;> cases hw : c.wide <;> simp
    exact hdrain hr hw
  have hthird : ¬(o.acquires && c != .wp && s.loadsOut s.cur != []) = true := by
    simp only [Bool.and_eq_true, bne_iff_ne, ne_eq, not_and, not_not, and_imp]
    exact hloads
  rw [execFence, deliver_of_none hdef]
  simp only [hhold, hfirst, hsecond, hthird]
  rfl

theorem fenced_kept (s : State) (o : Order) (c : Scope) :
    syncKept s (s.fenced o c) ∧ s.placesKept (s.fenced o c) ∧ (s.fenced o c).scratch = s.scratch := by
  have hsync : syncKept s (s.updCw fun w => { w with hold := .none }) := syncKept_updCw rfl
  have hplaces : s.placesKept (s.updCw fun w => { w with hold := .none }) := placesKept_updCw rfl
  unfold State.fenced
  dsimp only
  split
  · obtain ⟨gsync, gplaces, gscratch⟩ := acquire_kept (s.updCw fun w => { w with hold := .none }) (coreOf s.cur) c
    exact ⟨hsync.trans gsync, hplaces.trans gplaces, gscratch⟩
  · exact ⟨hsync, hplaces, rfl⟩

/-! ## `waitd` (R239) -/

theorem countersZero_iff (w : Warp) (m : BitVec 6) : w.countersZero m = true ↔ ∀ i, i < 6 → m.getLsbD i = true → w.d i = 0 := by
  simp [Warp.countersZero, imp_iff_not_or]

/-! ## Instruction caches (R250, R251) -/

/-- The lines of a range that leave an instruction cache hold every byte of it. -/
theorem icache_icDrop (s : State) (core vf asid : Nat) (va : DWord) (len : Word) {a : Nat} (hlo : va.toNat ≤ a)
    (hhi : a < va.toNat + len.toNat) (ha : a < 2 ^ 52) :
    Map.get (s.icDrop core vf asid va len).icache none (lineKey core vf asid a) = none := by
  refine (Map.get_dropRange _ _ _ _ _).trans (if_pos ?_)
  unfold lineKey
  omega

/-- A line that is out of an instruction cache stays out when lines of other cores leave. -/
theorem icache_icDrop_of_none {s : State} {k : Nat} (h : Map.get s.icache none k = none) (core vf asid : Nat) (va : DWord) (len : Word) :
    Map.get (s.icDrop core vf asid va len).icache none k = none := by
  refine (Map.get_dropRange _ _ _ _ _).trans ?_
  split
  · rfl
  · exact h

/-- The state after lines of a range have left the instruction caches of a list of cores. -/
def State.icDrops (s : State) (cores : List Nat) (vf asid : Nat) (va : DWord) (len : Word) : State :=
  cores.foldl (fun s c => s.icDrop c vf asid va len) s

theorem icDrops_rest (cores : List Nat) (s : State) (vf asid : Nat) (va : DWord) (len : Word) :
    (s.icDrops cores vf asid va len).mem = s.mem ∧ (s.icDrops cores vf asid va len).l1 = s.l1 ∧
      (s.icDrops cores vf asid va len).home = s.home :=
  List.foldlRecOn (motive := fun t : State => t.mem = s.mem ∧ t.l1 = s.l1 ∧ t.home = s.home) cores _ ⟨rfl, rfl, rfl⟩ fun _ ht _ _ => ht

theorem icache_icDrops {cores : List Nat} {c : Nat} (hc : c ∈ cores) (s : State) (vf asid : Nat) (va : DWord) (len : Word) {a : Nat}
    (hlo : va.toNat ≤ a) (hhi : a < va.toNat + len.toNat) (ha : a < 2 ^ 52) :
    Map.get (s.icDrops cores vf asid va len).icache none (lineKey c vf asid a) = none := by
  induction cores generalizing s with
  | nil => cases hc
  | cons c' cores ih =>
    rcases List.mem_cons.1 hc with rfl | hc
    · exact List.foldlRecOn (motive := fun t : State => Map.get t.icache none (lineKey c vf asid a) = none) cores _
        (icache_icDrop s c vf asid va len hlo hhi ha) fun t ht c' _ => icache_icDrop_of_none ht c' vf asid va len
    · exact ih hc _

/-- The cores whose instruction caches an `icinv` concerns (R250). -/
def icinvCores (dev : Bool) (slot : Nat) : List Nat := if dev then List.range 384 else [coreOf slot]

theorem mem_icinvCores {dev : Bool} {slot c : Nat} (h : if dev then c < 384 else c = coreOf slot) : c ∈ icinvCores dev slot := by
  cases dev
  · exact List.mem_singleton.2 h
  · exact List.mem_range.2 h

theorem execIcinvComplete_eq {s : State} {k : Nat} {dev : Bool} {va : DWord} {len : Word} (h : (s.warp k).hold = .icinv dev va len) :
    execIcinvComplete k s =
      .next ((s.icDrops (icinvCores dev k) (s.space (s.warp k)).1 (s.space (s.warp k)).2 va len).updWarp k
        fun w => { w with hold := .none }) := by
  unfold execIcinvComplete
  rw [h]
  cases dev <;> rfl

/-- The completion of `icinv` (R250): the warp is let go, and no cache concerned holds a line of the range. -/
theorem icinvComplete_effect {s : State} {k : Nat} {dev : Bool} {va : DWord} {len : Word} (h : (s.warp k).hold = .icinv dev va len) :
    ∃ t, execIcinvComplete k s = .next t ∧ (t.warp k).hold = .none ∧ (∀ a, t.peek a = s.peek a) ∧ t.l1 = s.l1 ∧ t.home = s.home ∧
      ∀ a c, va.toNat ≤ a → a < va.toNat + len.toNat → a < 2 ^ 52 → (if dev then c < 384 else c = coreOf k) →
        Map.get t.icache none (lineKey c (s.space (s.warp k)).1 (s.space (s.warp k)).2 a) = none := by
  obtain ⟨hmem, hl1, hhome⟩ := icDrops_rest (icinvCores dev k) s (s.space (s.warp k)).1 (s.space (s.warp k)).2 va len
  exact ⟨_, execIcinvComplete_eq h, by rw [State.warp_updWarp_same], fun a => congrArg (Map.get · 0 a) hmem, hl1, hhome,
    fun a c hlo hhi ha hc => icache_icDrops (mem_icinvCores hc) s _ _ va len hlo hhi ha⟩

theorem finish_waits (s : State) (n : Nat) : (s.finish n).cw.hold = s.cw.hold ∧ (s.finish n).cw.fetched = s.cw.fetched := by
  have h := finish_place s n
  unfold Warp.sameButPlace at h
  rw [h]
  exact ⟨rfl, rfl⟩

/-- `icinv` holds the warp for its range, or moves on at once with no bytes (R250). -/
theorem execIcinv_effect {s : State} (dev : Bool) (p : BitVec 5) (len : SReg) (h : s.clear (icinvUses p len)) :
    ∃ t, execIcinv dev p len s = .next t ∧ syncKept s t ∧ t.scratch = s.scratch ∧ s.movesOn t 1 ∧
      t.cw.hold = (if s.cw.s len.toNat = 0 then s.cw.hold else .icinv dev (s.cw.s64 (2 * p.toNat)) (s.cw.s len.toNat)) := by
  rw [execIcinv, show ({ Uses.none with sr := [2 * p.toNat, 2 * p.toNat + 1, len.toNat] } : Uses) = icinvUses p len from rfl,
    guard_of_clear h]
  dsimp only
  by_cases hn : s.cw.s len.toNat = 0
  · rw [if_pos hn, if_pos hn]
    exact ⟨_, rfl, (controlKept_finish s 1).syncKept, rfl, movesOn_finish s 1, (finish_waits s 1).1⟩
  · rw [if_neg hn, if_neg hn]
    exact ⟨_, rfl, (syncKept_updCw (by exact rfl)).trans (controlKept_finish _ 1).syncKept, rfl, (placesKept_updCw (by exact rfl)).movesOn_finish 1,
      (finish_waits _ 1).1.trans (by rw [State.cw_updCw])⟩

/-- `isync` drops the words fetched ahead, and no more (R251). -/
theorem execIsync_effect (s : State) :
    ∃ t, execIsync s = .next t ∧ controlKept s t ∧ s.movesOn t 1 ∧ t.cw.fetched = [] := by
  obtain ⟨hregs, hspecials, hrest⟩ := controlKept_finish (s.updCw fun w => { w with fetched := [] }) 1
  rw [registersKept, State.cw_updCw] at hregs
  rw [State.cw_updCw] at hspecials
  exact ⟨_, rfl, ⟨hregs, hspecials, (onlyCw_updCw s _).trans hrest⟩, (placesKept_updCw (by exact rfl)).movesOn_finish 1,
    (finish_waits _ 1).2.trans (by rw [State.cw_updCw])⟩

/-- Settles O21: a fence and a wait pass when what they wait for has come, an `icinv` drops the lines of its range, and every one of these
instructions then ends as `finish` does. -/
theorem fencesAndCaches : Obligations.FencesAndCaches := by
  unfold Obligations.FencesAndCaches
  refine ⟨⟨fun s o c hdef hhold hacq hnarrow hdrain hloads => ?_, fun s mask hdef => ⟨fun hzero => ?_, fun hbusy => ?_⟩⟩,
    ⟨fun s dev p len hclear => execIcinv_effect dev p len hclear, fun s k dev va len hhold => ?_, execIsync_effect⟩, fun s => ?_⟩
  · obtain ⟨hsync, hplaces, hscratch⟩ := fenced_kept s o c
    refine ⟨_, execFence_passes hdef hhold hacq hnarrow hdrain hloads, hsync.trans (controlKept_finish _ 1).syncKept, hscratch,
      hplaces.movesOn_finish 1, fun ho hc vf asid va hvf hasid hva => ?_⟩
    show (s.fenced o c).l1Line (coreOf s.cur) vf asid va = none
    rw [State.fenced, if_pos ho]
    exact l1Line_acquire hc _ _ _ hvf hasid hva
  · refine ⟨s.finish 1, ?_, controlKept_finish s 1, movesOn_finish s 1⟩
    show execWaitd mask s = _
    rw [execWaitd, (countersZero_iff s.cw mask).2 hzero, deliver_of_none hdef]
    rfl
  · obtain ⟨i, hi, hm, hd⟩ := hbusy
    show execWaitd mask s = _
    rw [execWaitd, Bool.eq_false_iff.2 fun h => hd ((countersZero_iff s.cw mask).1 h i hi hm)]
    rfl
  · obtain ⟨t, hexec, hfree, hpeek, hl1, hhome, hlines⟩ := icinvComplete_effect hhold
    exact ⟨t, hexec, hfree, hpeek, hl1, hhome, fun a c hlo hhi ha _ _ hc => hlines a c hlo hhi ha hc⟩
  · exact ⟨⟨_, rfl, controlKept_finish s 1, movesOn_finish s 1⟩, ⟨_, rfl, controlKept_finish s 1, movesOn_finish s 1⟩⟩

end Sys2Proof.Machine
end

section
/-! PROOFS. An operation that ends: its counter and its place in the tables, the registers that a load returns to, and the
acknowledgement of stores (R66, R130, R131, R227, R232, R394, R427). -/

namespace Sys2Proof.Machine

/-! ## Counters, tables and trackers -/

theorem d_dec (w : Warp) (dc : BitVec 3) (i : Nat) : (w.dec dc).d i = if i = dc.toNat ∧ i < 6 then w.d i - 1 else w.d i := by
  unfold Warp.dec Warp.d
  by_cases hdc : dc.toNat < 6
  · rw [if_pos hdc]
    by_cases hi : i = dc.toNat
    · subst hi
      rw [if_pos ⟨rfl, hdc⟩]
      exact Map.get_upd_same w.ctr 0 _ (· - 1)
    · rw [if_neg fun h => hi h.1]
      exact Map.get_upd_other w.ctr 0 _ _ (· - 1) hi
  · rw [if_neg hdc, if_neg]
    rintro ⟨rfl, h⟩
    exact hdc h

theorem dec_fields (w : Warp) (dc : BitVec 3) : w.dec dc = { w with ctr := (w.dec dc).ctr } := by
  unfold Warp.dec
  split <;> rfl

theorem find?_erase_same {α : Type} (m : Map α) (k : Nat) : Map.find? (Map.erase m k) k = none := by
  induction m with
  | nil => rfl
  | cons p m ih =>
    rw [Map.erase, List.filter_cons]
    split
    · next h => exact (if_neg (by simpa using h)).trans ih
    · exact ih

theorem op?_dropOp_same (s : State) (id : Nat) : (s.dropOp id).op? id = none := find?_erase_same s.ops id

/-- No tracker entry is freed where there is none (R51). -/
theorem reap_of_noneEnded {s : State} (h : s.noneEnded) (uid : Nat) : s.reap uid = s := by
  unfold State.reap
  split
  · rfl
  · have hnone : List.find? (fun p : Nat × Core => p.2.tracker.any fun t => t.1 = uid) s.cores = none := by
      refine List.find?_eq_none.2 fun p hp => ?_
      rw [h p hp]
      exact Bool.false_ne_true
    rw [hnone]

theorem stillThere_of {s : State} {slot uid : Nat} (hlive : (s.warp slot).live = true) (huid : (s.warp slot).uid = uid) :
    s.stillThere slot uid = true := by
  simp [State.stillThere, hlive, huid]

theorem forOp_there {s : State} {slot uid : Nat} (hlive : (s.warp slot).live = true) (huid : (s.warp slot).uid = uid) (f : Warp → Warp) :
    s.forOp slot uid f = s.updWarp slot f :=
  if_pos (stillThere_of hlive huid)

/-- A change of a warp in its slot, made for an operation or not, changes nothing but the table of warps. -/
theorem forOp_fields (s : State) (slot uid : Nat) (f : Warp → Warp) :
    s.forOp slot uid f = { s with warps := (s.forOp slot uid f).warps } := by
  unfold State.forOp
  split <;> rfl

theorem forOp_warp_other (s : State) (slot uid : Nat) (f : Warp → Warp) {k : Nat} (h : k ≠ slot) : (s.forOp slot uid f).warp k = s.warp k := by
  unfold State.forOp
  split
  · exact State.warp_updWarp_other _ _ _ _ h
  · rfl

/-! ## Destinations (R227, R230) -/

/-- Vector registers after the lanes of a list have been written. -/
theorem v_writeLanes (o : MemOp) (ps : List (Nat × Lane)) (hps : ∀ p ∈ ps, p.1 < 32) (w : Warp) {q j : Nat} (hj : j < 32) :
    (ps.foldl (fun w p => w.writeLane o p.1) w).v q j =
      if (∃ p ∈ ps, p.1 = j) ∧ o.dst ≤ q ∧ q < o.dst + (o.lane j).res.length then ⟨(o.lane j).res.getD (q - o.dst) 0, (o.lane j).rbnd⟩
      else w.v q j := by
  induction ps generalizing w with
  | nil => simp
  | cons p ps ih =>
    rw [List.foldl_cons, ih fun p hp => hps p (List.mem_cons_of_mem _ hp), v_writeLane w o p.1 q j hj (hps p List.mem_cons_self)]
    by_cases hp : p.1 = j
    · subst hp
      by_cases hq : o.dst ≤ q ∧ q < o.dst + (o.lane p.1).res.length <;> simp [hq]
    · rw [if_neg (c := j = p.1 ∧ _) fun h => hp h.1.symm]
      exact if_congr (by simp only [List.exists_mem_cons_iff, hp, false_or]) rfl rfl

/-- A lane has been served exactly when the table lists it so. -/
theorem done_iff_listed {o : MemOp} (h : lanesOk o) (j : Nat) :
    (∃ p ∈ o.lanes.filter fun p => p.2.st == .done, p.1 = j) ↔ (o.lane j).st = .done := by
  obtain ⟨hwf, -⟩ := h
  constructor
  · rintro ⟨p, hp, rfl⟩
    obtain ⟨hmem, hdone⟩ := List.mem_filter.1 hp
    rw [MemOp.lane, get_of_mem hwf hmem]
    exact beq_iff_eq.1 hdone
  · intro hdone
    have hlisted : ∀ m : Map Lane, (Map.get m Lane.none j).st = .done → ∃ p ∈ m.filter (fun p => p.2.st == .done), p.1 = j := by
      intro m
      induction m with
      | nil => intro h; cases h
      | cons p m ih =>
        intro h
        rw [Map.get_cons] at h
        split at h
        · next hj => exact ⟨p, List.mem_filter.2 ⟨List.mem_cons_self, beq_iff_eq.2 h⟩, hj⟩
        · obtain ⟨x, hx, hxj⟩ := ih h
          exact ⟨x, List.mem_filter.2 ⟨List.mem_cons_of_mem _ (List.mem_filter.1 hx).1, (List.mem_filter.1 hx).2⟩, hxj⟩
    exact hlisted o.lanes hdone

/-- Lanes written back (R227): each served lane takes its words and its bound, and no other lane of a register changes. -/
theorem v_writeBack_served {o : MemOp} (hkind : o.kind ≠ .sld) (hlanes : lanesOk o) (w : Warp) {q j : Nat} (hj : j < 32) : (w.writeBack o).v q j =
    if (o.lane j).st = .done ∧ o.dst ≤ q ∧ q < o.dst + (o.lane j).res.length then ⟨(o.lane j).res.getD (q - o.dst) 0, (o.lane j).rbnd⟩
    else w.v q j := by
  rw [Warp.writeBack, if_neg (by simpa using hkind), v_writeLanes o _ (fun p hp => hlanes.2 p (List.mem_of_mem_filter hp)) w hj]
  exact if_congr (and_congr_left' (done_iff_listed hlanes j)) rfl rfl

/-- Scalar destinations written back (R230): the words of the one access, and no other register. -/
theorem s_writeBack {o : MemOp} (hkind : o.kind = .sld) (w : Warp) (q : Nat) : (w.writeBack o).s q =
    if (o.lane 0).st = .done ∧ o.dst ≤ q ∧ q < o.dst + (o.lane 0).res.length then (o.lane 0).res.getD (q - o.dst) 0 else w.s q := by
  have key : ∀ n, ((List.range n).foldl (fun w i => w.setS (o.dst + i) ((o.lane 0).res.getD i 0)) w).s q =
      if o.dst ≤ q ∧ q < o.dst + n then (o.lane 0).res.getD (q - o.dst) 0 else w.s q := by
    intro n
    induction n with
    | zero => exact (if_neg (by omega)).symm
    | succ n ih =>
      rw [List.range_succ, List.foldl_concat]
      by_cases hlast : q = o.dst + n
      · subst hlast
        rw [Warp.s_setS_same, if_pos (by omega), Nat.add_sub_cancel_left]
      · rw [Warp.s_setS_other _ _ _ _ hlast, ih]
        refine if_congr ?_ rfl rfl
        omega
  rw [Warp.writeBack, if_pos (by rw [hkind]; rfl)]
  dsimp only
  by_cases hdone : (o.lane 0).st = .done
  · rw [if_pos (beq_iff_eq.2 hdone), key]
    exact if_congr (by simp [hdone]) rfl rfl
  · rw [if_neg (by simpa using hdone), if_neg fun h => hdone h.1]

theorem writeBack_sld_fields {o : MemOp} (hkind : o.kind = .sld) (w : Warp) : w.writeBack o = { w with sregs := (w.writeBack o).sregs } := by
  rw [Warp.writeBack, if_pos (by rw [hkind]; rfl)]
  dsimp only
  split
  · refine List.foldlRecOn (motive := fun x : Warp => x = { w with sregs := x.sregs }) _ _ rfl fun x hx i _ => ?_
    rw [hx]
    rfl
  · rfl

/-! ## LOAD_RETURN (R131, R232) -/

/-- A load-class operation may return: every lane is served, its warp stands and is not held by it, and no earlier operation on its counter
or its destination is outstanding. -/
structure State.returns (s : State) (id : Nat) (o : MemOp) : Prop where
  op : s.op? id = some o
  kind : o.kind.returns = true
  served : o.returned = true
  free : s.holds o id = false
  counter : s.counterBusy o.uid o.dc id = false
  register : s.registerBusy o id = false
  noneEnded : s.noneEnded
  live : (s.warp o.slot).live = true
  uid : (s.warp o.slot).uid = o.uid

/-- The warp that a load has returned to. -/
def Warp.returned (w : Warp) (o : MemOp) : Warp := (w.writeBack o).dec o.dc

/-- The state that a load has returned to, before its acquire takes effect. -/
def State.handedBack (s : State) (id : Nat) (o : MemOp) : State := (s.dropOp id).updWarp o.slot fun w => w.returned o

theorem execLoadReturn_eq {s : State} {id : Nat} {o : MemOp} (h : s.returns id o) : execLoadReturn id s =
    .next (if o.order.acquires then (s.handedBack id o).acquire o.slot o.core o.scope else s.handedBack id o) := by
  obtain ⟨hop, hkind, hserved, hfree, hcounter, hregister, hnone, hlive, huid⟩ := h
  have hframe : (o.kind == .frameLd) = false := by
    refine beq_eq_false_iff_ne.2 fun h => ?_
    rw [h] at hkind
    cases hkind
  have hforOp : ((s.dropOp id).forOp o.slot o.uid fun w => (w.writeBack o).dec o.dc) = s.handedBack id o :=
    forOp_there (s := s.dropOp id) hlive huid _
  have hreap : ∀ t : State, t.cores = s.cores → t.reap o.uid = t := fun t ht => reap_of_noneEnded (by rw [State.noneEnded, ht]; exact hnone) _
  simp only [execLoadReturn, hop, hserved, hframe, hkind, hfree, hcounter, hregister, hforOp]
  refine congrArg Host.Outcome.next (hreap _ ?_)
  split
  · rcases acquire_cases (s.handedBack id o) o.slot o.core o.scope with ⟨-, h⟩ | ⟨-, h | h⟩ <;> rw [h] <;> rfl
  · rfl

/-- What the return of a load does to the state besides its destinations. -/
structure State.returned (s t : State) (id : Nat) (o : MemOp) : Prop where
  gone : t.op? id = none
  counted : s.countedDown t o.slot o.uid o.dc
  peek : ∀ a, t.peek a = s.peek a
  others : ∀ k, k ≠ o.slot → t.warp k = s.warp k
  vregs : (t.warp o.slot).vregs = ((s.warp o.slot).returned o).vregs
  sregs : (t.warp o.slot).sregs = ((s.warp o.slot).returned o).sregs
  acquired : o.order.acquires = true → o.scope.wide = true → ∀ vf asid va, vf < 64 → asid < 65536 → va < 2 ^ 52 →
    t.l1Line o.core vf asid va = none
  kept : o.order.acquires = false → t.l1 = s.l1

theorem d_returned (w : Warp) (o : MemOp) (i : Nat) :
    (w.returned o).d i = if i = o.dc.toNat ∧ i < 6 then w.d i - 1 else w.d i := by
  have hctr : ∀ i, (w.writeBack o).d i = w.d i := fun i => by
    by_cases hkind : o.kind = .sld
    · rw [writeBack_sld_fields hkind]; rfl
    · rw [writeBack_sameButVregs hkind w]; rfl
  rw [Warp.returned, d_dec, hctr]

/-- An acquire changes nothing of the warp of its slot but the drain point. -/
theorem warp_acquire (s : State) (slot core : Nat) (c : Scope) :
    (s.acquire slot core c).warp slot = { s.warp slot with acqMark := ((s.acquire slot core c).warp slot).acqMark } ∧
      ∀ k, k ≠ slot → (s.acquire slot core c).warp k = s.warp k := by
  rcases acquire_cases s slot core c with ⟨-, h⟩ | ⟨-, h | h⟩ <;> rw [h]
  · exact ⟨rfl, fun _ _ => rfl⟩
  · exact ⟨by rw [State.warp_updWarp_same], fun k hk => State.warp_updWarp_other _ _ _ _ hk⟩
  · exact ⟨rfl, fun _ _ => rfl⟩

theorem acquire_ops_mem (s : State) (slot core : Nat) (c : Scope) : (s.acquire slot core c).ops = s.ops ∧ (s.acquire slot core c).mem = s.mem := by
  rcases acquire_cases s slot core c with ⟨-, h⟩ | ⟨-, h | h⟩ <;> rw [h] <;> exact ⟨rfl, rfl⟩

theorem handedBack_returned (s : State) (id : Nat) (o : MemOp) (hplain : o.order.acquires = false) : s.returned (s.handedBack id o) id o := by
  have hwarp : (s.handedBack id o).warp o.slot = (s.warp o.slot).returned o := State.warp_updWarp_same _ _ _
  exact ⟨op?_dropOp_same s id, fun _ _ i => by rw [hwarp, d_returned], fun _ => rfl,
    fun k hk => State.warp_updWarp_other _ _ _ _ hk, by rw [hwarp], by rw [hwarp], fun h => by simp [hplain] at h, fun _ => rfl⟩

theorem acquire_returned (s : State) (id : Nat) (o : MemOp) (hacq : o.order.acquires = true) :
    s.returned ((s.handedBack id o).acquire o.slot o.core o.scope) id o := by
  have hback : (s.handedBack id o).warp o.slot = (s.warp o.slot).returned o := State.warp_updWarp_same _ _ _
  obtain ⟨hslot, hothers⟩ := warp_acquire (s.handedBack id o) o.slot o.core o.scope
  obtain ⟨hops, hmem⟩ := acquire_ops_mem (s.handedBack id o) o.slot o.core o.scope
  rw [hback] at hslot
  refine ⟨?_, fun _ _ i => ?_, fun a => congrArg (Map.get · 0 a) hmem, fun k hk => ?_, by rw [hslot], by rw [hslot],
    fun _ hwide vf asid va hvf hasid hva => l1Line_acquire hwide _ _ _ hvf hasid hva, fun h => by simp [hacq] at h⟩
  · rw [State.op?, hops]
    exact op?_dropOp_same s id
  · rw [hslot]
    exact d_returned (s.warp o.slot) o i
  · exact (hothers k hk).trans (State.warp_updWarp_other _ _ _ _ hk)

theorem loadReturn_effect {s : State} {id : Nat} {o : MemOp} (h : s.returns id o) :
    ∃ t, exec (.loadReturn id) s = .next t ∧ s.returned t id o := by
  refine ⟨_, execLoadReturn_eq h, ?_⟩
  cases hacq : o.order.acquires
  · exact handedBack_returned s id o hacq
  · exact acquire_returned s id o hacq

/-- A returned warp's vector registers are those that it was written back to. -/
theorem v_returned (w : Warp) (o : MemOp) (q l : Nat) : (w.returned o).v q l = (w.writeBack o).v q l := by
  rw [Warp.returned, dec_fields]
  rfl

/-! ## STORE_ACKNOWLEDGE (R232, R394, R427) -/

/-- An operation that ends has its counter drop, and its fault, if it has one, recorded (R66, R289, R394). -/
def State.closes (s : State) (slot uid launch : Nat) (dc : BitVec 3) (f : Option Deferred) : State :=
  let s := s.forOp slot uid fun w => w.dec dc
  match f with
  | some d => s.defer slot uid launch d
  | none => s

theorem defer_there {s : State} {slot uid : Nat} (h : s.stillThere slot uid = true) (launch : Nat) (d : Deferred) :
    s.defer slot uid launch d = s.updWarp slot fun w => { w with deferred := w.deferred ++ [d] } :=
  if_pos h

theorem defer_fields (s : State) (slot uid launch : Nat) (d : Deferred) :
    s.defer slot uid launch d = { s with warps := (s.defer slot uid launch d).warps, launches := (s.defer slot uid launch d).launches } := by
  unfold State.defer State.updLaunch
  split
  · rfl
  · split <;> rfl

/-- Nothing but the table of warps and the launches has changed. -/
def State.sameButRuns (s t : State) : Prop := t = { s with warps := t.warps, launches := t.launches }

theorem closes_sameButRuns (s : State) (slot uid launch : Nat) (dc : BitVec 3) (f : Option Deferred) :
    s.sameButRuns (s.closes slot uid launch dc f) := by
  unfold State.closes State.sameButRuns
  cases f
  · dsimp only
    rw [forOp_fields]
  · dsimp only
    rw [defer_fields, forOp_fields]

/-- A warp that an operation has ended for. -/
def Warp.closed (w : Warp) (dc : BitVec 3) (f : Option Deferred) : Warp := { w.dec dc with deferred := w.deferred ++ f.toList }

theorem warp_closes_there {s : State} {slot uid : Nat} (hlive : (s.warp slot).live = true) (huid : (s.warp slot).uid = uid) (launch : Nat)
    (dc : BitVec 3) (f : Option Deferred) : (s.closes slot uid launch dc f).warp slot = (s.warp slot).closed dc f := by
  have hdec := dec_fields (s.warp slot) dc
  have hthere : (s.updWarp slot fun w => w.dec dc).stillThere slot uid = true := by
    refine stillThere_of ?_ ?_ <;> rw [State.warp_updWarp_same, hdec] <;> assumption
  unfold State.closes
  rw [forOp_there hlive huid]
  cases f
  · rw [State.warp_updWarp_same, Warp.closed, hdec, Option.toList_none, List.append_nil]
  · dsimp only
    rw [defer_there hthere, State.warp_updWarp_same, State.warp_updWarp_same, Warp.closed, hdec]
    rfl

theorem d_closed (w : Warp) (dc : BitVec 3) (f : Option Deferred) (i : Nat) :
    (w.closed dc f).d i = if i = dc.toNat ∧ i < 6 then w.d i - 1 else w.d i :=
  d_dec w dc i

/-- Without a fault the deferred faults of the warp are as before, whether the warp still stands or not. -/
theorem deferred_closes_none (s : State) (slot uid launch : Nat) (dc : BitVec 3) :
    ((s.closes slot uid launch dc none).warp slot).deferred = (s.warp slot).deferred := by
  unfold State.closes State.forOp
  dsimp only
  split
  · rw [State.warp_updWarp_same, dec_fields]
  · rfl

theorem countedDown_closes (s : State) (slot uid launch : Nat) (dc : BitVec 3) (f : Option Deferred) :
    s.countedDown (s.closes slot uid launch dc f) slot uid dc := fun hlive huid i => by
  rw [warp_closes_there hlive huid, d_closed]

/-- The deferred fault that a store-class operation leaves, where lanes of it have faulted. -/
def MemOp.fault? (o : MemOp) : Option Deferred := if o.faults = [] then none else some o.storeFault

theorem endStore_eq {s : State} (hnone : s.noneEnded) (id : Nat) (o : MemOp) :
    s.endStore id o = (s.dropOp id).closes o.slot o.uid o.launch o.dc o.fault? := by
  have hends : s.endStore id o = ((s.dropOp id).closes o.slot o.uid o.launch o.dc o.fault?).reap o.uid := by
    unfold State.endStore State.closes MemOp.fault?
    by_cases h : o.faults = [] <;> simp [h]
  have hcores : ((s.dropOp id).closes o.slot o.uid o.launch o.dc o.fault?).cores = s.cores := by
    rw [closes_sameButRuns (s.dropOp id)]
    rfl
  rw [hends]
  exact reap_of_noneEnded (by rw [State.noneEnded, hcores]; exact hnone) _

/-- A store-class operation that is acknowledged ends: it is gone, its counter has dropped, and a fault of its lanes has joined those of its
warp. -/
theorem storeAcknowledge_effect {s : State} {id : Nat} {o : MemOp} (hop : s.op? id = some o) (hkind : o.kind.acks = true)
    (hacked : o.acked = true) (hcounter : s.counterBusy o.uid o.dc id = false) (hnone : s.noneEnded) :
    ∃ t, exec (.storeAcknowledge id) s = .next t ∧ t.op? id = none ∧ s.countedDown t o.slot o.uid o.dc ∧ (∀ a, t.peek a = s.peek a) ∧
      (o.faults = [] → (t.warp o.slot).deferred = (s.warp o.slot).deferred) ∧
      (o.faults ≠ [] → (s.warp o.slot).live = true → (s.warp o.slot).uid = o.uid →
        (t.warp o.slot).deferred = (s.warp o.slot).deferred ++ [o.storeFault]) := by
  have hexec : exec (.storeAcknowledge id) s = execStoreAcknowledge id s := rfl
  have hsame := closes_sameButRuns (s.dropOp id) o.slot o.uid o.launch o.dc o.fault?
  refine ⟨_, ?_, ?_, countedDown_closes (s.dropOp id) _ _ o.launch _ o.fault?, fun a => ?_, fun hok => ?_, fun hbad hlive huid => ?_⟩
  · rw [hexec, execStoreAcknowledge, hop]
    simp only [hkind, hacked, hcounter, Bool.not_false, Bool.and_self, if_true, endStore_eq hnone]
  · rw [State.op?, hsame]
    exact op?_dropOp_same s id
  · rw [State.peek, hsame]
    rfl
  · rw [MemOp.fault?, if_pos hok]
    exact deferred_closes_none _ _ _ _ _
  · rw [MemOp.fault?, if_neg hbad, warp_closes_there (s := s.dropOp id) hlive huid]
    rfl

/-! ## RELEASE_DRAIN_COMPLETE (R15, R130, R133) -/

/-- A held release as it is sent, in its place from here on. -/
def MemOp.sentNow (o : MemOp) (s : State) : MemOp := { o with held := none, sentAt := s.time, place := (s.nextId, 0) }

theorem releaseDrainComplete_effect {s : State} {id : Nat} {o : MemOp} {drain : List Nat} (hop : s.op? id = some o)
    (hheld : o.held = some drain) (hdrained : s.allAcked drain = true) :
    ∃ t, exec (.releaseDrainComplete id) s = .next t ∧ t.op? id = some (o.sentNow s) ∧ t.warps = s.warps ∧ t.home = s.home ∧
      ∀ a, t.peek a = s.peek a := by
  let u : State := ({ s with nextId := s.nextId + 1 } : State).setOp id (o.sentNow s)
  have hexec : exec (.releaseDrainComplete id) s = .next (if o.kind == .st then u.l1Update (o.sentNow s) else u) := by
    show execReleaseDrainComplete id s = _
    rw [execReleaseDrainComplete, hop]
    simp only [hheld, hdrained]
    rfl
  have hu : u.op? id = some (o.sentNow s) := State.op?_setOp_same _ _ _
  refine ⟨_, hexec, ?_⟩
  split
  · have hl1 : u.sameButL1 (u.l1Update (o.sentNow s)) := sameButL1_l1Lay u _ _
    rw [hl1]
    exact ⟨hu, rfl, rfl, fun _ => rfl⟩
  · exact ⟨hu, rfl, rfl, fun _ => rfl⟩

end Sys2Proof.Machine
end

section
/-! PROOFS. A scalar load of a sector with a bound: the breach and its trap (R230, R387, R398, R403). -/

namespace Sys2Proof.Machine

/-! ## The one lane of a scalar load -/

/-- The lane of a scalar load whose sector has a bound. -/
def Lane.breached (l : Lane) : Lane := { l with st := .fault 0x43 }

/-- A scalar load with its one lane in breach. -/
def MemOp.breached (o : MemOp) : MemOp :=
  { o.setLane 0 (o.lane 0).breached with written := o.written ||| (o.setLane 0 (o.lane 0).breached).elem }

/-- An operation of one lane that is under way lists just that lane. -/
theorem lanes_of_length_one {o : MemOp} (hone : o.lanes.length = 1) (hsent : (o.lane 0).st = .sent) : o.lanes = [(0, o.lane 0)] := by
  obtain ⟨⟨k, l⟩, hlanes⟩ := List.length_eq_one_iff.1 hone
  have hk : k = 0 := by
    by_contra hk
    rw [MemOp.lane, hlanes, Map.get_cons, if_neg hk] at hsent
    cases hsent
  subst hk
  rw [MemOp.lane, hlanes]
  rfl

theorem lanes_breached {o : MemOp} (hone : o.lanes.length = 1) (hsent : (o.lane 0).st = .sent) :
    o.breached.lanes = [(0, (o.lane 0).breached)] := by
  have hnone : (o.lane 0).breached ≠ Lane.none := fun h => by
    have hst := congrArg Lane.st h
    cases hst
  show Map.set o.lanes Lane.none 0 (o.lane 0).breached = _
  rw [lanes_of_length_one hone hsent, Map.set, if_pos rfl, if_neg hnone]

theorem faults_breached {o : MemOp} (hone : o.lanes.length = 1) (hsent : (o.lane 0).st = .sent) : o.breached.faults = [(0, 0x43)] := by
  rw [MemOp.faults, lanes_breached hone hsent]
  rfl

/-- The lane in breach settles the operation. -/
theorem settled_breached {o : MemOp} (hone : o.lanes.length = 1) (hsent : (o.lane 0).st = .sent) (hheld : o.held = none) :
    o.breached.settled = true := by
  have hfree : o.breached.held = none := hheld
  rw [MemOp.settled, hfree, lanes_breached hone hsent]
  rfl

/-! ## The trap of the group (R387, R398) -/

/-- The group of a scalar load parked at it, and moved past the instruction by those that do not stay. -/
def State.parkedAt (s : State) (o : MemOp) : State :=
  (s.updCw fun w => o.faults.foldl (fun w f =>
    w.updThrs (o.threadsOf s.cw.issue f.1) fun _ th => { th with st := .parked (o.parked f.1 f.2 none) }) w).finish 2

theorem parkedAt_place (s : State) (o : MemOp) : s.cw.sameButPlace (s.parkedAt o).cw := by
  refine Warp.sameButPlace.trans ?_ (finish_place _ 2)
  rw [State.cw_updCw]
  exact List.foldlRecOn (motive := fun w => s.cw.sameButPlace w) _ _ rfl fun w hw f _ => hw.trans (updThrs_place w _ _)

/-- A handler that is ready is ready wherever the threads stand. -/
theorem Warp.sameButPlace.handlerReady {w x : Warp} (h : w.sameButPlace x) (hready : handlerReady w) : handlerReady x := by
  unfold Warp.sameButPlace at h
  rw [h]
  exact hready

/-- The trap that the breach causes. -/
theorem loadTrap_breach {o : MemOp} (hone : o.lanes.length = 1) (hsent : (o.lane 0).st = .sent) (hkind : o.kind = .sld) (w : Warp) (m : Mask) :
    let e := o.breached.loadTrap w m
    e.code = 0x0403 ∧ e.lanes = m ∧ e.addr = (o.lane 0).addr ∧ e.pc = o.pc ∧ e.recs = [] := by
  have hsld : (o.breached.kind == .sld) = true := by
    show (o.kind == .sld) = true
    rw [hkind]
    rfl
  have hlane : o.breached.lane 0 = (o.lane 0).breached := lane_setLane_same o 0 _
  simp only [MemOp.loadTrap, faults_breached hone hsent, List.headD_cons, List.foldl_cons, List.foldl_nil, MemOp.threadsOf, hsld,
    hlane, if_true]
  refine ⟨rfl, BitVec.zero_or, rfl, ?_⟩
  trivial

/-- The group of a scalar load in breach enters the trap. -/
theorem settleLoad_breach {s : State} {o : MemOp} (hone : o.lanes.length = 1) (hsent : (o.lane 0).st = .sent) (hkind : o.kind = .sld)
    (htrap : s.cw.trap = none) (hready : handlerReady s.cw) :
    let t := s.settleLoad o.breached 2
    ∃ e ops, (t.warp s.cur).trap = some (e, .entering ops) ∧ e.code = 0x0403 ∧ e.lanes = s.cw.issue ∧ e.addr = (o.lane 0).addr ∧
      e.pc = o.pc ∧ (t.warp s.cur).sregs = s.cw.sregs ∧ t.home = s.home ∧ ∀ a, t.peek a = s.peek a := by
  obtain ⟨hcode, hlanes, haddr, hpc, hrecs⟩ := loadTrap_breach hone hsent hkind s.cw s.cw.issue
  have hplace := parkedAt_place s o.breached
  have hready' := hplace.handlerReady hready
  have htrap' : (s.parkedAt o.breached).cw.trap = none := by
    unfold Warp.sameButPlace at hplace
    rw [hplace]
    exact htrap
  have hsregs : (s.parkedAt o.breached).cw.sregs = s.cw.sregs := hplace.registers.2.1
  have hfaults : o.breached.faults ≠ [] := by rw [faults_breached hone hsent]; exact List.cons_ne_nil _ _
  have hsettle : s.settleLoad o.breached 2 = (s.parkedAt o.breached).enterTrap s.cur (o.breached.loadTrap s.cw s.cw.issue) := by
    obtain ⟨-, -, -, -, hqueue, hunder⟩ := hready'
    have hcalm : ((s.parkedAt o.breached).cw.trap.isSome || (s.parkedAt o.breached).cw.underWay ||
        (s.parkedAt o.breached).cw.trapQueue != []) = false := by
      rw [htrap', hunder, hqueue]
      rfl
    rw [State.settleLoad, if_neg hfaults]
    show (if (s.parkedAt o.breached).cw.inTrap then _ else (s.parkedAt o.breached).queueTrap s.cur _) = _
    rw [Warp.inTrap, htrap', if_neg Bool.false_ne_true, State.queueTrap]
    exact if_neg (ne_true_of_eq_false hcalm)
  have henter := enterTrap_ready hready' hrecs
  generalize o.breached.loadTrap s.cw s.cw.issue = e at hcode hlanes haddr hpc hsettle henter
  have hframe := frameOnly_frameSent (s.parkedAt o.breached) e
  obtain ⟨-, hwarp, hpeek, -, -⟩ := hframe.agree
  have hhome : ((s.parkedAt o.breached).frameSent e).home = s.home := by
    unfold State.frameOnly at hframe
    rw [hframe]
    rfl
  have hslot : (s.settleLoad o.breached 2).warp s.cur =
      (s.parkedAt o.breached).cw.trapEntering e ((s.parkedAt o.breached).frameSent e).time (s.parkedAt o.breached).nextId := by
    rw [hsettle]
    refine (congrArg (State.warp · s.cur) henter).trans ?_
    exact (State.warp_updWarp_same _ _ _).trans (congrArg (Warp.trapEntering · e _ _) (hwarp _))
  refine ⟨{ e with head := (s.parkedAt o.breached).cw.frameHead e ((s.parkedAt o.breached).frameSent e).time }, [(s.parkedAt o.breached).nextId],
    ?_, hcode, hlanes, haddr, hpc, ?_, ?_, fun a => ?_⟩
  · rw [hslot]
    rfl
  · rw [hslot, Warp.trapEntering, updThrs_threads]
    exact hsregs
  · rw [hsettle]
    exact (congrArg State.home henter).trans hhome
  · rw [hsettle]
    exact (congrArg (State.peek · a) henter).trans (hpeek a)

/-! ## The request at its home (R110, R230) -/

/-- A scalar load that finds a bound is put back in breach. -/
theorem serveRead_breach {u : State} {o : MemOp} {id : Nat} {x : Site} {bs : List Byte} {b : Bnd} (hkind : o.kind = .sld)
    (hhalves : (o.lane 0).halves = 0) (hread : u.siteRead x (o.lane 0).addr.toNat 0 o.width.bytes = (bs, b, false)) (hb : b ≠ 0) :
    u.serveRead o id 0 0 x =
      ((u.siteMoved x o.width.bytes).refill o x (o.lane 0).addr.toNat).putLane id 0 (o.lane 0).breached := by
  have hkinds : o.kind = .ld ∨ o.kind = .sld ∨ o.kind = .st := .inr (.inl hkind)
  have hspan : (if (o.splits && !u.siteBounded x) = true then o.span 0 0 else (0, o.size 0)) = (0, o.width.bytes) := by
    rw [span_whole hkinds hhalves, size_eq_bytes hkinds, ite_self]
  have hframe : (o.kind == .frameLd) = false := by rw [hkind]; rfl
  have hbreach : (o.kind == .sld && b != 0) = true := by rw [hkind]; simpa using hb
  unfold State.serveRead
  simp only [hspan, hread, hframe, hbreach, Bool.false_and, Bool.false_eq_true, if_false, if_true]
  rfl

/-- The state in which the warp of a scalar load in breach, let go by it, settles the load. -/
def State.letBreachGo (s : State) (id : Nat) (o : MemOp) : State :=
  { ((s.setOp id o.breached).updWarp o.slot fun w => w.letGo o.breached).setOp id o.breached.left with cur := o.slot }

theorem letBreachGo_there (s : State) (id : Nat) (o : MemOp) :
    (s.letBreachGo id o).cw = (s.warp o.slot).letGo o.breached ∧ (s.letBreachGo id o).home = s.home ∧ (s.letBreachGo id o).mem = s.mem ∧
      (s.letBreachGo id o).cur = o.slot :=
  ⟨State.warp_updWarp_same (s.setOp id o.breached) o.slot fun w => w.letGo o.breached, rfl, rfl, rfl⟩

/-- A warp that an operation lets go is not held, and nothing else of it changes but the states of its threads. -/
theorem letGo_fields (w : Warp) (o : MemOp) : w.letGo o = { w with hold := .none, threads := (w.letGo o).threads } := by
  rw [Warp.letGo, updThrs_threads]

/-- An operation whose lanes have all settled, one of them in a fault, settles its group by a trap. -/
theorem putLane_breach {s : State} {id : Nat} {o : MemOp} (hop : s.op? id = some o) (hkind : o.kind = .sld) (hone : o.lanes.length = 1)
    (hsent : (o.lane 0).st = .sent) (hheld : o.held = none) (hhold : (s.warp o.slot).hold = .access id) :
    s.putLane id 0 (o.lane 0).breached =
      { (s.letBreachGo id o).settleLoad o.breached 2 with cur := s.cur } := by
  have hpf : ((o.setLane 0 (o.lane 0).breached).kind == .pf && (o.setLane 0 (o.lane 0).breached).settled) = false := by
    rw [Bool.and_eq_false_iff]
    exact .inl (by simp [MemOp.setLane, hkind])
  have hput : s.putLane id 0 (o.lane 0).breached = (s.setOp id o.breached).resolve id := by
    rw [State.putLane, hop]
    dsimp only
    rw [hpf, if_neg Bool.false_ne_true]
    rfl
  have hgoes : (!o.breached.kind.returns || !o.breached.settled || ((s.setOp id o.breached).warp o.breached.slot).hold != .access id) = false := by
    have hwarp : ((s.setOp id o.breached).warp o.breached.slot).hold = .access id := hhold
    rw [settled_breached hone hsent hheld, hwarp, show o.breached.kind = .sld from hkind]
    simp [MemKind.returns]
  rw [hput, State.resolve, State.op?_setOp_same]
  dsimp only
  rw [if_neg (ne_true_of_eq_false hgoes)]
  rfl

/-- A scalar load of a sector whose bound is not 0 writes nothing, and its group traps (R230, R403). -/
theorem sld_breach {s : State} {id key : Nat} {o : MemOp} {h : HLine} (hat : s.atHome id 0 o key h) (hkind : o.kind = .sld)
    (hone : o.lanes.length = 1) (hhold : (s.warp o.slot).hold = .access id) (htrap : (s.warp o.slot).trap = none)
    (hready : handlerReady { s.warp o.slot with hold := .none }) (hclean : h.line.poisoned (secOf (o.lane 0).addr.toNat) = false)
    (hbnd : h.line.bnd (secOf (o.lane 0).addr.toNat) ≠ 0) :
    ∃ t e ops, exec (.homeRequest id 0) s = .next t ∧ (t.warp o.slot).trap = some (e, .entering ops) ∧ e.code = 0x0403 ∧
      e.lanes = (s.warp o.slot).issue ∧ e.addr = (o.lane 0).addr ∧ e.pc = o.pc ∧ (t.warp o.slot).sregs = (s.warp o.slot).sregs ∧
      (∃ h', t.hline key = some h' ∧ h'.line = h.line) ∧ ∀ a, t.peek a = s.peek a := by
  have hexec := atHome_performs hat (asksLine_load (.inr hkind))
  obtain ⟨⟨hop, -, hsent, hhalves, hheld, -, -, -⟩, -, hline, -⟩ := hat
  have htraffic := sameButTraffic_onItsWay s o 0 (.line key)
  have hread : (s.onItsWay o 0 (.line key)).siteRead (.line key) (o.lane 0).addr.toNat 0 o.width.bytes =
      ((h.line.data.drop ((o.lane 0).addr.toNat % 128)).take o.width.bytes, h.line.bnd (secOf (o.lane 0).addr.toNat), false) := by
    have hline' : (s.onItsWay o 0 (.line key)).hline key = some h := by rw [htraffic]; exact hline
    rw [State.siteRead, State.homeRead, hline']
    exact congrArg₂ Prod.mk rfl (congrArg₂ Prod.mk rfl hclean)
  rw [perform_load (.inr hkind), serveRead_breach hkind hhalves hread hbnd] at hexec
  have hmoved := htraffic.trans (sameButTraffic_siteMoved (s.onItsWay o 0 (.line key)) (.line key) o.width.bytes)
  have hrefill := refilled_refill ((s.onItsWay o 0 (.line key)).siteMoved (.line key) o.width.bytes) o (.line key) (o.lane 0).addr.toNat
  generalize (s.onItsWay o 0 (.line key)).siteMoved (.line key) o.width.bytes = w at hmoved hrefill hexec
  generalize w.refill o (.line key) (o.lane 0).addr.toNat = v at hrefill hexec
  obtain ⟨hwarp, hops, hmem⟩ : v.warps = s.warps ∧ v.ops = s.ops ∧ v.mem = s.mem := by
    rw [hrefill.1, hmoved]
    exact ⟨rfl, rfl, rfl⟩
  obtain ⟨-, hsame, -⟩ := hrefill.lineRead hmoved (t := v) rfl
  obtain ⟨h', hh', hl', -⟩ := hsame h hline
  have hslot : v.warp o.slot = s.warp o.slot := by rw [State.warp, hwarp]; rfl
  rw [putLane_breach ((congrArg (Map.find? · id) hops).trans hop) hkind hone hsent hheld (by rw [hslot]; exact hhold)] at hexec
  obtain ⟨hcw, hhome, hmem', hcur⟩ := letBreachGo_there v id o
  rw [hslot] at hcw
  generalize v.letBreachGo id o = u at hcw hhome hmem' hcur hexec
  have hletGo := letGo_fields (s.warp o.slot) o.breached
  generalize (s.warp o.slot).letGo o.breached = x at hletGo hcw
  obtain ⟨e, ops, htrap', hcode, hlanes, haddr, hpc, hsregs, hhome', hpeek⟩ := settleLoad_breach (s := u) hone hsent hkind
    (by rw [hcw, hletGo]; exact htrap) (by rw [hcw, hletGo]; exact hready)
  rw [hcw, hletGo] at hlanes hsregs
  rw [hcur] at htrap' hsregs
  refine ⟨{ u.settleLoad o.breached 2 with cur := v.cur }, e, ops, hexec, ?_⟩
  generalize u.settleLoad o.breached 2 = t at htrap' hsregs hhome' hpeek
  refine ⟨htrap', hcode, hlanes, haddr, hpc, hsregs, ⟨h', ?_, hl'⟩, fun a => ?_⟩
  · exact (congrArg (Map.get · none key) (hhome'.trans hhome)).trans hh'
  · exact (hpeek a).trans (congrArg (Map.get · 0 a) (hmem'.trans hmem))

/-- Settles O36: a load that returns writes its lanes back, a scalar load in breach traps instead, and the end of each operation drops its
counter. -/
theorem operationsEnd : Obligations.OperationsEnd := by
  unfold Obligations.OperationsEnd
  refine ⟨fun s id o hop hkind hserved hlanes hfree hcounter hregister hnone hlive huid => ?_,
    ⟨fun s id o hop hkind hserved hfree hcounter hregister hnone hlive huid => ?_,
      fun s id key o h hat hkind hone hhold htrap hready _ hclean hbnd => sld_breach hat hkind hone hhold htrap hready hclean hbnd⟩,
    fun s id o hop hkind hacked hcounter hnone => storeAcknowledge_effect hop hkind hacked hcounter hnone,
    fun s id o drain hop hheld => ⟨fun hwait => ?_, fun hdrained => releaseDrainComplete_effect hop hheld hdrained⟩⟩
  · have hreturns : o.kind.returns = true := by rcases hkind with h | h | h <;> rw [h] <;> rfl
    have hsld : o.kind ≠ .sld := by rcases hkind with h | h | h <;> rw [h] <;> decide
    obtain ⟨t, hexec, hgone, hcounted, hpeek, hothers, hvregs, hsregs, hacquired, hkept⟩ :=
      loadReturn_effect ⟨hop, hreturns, hserved, hfree, hcounter, hregister, hnone, hlive, huid⟩
    have hscalars : ((s.warp o.slot).returned o).sregs = (s.warp o.slot).sregs := by
      rw [Warp.returned, dec_fields, writeBack_sameButVregs hsld]
    refine ⟨t, hexec, hgone, hcounted, hpeek, hsregs.trans hscalars, hothers, fun q l hl => ?_, hacquired, hkept⟩
    rw [Warp.v, hvregs]
    exact (v_returned _ o q l).trans (v_writeBack_served hsld hlanes _ hl)
  · have hreturns : o.kind.returns = true := by rw [hkind]; rfl
    obtain ⟨t, hexec, hgone, hcounted, hpeek, hothers, hvregs, hsregs, -, -⟩ :=
      loadReturn_effect ⟨hop, hreturns, hserved, hfree, hcounter, hregister, hnone, hlive, huid⟩
    have hvectors : ((s.warp o.slot).returned o).vregs = (s.warp o.slot).vregs := by
      rw [Warp.returned, dec_fields, writeBack_sld_fields hkind]
    refine ⟨t, hexec, hgone, hcounted, hpeek, hvregs.trans hvectors, hothers, fun q => ?_⟩
    rw [Warp.s, hsregs, Warp.returned, dec_fields]
    exact s_writeBack hkind _ q
  · show execReleaseDrainComplete id s = _
    rw [execReleaseDrainComplete, hop]
    simp only [hheld, hwait]
    rfl

end Sys2Proof.Machine
end

section
/-! PROOFS. Promotions: their acknowledgement, their end, and what ends with a lost core (R147, R151, R438, R446, R454). -/

namespace Sys2Proof.Machine

/-! ## Acknowledged and done (R147) -/

theorem promoteRequest_effect {s : State} {pid : Nat} {p : Promotion} (hp : s.promo? pid = some p) (hnew : p.acked = false) :
    ∃ t, exec (.promoteRequest pid) s = .next t ∧ t.promo? pid = some { p with acked := true } ∧ t.ops = s.ops ∧ t.cores = s.cores ∧
      t.home = s.home := by
  have hexec : exec (.promoteRequest pid) s = .next { s with promos := Map.put s.promos pid { p with acked := true } } := by
    show execPromoteRequest pid s = _
    simp only [execPromoteRequest, hp, hnew, Bool.false_eq_true, if_false]
  exact ⟨_, hexec, Map.find?_put_same _ _ _, rfl, rfl, rfl⟩

/-- The state in which a promotion is over: its entries have left the log, and its line has no mark. -/
def State.promoted (s : State) (pid : Nat) (p : Promotion) (h : HLine) : State :=
  ({ s.updCore p.core fun c => { c with log := c.log.filter fun e => !e.for_ p } with promos := Map.erase s.promos pid } : State).setHline
    p.key (some { h with mark := none })

theorem promoteDone_effect {s : State} {pid : Nat} {p : Promotion} {h : HLine} (hp : s.promo? pid = some p) (hacked : p.acked = true)
    (hdrained : ∀ e ∈ (s.core p.core).log, e.for_ p = true → s.allAcked e.drain = true) (hwaiters : s.promoting pid = [])
    (hline : s.hline p.key = some h) : exec (.promoteDone pid) s = .next (s.promoted pid p h) := by
  have hentries : (((s.core p.core).log.filter fun e => e.for_ p).all fun e => s.allAcked e.drain) = true :=
    List.all_eq_true.2 fun e he => hdrained e (List.mem_filter.1 he).1 (List.mem_filter.1 he).2
  have hnobody : p.waiters = [] := by
    rw [State.promoting, hp] at hwaiters
    exact hwaiters
  have hhome : Map.get s.home none p.key = some h := hline
  show execPromoteDone pid s = _
  simp only [execPromoteDone, hp, hacked, hentries, hnobody, State.hline, State.updCore_home, hhome, List.foldl_nil]
  rfl

/-! ## A core that does not acknowledge (R438, R446) -/

/-- All that a readiness bit which clears can change: the bit and the events of the hub. -/
theorem clearReady_eq {s : State} {bit : Nat} (hset : s.hub.ready.getLsbD bit = true) : ∃ ev pend out,
    s.clearReady bit =
      { s with hub := { s.hub with ready := s.hub.ready &&& ~~~(1#64 <<< bit), evst := ev, pba := pend }, outbox := out } := by
  obtain ⟨ev, pend, out, h⟩ := raiseEvent_eq (s.updHub fun h => { h with ready := h.ready &&& ~~~(1#64 <<< bit) }) 0 6
  exact ⟨ev, pend, out, by rw [State.clearReady, if_pos hset, h]; rfl⟩

/-- A domain that is present enters the viral state: its readiness bit clears, and the loss is logged (R446). -/
def State.turnsViral (s : State) (d cause : Nat) : State :=
  ((s.updHub fun h => { h with viral := Map.set h.viral none d (some s.time) }).clearReady (24 + d)).log 0x0401 d
    [(24, 1, d), (25, 1, cause)]

theorem turnsViral_effect {s : State} {d : Nat} (cause : Nat) (hready : s.hub.ready.getLsbD (24 + d) = true) :
    let t := s.turnsViral d cause
    t.viral d = true ∧ t.hub.ready.getLsbD (24 + d) = false ∧ t.promos = s.promos ∧ t.affected d = s.affected d := by
  obtain ⟨ev, pend, out, hclear⟩ :=
    clearReady_eq (s := s.updHub fun h => { h with viral := Map.set h.viral none d (some s.time) }) (bit := 24 + d) hready
  obtain ⟨m, prod, drop, ev', pend', out', hlog⟩ :=
    log_eq ((s.updHub fun h => { h with viral := Map.set h.viral none d (some s.time) }).clearReady (24 + d)) 0x0401 d
      [(24, 1, d), (25, 1, cause)]
  rw [hclear] at hlog
  dsimp only
  rw [State.turnsViral, hclear, hlog]
  refine ⟨congrArg Option.isSome (Map.get_set_same _ _ _ _), ?_, rfl, rfl⟩
  show (s.hub.ready &&& ~~~(1#64 <<< (24 + d))).getLsbD (24 + d) = false
  simp

/-- Where no lane waits for a promotion, the loss of a domain's data and marks ends the promotions of its cores and of its homes. -/
theorem loseMarks_effect {s : State} {d : Nat} (hwaiters : ∀ p ∈ s.promos, s.promoting p.1 = []) :
    let t := (s.loseData d).loseMarks d
    t.hub = s.hub ∧ t.promos = s.promos.filter (fun p => !(domainOf p.2.core = d || p.2.home = d)) ∧ t.affected d = s.affected d := by
  have hnobody : ((s.loseData d).lostPromos d).flatMap (fun p => (s.loseData d).promoting p.1) = [] :=
    List.flatMap_eq_nil_iff.2 fun p hp => hwaiters p (List.mem_filter.1 hp).1
  dsimp only
  rw [State.loseMarks, hnobody, List.foldl_nil]
  exact ⟨rfl, rfl, rfl⟩

/-- The loss of a domain without waiting lanes and without launches on it: the domain is viral, its readiness bit is clear, and the
promotions of its cores and of its homes are gone. -/
theorem dieLost_effect {s : State} {d : Nat} (cause : Nat) (hpresent : s.present d = true) (hwaiters : ∀ p ∈ s.promos, s.promoting p.1 = [])
    (haffected : s.affected d = []) :
    (s.dieLost d cause).viral d = true ∧ (s.dieLost d cause).hub.ready.getLsbD (24 + d) = false ∧
      (s.dieLost d cause).promos = s.promos.filter fun p => !(domainOf p.2.core = d || p.2.home = d) := by
  have hready : s.hub.ready.getLsbD (24 + d) = true := by
    simp only [State.present, Bool.and_eq_true] at hpresent
    exact hpresent.1.2
  obtain ⟨hviral, hclear, hpromos, haff⟩ := turnsViral_effect cause hready
  have hnobody : ∀ p ∈ (s.turnsViral d cause).promos, (s.turnsViral d cause).promoting p.1 = [] := fun p hp => by
    rw [State.promoting, State.promo?, hpromos]
    exact hwaiters p (hpromos ▸ hp)
  obtain ⟨hhub, hlost, haff'⟩ := loseMarks_effect (d := d) hnobody
  have hdies : s.dieLost d cause = ((s.turnsViral d cause).loseData d).loseMarks d := by
    show List.foldl _ _ ((((s.turnsViral d cause).loseData d).loseMarks d).affected d) = _
    rw [haff', haff, haffected]
    rfl
  rw [hdies, State.viral, hhub, hlost, hpromos]
  exact ⟨hviral, hclear, rfl⟩

/-! ## A peer that does not answer (R454) -/

/-- A lane of a store that ends in a fault. -/
def MemOp.faulted (o : MemOp) (part : Nat) (cause : BitVec 8) : MemOp := o.setLane part { o.lane part with st := .fault cause }

/-- Only an operation that returns something holds a group that could go on. -/
theorem resolve_of_not_returns {s : State} {id : Nat} {o : MemOp} (hop : s.op? id = some o) (h : o.kind.returns = false) : s.resolve id = s := by
  rw [State.resolve, hop]
  exact if_pos (by simp [h])

/-- A store's lane that ends in a fault leaves L1 and takes the fault. -/
theorem faultLane_store {s : State} {id part : Nat} {o : MemOp} (hop : s.op? id = some o) (hkind : o.kind = .st) (cause : BitVec 8) :
    s.faultLane o id part cause = (s.setL1 o.core o.vf o.asid (o.lane part).addr.toNat none).setOp id
      { o.faulted part cause with written := (o.faulted part cause).written ||| (o.faulted part cause).elem } := by
  let u := s.setL1 o.core o.vf o.asid (o.lane part).addr.toNat none
  have hfault : s.faultLane o id part cause = u.putLane id part { o.lane part with st := .fault cause } := by
    simp only [State.faultLane, hkind]
    rfl
  have hopu : u.op? id = some o := hop
  have hpf : ((o.faulted part cause).kind == .pf && (o.faulted part cause).settled) = false := by
    rw [Bool.and_eq_false_iff]
    exact .inl (by simp [MemOp.faulted, MemOp.setLane, hkind])
  have hstore : (o.faulted part cause).kind.returns = false := by
    show o.kind.returns = false
    rw [hkind]
    rfl
  rw [hfault, State.putLane, hopu]
  show (if ((o.faulted part cause).kind == .pf && (o.faulted part cause).settled) = true then _ else _) = _
  rw [if_neg (ne_true_of_eq_false hpf)]
  exact resolve_of_not_returns (State.op?_setOp_same _ _ _) hstore

/-- A store's lane under way to a peer range waits for 1 ms; after that it ends in cause 08. -/
theorem peerRequestTimeout_store {s : State} {id part : Nat} {p : PortAt} {o : MemOp} (hop : s.op? id = some o)
    (hsent : (o.lane part).st = .sent) (hheld : o.held = none) (htouch : s.touch o.who (o.lane part).addr.toNat o.need = .port p)
    (hpeer : paKind p.pa = .peer) : exec (.peerRequestTimeout id part) s =
      .next (if s.time < o.sentAt + 1000000 then s else s.faultLane o id part 0x08) := by
  show execPeerRequestTimeout id part s = _
  rw [execPeerRequestTimeout]
  by_cases hearly : s.time < 1000000
  · rw [if_pos hearly, if_pos (by omega)]
  · have hmoved : s.peerFails id part (s.time - 1000000) =
        if s.time - 1000000 < o.sentAt then s else s.faultLane o id part 0x08 := by
      simp [State.peerFails, hop, hsent, hheld, htouch, hpeer]
    rw [if_neg hearly, hmoved]
    exact congrArg Host.Outcome.next (if_congr (by omega) rfl rfl)

/-- Settles O38: each step of a promotion does what R147 and R438 say, and a store to a silent peer ends in cause 08. -/
theorem promotions : Obligations.Promotions := by
  unfold Obligations.Promotions
  refine ⟨fun s pid p hp => ⟨fun hnew => promoteRequest_effect hp hnew, fun h hacked hdrained hwaiters hline => ?_,
    fun hnew hlate hpresent honly hwaiters haffected => ?_⟩, fun s id part p o hop hsent hheld hkind htouch hpeer => ?_⟩
  · refine ⟨_, promoteDone_effect hp hacked hdrained hwaiters hline, find?_erase_same _ _, hline_setHline_same _ _ _, ?_, rfl,
      linesKept_setHline _ _ _⟩
    exact congrArg Core.log (Map.get_upd_same s.cores Core.reset p.core fun c => { c with log := c.log.filter fun e => !e.for_ p })
  · have hexec : exec (.promoteAckTimeout pid) s = .next (s.dieLost (domainOf p.core) 6) := by
      show execPromoteAckTimeout pid s = _
      simp [execPromoteAckTimeout, hp, hnew, hlate, hpresent]
    have hnobody : ∀ x ∈ s.promos, s.promoting x.1 = [] := fun x hx => by
      rw [honly, List.mem_singleton] at hx
      rw [hx]
      exact hwaiters
    obtain ⟨hviral, hready, hpromos⟩ := dieLost_effect 6 hpresent hnobody haffected
    refine ⟨_, hexec, hviral, ?_, hready⟩
    rw [State.promo?, hpromos, honly]
    simp [Map.find?]
  · rw [peerRequestTimeout_store hop hsent hheld htouch hpeer]
    refine ⟨fun hearly => by rw [if_pos hearly], fun hlate => ⟨_, congrArg Host.Outcome.next (if_neg (by omega)), ?_⟩⟩
    rw [faultLane_store hop hkind]
    exact ⟨⟨_, State.op?_setOp_same _ _ _, rfl⟩, rfl, rfl, fun _ => rfl⟩

end Sys2Proof.Machine
end

section
/-! PROOFS. The transfers of a run of bytes, and how an engine operation leaves the tables (R98, R99, R152, R154, R287, R289). -/

namespace Sys2Proof.Machine

/-! ## Entries of a table -/

theorem mem_put_self {α : Type} (m : Map α) (k : Nat) (v : α) : (k, v) ∈ Map.put m k v := by
  induction m with
  | nil => exact List.mem_cons_self
  | cons p m ih =>
    rw [Map.put]
    split
    · exact List.mem_cons_self
    · split
      · exact List.mem_cons_self
      · exact List.mem_cons_of_mem _ ih

theorem mem_of_mem_put {α : Type} {m : Map α} {k : Nat} {v : α} {x : Nat × α} (h : x ∈ Map.put m k v) : x = (k, v) ∨ x ∈ m := by
  induction m with
  | nil => exact .inl (List.mem_singleton.1 h)
  | cons p m ih =>
    rw [Map.put] at h
    split at h
    · exact List.mem_cons.1 h
    · split at h
      · exact (List.mem_cons.1 h).imp_right (List.mem_cons_of_mem _)
      · rcases List.mem_cons.1 h with rfl | h
        · exact .inr List.mem_cons_self
        · exact (ih h).imp_right (List.mem_cons_of_mem _)

/-- An entry stays listed unless it is the one that is replaced. -/
theorem mem_put_of_mem {α : Type} {m : Map α} {k : Nat} (v : α) {x : Nat × α} (h : x ∈ m) :
    x ∈ Map.put m k v ∨ x.1 = k ∧ Map.find? m k = some x.2 := by
  induction m with
  | nil => cases h
  | cons p m ih =>
    rw [Map.put, Map.find?]
    by_cases hlt : k < p.1
    · exact .inl (by rw [if_pos hlt]; exact List.mem_cons_of_mem _ h)
    · rw [if_neg hlt]
      by_cases heq : k = p.1
      · rw [if_pos heq, if_pos heq.symm]
        rcases List.mem_cons.1 h with rfl | h
        · exact .inr ⟨heq.symm, rfl⟩
        · exact .inl (List.mem_cons_of_mem _ h)
      · rw [if_neg heq, if_neg (Ne.symm heq)]
        rcases List.mem_cons.1 h with rfl | h
        · exact .inl List.mem_cons_self
        · exact (ih h).imp_left (List.mem_cons_of_mem _)

theorem mem_of_find? {α : Type} {m : Map α} {k : Nat} {v : α} (h : Map.find? m k = some v) : (k, v) ∈ m := by
  induction m with
  | nil => cases h
  | cons p m ih =>
    rw [Map.find?] at h
    split at h
    · next hk =>
      cases h
      exact hk ▸ List.mem_cons_self
    · exact List.mem_cons_of_mem _ (ih h)

/-! ## Pieces and transfers of a run (R98, R99, R287) -/

/-- A piece is listed in a table of pieces by destination sector. -/
def listed (m : Map (List Piece)) (p : Piece) : Prop := ∃ q ∈ m, p ∈ q.2

/-- A piece entered in the table under its destination sector. -/
def enter (m : Map (List Piece)) (p : Piece) : Map (List Piece) :=
  Map.put m (p.dst / 32) ((Map.find? m (p.dst / 32)).getD [] ++ [p])

theorem listed_enter (m : Map (List Piece)) (p x : Piece) : listed (enter m p) x ↔ listed m x ∨ x = p := by
  constructor
  · rintro ⟨q, hq, hx⟩
    rcases mem_of_mem_put hq with rfl | hq
    · rcases List.mem_append.1 hx with hx | hx
      · cases hfind : Map.find? m (p.dst / 32) with
        | none => rw [hfind] at hx; cases hx
        | some old =>
          rw [hfind] at hx
          exact .inl ⟨_, mem_of_find? hfind, hx⟩
      · exact .inr (List.mem_singleton.1 hx)
    · exact .inl ⟨q, hq, hx⟩
  · rintro (⟨q, hq, hx⟩ | rfl)
    · rcases mem_put_of_mem ((Map.find? m (p.dst / 32)).getD [] ++ [p]) hq with hstays | ⟨-, hfind⟩
      · exact ⟨q, hstays, hx⟩
      · exact ⟨_, mem_put_self _ _ _, List.mem_append_left _ (by rw [hfind]; exact hx)⟩
    · exact ⟨_, mem_put_self _ _ _, List.mem_append_right _ List.mem_cons_self⟩

theorem listed_foldl_enter (ps : List Piece) (m : Map (List Piece)) (x : Piece) : listed (ps.foldl enter m) x ↔ listed m x ∨ x ∈ ps := by
  induction ps generalizing m with
  | nil => simp
  | cons p ps ih => rw [List.foldl_cons, ih, listed_enter, List.mem_cons, or_assoc]

theorem xfersOf_eq (ps : List Piece) : xfersOf ps = (ps.foldl enter []).map fun q => ⟨q.2, false, none, false⟩ := rfl

/-- The transfers of a list of pieces hold those pieces and no other. -/
theorem mem_xfersOf (ps : List Piece) (p : Piece) : (∃ x ∈ xfersOf ps, p ∈ x.pieces) ↔ p ∈ ps := by
  have hlisted : (∃ x ∈ xfersOf ps, p ∈ x.pieces) ↔ listed (ps.foldl enter []) p := by
    rw [xfersOf_eq]
    simp only [List.mem_map, exists_exists_and_eq_and, listed]
  rw [hlisted, listed_foldl_enter]
  exact or_iff_right fun ⟨q, hq, _⟩ => by cases hq

theorem fresh_xfersOf {ps : List Piece} {x : Xfer} (h : x ∈ xfersOf ps) : x.done = false ∧ x.paged = none := by
  rw [xfersOf_eq] at h
  obtain ⟨q, -, rfl⟩ := List.mem_map.1 h
  exact ⟨rfl, rfl⟩

/-- Bytes that a piece may take: no more than are left, and none past the end of a sector on either side (R98). -/
def fits (src dst n : Nat) : Nat := min n (min (32 - src % 32) (32 - dst % 32))

theorem fits_bounds {src dst n : Nat} (hn : 0 < n) : 0 < fits src dst n ∧ fits src dst n ≤ n ∧ fits src dst n ≤ 32 - src % 32 ∧
    fits src dst n ≤ 32 - dst % 32 := by
  unfold fits
  omega

theorem chunks_succ {src dst f n : Nat} (hn : 0 < n) : chunks src dst (f + 1) n =
    ⟨src, dst, fits src dst n, none, false⟩ :: chunks (src + fits src dst n) (dst + fits src dst n) f (n - fits src dst n) := by
  obtain ⟨n, rfl⟩ := Nat.exists_eq_succ_of_ne_zero hn.ne'
  rfl

/-- Each byte of a run lies in a piece of it. -/
theorem chunks_cover {f : Nat} : ∀ {src dst n i : Nat}, n ≤ f → i < n →
    ∃ p ∈ chunks src dst f n, ∃ j, j < p.len ∧ p.src + j = src + i ∧ p.dst + j = dst + i := by
  induction f with
  | zero => intro src dst n i hn hi; omega
  | succ f ih =>
    intro src dst n i hn hi
    obtain ⟨hpos, -, -, -⟩ := fits_bounds (src := src) (dst := dst) (n := n) (by omega)
    rw [chunks_succ (by omega)]
    by_cases hfirst : i < fits src dst n
    · exact ⟨_, List.mem_cons_self, i, hfirst, rfl, rfl⟩
    · obtain ⟨p, hp, j, hj, hsrc, hdst⟩ := ih (src := src + fits src dst n) (dst := dst + fits src dst n) (n := n - fits src dst n)
        (i := i - fits src dst n) (by omega) (by omega)
      exact ⟨p, List.mem_cons_of_mem _ hp, j, hj, by omega, by omega⟩

/-- A piece of a run lies in it, and in one sector on either side. -/
theorem chunks_within {f : Nat} : ∀ {src dst n : Nat}, ∀ p ∈ chunks src dst f n, p.nib = none ∧ p.zero = false ∧ 0 < p.len ∧
    p.src / 32 = (p.src + p.len - 1) / 32 ∧ p.dst / 32 = (p.dst + p.len - 1) / 32 ∧
    ∃ i, i + p.len ≤ n ∧ p.src = src + i ∧ p.dst = dst + i := by
  induction f with
  | zero => intro src dst n p hp; cases hp
  | succ f ih =>
    intro src dst n p hp
    rcases Nat.eq_zero_or_pos n with rfl | hn
    · cases hp
    · obtain ⟨hpos, hle, hs, hd⟩ := fits_bounds (src := src) (dst := dst) hn
      rw [chunks_succ hn] at hp
      rcases List.mem_cons.1 hp with rfl | hp
      · exact ⟨rfl, rfl, hpos, by dsimp only; omega, by dsimp only; omega, 0, by dsimp only; omega, rfl, rfl⟩
      · obtain ⟨hnib, hzero, hlen, hsrc, hdst, i, hi, hsi, hdi⟩ := ih p hp
        exact ⟨hnib, hzero, hlen, hsrc, hdst, fits src dst n + i, by omega, by omega, by omega⟩

theorem movesRun_chunks (src dst n : Nat) : movesRun (xfersOf (chunks src dst n n)) src dst n := by
  refine ⟨fun i hi => ?_, fun x hx => ?_⟩
  · obtain ⟨p, hp, j, hj⟩ := chunks_cover (src := src) (dst := dst) le_rfl hi
    obtain ⟨x, hx, hpx⟩ := (mem_xfersOf _ p).2 hp
    exact ⟨x, hx, p, hpx, j, hj⟩
  · obtain ⟨hdone, hpaged⟩ := fresh_xfersOf hx
    exact ⟨hdone, hpaged, fun p hp => chunks_within p ((mem_xfersOf _ p).1 ⟨x, hx, hp⟩)⟩

/-! ## The end of an engine operation (R154, R289) -/

/-- What the end of an engine operation leaves before its credit and its counter: it is gone, its ranges have left every table, and the
lines of its output have left L1. -/
def State.released (s : State) (op : Nat) (e : EngOp) : State :=
  let t := ((s.dropEng op).unlock op).dropOutput e (s.outRanges op e) (s.observer e)
  if e.txb.isSome && e.dc.toNat < 6 then t.dropOutput e (s.outRanges op e) e.core else t

theorem sameButL1_dropOutput (s : State) (e : EngOp) (rs : List (Nat × Nat)) (core : Nat) : s.sameButL1 (s.dropOutput e rs core) := by
  induction rs generalizing s with
  | nil => exact .refl s
  | cons r rs ih =>
    have hdrop : s.sameButL1 (s.dropL1Range core e.vf e.asid r.1 r.2) := rfl
    exact hdrop.trans (ih _)

theorem released_sameButL1 (s : State) (op : Nat) (e : EngOp) : ((s.dropEng op).unlock op).sameButL1 (s.released op e) := by
  unfold State.released
  dsimp only
  split
  · exact (sameButL1_dropOutput _ _ _ _).trans (sameButL1_dropOutput _ _ _ _)
  · exact sameButL1_dropOutput _ _ _ _

/-- The credit of an operation, or the fault that it ends in (R289). -/
def State.credited (s : State) (e : EngOp) : State × Option (BitVec 16 × DWord) :=
  match e.fault with
  | some f => (s, some f)
  | none => s.creditEng e

/-- The deferred fault of an operation that ends in one. -/
def EngOp.defers (e : EngOp) (f : Option (BitVec 16 × DWord)) : Option Deferred := f.map fun f => e.deferred f.1 f.2

theorem endEng_eq (s : State) (op : Nat) (e : EngOp) : s.endEng op e =
    (((s.released op e).credited e).1.closes e.slot e.uid e.launch e.dc (e.defers ((s.released op e).credited e).2)).reap e.uid := by
  have hsplit : ∀ (x : State × Option (BitVec 16 × DWord)),
      (match x with
        | (s, fault) =>
          (match fault with
            | some (code, addr) => (s.forOp e.slot e.uid fun w => w.dec e.dc).defer e.slot e.uid e.launch (e.deferred code addr)
            | none => s.forOp e.slot e.uid fun w => w.dec e.dc).reap e.uid) =
      (x.1.closes e.slot e.uid e.launch e.dc (e.defers x.2)).reap e.uid := by
    rintro ⟨u, _ | ⟨code, addr⟩⟩ <;> rfl
  exact hsplit ((s.released op e).credited e)

theorem noneEnded_unlock {s : State} (h : s.noneEnded) (op : Nat) : (s.unlock op).noneEnded := fun p hp => by
  obtain ⟨q, hq, rfl⟩ := List.mem_map.1 hp
  exact h q hq

/-- The ranges of an operation are what leaves the tables with it. -/
theorem locks_unlock (s : State) (op c : Nat) : ((s.unlock op).core c).locks = (s.core c).locks.filter fun r => r.op != op := by
  have hget : ∀ m : Map Core, Map.get (m.map fun p => (p.1, { p.2 with locks := p.2.locks.filter fun r => r.op != op })) Core.reset c =
      { Map.get m Core.reset c with locks := (Map.get m Core.reset c).locks.filter fun r => r.op != op } := by
    intro m
    induction m with
    | nil => rfl
    | cons p m ih =>
      rw [List.map_cons, Map.get_cons, Map.get_cons]
      split
      · rfl
      · exact ih
  exact congrArg Core.locks (hget s.cores)

/-- A step that credits or releases leaves the tables, memory, and of each warp its identity, its counters and its registers. -/
structure State.creditKept (s t : State) : Prop where
  engs : t.engs = s.engs
  cores : t.cores = s.cores
  mem : t.mem = s.mem
  warps : ∀ k, (t.warp k).live = (s.warp k).live ∧ (t.warp k).uid = (s.warp k).uid ∧ (t.warp k).ctr = (s.warp k).ctr

theorem State.creditKept.trans {s t u : State} (h : s.creditKept t) (g : t.creditKept u) : s.creditKept u := by
  refine ⟨g.engs.trans h.engs, g.cores.trans h.cores, g.mem.trans h.mem, fun k => ?_⟩
  obtain ⟨hlive, huid, hctr⟩ := h.warps k
  obtain ⟨glive, guid, gctr⟩ := g.warps k
  exact ⟨glive.trans hlive, guid.trans huid, gctr.trans hctr⟩

theorem State.creditKept.refl (s : State) : s.creditKept s := ⟨rfl, rfl, rfl, fun _ => ⟨rfl, rfl, rfl⟩⟩

theorem creditKept_updWarp {s : State} {k : Nat} {f : Warp → Warp}
    (h : (f (s.warp k)).live = (s.warp k).live ∧ (f (s.warp k)).uid = (s.warp k).uid ∧ (f (s.warp k)).ctr = (s.warp k).ctr) :
    s.creditKept (s.updWarp k f) := by
  refine ⟨rfl, rfl, rfl, fun j => ?_⟩
  by_cases hj : j = k
  · subst hj
    rw [State.warp_updWarp_same]
    exact h
  · rw [State.warp_updWarp_other _ _ _ _ hj]
    exact ⟨rfl, rfl, rfl⟩

/-- The waiters of an object that are released (R247); nothing of the scratchpad changes. -/
theorem txbRelease_kept (s : State) (b j off : Nat) : s.creditKept (s.txbRelease b j off) ∧ (s.txbRelease b j off).scratch = s.scratch := by
  unfold State.txbRelease
  have hbump : ∀ u : State, s.creditKept u ∧ u.scratch = s.scratch → s.creditKept u.bump ∧ u.bump.scratch = s.scratch :=
    fun u ⟨hkept, hscratch⟩ => ⟨⟨hkept.engs, hkept.cores, hkept.mem, hkept.warps⟩, hscratch⟩
  refine hbump _ (List.foldlRecOn (motive := fun u => s.creditKept u ∧ u.scratch = s.scratch) _ _ ⟨.refl s, rfl⟩ fun u hu k _ => ?_)
  obtain ⟨hkept, hscratch⟩ := hu
  dsimp only
  split
  · exact ⟨hkept, hscratch⟩
  · generalize (u.warp k).lanes _ = m
    have hwake := (settles_wake (u.warp k) m u.stamp).1
    have hsettle := (settles_settle { (u.warp k).wake m u.stamp with acqMark := u.nextId } u.stamp).1
    unfold Warp.sameButThreads at hwake hsettle
    refine ⟨hkept.trans (creditKept_updWarp ?_), hscratch⟩
    rw [hsettle, hwake]
    exact ⟨rfl, rfl, rfl⟩

theorem creditKept_txbWrite (s : State) (b j off : Nat) (x : Txb) : s.creditKept (s.txbWrite b j off x) := by
  have h := sameButSpad_spStore s b j [(off, x.bytes, bndExact)]
  unfold State.sameButSpad at h
  unfold State.txbWrite
  generalize s.spStore b j [(off, x.bytes, bndExact)] = t at h
  rw [h]
  exact ⟨rfl, rfl, rfl, fun _ => ⟨rfl, rfl, rfl⟩⟩

theorem creditKept_txbUpdate (s : State) (b j off : Nat) (x : Txb) : s.creditKept (s.txbUpdate b j off x) := by
  unfold State.txbUpdate
  split
  · exact (creditKept_txbWrite _ _ _ _ _).trans (txbRelease_kept _ _ _ _).1
  · exact creditKept_txbWrite _ _ _ _ _

theorem creditKept_creditEng (s : State) (e : EngOp) : s.creditKept (s.creditEng e).1 := by
  unfold State.creditEng
  cases e.txb with
  | none => exact .refl s
  | some x =>
    obtain ⟨b, j, off⟩ := x
    dsimp only
    unfold State.txbCredit
    dsimp only
    split
    · next hnone => exact .refl s
    · next u hsome =>
      have hu : s.creditKept u := by
        split at hsome
        · cases hsome
        · rw [← Option.some.inj hsome]
          exact creditKept_txbUpdate _ _ _ _ _
      split
      · exact ⟨hu.engs, hu.cores, hu.mem, hu.warps⟩
      · exact hu

theorem creditKept_credited (s : State) (e : EngOp) : s.creditKept (s.credited e).1 := by
  unfold State.credited
  split
  · exact .refl s
  · exact creditKept_creditEng s e

/-- The end of an operation once nothing awaits a tracker entry (R51, R154). -/
theorem endEng_closes {s : State} (hnone : s.noneEnded) (op : Nat) (e : EngOp) : s.endEng op e =
    ((s.released op e).credited e).1.closes e.slot e.uid e.launch e.dc (e.defers ((s.released op e).credited e).2) := by
  rw [endEng_eq]
  refine reap_of_noneEnded ?_ _
  have hcores : (s.released op e).cores = ((s.dropEng op).unlock op).cores := by rw [released_sameButL1 s op e]
  rw [State.noneEnded, closes_sameButRuns ((s.released op e).credited e).1]
  show ∀ p ∈ ((s.released op e).credited e).1.cores, p.2.tracker = []
  rw [(creditKept_credited _ e).cores, hcores]
  exact noneEnded_unlock hnone op

/-- An operation that ends is gone, with its ranges, and its counter has dropped; memory is as before. -/
theorem endEng_gone {s : State} (hnone : s.noneEnded) (op : Nat) (e : EngOp) :
    s.engGone (s.endEng op e) op e ∧ ∀ a, (s.endEng op e).peek a = s.peek a := by
  have hreleased := released_sameButL1 s op e
  have hkept := creditKept_credited (s.released op e) e
  have hengs : (s.released op e).engs = Map.erase s.engs op := by rw [hreleased]; rfl
  have hcores : (s.released op e).cores = (s.unlock op).cores := by rw [hreleased]; rfl
  have hmem : (s.released op e).mem = s.mem := by rw [hreleased]; rfl
  have hwarps : (s.released op e).warps = s.warps := by rw [hreleased]; rfl
  rw [endEng_closes hnone]
  generalize e.defers ((s.released op e).credited e).2 = f
  generalize ((s.released op e).credited e).1 = u at hkept
  have hsame := closes_sameButRuns u e.slot e.uid e.launch e.dc f
  have hcount := countedDown_closes u e.slot e.uid e.launch e.dc f
  generalize u.closes e.slot e.uid e.launch e.dc f = t at hsame hcount
  obtain ⟨hlive, huid, hctr⟩ := hkept.warps e.slot
  have hslot : (s.released op e).warp e.slot = s.warp e.slot := congrArg (Map.get · Warp.empty e.slot) hwarps
  rw [hslot] at hlive huid hctr
  refine ⟨⟨?_, fun hl hu i => ?_, fun c r hr => ?_⟩, fun a => ?_⟩
  · rw [State.eng?, show t.engs = u.engs by rw [hsame], hkept.engs, hengs]
    exact find?_erase_same _ _
  · rw [hcount (hlive.trans hl) (huid.trans hu), Warp.d, Warp.d, hctr]
  · have hc : t.core c = (s.unlock op).core c := by
      rw [State.core, show t.cores = u.cores by rw [hsame], hkept.cores, hcores]
      rfl
    rw [hc, locks_unlock] at hr
    exact bne_iff_ne.1 (List.mem_filter.1 hr).2
  · rw [State.peek, show t.mem = u.mem by rw [hsame], hkept.mem, hmem]
    rfl

/-- Without a barrier object to credit and without a fault, the end of an operation changes only its tables, L1 and its counter. -/
theorem endEng_plain {s : State} (hnone : s.noneEnded) (op : Nat) {e : EngOp} (htxb : e.txb = none) (hfault : e.fault = none) :
    s.endEng op e = (s.released op e).closes e.slot e.uid e.launch e.dc none := by
  have hcredit : (s.released op e).credited e = (s.released op e, none) := by
    simp only [State.credited, hfault, State.creditEng, htxb]
  rw [endEng_closes hnone, hcredit]
  rfl

end Sys2Proof.Machine
end

section
/-! PROOFS. The start of an engine operation (R152, R287, R291, R292, R300, R302, R312, R357). -/

namespace Sys2Proof.Machine

/-! ## Sectors of a list of addresses -/

theorem mem_keys_put {α : Type} (m : Map α) (k j : Nat) (v : α) : j ∈ (Map.put m k v).map Prod.fst ↔ j ∈ m.map Prod.fst ∨ j = k := by
  simp only [List.mem_map]
  constructor
  · rintro ⟨x, hx, rfl⟩
    rcases mem_of_mem_put hx with rfl | hx
    · exact .inr rfl
    · exact .inl ⟨x, hx, rfl⟩
  · rintro (⟨x, hx, rfl⟩ | rfl)
    · rcases mem_put_of_mem v hx with hstays | ⟨hk, -⟩
      · exact ⟨x, hstays, rfl⟩
      · exact ⟨_, mem_put_self m k v, hk.symm⟩
    · exact ⟨_, mem_put_self m _ v, rfl⟩

/-- The sectors of a list of addresses are those of its addresses. -/
theorem mem_sectorsOf (as_ : List Nat) (sec : Nat) : sec ∈ sectorsOf as_ ↔ ∃ a ∈ as_, a / 32 = sec := by
  have hfold : ∀ m : Map Unit, sec ∈ (as_.foldl (fun m a => Map.put m (a / 32) ()) m).map Prod.fst ↔
      sec ∈ m.map Prod.fst ∨ ∃ a ∈ as_, a / 32 = sec := by
    induction as_ with
    | nil => intro m; simp
    | cons a as_ ih =>
      intro m
      rw [List.foldl_cons, ih, mem_keys_put, List.exists_mem_cons_iff, or_assoc, eq_comm (a := sec)]
  exact (hfold []).trans (or_iff_right List.not_mem_nil)

/-! ## Messages to other chips (R347, R348, R357) -/

/-- What a message of this chip can change: flits that wait and are kept, messages that wait here, the log and what is sent. -/
def State.posted (s t : State) : Prop := ∃ ports inbox hub mem out,
  t = { s with fab := { s.fab with ports := ports, inbox := inbox }, hub := hub, mem := mem, outbox := out }

theorem State.posted.trans {s t u : State} (h : s.posted t) (g : t.posted u) : s.posted u := by
  obtain ⟨_, _, _, _, _, rfl⟩ := h
  obtain ⟨_, _, _, _, _, rfl⟩ := g
  exact ⟨_, _, _, _, _, rfl⟩

theorem posted_updPort (s : State) (p : Nat) (f : Port → Port) : s.posted (s.updPort p f) := ⟨_, _, _, _, _, rfl⟩

theorem posted_log (s : State) (type src : Nat) (fs : List (Nat × Nat × Nat)) : s.posted (s.log type src fs) := by
  obtain ⟨m, prod, drop, ev, pend, out, h⟩ := log_eq s type src fs
  exact ⟨_, _, _, _, _, h⟩

theorem posted_drainPort (s : State) (p n : Nat) : s.posted (s.drainPort p n) := by
  induction n generalizing s with
  | zero => exact ⟨_, _, _, _, _, rfl⟩
  | succ n ih =>
    rw [State.drainPort]
    split
    · exact ⟨_, _, _, _, _, rfl⟩
    · split
      · exact ⟨_, _, _, _, _, rfl⟩
      · next f _ =>
        have hlaunch : ∀ u : State, u.posted (u.launchFlit p f.2) := fun u => ⟨_, _, _, _, _, rfl⟩
        exact ((posted_updPort s p _).trans (hlaunch _)).trans (ih _)

theorem posted_forward (s : State) (arrival : Nat) (f : Flit) : s.posted (s.forward arrival f) := by
  unfold State.forward
  split
  · exact posted_log _ _ _ _
  · split
    · exact posted_log _ _ _ _
    · exact (posted_updPort _ _ _).trans (posted_drainPort _ _ _)

theorem posted_post (s : State) (dest vc : Nat) (payload : List Byte) : s.posted (s.post dest vc payload) := by
  unfold State.post
  split
  · exact posted_log _ _ _ _
  · split
    · exact ⟨_, _, _, _, _, rfl⟩
    · exact posted_forward _ _ _

/-! ## A collective reaches the engine (R302, R357) -/

theorem commCidx_nextCidx (x : BitVec 256) : commCidx (nextCidx x) = (commCidx x + 1) % 2 ^ 32 := by
  unfold nextCidx
  generalize commCidx x + 1 = n
  have hlow : x.toNat % 2 ^ 116 < 2 ^ 116 := Nat.mod_lt _ (by norm_num)
  have hidx : n % 2 ^ 32 < 2 ^ 32 := Nat.mod_lt _ (by norm_num)
  generalize x.toNat % 2 ^ 116 = low at hlow
  generalize n % 2 ^ 32 = idx at hidx
  have hfits : low + idx * 2 ^ 116 < 2 ^ 256 := by omega
  rw [commCidx, bitsOf, BitVec.toNat_ofNat, Nat.mod_eq_of_lt hfits]
  omega

/-- A `col` may reach the engine (R357, R383). -/
structure State.colMayArrive (s : State) (op : Nat) (e : EngOp) : Prop where
  ready : s.hub.ready.getLsbD 7 = true
  listOpen : ∀ i, s.commOf e.vf e.colId.toNat = some i → s.listClosed (s.comm i) = false
  first : ∀ q ∈ s.engs, q.1 < op → q.2.uid ≠ e.uid

theorem colArrive_passes {s : State} {op : Nat} {e : EngOp} (h : s.colMayArrive op e) :
    (!s.hub.ready.getLsbD 7 || (s.commOf e.vf e.colId.toNat).any (fun i => s.listClosed (s.comm i)) ||
      s.engs.any fun p => p.1 < op && p.2.uid = e.uid && p.2.kind.collective && p.2.st == .waiting) = false := by
  obtain ⟨hready, hopen, hfirst⟩ := h
  have hlist : (s.commOf e.vf e.colId.toNat).any (fun i => s.listClosed (s.comm i)) = false := by
    cases hcomm : s.commOf e.vf e.colId.toNat with
    | none => rfl
    | some i => exact hopen i hcomm
  have hothers : (s.engs.any fun p => p.1 < op && p.2.uid = e.uid && p.2.kind.collective && p.2.st == .waiting) = false := by
    rw [List.any_eq_false]
    intro p hp hall
    simp only [Bool.and_eq_true, decide_eq_true_eq] at hall
    exact hfirst p hp hall.1.1.1 hall.1.1.2
  rw [hready, hlist, hothers]
  rfl

/-- The part of a collective that a `col` with an entry is issued for, before it has a milepost (R302). -/
def State.colPart (s : State) (op : Nat) (e : EngOp) (i : Nat) (ms : List Nat) : Issued :=
  { op := op, id := e.colId.toNat, call := commCidx (s.comm i), entry := i, milepost := none, rank := commRank (s.comm i), chips := ms,
    asked := false, args := e.colMsg (commCidx (s.comm i)) 0 }

/-- A `col` stands at the hub with a call index, before its REQUEST is sent. -/
def State.colAtHub (s : State) (op : Nat) (e : EngOp) (i : Nat) (ms : List Nat) : State :=
  let t := s.updFab fun f => { f with comms := Map.set f.comms 0 i (nextCidx (s.comm i)) }
  ((t.updLaunch e.launch fun l => { l with colled := true }).setEng op { e with st := .atHub }).updFab fun f =>
    { f with issued := f.issued ++ [s.colPart op e i ms] }

theorem updLaunch_fields (s : State) (l : Nat) (f : Launch → Launch) : s.updLaunch l f = { s with launches := (s.updLaunch l f).launches } := by
  unfold State.updLaunch
  split <;> rfl

theorem colArrive_issues {s : State} {op : Nat} {e : EngOp} {i : Nat} {ms : List Nat} (h : s.colMayArrive op e)
    (hnotices : s.fab.notices = []) (hcheck : s.localCheck e = some (i, ms)) : s.colArrive op e =
      (s.colAtHub op e i ms).post (s.colAtHub op e i ms).seqP 3 (colBytes 1 (e.colMsg (commCidx (s.comm i)) 0)) := by
  have hheld : ((((s.updFab fun f => { f with comms := Map.set f.comms 0 i (nextCidx (s.comm i)) }).updLaunch e.launch fun l =>
      { l with colled := true }).setEng op { e with st := .atHub }).fab.notices.find? fun n =>
        n.msg.sameKey (e.colMsg (commCidx (s.comm i)) 0)) = none := by
    rw [updLaunch_fields]
    show s.fab.notices.find? _ = none
    rw [hnotices]
    rfl
  rw [State.colArrive, colArrive_passes h, if_neg Bool.false_ne_true, hcheck]
  dsimp only
  rw [hheld]
  rfl

/-- A `col` with an entry is issued with the entry's call index, which advances by one. -/
theorem colArrive_entry {s : State} {op : Nat} {e : EngOp} {i : Nat} {ms : List Nat} (h : s.colMayArrive op e)
    (hnotices : s.fab.notices = []) (hcheck : s.localCheck e = some (i, ms)) :
    (s.colArrive op e).eng? op = some { e with st := .atHub } ∧ (s.colArrive op e).fab.issued = s.fab.issued ++ [s.colPart op e i ms] ∧
      (s.colArrive op e).comm i = nextCidx (s.comm i) := by
  obtain ⟨ports, inbox, hub, mem, out, hpost⟩ :=
    posted_post (s.colAtHub op e i ms) (s.colAtHub op e i ms).seqP 3 (colBytes 1 (e.colMsg (commCidx (s.comm i)) 0))
  rw [colArrive_issues h hnotices hcheck, hpost]
  refine ⟨?_, ?_, ?_⟩
  · exact (eng?_setEng _ _ _ _).trans (if_pos rfl)
  · rw [State.colAtHub, updLaunch_fields]
    rfl
  · rw [State.colAtHub, updLaunch_fields]
    exact Map.get_set_same _ _ _ _

/-- A `col` without an entry ends with status 2. -/
theorem colArrive_ends {s : State} {op : Nat} {e x : EngOp} (h : s.colMayArrive op e) (hcheck : s.localCheck e = none)
    (hop : s.eng? op = some x) :
    s.colArrive op e = (s.forOp x.slot x.uid fun w => w.setS x.sd 2).endEng op x := by
  rw [State.colArrive, colArrive_passes h, if_neg Bool.false_ne_true, hcheck]
  show s.colStatus op 2 = _
  rw [State.colStatus, hop]
  rfl

/-! ## What each kind starts with (R152, R291, R292, R312) -/

/-- An operation that starts now. -/
def EngOp.startedAt (e : EngOp) (time : Nat) : EngOp := { e with sentAt := time }

/-- A copy of a run begins with the transfers of its pieces. -/
theorem beginCopy_run {e : EngOp} {src dst : Nat} (h : e.run = some (src, dst)) :
    e.beginCopy = { e with st := .active, xfers := xfersOf (chunks src dst e.c.toNat e.c.toNat) } := by
  unfold EngOp.run at h
  split at h
  case h_5 => cases h
  all_goals
    next hkind =>
      obtain ⟨rfl, rfl⟩ := Prod.mk.inj (Option.some.inj h)
      simp only [EngOp.beginCopy, hkind]

section
variable {s : State} {op : Nat} {e : EngOp}

theorem execEngineStart_notReady (hop : s.eng? op = some e) (hready : s.engReady e = false) : exec (.engineStart op) s = .next s := by
  show execEngineStart op s = _
  rw [execEngineStart, hop]
  dsimp only
  rw [if_pos (by simp [hready])]

theorem execEngineStart_ready (hop : s.eng? op = some e) (hwaiting : e.st = .waiting) (hready : s.engReady e = true) :
    exec (.engineStart op) s = .next (match e.kind with
      | .ldb sh _ word => s.setEng op ((e.startedAt s.time).beginLdb sh word)
      | .cpyTIn => s.setEng op (e.startedAt s.time).beginRead
      | .cpyTOut => s.setEng op (e.startedAt s.time).beginRead
      | .launch => s.setEng op (e.startedAt s.time).beginRead
      | .col _ _ _ => s.colArrive op (e.startedAt s.time)
      | _ => s.setEng op (e.startedAt s.time).beginCopy) := by
  show execEngineStart op s = _
  rw [execEngineStart, hop]
  dsimp only
  rw [if_neg (by simp [hready, hwaiting])]
  rfl

/-- A step that starts an operation by its transfers keeps the others. -/
theorem engsKept_start (x : EngOp) : (s.setEng op x).eng? op = some x ∧ engsKept s (s.setEng op x) op :=
  ⟨(eng?_setEng _ _ _ _).trans (if_pos rfl), engsKept_setEng rfl rfl rfl rfl op x⟩

theorem engineStart_run {src dst : Nat} (hop : s.eng? op = some e) (hwaiting : e.st = .waiting) (hready : s.engReady e = true)
    (hrun : e.run = some (src, dst)) : exec (.engineStart op) s = .next (s.setEng op (e.startedAt s.time).beginCopy) := by
  rw [execEngineStart_ready hop hwaiting hready]
  unfold EngOp.run at hrun
  split at hrun
  case h_5 => cases hrun
  all_goals
    next hkind => rw [hkind]

theorem engineStart_read (hop : s.eng? op = some e) (hwaiting : e.st = .waiting) (hready : s.engReady e = true)
    (hkind : e.kind = .cpyTIn ∨ e.kind = .cpyTOut ∨ e.kind = .launch) :
    exec (.engineStart op) s = .next (s.setEng op (e.startedAt s.time).beginRead) := by
  rw [execEngineStart_ready hop hwaiting hready]
  rcases hkind with h | h | h <;> rw [h]

theorem beginLdb_fields (e : EngOp) (sh : BShape) (word : Word) :
    let x := e.beginLdb sh word
    let p := Spec.ofWord word
    x.st = .active ∧ x.kind = e.kind ∧ (matMisaligned p.layout e.a.toNat p.lineStride = true → x.fault = some (0x0202, e.a)) ∧
      (matMisaligned p.layout e.a.toNat p.lineStride = false → x.fault = e.fault) := by
  dsimp only
  unfold EngOp.beginLdb
  dsimp only
  split
  · next hbad => exact ⟨rfl, rfl, fun _ => rfl, fun h => absurd hbad (ne_true_of_eq_false h)⟩
  · next hgood => exact ⟨rfl, rfl, fun h => absurd h hgood, fun _ => rfl⟩

/-- A `mat.ldb` with an aligned base has a transfer for the sector of each element byte of its columns. -/
theorem beginLdb_covers {sh : BShape} {word : Word} (haligned : matMisaligned (Spec.ofWord word).layout e.a.toNat (Spec.ofWord word).lineStride = false)
    {j : Nat} (hj : j < shapeN sh (8 < fmtBits (fmtOf (Spec.ofWord word).enc))) {a : Nat} (ha : a ∈ (colAddrs e (Spec.ofWord word) sh j).1) :
    ∃ y ∈ (e.beginLdb sh word).xfers, ∃ p ∈ y.pieces, p.src = a / 32 * 32 ∧ p.len = 32 := by
  have hsector : a / 32 ∈ sectorsOf (((List.range (shapeN sh (8 < fmtBits (fmtOf (Spec.ofWord word).enc)))).map fun j =>
      colAddrs e (Spec.ofWord word) sh j).flatMap Prod.fst) :=
    (mem_sectorsOf _ _).2 ⟨a, List.mem_flatMap.2 ⟨_, List.mem_map.2 ⟨j, List.mem_range.2 hj, rfl⟩, ha⟩, rfl⟩
  rw [EngOp.beginLdb]
  dsimp only
  rw [haligned, if_neg Bool.false_ne_true]
  exact ⟨_, List.mem_map.2 ⟨_, List.mem_append_left _ hsector, rfl⟩, _, List.mem_singleton.2 rfl, rfl, rfl⟩

/-- A `col` without an entry ends with status 2 in its register, and its counter drops (R302, R357). -/
theorem colArrive_none (hop : s.eng? op = some e) (harrives : s.colMayArrive op e) (hcheck : s.localCheck e = none) (htxb : e.txb = none)
    (hfault : e.fault = none) (hnone : s.noneEnded) (hlive : (s.warp e.slot).live = true) (huid : (s.warp e.slot).uid = e.uid) :
    ∃ t, s.colArrive op (e.startedAt s.time) = t ∧ s.engGone t op e ∧ (t.warp e.slot).s e.sd = 2 ∧ t.fab.issued = s.fab.issued := by
  have hends : s.colArrive op (e.startedAt s.time) = (s.updWarp e.slot fun w => w.setS e.sd 2).endEng op e := by
    rw [← forOp_there hlive huid]
    exact colArrive_ends ⟨harrives.ready, harrives.listOpen, harrives.first⟩ hcheck hop
  have hslot : (s.updWarp e.slot fun w => w.setS e.sd 2).warp e.slot = (s.warp e.slot).setS e.sd 2 := State.warp_updWarp_same _ _ _
  have hnone' : (s.updWarp e.slot fun w => w.setS e.sd 2).noneEnded := hnone
  have hplain := endEng_plain hnone' op htxb hfault
  have hgone := (endEng_gone hnone' op e).1
  have hreleased := released_sameButL1 (s.updWarp e.slot fun w => w.setS e.sd 2) op e
  generalize (s.updWarp e.slot fun w => w.setS e.sd 2).released op e = r at hreleased hplain
  have hwarp : r.warp e.slot = (s.warp e.slot).setS e.sd 2 := by rw [hreleased]; exact hslot
  have hfab : r.fab = s.fab := by rw [hreleased]; rfl
  have hclosed := warp_closes_there (s := r) (slot := e.slot) (uid := e.uid) (by rw [hwarp]; exact hlive) (by rw [hwarp]; exact huid)
    e.launch e.dc none
  have hsame := closes_sameButRuns r e.slot e.uid e.launch e.dc none
  rw [← hplain] at hclosed hsame
  obtain ⟨hleft, hcount, hlocks⟩ := hgone
  refine ⟨_, hends, ⟨hleft, fun hl hu i => ?_, hlocks⟩, ?_, ?_⟩
  · have h := hcount (by rw [hslot]; exact hl) (by rw [hslot]; exact hu) i
    rw [hslot] at h
    exact h
  · rw [hclosed, hwarp, Warp.closed, dec_fields]
    exact Warp.s_setS_same _ _ _
  · rw [hsame]
    exact congrArg Fabric.issued hfab

end

/-- Settles O39, kind by kind of the operation that starts. -/
theorem engineStarts : Obligations.EngineStarts := by
  unfold Obligations.EngineStarts
  refine fun s op e hop hwaiting => ⟨execEngineStart_notReady hop, fun src dst hready hrun => ?_, fun hready hkind => ?_,
    fun sh bank word hready hkind => ?_, fun kind ty rop hready hkind hhub hopen hfirst htxb hfault hnone hnotices => ?_⟩
  · have hexec := engineStart_run hop hwaiting hready hrun
    rw [beginCopy_run (e := e.startedAt s.time) hrun] at hexec
    obtain ⟨heng, hkept⟩ := engsKept_start (s := s) (op := op)
      { e.startedAt s.time with st := .active, xfers := xfersOf (chunks src dst e.c.toNat e.c.toNat) }
    exact ⟨_, _, hexec, heng, rfl, rfl, rfl, movesRun_chunks src dst _, hkept⟩
  · obtain ⟨heng, hkept⟩ := engsKept_start (s := s) (op := op) (e.startedAt s.time).beginRead
    exact ⟨_, _, engineStart_read hop hwaiting hready hkind, heng, rfl, rfl, rfl, hkept⟩
  · obtain ⟨heng, hkept⟩ := engsKept_start (s := s) (op := op) ((e.startedAt s.time).beginLdb sh word)
    have hexec := execEngineStart_ready hop hwaiting hready
    rw [hkind] at hexec
    obtain ⟨hst, hsame, hbad, hgood⟩ := beginLdb_fields (e.startedAt s.time) sh word
    exact ⟨_, _, hexec, heng, hst, hsame, hkept, hbad, fun haligned => ⟨hgood haligned, fun j hj a ha =>
      beginLdb_covers (e := e.startedAt s.time) haligned hj ha⟩⟩
  · have hexec := execEngineStart_ready hop hwaiting hready
    rw [hkind] at hexec
    have harrives : s.colMayArrive op e := ⟨hhub, hopen, hfirst⟩
    refine ⟨fun hcheck hlive huid => ?_, fun i ms hcheck => ?_⟩
    · obtain ⟨t, ht, hends⟩ := colArrive_none hop harrives hcheck htxb hfault hnone hlive huid
      exact ⟨t, hexec.trans (congrArg Host.Outcome.next ht), hends⟩
    · obtain ⟨heng, hissued, hcomm⟩ := colArrive_entry (e := e.startedAt s.time) ⟨hhub, hopen, hfirst⟩ hnotices hcheck
      refine ⟨_, _, _, hexec, heng, rfl, hissued, rfl, rfl, rfl, rfl, rfl, ?_⟩
      rw [hcomm, commCidx_nextCidx]

end Sys2Proof.Machine
end

section
/-! PROOFS. The end of engine operations: completion and credit, faults, descriptors and the entries of a `launch` (R154, R246, R247, R287,
R289 to R291, R312, R414). -/

namespace Sys2Proof.Machine

/-! ## Barrier objects as bytes (R245) -/

/-- The fields of an object as its sixteen bytes hold them. -/
def Txb.small (x : Txb) : Prop := x.tgtb < 2 ^ 32 ∧ x.arrb < 2 ^ 32 ∧ x.gen < 2 ^ 32 ∧ x.expt < 2 ^ 16 ∧ x.arrt < 2 ^ 16

theorem small_txbRead (s : State) (b j off : Nat) : (s.txbRead b j off).small :=
  ⟨Nat.mod_lt _ (by norm_num), Nat.mod_lt _ (by norm_num), Nat.mod_lt _ (by norm_num), Nat.mod_lt _ (by norm_num), Nat.mod_lt _ (by norm_num)⟩

theorem natOf_append (xs ys : List Byte) : natOf (xs ++ ys) = natOf xs + 256 ^ xs.length * natOf ys := by
  induction xs with
  | nil => simp [natOf]
  | cons x xs ih =>
    rw [List.cons_append, natOf, ih, natOf, List.length_cons, Nat.pow_succ]
    ring

theorem length_bytes (x : Txb) : x.bytes.length = 16 := by simp [Txb.bytes, length_bytesOf]

/-- The fields read from the bytes of an object are its own. -/
theorem natOf_bytes {x : Txb} (h : x.small) :
    natOf x.bytes = x.tgtb + 2 ^ 32 * x.arrb + 2 ^ 64 * x.gen + 2 ^ 96 * x.expt + 2 ^ 112 * x.arrt := by
  obtain ⟨htgtb, harrb, hgen, hexpt, harrt⟩ := h
  simp only [Txb.bytes, natOf_append, natOf_bytesOf, length_bytesOf, List.length_append]
  rw [Nat.mod_eq_of_lt (by omega), Nat.mod_eq_of_lt (by omega), Nat.mod_eq_of_lt (by omega), Nat.mod_eq_of_lt (by omega),
    Nat.mod_eq_of_lt (by omega)]
  ring

/-- An object read back as it was written. -/
theorem txbRead_txbWrite (s : State) (b j off : Nat) {x : Txb} (h : x.small) : (s.txbWrite b j off x).txbRead b j off = x := by
  have hscratch : (s.txbWrite b j off x).scratch = (s.spPoke b j off x.bytes).scratch := scratch_spStore s b j _
  have hbytes : (s.txbWrite b j off x).spRead b j off 16 = x.bytes := by
    refine List.ext_getElem (by simp [State.spRead, length_bytes]) fun i hi hi' => ?_
    rw [length_bytes] at hi'
    simp only [State.spRead, List.getElem_map, List.getElem_range, State.spByte]
    rw [hscratch, get_spPoke, spKey_add, length_bytes, if_pos (by omega), Nat.add_sub_cancel_left, List.getD_eq_getElem]
  rw [State.txbRead, hbytes, natOf_bytes h]
  obtain ⟨htgtb, harrb, hgen, hexpt, harrt⟩ := h
  obtain ⟨tgtb, arrb, gen, expt, arrt⟩ := x
  simp only [bitsOf, Txb.mk.injEq] at *
  omega

theorem txbRead_congr {s t : State} (h : t.scratch = s.scratch) (b j off : Nat) : t.txbRead b j off = s.txbRead b j off := by
  unfold State.txbRead State.spRead State.spByte
  rw [h]

/-- An update leaves the object as R247 says. -/
theorem txbRead_txbUpdate (s : State) (b j off : Nat) {x : Txb} (h : x.small) : (s.txbUpdate b j off x).txbRead b j off = txbNext x := by
  have hnext : (⟨0, 0, (x.gen + 1) % 2 ^ 32, x.expt, 0⟩ : Txb).small :=
    ⟨by norm_num, by norm_num, Nat.mod_lt _ (by norm_num), h.2.2.2.1, by norm_num⟩
  unfold State.txbUpdate txbNext
  by_cases hdone : x.arrb = x.tgtb ∧ x.arrt = x.expt
  · rw [if_pos (by simpa using hdone), if_pos hdone, txbRead_congr (txbRelease_kept _ b j off).2]
    exact txbRead_txbWrite s b j off hnext
  · rw [if_neg (by simpa using hdone), if_neg hdone]
    exact txbRead_txbWrite s b j off h

/-! ## Completion (R154, R247, R289) -/

section
variable {s : State} {op : Nat} {e : EngOp}

theorem engineOperationComplete_ends (hop : s.eng? op = some e) (hkind : e.kind.copies = true) (hends : e.fault.isSome = true ∨ e.allDone = true) :
    exec (.engineOperationComplete op) s = .next (s.endEng op e) := by
  show execEngineOperationComplete op s = _
  rw [execEngineOperationComplete, hop]
  dsimp only
  rw [if_pos (by simpa [hkind] using hends)]

/-- What a plain end leaves alone. -/
theorem endEng_plain_kept (hnone : s.noneEnded) (op : Nat) (htxb : e.txb = none) (hfault : e.fault = none) :
    s.endEng op e = { s with warps := (s.endEng op e).warps, launches := s.launches, engs := (s.endEng op e).engs,
                             cores := (s.endEng op e).cores, l1 := (s.endEng op e).l1 } := by
  have hforOp : s.endEng op e = { s.released op e with warps := (s.endEng op e).warps } := by
    rw [endEng_plain hnone op htxb hfault]
    exact forOp_fields (s.released op e) _ _ _
  have hreleased := released_sameButL1 s op e
  unfold State.sameButL1 at hreleased
  generalize s.released op e = r at hreleased hforOp
  rw [hforOp, hreleased]
  rfl

/-- An operation whose engine fault is recorded credits nothing (R289). -/
theorem endEng_faulted (hnone : s.noneEnded) (op : Nat) {f : BitVec 16 × DWord} (hfault : e.fault = some f) :
    s.endEng op e = (s.released op e).closes e.slot e.uid e.launch e.dc (some (e.deferred f.1 f.2)) := by
  have hcredit : (s.released op e).credited e = (s.released op e, some f) := by simp only [State.credited, hfault]
  rw [endEng_closes hnone, hcredit]
  rfl

theorem endEng_defers (hnone : s.noneEnded) (op : Nat) {f : BitVec 16 × DWord} (hfault : e.fault = some f)
    (hlive : (s.warp e.slot).live = true) (huid : (s.warp e.slot).uid = e.uid) :
    (s.endEng op e).scratch = s.scratch ∧
      ((s.endEng op e).warp e.slot).deferred = (s.warp e.slot).deferred ++ [e.deferred f.1 f.2] := by
  rw [endEng_faulted hnone op hfault]
  have hreleased := released_sameButL1 s op e
  generalize s.released op e = r at hreleased
  have hwarp : r.warp e.slot = s.warp e.slot := by rw [hreleased]; rfl
  have hscratch : r.scratch = s.scratch := by rw [hreleased]; rfl
  rw [warp_closes_there (by rw [hwarp]; exact hlive) (by rw [hwarp]; exact huid), hwarp, closes_sameButRuns r]
  exact ⟨hscratch, rfl⟩

/-- The credit of a completed copy joins its barrier object (R246, R247). -/
theorem endEng_credits (hnone : s.noneEnded) (op : Nat) {b j off : Nat} (hfault : e.fault = none) (htxb : e.txb = some (b, j, off))
    (hroom : (s.txbRead b j off).arrb + e.credit < 2 ^ 32) :
    (s.endEng op e).txbRead b j off = txbNext { s.txbRead b j off with arrb := (s.txbRead b j off).arrb + e.credit } := by
  have hreleased := released_sameButL1 s op e
  have hclosed := endEng_closes hnone op e
  generalize s.released op e = r at hreleased hclosed
  have hread : r.txbRead b j off = s.txbRead b j off := txbRead_congr (by rw [hreleased]; rfl) b j off
  have hsmall : ({ s.txbRead b j off with arrb := (s.txbRead b j off).arrb + e.credit } : Txb).small := by
    obtain ⟨htgtb, -, hgen, hexpt, harrt⟩ := small_txbRead s b j off
    exact ⟨htgtb, hroom, hgen, hexpt, harrt⟩
  have hcredit : r.txbCredit b j off e.credit =
      some (r.txbUpdate b j off { s.txbRead b j off with arrb := (s.txbRead b j off).arrb + e.credit }) := by
    rw [State.txbCredit, hread]
    exact if_neg (by omega)
  have hscratch : (r.credited e).1.scratch =
      (r.txbUpdate b j off { s.txbRead b j off with arrb := (s.txbRead b j off).arrb + e.credit }).scratch := by
    simp only [State.credited, hfault, State.creditEng, htxb, hcredit]
    split <;> rfl
  rw [← txbRead_txbUpdate r b j off hsmall, ← txbRead_congr hscratch, hclosed]
  refine txbRead_congr ?_ b j off
  rw [closes_sameButRuns (r.credited e).1]

/-! ## Descriptors (R290, R291) -/

/-- A tensor copy may have its descriptor read: its snapshot has come. -/
structure State.readsDescriptor (s : State) (op : Nat) (e : EngOp) : Prop where
  op : s.eng? op = some e
  kind : e.kind = .cpyTIn ∨ e.kind = .cpyTOut
  st : e.st = .descriptor
  fault : e.fault = none
  come : ∀ x ∈ e.xfers, x.done = true

theorem tensorDescriptorRead_goes (h : s.readsDescriptor op e) :
    (e.st != .descriptor || e.fault.isSome || !(e.xfers.all fun x => x.done) || !(e.kind == .cpyTIn || e.kind == .cpyTOut)) = false := by
  obtain ⟨-, hkind, hst, hfault, hcome⟩ := h
  have hall : (e.xfers.all fun x => x.done) = true := List.all_eq_true.2 hcome
  rw [hst, hfault, hall]
  rcases hkind with h | h <;> rw [h] <;> rfl

theorem tensorDescriptorRead_breaks (h : s.readsDescriptor op e) (hbad : descOk e.snapshot e.coords e.b.toNat = false) :
    exec (.tensorDescriptorRead op) s = .next (s.setEng op { e with fault := some (0x0A03, e.a) }) := by
  show execTensorDescriptorRead op s = _
  rw [execTensorDescriptorRead, h.op]
  dsimp only
  rw [tensorDescriptorRead_goes h, if_neg Bool.false_ne_true, hbad]
  rfl

/-- No range of an operation is blocked where all ranges of its core are its own. -/
theorem rangeBlocked_own {core : Nat} {r : LockRange} (hown : ∀ x ∈ (s.core core).locks, x.op = r.op) : s.rangeBlocked core r = false := by
  rw [State.rangeBlocked, List.any_eq_false]
  intro x hx
  simp [hown x hx]

/-- The operation whose descriptor lets its transfers begin. -/
def EngOp.windowed (e : EngOp) : EngOp :=
  { e with st := .active, credit := windowBytes e.snapshot e.coords,
           xfers := xfersOf (windowPieces e.snapshot e.coords e.b.toNat e.kind.outward), buf := [] }

/-- The ranges of the window stand in place of the two empty ones (R153). -/
def State.windowLocked (s : State) (op : Nat) (e : EngOp) : State :=
  s.setRanges op e (e.b.toNat, e.b.toNat + windowBytes e.snapshot e.coords)
    (windowRange (windowPieces e.snapshot e.coords e.b.toNat e.kind.outward) e.kind.outward) e.kind.outward

theorem tensorDescriptorRead_begins (h : s.readsDescriptor op e) (hok : descOk e.snapshot e.coords e.b.toNat = true)
    (hfits : e.b.toNat + windowBytes e.snapshot e.coords ≤ s.sliceOf e.block) (hown : ∀ r ∈ (s.core e.core).locks, r.op = op) :
    exec (.tensorDescriptorRead op) s = .next ((s.windowLocked op e).setEng op e.windowed) := by
  have hfree : ∀ rs : List LockRange, (∀ r ∈ rs, r.op = op) → (rs.any fun r => s.rangeBlocked e.core r) = false := fun rs hrs =>
    List.any_eq_false.2 fun r hr => by
      rw [rangeBlocked_own fun x hx => (hown x hx).trans (hrs r hr).symm]
      exact Bool.false_ne_true
  show execTensorDescriptorRead op s = _
  rw [execTensorDescriptorRead, h.op]
  dsimp only
  rw [tensorDescriptorRead_goes h, if_neg Bool.false_ne_true, hok, if_neg (by decide), if_neg (by omega), hfree, if_neg Bool.false_ne_true]
  · rfl
  · intro r hr
    rcases List.mem_cons.1 hr with rfl | hr
    · rfl
    · rw [List.mem_singleton.1 hr]

/-! ## Entries of a `launch` (R312) -/

/-- The launch that an operation appends an entry for. -/
def State.launchOf (s : State) (e : EngOp) (p : Launch) : Launch :=
  newLaunch p.queue (s.queue p.queue).rsv p.vf p.asid e.a e.snapshot (some e.launch)

/-- A queue with the entry of a launch appended. -/
def Queue.append (q : Queue) (lid : Nat) : Queue :=
  { q with rsv := q.rsv + 1, used := q.used + 1, inner := q.inner ++ [(q.rsv.toNat, lid)], rung := true }

/-- The state with the entry appended to its queue, before its operation ends. -/
def State.appended (s : State) (e : EngOp) (p : Launch) : State :=
  (({ s with nextId := s.nextId + 1 } : State).setLaunch s.nextId (s.launchOf e p)).setQueue p.queue ((s.queue p.queue).append s.nextId)

theorem launchEntryAppend_appends {p : Launch} (hop : s.eng? op = some e) (hkind : e.kind = .launch) (hfault : e.fault = none)
    (hst : e.st = .descriptor) (hcome : ∀ x ∈ e.xfers, x.done = true) (hparent : s.launch? e.launch = some p)
    (hasid : (s.launchOf e p).asidF = p.asid) (hvf : (s.launchOf e p).vfF = p.vf) (hroom : (s.queue p.queue).full = false) :
    exec (.launchEntryAppend op) s = .next ((s.appended e p).endEng op e) := by
  have hall : (e.xfers.all fun x => x.done) = true := List.all_eq_true.2 hcome
  have hchecked : ¬((s.launchOf e p).asidF ≠ p.asid || (s.launchOf e p).vfF ≠ p.vf) = true := by simp [hasid, hvf]
  show execLaunchEntryAppend op s = _
  rw [execLaunchEntryAppend, hop]
  dsimp only
  rw [hkind, hfault, hst, hall, hparent]
  exact congrArg Host.Outcome.next ((if_neg hchecked).trans (if_neg (ne_true_of_eq_false hroom)))

end

/-- Settles O41, by the way in which each operation ends or goes on. -/
theorem enginesEnd : Obligations.EnginesEnd := by
  unfold Obligations.EnginesEnd
  refine ⟨fun s op e hop hnone => ⟨fun hkind hdone hfault htxb => ?_, fun b j off hkind hdone hfault htxb hroom => ?_,
    fun code addr hkind hfault hlive huid => ?_, fun p hkind hfault htxb hst hcome hparent hasid hvf hroom => ?_⟩,
    fun s op e hop hkind hst hfault hcome => ⟨fun hbad => ?_, fun hok hfits hown => ?_⟩⟩
  · obtain ⟨hgone, hpeek⟩ := endEng_gone hnone op e
    have hkept := endEng_plain_kept hnone op htxb hfault
    exact ⟨_, engineOperationComplete_ends hop hkind (.inr hdone), hgone, by rw [hkept], by rw [hkept], hpeek⟩
  · obtain ⟨hgone, hpeek⟩ := endEng_gone hnone op e
    exact ⟨_, engineOperationComplete_ends hop hkind (.inr hdone), hgone, hpeek, endEng_credits hnone op hfault htxb hroom⟩
  · obtain ⟨hgone, -⟩ := endEng_gone hnone op e
    obtain ⟨hscratch, hdeferred⟩ := endEng_defers hnone op hfault hlive huid
    exact ⟨_, engineOperationComplete_ends hop hkind (.inl (by rw [hfault]; rfl)), hgone, hscratch, hdeferred⟩
  · have hfull : (s.queue p.queue).full = false := decide_eq_false (Nat.not_le.2 hroom)
    have hnone' : (s.appended e p).noneEnded := hnone
    obtain ⟨hgone, -⟩ := endEng_gone hnone' op e
    have hkept := endEng_plain_kept hnone' op htxb hfault
    have hqueue : (s.appended e p).queue p.queue = (s.queue p.queue).append s.nextId := Map.get_set_same _ _ _ _
    have hlaunch : (s.appended e p).launch? s.nextId = some (s.launchOf e p) := Map.find?_put_same _ _ _
    have hqueue' : ((s.appended e p).endEng op e).queue p.queue = (s.queue p.queue).append s.nextId := by rw [hkept]; exact hqueue
    have hlaunch' : ((s.appended e p).endEng op e).launch? s.nextId = some (s.launchOf e p) := by rw [hkept]; exact hlaunch
    refine ⟨_, launchEntryAppend_appends hop hkind hfault hst hcome hparent hasid hvf hfull, hgone, hlaunch', ?_⟩
    rw [hqueue']
    exact ⟨rfl, rfl, rfl, rfl⟩
  · obtain ⟨heng, hkept⟩ := engsKept_start (s := s) (op := op) { e with fault := some (0x0A03, e.a) }
    exact ⟨_, _, tensorDescriptorRead_breaks ⟨hop, hkind, hst, hfault, hcome⟩ hbad, heng, rfl, hkept⟩
  · refine ⟨_, _, tensorDescriptorRead_begins ⟨hop, hkind, hst, hfault, hcome⟩ hok hfits hown, (eng?_setEng _ _ _ _).trans (if_pos rfl), hfault,
      rfl, rfl, engsKept_setEng rfl rfl rfl rfl op _, fun y hy => (fresh_xfersOf hy).1⟩

end Sys2Proof.Machine
end
